-- ==== Sys2Proof/Word.lean ====
section
/-! DEFINITION. The words of the block: 32-bit registers (R8), bytes, and the 512-bit payload of one flit (R48). -/

namespace Sys2Proof

/-- A register or a configuration data word (R8). -/
abbrev Word := BitVec 32

/-- A byte of memory; the byte at the lowest address holds bits [7:0] (R7). -/
abbrev Byte := BitVec 8

/-- The payload of a flit: a header unit or a data unit (R48). -/
abbrev Payload := BitVec 512

end Sys2Proof
end

