-- ==== Sys2Proof/Syntax.lean ====
section
/-! DEFINITION. The commands: one constructor of `Instr` per row of spec/opcode_table.json, with the row's operands.
A row that is a register write takes the path the access comes by (R400) and the word written; a row that is an event
of the hardware names the unit it happens at, and what the surroundings bring to it (a wire error, the outcome of a
PCIe or stack operation, a captured tag). Operand types hold only what exists, so that most ill-formed commands
cannot be written; `WellFormed` says the rest. -/

namespace Sys2Proof

/-- A logical cell (x, y), 0-239 each (R17, R24). -/
structure Cell where
  x : Fin 240
  y : Fin 240
  deriving DecidableEq, Repr

/-- A gateway port: kind, side (0 N, 1 E, 2 S, 3 W) and index within side and kind (R34, R297). -/
inductive GwId where
  | mem (side : Fin 4) (i : Fin 12)
  | opt (side : Fin 4) (i : Fin 16)
  | host (side : Fin 4) (i : Fin 2)
  deriving DecidableEq, Repr

/-- An optical link: side and link index (R301). -/
structure OptId where
  side : Fin 4
  i : Fin 16
  deriving DecidableEq, Repr

/-- A memory port: side and index (R34). -/
structure MemId where
  side : Fin 4
  i : Fin 12
  deriving DecidableEq, Repr

/-- A unit that builds and takes packets: a cell's NI or a gateway port (R81, R274). -/
inductive UnitRef where
  | ni (c : Cell)
  | gw (g : GwId)
  deriving DecidableEq, Repr

/-- One end of a link that runs the retry protocol (R46, R65): a router port, the NI at L, the combine unit at C, the
band side of a G port at attachment cell j of a gateway (R271), or the gateway's end of an optical link (R292). -/
inductive EndRef where
  | router (c : Cell) (p : Fin 7)
  | ni (c : Cell)
  | cmb (c : Cell)
  | gw (g : GwId) (j : Fin 16)
  | optical (o : OptId)
  deriving DecidableEq, Repr

/-- The path by which a configuration access comes (R400): the management port, the TAP, a host's BAR, the local
register port of a cell's NI. -/
inductive Path where
  | mgmt (tag : Fin 32)
  | tap
  | host (p : Fin 8)
  | loc (c : Cell)
  deriving DecidableEq, Repr

/-- A configuration address {domain, cell, block, offset} (R421). -/
structure CfgAddr where
  domain : Fin 64
  cell : Fin 2048
  block : Fin 32
  off : Fin 65536
  deriving DecidableEq, Repr

/-- R282: how a read of host memory ends: that of a READ_REQ has its bytes or has failed, or that of a descriptor's source bytes
has failed. -/
inductive HostReadEnd where
  | done
  | failed
  | source
  deriving DecidableEq, Repr

/-- What SECDED found in the word a step reads (R76, R174, R383): no error, a corrected one, an uncorrectable one. -/
inductive Ecc where
  | ok
  | ce
  | ue
  deriving DecidableEq, Repr

/-- Whose welt tables swap together (R131, R295): those of a field, or those of an optical gateway. -/
inductive WeltDom where
  | field (f : Fin 48)
  | gw (o : OptId)
  deriving DecidableEq, Repr

/-- The edge a combine entry sends on (R175, R178): up to its parent or to the entry one level up, down to child k or
(k = 6) to the entry one level below in its cell, one multicast to the members of a DMC rectangle, or by unicast to
one of those members. -/
inductive Edge where
  | up
  | down (k : Fin 7)
  | dmc
  | member (c : Cell)
  deriving DecidableEq, Repr

/-- An optical codeword as the FEC decoder hands it over (R286, R287, R289): its lane and the number of symbols it
corrected, and what it holds. -/
inductive Codeword where
  | framed (lane : Fin 8) (corrected : Fin 16) (msg : BitVec 5140)
  | laneTest (lane : Fin 8) (corrected : Fin 16) (msg : BitVec 5140)
  | uncorrectable (lane : Fin 8)
  deriving DecidableEq, Repr

/-- The commands, in the order of spec/opcode_table.json. -/
inductive Instr where
  | registerWrite (p : Path) (a : CfgAddr) (v : Word)
  | rcFieldRead (p : Path) (a : CfgAddr)
  | remapLookup (p : Path) (f : Fin 48) (v : Word)
  | waferIdWrite (p : Path) (v : Word)
  | flitReceive (e : EndRef) (flips : BitVec 568)
  | nakTimeout (e : EndRef)
  | ackTimeout (e : EndRef)
  | headerAllocate (c : Cell) (p : Fin 7) (v : Fin 8)
  | flitSend (e : EndRef) (ecc : Ecc)
  | portRetrain (p : Path) (c : Cell) (port : Fin 7)
  | portPeerDown (c : Cell) (port : Fin 7)
  | trainFlitReceive (e : EndRef) (flips : BitVec 568)
  | packetInject (e : EndRef)
  | write (t : UnitRef) (ecc : Ecc)
  | readReq (t : UnitRef)
  | signal (t : UnitRef) (ecc : Ecc)
  | streamReq (t : UnitRef) (ecc : Ecc)
  | streamRel (t : UnitRef) (ecc : Ecc)
  | ack (t : UnitRef)
  | readData (t : UnitRef)
  | streamRsp (t : UnitRef)
  | responseTimeout (u : UnitRef) (tag : Fin 1024)
  | quarantineEnd (u : UnitRef) (tag : Fin 1024)
  | streamRelSend (c : Cell) (s : Fin 64)
  | routePathWrite (p : Path) (u : UnitRef) (entry : Fin 64) (k : Fin 8) (w2 : Word)
  | epochSwitch (p : Path) (u : UnitRef)
  | cellEpochWrite (p : Path) (c : Cell) (v : Word)
  | portEnableWrite (p : Path) (c : Cell) (v : Word)
  | portDisableApply (c : Cell) (port : Fin 7)
  | lastFlush (p : Path) (c : Cell) (v : Word)
  | weltFlitReceive (e : EndRef) (flips : BitVec 568)
  | weltFlitSend (e : EndRef)
  | weltSwap (w : WeltDom)
  | warmArm (p : Path) (w : WeltDom) (v : Word)
  | warmCancel (p : Path) (w : WeltDom) (v : Word)
  | circuitOpen (c : Cell) (q : Fin 16)
  | circuitOpenTime (c : Cell) (q : Fin 16)
  | circuitClose (c : Cell) (q : Fin 16)
  | circuitCloseSend (c : Cell) (lidx : Fin 16)
  | circuit (t : UnitRef)
  | shaperRefill (f : Fin 48)
  | meterUpdate (g : GwId)
  | cellHwmClear (p : Path) (c : Cell) (port : Fin 7)
  | niHwmClr (p : Path) (c : Cell) (v : Word)
  | cmbEntryLoad (p : Path) (c : Cell) (e : Fin 32) (w0 : Word)
  | coll (c : Cell) (q : Fin 16)
  | chunkRead (c : Cell) (e : Fin 32)
  | dataChunk (c : Cell) (ecc : Ecc)
  | creditChunk (c : Cell)
  | abortChunk (c : Cell)
  | tokenChunk (c : Cell)
  | mapChunk (c : Cell)
  | chunkCombine (c : Cell) (e : Fin 32) (ecc : Ecc)
  | chunkSend (c : Cell) (e : Fin 32) (edge : Edge) (ecc : Ecc)
  | progressTimeout (c : Cell) (e : Fin 32)
  | cmbSwAbort (p : Path) (c : Cell) (v : Word)
  | finderTopPass (c : Cell) (e : Fin 32)
  | alltoallvWrites (c : Cell) (e : Fin 32)
  | cmbLostWafer (p : Path) (c : Cell) (v : Word)
  | copySparse (c : Cell) (q : Fin 16)
  | packedHeaderWrite (c : Cell) (q : Fin 16)
  | sqDoorbell (p : Path) (u : UnitRef) (r : Fin 64) (d : Word)
  | cqDoorbell (p : Path) (u : UnitRef) (r : Fin 64) (d : Word)
  | descriptorFetch (u : UnitRef) (ok : Bool)
  | completionWriteFail (u : UnitRef) (r : Fin 64)
  | nop (u : UnitRef) (r : Fin 64)
  | copy (u : UnitRef) (r : Fin 64)
  | fence (c : Cell) (q : Fin 16)
  | signalDescriptor (u : UnitRef) (r : Fin 64)
  | streamOpen (c : Cell) (q : Fin 16)
  | streamRelease (c : Cell) (q : Fin 16)
  | waitTime (u : UnitRef) (r : Fin 64)
  | waitTimeReached (u : UnitRef) (r : Fin 64)
  | ringEnable (p : Path) (u : UnitRef) (cq : Bool) (r : Fin 64) (v : Word)
  | ringDisable (p : Path) (u : UnitRef) (cq : Bool) (r : Fin 64) (v : Word)
  | ringAbort (p : Path) (u : UnitRef) (r : Fin 64) (v : Word)
  | localPortAccess (c : Cell) (wr : Bool) (off : BitVec 16) (v : Word)
  | mailboxCommit (p : Path) (h : Fin 8) (m : Fin 16) (tag : Word)
  | mailboxReceive (p : Path) (h : Fin 8) (m : Fin 16)
  | memSizeWrite (p : Path) (m : MemId) (v : Word)
  | memWriteCommit (m : MemId) (ok : Bool) (refused : BitVec 16)
  | memReadDone (m : MemId) (ok : Bool) (refused : BitVec 16)
  | hostWriteAccepted (h : Fin 8)
  | hostReadDone (h : Fin 8) (how : HostReadEnd)
  | barAccess (h : Fin 8) (bar2 : Bool) (off : BitVec 18) (wr : Bool) (full : Bool) (atomic : Bool) (v : Word)
  | pcieLinkChange (h : Fin 8) (up : Bool) (flit : Bool) (speed : Fin 3) (width : Fin 17) (bme : Bool) (mps : Fin 3) (mrrs : Fin 6)
  | functionLevelReset (h : Fin 8)
  | codewordReceive (o : OptId) (cw : Codeword)
  | laneTestStart (o : OptId) (anyLock : Bool)
  | laneFault (o : OptId) (lane : Fin 8) (lostLock : Bool) (anyLock : Bool)
  | optRetrain (p : Path) (o : OptId) (v : Word)
  | optDisable (p : Path) (o : OptId) (v : Word)
  | optExpectWrite (p : Path) (o : OptId) (v : Word)
  | opticalIngress (o : OptId)
  | admissionProbe (o : OptId)
  | probeTimeout (o : OptId)
  | discoveryTimeout (o : OptId)
  | holdTimeout (o : OptId)
  | niOffwLost (p : Path) (c : Cell) (v : Word)
  | merAdjWrite (p : Path) (v : Word)
  | merSet (p : Path) (v : Word)
  | merStep (p : Path) (v : Word)
  | merSnap (p : Path) (v : Word)
  | holdoverExpire
  | mclkLost
  | timestampCapture (src : Fin 3) (tag : Fin 16)
  | tsqPop (p : Path) (v : Word)
  | ppsOutPulse
  | ppsPulseEnd
  | timePulse
  | pulseMissing (k : Fin 53)
  | timeExchangeStart (o : OptId)
  | timeReq (o : OptId)
  | timeRsp (o : OptId)
  | exchangeTimeout (o : OptId)
  | optTimeStatRead (p : Path) (o : OptId)
  | pllCoast (k : Fin 60)
  | clkRelock (p : Path) (k : Fin 60) (v : Word)
  | pllRelocked (k : Fin 60)
  | powerDown (p : Path) (d : Fin 53) (v : Word)
  | powerDeepen (p : Path) (d : Fin 53) (v : Word)
  | powerUp (p : Path) (d : Fin 53) (v : Word)
  | forceOff (p : Path) (d : Fin 53) (v : Word)
  | quiesceEnd (d : Fin 53)
  | closeEnd (d : Fin 53)
  | gateEnd (d : Fin 53)
  | drainTimeout (d : Fin 53)
  | wakePacket (d : Fin 53)
  | wakeConfig (p : Path) (a : CfgAddr) (wr : Bool) (v : Word)
  | wakeIn (level : Bool)
  | wakeTimer
  | wakeDone (d : Fin 53)
  | errorPinRise (d : Fin 53) (cell : Fin 2048) (cls : Fin 64)
  | reportAccept (d : Fin 53)
  | logWrite
  | logReadCount (p : Path) (v : Word)
  | logSlotRead (p : Path) (slot : Fin 64)
  | faultInjectGo (p : Path) (v : Word)
  | faultInjectFire
  | snapshotGo (p : Path) (v : Word)
  | snapshotCopy (d : Fin 52)
  | snapshotBusyEnd
  | debugRequest (p : Path) (v : Word) (healthy : Bool)
  | challengeReady
  | debugVerify (p : Path) (v : Word)
  | verifyDone
  | challengeExpire
  | lockoutEnd
  | debugRelock (p : Path) (v : Word)
  | hostGrantWrite (p : Path) (h : Fin 8) (v : Word)
  | tapReset
  | tapIrUpdate (ir : BitVec 8)
  | tapSecAccess (dr : BitVec 40)
  | tapCfgAccess (dr : BitVec 72)
  | powerOn (late : BitVec 53)
  | optGo (p : Path) (v : Word)
  | broadcastWrite (p : Path) (cell : Fin 2048) (block : Fin 32) (off : Fin 65536) (v : Word)
  | configTimeout (p : Path) (a : CfgAddr) (wr : Bool) (v : Word) (hit : BitVec 54) (late : Bool)
  | configNetworkError (p : Path) (a : CfgAddr) (wr : Bool) (v : Word) (hit : BitVec 54) (fatal : Bool) (back : Bool)
  | resetExit (d : Fin 53)
  | pllReferenceReturn (k : Fin 60)
  | memStackReady (m : MemId)
  | clkMeasWindow (k : Fin 60) (cycles : BitVec 24)
  deriving DecidableEq, Repr

end Sys2Proof
end

