-- ==== Sys2Proof/Machine/FMap.lean ====
section
/-! DEFINITION. Finite maps from Nat as association lists in rising key order: sparse tables whose unlisted keys hold
a default that the reader of the map names. -/

namespace Sys2Proof.Machine

/-- A finite map, keys strictly rising. -/
abbrev FMap (α : Type) := List (Nat × α)

/-- The value listed at a key. -/
def FMap.find {α : Type} : FMap α → Nat → Option α
  | [], _ => none
  | (k, v) :: r, a => if k = a then some v else FMap.find r a

/-- The value at a key, or the default. -/
def FMap.get {α : Type} (m : FMap α) (a : Nat) (d : α) : α := (FMap.find m a).getD d

/-- Insert or replace, keeping the keys rising. -/
def FMap.set {α : Type} : FMap α → Nat → α → FMap α
  | [], a, x => [(a, x)]
  | (k, v) :: r, a, x =>
    if k = a then (a, x) :: r
    else if a < k then (a, x) :: (k, v) :: r
    else (k, v) :: FMap.set r a x

/-- Remove a key. -/
def FMap.erase {α : Type} (m : FMap α) (a : Nat) : FMap α := m.filter (fun e => e.1 != a)

/-- Keep the entries whose key meets a test. -/
def FMap.keep {α : Type} (m : FMap α) (p : Nat → Bool) : FMap α := m.filter (fun e => p e.1)

/-- The keys strictly rise. -/
def FMap.rising {α : Type} : FMap α → Bool
  | [] => true
  | [_] => true
  | (k, _) :: (k', v') :: r => decide (k < k') && FMap.rising ((k', v') :: r)

/-- The element of a list at a place, or the default. -/
def lget {α : Type} (l : List α) (i : Nat) (d : α) : α := l.getD i d

/-- The list with the element at a place replaced. -/
def lset {α : Type} (l : List α) (i : Nat) (x : α) : List α := l.set i x

end Sys2Proof.Machine
end

