-- ==== Sys2Proof/Machine/Bits.lean ====
section
/-! DEFINITION. Bit fields, byte order (R6, R7) and saturating counts (R12): the helpers every family uses. -/

namespace Sys2Proof.Machine

/-- Bits [lo + len - 1 : lo] of a vector, as a number (R6). -/
def bits {n : Nat} (w : BitVec n) (lo len : Nat) : Nat := (w.toNat >>> lo) % 2 ^ len

/-- Bit i of a vector. -/
def bit {n : Nat} (w : BitVec n) (i : Nat) : Bool := w.toNat.testBit i

/-- The vector with bits [lo + len - 1 : lo] replaced by a number. -/
def put {n : Nat} (w : BitVec n) (lo len v : Nat) : BitVec n :=
  (w &&& ~~~(BitVec.ofNat n ((2 ^ len - 1) <<< lo))) ||| BitVec.ofNat n ((v % 2 ^ len) <<< lo)

/-- A truth value as a bit. -/
def b2n (b : Bool) : Nat := if b then 1 else 0

/-- A number read as two's complement of a width. -/
def toSigned (width v : Nat) : Int :=
  let r := v % 2 ^ width
  if r < 2 ^ (width - 1) then (r : Int) else (r : Int) - (2 ^ width : Nat)

/-- A signed number as two's complement of a width. -/
def ofSigned (width : Nat) (v : Int) : Nat := (v % ((2 ^ width : Nat) : Int)).toNat

/-- Add to a count that saturates (R12 tables: saturating at max). -/
def satAdd (mx a b : Nat) : Nat := min mx (a + b)

/-- The n low bytes of a number, lowest first (R7). -/
def bytesOf : Nat → Nat → List Byte
  | 0, _ => []
  | n + 1, v => BitVec.ofNat 8 v :: bytesOf n (v / 256)

/-- The number whose bytes, lowest first, are given (R7). -/
def natOf : List Byte → Nat
  | [] => 0
  | b :: r => b.toNat + 256 * natOf r

/-- The 64 bytes of a flit payload: byte k is bits [8k+7:8k] (R7). -/
def payloadBytes (p : Payload) : List Byte := bytesOf 64 p.toNat

/-- A payload from at most 64 bytes, zero above them. -/
def payloadOf (l : List Byte) : Payload := BitVec.ofNat 512 (natOf (l.take 64))

/-- Cut a byte list into 64-byte data units. The fuel is the number of units. -/
def unitsOf : Nat → List Byte → List Payload
  | 0, _ => []
  | n + 1, l => if l.isEmpty then [] else payloadOf l :: unitsOf n (l.drop 64)

/-- The index of the first element that meets a test. -/
def firstIdx {α : Type} (p : α → Bool) : List α → Nat → Option Nat
  | [], _ => none
  | a :: r, i => if p a then some i else firstIdx p r (i + 1)

/-- The first i of 0 .. n-1 that meets a test, searching from start and wrapping round: the round robin of R63 with
start one past the last winner. -/
def rrPick (p : Nat → Bool) (start : Nat) (n : Nat) : Option Nat :=
  ((List.range n).map (fun k => (start + k) % n)).find? p

/-- Split off and drop the first element that meets a test. -/
def takeFirst {α : Type} (p : α → Bool) : List α → Option (α × List α)
  | [] => none
  | a :: r => if p a then some (a, r) else (takeFirst p r).map (fun x => (x.1, a :: x.2))

/-- Replace every element that meets a test. -/
def mapIf {α : Type} (p : α → Bool) (f : α → α) (l : List α) : List α := l.map (fun a => if p a then f a else a)

/-- ceil(a / b), 0 when b is 0. -/
def ceilDiv (a b : Nat) : Nat := if b = 0 then 0 else (a + b - 1) / b

/-- Sum of a list. -/
def sumN (l : List Nat) : Nat := l.foldl (· + ·) 0

end Sys2Proof.Machine
end

