-- ==== Sys2Proof/Machine/Arith.lean ====
section
/-! DEFINITION. The arithmetic of the combine units (R168, R186-R192) and of the Finder's estimates (R224). A finite
value of a format is an integer multiple of the format's smallest subnormal, so every sum is an exact integer sum,
rounded once. -/

namespace Sys2Proof.Machine

/-- A floating-point format: exponent and mantissa bits, and whether it has infinities (E4M3 has none, R187). -/
structure Flt8 where
  e : Nat
  m : Nat
  inf : Bool
  deriving DecidableEq, Repr

/-- R168: the floating-point format of FMT 0-4. -/
def fltOf (fmt : Nat) : Flt8 :=
  match fmt with
  | 0 => ⟨8, 23, true⟩
  | 1 => ⟨8, 7, true⟩
  | 2 => ⟨5, 10, true⟩
  | 3 => ⟨4, 3, false⟩
  | _ => ⟨5, 2, true⟩

/-- The sign bit's weight. -/
def Flt8.signBit (f : Flt8) : Nat := 2 ^ (f.e + f.m)
/-- The exponent field. -/
def Flt8.expo (f : Flt8) (x : Nat) : Nat := x / 2 ^ f.m % 2 ^ f.e
/-- The mantissa field. -/
def Flt8.mant (f : Flt8) (x : Nat) : Nat := x % 2 ^ f.m
/-- Whether an encoding is negative. -/
def Flt8.neg (f : Flt8) (x : Nat) : Bool := x / f.signBit % 2 == 1
/-- R187: whether an encoding is a NaN. -/
def Flt8.isNan (f : Flt8) (x : Nat) : Bool :=
  if f.inf then f.expo x == 2 ^ f.e - 1 && f.mant x != 0 else x % f.signBit == f.signBit - 1
/-- Whether an encoding is an infinity. -/
def Flt8.isInf (f : Flt8) (x : Nat) : Bool := f.inf && f.expo x == 2 ^ f.e - 1 && f.mant x == 0
/-- R186, R187: the canonical NaN. -/
def Flt8.nan (f : Flt8) : Nat :=
  if f.inf then (2 ^ f.e - 1) * 2 ^ f.m + 2 ^ (f.m - 1) else f.signBit - 1
/-- The magnitude of a finite encoding in units of the smallest subnormal. -/
def Flt8.mag (f : Flt8) (x : Nat) : Nat :=
  if f.expo x = 0 then f.mant x else (2 ^ f.m + f.mant x) * 2 ^ (f.expo x - 1)
/-- The value of a finite encoding in units of the smallest subnormal. -/
def Flt8.val (f : Flt8) (x : Nat) : Int := if f.neg x then -(f.mag x : Int) else (f.mag x : Int)
/-- The exponent of the smallest subnormal is -lsb. -/
def Flt8.lsb (f : Flt8) : Nat := 2 ^ (f.e - 1) - 2 + f.m

/-- n / 2^k rounded to nearest, ties to even. -/
def rneShift (n k : Nat) : Nat :=
  let q := n / 2 ^ k
  let r := n % 2 ^ k
  if k = 0 then n else if r < 2 ^ (k - 1) then q else if 2 ^ (k - 1) < r then q + 1 else q + q % 2

/-- The number of bits of a number. -/
def bitLen (n : Nat) : Nat := if n = 0 then 0 else Nat.log2 n + 1

/-- R186, R187: round a magnitude n / 2^k, in units of the smallest subnormal, to a format, without sign: RNE, overflow to
infinity, or for E4M3 to the largest finite value. -/
def Flt8.round (f : Flt8) (n k : Nat) : Nat :=
  let sh := max k (bitLen n - (f.m + 1))
  let q0 := rneShift n sh
  let q := if q0 = 2 ^ (f.m + 1) then 2 ^ f.m else q0
  let e := (sh - k) + (if q0 = 2 ^ (f.m + 1) then 1 else 0) + 1
  if q < 2 ^ f.m then q
  else
    let x := e * 2 ^ f.m + (q - 2 ^ f.m)
    if f.inf then min x ((2 ^ f.e - 1) * 2 ^ f.m) else min x (f.signBit - 2)

/-- R186, R187: the sum of two encodings. -/
def Flt8.add (f : Flt8) (a b : Nat) : Nat :=
  if f.isNan a || f.isNan b then f.nan
  else if f.isInf a then (if f.isInf b && f.neg a != f.neg b then f.nan else a)
  else if f.isInf b then b
  else
    let v := f.val a + f.val b
    if v = 0 then (if f.neg a && f.neg b then f.signBit else 0)
    else f.round v.natAbs 0 + (if v < 0 then f.signBit else 0)

/-- R189: the order of encodings that are no NaN, with +0 above -0. -/
def Flt8.key (f : Flt8) (x : Nat) : Int :=
  if f.neg x then -((x % f.signBit : Nat) : Int) - 1 else ((x % f.signBit : Nat) : Int)

/-- R189: MAX, or MIN. -/
def Flt8.sel (f : Flt8) (mx : Bool) (a b : Nat) : Nat :=
  if f.isNan a || f.isNan b then f.nan
  else if mx then (if f.key a < f.key b then b else a) else (if f.key b < f.key a then b else a)

/-- R186-R189: op on two elements of FMT 0-5 under RED. -/
def elemOp (fmt red a b : Nat) : Nat :=
  if fmt = 5 then
    match red with
    | 0 => (a + b) % 4294967296
    | 1 => if toSigned 32 a < toSigned 32 b then b else a
    | _ => if toSigned 32 b < toSigned 32 a then b else a
  else
    match red with
    | 0 => (fltOf fmt).add a b
    | 1 => (fltOf fmt).sel true a b
    | _ => (fltOf fmt).sel false a b

/-- Split bytes into little-endian elements of n bytes each. The fuel is the number of elements. -/
def elemsOf (n : Nat) : Nat → List Byte → List Nat
  | 0, _ => []
  | k + 1, l => natOf (l.take n) :: elemsOf n k (l.drop n)

/-- R191: rne of an integer in units of 2^-k. -/
def rneInt (v : Int) (k : Nat) : Int :=
  let r : Int := (rneShift v.natAbs k : Nat)
  if v < 0 then -r else r

/-- R191: a B8 block: its 32 elements and its scale. -/
structure B8 where
  m : List Int
  s : Nat
  deriving DecidableEq, Repr

/-- R190: the canonical NaN block. -/
def B8.nan : B8 := { m := List.replicate 32 0, s := 255 }

/-- R191: the elements of a block in units of 2^-d at scale s + d of the larger block: m · 2^(d - (S - s)). The exact value of
an aligned element needs d = S - s bits of fraction. -/
def B8.aligned (a : B8) (big d : Nat) : List Int := a.m.map (fun v => v * (2 ^ (d - (big - a.s)) : Nat))

/-- R191: b8_sum; the flag says that the result became NaN by overflow. -/
def B8.sum (a b : B8) : B8 × Bool :=
  if a.s = 255 ∨ b.s = 255 then (B8.nan, false)
  else
    let big := max a.s b.s
    let d := big - min a.s b.s
    let t := List.zipWith (fun (x y : Int) => x + y) (a.aligned big d) (b.aligned big d)
    let tooBig := t.any (fun v => decide (127 < rneInt v d) || decide (rneInt v d < -128))
    let k := if tooBig then 1 else 0
    if big + k = 255 then (B8.nan, true) else ({ m := t.map (fun v => rneInt v (d + k)), s := big + k }, false)

/-- R192: MAX or MIN of two blocks. -/
def B8.sel (mx : Bool) (a b : B8) : B8 :=
  if a.s = 255 ∨ b.s = 255 then B8.nan
  else
    let big := max a.s b.s
    let d := big - min a.s b.s
    let pick := fun (x y : Int) => if mx then (if x < y then y else x) else (if y < x then y else x)
    { m := (List.zipWith pick (a.aligned big d) (b.aligned big d)).map (fun v => rneInt v d), s := big }

/-- R168: block i of a B8 chunk of n blocks. -/
def b8At (l : List Byte) (n i : Nat) : B8 :=
  { m := ((l.drop (32 * i)).take 32).map (fun b => toSigned 8 b.toNat), s := ((l.drop (32 * n + i)).head?.getD 0).toNat }

/-- R168: a B8 chunk from its blocks. -/
def b8Bytes (l : List B8) : List Byte :=
  l.flatMap (fun b => b.m.map (fun v => BitVec.ofNat 8 (ofSigned 8 v))) ++ l.map (fun b => BitVec.ofNat 8 b.s) ++
    (if l.length = 124 then List.replicate 4 0 else [])

/-- R177, R186-R192: op on two chunks of a format; the count is that of B8 overflows (R191). -/
def chunkOp (fmt red : Nat) (a b : List Byte) : List Byte × Nat :=
  if fmt = 6 then
    let n := (if a.length = 4096 then 4092 else a.length) / 33
    let r := (List.range n).map (fun i =>
      if red = 0 then B8.sum (b8At a n i) (b8At b n i) else (B8.sel (red == 1) (b8At a n i) (b8At b n i), false))
    (b8Bytes (r.map (fun x => x.1)), (r.filter (fun x => x.2)).length)
  else
    let eb := match fmt with
      | 0 => 4
      | 1 => 2
      | 2 => 2
      | 5 => 4
      | _ => 1
    let n := a.length / eb
    ((List.zipWith (elemOp fmt red) (elemsOf eb n a) (elemsOf eb n b)).flatMap (bytesOf eb), 0)

/-- R224: the magnitude of an element as FP32, rounded to nearest even where it is not exact. -/
def absFp32 (fmt x : Nat) : Nat :=
  if fmt = 5 then (fltOf 0).round ((toSigned 32 x).natAbs * 2 ^ 149) 0
  else (fltOf 0).round ((fltOf fmt).mag x * 2 ^ (149 - (fltOf fmt).lsb)) 0

/-- R224: FP32 rounded to E5M2, both without sign. -/
def fp32ToE5M2 (x : Nat) : Nat :=
  if (fltOf 0).isInf x then 0x7C else (fltOf 4).round ((fltOf 0).mag x) (149 - (fltOf 4).lsb)

/-- R224: the estimate of a tile's elements. -/
def tileEstimate (fmt : Nat) (l : List Nat) : Nat :=
  if fmt ≠ 5 ∧ l.any (fun x => (fltOf fmt).isNan x || (fltOf fmt).isInf x) then 0x7C
  else fp32ToE5M2 (l.foldl (fun a x => (fltOf 0).add a (absFp32 fmt x)) 0)

/-- R225: whether an E5M2 estimate is at or above an FP32 threshold that is no NaN, compared exactly. -/
def estAtLeast (e thr : Nat) : Bool :=
  if (fltOf 0).neg thr then true
  else if (fltOf 0).isInf thr then (fltOf 4).isInf e
  else (fltOf 4).isInf e || decide ((fltOf 0).mag thr ≤ (fltOf 4).mag e * 2 ^ (149 - (fltOf 4).lsb))

end Sys2Proof.Machine
end

