-- ==== Sys2Proof/Config.lean ====
section
/-! DEFINITION. What an implementation fixes, and the free values: constants without a body, so that no proof can
lean on what they are. Each free value is applied to `State.freeCtr`, which the command that draws one advances. -/

namespace Sys2Proof.Config

/-- R35: the cluster SRAM of a Yonan W3 cell, in bytes. DESIGN CHOICE (log entry 6): the model is the Yonan W3. -/
def sramBytes : Nat := 851968

/-- FREE VALUE (R407): the nonce that the entropy source gives at the n-th draw. Log entry 5. -/
opaque nonce : Nat → BitVec 256

/-- FREE VALUE (R76, R182, R197, R215, R223): byte i of what the n-th draw leaves undefined. Log entry 5. -/
opaque freeByte : Nat → Nat → BitVec 8

/-- FREE VALUE (R274): whether a request of another wafer, with this header unit, comes from the host port of its source cell
and not from that cell's NI, which the header unit does not say. Log entry 14. -/
opaque hostAsked : BitVec 512 → Bool

/-- FREE VALUE (R429): whether an access whose outcome the spec calls unknown took effect. Log entry 5. -/
opaque accessTook : Nat → Bool

/-- FREE VALUE (R340): which way the n-th draw rounds a half that the registers cannot hold. Log entry 5. -/
opaque roundUp : Nat → Bool

/-- IMPLEMENTATION CONSTANT (R339): the fixed decode latency of an optical receiver, in units of 2^-16 ns. The spec gives no
number: log entry 5. -/
opaque decodeLatency : Nat

end Sys2Proof.Config
end

