-- ==== Sys2Proof/Machine/Codes.lean ====
section
/-! DEFINITION. The link codes and check values: the flit layout (R48, R49), the BCH code (R52), CRC-16 (R53), the
control code (R54), what a receiver decodes (R55), and CRC-32C (R173). -/

namespace Sys2Proof.Machine

/-- One remainder step modulo a polynomial of degree 20 whose low bits are given. -/
def bchStep (r : Nat) (b : Bool) : Nat :=
  let top := r.testBit 19 != b
  let s := (r * 2) % 1048576
  if top then s ^^^ 0x1877 else s

/-- R52: the generator is g(x) = m1(x) m3(x) with m1 = x^10 + x^3 + 1 and m3 = x^10 + x^3 + x^2 + x + 1, that is
0x101877; the remainder of the message, fed from bit n - 1 down to bit 0. -/
def bchRem (m : Nat) : Nat → Nat → Nat
  | 0, r => r
  | n + 1, r => bchRem m n (bchStep r (m.testBit n))

/-- The XOR of the n low bits. -/
def parityN (m : Nat) : Nat → Bool
  | 0 => false
  | n + 1 => m.testBit n != parityN m n

/-- R52: the 21 check bits of a payload. -/
def bchEncode (p : Payload) : Nat :=
  let r := bchRem p.toNat 512 0
  r + (if parityN p.toNat 512 != parityN r 20 then 1048576 else 0)

/-- The syndrome of a single error at each bit of the 532-bit word (check bit i is coefficient i, payload bit k is
coefficient k + 20). -/
def bchSynds : Nat → Nat → List Nat
  | 0, _ => []
  | n + 1, x => x :: bchSynds n (bchStep x false)

/-- The first pair of coefficients whose syndromes add to s. -/
def bchPair (s : Nat) : List Nat → Nat → Option (Nat × Nat)
  | [], _ => none
  | x :: r, i =>
    match firstIdx (fun y => (x ^^^ y) == s) r (i + 1) with
    | some j => some (i, j)
    | none => bchPair s r (i + 1)

/-- Flip the payload bit that a coefficient of the word stands for; check bits lie below coefficient 20. -/
def flipCoeff (p : Payload) (i : Nat) : Payload :=
  if i < 20 then p else p ^^^ BitVec.ofNat 512 (2 ^ (i - 20))

/-- What a code says of a payload. -/
inductive CodeResult where
  | clean
  | corrected (p : Payload)
  | bad
  deriving DecidableEq, Repr

/-- R52: correct 1 or 2 errors of the 533 protected bits, detect the rest. -/
def bchDecode (p : Payload) (chk : Nat) : CodeResult :=
  let s := bchRem p.toNat 512 0 ^^^ (chk % 1048576)
  let odd := parityN p.toNat 512 != parityN chk 21
  let syn := bchSynds 532 1
  if s = 0 then (if odd then .corrected p else .clean)
  else
    match firstIdx (fun y => y == s) syn 0 with
    | some i => .corrected (flipCoeff p i)
    | none =>
      if odd then .bad
      else
        match bchPair s syn 0 with
        | some ij => .corrected (flipCoeff (flipCoeff p ij.1) ij.2)
        | none => .bad

/-- R53: CRC-16, polynomial 0x1021, from bit n - 1 down to bit 0. -/
def crc16 (m : Nat) : Nat → Nat → Nat
  | 0, r => r
  | n + 1, r =>
    let top := r.testBit 15 != m.testBit n
    let s := (r * 2) % 65536
    crc16 m n (if top then s ^^^ 0x1021 else s)

/-- R53: the CRC-16 of a payload. -/
def crc16Of (p : Payload) : Nat := crc16 p.toNat 512 0xFFFF

/-- R54: the code positions q(i) of the 24 control bits. -/
def ctlPos : List Nat :=
  [3, 5, 6, 7, 9, 10, 11, 12, 13, 14, 15, 17, 18, 19, 20, 21, 22, 23, 24, 25, 26, 27, 28, 29]

/-- R54: the XOR of the code positions of the control bits that are set: check bits [30:26]. -/
def ctlSyn (c : BitVec 24) : List Nat → Nat → Nat
  | [], _ => 0
  | q :: r, i => (if bit c i then q else 0) ^^^ ctlSyn c r (i + 1)

/-- R54: check bits [31:26] of the control bits. -/
def ctlEncode (c : BitVec 24) : Nat :=
  let s := ctlSyn c ctlPos 0
  s + (if parityN c.toNat 24 != parityN s 5 then 32 else 0)

/-- R54: the control bits after decoding and whether they were corrected; none when uncorrectable. -/
def ctlDecode (c : BitVec 24) (chk : Nat) : Option (BitVec 24 × Bool) :=
  let s := ctlSyn c ctlPos 0 ^^^ (chk % 32)
  let fails := (parityN c.toNat 24 != parityN chk 6)
  if fails then
    match firstIdx (fun q => q == s) ctlPos 0 with
    | some i => some (c ^^^ BitVec.ofNat 24 (2 ^ i), true)
    | none => if s = 30 ∨ s = 31 then none else some (c, true)
  else if s = 0 then some (c, false)
  else none

/-- R49: the control bits of a flit. -/
structure Ctl where
  ty : Nat
  w : Bool
  vc : Nat
  seq6 : Nat
  crv : Bool
  crvc : Nat
  ack6 : Nat
  nak : Bool
  deriving DecidableEq, Repr

/-- R49: the fields of 24 control bits. -/
def ctlFields (c : BitVec 24) : Ctl :=
  { ty := bits c 0 3, w := bit c 3, vc := bits c 4 3, seq6 := bits c 7 6, crv := bit c 16, crvc := bits c 13 3,
    ack6 := bits c 17 6, nak := bit c 23 }

/-- R49: the 24 control bits. -/
def ctlBits (k : Ctl) : BitVec 24 :=
  BitVec.ofNat 24 (k.ty % 8 + b2n k.w * 8 + (k.vc % 8) * 16 + (k.seq6 % 64) * 128 + (k.crvc % 8) * 8192
    + b2n k.crv * 65536 + (k.ack6 % 64) * 131072 + b2n k.nak * 8388608)

/-- R50: whether a TYPE is sequenced. -/
def isSeq (ty : Nat) : Bool := ty == 2 || (4 ≤ ty && ty ≤ 7)

/-- R51: which payload code a flit carries: 0 none, 1 CRC-16, 2 BCH. -/
def codeKind (k : Ctl) : Nat :=
  if k.ty = 1 then 1
  else if k.ty = 0 ∨ k.ty = 2 ∨ k.ty = 3 then 0
  else if k.w ∨ 2 ≤ k.vc / 2 then 2 else 1

/-- R48, R51: the 568 wires of a flit. -/
def flitWires (p : Payload) (k : Ctl) : BitVec 568 :=
  let c := ctlBits k
  let chk := match codeKind k with
    | 0 => 0
    | 1 => crc16Of p
    | _ => bchEncode p
  BitVec.ofNat 568 (p.toNat + c.toNat * 2 ^ 512 + chk * 2 ^ 536 + ctlEncode c * 2 ^ 562)

/-- R55: what a receiver decodes: `ctl` is none when the control code is uncorrectable. -/
structure Decoded where
  ctl : Option Ctl
  ctlCe : Bool
  payload : Payload
  bchCe : Bool
  bchUe : Bool
  crcErr : Bool
  deriving DecidableEq, Repr

/-- R51, R55: the payload of 568 wires. -/
def wirePayload (f : BitVec 568) : Payload := BitVec.ofNat 512 f.toNat

/-- R55: decode the wires. -/
def decodeFlit (f : BitVec 568) : Decoded :=
  let p := wirePayload f
  match ctlDecode (BitVec.ofNat 24 (bits f 512 24)) (bits f 562 6) with
  | none => { ctl := none, ctlCe := false, payload := p, bchCe := false, bchUe := false, crcErr := false }
  | some (c, ce) =>
    let k := ctlFields c
    let chk := bits f 536 21
    match codeKind k with
    | 0 => { ctl := some k, ctlCe := ce, payload := p, bchCe := false, bchUe := false, crcErr := false }
    | 1 => { ctl := some k, ctlCe := ce, payload := p, bchCe := false, bchUe := false,
             crcErr := crc16Of p != chk % 65536 }
    | _ =>
      match bchDecode p chk with
      | .clean => { ctl := some k, ctlCe := ce, payload := p, bchCe := false, bchUe := false, crcErr := false }
      | .corrected q => { ctl := some k, ctlCe := ce, payload := q, bchCe := true, bchUe := false, crcErr := false }
      | .bad => { ctl := some k, ctlCe := ce, payload := p, bchCe := false, bchUe := true, crcErr := false }

/-- One bit of CRC-32C, reflected polynomial 0x82F63B78. -/
def crc32cBit (r : Nat) : Nat := if r % 2 = 1 then (r / 2) ^^^ 0x82F63B78 else r / 2

/-- One byte of CRC-32C. -/
def crc32cByte (r : Nat) (b : Byte) : Nat :=
  let x := r ^^^ b.toNat
  crc32cBit (crc32cBit (crc32cBit (crc32cBit (crc32cBit (crc32cBit (crc32cBit (crc32cBit x)))))))

/-- R173: CRC-32C over bytes in order. -/
def crc32c (l : List Byte) : Nat := (l.foldl crc32cByte 0xFFFFFFFF) ^^^ 0xFFFFFFFF

end Sys2Proof.Machine
end

