-- ==== Sys2Proof/Machine/Topology.lean ====
section
/-! DEFINITION. Where everything lies: fields, ring neighbours, attachment cells, the units and link ends and the
numbers that index them in `State`, and configuration addresses (R16-R18, R27-R34, R39-R41, R46, R271, R421). -/

namespace Sys2Proof

open Sys2Proof.Machine

/-- R27: the ring position of a coordinate. -/
def ringpos (c : Nat) : Nat := if c % 2 = 1 then 239 - c / 2 else c / 2

/-- R27: the coordinate at a ring position. -/
def coord (p : Nat) : Nat := if p < 120 then 2 * p else 2 * (239 - p) + 1

/-- A cell from two coordinates, each taken modulo 240. -/
def mkCell (x y : Nat) : Cell := ⟨Fin.ofNat 240 x, Fin.ofNat 240 y⟩

/-- R16, R17: the field that holds cell (x, y). -/
def fieldXY (x y : Nat) : Nat := 6 * (y / 30) + x / 40

/-- The field of a cell, which is also its configuration domain and power domain. -/
def Cell.field (c : Cell) : Nat := fieldXY c.x.val c.y.val

/-- R18: the cell number within its field. -/
def Cell.num (c : Cell) : Nat := (c.y.val % 30) * 40 + c.x.val % 40

/-- R16-R18: the logical cell with a cell number of a field. -/
def cellOf (f n : Nat) : Cell := mkCell (40 * (f % 6) + n % 40) (30 * (f / 6) + n / 40)

/-- The index of a cell in `State`. -/
def Cell.key (c : Cell) : Nat := 240 * c.y.val + c.x.val

/-- The cell with an index. -/
def cellOfKey (k : Nat) : Cell := mkCell (k % 240) (k / 240 % 240)

/-- R27, R46: the cell that a torus port (0 N, 1 S, 2 E, 3 W) leads to. -/
def neighbour (c : Cell) (p : Nat) : Cell :=
  match p with
  | 0 => mkCell c.x.val (coord ((ringpos c.y.val + 1) % 240))
  | 1 => mkCell c.x.val (coord ((ringpos c.y.val + 239) % 240))
  | 2 => mkCell (coord ((ringpos c.x.val + 1) % 240)) c.y.val
  | _ => mkCell (coord ((ringpos c.x.val + 239) % 240)) c.y.val

/-- The port at the far end of a torus link. -/
def oppositePort (p : Nat) : Nat :=
  match p with
  | 0 => 1
  | 1 => 0
  | 2 => 3
  | _ => 2

/-- R297: kind of a gateway port: 0 memory, 1 optical, 2 host. -/
def GwId.kind : GwId → Nat
  | .mem _ _ => 0
  | .opt _ _ => 1
  | .host _ _ => 2

/-- Side of a gateway port: 0 N, 1 E, 2 S, 3 W. -/
def GwId.side : GwId → Nat
  | .mem s _ => s.val
  | .opt s _ => s.val
  | .host s _ => s.val

/-- Index of a gateway port within side and kind. -/
def GwId.idx : GwId → Nat
  | .mem _ i => i.val
  | .opt _ i => i.val
  | .host _ i => i.val

/-- R297, R421: GW_ID[7:0], the port's configuration cell number. -/
def GwId.num (g : GwId) : Nat := g.idx * 16 + g.kind * 4 + g.side

/-- R421: the configuration domain and power domain of a gateway port. -/
def GwId.dom (g : GwId) : Nat := 48 + g.side

/-- R34: the port of a kind, side and index. -/
def gwOf (kind side idx : Nat) : Option GwId :=
  match kind with
  | 0 => if idx < 12 then some (.mem (Fin.ofNat 4 side) (Fin.ofNat 12 idx)) else none
  | 1 => if idx < 16 then some (.opt (Fin.ofNat 4 side) (Fin.ofNat 16 idx)) else none
  | 2 => if idx < 2 then some (.host (Fin.ofNat 4 side) (Fin.ofNat 2 idx)) else none
  | _ => none

/-- The port with a GW_ID. -/
def gwOfNum (n : Nat) : Option GwId := gwOf (n / 4 % 4) (n % 4) (n / 16)

/-- The gateway port of host port p: side p / 2, index p mod 2. Log entry 7. -/
def hostGw (p : Nat) : GwId := .host (Fin.ofNat 4 (p / 2)) (Fin.ofNat 2 p)

/-- The number 0-7 of a host port from its side and index. Log entry 7. -/
def hostNum (g : GwId) : Nat := 2 * g.side + g.idx

/-- The gateway port of a memory port. -/
def MemId.gw (m : MemId) : GwId := .mem m.side m.i

/-- The gateway port of an optical link. -/
def OptId.gw (o : OptId) : GwId := .opt o.side o.i

/-- R290: side · 16 + link index. -/
def OptId.port (o : OptId) : Nat := o.side.val * 16 + o.i.val

/-- The optical link with a port number. -/
def optOf (n : Nat) : OptId := ⟨Fin.ofNat 4 (n / 16), Fin.ofNat 16 n⟩

/-- R39, R40: the first coordinate of each port along its band: kind, whether the band runs along x. -/
def gwStart (kind : Nat) (alongX : Bool) : List Nat :=
  match kind, alongX with
  | 0, true => [1, 24, 40, 64, 80, 104, 120, 144, 160, 184, 200, 223]
  | 0, false => [1, 21, 44, 60, 80, 104, 120, 140, 164, 180, 200, 223]
  | 1, true => [17, 19, 21, 56, 58, 60, 96, 98, 136, 138, 176, 178, 180, 216, 218, 220]
  | 1, false => [17, 19, 37, 39, 76, 78, 96, 98, 136, 138, 156, 158, 196, 198, 216, 218]
  | _, true => [100, 140]
  | _, false => [100, 160]

/-- R271: how many attachment cells a port of a kind has. -/
def gwCount (kind : Nat) : Nat :=
  match kind with
  | 0 => 16
  | 1 => 2
  | _ => 1

/-- R39, R40, R271: attachment cell j of a port. -/
def attCell (g : GwId) (j : Nat) : Cell :=
  let alongX := g.side % 2 == 0
  let k := lget (gwStart g.kind alongX) g.idx 0 + j
  match g.side with
  | 0 => mkCell k 239
  | 1 => mkCell 239 k
  | 2 => mkCell k 0
  | _ => mkCell 0 k

/-- R46: whether a cell has a G port. -/
def Cell.edge (c : Cell) : Bool :=
  c.x.val == 0 || c.x.val == 239 || c.y.val == 0 || c.y.val == 239

/-- R46: the side a cell's G port leads to: N or S before E or W. -/
def Cell.gSide (c : Cell) : Nat :=
  if c.y.val = 239 then 0 else if c.y.val = 0 then 2 else if c.x.val = 239 then 1 else 3

/-- Find the port of a kind that holds a coordinate, and the attachment index. -/
def findAtt (kind side k : Nat) : Option (GwId × Nat) :=
  match firstIdx (fun st => st ≤ k && k < st + gwCount kind) (gwStart kind (side % 2 == 0)) 0 with
  | none => none
  | some i => (gwOf kind side i).map (fun g => (g, k - lget (gwStart kind (side % 2 == 0)) i 0))

/-- R39-R41: the gateway port attached to an edge cell and the cell's index at it; none for an unused cell. -/
def gAt (c : Cell) : Option (GwId × Nat) :=
  if c.edge then
    let k := if c.gSide % 2 = 0 then c.x.val else c.y.val
    (findAtt 0 c.gSide k).orElse (fun _ => (findAtt 1 c.gSide k).orElse (fun _ => findAtt 2 c.gSide k))
  else none

/-- The index of a unit in `State`: cells below 57,600, gateway ports from 57,600. -/
def UnitRef.key : UnitRef → Nat
  | .ni c => c.key
  | .gw g => 57600 + g.num

/-- The power domain of a unit. -/
def UnitRef.dom : UnitRef → Nat
  | .ni c => c.field
  | .gw g => g.dom

/-- The power domain of a unit index. -/
def unitKeyDom (k : Nat) : Nat := if k < 57600 then fieldXY (k % 240) (k / 240) else 48 + k % 4

/-- The index of a link end in `State`. -/
def EndRef.key : EndRef → Nat
  | .router c p => 8 * c.key + p.val
  | .ni c => 8 * c.key + 7
  | .cmb c => 460800 + c.key
  | .gw g j => 518400 + 16 * g.num + j.val
  | .optical o => 522496 + o.port

/-- The power domain of a link end. -/
def EndRef.dom : EndRef → Nat
  | .router c _ => c.field
  | .ni c => c.field
  | .cmb c => c.field
  | .gw g _ => g.dom
  | .optical o => 48 + o.side.val

/-- The power domain of a link end's index. -/
def endKeyDom (k : Nat) : Nat :=
  if k < 460800 then unitKeyDom (k / 8)
  else if k < 518400 then unitKeyDom (k - 460800)
  else if k < 522496 then 48 + (k - 518400) / 16 % 4
  else 48 + (k - 522496) / 16

/-- The end with an index. -/
def endOfKey (k : Nat) : EndRef :=
  if k < 460800 then
    (if k % 8 = 7 then .ni (cellOfKey (k / 8)) else .router (cellOfKey (k / 8)) (Fin.ofNat 7 (k % 8)))
  else if k < 518400 then .cmb (cellOfKey (k - 460800))
  else if k < 522496 then
    match gwOfNum ((k - 518400) / 16) with
    | some g => .gw g (Fin.ofNat 16 (k - 518400))
    | none => .ni (cellOfKey 0)
  else .optical (optOf (k - 522496))

/-- R46: the other end of a link. An idle G port (R41), and the far wafer's end of an optical link, have none. -/
def EndRef.peer : EndRef → Option EndRef
  | .router c p =>
    if p.val < 4 then some (.router (neighbour c p.val) (Fin.ofNat 7 (oppositePort p.val)))
    else if p.val = 4 then some (.ni c)
    else if p.val = 5 then some (.cmb c)
    else (gAt c).map (fun a => .gw a.1 (Fin.ofNat 16 a.2))
  | .ni c => some (.router c 4)
  | .cmb c => some (.router c 5)
  | .gw g j => if j.val < gwCount g.kind then some (.router (attCell g j.val) 6) else none
  | .optical _ => none

/-- R77: whether a link crosses a clock boundary: a torus link across fields, or G, an idle G port (R41) too. -/
def EndRef.boundary (e : EndRef) : Bool :=
  match e.peer with
  | some f => e.dom != f.dom
  | none =>
    match e with
    | .router c p => p.val == 6 && c.edge
    | _ => false

/-- R421: a configuration address as one number. -/
def regKey (dom cell blk off : Nat) : Nat := ((dom * 2048 + cell) * 32 + blk) * 65536 + off

/-- The number of a configuration address. -/
def CfgAddr.key (a : CfgAddr) : Nat := regKey a.domain.val a.cell.val a.block.val a.off.val

/-- The register at an offset of a block of a cell (R440: 0 router, 1 route control, 2 welt, 3 NI, 4 CMB, 5 TEL). -/
def cellReg (c : Cell) (blk off : Nat) : Nat := regKey c.field c.num blk off

/-- The register at an offset of a block of a gateway port (R440: 0 GW, 1 MEM, OPT or HOST, 5 TEL). -/
def gwReg (g : GwId) (blk off : Nat) : Nat := regKey g.dom g.num blk off

/-- A field-common register (R18: cell 2,047). -/
def fieldReg (f blk off : Nat) : Nat := regKey f 2047 blk off

/-- A register of the service domain (R440: 0 CFG, 1 MER, 2 FLT, 3 TEL, 4 SEC). -/
def svcReg (blk off : Nat) : Nat := regKey 52 0 blk off

/-- A register of the always-on domain (R440: 0 PWR, 1 CLK). -/
def aonReg (blk off : Nat) : Nat := regKey 53 0 blk off

/-- The register that NI rules and gateway rules name alike: offset `n` of the NI block, `g` of a gateway's block
`gb`. -/
def unitReg (u : UnitRef) (n gb g : Nat) : Nat :=
  match u with
  | .ni c => cellReg c 3 n
  | .gw w => gwReg w gb g

/-- The router port of an end, for the registers of R77: the port itself. -/
def portReg (c : Cell) (p off : Nat) : Nat := cellReg c 0 (0x100 + 0x20 * p + off)

end Sys2Proof
end

