-- ==== Sys2Proof/Machine/RegMap.lean ====
section
/-! DEFINITION. The register map (R440 and the register tables of every chapter): for each block, its registers with
their reset values (R11) and which of their bits a write sets (RW), clears (W1C) or a read clears (RC) (R12), and
whether a register is in the U view (R401). Fields that hardware alone writes (RO) are in none of the masks; what a
write-only bit does stands with the operation it starts. Log entry 8. -/

namespace Sys2Proof.Machine

/-- A register, or a run of `count` alike registers `stride` bytes apart. -/
structure RegRow where
  base : Nat
  stride : Nat
  count : Nat
  reset : Nat
  rw : Nat
  w1c : Nat
  rc : Nat
  u : Bool
  deriving DecidableEq, Repr

/-- R25: the remap block of a field. -/
def remapRows : List RegRow :=
  [⟨0x0, 0x4, 1, 0x0, 0x0, 0x0, 0x0, false⟩,
   ⟨0x4, 0x4, 1, 0x0, 0x0, 0x0, 0x0, false⟩,
   ⟨0x8, 0x4, 1, 0x0, 0x0, 0x0, 0x0, false⟩,
   ⟨0xC, 0x4, 1, 0x0, 0x0, 0x0, 0x0, false⟩,
   ⟨0x10, 0x4, 1, 0x0, 0x1F3F, 0x0, 0x0, false⟩,
   ⟨0x14, 0x4, 1, 0x0, 0x0, 0x0, 0x0, false⟩]

/-- R140: the swap registers of a field. -/
def warmRows : List RegRow :=
  [⟨0x0, 0x4, 1, 0x0, 0xFFFFFFFF, 0x0, 0x0, false⟩,
   ⟨0x4, 0x4, 1, 0x0, 0xFFFFFFFF, 0x0, 0x0, false⟩,
   ⟨0x8, 0x4, 1, 0x0, 0xFFFF, 0x0, 0x0, false⟩,
   ⟨0xC, 0x4, 1, 0x0, 0x0, 0x0, 0x0, false⟩]

/-- R77, R161, R373: router block. -/
def routerRows : List RegRow :=
  [⟨0x0, 0x4, 1, 0x0, 0x0, 0x0, 0x0, false⟩,
   ⟨0x4, 0x4, 1, 0x803008, 0xFFFF0F, 0x0, 0x0, false⟩,
   ⟨0x8, 0x4, 1, 0x0, 0x0, 0x0, 0xFFFFFFFF, false⟩,
   ⟨0xC, 0x4, 1, 0x0, 0x0, 0x300, 0x0, false⟩,
   ⟨0x100, 0x20, 7, 0x0, 0x0, 0x0, 0x0, false⟩,
   ⟨0x104, 0x20, 7, 0x0, 0x0, 0x0, 0x0, false⟩,
   ⟨0x108, 0x20, 7, 0x0, 0x0, 0x1FFF, 0x0, false⟩,
   ⟨0x10C, 0x20, 7, 0x0, 0x0, 0x0, 0x0, false⟩,
   ⟨0x110, 0x20, 7, 0x0, 0x0, 0x0, 0x0, false⟩,
   ⟨0x114, 0x20, 7, 0x0, 0x0, 0x0, 0xFFFF70F0, false⟩,
   ⟨0x400, 0x4, 1, 0x8000400, 0xFFFFFFFF, 0x0, 0x0, false⟩,
   ⟨0x404, 0x4, 1, 0x800, 0xFFFF, 0x0, 0x0, false⟩,
   ⟨0x410, 0x4, 7, 0x0, 0x0, 0x0, 0x0, false⟩,
   ⟨0x440, 0x4, 1, 0x0, 0x0, 0x0, 0xFFFF, false⟩,
   ⟨0x800, 0x4, 64, 0x1F1F1F1F, 0xFFFFFFFF, 0x0, 0x0, false⟩]

/-- R118: route-control block. CELL_PORT_ENA is kept by the router alone (`Router.ena`, reset 0x7F). -/
def routeRows : List RegRow :=
  [⟨0x0, 0x4, 1, 0x0, 0x3, 0x0, 0x0, false⟩,
   ⟨0x4, 0x4, 1, 0x0, 0x0, 0x0, 0x0, false⟩,
   ⟨0x8, 0x4, 1, 0x0, 0x0, 0x100, 0xFF, false⟩,
   ⟨0x10, 0x4, 7, 0x0, 0x0, 0x0, 0x0, false⟩]

/-- R139: welt block. -/
def weltRows : List RegRow :=
  [⟨0x0, 0x4, 1, 0x0, 0x0, 0x0, 0xFF00, false⟩,
   ⟨0x4, 0x4, 1, 0x0, 0x0, 0x7, 0x0, false⟩,
   ⟨0x8, 0x4, 1, 0x0, 0x0, 0x0, 0xFFFFFFFF, false⟩,
   ⟨0x10, 0x4, 7, 0x0, 0x0, 0x0, 0x3F00, false⟩,
   ⟨0x1000, 0x4, 448, 0x0, 0xFF, 0x0, 0x0, false⟩,
   ⟨0x2000, 0x4, 448, 0x0, 0x0, 0x0, 0x0, false⟩,
   ⟨0x3000, 0x4, 448, 0x0, 0x1F, 0x0, 0x0, false⟩,
   ⟨0x4000, 0x4, 448, 0x0, 0x0, 0x0, 0x0, false⟩]

/-- R115, R116, R141, R162, R230, R264, R266, R321, R399: NI block. -/
def niRows : List RegRow :=
  [⟨0x0, 0x20, 16, 0x0, 0xFFFC0, 0x0, 0x0, false⟩,
   ⟨0x4, 0x20, 16, 0x4, 0x13F1F, 0x0, 0x0, false⟩,
   ⟨0x8, 0x20, 16, 0x0, 0x0, 0x0, 0x0, true⟩,
   ⟨0xC, 0x20, 16, 0x0, 0x0, 0x0, 0x0, true⟩,
   ⟨0x10, 0x20, 16, 0x0, 0x0, 0x70, 0x0, true⟩,
   ⟨0x200, 0x20, 4, 0x0, 0xFFFF0, 0x0, 0x0, false⟩,
   ⟨0x204, 0x20, 4, 0x4, 0x1001F, 0x0, 0x0, false⟩,
   ⟨0x208, 0x20, 4, 0x0, 0x0, 0x0, 0x0, true⟩,
   ⟨0x20C, 0x20, 4, 0x0, 0x0, 0x0, 0x0, true⟩,
   ⟨0x210, 0x20, 4, 0x0, 0x0, 0xF0, 0xFF000000, true⟩,
   ⟨0x300, 0x4, 1, 0x0, 0x0, 0x0, 0x0, false⟩,
   ⟨0x304, 0x4, 1, 0x0, 0xFFFFFFFF, 0x0, 0x0, false⟩,
   ⟨0x800, 0x4, 1, 0x1, 0x3, 0x0, 0x0, false⟩,
   ⟨0x804, 0x4, 1, 0x0, 0x0, 0x100, 0x0, false⟩,
   ⟨0x808, 0x4, 1, 0x0, 0x0, 0x7, 0xFFFF0000, false⟩,
   ⟨0x80C, 0x4, 1, 0x3E8, 0xFFFF, 0x0, 0x0, false⟩,
   ⟨0x810, 0x4, 1, 0x0, 0x0, 0x0, 0x0, false⟩,
   ⟨0x814, 0x4, 1, 0x0, 0x0, 0x0, 0xFF00, false⟩,
   ⟨0x818, 0x4, 1, 0x0, 0x0, 0x0, 0xFF00000, false⟩,
   ⟨0x81C, 0x4, 1, 0x0, 0x0, 0x0, 0xFFFFFFFF, false⟩] ++
  [⟨0x820, 0x4, 1, 0x0, 0x3FFFF, 0x0, 0x0, false⟩,
   ⟨0x824, 0x4, 1, 0x0, 0xFFFFF, 0x0, 0x0, false⟩,
   ⟨0x828, 0x4, 1, 0x0, 0x800FFFF0, 0x0, 0x0, false⟩,
   ⟨0x1000, 0x10, 512, 0x0, 0x3FFFFFFF, 0x0, 0x0, false⟩,
   ⟨0x1004, 0x10, 512, 0x0, 0x3FFFFFFF, 0x0, 0x0, false⟩,
   ⟨0x1008, 0x10, 512, 0x8000000, 0x8F7FFFFF, 0x0, 0x0, false⟩,
   ⟨0x100C, 0x10, 512, 0x0, 0x0, 0x0, 0x0, false⟩,
   ⟨0x3000, 0x10, 512, 0x0, 0x0, 0x0, 0x0, false⟩,
   ⟨0x3004, 0x10, 512, 0x0, 0x0, 0x0, 0x0, false⟩,
   ⟨0x3008, 0x10, 512, 0x8000000, 0x0, 0x0, 0x0, false⟩,
   ⟨0x300C, 0x10, 512, 0x0, 0x0, 0x0, 0x0, false⟩,
   ⟨0x5000, 0x4, 4096, 0x0, 0x0, 0x0, 0x0, false⟩,
   ⟨0x9000, 0x4, 256, 0x0, 0x0, 0x0, 0x0, false⟩,
   ⟨0xA000, 0x4, 1, 0x0, 0x0, 0x3F, 0xFF00, false⟩,
   ⟨0xA100, 0x4, 64, 0x0, 0x0, 0x0, 0x0, false⟩,
   ⟨0xA200, 0x4, 64, 0x0, 0x0, 0x0, 0x0, false⟩,
   ⟨0xA400, 0x4, 64, 0x0, 0x1F, 0x0, 0x0, false⟩,
   ⟨0xA500, 0x4, 64, 0x0, 0x0, 0x0, 0x0, false⟩,
   ⟨0xB000, 0x4, 1, 0x28303038, 0x7F7F7F7F, 0x0, 0x0, false⟩,
   ⟨0xB004, 0x4, 1, 0x2028, 0x7F7F, 0x0, 0x0, false⟩] ++
  [⟨0xB008, 0x4, 1, 0x0, 0x0, 0x0, 0x0, false⟩,
   ⟨0xB010, 0x4, 1, 0x0, 0x0, 0x0, 0x0, false⟩,
   ⟨0xB014, 0x4, 1, 0x0, 0x0, 0x0, 0x0, false⟩,
   ⟨0xB018, 0x4, 1, 0x0, 0x0, 0x0, 0xFFFFFFFF, false⟩,
   ⟨0xB01C, 0x4, 1, 0x0, 0x0, 0x0, 0xFFFFFFFF, false⟩,
   ⟨0xB020, 0x4, 4, 0x0, 0x0, 0x0, 0x0, false⟩,
   ⟨0xB030, 0x4, 4, 0x0, 0xFFFFFF, 0x0, 0x0, false⟩,
   ⟨0xB100, 0x10, 16, 0x0, 0x80FFFFFF, 0x0, 0x0, false⟩,
   ⟨0xB104, 0x10, 16, 0x0, 0xFFFFF, 0x0, 0x0, false⟩,
   ⟨0xB108, 0x10, 16, 0x0, 0x0, 0x0, 0x0, false⟩,
   ⟨0xB10C, 0x10, 16, 0x0, 0x0, 0x0, 0xFFFF, false⟩,
   ⟨0xC000, 0x4, 1, 0x0, 0x0, 0x0, 0xFFFFFFFF, false⟩,
   ⟨0xC004, 0x4, 1, 0x0, 0x0, 0x0, 0xFFFFFFFF, false⟩,
   ⟨0xC008, 0x4, 1, 0x0, 0x0, 0x0, 0xFFFFFFFF, false⟩,
   ⟨0xC00C, 0x4, 1, 0x0, 0x0, 0x0, 0xFFFFFFFF, false⟩,
   ⟨0xC010, 0x4, 1, 0x0, 0x0, 0x0, 0xFFFFFFFF, false⟩,
   ⟨0xC014, 0x4, 1, 0x0, 0x0, 0xF, 0x0, false⟩,
   ⟨0xD000, 0x8, 16, 0x0, 0xFFFFF, 0x0, 0x0, false⟩,
   ⟨0xD004, 0x8, 16, 0x0, 0x800FFFFF, 0x0, 0x0, false⟩,
   ⟨0xD080, 0x4, 32, 0x0, 0x3F3F3F3F, 0x0, 0x0, false⟩] ++
  [⟨0xD100, 0x4, 32, 0x0, 0x0, 0x0, 0x0, false⟩,
   ⟨0xD180, 0x4, 32, 0x0, 0x0, 0x0, 0x0, false⟩,
   ⟨0xD200, 0x4, 1, 0x0, 0xFFFF, 0x0, 0x0, false⟩,
   ⟨0xD204, 0x4, 1, 0x0, 0x0, 0x0, 0xFFFFFFFF, false⟩,
   ⟨0xE000, 0x4, 1, 0x0, 0x0, 0x3000000, 0xFFFFFF, false⟩]

/-- R201, R202, R231, R324: combine block. -/
def cmbRows : List RegRow :=
  [⟨0x0, 0x4, 1, 0x0, 0x0, 0x0, 0x0, false⟩,
   ⟨0x4, 0x4, 1, 0x0, 0x0, 0x7FF, 0x0, false⟩,
   ⟨0x8, 0x4, 1, 0x0, 0x0, 0x0, 0xFFFFFFFF, false⟩,
   ⟨0xC, 0x4, 1, 0x0, 0x0, 0x0, 0xFFFFFFFF, false⟩,
   ⟨0x10, 0x4, 1, 0xC8, 0xFFFFFF, 0x0, 0x0, false⟩,
   ⟨0x14, 0x4, 1, 0x3E8, 0xFFFFFF, 0x0, 0x0, false⟩,
   ⟨0x18, 0x4, 1, 0x4E20, 0xFFFFFF, 0x0, 0x0, false⟩,
   ⟨0x1C, 0x4, 1, 0x30D40, 0xFFFFFF, 0x0, 0x0, false⟩,
   ⟨0x20, 0x4, 1, 0x0, 0x0, 0x0, 0x0, false⟩,
   ⟨0x24, 0x4, 1, 0x0, 0x0, 0x0, 0xFFFFFFFF, false⟩,
   ⟨0x40, 0x4, 1, 0x0, 0xFFFF1, 0x0, 0x0, false⟩,
   ⟨0x44, 0x4, 1, 0x0, 0xFFFFFF, 0x0, 0x0, false⟩,
   ⟨0x48, 0x4, 1, 0x0, 0x0, 0x0, 0x0, false⟩,
   ⟨0x4C, 0x4, 1, 0x0, 0x0, 0x0, 0xFFFFFFFF, false⟩,
   ⟨0x50, 0x4, 1, 0x0, 0x0, 0x0, 0x0, false⟩,
   ⟨0x1000, 0x80, 32, 0x0, 0x7FFFFF7F, 0x0, 0x0, false⟩,
   ⟨0x1004, 0x80, 32, 0x0, 0x7033F, 0x0, 0x0, false⟩,
   ⟨0x1008, 0x80, 32, 0x0, 0xFFFF, 0x0, 0x0, false⟩,
   ⟨0x100C, 0x80, 32, 0x0, 0xFFFFF, 0x0, 0x0, false⟩,
   ⟨0x1010, 0x80, 32, 0x0, 0xFFFFFF, 0x0, 0x0, false⟩] ++
  [⟨0x1014, 0x80, 32, 0x0, 0xFFFFFF, 0x0, 0x0, false⟩,
   ⟨0x1018, 0x80, 32, 0x0, 0xFFFFFF, 0x0, 0x0, false⟩,
   ⟨0x101C, 0x80, 32, 0x0, 0xFFFFFF, 0x0, 0x0, false⟩,
   ⟨0x1020, 0x80, 32, 0x0, 0xFFFF, 0x0, 0x0, false⟩,
   ⟨0x1024, 0x80, 32, 0x0, 0xFFFFF, 0x0, 0x0, false⟩,
   ⟨0x1028, 0x80, 32, 0x0, 0xFFFF, 0x0, 0x0, false⟩,
   ⟨0x102C, 0x80, 32, 0x0, 0xFFFFF, 0x0, 0x0, false⟩,
   ⟨0x1030, 0x80, 32, 0x0, 0xFFFF, 0x0, 0x0, false⟩,
   ⟨0x1034, 0x80, 32, 0x0, 0xFFFFF, 0x0, 0x0, false⟩,
   ⟨0x1038, 0x80, 32, 0x0, 0xFFFF, 0x0, 0x0, false⟩,
   ⟨0x103C, 0x80, 32, 0x0, 0xFFFFF, 0x0, 0x0, false⟩,
   ⟨0x1040, 0x80, 32, 0x0, 0xFFFF, 0x0, 0x0, false⟩,
   ⟨0x1044, 0x80, 32, 0x0, 0xFFFFF, 0x0, 0x0, false⟩,
   ⟨0x1048, 0x80, 32, 0x0, 0xFFFF, 0x0, 0x0, false⟩,
   ⟨0x104C, 0x80, 32, 0x0, 0xFFFFF, 0x0, 0x0, false⟩,
   ⟨0x1050, 0x80, 32, 0x0, 0xFFFFFF, 0x0, 0x0, false⟩,
   ⟨0x1054, 0x80, 32, 0x0, 0xFFFFFF, 0x0, 0x0, false⟩,
   ⟨0x1058, 0x80, 32, 0x0, 0xFFFFFF, 0x0, 0x0, false⟩,
   ⟨0x105C, 0x80, 32, 0x0, 0xFFFFFF, 0x0, 0x0, false⟩,
   ⟨0x1060, 0x80, 32, 0x0, 0xFFFFFF, 0x0, 0x0, false⟩] ++
  [⟨0x1064, 0x80, 32, 0x0, 0xFFFFFF, 0x0, 0x0, false⟩,
   ⟨0x1068, 0x80, 32, 0x0, 0x3FFFFF, 0x0, 0x0, false⟩,
   ⟨0x106C, 0x80, 32, 0x0, 0xFFFFFFFF, 0x0, 0x0, false⟩,
   ⟨0x1070, 0x80, 32, 0x0, 0x0, 0x0, 0x0, false⟩,
   ⟨0x1074, 0x80, 32, 0x0, 0x0, 0x0, 0x0, false⟩,
   ⟨0x1078, 0x80, 32, 0x0, 0x0, 0x0, 0x0, false⟩,
   ⟨0x107C, 0x80, 32, 0x0, 0x0, 0x0, 0x0, false⟩]

/-- R398: cell counters. -/
def telCellRows : List RegRow :=
  [⟨0x0, 0x4, 1, 0x0, 0x0, 0x0, 0x0, false⟩,
   ⟨0x100, 0x4, 112, 0x0, 0x0, 0x0, 0x0, false⟩,
   ⟨0x300, 0x4, 24, 0x0, 0x0, 0x0, 0x0, false⟩]

/-- R297, R322: gateway common block. -/
def gwRows : List RegRow :=
  [⟨0x0, 0x4, 1, 0x0, 0x0, 0x0, 0x0, false⟩,
   ⟨0x4, 0x4, 1, 0x0, 0x0, 0x100, 0x0, false⟩,
   ⟨0x8, 0x4, 1, 0x0, 0x0, 0x3, 0xFFFF00, false⟩,
   ⟨0x10, 0x4, 1, 0x0, 0x0, 0x7, 0x0, false⟩,
   ⟨0x14, 0x4, 1, 0x0, 0x0, 0x0, 0xFFFFFFFF, false⟩,
   ⟨0x18, 0x4, 1, 0x0, 0x0, 0x0, 0x0, false⟩,
   ⟨0x20, 0x4, 1, 0x0, 0xFFFFFFFF, 0x0, 0x0, false⟩,
   ⟨0x24, 0x4, 1, 0x0, 0xFFFFFFFF, 0x0, 0x0, false⟩,
   ⟨0x28, 0x4, 1, 0x0, 0xFFFF, 0x0, 0x0, false⟩,
   ⟨0x2C, 0x4, 1, 0x0, 0x0, 0x0, 0x0, false⟩,
   ⟨0x1000, 0x10, 512, 0x0, 0x3FFFFFFF, 0x0, 0x0, false⟩,
   ⟨0x1004, 0x10, 512, 0x0, 0x3FFFFFFF, 0x0, 0x0, false⟩,
   ⟨0x1008, 0x10, 512, 0x8000000, 0x8F7FFFFF, 0x0, 0x0, false⟩,
   ⟨0x100C, 0x10, 512, 0x0, 0x0, 0x0, 0x0, false⟩,
   ⟨0x3000, 0x10, 512, 0x0, 0x0, 0x0, 0x0, false⟩,
   ⟨0x3004, 0x10, 512, 0x0, 0x0, 0x0, 0x0, false⟩,
   ⟨0x3008, 0x10, 512, 0x8000000, 0x0, 0x0, 0x0, false⟩,
   ⟨0x300C, 0x10, 512, 0x0, 0x0, 0x0, 0x0, false⟩,
   ⟨0x5000, 0x4, 128, 0x0, 0x1F, 0x0, 0x0, false⟩,
   ⟨0x5200, 0x4, 64, 0x0, 0xFF, 0x0, 0x0, false⟩] ++
  [⟨0x5300, 0x4, 64, 0x0, 0x1F, 0x0, 0x0, false⟩,
   ⟨0x5400, 0x4, 128, 0x0, 0xFF, 0x0, 0x0, false⟩,
   ⟨0x6000, 0x4, 384, 0x0, 0x0, 0x0, 0x0, false⟩,
   ⟨0x7000, 0x8, 16, 0x0, 0xFFFFF, 0x0, 0x0, false⟩,
   ⟨0x7004, 0x8, 16, 0x0, 0x800FFFFF, 0x0, 0x0, false⟩,
   ⟨0x7080, 0x4, 32, 0x0, 0x3F3F3F3F, 0x0, 0x0, false⟩,
   ⟨0x7100, 0x4, 32, 0x0, 0x0, 0x0, 0x0, false⟩,
   ⟨0x7180, 0x4, 32, 0x0, 0x0, 0x0, 0x0, false⟩]

/-- R298: memory port. -/
def memRows : List RegRow :=
  [⟨0x0, 0x4, 1, 0x0, 0x3FF, 0x0, 0x0, false⟩,
   ⟨0x4, 0x4, 1, 0x0, 0x0, 0x0, 0x0, false⟩,
   ⟨0x8, 0x4, 1, 0x0, 0x0, 0x3, 0xFFFF0000, false⟩]

/-- R163, R265, R266, R268, R270, R299: host port. -/
def hostRows : List RegRow :=
  [⟨0x0, 0x4, 1, 0x0, 0x0, 0x400, 0x0, false⟩,
   ⟨0x4, 0x4, 1, 0x0, 0x0, 0x1F, 0xFFFF0000, false⟩,
   ⟨0x8, 0x4, 1, 0x3E8, 0xFFFF, 0x0, 0x0, false⟩,
   ⟨0xC, 0x4, 1, 0x0, 0x0, 0x0, 0x0, false⟩,
   ⟨0x400, 0x20, 3, 0x0, 0xFFFFFFFF, 0x0, 0x0, false⟩,
   ⟨0x404, 0x20, 3, 0x0, 0xFFFFFF, 0x0, 0x0, false⟩,
   ⟨0x408, 0x20, 3, 0x0, 0xFFFFFF, 0x0, 0x0, false⟩,
   ⟨0x40C, 0x20, 3, 0x0, 0x3F1, 0x2, 0x0, false⟩,
   ⟨0x410, 0x20, 3, 0x0, 0x0, 0x0, 0x0, false⟩,
   ⟨0x414, 0x20, 3, 0x0, 0x0, 0x0, 0x0, false⟩,
   ⟨0x418, 0x20, 3, 0x0, 0x0, 0x0, 0xFFFFFFFF, false⟩,
   ⟨0x41C, 0x20, 3, 0x0, 0x0, 0x0, 0x0, false⟩,
   ⟨0x800, 0x20, 16, 0x0, 0xFFFFFFF, 0x0, 0x0, false⟩,
   ⟨0x804, 0x20, 16, 0x0, 0xFFFFFFF, 0x0, 0x0, false⟩,
   ⟨0x808, 0x20, 16, 0x0, 0xFFFFF000, 0x0, 0x0, false⟩,
   ⟨0x80C, 0x20, 16, 0x0, 0xFFFFFFFF, 0x0, 0x0, false⟩,
   ⟨0x810, 0x20, 16, 0x0, 0x7, 0x0, 0x0, false⟩,
   ⟨0xF00, 0x4, 1, 0x0, 0x0, 0x0, 0x0, false⟩,
   ⟨0x1000, 0x20, 64, 0x0, 0xFFFFFFC0, 0x0, 0x0, false⟩,
   ⟨0x1004, 0x20, 64, 0x0, 0xFFFFFFFF, 0x0, 0x0, false⟩] ++
  [⟨0x1008, 0x20, 64, 0x4, 0x13F1F, 0x0, 0x0, false⟩,
   ⟨0x100C, 0x20, 64, 0x0, 0x0, 0x0, 0x0, true⟩,
   ⟨0x1010, 0x20, 64, 0x0, 0x0, 0x0, 0x0, true⟩,
   ⟨0x1014, 0x20, 64, 0x0, 0x0, 0x70, 0x0, true⟩,
   ⟨0x1800, 0x20, 64, 0x0, 0xFFFFFFF0, 0x0, 0x0, false⟩,
   ⟨0x1804, 0x20, 64, 0x0, 0xFFFFFFFF, 0x0, 0x0, false⟩,
   ⟨0x1808, 0x20, 64, 0x4, 0x1001F, 0x0, 0x0, false⟩,
   ⟨0x180C, 0x20, 64, 0x0, 0x0, 0x0, 0x0, true⟩,
   ⟨0x1810, 0x20, 64, 0x0, 0x0, 0x0, 0x0, true⟩,
   ⟨0x1814, 0x20, 64, 0x0, 0x0, 0xF0, 0xFF000000, true⟩,
   ⟨0x2000, 0x20, 8, 0x0, 0xFFFFFFFF, 0x0, 0x0, true⟩,
   ⟨0x2004, 0x20, 8, 0x0, 0xFFFFFFFF, 0x0, 0x0, true⟩,
   ⟨0x2008, 0x20, 8, 0x0, 0x0, 0x0, 0x0, true⟩,
   ⟨0x200C, 0x20, 8, 0x0, 0x0, 0x0, 0x0, false⟩,
   ⟨0x2010, 0x20, 8, 0x0, 0x0, 0x0, 0x0, false⟩,
   ⟨0x2014, 0x20, 8, 0x0, 0x0, 0x0, 0x0, false⟩,
   ⟨0x2100, 0x20, 8, 0x0, 0xFFFFFFFF, 0x0, 0x0, false⟩,
   ⟨0x2104, 0x20, 8, 0x0, 0xFFFFFFFF, 0x0, 0x0, false⟩,
   ⟨0x2108, 0x20, 8, 0x0, 0x0, 0x0, 0x0, false⟩,
   ⟨0x210C, 0x20, 8, 0x0, 0x0, 0x0, 0x0, true⟩] ++
  [⟨0x2110, 0x20, 8, 0x0, 0x0, 0x0, 0x0, true⟩,
   ⟨0x2114, 0x20, 8, 0x0, 0x0, 0x0, 0x0, true⟩,
   ⟨0x2018, 0x20, 16, 0x0, 0x0, 0x2, 0xFF00, true⟩]

/-- R163, R300, R323, R345: optical link. -/
def optRows : List RegRow :=
  [⟨0x0, 0x4, 1, 0x0, 0x2, 0x0, 0x0, false⟩,
   ⟨0x4, 0x4, 1, 0x0, 0x0, 0x0, 0x0, false⟩,
   ⟨0x8, 0x4, 1, 0x4000, 0xFFFF, 0x0, 0x0, false⟩,
   ⟨0xC, 0x4, 1, 0x0, 0x0, 0x0, 0x0, false⟩,
   ⟨0x10, 0x4, 1, 0x25805148, 0xFFFFFFFF, 0x0, 0x0, false⟩,
   ⟨0x14, 0x4, 1, 0x0, 0x0, 0x1FF, 0x0, false⟩,
   ⟨0x18, 0x4, 1, 0x0, 0x0, 0x0, 0x0, false⟩,
   ⟨0x1C, 0x4, 1, 0x0, 0x0, 0x0, 0x0, false⟩,
   ⟨0x20, 0x4, 1, 0x0, 0x0, 0x0, 0x0, false⟩,
   ⟨0x24, 0x4, 1, 0x0, 0xFFFFFFFF, 0x0, 0x0, false⟩,
   ⟨0x28, 0x4, 1, 0x0, 0xFFFFFFFF, 0x0, 0x0, false⟩,
   ⟨0x2C, 0x4, 1, 0x0, 0x8000003F, 0x0, 0x0, false⟩,
   ⟨0x30, 0x4, 1, 0x0, 0x0, 0x0, 0xFFFFFFFF, false⟩,
   ⟨0x40, 0x4, 1, 0x0, 0x0, 0x0, 0x0, false⟩,
   ⟨0x44, 0x4, 1, 0xC80064, 0xFFFFFFFF, 0x0, 0x0, false⟩,
   ⟨0x48, 0x4, 1, 0x0, 0x0, 0x0, 0xFFFFFFFF, false⟩,
   ⟨0x60, 0x4, 1, 0x3E800, 0xFFFF01, 0x0, 0x0, false⟩,
   ⟨0x64, 0x4, 1, 0x0, 0xFFFFFFFF, 0x0, 0x0, false⟩,
   ⟨0x68, 0x4, 1, 0x0, 0x0, 0x0, 0x0, false⟩,
   ⟨0x6C, 0x4, 1, 0x0, 0x0, 0x0, 0x0, false⟩] ++
  [⟨0x70, 0x4, 1, 0x0, 0x0, 0x0, 0x0, false⟩,
   ⟨0x74, 0x4, 1, 0x0, 0x0, 0x0, 0xFFFF0000, false⟩,
   ⟨0x400, 0x20, 3, 0x0, 0xFFFFFFFF, 0x0, 0x0, false⟩,
   ⟨0x404, 0x20, 3, 0x0, 0xFFFFFF, 0x0, 0x0, false⟩,
   ⟨0x408, 0x20, 3, 0x0, 0xFFFFFF, 0x0, 0x0, false⟩,
   ⟨0x40C, 0x20, 3, 0x0, 0x3F1, 0x2, 0x0, false⟩,
   ⟨0x410, 0x20, 3, 0x0, 0x0, 0x0, 0x0, false⟩,
   ⟨0x414, 0x20, 3, 0x0, 0x0, 0x0, 0x0, false⟩,
   ⟨0x418, 0x20, 3, 0x0, 0x0, 0x0, 0xFFFFFFFF, false⟩,
   ⟨0x41C, 0x20, 3, 0x0, 0x0, 0x0, 0x0, false⟩]

/-- R398: gateway counters. -/
def telGwRows : List RegRow :=
  [⟨0x0, 0x4, 1, 0x0, 0x0, 0x0, 0x0, false⟩,
   ⟨0x100, 0x4, 100, 0x0, 0x0, 0x0, 0x0, false⟩]

/-- R36, R439: CFG_ block. -/
def cfgRows : List RegRow :=
  [⟨0x0, 0x4, 1, 0x0, 0xFFFFF, 0x40000000, 0x0, false⟩,
   ⟨0x4, 0x4, 1, 0x0, 0x0, 0x0, 0x0, false⟩,
   ⟨0x8, 0x4, 1, 0x0, 0x0, 0x0, 0x0, false⟩,
   ⟨0x10, 0x4, 1, 0x0, 0x0, 0x0, 0x0, false⟩,
   ⟨0x14, 0x4, 1, 0x64, 0xFFFF, 0x0, 0x0, false⟩,
   ⟨0x18, 0x4, 1, 0x0, 0x0, 0x1F, 0xFF0000, false⟩,
   ⟨0x1C, 0x4, 1, 0x0, 0x0, 0x0, 0x0, false⟩,
   ⟨0x20, 0x4, 1, 0x0, 0x0, 0x0, 0x0, false⟩,
   ⟨0x24, 0x4, 1, 0x0, 0x0, 0x0, 0xFFFFFF, false⟩,
   ⟨0x28, 0x4, 1, 0xFFFFFFFF, 0xFFFFFFFF, 0x0, 0x0, false⟩,
   ⟨0x2C, 0x4, 1, 0xFFFF, 0xFFFF, 0x0, 0x0, false⟩,
   ⟨0x30, 0x4, 1, 0x0, 0x0, 0x80, 0x0, false⟩]

/-- R344: MER_ block. -/
def merRows : List RegRow :=
  [⟨0x0, 0x4, 1, 0x100, 0xFFFFFF11, 0x0, 0x0, false⟩,
   ⟨0x4, 0x4, 1, 0x0, 0x0, 0xE, 0xFF0000, false⟩,
   ⟨0x8, 0x4, 1, 0x0, 0xFFFFFFFF, 0x0, 0x0, false⟩,
   ⟨0xC, 0x4, 1, 0x0, 0xFFFFFFFF, 0x0, 0x0, false⟩,
   ⟨0x10, 0x4, 1, 0x0, 0xFFFF, 0x0, 0x0, false⟩,
   ⟨0x14, 0x4, 1, 0x0, 0xFFFFFFFF, 0x0, 0x0, false⟩,
   ⟨0x18, 0x4, 1, 0x0, 0xFFFF, 0x0, 0x0, false⟩,
   ⟨0x1C, 0x4, 1, 0x0, 0xFFFFFFFF, 0x0, 0x0, false⟩,
   ⟨0x20, 0x4, 1, 0x0, 0xFFFF, 0x0, 0x0, false⟩,
   ⟨0x24, 0x4, 4, 0x0, 0x0, 0x0, 0x0, false⟩,
   ⟨0x40, 0x4, 1, 0x0, 0x7, 0x0, 0x0, false⟩,
   ⟨0x44, 0x4, 1, 0x0, 0xFFFF, 0x0, 0x0, false⟩,
   ⟨0x50, 0x4, 1, 0x0, 0x0, 0x0, 0x0, false⟩,
   ⟨0x54, 0x4, 4, 0x0, 0x0, 0x0, 0x0, false⟩,
   ⟨0x100, 0x4, 53, 0x0, 0xFFFFFF, 0x0, 0x0, false⟩,
   ⟨0x200, 0x4, 1, 0x0, 0x0, 0x0, 0x0, false⟩,
   ⟨0x204, 0x4, 1, 0x0, 0x0, 0x0, 0x0, false⟩]

/-- R395: FLT_ block. -/
def fltRows : List RegRow :=
  [⟨0x0, 0x4, 1, 0x0, 0x0, 0x0, 0x0, false⟩,
   ⟨0x4, 0x4, 1, 0x0, 0x0, 0xFFF00000, 0x0, false⟩,
   ⟨0x8, 0x4, 1, 0x0, 0x0, 0x1, 0x0, false⟩,
   ⟨0xC, 0x4, 1, 0x0, 0x0, 0x80000000, 0x0, false⟩,
   ⟨0x10, 0x4, 1, 0xFFE556, 0xFFFFFF, 0x0, 0x0, false⟩,
   ⟨0x14, 0x4, 1, 0x0, 0x1, 0x0, 0x0, false⟩,
   ⟨0x20, 0x4, 1, 0x0, 0x0, 0x0, 0x0, false⟩,
   ⟨0x24, 0x4, 1, 0x0, 0x0, 0x0, 0x0, false⟩,
   ⟨0x28, 0x4, 1, 0x0, 0x0, 0x100, 0xFFFF0000, false⟩,
   ⟨0x30, 0x4, 1, 0x0, 0x3FFFFFF, 0x0, 0x0, false⟩,
   ⟨0x34, 0x4, 1, 0x0, 0x1F, 0x200, 0xFF0000, false⟩,
   ⟨0x100, 0x40, 48, 0x0, 0x0, 0xFFFFFFFF, 0x0, false⟩,
   ⟨0x104, 0x40, 48, 0x0, 0x0, 0xFFFFFFFF, 0x0, false⟩,
   ⟨0x108, 0x40, 48, 0x0, 0x0, 0x0, 0x0, false⟩,
   ⟨0x10C, 0x40, 48, 0x0, 0x0, 0x0, 0x0, false⟩,
   ⟨0x110, 0x40, 48, 0x55551402, 0xFFFFFFFF, 0x0, 0x0, false⟩,
   ⟨0x114, 0x40, 48, 0xFFFFFFC5, 0xFFFFFFFF, 0x0, 0x0, false⟩,
   ⟨0x118, 0x40, 48, 0xFFFFFFFF, 0xFFFFFFFF, 0x0, 0x0, false⟩,
   ⟨0x11C, 0x40, 48, 0xFFFFFFFF, 0xFFFFFFFF, 0x0, 0x0, false⟩,
   ⟨0x120, 0x40, 48, 0x0, 0x0, 0x80000000, 0x0, false⟩] ++
  [⟨0x124, 0x40, 48, 0x0, 0x0, 0x0, 0x0, false⟩,
   ⟨0x128, 0x40, 48, 0x0, 0x0, 0x100, 0xFFFF0000, false⟩,
   ⟨0xD00, 0x40, 4, 0x0, 0x0, 0xFFFFFFFF, 0x0, false⟩,
   ⟨0xD04, 0x40, 4, 0x0, 0x0, 0xFFFFFFFF, 0x0, false⟩,
   ⟨0xD08, 0x40, 4, 0x0, 0x0, 0x0, 0x0, false⟩,
   ⟨0xD0C, 0x40, 4, 0x0, 0x0, 0x0, 0x0, false⟩,
   ⟨0xD10, 0x40, 4, 0xFF515554, 0xFFFFFFFF, 0x0, 0x0, false⟩,
   ⟨0xD14, 0x40, 4, 0xFFFFFFFF, 0xFFFFFFFF, 0x0, 0x0, false⟩,
   ⟨0xD18, 0x40, 4, 0xFFFFFFFF, 0xFFFFFFFF, 0x0, 0x0, false⟩,
   ⟨0xD1C, 0x40, 4, 0xFFFFFFFF, 0xFFFFFFFF, 0x0, 0x0, false⟩,
   ⟨0xD20, 0x40, 4, 0x0, 0x0, 0x80000000, 0x0, false⟩,
   ⟨0xD24, 0x40, 4, 0x0, 0x0, 0x0, 0x0, false⟩,
   ⟨0xD28, 0x40, 4, 0x0, 0x0, 0x100, 0xFFFF0000, false⟩,
   ⟨0x1000, 0x4, 256, 0x0, 0x0, 0x0, 0x0, false⟩]

/-- R397: snapshot control. -/
def telSnapRows : List RegRow :=
  [⟨0x0, 0x4, 1, 0x0, 0x0, 0x4, 0x0, false⟩,
   ⟨0x4, 0x4, 1, 0x0, 0x0, 0x0, 0x0, false⟩,
   ⟨0x8, 0x4, 1, 0x0, 0x0, 0x0, 0x0, false⟩,
   ⟨0xC, 0x4, 1, 0x0, 0x0, 0x0, 0x0, false⟩]

/-- R420: SEC_ block. -/
def secRows : List RegRow :=
  [⟨0x0, 0x4, 1, 0x0, 0x0, 0x0, 0x0, false⟩,
   ⟨0x4, 0x4, 1, 0x0, 0x43, 0x0, 0x0, false⟩,
   ⟨0x8, 0x4, 1, 0x0, 0x0, 0x0, 0x0, false⟩,
   ⟨0xC, 0x4, 1, 0x0, 0x0, 0x7F, 0xFFFF0000, false⟩,
   ⟨0x10, 0x4, 1, 0x0, 0x0, 0x0, 0x0, false⟩,
   ⟨0x20, 0x4, 8, 0x0, 0x0, 0x0, 0x0, false⟩,
   ⟨0x40, 0x4, 8, 0x0, 0x0, 0x0, 0x0, false⟩,
   ⟨0x80, 0x4, 8, 0x0, 0x7, 0x0, 0x0, false⟩]

/-- R357, R371: PWR_ block. -/
def pwrRows : List RegRow :=
  [⟨0x0, 0x4, 1, 0x3E8, 0xFFFFF, 0x0, 0x0, false⟩,
   ⟨0x4, 0x4, 1, 0x0, 0xFFFFFFFF, 0x0, 0x0, false⟩,
   ⟨0x8, 0x4, 1, 0x0, 0x0, 0x2, 0xFF00, false⟩,
   ⟨0x100, 0x20, 53, 0x0, 0x3, 0x0, 0x0, false⟩,
   ⟨0x104, 0x20, 53, 0x0, 0x0, 0x700, 0xFF0000, false⟩,
   ⟨0x108, 0x20, 48, 0x9F, 0x16, 0x0, 0x0, false⟩,
   ⟨0x708, 0x20, 4, 0x9F, 0x14, 0x0, 0x0, false⟩,
   ⟨0x788, 0x4, 1, 0xBF, 0x20, 0x0, 0x0, false⟩,
   ⟨0x10C, 0x20, 52, 0x80, 0x88, 0x0, 0x0, false⟩,
   ⟨0x78C, 0x4, 1, 0x96, 0xBF, 0x0, 0x0, false⟩,
   ⟨0x110, 0x20, 53, 0x0, 0x80, 0x0, 0x0, false⟩]

/-- R372: CLK_ block. -/
def clkRows : List RegRow :=
  [⟨0x100, 0x10, 60, 0x0, 0x0, 0x18, 0x0, false⟩,
   ⟨0x104, 0x10, 60, 0x0, 0x0, 0x0, 0x0, false⟩,
   ⟨0x108, 0x10, 60, 0x0, 0x0, 0x0, 0x0, false⟩]

/-- The row that holds an offset. -/
def findRow : List RegRow → Nat → Option RegRow
  | [], _ => none
  | r :: l, o =>
    if r.base ≤ o ∧ (o - r.base) % r.stride = 0 ∧ (o - r.base) / r.stride < r.count then some r else findRow l o

/-- R421, R422, R440: the rows of the block at {domain, cell, block}; none when no such block exists. -/
def blockRows (dom cell blk : Nat) : Option (List RegRow) :=
  if dom < 48 then
    if cell < 1200 then
      match blk with
      | 0 => some routerRows
      | 1 => some routeRows
      | 2 => some weltRows
      | 3 => some niRows
      | 4 => some cmbRows
      | 5 => some telCellRows
      | _ => none
    else if cell = 2047 then
      match blk with
      | 0 => some remapRows
      | 2 => some warmRows
      | _ => none
    else none
  else if dom < 52 then
    match gwOfNum cell with
    | some g =>
      if cell < 256 ∧ g.side = dom - 48 then
        match blk with
        | 0 => some gwRows
        | 1 => some (match g.kind with | 0 => memRows | 1 => optRows | _ => hostRows)
        | 5 => some telGwRows
        | _ => none
      else none
    | none => none
  else if cell = 0 then
    match dom, blk with
    | 52, 0 => some cfgRows
    | 52, 1 => some merRows
    | 52, 2 => some fltRows
    | 52, 3 => some telSnapRows
    | 52, 4 => some secRows
    | 53, 0 => some pwrRows
    | 53, 1 => some clkRows
    | _, _ => none
  else none

/-- The parts of a register number. -/
def keyDom (k : Nat) : Nat := k / 4294967296
/-- The cell number of a register number. -/
def keyCell (k : Nat) : Nat := k / 2097152 % 2048
/-- The block of a register number. -/
def keyBlk (k : Nat) : Nat := k / 65536 % 32
/-- The offset of a register number. -/
def keyOff (k : Nat) : Nat := k % 65536

/-- The row of a register number. -/
def rowOf (k : Nat) : Option RegRow :=
  match blockRows (keyDom k) (keyCell k) (keyBlk k) with
  | some rows => findRow rows (keyOff k)
  | none => none

/-- R11: the reset value of a register (zero where no register lies). -/
def resetOf (k : Nat) : Word :=
  match rowOf k with
  | some r => BitVec.ofNat 32 r.reset
  | none => 0

/-- R12: a register after a plain write of v: RW bits set, W1C bits cleared, the rest kept. -/
def plainWrite (r : RegRow) (old v : Word) : Word :=
  let rw := BitVec.ofNat 32 r.rw
  let wc := BitVec.ofNat 32 r.w1c
  ((old &&& ~~~rw) ||| (v &&& rw)) &&& ~~~(v &&& wc)

/-- R12: a register after a read: RC bits cleared. -/
def afterRead (r : RegRow) (old : Word) : Word := old &&& ~~~(BitVec.ofNat 32 r.rc)

end Sys2Proof.Machine
end

