-- ==== Sys2Proof/Machine/State.lean ====
section
/-! DEFINITION. The state of the block as plain data, its reset, and the reasons a command stops. Registers that no
structure below gives a content lie in `State.regs` under their configuration address; tables list only what differs
from the value a unit has after its own reset. -/

namespace Sys2Proof.Machine

/-! ## Links (R65 to R75) -/

/-- R69: the state of a link end. ABSENT is no state: a port without a G port has no link end. -/
inductive PortSt where
  | down
  | train
  | up
  | replay
  | fail
  deriving DecidableEq, Repr

/-- R65: a flit in a replay buffer. `welt` names the welt of a welt flit (R125), `tailEp` the epoch of the packet
whose last flit it is (R112), `hdr` the header unit of its packet (for a welt flit 1) until a loss has answered it (R315). -/
structure Rep where
  seq : Nat
  payload : Payload
  ctl : Ctl
  welt : Option Nat
  tailEp : Option Nat
  hdr : Payload
  deriving DecidableEq, Repr

/-- A flit on the wires toward an end, with the slot in which it was sent (R122, R126). -/
structure Wire where
  flit : BitVec 568
  slot : Nat
  deriving DecidableEq, Repr

/-- R65 to R72: one end of a link: what it sends (`txSeq`, `replay`, `resend` = how many of the last replay entries
are still to be resent, RETRY_RUN and the position its replays start from, the cycle at which the acknowledge timer
ends, the cycle of its last timeout, output credits) and what it receives (`rxExp`, DISCARD, the NAK due, credits due to the peer oldest first, the
training counts), the count of sequenced flits it has sent (R387), and the flits in flight toward it. -/
structure LinkEnd where
  st : PortSt
  txSeq : Nat
  rxExp : Nat
  replay : List Rep
  resend : Nat
  run : Nat
  runFrom : Option Nat
  ackDue : Option Nat
  tmoAt : Option Nat
  discard : Bool
  nakEnd : Option Nat
  nak : Bool
  credits : List Nat
  crDue : List Nat
  crHeld : Nat
  free0 : List Nat
  good : Nat
  ready : Bool
  fresh : Bool
  peerFresh : Bool
  peerReady : Bool
  peerExp : Option Nat
  peerFree : List Nat
  stale : Option Nat
  sent : Nat
  wire : List Wire
  deriving DecidableEq, Repr

/-- Eight zeros: a count per VC. -/
def zeros8 : List Nat := [0, 0, 0, 0, 0, 0, 0, 0]

/-- A link end as its own reset leaves it: about to train for the first time (R70, R71). -/
def LinkEnd.init : LinkEnd :=
  { st := .train, txSeq := 0, rxExp := 0, replay := [], resend := 0, run := 0, runFrom := none, ackDue := none, tmoAt := none,
    discard := false, nakEnd := none, nak := false, credits := zeros8, crDue := [], crHeld := 0,
    free0 := [8, 8, 8, 8, 8, 8, 8, 8], good := 0, ready := false, fresh := true, peerFresh := false,
    peerReady := false, peerExp := none, peerFree := zeros8, stale := none, sent := 0, wire := [] }

/-! ## Routers (R56 to R64, R76, R111 to R113, R119 to R132) -/

/-- A flit in an input buffer: `credit` is false for a unit the router itself produced (R72), `bad` counts the bits an
injected error inverted (R387). -/
structure VcFlit where
  payload : Payload
  head : Bool
  tail : Bool
  credit : Bool
  bad : Nat
  deriving DecidableEq, Repr

/-- R64: one requested output of the packet at the head of an input VC: the output VC it needs (R57) and the one it
holds, the header unit it sends, whether its header has been sent, whether the flit now at the head has crossed, and
whether the copy sinks without an output (R72, R365). -/
structure Copy where
  out : Nat
  want : Nat
  ovc : Option Nat
  hdr : Payload
  begun : Bool
  sent : Bool
  void : Bool
  deriving DecidableEq, Repr

/-- The routed packet at the head of an input VC: its copies (none: it is discarded whole, R76, R89), its epoch and
group. -/
structure Cur where
  copies : List Copy
  epoch : Nat
  grp : Nat
  deriving DecidableEq, Repr

/-- R58, R442: an input VC: its flits, the data units its arriving packet still lacks, and the routed packet. -/
structure VcIn where
  q : List VcFlit
  left : Option Nat
  cur : Option Cur
  deriving DecidableEq, Repr

/-- An empty input VC. -/
def VcIn.init : VcIn := { q := [], left := none, cur := none }

/-- R147, R148: the state of a deficit round robin: the current class, the deficits of CTL, COL and BLK (places 1 to
3), the last input granted per class, and the group level. -/
structure Drr where
  cur : Nat
  dfc : List Nat
  last : List Nat
  gcur : Nat
  gdef : FMap Nat
  deriving DecidableEq, Repr

/-- R147, R160: cur = CTL, deficits 0. -/
def Drr.init : Drr := { cur := 1, dfc := [0, 0, 0, 0], last := [15, 15, 15, 15], gcur := 0, gdef := [] }

/-- A welt flit waiting at an input (R123). -/
structure WFlit where
  payload : Payload
  head : Bool
  tail : Bool
  deriving DecidableEq, Repr

/-- A router port: its input VCs; as an output, who holds each output VC (0 free, 1 + 8·input + VC), the last winners
(R63), the arbitration state; the resident packets per epoch (R112); the waiting welt flits per input index; and the count of
words written to its input buffer with the newest one's VC (R387). -/
structure RPort where
  vcs : List VcIn
  holders : List Nat
  ovcLast : List Nat
  nomLast : Nat
  rspLast : Nat
  drr : Drr
  resid : List Nat
  welt : FMap (List WFlit)
  bufWr : Nat × Nat
  deriving DecidableEq, Repr

/-- A port after reset. -/
def RPort.init : RPort :=
  { vcs := [VcIn.init, VcIn.init, VcIn.init, VcIn.init, VcIn.init, VcIn.init, VcIn.init, VcIn.init],
    holders := zeros8, ovcLast := [6, 6, 6, 6, 6, 6, 6, 6], nomLast := 7, rspLast := 6, drr := Drr.init,
    resid := [0, 0, 0, 0], welt := [], bufWr := (0, 0) }

/-- A router: its ports, the port enables and the clears pending (R113), and the outputs that defer their swap, each with the
tick of the frame start at which it last did (R132). The number of the bank in use is the parity of the field's swaps. -/
structure Router where
  ports : FMap RPort
  ena : Nat
  clr : Nat
  wait : FMap Nat
  deriving DecidableEq, Repr

/-- A router after reset: every port enabled (R118). -/
def Router.init : Router := { ports := [], ena := 127, clr := 0, wait := [] }

/-! ## Network interfaces and gateways: packets -/

/-- A packet taken from a link by a unit, with where it came in: the attachment index, or the receive index of a welt
packet. `place` is where a memory or host port's check put its range when its header unit reached the port (R275, R280),
`t` the arrival time of a TIME packet (R339), `free` the free value a ZERO of an undefined copy places (R215). -/
structure RxPkt where
  hdr : Payload
  data : List Payload
  welt : Bool
  port : Nat
  place : Option Nat := none
  t : Nat := 0
  free : Option Nat := none
  deriving DecidableEq, Repr

/-- A packet being taken: header unit, data units newest first, data units still to come, and its place (R275, R280). -/
structure Asm where
  hdr : Payload
  data : List Payload
  left : Nat
  place : Option Nat := none
  deriving DecidableEq, Repr

/-- R58: one VC of a receiving side: flits not yet taken, and the packet in progress. -/
structure RxVc where
  buf : List VcFlit
  asm : Option Asm
  deriving DecidableEq, Repr

/-- The receiving side of a unit at one link end. -/
structure RxEnd where
  vcs : List RxVc
  deriving DecidableEq, Repr

/-- An empty receiving side. -/
def RxEnd.init : RxEnd := { vcs := List.replicate 8 ⟨[], none⟩ }

/-- R96: what an outstanding entry remembers of its request; that of a host port also the header unit as the request's target
sees it (R274). -/
structure OutEnt where
  quar : Bool
  since : Nat
  cmd : Nat
  ctx : Option Nat
  crc : Nat
  len : Nat
  place : Nat
  stream : Option Nat
  fence : Bool
  welt : Option Nat
  epoch : Nat
  offw : Option Nat
  asked : Payload := 0
  deriving DecidableEq, Repr

/-- What the outstanding entry of a request that a packet carries will hold, but for what injection adds. -/
structure OutReq where
  cmd : Nat
  ctx : Option Nat
  crc : Nat
  len : Nat
  place : Nat
  stream : Option Nat
  fence : Bool
  welt : Option Nat
  offw : Option Nat
  deriving DecidableEq, Repr

/-- R307: what the arrival of a transit packet's header unit settled of its route: nothing, the route in its header unit, that the
bank then active has no eligible path for it (and whether a wafer lookup missed), or the epoch of that bank, all of whose eligible
paths were skipped. -/
inductive PreRoute where
  | later
  | routed
  | lost (miss : Bool)
  | bank (ep : Nat)
  deriving DecidableEq, Repr

/-- A packet built and not yet sent: its header unit without the fields stamped at L (R81), its data units, its class
and group, what a request will hold in the outstanding table, the descriptor context it belongs to, the charge of its
queue's shaper, the attachment cell a gateway's answer leaves by, whether it keeps its TS and SRC fields (R274), the link a
transit packet came in by (R306), what is settled of its route (R307), and whether it answers a packet held at a loss
(R315). -/
structure TxPkt where
  hdr : Payload
  data : List Payload
  cls : Nat
  grp : Nat
  req : Option OutReq
  ctx : Option Nat
  q : Option Nat
  port : Nat
  raw : Bool
  via : Option Nat
  pre : PreRoute := .later
  loss : Bool := false
  deriving DecidableEq, Repr

/-- The packet that holds the VC of its class into L (or C, or G): the flits still to send, TYPE with each. -/
structure TxCur where
  pkt : TxPkt
  begun : Bool
  left : List Payload
  deriving DecidableEq, Repr

/-- The sending side of a unit at one link end: packets ready to start, the packet on each class's VC, the round robin
of R145 and the arbitration of R147. -/
structure TxEnd where
  queue : List TxPkt
  cur : List (Option TxCur)
  qLast : List Nat
  drr : Drr
  deriving DecidableEq, Repr

/-- An idle sending side. -/
def TxEnd.init : TxEnd := { queue := [], cur := [none, none, none, none], qLast := [63, 63, 63, 63], drr := Drr.init }

/-! ## Descriptors and rings (R232 to R263) -/

/-- Where the bytes of a packet still to be built come from. -/
inductive Src where
  | mem (off len : Nat)
  | bytes (l : List Byte)
  deriving DecidableEq, Repr

/-- One packet a descriptor still has to send: command, class, destination fabric address (R32), offset of the
source bytes, inline value and length, CSPEC, fence, the placement offset a READ_REQ names, the multicast fields
([275:272] and [297:276] as in R78, and the field mask), whether a stream carries it, the bytes it stands for, and the check
value of bytes the packet does not carry itself (ZERO, R208), whether a host port's meter has passed it (R153), and for a ZERO of
an undefined copy (R215) the free value that it places. -/
structure Plan where
  cmd : Nat
  cls : Nat
  dest : Nat
  src : Src
  inl : Nat
  inlen : Nat
  cspec : Nat
  fence : Bool
  mcast : Bool
  mview : Nat
  mask : Nat
  onStream : Bool
  len : Nat
  crc : Nat
  met : Bool := false
  free : Option Nat := none
  deriving DecidableEq, Repr

/-- Where a descriptor stands: read and not yet started; started and waiting for an event of its own (a time, a
release, a welt's last answer, a collective); running. -/
inductive CtxSt where
  | fetched
  | waiting
  | active
  deriving DecidableEq, Repr

/-- R239: a descriptor context: its ring and completion ring, the descriptor, its packets still to send, the packets
not yet answered, whether it has issued (R241), the first error found (R242), RESULT, and the flags of R258. `aux`
holds what an opcode keeps: the source context of a welt, the entry of a collective, the notice's ring. -/
structure Ctx where
  ring : Nat
  cq : Nat
  desc : BitVec 512
  st : CtxSt
  todo : List Plan
  out : Nat
  issued : Bool
  err : Option (Nat × Nat)
  result : Nat
  late : Bool
  unsync : Bool
  aux : Nat
  deriving DecidableEq, Repr

/-- R263: the state of a ring. -/
inductive RingSt where
  | stopped
  | running
  | stopping
  | error
  deriving DecidableEq, Repr

/-- R233: a submission ring. -/
structure SqRing where
  st : RingSt
  pi : Word
  ci : Word
  deriving DecidableEq, Repr

/-- R233: a completion ring. -/
structure CqRing where
  st : RingSt
  cpi : Word
  cci : Word
  deriving DecidableEq, Repr

/-- A stopped submission ring. -/
def SqRing.init : SqRing := { st := .stopped, pi := 0, ci := 0 }

/-- A stopped completion ring. -/
def CqRing.init : CqRing := { st := .stopped, cpi := 0, cci := 0 }

/-! ## Streams, fences, welts, shapers (R98 to R104, R133 to R135, R150) -/

/-- R117: a source stream entry; `open` is false while its STREAM_REQ is unanswered, `relCtx` the context of the
release that waits. -/
structure SrcStream where
  live : Bool
  broken : Bool
  fout : Bool
  relPend : Option Nat
  dest : Nat
  q : Nat
  stag : Nat
  sinst : Nat
  sgen : Nat
  sent : Nat
  unack : Nat
  deriving DecidableEq, Repr

/-- R101, R117: the fenced packet that a Last entry holds. -/
structure Held where
  gen : Nat
  scount : Nat
  pkt : RxPkt
  deriving DecidableEq, Repr

/-- R117: a Last entry: open, instance, owner (wafer, x, y, queue), the two arrival counts, the hold slot. -/
structure LastEnt where
  valid : Bool
  inst : Nat
  wafer : Nat
  x : Nat
  y : Nat
  q : Nat
  cnt : List Nat
  held : Option Held
  bad : Nat
  deriving DecidableEq, Repr

/-- A Last entry after reset. -/
def LastEnt.init : LastEnt :=
  { valid := false, inst := 0, wafer := 0, x := 0, y := 0, q := 0, cnt := [0, 0], held := none, bad := 0 }

/-- R141: a source welt context; `timedOut` and `closeCtx` serve R135. -/
structure WeltSrc where
  closing : Bool
  q : Nat
  ridx : Nat
  wid : Nat
  dest : Nat
  timedOut : Bool
  closeCtx : Option Nat
  deriving DecidableEq, Repr

/-- R141: a receive welt context with the framing state of its index (R129). -/
structure WeltRx where
  valid : Bool
  closed : Bool
  wid : Nat
  sx : Nat
  sy : Nat
  sw : Nat
  frameErr : Nat
  asm : Option Asm
  deriving DecidableEq, Repr

/-- A receive context after reset. -/
def WeltRx.init : WeltRx :=
  { valid := false, closed := false, wid := 0, sx := 0, sy := 0, sw := 0, frameErr := 0, asm := none }

/-- R150, R152: a queue shaper: the settings it has taken that act between refills, and its credit. -/
structure Shaper where
  enable : Bool
  ovh : Nat
  credit : Int
  deriving DecidableEq, Repr

/-- A shaper after reset. -/
def Shaper.init : Shaper := { enable := false, ovh := 0, credit := 0 }

/-- R285: a completion entry that waits for the host's link: its completion ring and its bits but for PHASE. -/
structure Cpl where
  cq : Nat
  entry : BitVec 128
  deriving DecidableEq, Repr

/-- A unit that builds and takes packets: a cell's NI or a gateway port. Its rings, contexts, outstanding table,
epoch (R111), spray state (R94: entry·2 + group, with cur and left), the packets taken and not yet handled, the
responses built and not yet sent (R110), the streams, Last with the count of words written to it and the newest one's entry
(R387), welt contexts and the welt packet in hand per index, throttles, shapers, and completion entries that wait. -/
structure PUnit where
  sq : FMap SqRing
  cq : FMap CqRing
  ctxs : FMap Ctx
  ctxMax : Nat
  nextId : Nat
  fetchLast : Nat
  out : FMap OutEnt
  epoch : Nat
  spray : FMap (Nat × Nat)
  inbox : List RxPkt
  resp : List TxPkt
  streams : FMap SrcStream
  last : FMap LastEnt
  lastWr : Nat × Nat
  weltSrc : FMap WeltSrc
  weltRx : FMap WeltRx
  weltCur : FMap TxCur
  paused : List Bool
  shapers : FMap Shaper
  cpl : List Cpl
  deriving DecidableEq, Repr

/-- A unit after reset. -/
def PUnit.init : PUnit :=
  { sq := [], cq := [], ctxs := [], ctxMax := 0, nextId := 0, fetchLast := 63, out := [], epoch := 0, spray := [],
    inbox := [], resp := [], streams := [], last := [], lastWr := (0, 0), weltSrc := [], weltRx := [], weltCur := [],
    paused := [false, false, false, false], shapers := [], cpl := [] }

/-! ## Memory and host ports (R275 to R285) -/

/-- A request that a memory or host port holds: the request's packet, with its bus or stack offset and length. -/
structure MemReq where
  pkt : RxPkt
  wr : Bool
  off : Nat
  len : Nat
  deriving DecidableEq, Repr

/-- R267: a mailbox: the message, FULL, the received pointer, MSG_CNT. -/
structure Mbx where
  ptr : BitVec 64
  tag : Word
  full : Bool
  rxPtr : BitVec 64
  cnt : Nat
  deriving DecidableEq, Repr

/-- A mailbox after reset. -/
def Mbx.init : Mbx := { ptr := 0, tag := 0, full := false, rxPtr := 0, cnt := 0 }

/-- R154: a meter: whether it has started, and its buckets in units of 2^-16 byte. -/
structure Meter where
  enable : Bool
  tc : Nat
  tp : Nat
  deriving DecidableEq, Repr

/-- A meter after reset. -/
def Meter.init : Meter := { enable := false, tc := 0, tp := 0 }

/-- R278, R299: a host port's PCIe link, and the max payload size and max read request size that the function's Device
Control register configures, in bytes. -/
structure HostLink where
  up : Bool
  flit : Bool
  speed : Nat
  width : Nat
  bme : Bool
  mps : Nat
  mrrs : Nat
  deriving DecidableEq, Repr

/-- A host port's link at reset: down; the sizes are the PCIe defaults (PRESUMED, log entry 16). -/
def HostLink.init : HostLink := { up := false, flit := false, speed := 0, width := 0, bme := false, mps := 128, mrrs := 512 }

/-! ## Optical links (R286 to R296, R309 to R315, R338 to R341) -/

/-- R300: the state of an optical link. -/
inductive OptSt where
  | down
  | laneTest
  | train
  | up
  | replay
  | fail
  | disabled
  deriving DecidableEq, Repr

/-- R340: a time exchange in flight: its number, t1 (T40 with its fraction) and UNSYNC at t1, the cycle it began, whether its
REQ has been sent, and whether it is spoiled (R341). -/
structure Exch where
  xseq : Nat
  t1 : Nat
  unsync : Bool
  since : Nat
  sent : Bool
  spoiled : Bool
  deriving DecidableEq, Repr

/-- R345: the latest valid result of a time exchange. -/
structure ExchRes where
  ofs : Nat
  dly : Nat
  own : Bool
  peer : Bool
  range : Bool
  xseq : Nat
  deriving DecidableEq, Repr

/-- R287: a codeword being filled: SEQ12, the back channel and the time as its first flit was framed (R292, R339), and the
flits so far. -/
structure CwBuild where
  seq : Nat
  ack : Nat
  nak : Bool
  t : Nat
  flits : List (BitVec 568)
  deriving DecidableEq, Repr

/-- A codeword not begun. -/
def CwBuild.init : CwBuild := { seq := 0, ack := 0, nak := false, t := 0, flits := [] }

/-- R307, R339: what a gateway notes as a header unit comes in from the link: the time, and for a transit packet the header
unit it would send by each attachment cell under the bank then in use, in its own class (0, 1) and demoted to BLK (2, 3). -/
structure InMark where
  t : Nat
  hdrs : List (PreRoute × Payload)
  deriving DecidableEq, Repr

/-- The part of an optical gateway beyond its link end (whose protocol state lies in `State.links`). Its link state;
the band cycle by which the present LANE_TEST or TRAIN must end (R314) and by which an expected neighbour must show
itself (R309), and whether each has passed; lane test: RXGOOD, the peer's mask and DONE, its own DONE, runs of good
codewords per lane and of an unchanged RXGOOD, uncorrectable codewords per lane in the window that began at `ueFrom`;
the lane sets; version, DISC; the codeword counters of both directions and the codeword in the making and last sent;
admission and loss (R310, R314); packets toward the link with their VCs and arbitration; the ingress VCs, its
alternation, the chunk instances answered in this loss (R315); welt stores, the tables that took a pending swap before the
others (`ahead`) and those that have still to take the last one (`behind`, each with the tick at which it last deferred,
R132, R295); time exchange (R340-R345); what was noted of each header unit still in the ingress, per VC (`marks`); and the
count of codewords sent (R387). `ident` says that the peer's identity has come since the link left DOWN. -/
structure Opt where
  st : OptSt
  holdBy : Nat
  held : Bool
  discBy : Nat
  waited : Bool
  rxgood : Nat
  peerGood : Option Nat
  peerDone : Bool
  done : Bool
  laneRun : List Nat
  stableRun : List Nat
  doneTx : Nat
  ueRun : List Nat
  ueFrom : Nat
  txSet : Nat
  rxSet : Nat
  ver : Nat
  ident : Bool
  disc : Nat
  txq : Nat
  rxq : Nat
  cw : CwBuild
  txCw : Option Codeword
  outcome : Nat
  admits : Bool
  lost : Bool
  probe : Bool
  probeStale : Bool
  probeAt : Option Nat
  out : List RxPkt
  txCur : FMap TxCur
  drr : Drr
  ingress : List RxVc
  altLast : Nat
  answered : List (Nat × Nat)
  wOut : FMap (List WFlit)
  wIn : FMap (List WFlit)
  ahead : List Nat
  behind : FMap Nat
  exch : Option Exch
  xseq : Nat
  exchAt : Option Nat
  marks : List (List InMark)
  result : Option ExchRes
  sent : Nat
  deriving DecidableEq, Repr

/-- An optical gateway after reset: DISC_TMO of 100 ms runs (R309). -/
def Opt.init : Opt :=
  { st := .down, holdBy := 0, held := false, discBy := 240000000, waited := false, rxgood := 0, peerGood := none,
    peerDone := false, done := false, laneRun := zeros8, stableRun := zeros8, doneTx := 0, ueRun := zeros8, ueFrom := 0, txSet := 0,
    rxSet := 0, ver := 0, ident := false, disc := 0, txq := 0, rxq := 0, cw := CwBuild.init, txCw := none, outcome := 0, admits := false,
    lost := false, probe := false, probeStale := false, probeAt := none, out := [], txCur := [], drr := Drr.init,
    ingress := List.replicate 8 ⟨[], none⟩, altLast := 1, answered := [], wOut := [], wIn := [], ahead := [], behind := [],
    exch := none, xseq := 0, exchAt := none, marks := List.replicate 8 [], result := none, sent := 0 }

/-- What a gateway port holds beyond `PUnit`: requests at the stack or host, mailboxes, meters with the number of periods of 256
cycles that their updates have used (0: none since the band's clocks last started, R154), the optical part. -/
structure Gw where
  reqs : List MemReq
  ready : Bool
  mbx : FMap Mbx
  link : HostLink
  meters : FMap Meter
  updates : Nat
  opt : Opt
  deriving DecidableEq, Repr

/-- A gateway port after reset. -/
def Gw.init : Gw :=
  { reqs := [], ready := false, mbx := [], link := HostLink.init, meters := [], 
    updates := 0, opt := Opt.init }

/-! ## Power, clocks, time (R325 to R372) -/

/-- R358: the state of a power domain. -/
inductive PwrSt where
  | run
  | sleep
  | deep
  | off
  | draining
  | waking
  | reset
  deriving DecidableEq, Repr

/-- R335: a time pulse on its way to a copy: the microsecond it marks, the copy's cycle it arrives in (counted as `Dom.ticks`
counts), the master's UNSYNC and STEPPED. -/
structure MerPulse where
  x : Nat
  at_ : Nat
  unsync : Bool
  stepped : Bool
  deriving DecidableEq, Repr

/-- R334, R335: a Meridian copy: visible time and the target as the last pulse set it, in units of 2^-16 ns, the cycle of
that pulse (counted as `Dom.ticks` counts), the length of the last interval measured (0: none yet), pulses taken in a row while its clock ran, whether no pulse has come since its clock last stopped, VALID, the master's UNSYNC as sent, how
many interval tests a step exempts, and the pulses on their way to it, first to arrive first. -/
structure MerCopy where
  vis : Nat
  target : Nat
  at_ : Nat
  nPrev : Nat
  pulses : Nat
  gap : Bool
  valid : Bool
  unsync : Bool
  exempt : Nat
  flight : List MerPulse
  deriving DecidableEq, Repr

/-- A copy after reset. -/
def MerCopy.init : MerCopy :=
  { vis := 0, target := 0, at_ := 0, nPrev := 0, pulses := 0, gap := true, valid := false, unsync := true, exempt := 0, flight := [] }

/-- A power domain: state, target of the move in progress, phase (0 QUIESCE, 1 CLOSE, 2 GATE), the latched wake's
source (0: none), the ACLK cycle of the last wake request (R368), the time (ACLK) at which the phase or wake began, the last GO's REASON and LAST_WAKE, cycles since reset while its TIME
group ran (R119), shaper refills done (R152), its Meridian copy, its snapshot copies' ID and flags (R391, R392), the mirrored
values it holds (R428), and the enable sets in force (R371). -/
structure Dom where
  st : PwrSt
  target : PwrSt
  phase : Nat
  wakePend : Nat
  wakeAt : Option Nat
  since : Nat
  drainFrom : Nat
  refills : Nat
  reason : Nat
  lastWake : Nat
  ticks : Nat
  mer : MerCopy
  snapId : Nat
  skew : Bool
  deferred : Bool
  copies : FMap Word
  sleepEn : Nat
  deepEn : Nat
  remapBad : Bool
  deriving DecidableEq, Repr

/-- R358, R371: RESET from power-on. -/
def Dom.init : Dom :=
  { st := .reset, target := .run, phase := 0, wakePend := 0, wakeAt := none, since := 0, drainFrom := 0, refills := 0, reason := 0,
    lastWake := 0, ticks := 0, mer := MerCopy.init, snapId := 0, skew := false, deferred := false,
    copies := [], sleepEn := 0, deepEn := 0, remapBad := false }

/-- R347, R372: the signals of a clock's PLL, a RELOCK in progress, its cycle count, the count at which it last entered or
left coast or its PLL last stopped, and the reference count at which its measuring window began. -/
structure Clk where
  srcOk : Bool
  locked : Bool
  coast : Bool
  relocking : Bool
  cyc : Nat
  coastAt : Nat
  measFrom : Nat
  deriving DecidableEq, Repr

/-- A clock as the always-on logic finds it (log entry 9): reference present, locked, not coasting. -/
def Clk.init : Clk := { srcOk := true, locked := true, coast := false, relocking := false, cyc := 0, coastAt := 0, measFrom := 0 }

/-- R331, R332: a capture: the MCLK cycle it was sampled in, its input, tag, time (2^-16 ns) and UNSYNC. -/
structure Capture where
  cyc : Nat
  src : Nat
  tag : Nat
  t : Nat
  unsync : Bool
  deriving DecidableEq, Repr

/-- R325 to R333: the Meridian master: the counter in units of 2^-40 ns, what a SET or STEP makes of it in the next MCLK cycle
(R327), the ADJ in force in that cycle, the capture queue and the captures of the present cycle that found it full (R332), the
MCLK cycle of each input's last event, PPS_OUT, the holdover start, what the next pulse carries, and whether the hardware
cleared LOCK in this cycle (R344). -/
structure Mer where
  cnt : Nat
  jump : Option Nat
  adj : Word
  queue : List Capture
  late : List Capture
  lastEv : List (Option Nat)
  ppsHigh : Bool
  ppsEnd : Nat
  ppsAt : Nat
  ppsDue : Bool
  holdFrom : Nat
  stepped : Bool
  pulseX : Nat
  cleared : Bool
  deriving DecidableEq, Repr

/-- The master at 0 (R325). -/
def Mer.init : Mer :=
  { cnt := 0, jump := none, adj := 0, queue := [], late := [], lastEv := [none, none, none], ppsHigh := false, ppsEnd := 0, ppsAt := 0,
    ppsDue := false, holdFrom := 0, stepped := false, pulseX := 0, cleared := false }

/-! ## Faults, telemetry, security, bring-up -/

/-- R375: a report: collector (52: service), cell, class, injected. -/
structure Report where
  d : Nat
  cell : Nat
  cls : Nat
  inj : Bool
  deriving DecidableEq, Repr

/-- R378, R384: a report on its way to the log: its severity, and whether it set FLT_FIRST_d and FLT_FATAL_LOC. -/
structure TopRep where
  rep : Report
  sev : Nat
  first : Bool
  loc : Bool
  deriving DecidableEq, Repr

/-- R374 to R387: the pins now high whose rise has been seen, the pending queues, the reports on their way to the
log, the hold register of R386, the injection pending with its target and control words, and the count that its target's
words, chunks or flits had reached at the GO. -/
structure Flt where
  seen : List (Nat × Nat × Nat)
  pend : FMap (List Report)
  top : List TopRep
  hold : List Word
  inj : Bool
  tgt : Word
  ctl : Word
  mark : Nat
  deriving DecidableEq, Repr

/-- The fault unit after reset. -/
def Flt.init : Flt :=
  { seen := [], pend := [], top := [], hold := [0, 0, 0], inj := false, tgt := 0, ctl := 0, mark := 0 }

/-- R388 to R392: live counters and snapshot copies by (domain·2048 + cell)·128 + index, and the request in
distribution: Ts in units of 2^-16 ns and the fields and bands that have not copied (64 more: it came after Ts). -/
structure Tel where
  live : FMap Nat
  snap : FMap Nat
  id : Nat
  busy : Bool
  ts : Nat
  todo : List Nat
  deriving DecidableEq, Repr

/-- Telemetry after reset. -/
def Tel.init : Tel := { live := [], snap := [], id := 0, busy := false, ts := 0, todo := [] }

/-- What the security unit is busy with. -/
inductive SecBusy where
  | idle
  | nonce
  | verify
  deriving DecidableEq, Repr

/-- R405 to R417: the security unit. `since` is the ACLK cycle at which CHAL was set, `busyAt` the SCLK cycle at which a
comparison began; the lockout, in ACLK cycles and seconds, lies in the always-on logic. -/
structure Sec where
  level : Nat
  pend : Nat
  chal : Bool
  owner : Nat
  mode : Nat
  busy : SecBusy
  fails : Nat
  nonce : BitVec 256
  resp : FMap Word
  issued : Nat
  since : Nat
  busyAt : Nat
  locked : Bool
  lockFrom : Nat
  lockLen : Nat
  lockouts : Nat
  deriving DecidableEq, Repr

/-- The security unit after reset: LOCKED. -/
def Sec.init : Sec :=
  { level := 0, pend := 0, chal := false, owner := 0, mode := 0, busy := .idle, fails := 0, nonce := 0, resp := [],
    issued := 0, since := 0, busyAt := 0, locked := false, lockFrom := 0, lockLen := 0, lockouts := 0 }

/-- R433, R434: the power-on sequencer. -/
structure Boot where
  step : Nat
  row : Nat
  done : Bool
  fail : Bool
  optGo : Bool
  fused : Bool
  deriving DecidableEq, Repr

/-- R415, R416: the test access port: the instruction, the status and data of the last access, the bits that the last scan
of the instruction register and of a data register shifted out, the boundary register's update latch, and whether an
instruction that a RELOCK took the level from acts until the next Capture-DR (R411). -/
structure Tap where
  ir : Nat
  status : Nat
  data : Word
  irOut : Nat
  out : Nat
  bsr : Nat
  lag : Bool
  deriving DecidableEq, Repr

/-- R415: Test-Logic-Reset selects IDCODE; the latches the spec gives no value: log entry 34. -/
def Tap.init : Tap := { ir := 1, status := 0, data := 0, irOut := 0, out := 0, bsr := 0, lag := false }

/-- The fuse block (surroundings, R2): column and row fence masks of each field and its defect count (R22), wafer
serial (R36), lifecycle (R405), key and password digest with their checks (R406), MER_FOFS (R344). -/
structure Fuses where
  cols : FMap Nat
  rows : FMap Nat
  defects : FMap Nat
  serial : BitVec 64
  life : Nat
  key : BitVec 256
  keyOk : Bool
  pwd : BitVec 256
  pwdOk : Bool
  fofs : FMap Word
  deriving DecidableEq, Repr

/-- Fuses of a defect-free wafer (R22), SECURED (R405), the rest chosen: log entry 3. -/
def Fuses.init : Fuses :=
  { cols := [], rows := [], defects := [], serial := 1, life := 1, key := 0, keyOk := true, pwd := 0, pwdOk := false,
    fofs := [] }

/-- What a path received last (R416, R424, R430): status 0 OK, 2 ERROR, 3 DENIED (R402), 4 Unsupported Request (R278; the
number is the model's), and read data. -/
structure Resp where
  status : Nat
  cause : Nat
  data : Word
  deriving DecidableEq, Repr

/-- R400, R416, R424, R427: how an access comes: a path, with the management port's tag, the TAP's instruction or the
host's BAR; or a part of a broadcast, by its requester's number and its own: the write of one field, a field that failed
with a cause, and the answer that waits for all of them. -/
inductive Via where
  | mgmt (tag : Fin 32)
  | tapSec
  | tapCfg
  | bar0 (h : Nat)
  | bar2 (h : Nat)
  | loc (c : Cell)
  | piece (v i : Nat)
  | pieceFail (v i cause : Nat)
  | pieceEnd (v i : Nat)
  deriving DecidableEq, Repr

/-- R429, R431: what befalls an access on the network: nothing; a word corrected; no answer in time, which a late answer
may follow; a word lost, on the way out or back. -/
inductive Fate where
  | good
  | corrected
  | timeout (late : Bool)
  | lost (back : Bool)
  deriving DecidableEq, Repr

/-- A configuration access, as it comes and as it is held until its domain runs (R363, R366): its address as one number
(2^38 and the offset for BAR2 beyond the window, R432); for a REQUEST what the entropy source's test says (R407); whether
it has been judged by R402, and as one that only observes (R413); what befalls it on the network, and in which domains (bit d:
domain d). -/
structure HeldAcc where
  via : Via
  key : Nat
  wr : Bool
  v : Word
  healthy : Bool
  ok : Bool := false
  obs : Bool := false
  fate : Fate := .good
  hit : Nat := 0
  deriving DecidableEq, Repr

/-! ## Combine units (R164-R202) -/

/-- R170, R175: a chunk of which some halves have landed, in the slot its credit reserved, with its check value. -/
structure CSlot where
  idx : Nat
  h0 : Option (List Byte)
  h1 : Option (List Byte)
  crc : Nat
  deriving DecidableEq, Repr

/-- R175, R179, R196: what an entry keeps of one tree edge: credits it holds toward the neighbour and whether it has had
one, credits granted and not yet used, whether a DATA chunk or TOKEN has passed the comparisons, and of the present phase
the TOKEN's count, the chunks landed and verified, and the slots in use. -/
structure CEdge where
  cred : Nat
  credSeen : Bool
  granted : Nat
  passed : Bool
  tok : Option Nat
  got : Nat
  slots : List CSlot
  deriving DecidableEq, Repr

/-- An edge of an idle entry. -/
def CEdge.init : CEdge :=
  { cred := 0, credSeen := false, granted := 0, passed := false, tok := none, got := 0, slots := [] }

/-- R175: a down chunk on its way: its phase, index, bytes and check value, the targets it still has to go to (children
0-5, 6 the entry one level below, 8 a multicast), and which credit its slot returns: 0 none, 1 that of child 0, 2 that of
the parent. -/
structure CItem where
  ph : Nat
  idx : Nat
  bytes : List Byte
  crc : Nat
  todo : List Nat
  slot : Nat
  out : Nat := 0
  deriving DecidableEq, Repr

/-- R177: a result formed and not yet sent up. -/
structure CRes where
  idx : Nat
  bytes : List Byte
  crc : Nat
  deriving DecidableEq, Repr

/-- R194: a signature. -/
structure CSig where
  op : Nat
  fmt : Nat
  red : Nat
  chash : Nat
  plan : Nat
  deriving DecidableEq, Repr

/-- R195: an early CREDIT: its edge as it names it (children 0-5, 7 the parent, 16 and more: none that an entry can have), its
count, its signature and SEQ. -/
structure CEarly where
  edge : Nat
  n : Nat
  sig : CSig
  seq : Nat
  deriving DecidableEq, Repr

/-- R197: a cause with its origin. -/
structure CCause where
  cause : Nat
  x : Nat
  y : Nat
  lvl : Nat
  deriving DecidableEq, Repr

/-- The run of a combine entry: the descriptor, the base entry's context, SEQ, whether the cell holds the top root, the
phase; the edges (children 0-5, 6 the entry below, 7 the parent or the entry above); the own chunk read, own chunks read,
results formed, results not yet sent and results on their way into C; chunks sent up in the phase and the up TOKEN; counts
of the instance; down chunks, chunks sent per phase and target (16·phase + target), the TOKENs and MAPs sent, how many
phases have ended here, the MAP received; the counts vectors (0 P, 1 T, 2 O, 3 + k S_k), the own map, the output map and U, the Finder's
counts and workspace; the progress timer, and where the Finder pass stopped it; ALLTOALLV's state; whether the result is
undefined; what has been written. -/
structure CRun where
  desc : BitVec 512
  ctx : Option Nat
  seq : Nat
  rootCell : Bool
  ph : Nat
  edges : FMap CEdge
  own : Option (Nat × List Byte)
  read : Nat
  next : Nat
  res : List CRes
  leaving : Nat
  upSent : Nat
  upTok : Bool
  upDone : Nat
  downDone : Nat
  downs : List CItem
  dsent : FMap Nat
  dtok : List Nat
  dmap : List Nat
  ended : Nat
  gotMap : Option (Nat × Nat)
  vecs : FMap (List Nat)
  ownMap : Nat
  map : Nat
  kept : Nat
  hist : FMap Nat
  ws : Nat
  since : Nat
  tmo : Nat
  passAt : Option Nat
  a2a : Bool
  outDrop : Nat
  inDrop : Nat
  undef : Bool
  written : List Nat
  deriving DecidableEq, Repr

/-- R202: a combine entry beyond its configuration words: its run, the early CREDITs and the aborts of instances to come (SEQ,
cause) that it holds (R195, R197), and the last abort's cause. -/
structure CEnt where
  run : Option CRun
  early : List CEarly
  aborts : List (Nat × CCause)
  last : CCause
  upDone : Nat
  downDone : Nat
  deriving DecidableEq, Repr

/-- An idle entry. -/
def CEnt.init : CEnt :=
  { run := none, early := [], aborts := [], last := ⟨0, 0, 0, 0⟩, upDone := 0, downDone := 0 }

/-- R195, R197: the early abort of an instance that an entry holds. -/
def CEnt.abortOf (x : CEnt) (seq : Nat) : Option CCause := (x.aborts.find? (fun y => y.1 == seq)).map (fun y => y.2)

/-- R175: a place in an entry's scratch: the entry; the receive slots of an edge (0-6), an up result (8) or a chunk that goes down
(9); phase, chunk index and half. -/
structure CPlace where
  e : Nat
  kind : Nat
  ph : Nat
  idx : Nat
  half : Nat
  deriving DecidableEq, Repr

/-- A combine unit: the chunks that have arrived, oldest first, its entries, the pipeline's round robin (R200), the bits that
injected errors have inverted at places of its scratch, the count of writes to scratch with the place of the last, and the count of
DATA chunks generated (R387). -/
structure Cmb where
  inbox : List RxPkt
  ents : FMap CEnt
  drr : Drr
  bad : List (CPlace × Nat)
  wr : Nat × CPlace
  gen : Nat
  deriving DecidableEq, Repr

/-- A combine unit after reset. -/
def Cmb.init : Cmb := { inbox := [], ents := [], drr := Drr.init, bad := [], wr := (0, ⟨0, 0, 0, 0, 0⟩), gen := 0 }

/-- A packet reaches the combine unit's sink. -/
def Cmb.take (x : Cmb) (p : RxPkt) : Cmb := { x with inbox := x.inbox ++ [p] }

/-- The state of the block. `errAt` is the ACLK and CCLK cycle of the error response that CFG_ERR recorded last and its
requester's place in the order of service (R429). -/
structure State where
  pending : List Instr
  mem : List Host.Cell
  regs : FMap Word
  links : FMap LinkEnd
  routers : FMap Router
  units : FMap PUnit
  rx : FMap RxEnd
  tx : FMap TxEnd
  cmbs : FMap Cmb
  gws : FMap Gw
  doms : FMap Dom
  clks : FMap Clk
  mer : Mer
  flt : Flt
  tel : Tel
  sec : Sec
  boot : Boot
  tap : Tap
  fuses : Fuses
  held : List HeldAcc
  resp : FMap Resp
  bar : FMap (Word × Word)
  warm : FMap (Nat × Nat)
  mirror : FMap Word
  errAt : Option (Nat × Nat × Nat)
  wakePin : Bool
  aclk : Nat
  freeCtr : Nat
  deriving DecidableEq, Repr

/-- R279: why a command stops. -/
inductive Fault where
  /-- An access beyond the 64 KB of BAR0 (R279): there is no such address. Raised by BAR_ACCESS. Safe. -/
  | outsideBar
  deriving DecidableEq, Repr

/-- Why a command has no meaning here. -/
inductive Refusal where
  /-- The command's meaning is not written yet. Raised by `exec`'s own arm. Safe. -/
  | notModelled (mnemonic : String)
  deriving DecidableEq, Repr

/-- The state right after power-good, before the sequencer's first step (R433): every domain in RESET, every register
at its reset value, no memory written, no command waiting. -/
def State.reset : State :=
  { pending := [], mem := [], regs := [], links := [], routers := [], units := [], rx := [], tx := [], cmbs := [],
    gws := [], doms := [], clks := [], mer := Mer.init, flt := Flt.init, tel := Tel.init, sec := Sec.init,
    boot := { step := 0, row := 0, done := false, fail := false, optGo := false, fused := false },
    tap := Tap.init, fuses := Fuses.init, held := [], resp := [], bar := [], warm := [], mirror := [], errAt := none,
    wakePin := false, aclk := 0, freeCtr := 0 }

end Sys2Proof.Machine
end

