-- ==== Sys2Proof/Machine/Ops.lean ====
section
/-! DEFINITION. The named operations over registers, memory, units, clocks and header units. -/

namespace Sys2Proof.Machine

/-! ## Registers -/

/-- The stored content of a register: its reset value until something writes it (R11). -/
def rd (s : State) (k : Nat) : Word := s.regs.get k (resetOf k)

/-- Store a register. -/
def wr (s : State) (k : Nat) (v : Word) : State := { s with regs := s.regs.set k v }

/-- A field of a stored register. -/
def rdF (s : State) (k lo len : Nat) : Nat := bits (rd s k) lo len

/-- Replace a field of a stored register. -/
def wrF (s : State) (k lo len v : Nat) : State := wr s k (put (rd s k) lo len v)

/-- Set sticky bits (R13: the hardware set wins). -/
def setBits (s : State) (k mask : Nat) : State := wr s k (rd s k ||| BitVec.ofNat 32 mask)

/-- Add to a count field that saturates at its largest value. -/
def cntUp (s : State) (k lo len n : Nat) : State := wrF s k lo len (satAdd (2 ^ len - 1) (rdF s k lo len) n)

/-- Raise a field that holds a highest value (R158). -/
def maxUp (s : State) (k lo len v : Nat) : State := wrF s k lo len (max (rdF s k lo len) (min v (2 ^ len - 1)))

/-! ## Memory -/

/-- What a byte that nothing has written reads as. Log entry 2. -/
def memDefault : Byte := 0

/-- Read a byte. -/
def memGet (m : List Host.Cell) (a : Nat) : Byte := FMap.get m a memDefault

/-- Write a byte, keeping the canonical form: no entry equals what an unlisted address reads as. -/
def memPut (m : List Host.Cell) (a : Nat) (v : Byte) : List Host.Cell :=
  if v = memDefault then FMap.erase m a else FMap.set m a v

/-- The canonical form: addresses strictly rising, no entry equal to the default. -/
def Memory.wf (m : List Host.Cell) : Bool := FMap.rising m && m.all (fun e => e.2 != memDefault)

/-- Write bytes from an address upward. -/
def memPuts (m : List Host.Cell) (a : Nat) : List Byte → List Host.Cell
  | [] => m
  | b :: r => memPuts (memPut m a b) (a + 1) r

/-- Read n bytes from an address upward. -/
def memGets (m : List Host.Cell) (a : Nat) : Nat → List Byte
  | 0 => []
  | n + 1 => memGet m a :: memGets m (a + 1) n

/-- The address of an offset in a memory space: a cell's cluster SRAM (its cell index), a memory port's stack
(57,600 + GW_ID) or a host's bus addresses (57,600 + GW_ID of the host port). -/
def memAddr (space off : Nat) : Nat := space * 18446744073709551616 + off

/-- Read bytes of a space. -/
def memRead (s : State) (space off n : Nat) : List Byte := memGets s.mem (memAddr space off) n

/-- Write bytes of a space. -/
def memWrite (s : State) (space off : Nat) (l : List Byte) : State :=
  { s with mem := memPuts s.mem (memAddr space off) l }

/-! ## Units, links, domains -/

/-- A link end after its own reset: an optical ingress holds 512 flits per VC (R293). -/
def LinkEnd.initOf (e : EndRef) : LinkEnd :=
  match e with
  | .optical _ => { LinkEnd.init with free0 := List.replicate 8 512 }
  | _ => LinkEnd.init

/-- A link end. -/
def link (s : State) (e : EndRef) : LinkEnd := s.links.get e.key (LinkEnd.initOf e)
/-- Store a link end. -/
def setLink (s : State) (e : EndRef) (l : LinkEnd) : State := { s with links := s.links.set e.key l }
/-- Update a link end. -/
def updLink (s : State) (e : EndRef) (f : LinkEnd → LinkEnd) : State := setLink s e (f (link s e))

/-- A router. -/
def router (s : State) (c : Cell) : Router := s.routers.get c.key Router.init
/-- Store a router. -/
def setRouter (s : State) (c : Cell) (r : Router) : State := { s with routers := s.routers.set c.key r }
/-- A port of a router. -/
def Router.port (r : Router) (p : Nat) : RPort := r.ports.get p RPort.init
/-- Store a port. -/
def Router.setPort (r : Router) (p : Nat) (x : RPort) : Router := { r with ports := r.ports.set p x }
/-- A router's port. -/
def rport (s : State) (c : Cell) (p : Nat) : RPort := (router s c).port p
/-- Store a router's port. -/
def setRport (s : State) (c : Cell) (p : Nat) (x : RPort) : State := setRouter s c ((router s c).setPort p x)
/-- An input VC. -/
def RPort.vc (x : RPort) (v : Nat) : VcIn := lget x.vcs v VcIn.init
/-- Store an input VC. -/
def RPort.setVc (x : RPort) (v : Nat) (y : VcIn) : RPort := { x with vcs := lset x.vcs v y }
/-- An input VC of a router's port. -/
def vcIn (s : State) (c : Cell) (p v : Nat) : VcIn := (rport s c p).vc v
/-- Store an input VC of a router's port. -/
def setVcIn (s : State) (c : Cell) (p v : Nat) (y : VcIn) : State := setRport s c p ((rport s c p).setVc v y)

/-- A packet unit. -/
def punit (s : State) (u : UnitRef) : PUnit := s.units.get u.key PUnit.init
/-- Store a packet unit. -/
def setUnit (s : State) (u : UnitRef) (x : PUnit) : State := { s with units := s.units.set u.key x }
/-- Update a packet unit. -/
def updUnit (s : State) (u : UnitRef) (f : PUnit → PUnit) : State := setUnit s u (f (punit s u))

/-- The receiving side at an end. -/
def rxEnd (s : State) (e : EndRef) : RxEnd := s.rx.get e.key RxEnd.init
/-- Store a receiving side. -/
def setRxEnd (s : State) (e : EndRef) (x : RxEnd) : State := { s with rx := s.rx.set e.key x }
/-- The sending side at an end. -/
def txEnd (s : State) (e : EndRef) : TxEnd := s.tx.get e.key TxEnd.init
/-- Store a sending side. -/
def setTxEnd (s : State) (e : EndRef) (x : TxEnd) : State := { s with tx := s.tx.set e.key x }

/-- A gateway port. -/
def gw (s : State) (g : GwId) : Gw := s.gws.get g.num Gw.init
/-- Store a gateway port. -/
def setGw (s : State) (g : GwId) (x : Gw) : State := { s with gws := s.gws.set g.num x }
/-- Update a gateway port. -/
def updGw (s : State) (g : GwId) (f : Gw → Gw) : State := setGw s g (f (gw s g))
/-- The optical part of a link's gateway. -/
def opt (s : State) (o : OptId) : Opt := (gw s o.gw).opt
/-- Store the optical part. -/
def setOpt (s : State) (o : OptId) (x : Opt) : State := updGw s o.gw (fun g => { g with opt := x })
/-- Update the optical part. -/
def updOpt (s : State) (o : OptId) (f : Opt → Opt) : State := setOpt s o (f (opt s o))

/-- A power domain. -/
def dom (s : State) (d : Nat) : Dom := s.doms.get d Dom.init
/-- Store a power domain. -/
def setDom (s : State) (d : Nat) (x : Dom) : State := { s with doms := s.doms.set d x }
/-- Update a power domain. -/
def updDom (s : State) (d : Nat) (f : Dom → Dom) : State := setDom s d (f (dom s d))

/-- A clock. -/
def clk (s : State) (k : Nat) : Clk := s.clks.get k Clk.init
/-- Store a clock. -/
def setClk (s : State) (k : Nat) (x : Clk) : State := { s with clks := s.clks.set k x }

/-- The cycles that a domain's clock has run (HCLK for the service group). -/
def cyc (s : State) (d : Nat) : Nat := (clk s d).cyc

/-- R346, R349: cycles of a domain's clock in a microsecond at the nominal rate. -/
def perUs (d : Nat) : Nat := if d < 48 then 2250 else if d < 52 then 2400 else 1000

/-- R369: ACLK cycles from the wake request until the domain's clocks run. -/
def ungateAt (x : Dom) : Nat :=
  if x.phase = 0 then 131 else if x.phase = 1 then 731 else if x.phase = 2 then 1931 else 1331

/-- Whether a domain is clocked: its ports can send and receive (R69, R358, R361). While WAKING, `phase` tells what
the wake has to bring up: 0 clocks, 1 supply too, 2 supply and PLL too (R369), 3 clocks and PLL. -/
def clocked (s : State) (d : Nat) : Bool :=
  let x := dom s d
  match x.st with
  | .run => true
  | .draining => x.phase < 2
  | .waking => x.since + ungateAt x ≤ s.aclk
  | _ => false

/-- R69: the state a link end shows: none for a G port that does not exist (ABSENT), DOWN for an idle G port and
while either side is not clocked. -/
def effSt (s : State) (e : EndRef) : Option PortSt :=
  match e with
  | .optical _ => some (link s e).st
  | .router c p =>
    if p.val = 6 ∧ c.edge = false then none
    else
      match e.peer with
      | none => some .down
      | some f => if clocked s e.dom && clocked s f.dom then some (link s e).st else some .down
  | _ =>
    match e.peer with
    | none => some .down
    | some f => if clocked s e.dom && clocked s f.dom then some (link s e).st else some .down

/-- Normal operation: UP or REPLAY (R69). -/
def PortSt.live : PortSt → Bool
  | .up => true
  | .replay => true
  | _ => false

/-- Whether an end is UP or REPLAY. -/
def linkUp (s : State) (e : EndRef) : Bool :=
  match effSt s e with
  | some st => st.live
  | none => false

/-! ## Telemetry (R388 to R390) -/

/-- The index of a live counter. -/
def telKey (d cell i : Nat) : Nat := (d * 2048 + cell) * 128 + i

/-- Add to a live counter, modulo 2^64. -/
def telAdd (s : State) (k n : Nat) : State :=
  { s with tel := { s.tel with live := s.tel.live.set k ((s.tel.live.get k 0 + n) % 18446744073709551616) } }

/-- R389: counter i of port p of a cell. -/
def telPort (s : State) (c : Cell) (p i n : Nat) : State := telAdd s (telKey c.field c.num (8 * p + i)) n

/-- R389: NI and combine counter i of a cell. -/
def telNi (s : State) (c : Cell) (i n : Nat) : State := telAdd s (telKey c.field c.num (56 + i)) n

/-- R390: counter i of a gateway port. -/
def telGw (s : State) (g : GwId) (i n : Nat) : State := telAdd s (telKey g.dom g.num i) n

/-! ## Meridian copies (R328, R335) -/

/-- R328: NSTIME of a domain's copy: the visible time in nanoseconds, modulo 2^32. -/
def nstime (s : State) (d : Nat) : Nat := (dom s d).mer.vis / 65536 % 4294967296

/-- R330: UNSYNC of a stamp: the copy is UNSYNC or not VALID. -/
def stampUnsync (s : State) (d : Nat) : Bool := (dom s d).mer.unsync || !(dom s d).mer.valid

/-- R328: a time of seconds and nanoseconds in nanoseconds. -/
def secNs (sec ns : Nat) : Nat := sec * 1000000000 + ns

/-- R328, R337: whether the visible time of a domain's copy is at or after a time in nanoseconds; FRAC takes no part.
Work keyed on the copy waits while it is not VALID. -/
def timeReached (s : State) (d t : Nat) : Bool := (dom s d).mer.valid && t ≤ (dom s d).mer.vis / 65536

/-- R334, R343: the Meridian copy that a unit reads: the service copy for a host port, else that of its domain. -/
def timeDom (u : UnitRef) : Nat :=
  match u with
  | .gw (.host _ _) => 52
  | _ => u.dom

/-! ## Header units (R78) -/

/-- A field of a header unit. -/
def hf (h : Payload) (lo len : Nat) : Nat := bits h lo len
/-- CMD. -/
def hCmd (h : Payload) : Nat := hf h 0 4
/-- CLASS. -/
def hCls (h : Payload) : Nat := hf h 4 2
/-- EPOCH. -/
def hEpoch (h : Payload) : Nat := hf h 6 2
/-- NDU. -/
def hNdu (h : Payload) : Nat := hf h 8 6
/-- INLEN. -/
def hInlen (h : Payload) : Nat := hf h 14 5
/-- LASTB. -/
def hLastb (h : Payload) : Nat := hf h 19 6
/-- FENCE. -/
def hFence (h : Payload) : Bool := bit h 25
/-- MCAST. -/
def hMcast (h : Payload) : Bool := bit h 26
/-- CSPEC. -/
def hCspec (h : Payload) : Nat := hf h 36 4
/-- TS. -/
def hTs (h : Payload) : Nat := hf h 40 32
/-- DEST.offset. -/
def hOff (h : Payload) : Nat := hf h 152 40
/-- DEST.y. -/
def hDy (h : Payload) : Nat := hf h 192 8
/-- DEST.x. -/
def hDx (h : Payload) : Nat := hf h 200 8
/-- DEST.wafer. -/
def hDw (h : Payload) : Nat := hf h 208 20
/-- DEST as a fabric address (R32). -/
def hDest (h : Payload) : Nat := hf h 152 76
/-- SRC_WAFER. -/
def hSw (h : Payload) : Nat := hf h 228 20
/-- SRC_X. -/
def hSx (h : Payload) : Nat := hf h 248 8
/-- SRC_Y. -/
def hSy (h : Payload) : Nat := hf h 256 8
/-- SRC_Q. -/
def hSq (h : Payload) : Nat := hf h 264 4
/-- TAG. -/
def hTag (h : Payload) : Nat := hf h 272 16
/-- SCOUNT. -/
def hScount (h : Payload) : Nat := hf h 288 16
/-- STAG. -/
def hStag (h : Payload) : Nat := hf h 304 9
/-- STV. -/
def hStv (h : Payload) : Bool := bit h 313
/-- FGEN. -/
def hFgen (h : Payload) : Nat := hf h 314 1
/-- SINST. -/
def hSinst (h : Payload) : Nat := hf h 315 4
/-- MASK. -/
def hMask (h : Payload) : Nat := hf h 320 48
/-- A field of the inline area, bit 384 + lo. -/
def hInl (h : Payload) (lo len : Nat) : Nat := hf h (384 + lo) len
/-- The inline bytes that INLEN counts. -/
def hInlBytes (h : Payload) : List Byte := bytesOf (hInlen h) (hf h 384 128)

/-- R79: the length of a packet in bytes. -/
def hLen (h : Payload) : Nat :=
  if hNdu h = 0 then hInlen h
  else hInlen h + 64 * (hNdu h - 1) + (if hLastb h = 0 then 64 else hLastb h)

/-- R171: the group number of a CHUNK packet. -/
def hGroup (h : Payload) : Nat := hInl h 0 8

/-- A header unit with fields set, each (lo, len, value). -/
def hSet (h : Payload) (l : List (Nat × Nat × Nat)) : Payload := l.foldl (fun a f => put a f.1 f.2.1 f.2.2) h

/-- The bytes a packet carries in its data units (R79). -/
def dataBytes (h : Payload) (data : List Payload) : List Byte :=
  let n := if hNdu h = 0 then 0 else 64 * (hNdu h - 1) + (if hLastb h = 0 then 64 else hLastb h)
  (data.flatMap payloadBytes).take n

/-- NDU and LASTB for n data bytes. -/
def nduOf (n : Nat) : Nat := (n + 63) / 64
/-- LASTB for n data bytes. -/
def lastbOf (n : Nat) : Nat := n % 64

/-- The data units of a byte list. -/
def dataUnits (l : List Byte) : List Payload := unitsOf (nduOf l.length) l

/-! ## Identity -/

/-- R432: the first number of the offsets of BAR2 beyond the window. -/
def barBase : Nat := 274877906944

/-- R428: a mirrored value as a domain holds it. -/
def copyOf (s : State) (d k : Nat) : Word := (dom s d).copies.get k (resetOf k)

/-- R37, R428: CFG_WAFER_ID.WAFER as a domain holds it. -/
def waferOf (s : State) (d : Nat) : Nat := bits (copyOf s d (svcReg 0 0)) 0 20

/-- R33: the value LOCAL. -/
def waferLocal : Nat := 0xFFFFF

/-- R33: whether a wafer value names this wafer, as a domain sees it. -/
def isLocal (s : State) (d w : Nat) : Bool := w = waferLocal || w = waferOf s d

/-- R275, R428: SIZE_GB of a memory port as a domain's NIs hold it. -/
def memSizeOf (s : State) (d : Nat) (g : GwId) : Nat := bits (copyOf s d (gwReg g 1 0)) 0 10

/-- The cell that names a unit in SRC fields: the cell, or a gateway's attachment cell j (R78, R274). -/
def srcCell (u : UnitRef) (j : Nat) : Cell :=
  match u with
  | .ni c => c
  | .gw g => attCell g j

/-- The memory that is local to a unit: a cell's cluster SRAM, a stack, or a host's bus addresses. -/
def unitSpace (u : UnitRef) : Nat := u.key

/-- FREE VALUE (R182, R197, R215, R223; log entries 5 and 12): bytes the spec leaves undefined. -/
def freeBytes (n len : Nat) : List Byte := (List.range len).map (fun i => Config.freeByte n i)

/-- Draw a free value (log entry 5). -/
def draw (s : State) : State := { s with freeCtr := s.freeCtr + 1 }

end Sys2Proof.Machine
end

