-- ==== Sys2Proof/Machine/Link.lean ====
section
/-! DEFINITION. The link protocol shared by every link end: sending on the wires, acknowledge and replay (R65 to R68),
training (R69 to R72, R441), the clock-boundary queues (R73, R75), and the receiving sides of NIs, combine units and
gateways (R58, R81, R110). -/

namespace Sys2Proof.Machine

/-! ## Settings and errors -/

/-- The register with an end's retry limits: CELL_RETRY_CFG of the cell (of the attachment cell for a gateway's end,
log entry 10), or OPT_RETRY (R292). -/
def retryReg (e : EndRef) : Nat :=
  match e with
  | .router c _ => cellReg c 0 4
  | .ni c => cellReg c 0 4
  | .cmb c => cellReg c 0 4
  | .gw g j => cellReg (attCell g j.val) 0 4
  | .optical o => gwReg o.gw 1 0x10

/-- RETRY_MAX; 0 acts as 1. -/
def retryMax (s : State) (e : EndRef) : Nat := max 1 (rdF s (retryReg e) 0 4)

/-- NAK_TMO in cycles of the end's clock: below 24 fc acts as 24; on an optical link in ns, below 200 as 200. -/
def nakTmo (s : State) (e : EndRef) : Nat :=
  match e with
  | .optical _ => ceilDiv (max 200 (rdF s (retryReg e) 4 14) * 12) 5
  | _ => max 24 (rdF s (retryReg e) 8 8)

/-- ACK_TMO in cycles of the end's clock: below 48 fc acts as 48; on an optical link in ns, below 400 as 400. -/
def ackTmo (s : State) (e : EndRef) : Nat :=
  match e with
  | .optical _ => ceilDiv (max 400 (rdF s (retryReg e) 18 14) * 12) 5
  | _ => max 48 (rdF s (retryReg e) 16 8)

/-- The cycle an end's clock has reached. -/
def endCyc (s : State) (e : EndRef) : Nat := cyc s e.dom

/-- R77, R300: set a sticky error of the link at an end, numbered as CELL_PORT_ERR numbers it. The ends at NIs,
combine units and gateways hold no such register. -/
def portErr (s : State) (e : EndRef) (b : Nat) : State :=
  match e with
  | .router c p => setBits s (portReg c p.val 8) (2 ^ b)
  | .optical o =>
    match b with
    | 5 => setBits s (gwReg o.gw 1 0x14) 2
    | 6 => setBits s (gwReg o.gw 1 0x14) 4
    | 7 => setBits s (gwReg o.gw 1 0x14) 8
    | 8 => setBits s (gwReg o.gw 1 0x14) 16
    | 9 => setBits s (gwReg o.gw 1 0x14) 32
    | _ => s
  | _ => s

/-- The slot of a domain now (R119). -/
def slotOf (s : State) (d : Nat) : Nat := (dom s d).ticks % 64

/-- The frame counter of a domain now (R119). -/
def frameOf (s : State) (d : Nat) : Nat := (dom s d).ticks / 64 % 16

/-! ## Wires -/

/-- The number of packet-lane flits in flight toward an end (R73). -/
def laneP (l : LinkEnd) : Nat := (l.wire.filter (fun w => !bit w.flit 515)).length

/-- The number of welt-lane flits in flight toward an end (R73). -/
def laneW (l : LinkEnd) : Nat := (l.wire.filter (fun w => bit w.flit 515)).length

/-- R77: record the lane marks of a boundary port. -/
def dcqMarks (s : State) (e : EndRef) : State :=
  match e with
  | .router c p =>
    if e.boundary then
      maxUp (maxUp s (portReg c p.val 0x14) 4 4 (laneP (link s e))) (portReg c p.val 0x14) 12 3 (laneW (link s e))
    else s
  | _ => s

/-- Put a flit on the wires from an end: it lands in the queue of the peer. -/
def toWire (s : State) (e : EndRef) (p : Payload) (k : Ctl) : State :=
  match e.peer with
  | none => s
  | some f =>
    dcqMarks (updLink s f (fun l => { l with wire := l.wire ++ [⟨flitWires p k, slotOf s e.dom⟩] })) f

/-- R49, R66: the control bits of a flit: ACK6 and NAK are those of now; CR as given. -/
def mkCtl (l : LinkEnd) (ty : Nat) (w : Bool) (vc seq : Nat) (cr : Option Nat) : Ctl :=
  { ty := ty, w := w, vc := vc, seq6 := seq % 64, crv := cr.isSome, crvc := cr.getD 0, ack6 := l.rxExp % 64,
    nak := l.nak }

/-- R66: a flit that carries NAK = 1 starts the NAK timer; every other flit carries NAK = 0. -/
def nakSent (s : State) (e : EndRef) (l : LinkEnd) : LinkEnd :=
  if l.nak then { l with nak := false, nakEnd := some (endCyc s e + nakTmo s e) } else l

/-- Send an unsequenced flit (IDLE or TRAIN). -/
def emitPlain (s : State) (e : EndRef) (ty : Nat) (p : Payload) : State :=
  let l := link s e
  toWire (setLink s e (nakSent s e l)) e p (mkCtl l ty false 0 0 none)

/-- What a sequenced flit carries besides its number and back channel. -/
structure Send where
  payload : Payload
  ty : Nat
  w : Bool
  vc : Nat
  welt : Option Nat
  tailEp : Option Nat
  hdr : Payload
  deriving DecidableEq, Repr

/-- R59, R65: send a new sequenced flit: it takes the next number and the oldest credit due, and a replay entry. -/
def emitSeq (s : State) (e : EndRef) (x : Send) : State :=
  let l := link s e
  let k := mkCtl l x.ty x.w x.vc l.txSeq l.crDue.head?
  let ent : Rep := { seq := l.txSeq, payload := x.payload, ctl := k, welt := x.welt, tailEp := x.tailEp, hdr := x.hdr }
  let l1 := { nakSent s e l with
    txSeq := (l.txSeq + 1) % 4096, crDue := l.crDue.tail, crHeld := l.crHeld - 1, replay := l.replay ++ [ent],
    sent := l.sent + 1, ackDue := if l.replay.isEmpty then some (endCyc s e + ackTmo s e) else l.ackDue }
  toWire (setLink s e l1) e x.payload k

/-- R59: with nothing else to send: a CREDIT flit for a credit due, else IDLE. -/
def sendIdle (s : State) (e : EndRef) : State :=
  if (link s e).crDue.isEmpty then emitPlain s e 0 0
  else emitSeq s e { payload := 0, ty := 2, w := false, vc := 0, welt := none, tailEp := none, hdr := 0 }

/-- R67: resend one replay entry with its original control and payload, and the back channel of now (log entry 11). -/
def emitReplay (s : State) (e : EndRef) (r : Rep) : State :=
  let l := link s e
  let k := { r.ctl with ack6 := l.rxExp % 64, nak := l.nak }
  let l1 := nakSent s e l
  let l2 := { l1 with sent := l.sent + 1, resend := l.resend - 1, st := if l.resend ≤ 1 ∧ l.st = .replay then .up else l.st }
  toWire (setLink s e l2) e r.payload k

/-- The replay entry to be resent next. -/
def nextReplay (l : LinkEnd) : Option Rep :=
  if l.resend = 0 then none else (l.replay.drop (l.replay.length - l.resend)).head?

/-! ## Residency (R112) -/

/-- Count a packet in or out at a port. -/
def residAdd (s : State) (c : Cell) (p ep : Nat) (up : Bool) : State :=
  let x := rport s c p
  let n := lget x.resid ep 0
  setRport s c p { x with resid := lset x.resid ep (if up then n + 1 else n - 1) }

/-- R112: packets whose last flit leaves a replay buffer no longer reside at the port. -/
def residDrop (s : State) (e : EndRef) : List Rep → State
  | [] => s
  | r :: l =>
    match e, r.tailEp with
    | .router c p, some ep => residDrop (residAdd s c p.val ep false) e l
    | _, _ => residDrop s e l

/-! ## Acknowledge and replay -/

/-- R67: how many entries lie before the position that 6 or 12 bits name, if any. -/
def ackPos (l : LinkEnd) (md a : Nat) : Option Nat :=
  firstIdx (fun q => q % md == a % md) (l.replay.map (fun r => r.seq) ++ [l.txSeq]) 0

/-- R67: take an acknowledgement of the first n entries. -/
def ackN (s : State) (e : EndRef) (n : Nat) : State :=
  let l := link s e
  if n = 0 then s
  else
    let rest := l.replay.drop n
    let l1 := { l with
      replay := rest, resend := min l.resend rest.length, run := 0, runFrom := none,
      ackDue := if rest.isEmpty then none else some (endCyc s e + ackTmo s e),
      st := if l.st = .replay ∧ min l.resend rest.length = 0 then .up else l.st }
    residDrop (setLink s e l1) e (l.replay.take n)

/-- The position of the oldest unacknowledged flit. -/
def oldest (l : LinkEnd) : Nat := (l.replay.head?.map (fun r => r.seq)).getD l.txSeq

/-- R67, R68: start a replay of every unacknowledged flit, or enter FAIL when too many replays started from the same
position. A NAK in the cycle of a timeout that has started one only moves the one replay to its own position. -/
def startReplay (s : State) (e : EndRef) : State :=
  let l := link s e
  if l.replay.isEmpty ∨ ¬ l.st.live then s
  else if l.tmoAt = some (endCyc s e) ∧ l.st = .replay then
    setLink s e { l with resend := l.replay.length, run := max 1 l.run, runFrom := some (oldest l) }
  else
    let run := if l.runFrom = some (oldest l) then l.run + 1 else 1
    if retryMax s e < run then
      portErr (setLink s e { l with st := .fail, resend := 0, ackDue := none }) e 8
    else
      setLink s e { l with st := .replay, resend := l.replay.length, run := run, runFrom := some (oldest l),
                           ackDue := some (endCyc s e + ackTmo s e) }

/-- R55, R67: take the back channel of a flit whose control code decodes. -/
def backChannel (s : State) (e : EndRef) (k : Ctl) : State :=
  match ackPos (link s e) 64 k.ack6 with
  | none => s
  | some n =>
    let s1 := ackN s e n
    if k.nak then startReplay s1 e else s1

/-! ## Throttles (R142, R143) -/

/-- R142: the L occupancy as the NI sees it; 0 before the L link's first UP has given it credits (log entry 24). -/
def niOcc (s : State) (c : Cell) : Nat :=
  let l := link s (.ni c)
  if l.fresh then 0 else 64 - sumN l.credits

/-- R143: STOP and RESUME of a class. -/
def thresholds (s : State) (c : Cell) (k : Nat) : Nat × Nat :=
  match k with
  | 1 => (rdF s (cellReg c 3 0xB000) 0 7, rdF s (cellReg c 3 0xB000) 8 7)
  | 2 => (rdF s (cellReg c 3 0xB000) 16 7, rdF s (cellReg c 3 0xB000) 24 7)
  | _ => (rdF s (cellReg c 3 0xB004) 0 7, rdF s (cellReg c 3 0xB004) 8 7)

/-- R143: the PAUSED flag of a class after an update. -/
def pausedNext (occ stop resume : Nat) (was : Bool) : Bool :=
  if stop < occ then true else if occ ≤ min resume stop then false else was

/-- R143: THROTTLE_UPDATE of the three classes. -/
def throttle (s : State) (c : Cell) : State :=
  let occ := niOcc s c
  updUnit s (.ni c) (fun p => { p with paused := (List.range 4).map (fun k =>
    if k = 0 then false
    else pausedNext occ (thresholds s c k).1 (thresholds s c k).2 (lget p.paused k false)) })

/-- R143: the flags follow each change of the credits that an NI holds. Between changes an update finds nothing to do, so
this is an update in every fc. -/
def throttled (s : State) (e : EndRef) : State :=
  match e with
  | .ni c => throttle s c
  | _ => s

/-- R59: take a returned credit. -/
def addCredit (s : State) (e : EndRef) (vc : Nat) : State :=
  throttled (updLink s e (fun l => { l with credits := lset l.credits vc (lget l.credits vc 0 + 1) })) e

/-- R59: owe the peer the credit of a freed entry. -/
def oweCredit (s : State) (e : EndRef) (vc : Nat) : State :=
  updLink s e (fun l => { l with crDue := l.crDue ++ [vc] })

/-- Spend a credit. -/
def useCredit (s : State) (e : EndRef) (vc : Nat) : State :=
  throttled (updLink s e (fun l => { l with credits := lset l.credits vc (lget l.credits vc 0 - 1) })) e

/-! ## Training -/

/-- R70: the free entries of each VC of the receiver at an end. -/
def freeOf (s : State) (e : EndRef) : List Nat :=
  match e with
  | .router c p =>
    (List.range 8).map (fun v => 8 - (((rport s c p.val).vc v).q.filter (fun f => f.credit)).length)
  | .optical o => (List.range 8).map (fun v => 512 - ((lget (opt s o).ingress v ⟨[], none⟩).buf.filter (fun f => f.credit)).length)
  | _ => (List.range 8).map (fun v => 8 - (lget (rxEnd s e).vcs v ⟨[], none⟩).buf.length)

/-- R70, R441: start a training. DESIGN CHOICE (log entry 158): the acknowledge timer stands still while the end trains, of which R67
says nothing. -/
def beginTrain (s : State) (e : EndRef) : State :=
  updLink s e (fun l => { l with
    st := .train, good := 0, ready := false, peerFresh := false, peerReady := false, peerExp := none,
    peerFree := zeros8, free0 := freeOf s e, crHeld := l.crDue.length, resend := 0, ackDue := none })

/-- R70: the payload of a TRAIN flit of a wafer-internal link. -/
def trainPayload (l : LinkEnd) : Payload :=
  let fr := (List.range 8).map (fun v => (16 + 4 * v, 4, lget l.free0 v 0))
  let fixed := (List.range 58).map (fun i => (8 * (i + 6), 8, (i + 6) ^^^ 0x5A))
  hSet 0 ([(0, 12, l.rxExp), (12, 1, b2n l.ready), (13, 1, b2n l.fresh)] ++ fr ++ fixed)

/-- R70: whether the fixed bytes of a TRAIN flit are correct. -/
def trainFixed (p : Payload) : Bool := bits p 48 464 == bits (trainPayload LinkEnd.init) 48 464

/-- R72: pad an input VC whose packet's tail will not come: zero data units that hold no credit. -/
def padVc (x : VcIn) : VcIn :=
  match x.left with
  | none => x
  | some k =>
    { x with q := x.q ++ (List.range k).map (fun i => ⟨0, false, i + 1 == k, false, 0⟩), left := none }

/-- R72: whether a packet at an input holds one of the given output VCs of an output and has sent its header unit. -/
def cutCopy (out : Nat) (vs : Option (List Nat)) (y : Copy) : Bool :=
  y.out == out && y.begun && y.ovc.isSome && (match vs with
    | none => true
    | some l => l.contains (y.ovc.getD 0))

/-- R72, toward the peer: the packets that hold an output VC lose their remaining flits (the copies sink). -/
def cutVc (out : Nat) (vs : Option (List Nat)) (x : VcIn) : VcIn :=
  { x with cur := x.cur.map (fun u =>
      { u with copies := mapIf (cutCopy out vs) (fun y => { y with void := true }) u.copies }) }

/-- Whether R72 cuts a packet of an input VC toward an output. -/
def cutsVc (out : Nat) (vs : Option (List Nat)) (x : VcIn) : Bool :=
  match x.cur with
  | none => false
  | some u => u.copies.any (fun y => cutCopy out vs y && !y.void)

/-- R72, R293: complete the packet that an optical ingress VC has taken only in part. -/
def padRx (v : RxVc) : RxVc :=
  match v.asm with
  | none => v
  | some a => { buf := v.buf ++ (List.range a.left).map (fun i => ⟨0, false, i + 1 == a.left, false, 0⟩), asm := none }

/-- R159: measure the age of a packet whose header unit an NI takes, counted under class k. -/
def measureAge (s : State) (c : Cell) (k : Nat) (h : Payload) : State :=
  if bit h 27 || stampUnsync s c.field then cntUp s (cellReg c 3 0xB018) 16 16 1
  else
    let a := (nstime s c.field + 4294967296 - hTs h) % 4294967296
    let neg := decide (2147483648 ≤ a)
    let age := if neg then 0 else a
    let s1 := if neg then cntUp s (cellReg c 3 0xB018) 0 16 1 else s
    let s2 := maxUp s1 (cellReg c 3 (0xB020 + 4 * k)) 0 32 age
    let thr := rdF s (cellReg c 3 (0xB030 + 4 * k)) 0 24
    if thr ≠ 0 ∧ thr < age then cntUp s2 (cellReg c 3 0xB01C) (8 * k) 8 1 else s2

/-- R129, R442: an NI counts a flit that breaks the framing of a packet. -/
def rxFrame (s : State) (e : EndRef) : State :=
  match e with
  | .ni c => cntUp s (cellReg c 3 0xA000) 8 8 1
  | _ => s

/-- R72: finish the cut packets of an end: toward the peer those on the output VCs given (none: all), and, when
`fromPeer`, those the peer had not finished. DESIGN CHOICE (log entry 21): a packet cut toward the peer, whose tail is never
sent, stays in the output's count of resident packets (R112), whose end the spec does not give for it. -/
def finishCut (s : State) (e : EndRef) (vs : Option (List Nat)) (fromPeer : Bool) : State :=
  match e with
  | .router c p =>
    let r := router s c
    let any := r.ports.any (fun x => x.2.vcs.any (cutsVc p.val vs)) ||
      (fromPeer && (r.port p.val).vcs.any (fun x => x.left.isSome))
    let ps := r.ports.map (fun x => (x.1, { x.2 with vcs := x.2.vcs.map (cutVc p.val vs) }))
    let r1 := { r with ports := ps }
    let x := r1.port p.val
    let r2 := if fromPeer then r1.setPort p.val { x with vcs := x.vcs.map padVc } else r1
    let s1 := setRouter s c r2
    if any then portErr s1 e 11 else s1
  | .optical o =>
    updOpt s o (fun x => { x with
      txCur := x.txCur.filter (fun y => !(y.2.begun && (match vs with | none => true | some l => l.contains (2 * y.1)))),
      ingress := if fromPeer then x.ingress.map padRx else x.ingress })
  | _ =>
    let t := txEnd s e
    let keep : Option TxCur → Option TxCur := fun y =>
      match y with
      | some z => if z.begun && (match vs with | none => true | some l => l.contains (2 * z.pkt.cls)) then none else y
      | none => none
    let s1 := setTxEnd s e { t with cur := t.cur.map keep }
    let x := rxEnd s1 e
    if fromPeer then setRxEnd s1 e { vcs := x.vcs.map (fun v => { v with asm := none }) } else s1

/-- A flit of a packet, not of a welt. -/
def Rep.ofPacket (r : Rep) : Bool := decide (4 ≤ r.ctl.ty) && !r.ctl.w

/-- R72: flits of packets lost with an emptied replay buffer set CUT, even where the packet has nothing left to finish. -/
def lostFlits (s : State) (e : EndRef) (l : List Rep) : State := if l.any Rep.ofPacket then portErr s e 11 else s

/-- R71: enter UP. DESIGN CHOICE (log entry 157): DISCARD, a NAK still due and the NAK timer end with the training, of which R66 and
R71 say nothing. -/
def enterUp (s : State) (e : EndRef) : State :=
  let l := link s e
  let up := { l with
    st := .up, resend := 0, discard := false, nakEnd := none, nak := false, fresh := false, ready := false, good := 0,
    stale := some (endCyc s e + ackTmo s e) }
  if l.fresh || l.peerFresh then
    let lost := !l.replay.isEmpty
    let s1 := setLink s e { up with
      txSeq := 0, rxExp := 0, replay := [], run := 0, runFrom := none, ackDue := none, credits := l.peerFree,
      crDue := l.crDue.drop l.crHeld, crHeld := 0 }
    let s2 := residDrop (throttled s1 e) e l.replay
    let s3 := if lost then portErr s2 e 9 else s2
    finishCut (lostFlits s3 e l.replay) e none true
  else
    match l.peerExp with
    | none => setLink s e up
    | some a =>
      match ackPos l 4096 a with
      | some n =>
        let s1 := ackN (setLink s e up) e n
        updLink s1 e (fun m => { m with
          resend := m.replay.length, st := if m.replay.isEmpty then .up else .replay,
          ackDue := if m.replay.isEmpty then none else some (endCyc s e + ackTmo s e) })
      | none =>
        let s1 := setLink s e { up with
          replay := [], txSeq := a, run := 0, runFrom := none, ackDue := none, credits := l.peerFree }
        let s2 := portErr (residDrop (throttled s1 e) e l.replay) e 9
        finishCut (lostFlits s2 e l.replay) e (some ((l.replay.filter Rep.ofPacket).map (fun r => r.ctl.vc))) false

/-! ## Receiving sides of units (R58, R81, R110) -/

/-- R110: whether a unit's sink takes a header unit of a class now: an NI that holds 32 responses takes no CTL or BLK
header; an optical gateway takes none while its link is in lane test or training and has not been lost (R294, R311). -/
def sinkOpen (s : State) (e : EndRef) (cls : Nat) : Bool :=
  match e with
  | .ni c => !((punit s (.ni c)).resp.length ≥ 32 && (cls == 1 || cls == 3))
  | .gw (.opt sd i) _ =>
    let x := opt s ⟨sd, i⟩
    x.lost || !(x.st == .laneTest || x.st == .train)
  | _ => true

/-- Where the whole packets of an end go: a unit's inbox, the combine unit's, or the queue toward an optical link. -/
def deliverPkt (s : State) (e : EndRef) (p : RxPkt) : State :=
  match e with
  | .ni c => updUnit s (.ni c) (fun u => { u with inbox := u.inbox ++ [p] })
  | .cmb c => { s with cmbs := s.cmbs.set c.key (Cmb.take (s.cmbs.get c.key Cmb.init) p) }
  | .gw (.opt sd i) _ =>
    if isLocal s e.dom (hDw p.hdr) then updUnit s (.gw (.opt sd i)) (fun u => { u with inbox := u.inbox ++ [p] })
    else updOpt s ⟨sd, i⟩ (fun x => { x with out := x.out ++ [p] })
  | .gw g _ => updUnit s (.gw g) (fun u => { u with inbox := u.inbox ++ [p] })
  | _ => s

/-- R389, R159: count a packet an NI takes, and measure its age. -/
def rxCount (s : State) (e : EndRef) (h : Payload) : State :=
  match e with
  | .ni c => measureAge (telNi (telNi s c 8 1) c 9 (hLen h)) c (hCls h) h
  | _ => s

/-! ## Address checks of memory and host ports (R275, R280) -/

/-- R280: whether a window holds a byte range. -/
def winHolds (s : State) (g : GwId) (off len w : Nat) : Bool :=
  let a := bits (rd s (gwReg g 1 (0x800 + 0x20 * w))) 0 28 * 4096
  let n := bits (rd s (gwReg g 1 (0x804 + 0x20 * w))) 0 28 * 4096
  bit (rd s (gwReg g 1 (0x810 + 0x20 * w))) 0 && a ≤ off && off + len ≤ a + n

/-- R280, R285: translate a byte range of a host port to a bus address; none when no valid window holds it, the
permission is missing, or the PCIe link is not up. -/
def hostXlat (s : State) (g : GwId) (off len : Nat) (wr : Bool) : Option Nat :=
  if (gw s g).link.up && 1 ≤ (gw s g).link.speed then
    match (List.range 16).find? (winHolds s g off len) with
    | none => none
    | some w =>
      if bit (rd s (gwReg g 1 (0x810 + 0x20 * w))) (if wr then 2 else 1) then
        let a := bits (rd s (gwReg g 1 (0x800 + 0x20 * w))) 0 28 * 4096
        let b := bits (rd s (gwReg g 1 (0x808 + 0x20 * w))) 12 20 * 4096 + (rd s (gwReg g 1 (0x80C + 0x20 * w))).toNat * 4294967296
        some ((b + (off - a)) % 18446744073709551616)
      else none
  else none

/-- R35, R208: the extent that a packet places, from DEST.offset. -/
def extent (h : Payload) : Nat :=
  match hCspec h with
  | 0 => hLen h
  | _ => (hInl h 40 6 - 1) * hInl h 20 20 + hInl h 0 20

/-- R275, R280: where a request's bytes lie at a memory or host port; none when its check fails. -/
def gwRange (s : State) (g : GwId) (off len : Nat) (wr : Bool) : Option Nat :=
  match g with
  | .mem _ _ => if off + len ≤ rdF s (gwReg g 1 0) 0 10 * 1073741824 then some off else none
  | .host _ _ => hostXlat s g off len wr
  | .opt _ _ => none

/-- R299: a window check of a host port failed. -/
def winMiss (s : State) (g : GwId) : State :=
  match g with
  | .host _ _ => setBits s (gwReg g 1 4) 8
  | _ => s

/-- R275, R280: the check of a request as its header unit reaches a memory or host port. -/
def headPlace (s : State) (e : EndRef) (h : Payload) : Option Nat :=
  match e with
  | .gw g _ => if hCmd h = 1 then gwRange s g (hOff h) (hInl h 40 12) false else gwRange s g (hOff h) (extent h) true
  | _ => none

/-- The attachment index a unit's packet came in at. -/
def endPort (e : EndRef) : Nat :=
  match e with
  | .gw _ j => j.val
  | _ => 0

/-- R81: a packet taken whole at an end. -/
def taken (e : EndRef) (a : Asm) : RxPkt :=
  { hdr := a.hdr, data := a.data.reverse, welt := false, port := endPort e, place := a.place }

/-- Take flits of one VC from the receive buffer into the packet in progress, as far as the sink is open, returning
each freed credit. A header unit inside a packet, or a TAIL before its last data unit, ends that packet; a data unit outside
one is discarded; each breaks the framing (R442, R129). -/
def takeVc (s : State) (e : EndRef) (v : Nat) (asm : Option Asm) : List VcFlit → State
  | [] => setRxEnd s e { vcs := lset (rxEnd s e).vcs v ⟨[], asm⟩ }
  | f :: r =>
    if f.head then
      if sinkOpen s e (v / 2) then
        let a : Asm := { hdr := f.payload, data := [], left := hNdu f.payload, place := headPlace s e f.payload }
        let s1 := oweCredit (rxCount (if asm.isSome then rxFrame s e else s) e f.payload) e v
        if a.left = 0 then takeVc (deliverPkt s1 e (taken e a)) e v none r
        else takeVc s1 e v (some a) r
      else setRxEnd s e { vcs := lset (rxEnd s e).vcs v ⟨f :: r, asm⟩ }
    else
      let s1 := oweCredit s e v
      match asm with
      | none => takeVc (rxFrame s1 e) e v none r
      | some a =>
        let a1 := { a with data := f.payload :: a.data, left := a.left - 1 }
        if a1.left = 0 then takeVc (deliverPkt s1 e (taken e a1)) e v none r
        else if f.tail then takeVc (rxFrame s1 e) e v none r
        else takeVc s1 e v (some a1) r

/-- Let a unit's sink take what it can at an end. -/
def takeAll (s : State) (e : EndRef) : State :=
  (List.range 8).foldl (fun t v =>
    let x := lget (rxEnd t e).vcs v ⟨[], none⟩
    if x.buf.isEmpty then t else takeVc t e v x.asm x.buf) s

/-- A packet flit reaches a unit's receiving side. -/
def unitTake (s : State) (e : EndRef) (v : Nat) (f : VcFlit) : State :=
  let x := rxEnd s e
  let y := lget x.vcs v ⟨[], none⟩
  takeAll (setRxEnd s e { vcs := lset x.vcs v { y with buf := y.buf ++ [f] } }) e

end Sys2Proof.Machine
end

