-- ==== Sys2Proof/Machine/Router.lean ====
section
/-! DEFINITION. The router: routing of a header unit (R57, R87-R89, R105, R106), output VCs (R62), the multicast copies
of a packet and the release of input entries (R64), arbitration (R63, R147, R148), and framing (R442). -/

namespace Sys2Proof.Machine

/-! ## Routing -/

/-- R85, R87: the port that a segment's direction names. -/
def dirPort (d : Nat) : Nat :=
  match d % 4 with
  | 0 => 0
  | 1 => 2
  | 2 => 1
  | _ => 3

/-- R57: whether a hop by a port crosses a dateline. -/
def crosses (c : Cell) (out : Nat) : Bool :=
  (out == 2 && c.x.val == 1) || (out == 3 && c.x.val == 0) || (out == 0 && c.y.val == 1) || (out == 1 && c.y.val == 0)

/-- R57: the dateline index of the next hop. L, C and G outputs keep that of the input VC. -/
def nextD (din : Nat) (newSeg : Bool) (out : Nat) (c : Cell) : Nat :=
  if out < 4 then (if crosses c out then 1 else if newSeg then 0 else din) else din

/-- R88: the exit of a packet whose route is done, if its requirement holds here. -/
def exitPort (s : State) (c : Cell) (h : Payload) : Option Nat :=
  let chunk := hCmd h == 8
  if isLocal s c.field (hDw h) then
    if hDx h ≤ 239 then
      if hDx h = c.x.val ∧ hDy h = c.y.val then some (if chunk then 5 else 4) else none
    else
      match gwOf (hDx h / 4 % 4) (hDx h) (hDy h), gAt c with
      | some g, some a => if g = a.1 then some 6 else none
      | _, _ => none
  else
    match gAt c with
    | some a => if a.1.kind = 1 then some 6 else none
    | none => none

/-- R14, R78: the bits of a header unit that are not reserved. -/
def headerMask (mcast : Bool) : Nat :=
  2 ^ 512 - 1 - 2 ^ 35 - (2 ^ 272 - 2 ^ 268) - (2 ^ 384 - 2 ^ 368) - (if mcast then 2 ^ 320 - 2 ^ 298 else 2 ^ 319)

/-- R14: a header unit as a router forwards it, its reserved bits zero. -/
def clearReserved (h : Payload) : Payload := h &&& BitVec.ofNat 512 (headerMask (hMcast h))

/-- R87: the output of a unicast header unit, whether the hop begins a segment, and the updated header; none is
MISROUTE. -/
def routeUni (s : State) (c : Cell) (inp : Nat) (h : Payload) : Option (Nat × Bool × Payload) :=
  let k := hf h 31 3
  let seg := hf h (72 + 10 * k) 10
  let cnt := seg / 4
  if cnt = 0 then
    match exitPort s c h with
    | some o => if o = inp then none else some (o, false, h)
    | none => none
  else
    let out := dirPort seg
    if out = inp then none
    else
      let h1 := put h (74 + 10 * k) 8 (cnt - 1)
      let h2 := if cnt = 1 ∧ k < hf h 28 3 then hSet h1 [(31, 3, k + 1), (34, 1, 1)] else put h1 34 1 0
      some (out, decide (4 ≤ inp) || bit h 34, h2)

/-- R106: the target columns of a multicast. -/
def mcCols (h : Payload) : List Nat :=
  (List.range 240).filter (fun x =>
    (List.range 8).any (fun fy => bit h (320 + 6 * fy + x / 40)) && hf h 276 6 ≤ x % 40 && x % 40 ≤ hf h 282 6)

/-- R106: the target rows of a column. -/
def mcRows (h : Payload) (x : Nat) : List Nat :=
  if hf h 276 6 ≤ x % 40 ∧ x % 40 ≤ hf h 282 6 then
    (List.range 240).filter (fun y =>
      bit h (320 + 6 * (y / 30) + x / 40) && hf h 288 5 ≤ y % 30 && y % 30 ≤ hf h 293 5)
  else []

/-- R106: the distance from a to b along a ring, in the rising direction. -/
def ringDist (a b : Nat) : Nat := (ringpos b + 240 - ringpos a) % 240

/-- R106: how far the rising and the falling branch run from a coordinate to a set of coordinates. -/
def branches (a : Nat) (ts : List Nat) : Nat × Nat :=
  ts.foldl (fun m t =>
    let d := ringDist a t
    if d ≤ 120 then (max m.1 d, m.2) else (m.1, max m.2 (240 - d))) (0, 0)

/-- R106: whether a cell is in the target set. -/
def mcTarget (h : Payload) (c : Cell) : Bool :=
  bit h (320 + 6 * (c.y.val / 30) + c.x.val / 40) && hf h 276 6 ≤ c.x.val % 40 && c.x.val % 40 ≤ hf h 282 6 &&
    hf h 288 5 ≤ c.y.val % 30 && c.y.val % 30 ≤ hf h 293 5

/-- R106: the outputs that a multicast header unit requests at a cell, with whether each begins a segment. -/
def routeMulti (c : Cell) (inp : Nat) (h : Payload) : List (Nat × Bool) :=
  let sx := hSx h
  let sy := hSy h
  let xb := branches sx (mcCols h)
  let yb := branches sy (mcRows h c.x.val)
  let turn := (if 0 < yb.1 then [(0, true)] else []) ++ (if 0 < yb.2 then [(1, true)] else [])
  let exit := if mcTarget h c then [(if hCmd h = 8 then 5 else 4, false)] else []
  match inp with
  | 2 => -- travelling W: the input from the E neighbour
    (if (240 - ringDist sx c.x.val) % 240 < xb.2 then [(3, false)] else []) ++ turn ++ exit
  | 3 => (if ringDist sx c.x.val < xb.1 then [(2, false)] else []) ++ turn ++ exit
  | 0 => (if (240 - ringDist sy c.y.val) % 240 < yb.2 then [(1, false)] else []) ++ exit
  | 1 => (if ringDist sy c.y.val < yb.1 then [(0, false)] else []) ++ exit
  | _ => (if 0 < xb.1 then [(2, true)] else []) ++ (if 0 < xb.2 then [(3, true)] else []) ++ turn

/-- R63, R64, R87, R106: the copies that a header unit at an input VC requests; none: misrouted. -/
def routeCopies (s : State) (c : Cell) (inp v : Nat) (h : Payload) : List Copy :=
  let mk := fun (o : Nat) (ns : Bool) (g : Payload) =>
    { out := o, want := 2 * (v / 2) + nextD (v % 2) ns o c, ovc := none, hdr := clearReserved g, begun := false, sent := false,
      void := false : Copy }
  if hMcast h then (routeMulti c inp h).map (fun x => mk x.1 x.2 h)
  else
    match routeUni s c inp h with
    | some x => [mk x.1 x.2.1 x.2.2]
    | none => []

/-! ## Output VCs and the release of entries -/

/-- The number that an output VC keeps of its holder: 0 is free. -/
def holderOf (i v : Nat) : Nat := 1 + 8 * i + v

/-- The group of the COL packet that a holder number names at a router. -/
def holderGrp (r : Router) (n : Nat) : Option Nat :=
  if n = 0 then none else (((r.port ((n - 1) / 8)).vc ((n - 1) % 8)).cur).map (fun u => u.grp)

/-- R62: free an output VC; a group that holds no COL output VC any more loses its deficit there (R148). -/
def freeOvc (r : Router) (out ovc grp : Nat) : Router :=
  let x := r.port out
  let x1 := { x with holders := lset x.holders ovc 0 }
  let other := if ovc = 4 then 5 else 4
  let keep := ovc ≠ 4 ∧ ovc ≠ 5 ∨ holderGrp r (lget x.holders other 0) = some grp
  r.setPort out (if keep then x1 else { x1 with drr := { x1.drr with gdef := x1.drr.gdef.erase grp } })

/-- R72: free the output VCs of the copies that sank. -/
def freeVoid (r : Router) (grp : Nat) (l : List Copy) : Router :=
  l.foldl (fun r y =>
    match y.ovc with
    | some o => if y.void then freeOvc r y.out o grp else r
    | none => r) r

/-- Whether the flit at the head of an input VC has no copy left to send (R64). -/
def flitDone (u : Cur) : Bool := u.copies.all (fun y => y.sent || y.void)

/-- R59, R64, R89: free the entries of an input VC whose flits have all their copies across, returning each credit; the
packet ends with its tail. -/
def settle (s : State) (c : Cell) (p : Fin 7) (v : Nat) (u : Cur) : List VcFlit → State
  | [] => setVcIn s c p.val v { vcIn s c p.val v with q := [], cur := some u }
  | f :: r =>
    if flitDone u then
      let s1 := if f.credit then oweCredit s (.router c p) v else s
      if f.tail then
        let s2 := setVcIn s1 c p.val v { vcIn s1 c p.val v with q := r, cur := none }
        residAdd (setRouter s2 c (freeVoid (router s2 c) u.grp u.copies)) c p.val u.epoch false
      else
        settle s1 c p v { u with copies := u.copies.map (fun y => { y with sent := false }) } r
    else setVcIn s c p.val v { vcIn s c p.val v with q := f :: r, cur := some u }

/-- Settle one input VC. -/
def settleVc (s : State) (c : Cell) (p : Fin 7) (v : Nat) : State :=
  let x := vcIn s c p.val v
  match x.cur with
  | some u => settle s c p v u x.q
  | none => s

/-- Settle every input VC of a router. -/
def settleAll (s : State) (c : Cell) : State :=
  (List.finRange 7).foldl (fun t p => (List.range 8).foldl (fun a v => settleVc a c p v) t) s

/-! ## Framing (R442) -/

/-- R158: raise the high-water mark of an input's class. -/
def hwmIn (s : State) (c : Cell) (p v : Nat) : State :=
  let k := v / 2
  let x := rport s c p
  let occ := ((x.vc (2 * k)).q.filter (fun f => f.credit)).length + ((x.vc (2 * k + 1)).q.filter (fun f => f.credit)).length
  maxUp s (cellReg c 0 (0x410 + 4 * p)) (5 * k) 5 occ

/-- A word is written to an input VC of a port. -/
def bufWord (s : State) (c : Cell) (p v : Nat) (y : VcIn) : State :=
  let x := (rport s c p).setVc v y
  setRport s c p { x with bufWr := (x.bufWr.1 + 1, v) }

/-- R442, R112: an accepted packet flit enters an input VC of a router. -/
def routerTake (s : State) (c : Cell) (p : Fin 7) (v ty : Nat) (pay : Payload) : State :=
  let e := EndRef.router c p
  let x := vcIn s c p.val v
  if ty = 5 ∨ ty = 7 then
    let s1 := if x.left.isSome then portErr s e 12 else s
    let y := padVc x
    let n := hNdu pay
    let s2 := bufWord s1 c p.val v
      { y with q := y.q ++ [⟨pay, true, n == 0, true, 0⟩], left := if n = 0 then none else some n }
    settleVc (hwmIn (residAdd s2 c p.val (hEpoch pay) true) c p.val v) c p v
  else
    match x.left with
    | none => oweCredit (portErr s e 12) e v
    | some k =>
      let early := ty == 6 && k != 1
      let s1 := if (ty == 6) != (k == 1) then portErr s e 12 else s
      let y := { x with q := x.q ++ [⟨pay, false, k == 1, true, 0⟩], left := if k = 1 then none else some (k - 1) }
      settleVc (hwmIn (bufWord s1 c p.val v (if early then padVc y else y)) c p.val v) c p v

/-! ## Header allocation -/

/-- Where an output leads: the domain at its far end. -/
def farDom (c : Cell) (out : Nat) : Nat :=
  match (EndRef.router c (Fin.ofNat 7 out)).peer with
  | some f => f.dom
  | none => c.field

/-- R364: whether an output's far domain is going down or down, so that header units wait for it. -/
def holdsOut (s : State) (d : Nat) : Bool :=
  let x := dom s d
  match x.st with
  | .draining => 1 ≤ x.phase
  | .sleep => true
  | .deep => true
  | .waking => true
  | _ => false

/-- R113, R364: whether a copy may claim an output VC now. -/
def mayClaim (s : State) (c : Cell) (y : Copy) : Bool :=
  y.ovc.isNone && !y.begun && !y.void && (router s c).ena.testBit y.out && !holdsOut s (farDom c y.out)

/-- The copy by which an input VC waits for an output VC. -/
def waitsFor (s : State) (c : Cell) (out ovc i v : Nat) : Bool :=
  match (vcIn s c i v).cur with
  | some u => u.copies.any (fun y => y.out == out && y.want == ovc && mayClaim s c y)
  | none => false

/-- R63: the input and VC whose turn it is to claim a free output VC. DESIGN CHOICE (log entry 146): of two VCs of one input that
want the same output VC the lower goes first; R63 rotates over inputs and does not order them. -/
def claimant (s : State) (c : Cell) (out ovc : Nat) : Option (Nat × Nat) :=
  let x := rport s c out
  if lget x.holders ovc 0 ≠ 0 then none
  else
    match rrPick (fun i => (List.range 8).any (waitsFor s c out ovc i)) (lget x.ovcLast ovc 6 + 1) 7 with
    | none => none
    | some i => ((List.range 8).find? (waitsFor s c out ovc i)).map (fun v => (i, v))

/-- R62, R63: claim the output VC of each waiting copy of an input VC whose turn it is. DESIGN CHOICE (log entry 156): the rotation
of the inputs keeps one last winner per output VC, where R63 says only that outputs scan from the last winner. -/
def claimAll (s : State) (c : Cell) (p v : Nat) : List Copy → State
  | [] => s
  | y :: l =>
    if claimant s c y.out y.want = some (p, v) then
      let x := rport s c y.out
      let s1 := setRport s c y.out
        { x with holders := lset x.holders y.want (holderOf p v), ovcLast := lset x.ovcLast y.want p }
      let z := vcIn s1 c p v
      let cur := z.cur.map (fun u =>
        { u with copies := mapIf (fun w => w.out == y.out) (fun w => { w with ovc := some y.want }) u.copies })
      claimAll (setVcIn s1 c p v { z with cur := cur }) c p v l
    else claimAll s c p v l

/-- R365: a copy that has sent nothing toward an output whose far end is OFF. -/
def offCopy (s : State) (c : Cell) (y : Copy) : Bool :=
  !y.begun && !y.void && decide ((dom s (farDom c y.out)).st = .off)

/-- R365: discard the copies of the packet at an input VC that request an output whose far end is OFF, and count
them in CELL_PWR_DROP. -/
def discardOff (s : State) (c : Cell) (p v : Nat) : State :=
  let x := vcIn s c p v
  match x.cur with
  | none => s
  | some u =>
    let n := (u.copies.filter (offCopy s c)).length
    if n = 0 then s
    else
      let cs := mapIf (offCopy s c) (fun y => { y with void := true }) u.copies
      cntUp (setVcIn s c p v { x with cur := some { u with copies := cs } }) (cellReg c 0 0x440) 0 16 n

/-- R76: what SECDED finds in a word of an input buffer: the disturbance of the command, or that of an injection
(R387). -/
def eccOf (ecc : Ecc) (bad : Nat) : Ecc :=
  if 2 ≤ bad then .ue
  else if bad = 1 then (match ecc with | .ok => .ce | _ => .ue)
  else ecc

/-- R76: count what SECDED found; the flag says whether a header unit was lost. -/
def countEcc (s : State) (c : Cell) (e : Ecc) (header : Bool) : State :=
  match e with
  | .ok => s
  | .ce => setBits (cntUp s (cellReg c 0 8) 0 16 1) (cellReg c 0 0xC) 0x100
  | .ue =>
    let s1 := setBits (cntUp s (cellReg c 0 8) 16 8 1) (cellReg c 0 0xC) 0x200
    if header then cntUp s1 (cellReg c 0 8) 24 8 1 else s1

/-- Route the header unit at the head of an input VC, if it is not routed yet. -/
def routeHead (s : State) (c : Cell) (p : Fin 7) (v : Nat) : State :=
  let x := vcIn s c p.val v
  match x.cur, x.q with
  | none, f :: _ =>
    if f.head then
      match eccOf .ok f.bad with
      | .ue =>
        let u : Cur := { copies := [], epoch := hEpoch f.payload, grp := 0 }
        countEcc (setVcIn s c p.val v { x with cur := some u }) c .ue true
      | _ =>
        let u : Cur := { copies := routeCopies s c p.val v f.payload, epoch := hEpoch f.payload,
                         grp := hGroup f.payload }
        let s1 := setVcIn s c p.val v { x with cur := some u }
        if u.copies.isEmpty && !(hMcast f.payload && mcTarget f.payload c) then setBits (cntUp s1 (cellReg c 1 8) 0 8 1) (cellReg c 1 8) 0x100 else s1
    else s
  | _, _ => s

/-- R63: HEADER_ALLOCATE at an input VC: route its header unit and claim the output VCs whose turn it is. -/
def headerAllocate (s : State) (c : Cell) (p : Fin 7) (v : Nat) : State :=
  if clocked s c.field then
    let s1 := discardOff (routeHead s c p v) c p.val v
    let s2 := match (vcIn s1 c p.val v).cur with
      | some u => claimAll s1 c p.val v u.copies
      | none => s1
    settleVc s2 c p v
  else s

/-! ## Arbitration -/

/-- A nomination: input, VC, class, group, output VC. -/
structure Nom where
  i : Nat
  v : Nat
  cls : Nat
  grp : Nat
  ovc : Nat
  deriving DecidableEq, Repr

/-- R63: the copies of an input VC that are ready to send: they hold an output VC with a credit and the flit at the
head of the input VC is theirs to send. -/
def readyCopies (s : State) (c : Cell) (x : VcIn) : List Copy :=
  match x.cur with
  | none => []
  | some u =>
    if x.q.isEmpty then []
    else u.copies.filter (fun y => !y.sent && !y.void && (match y.ovc with
      | some o => 0 < lget (link s (.router c (Fin.ofNat 7 y.out))).credits o 0
      | none => false))

/-- R63: the VC that an input nominates: the lowest ready RSP VC, else round robin after the last nomination. -/
def nominee (s : State) (c : Cell) (i : Nat) : Option Nat :=
  let x := rport s c i
  let rdy := fun v => !(readyCopies s c (x.vc v)).isEmpty
  if rdy 0 then some 0
  else if rdy 1 then some 1
  else rrPick rdy (x.nomLast + 1) 8

/-- R63: what an input nominates for an output, if it nominates for it. -/
def nomFor (s : State) (c : Cell) (out i : Nat) : Option Nom :=
  match nominee s c i with
  | none => none
  | some v =>
    let x := vcIn s c i v
    match (readyCopies s c x).find? (fun y => y.out == out) with
    | none => none
    | some y => some { i := i, v := v, cls := v / 2, grp := (x.cur.map (fun u => u.grp)).getD 0, ovc := y.ovc.getD 0 }

/-- R147: the class after another. -/
def nextCls (k : Nat) : Nat := if k = 3 then 1 else k + 1

/-- R149: the quantum of a class of a cell: below 64 acts as 64. -/
def clsQuant (s : State) (c : Cell) (k : Nat) : Nat :=
  max 64 (match k with
    | 1 => rdF s (cellReg c 0 0x400) 0 16
    | 2 => rdF s (cellReg c 0 0x400) 16 16
    | _ => rdF s (cellReg c 0 0x404) 0 16)

/-- R148: the quantum of a group of a cell. -/
def grpQuant (s : State) (c : Cell) (g : Nat) : Nat :=
  (rdF s (cellReg c 0 (0x800 + 4 * (g / 4))) (8 * (g % 4)) 8 + 1) * 64

/-- Round robin among nominations after the last input granted. -/
def rrNom (ns : List Nom) (last : Nat) : Option Nom :=
  match rrPick (fun i => ns.any (fun n => n.i == i)) (last + 1) 16 with
  | none => none
  | some i => ns.find? (fun n => n.i == i)

/-- R148: the next group above g, cyclic, that has a nomination. -/
def nextGrp (ns : List Nom) (g : Nat) : Nat :=
  match rrPick (fun k => ns.any (fun n => n.grp == k)) (g + 1) 256 with
  | some k => k
  | none => g

/-- R148: the group level. The fuel exceeds the passes it needs: two groups, each with a quantum of at least 64. -/
def inCol (qg : Nat → Nat) (ns : List Nom) : Nat → Drr → Option (Nom × Drr)
  | 0, _ => none
  | n + 1, d =>
    let g := d.gcur
    let req := ns.filter (fun x => x.grp == g)
    let dg := d.gdef.get g 0
    if req.isEmpty = false ∧ 64 ≤ dg then
      let d1 := { d with gdef := d.gdef.set g (dg - 64) }
      (rrNom req (lget d.last 2 15)).map (fun x => (x, { d1 with last := lset d1.last 2 x.i }))
    else
      let d1 := if req.isEmpty then { d with gdef := d.gdef.erase g } else d
      let g1 := nextGrp ns g
      inCol qg ns n { d1 with gcur := g1, gdef := d1.gdef.set g1 (d1.gdef.get g1 0 + qg g1) }

/-- R147: the grant inside a class. -/
def inClass (qg : Nat → Nat) (k : Nat) (ns : List Nom) (d : Drr) : Option (Nom × Drr) :=
  let req := ns.filter (fun x => x.cls == k)
  if k = 2 then inCol qg req 6 d
  else (rrNom req (lget d.last k 15)).map (fun x => (x, { d with last := lset d.last k x.i }))

/-- R147: deficit round robin. The fuel exceeds the four passes within which the loop ends. -/
def drrLoop (qc qg : Nat → Nat) (ns : List Nom) : Nat → Drr → Option (Nom × Drr)
  | 0, _ => none
  | n + 1, d =>
    let k := d.cur
    let has := ns.any (fun x => x.cls == k)
    let dk := lget d.dfc k 0
    if has = true ∧ 64 ≤ dk then inClass qg k ns { d with dfc := lset d.dfc k (dk - 64) }
    else
      let d1 := if has then d else { d with dfc := lset d.dfc k 0 }
      let k1 := nextCls k
      let d2 := { d1 with cur := k1 }
      drrLoop qc qg ns n
        (if ns.any (fun x => x.cls == k1) then { d2 with dfc := lset d2.dfc k1 (lget d2.dfc k1 0 + qc k1) } else d2)

/-- R147: drr_pick over CTL, COL and BLK nominations. -/
def drrPick (qc qg : Nat → Nat) (ns : List Nom) (d : Drr) : Option (Nom × Drr) :=
  let req := ns.filter (fun x => x.cls != 0)
  if req.isEmpty then none else drrLoop qc qg req 8 d

/-! ## Sending a packet flit -/

/-- FREE VALUE (R76; log entry 12): a payload that SECDED could not repair, as read. -/
def freePayload (n : Nat) : Payload := payloadOf ((List.range 64).map (fun i => Config.freeByte n i))

/-- The TYPE of a flit (R50). -/
def flitType (head tail : Bool) : Nat := if head then (if tail then 7 else 5) else (if tail then 6 else 4)

/-- R389: count a packet flit granted to an output. -/
def countGrant (s : State) (c : Cell) (out : Nat) (f : VcFlit) (h : Payload) : State :=
  let s1 := telPort s c out 0 1
  if f.head then telPort (telPort s1 c out 1 1) c out 2 (hLen h) else s1

/-- R112: count the packet at an output when its header unit is granted, and let it go with its tail where the output
is L, C or G. -/
def countOut (s : State) (c : Cell) (out ep : Nat) (f : VcFlit) : State :=
  let s1 := if f.head then residAdd s c out ep true else s
  if f.tail ∧ 4 ≤ out then residAdd s1 c out ep false else s1

/-- R76: the header unit could not be read: what has not been sent of the packet sinks. -/
def loseHeader (s : State) (c : Cell) (p : Fin 7) (v : Nat) : State :=
  let x := vcIn s c p.val v
  let cur := x.cur.map (fun u => { u with copies := mapIf (fun y => !y.begun) (fun y => { y with void := true }) u.copies })
  settleVc (countEcc (setVcIn s c p.val v { x with cur := cur }) c .ue true) c p v

/-- R389: whether some input VC holds an output VC on an output with a flit ready and no credit. -/
def stalled (s : State) (c : Cell) (out : Nat) : Bool :=
  (List.range 7).any (fun i => (List.range 8).any (fun v =>
    let x := vcIn s c i v
    match x.cur with
    | some u => !x.q.isEmpty && u.copies.any (fun y => y.out == out && !y.sent && !y.void && (match y.ovc with
        | some o => lget (link s (.router c (Fin.ofNat 7 out))).credits o 0 == 0
        | none => false))
    | none => false))

/-- R389: count an fc in which a router's output sends no packet flit while a packet that holds one of its VCs has a flit ready
and no credit. -/
def countStall (s : State) (e : EndRef) : State :=
  match e with
  | .router c p => if stalled s c p.val then telPort s c p.val 4 1 else s
  | _ => s

/-- R63, R64: send the flit at the head of an input VC on one output. -/
def sendGrant (s : State) (c : Cell) (out : Fin 7) (n : Nom) (ecc : Ecc) : State :=
  let x := vcIn s c n.i n.v
  match x.q, x.cur with
  | f :: _, some u =>
    match u.copies.find? (fun y => y.out == out.val) with
    | none => s
    | some y =>
      let e := eccOf ecc f.bad
      if f.head = true ∧ e = .ue then sendIdle (loseHeader (countStall s (.router c out)) c (Fin.ofNat 7 n.i) n.v) (.router c out)
      else
        let s0 := countEcc s c e false
        let pay := if f.head then y.hdr else if e = .ue then f.payload ^^^ freePayload s.freeCtr else f.payload
        let s1 := useCredit (if e = .ue then draw s0 else s0) (.router c out) n.ovc
        let tailEp := if f.tail ∧ out.val < 4 then some u.epoch else none
        let s2 := emitSeq s1 (.router c out)
          { payload := pay, ty := flitType f.head f.tail, w := false, vc := n.ovc, welt := none, tailEp := tailEp,
            hdr := y.hdr }
        let s3 := countOut (countGrant s2 c out.val f y.hdr) c out.val u.epoch f
        let z := vcIn s3 c n.i n.v
        let cs := mapIf (fun w => w.out == out.val)
          (fun w => { w with sent := true, begun := true, ovc := if f.tail then none else w.ovc }) u.copies
        let s4 := setVcIn s3 c n.i n.v { z with cur := some { u with copies := cs } }
        let s5 := if f.tail then setRouter s4 c (freeOvc (router s4 c) out.val n.ovc u.grp) else s4
        settleVc s5 c (Fin.ofNat 7 n.i) n.v
  | _, _ => s

/-- R63: every input whose nomination targets an output has nominated. DESIGN CHOICE (log entry 22): a nomination of RSP leaves
the round robin of the other classes where it stands; the rule does not say that it moves it. -/
def noteNoms (s : State) (c : Cell) (ns : List Nom) : State :=
  ns.foldl (fun t n =>
    if n.cls = 0 then t else setRport t c n.i { rport t c n.i with nomLast := n.v }) s

/-- R63: the grant of an output: the nomination it sends and the arbitration state it leaves. -/
def grantOf (s : State) (c : Cell) (out : Nat) (ns : List Nom) : Option (Nom × RPort) :=
  let x := rport s c out
  let rsp := ns.filter (fun n => n.cls == 0)
  if rsp.isEmpty then (drrPick (clsQuant s c) (grpQuant s c) ns x.drr).map (fun g => (g.1, { x with drr := g.2 }))
  else (rrNom rsp x.rspLast).map (fun g => (g, { x with rspLast := g.i }))

/-- The nominations for an output. -/
def nomsFor (s : State) (c : Cell) (out : Nat) : List Nom := (List.range 7).filterMap (nomFor s c out)

end Sys2Proof.Machine
end

