-- ==== Sys2Proof/Machine/Route.lean ====
section
/-! DEFINITION. Route tables of NIs and gateways: legality and load check (R85, R86, R91), completion (R90), attachment
cells (R272), the spray pick (R93, R94) and off-wafer resolution (R305, R306). -/

namespace Sys2Proof.Machine

/-! ## Segments and legality -/

/-- R85: a segment: direction (0 N, 1 E, 2 S, 3 W) and count. -/
structure Seg where
  dir : Nat
  cnt : Nat
  deriving DecidableEq, Repr

/-- R116: the eight segments of a path record's words W0, W1, W2. -/
def segsOf (w0 w1 w2 : Word) : List Seg :=
  let mk := fun (w : Word) (j : Nat) => { dir := bits w (10 * j) 2, cnt := bits w (10 * j + 2) 8 : Seg }
  [mk w0 0, mk w0 1, mk w0 2, mk w1 0, mk w1 1, mk w1 2, mk w2 0, mk w2 1]

/-- R86: whether two directions are opposite. -/
def opposite (a b : Nat) : Bool := (a + 2) % 4 == b

/-- R86, R90: whether two adjacent segments have opposite directions. -/
def turnsBack : List Seg → Bool
  | a :: b :: r => opposite a.dir b.dir || turnsBack (b :: r)
  | _ => false

/-- R86: the directions strictly increase. -/
def rising : List Seg → Bool
  | a :: b :: r => decide (a.dir < b.dir) && rising (b :: r)
  | _ => true

/-- R86: legal for CTL and RSP. -/
def ctlLegal (l : List Seg) : Bool := rising l && !turnsBack l

/-- R86: legal for COL and BLK: one segment, or an X segment and then a Y segment. -/
def bulkLegal (l : List Seg) : Bool :=
  match l with
  | [_] => true
  | [a, b] => a.dir % 2 == 1 && b.dir % 2 == 0
  | _ => false

/-- R91: the check of a path written with VALID = 1: whether it passes, CTL_OK and BULK_OK. -/
def pathCheck (w0 w1 w2 : Word) : Bool × Bool × Bool :=
  let n := bits w2 20 3 + 1
  let all := segsOf w0 w1 w2
  let used := all.take n
  let fills := fun (par : Nat) => (used.filter (fun g => g.cnt == 0 && g.dir % 2 == par)).length
  let ok := used.all (fun g => g.cnt < 240) && fills 0 ≤ 1 && fills 1 ≤ 1 &&
    (all.drop n).all (fun g => g.dir == 0 && g.cnt == 0) && (ctlLegal used || bulkLegal used)
  (ok, ok && ctlLegal used, ok && bulkLegal used)

/-! ## The table in use -/

/-- R116: word i of path k of entry e of the bank in use. -/
def pathWord (s : State) (u : UnitRef) (e k i : Nat) : Word :=
  rd s (match u with
    | .ni c => cellReg c 3 (0x3000 + 0x80 * e + 0x10 * k + 4 * i)
    | .gw g => gwReg g 0 (0x3000 + 0x80 * e + 0x10 * k + 4 * i))

/-- R116: the segments in use of a path. -/
def pathSegs (s : State) (u : UnitRef) (e k : Nat) : List Seg :=
  (segsOf (pathWord s u e k 0) (pathWord s u e k 1) (pathWord s u e k 2)).take (bits (pathWord s u e k 2) 20 3 + 1)

/-- R93: whether a path is VALID and legal for a class. -/
def pathFor (s : State) (u : UnitRef) (e k cls : Nat) : Bool :=
  let w := pathWord s u e k 2
  bit w 31 && (if cls < 2 then bit w 28 else bit w 29)

/-- R90: complete one dimension's fill. -/
def fillCnt (g : Seg) (from' fixed to' : Nat) : Nat :=
  if g.dir < 2 then (ringpos to' + 480 - ringpos from' - fixed) % 240
  else (ringpos from' + fixed + 240 - ringpos to') % 240

/-- R90: the net displacement of the fixed segments of a dimension (0: Y, 1: X), modulo 240. -/
def fixedSum (l : List Seg) (par : Nat) : Nat :=
  (l.foldl (fun a g =>
    if g.dir % 2 = par then (if g.dir < 2 then a + g.cnt else a + 240 - g.cnt % 240) else a) 0) % 240

/-- R90: a path completed from one cell to another; none if it is unusable for that destination. -/
def completePath (l : List Seg) (a b : Cell) : Option (List Seg) :=
  let fx := fixedSum l 1
  let fy := fixedSum l 0
  let okX := l.any (fun g => g.cnt == 0 && g.dir % 2 == 1) || (ringpos a.x.val + fx) % 240 == ringpos b.x.val
  let okY := l.any (fun g => g.cnt == 0 && g.dir % 2 == 0) || (ringpos a.y.val + fy) % 240 == ringpos b.y.val
  if okX && okY then
    let done := l.map (fun g =>
      if g.cnt = 0 then
        { g with cnt := if g.dir % 2 = 1 then fillCnt g a.x.val fx b.x.val else fillCnt g a.y.val fy b.y.val }
      else g)
    let r := done.filter (fun g => g.cnt != 0)
    if turnsBack r then none else some r
  else none

/-- The header fields of a completed route (R78). -/
def routeFields (l : List Seg) : List (Nat × Nat × Nat) :=
  [(28, 3, l.length - 1), (31, 3, 0), (34, 1, b2n (!l.isEmpty)), (72, 80, 0)] ++
    l.zipIdx.map (fun x => (72 + 10 * x.2, 10, x.1.dir + 4 * x.1.cnt))

/-- R93: the first hop of a completed route: a torus port, or with no segment left the exit: G for what an NI sends, L or (for
a chunk) C for what a gateway sends. -/
def firstHop (u : UnitRef) (cls : Nat) (l : List Seg) : Nat :=
  match l, u with
  | g :: _, _ => dirPort g.dir
  | [], .ni _ => 6
  | [], .gw _ => if cls = 2 then 5 else 4

/-- R93: whether a first hop is UP or REPLAY and enabled. -/
def hopOpen (s : State) (c : Cell) (p : Nat) : Bool :=
  linkUp s (.router c (Fin.ofNat 7 p)) && (router s c).ena.testBit p

/-! ## Spraying -/

/-- R94: the level of congestion of a first hop for a class. -/
def congestion (s : State) (c : Cell) (p cls : Nat) : Nat :=
  let cr := (link s (.router c (Fin.ofNat 7 p))).credits
  let n := lget cr (2 * cls) 0 + lget cr (2 * cls + 1) 0
  if 12 ≤ n then 0 else if 8 ≤ n then 1 else if 4 ≤ n then 2 else 3

/-- R94: the weight of a path at the start of its turn. -/
def effWeight (weight c tilt : Nat) : Nat := max 1 (max 1 weight >>> min (c * tilt) 4)

/-- R94: TILT of a unit; a gateway has none (R274). -/
def tiltOf (s : State) (u : UnitRef) : Nat :=
  match u with
  | .ni c => rdF s (cellReg c 3 0x800) 0 2
  | .gw _ => 0

/-- R94: the spray state's index of an entry and a class. -/
def sprayKey (e cls : Nat) : Nat := 2 * e + (if cls < 2 then 0 else 1)

/-- R94: pick among the usable paths; the state is (cur, left), 7 and 0 at first. -/
def sprayPick (usable : Nat → Bool) (weight : Nat → Nat) (st : Nat × Nat) : Option (Nat × (Nat × Nat)) :=
  if st.2 = 0 ∨ usable st.1 = false then
    (rrPick usable (st.1 + 1) 8).map (fun k => (k, (k, weight k - 1)))
  else some (st.1, (st.1, st.2 - 1))

/-- What choosing a path came to (R93): nothing eligible (whether a wafer lookup missed, and the spray state left),
everything skipped, or a completed route, the unit's spray state after the picks, and the off-wafer entry used. -/
inductive PathRes where
  | nopath (miss : Bool) (spray : FMap (Nat × Nat))
  | blocked
  | ok (route : List Seg) (spray : FMap (Nat × Nat)) (offw : Option Nat)
  deriving DecidableEq, Repr

/-- R90, R93: the completed route of a path of a field entry toward a cell, if the path is eligible. -/
def eligible (s : State) (u : UnitRef) (src : Cell) (e k cls : Nat) (dst : Cell) : Option (List Seg) :=
  if pathFor s u e k cls then completePath (pathSegs s u e k) src dst else none

/-- R93: whether a path may be picked now. -/
def usable (s : State) (u : UnitRef) (src : Cell) (e cls : Nat) (dst : Cell) (k : Nat) : Bool :=
  match eligible s u src e k cls dst with
  | some r => hopOpen s src (firstHop u cls r)
  | none => false

/-- R94: the weight of a path of a field entry. -/
def pathWeight (s : State) (u : UnitRef) (src : Cell) (e cls : Nat) (dst : Cell) (k : Nat) : Nat :=
  let hop := match eligible s u src e k cls dst with
    | some r => firstHop u cls r
    | none => 0
  effWeight (bits (pathWord s u e k 2) 24 4) (congestion s src hop cls) (tiltOf s u)

/-- R90, R93, R94: pick a path to a cell of this wafer from the entry of its field. -/
def pickTo (s : State) (u : UnitRef) (src : Cell) (cls : Nat) (dst : Cell) (spray : FMap (Nat × Nat))
    (offw : Option Nat) : PathRes :=
  let e := dst.field
  if (List.range 8).all (fun k => (eligible s u src e k cls dst).isNone) then .nopath false spray
  else
    match sprayPick (usable s u src e cls dst) (pathWeight s u src e cls dst) (spray.get (sprayKey e cls) (7, 0)) with
    | none => .blocked
    | some x =>
      match eligible s u src e x.1 cls dst with
      | none => .blocked
      | some r => .ok r (spray.set (sprayKey e cls) x.2) offw

/-! ## Targets -/

/-- R272: attachment cell j of a port for a packet's offset and source coordinates. -/
def attIndex (g : GwId) (off sx sy : Nat) : Nat :=
  match g with
  | .mem _ _ => off / 2048 % 16
  | .opt _ _ => (off / 2048 + sx + sy) % 2
  | .host _ _ => 0

/-- The wafer-map and link-list words in use (R321, R322): table 0 wafer map, 1 link list. -/
def wmapWord (s : State) (u : UnitRef) (table i w : Nat) : Word :=
  rd s (match u with
    | .ni c => cellReg c 3 (0xD100 + 0x80 * table + 8 * i + 4 * w)
    | .gw g => gwReg g 0 (0x7100 + 0x80 * table + 8 * i + 4 * w))

/-- R305: the first wafer-map entry that matches. -/
def wmapFind (s : State) (u : UnitRef) (wafer : Nat) : Option Nat :=
  (List.range 16).find? (fun i =>
    let m := wmapWord s u 0 i 1
    bit m 31 && ((wafer ^^^ bits (wmapWord s u 0 i 0) 0 20) &&& bits m 0 20) == 0)

/-- R305: the link that path k of an off-wafer entry names. -/
def offLink (s : State) (u : UnitRef) (i k : Nat) : Nat := bits (wmapWord s u 1 i (k / 4)) (8 * (k % 4)) 6

/-- R272, R305: choose the path of a packet from a cell where a unit injects. `notLink`: the link that a transit packet
came in by (R306). DESIGN CHOICE (log entry 23): an address that names no cell, which an RMAP entry of ALLTOALLV can hold (R185)
and no descriptor can (R35), is taken with its y modulo 240, or as the edge target that its x spells. -/
def choosePath (s : State) (u : UnitRef) (src : Cell) (cls : Nat) (h : Payload) (sx sy : Nat)
    (notLink : Option Nat) : PathRes :=
  let spray := (punit s u).spray
  if isLocal s u.dom (hDw h) then
    if hDx h ≤ 239 then pickTo s u src cls (mkCell (hDx h) (hDy h)) spray none
    else
      match gwOf (hDx h / 4 % 4) (hDx h) (hDy h) with
      | none => .nopath false spray
      | some g => pickTo s u src cls (attCell g (attIndex g (hOff h) sx sy)) spray none
  else
    match wmapFind s u (hDw h) with
    | none => .nopath true spray
    | some i =>
      let e := 48 + i
      if (List.range 8).all (fun k => !pathFor s u e k cls) then .nopath false spray
      else
        match sprayPick (fun k => pathFor s u e k cls)
            (fun k => effWeight (bits (pathWord s u e k 2) 24 4) 0 0) (spray.get (sprayKey e cls) (7, 0)) with
        | none => .nopath false spray
        | some x =>
          let n := offLink s u i x.1
          if notLink = some n then .nopath false (spray.set (sprayKey e cls) x.2)
          else
            let g := (optOf n).gw
            pickTo s u src cls (attCell g (attIndex g (hOff h) sx sy)) (spray.set (sprayKey e cls) x.2) (some i)

end Sys2Proof.Machine
end

