-- ==== Sys2Proof/Machine/Rings.lean ====
section
/-! DEFINITION. Rings, contexts and completions (R232-R242, R258-R263): the parts that every command on packets and
descriptors shares. -/

namespace Sys2Proof.Machine

/-! ## Registers of rings -/

/-- R264, R265: a register of a submission ring: 0 BASE (low), 1 BASE_HI, 2 CFG, 3 DB, 4 CI, 5 STAT. -/
def sqReg (u : UnitRef) (r i : Nat) : Nat :=
  match u with
  | .ni c => cellReg c 3 (0x20 * r + (if i = 0 then 0 else 4 * (i - 1)))
  | .gw g => gwReg g 1 (0x1000 + 0x20 * r + 4 * i)

/-- R264, R265: a register of a completion ring, numbered as in `sqReg`. -/
def cqReg (u : UnitRef) (r i : Nat) : Nat :=
  match u with
  | .ni c => cellReg c 3 (0x200 + 0x20 * r + (if i = 0 then 0 else 4 * (i - 1)))
  | .gw g => gwReg g 1 (0x1800 + 0x20 * r + 4 * i)

/-- R232: how many submission rings a unit has; units other than NIs and host ports have none. -/
def sqCount (u : UnitRef) : Nat :=
  match u with
  | .ni _ => 16
  | .gw (.host _ _) => 64
  | _ => 0

/-- R232: how many completion rings a unit has. -/
def cqCount (u : UnitRef) : Nat :=
  match u with
  | .ni _ => 4
  | .gw (.host _ _) => 64
  | _ => 0

/-- R239: how many descriptor contexts a unit has. -/
def ctxCap (u : UnitRef) : Nat :=
  match u with
  | .ni _ => 64
  | _ => 256

/-- A submission ring. -/
def sqOf (s : State) (u : UnitRef) (r : Nat) : SqRing := (punit s u).sq.get r SqRing.init
/-- A completion ring. -/
def cqOf (s : State) (u : UnitRef) (r : Nat) : CqRing := (punit s u).cq.get r CqRing.init
/-- Store a submission ring. -/
def setSq (s : State) (u : UnitRef) (r : Nat) (x : SqRing) : State := updUnit s u (fun p => { p with sq := p.sq.set r x })
/-- Store a completion ring. -/
def setCq (s : State) (u : UnitRef) (r : Nat) (x : CqRing) : State := updUnit s u (fun p => { p with cq := p.cq.set r x })

/-- LOG2 of a submission ring. -/
def sqLog (s : State) (u : UnitRef) (r : Nat) : Nat := rdF s (sqReg u r 2) 0 5
/-- LOG2 of a completion ring. -/
def cqLog (s : State) (u : UnitRef) (r : Nat) : Nat := rdF s (cqReg u r 2) 0 5

/-- The base of a ring: an offset in cluster SRAM, or a bus address. -/
def ringBase (s : State) (u : UnitRef) (lo hi : Nat) : Nat :=
  match u with
  | .ni _ => (rd s lo).toNat
  | .gw _ => (rd s lo).toNat + 4294967296 * (rd s hi).toNat

/-- A count's difference modulo 2^32 (R233). -/
def cntDiff (a b : Word) : Nat := (a - b).toNat

/-- R239: entries of a completion ring that are reserved: one per descriptor in a context, and completions that wait. -/
def cqRsv (s : State) (u : UnitRef) (r : Nat) : Nat :=
  ((punit s u).ctxs.filter (fun x => x.2.cq == r)).length + ((punit s u).cpl.filter (fun x => x.cq == r)).length

/-- R237: free unreserved entries of a completion ring. -/
def cqFree (s : State) (u : UnitRef) (r : Nat) : Nat :=
  2 ^ cqLog s u r - cntDiff (cqOf s u r).cpi (cqOf s u r).cci - cqRsv s u r

/-- R262: descriptors of a submission ring in execution. -/
def sqInexec (s : State) (u : UnitRef) (r : Nat) : Nat :=
  ((punit s u).ctxs.filter (fun x => x.2.ring == r)).length

/-- R258, R262: completions of a submission ring's descriptors that still wait to be written (R285). -/
def sqOwing (s : State) (u : UnitRef) (r : Nat) : Nat :=
  ((punit s u).cpl.filter (fun x => bits x.entry 125 2 == 0 && bits x.entry 48 6 == r)).length

/-- R262: rings whose last descriptor has completed and written its completion, or whose last reservation has gone, become
STOPPED. -/
def ringSettle (s : State) (u : UnitRef) : State :=
  updUnit s u (fun p => { p with
    sq := p.sq.map (fun x => (x.1, if x.2.st = .stopping ∧ sqInexec s u x.1 + sqOwing s u x.1 = 0 then { x.2 with st := .stopped } else x.2)),
    cq := p.cq.map (fun x => (x.1, if x.2.st = .stopping ∧ cqRsv s u x.1 = 0 then { x.2 with st := .stopped } else x.2)) })

/-! ## Completion entries (R236, R258) -/

/-- R278, R285: whether a host port's link carries traffic: up, at 32 GT/s or more, Bus Master Enable set. -/
def hostReady (s : State) (g : GwId) : Bool :=
  let l := (gw s g).link
  l.up && 1 ≤ l.speed && l.bme

/-- R281, R282: how many pieces of a range cross neither a 4 KB boundary nor a size. -/
def tlps (off len cap : Nat) : Nat → Nat
  | 0 => 0
  | n + 1 =>
    if len = 0 then 0
    else
      let k := min len (min cap (4096 - off % 4096))
      1 + tlps (off + k) (len - k) cap n

/-- R390: count the memory reads or writes a host port issues for a range. -/
def telTlp (s : State) (g : GwId) (wr : Bool) (off len : Nat) : State :=
  if wr then telGw (telGw s g 1 (tlps off len (gw s g).link.mps 70)) g 3 len
  else telGw (telGw s g 0 (tlps off len (gw s g).link.mrrs 70)) g 2 len

/-- R236: write an entry of a completion ring at CPI with its PHASE, and advance CPI. A ring in ERROR writes nothing
more: the entry is discarded and counted (R262). -/
def cqWrite (s : State) (u : UnitRef) (r : Nat) (ent : BitVec 128) : State :=
  let x := cqOf s u r
  if x.st = .error then cntUp s (cqReg u r 5) 24 8 1
  else
    let m := cqLog s u r
    let n := x.cpi.toNat
    let e := put ent 127 1 (1 - n / 2 ^ m % 2)
    let s1 := memWrite s (unitSpace u) (ringBase s u (cqReg u r 0) (cqReg u r 1) + 16 * (n % 2 ^ m)) (bytesOf 16 e.toNat)
    let s2 := match u with
      | .gw g => telGw (telTlp s1 g true 0 16) g 5 1
      | .ni _ => s1
    setCq s2 u r { x with cpi := x.cpi + 1 }

/-- R249, R285: a completion of a host port waits while its link does not carry it. -/
def cqPost (s : State) (u : UnitRef) (r : Nat) (ent : BitVec 128) : State :=
  match u with
  | .gw g => if hostReady s g then cqWrite s u r ent else updUnit s u (fun p => { p with cpl := p.cpl ++ [⟨r, ent⟩] })
  | .ni _ => cqWrite s u r ent

/-- R285: the completions that waited go out. -/
def cplFlush (s : State) (u : UnitRef) : State :=
  let l := (punit s u).cpl
  ringSettle (l.foldl (fun t x => cqWrite t u x.cq x.entry) (updUnit s u (fun p => { p with cpl := [] }))) u

/-- R244: fields of a descriptor. -/
def dOp (d : BitVec 512) : Nat := bits d 0 8
/-- WAIT. -/
def dWait (d : BitVec 512) : Bool := bit d 8
/-- NOCOMP. -/
def dNocomp (d : BitVec 512) : Bool := bit d 9
/-- TAG. -/
def dTag (d : BitVec 512) : Nat := bits d 32 32

/-- R258: the completion entry of a descriptor, but for PHASE. -/
def cplEntry (x : Ctx) : BitVec 128 :=
  let e := x.err.getD (0, 0)
  hSet128 0 [(0, 32, dTag x.desc), (32, 8, e.1), (40, 8, e.2), (48, 6, x.ring), (54, 1, b2n x.late),
    (55, 1, b2n x.unsync), (64, 61, x.result)]
where
  /-- Set fields of an entry. -/
  hSet128 (h : BitVec 128) (l : List (Nat × Nat × Nat)) : BitVec 128 := l.foldl (fun a f => put a f.1 f.2.1 f.2.2) h

/-! ## Contexts -/

/-- A context of a unit. -/
def ctxOf (s : State) (u : UnitRef) (id : Nat) : Option Ctx := (punit s u).ctxs.find id
/-- Store a context. -/
def setCtx (s : State) (u : UnitRef) (id : Nat) (x : Ctx) : State := updUnit s u (fun p => { p with ctxs := p.ctxs.set id x })
/-- Update a context if it exists. -/
def updCtx (s : State) (u : UnitRef) (id : Nat) (f : Ctx → Ctx) : State :=
  match ctxOf s u id with
  | some x => setCtx s u id (f x)
  | none => s

/-- R242, R258: complete a descriptor: write its entry unless it completed OK with NOCOMP, and free its context and
its reservation. -/
def finish (s : State) (u : UnitRef) (id : Nat) : State :=
  match ctxOf s u id with
  | none => s
  | some x =>
    let s1 := updUnit s u (fun p => { p with ctxs := p.ctxs.erase id })
    let s2 := if dNocomp x.desc && x.err.isNone then s1 else cqPost s1 u x.cq (cplEntry x)
    let s3 := match u with
      | .ni c => telNi s2 c 11 1
      | .gw _ => s2
    ringSettle s3 u

/-- The ends through which a unit sends. -/
def unitEnds (u : UnitRef) : List EndRef :=
  match u with
  | .ni c => [.ni c]
  | .gw g => (List.range (gwCount g.kind)).map (fun j => .gw g (Fin.ofNat 16 j))

/-- Whether a packet of a context is on an L VC or on a welt. -/
def inFlight (s : State) (u : UnitRef) (id : Nat) : Bool :=
  (unitEnds u).any (fun e => (txEnd s e).cur.any (fun y => match y with
    | some z => z.pkt.ctx == some id
    | none => false)) || (punit s u).weltCur.any (fun y => y.2.pkt.ctx == some id)

/-- Whether a packet of a context has its VC, or its welt, and has not begun. -/
def unbegun (s : State) (u : UnitRef) (id : Nat) : Bool :=
  (unitEnds u).any (fun e => (txEnd s e).cur.any (fun y => match y with
    | some z => z.pkt.ctx == some id && !z.begun
    | none => false)) || (punit s u).weltCur.any (fun y => y.2.pkt.ctx == some id && !y.2.begun)

/-- R241, R242: a running descriptor with nothing left to send has issued (a STREAM_OPEN only when it completes), and
completes when everything it sent has been answered. -/
def settleCtx (s : State) (u : UnitRef) (id : Nat) : State :=
  match ctxOf s u id with
  | none => s
  | some x =>
    if x.st = .active ∧ x.todo = [] ∧ inFlight s u id = false then
      if x.out = 0 then finish s u id else setCtx s u id { x with issued := x.issued || dOp x.desc != 9 }
    else s

/-- R98, R102: the source stream entries that a descriptor's STREAM_REQ not yet sent reserves. -/
def reserved (s : State) (u : UnitRef) (id : Nat) : List Nat :=
  let todo := match ctxOf s u id with
    | some x => x.todo.filterMap (fun p => match p.src with
        | .mem i _ => if p.cmd = 5 then some i else none
        | .bytes _ => none)
    | none => []
  todo ++ (unitEnds u).flatMap (fun e => (txEnd s e).cur.filterMap (fun y => match y with
    | some z =>
      if z.pkt.ctx == some id && !z.begun then
        (match z.pkt.req with
         | some r => if r.cmd = 5 then some r.place else none
         | none => none)
      else none
    | none => none))

/-- R98, R102: a descriptor that sends nothing more gives up the stream entry it reserved and the release it waits for. -/
def giveUpStreams (s : State) (u : UnitRef) (id : Nat) : State :=
  let l := reserved s u id
  if l.isEmpty && !(punit s u).streams.any (fun x => x.2.relPend == some id) then s
  else
    updUnit s u (fun p => { p with
      streams := (p.streams.keep (fun i => !(l.contains i && (match p.streams.find i with
        | some y => !y.live
        | none => false)))).map (fun x => (x.1, if x.2.relPend = some id then { x.2 with relPend := none } else x.2)) })

/-- R242: an error that completes a descriptor: it is the one reported if it is the first, and nothing more is sent; a
packet whose header unit has not entered L, or its welt, is withdrawn. A COLL's WRITE that fails ends its instance instead, with cause DATA
(R185). -/
def ctxErr (s : State) (u : UnitRef) (id st detail : Nat) : State :=
  let s1 := updCtx (giveUpStreams s u id) u id (fun x =>
    if dOp x.desc = 3 ∧ x.st = .waiting then { x with err := some (x.err.getD (9, 0x70)), todo := [] }
    else { x with err := some (x.err.getD (st, detail)), todo := [], st := .active })
  (unitEnds u).foldl (fun t e =>
    let y := txEnd t e
    if y.cur.any (fun z => match z with | some w => w.pkt.ctx == some id && !w.begun | none => false) then
      setTxEnd t e { y with cur := y.cur.map (fun z => match z with
        | some w => if w.pkt.ctx == some id && !w.begun then none else z
        | none => none) }
    else t) (if (punit s1 u).weltCur.any (fun x => x.2.pkt.ctx == some id && !x.2.begun) then
      updUnit s1 u (fun p => { p with weltCur := p.weltCur.filter (fun x => x.2.pkt.ctx != some id || x.2.begun) }) else s1)

/-- Complete a descriptor with a status as soon as what it sent has been answered. -/
def failCtx (s : State) (u : UnitRef) (id st detail : Nat) : State :=
  settleCtx (ctxErr s u id st detail) u id

/-- R240, R241: whether a fetched descriptor's WAIT flag holds it, and with it its ring: an earlier descriptor of the ring has
not completed. -/
def waitHolds (s : State) (u : UnitRef) (id : Nat) (x : Ctx) : Bool :=
  x.st == .fetched && dWait x.desc && (punit s u).ctxs.any (fun y => y.2.ring == x.ring && decide (y.1 < id))

/-- R135: whether a CIRCUIT_CLOSE that has not started stands before a descriptor in its ring. It issued at its fetch (R241),
and what it closes is closed to the descriptors behind it. -/
def behindClose (s : State) (u : UnitRef) (id : Nat) (x : Ctx) : Bool :=
  (punit s u).ctxs.any (fun y => y.2.ring == x.ring && decide (y.1 < id) && y.2.st == .fetched && dOp y.2.desc == 5)

/-- R240: a fetched descriptor of a ring that may start: its WAIT flag lets it, and no CIRCUIT_CLOSE before it has yet to. -/
def mayStart (s : State) (u : UnitRef) (id : Nat) (x : Ctx) : Bool :=
  x.st == .fetched && !waitHolds s u id x && !behindClose s u id x

/-- The oldest descriptor of a ring with an opcode that may start (R240). -/
def startable (s : State) (u : UnitRef) (r op : Nat) : Option (Nat × Ctx) :=
  (punit s u).ctxs.find? (fun x => x.2.ring == r && dOp x.2.desc == op && mayStart s u x.1 x.2)

end Sys2Proof.Machine
end

