-- ==== Sys2Proof/Machine/Meter.lean ====
section
/-! DEFINITION. Ingress meters of host and optical gateways (R153-R157, R163, R390). -/

namespace Sys2Proof.Machine

/-- R163: word w of the meter of class k. -/
def meterKey (g : GwId) (k w : Nat) : Nat := gwReg g 1 (0x400 + 0x20 * (k - 1) + 4 * w)

/-- R283: the clock of a gateway's meters: HCLK for host ports, the band clock for optical links. -/
def gwClkDom (g : GwId) : Nat :=
  match g with
  | .host _ _ => 52
  | _ => g.dom

/-- R154: CBS (w = 1) or PBS (w = 2) of a meter, in units of 2^-16 byte: 0 acts as 64. -/
def meterSize (s : State) (g : GwId) (k w : Nat) : Nat :=
  let n := rdF s (meterKey g k w) 0 24
  (if n = 0 then 64 else n) * 65536

/-- R154: what an update adds at a rate in units of 0.01 GB/s over 256 cycles, rounded down to 2^-16 byte. -/
def meterGain (g : GwId) (rate : Nat) : Nat := rate * 10 * 256 * 65536 / perUs (gwClkDom g)

/-- R154, R157: an update of the meter of class k. -/
def meterStep (s : State) (g : GwId) (k : Nat) : State :=
  let m := (gw s g).meters.get k Meter.init
  let on := bit (rd s (meterKey g k 3)) 0
  let cir := rdF s (meterKey g k 0) 0 16
  let pir := rdF s (meterKey g k 0) 16 16
  let cbs := meterSize s g k 1
  let pbs := meterSize s g k 2
  let m1 : Meter :=
    if on = false then { m with enable := false }
    else if m.enable = false then { enable := true, tc := cbs, tp := pbs }
    else { m with tc := min cbs (m.tc + meterGain g cir), tp := min pbs (m.tp + meterGain g (max cir pir)) }
  let s1 := updGw s g (fun x => { x with meters := x.meters.set k m1 })
  if on = true ∧ pir < cir then setBits s1 (meterKey g k 3) 2 else s1

/-- R153, R157: ENABLE written to 0 stops a meter at once; it starts again, with its buckets full, at an update. -/
def meterWrite (s : State) (g : GwId) (key : Nat) (v : Word) : State :=
  match (List.range 4).find? (fun j => 1 ≤ j && key == meterKey g j 3) with
  | some j => if bit v 0 then s else updGw s g (fun x => { x with meters := x.meters.set j { x.meters.get j Meter.init with enable := false } })
  | none => s

/-- Whether a gateway has meters (R153). -/
def hasMeters (g : GwId) : Bool := g.kind != 0

/-- R154: METER_UPDATE, once in 256 cycles of the gateway's clock; none is made up for the time in which the band had no clock. -/
def meterUpdate (s : State) (g : GwId) : State :=
  if hasMeters g = true ∧ clocked s g.dom = true ∧ (gw s g).updates ≤ cyc s (gwClkDom g) / 256 then
    let s1 := meterStep (meterStep (meterStep s g 1) g 2) g 3
    updGw s1 g (fun x => { x with updates := if x.updates = 0 then cyc s (gwClkDom g) / 256 + 1 else x.updates + 1 })
  else s

/-- R155: what a meter does with a packet. -/
inductive MeterAct where
  | forward
  | demote
  | drop
  deriving DecidableEq, Repr

/-- R156: the action taken for a configured one, and whether it is a substitution. -/
def meterAct (conf cmd cls : Nat) : MeterAct × Bool :=
  if conf = 2 then (if cls = 1 ∧ (cmd = 0 ∨ cmd = 4) then (.drop, false) else (.forward, true))
  else if conf = 1 then
    (if cls = 1 ∧ cmd = 0 then (.demote, false) else if cls = 3 then (.forward, false) else (.forward, true))
  else (.forward, false)

/-- R154: the colour of a packet of B (in 2^-16 byte): 0 green, 1 yellow, 2 red. -/
def meterColour (m : Meter) (b : Nat) : Nat := if m.tp < b then 2 else if m.tc < b then 1 else 0

/-- R154-R157, R390: meter a packet. -/
def meterTake (s : State) (g : GwId) (cmd ndu cls : Nat) : State × MeterAct :=
  let m := (gw s g).meters.get cls Meter.init
  if m.enable = false ∨ cls = 0 then (s, .forward)
  else
    let size := 64 * (ndu + 1)
    let b := size * 65536
    let c := meterColour m b
    let m1 := { m with tp := if c = 2 then m.tp else m.tp - b, tc := if c = 0 then m.tc - b else m.tc }
    let s1 := updGw s g (fun x => { x with meters := x.meters.set cls m1 })
    let s2 := telGw (telGw s1 g (32 + 6 * (cls - 1) + 2 * c) 1) g (33 + 6 * (cls - 1) + 2 * c) size
    let a := meterAct (rdF s (meterKey g cls 3) (4 + 2 * c) 2) cmd cls
    let s3 := if a.2 then cntUp s2 (meterKey g cls 6) 16 16 1 else s2
    (if a.1 = .drop then cntUp s3 (meterKey g cls 6) 0 16 1 else s3, a.1)

/-- METER_UPDATE (R154). -/
def execMeterUpdate (g : GwId) (s : State) : Host.Outcome State Fault Refusal := .next (meterUpdate s g)

end Sys2Proof.Machine
end

