-- ==== Sys2Proof/Machine/Sender.lean ====
section
/-! DEFINITION. How a unit starts and sends packets: throttles (R142-R144), shapers (R150-R152), building a packet
(R78-R82, R248), the start of a packet on its class's VC (R145), the stamps and the outstanding entry at its entry
(R81, R96, R100), delivery to the own cell (R81), and the flit that goes next (R145, R147). -/

namespace Sys2Proof.Machine

/-! ## Ends and units -/

/-- The unit whose tables and counters serve an end: a combine unit uses its cell's NI (R305). -/
def endUnit (e : EndRef) : UnitRef :=
  match e with
  | .ni c => .ni c
  | .cmb c => .ni c
  | .gw g _ => .gw g
  | .router c _ => .ni c
  | .optical o => .gw o.gw

/-- The cell at which an end injects. -/
def endCell (e : EndRef) : Cell :=
  match e with
  | .ni c => c
  | .cmb c => c
  | .router c _ => c
  | .gw g j => attCell g j.val
  | .optical o => attCell o.gw 0

/-! ## Throttles (R144) -/

/-- R144: whether a class is PAUSED at a unit. -/
def isPaused (s : State) (u : UnitRef) (k : Nat) : Bool := lget (punit s u).paused k false

/-! ## Shapers (R150, R151) -/

/-- A queue's shaper. -/
def shaper (s : State) (u : UnitRef) (q : Nat) : Shaper := (punit s u).shapers.get q Shaper.init

/-- R151: what the packets of a queue that have started will still be charged when their header units enter L. -/
def pendingCharge (s : State) (u : UnitRef) (q : Nat) : Nat :=
  match u with
  | .ni c => sumN ((txEnd s (.ni c)).cur.map (fun z => match z with
    | some y => if y.pkt.q = some q ∧ y.begun = false then hLen y.pkt.hdr + (shaper s u q).ovh else 0
    | none => 0))
  | .gw _ => 0

/-- R151: whether a queue's shaper lets it start a packet: its credit is above zero, those of its packets taken off that have
started and wait to enter L. -/
def shaperOpen (s : State) (u : UnitRef) (q : Nat) : Bool :=
  !(shaper s u q).enable || decide ((pendingCharge s u q : Int) < (shaper s u q).credit)

/-- R151: charge a packet to its queue. -/
def charge (s : State) (u : UnitRef) (q len : Nat) : State :=
  let x := shaper s u q
  if x.enable then updUnit s u (fun p => { p with shapers := p.shapers.set q { x with credit := x.credit - (len + x.ovh : Nat) } })
  else s

/-! ## Local memory -/

/-- Read local memory of a unit (R245): cluster SRAM, or host memory through a window. -/
def localRead (s : State) (u : UnitRef) (off len : Nat) : Option (List Byte) :=
  match u with
  | .ni _ => some (memRead s (unitSpace u) off len)
  | .gw g => (hostXlat s g off len false).map (fun a => memRead s (unitSpace u) a len)

/-! ## Streams -/

/-- R252: the cell part of a fabric address, with LOCAL resolved to this wafer: wafer·2^16 + x·2^8 + y. -/
def destCell (s : State) (d dest : Nat) : Nat :=
  let w := dest / 2 ^ 56
  (if w = waferLocal then waferOf s d else w) * 65536 + dest / 2 ^ 40 % 65536

/-- R98, R248: the stream of a queue to a cell. -/
def streamFor (s : State) (u : UnitRef) (q dest : Nat) : Option (Nat × SrcStream) :=
  (punit s u).streams.find? (fun x => x.2.q == q && x.2.dest == destCell s u.dom dest && x.2.live)

/-! ## Building packets -/

/-- The 16 inline bytes of a plan as a number and its data bytes make a packet's header unit (R78, R79, R82). -/
def planHdr (p : Plan) (q n : Nat) : Payload :=
  hSet 0 [(0, 4, p.cmd), (4, 2, p.cls), (8, 6, nduOf n), (14, 5, p.inlen), (19, 6, if n = 0 then 0 else lastbOf n),
    (25, 1, b2n p.fence), (26, 1, b2n p.mcast), (36, 4, p.cspec), (152, 76, if p.mcast then waferLocal * 2 ^ 56 + p.dest % 2 ^ 40 else p.dest),
    (264, 4, q), (272, 48, if p.mcast ∨ p.cmd = 7 then p.mview else 0), (320, 48, p.mask), (384, 128, p.inl)]

/-- What the outstanding entry of a plan remembers: where a READ_DATA is placed, or the source stream that a STREAM_REQ
or STREAM_REL is about, which such a plan names as the place of its empty source. -/
def planPlace (p : Plan) : Nat :=
  match p.src with
  | .mem off _ => if p.cmd = 5 ∨ p.cmd = 7 then off else if p.cmd = 1 then p.inl % 2 ^ 40 else 0
  | .bytes _ => if p.cmd = 1 then p.inl % 2 ^ 40 else 0

/-- R248: whether the source bytes of a plan travel inline: those of a COPY PUT of up to 16 bytes. -/
def Plan.inlined (p : Plan) : Bool :=
  match p.src with
  | .mem _ _ => p.cmd == 0 && p.inlen != 0
  | .bytes _ => false

/-- R79: the data bytes of a plan's packet. -/
def Plan.dataLen (p : Plan) : Nat :=
  match p.src with
  | .mem _ len => if p.inlined then 0 else len
  | .bytes l => l.length

/-- R81: the packet of a plan; none when its source bytes cannot be read (R280). -/
def planPkt (s : State) (u : UnitRef) (id : Nat) (x : Ctx) (p' : Plan) : Option TxPkt :=
  let src := match p'.src with
    | .mem off len => if len = 0 then some [] else localRead s u off len
    | .bytes l => some l
  src.map (fun l =>
    let p := if p'.inlined then { p' with inl := natOf l } else p'
    let bs := if p'.inlined then [] else l
    let h0 := planHdr p x.ring bs.length
    let h := if p.mcast && p.cmd == 0 then put h0 384 32 (crc32c bs) else h0
    let placed := if p.cmd = 0 ∧ p.cspec = 0 ∨ p.cmd = 4 then bytesOf p.inlen p.inl ++ bs else bs
    let ans := !p.mcast && (p.cmd == 0 || p.cmd == 1 || p.cmd == 4 || p.cmd == 5 || p.cmd == 7 || p.cmd == 9)
    let st := if p.onStream then (streamFor s u x.ring p.dest).map (fun y => y.1) else none
    { hdr := h, data := dataUnits bs, cls := p.cls, grp := 0,
      req := if ans then some { cmd := p.cmd, ctx := some id, crc := if placed.isEmpty then p.crc else crc32c placed,
                                len := p.len, place := planPlace p, stream := st, fence := p.fence,
                                welt := none, offw := none } else none,
      ctx := some id, q := some x.ring, port := 0, raw := false, via := none })

/-! ## Outstanding table (R96) -/

/-- R96: the lowest entry neither in use nor quarantined. -/
def freeTag (s : State) (u : UnitRef) : Option Nat := (List.range 1024).find? (fun t => ((punit s u).out.find t).isNone)

/-- A request's header unit but for what routers and gateways change on its way: class, epoch and route. -/
def askedHdr (h : Payload) : Payload := hSet h [(4, 4, 0), (28, 8, 0), (72, 80, 0)]

/-- R96: entries in use. -/
def outCount (s : State) (u : UnitRef) : Nat := ((punit s u).out.filter (fun x => !x.2.quar)).length

/-- R349: the clock of a unit's timers: its field's, or its edge band's, in which a host gateway lies too (R269, R356). -/
def unitCyc (s : State) (u : UnitRef) : Nat := cyc s u.dom

/-- Cycles of a unit's clock in a microsecond. -/
def unitPerUs (u : UnitRef) : Nat := perUs u.dom

/-- R96: take an outstanding entry for a request with a header unit. -/
def takeEntry (s : State) (u : UnitRef) (tag : Nat) (r : OutReq) (epoch : Nat) (h : Payload) : State :=
  let ent : OutEnt :=
    { quar := false, since := unitCyc s u, cmd := r.cmd, ctx := r.ctx, crc := r.crc, len := r.len, place := r.place,
      stream := r.stream, fence := r.fence, welt := r.welt, epoch := epoch, offw := r.offw,
      asked := (match u with | .ni _ => 0 | .gw _ => askedHdr h) }
  let s1 := updUnit s u (fun p => { p with out := p.out.set tag ent })
  let s2 := match r.ctx with
    | some id => updCtx s1 u id (fun x => { x with out := x.out + 1 })
    | none => s1
  match u with
  | .ni c => maxUp s2 (cellReg c 3 0xB010) 20 11 (outCount s2 u)
  | .gw _ => s2

/-! ## Entry into L (R81, R100, R124) -/

/-- R81: the stamps of a header unit: TS, TS_UNSYNC and the SRC fields. -/
def stampHdr (s : State) (u : UnitRef) (c : Cell) (h : Payload) : Payload :=
  hSet h [(27, 1, b2n (stampUnsync s (timeDom u))), (40, 32, nstime s (timeDom u)), (228, 20, waferOf s u.dom), (248, 8, c.x.val),
    (256, 8, c.y.val)]

/-- R100: the stream fields of a header unit. -/
def stampStream (y : SrcStream) (fence : Bool) (h : Payload) : Payload :=
  hSet h [(288, 16, if fence then y.sent else 0), (304, 9, y.stag), (313, 1, 1), (314, 1, y.sgen), (315, 4, y.sinst)]

/-- R100: a stream after one of its packets entered L. -/
def streamSent (y : SrcStream) (fence : Bool) : SrcStream :=
  if fence then { y with sgen := 1 - y.sgen, sent := 0, fout := true, unack := y.unack + 1 }
  else { y with sent := (y.sent + 1) % 65536, unack := y.unack + 1 }

/-- R230: count the tiles that a packet of a COPY_SPARSE stands for as it is sent. -/
def countSentTiles (s : State) (u : UnitRef) (r : OutReq) : State :=
  match u, r.ctx with
  | .ni c, some id =>
    if ((punit s u).ctxs.find id).any (fun x => dOp x.desc == 2) then cntUp s (cellReg c 3 0xC008) 0 32 (r.len / 2) else s
  | _, _ => s

/-- R81, R96, R100, R151, R389: a packet's header unit enters L, a welt, or the own cell: the header unit as sent and the
state after its stamps, its outstanding entry, its stream's counts and (where `charged`) its shaper. -/
def enter (s : State) (u : UnitRef) (c : Cell) (z : TxPkt) (charged : Bool) : Option (Payload × State) :=
  let h0 := if z.raw then z.hdr else stampHdr s u c z.hdr
  let s0 := match z.q with
    | some q => if charged then charge s u q (hLen z.hdr) else s
    | none => s
  match z.req with
  | none => some (h0, s0)
  | some r =>
    match freeTag s u with
    | none => none
    | some t =>
      let h1 := put h0 272 16 t
      let s1 := countSentTiles (takeEntry s0 u t r (hEpoch h1) h1) u r
      match r.stream with
      | none => some (h1, s1)
      | some i =>
        match (punit s1 u).streams.find i with
        | none => some (h1, s1)
        | some y => some (stampStream y r.fence h1, updUnit s1 u (fun p => { p with streams := p.streams.set i (streamSent y r.fence) }))

/-- A packet that reaches a unit whole. -/
def arrival (h : Payload) (data : List Payload) (welt : Bool) (port : Nat) : RxPkt :=
  { hdr := h, data := data, welt := welt, port := port }

/-- R81, R159: deliver a packet to the unit's own cell; `free` is that of a plan. -/
def deliverOwn (s : State) (c : Cell) (h : Payload) (data : List Payload) (free : Option Nat) : State :=
  let s1 := rxCount s (.ni c) h
  updUnit s1 (.ni c) (fun p => { p with inbox := p.inbox ++ [{ arrival h data false 0 with free := free }] })

/-- R249: a multicast PUT counts its bytes as sent. -/
def countSent (s : State) (u : UnitRef) (z : TxPkt) : State :=
  match z.ctx with
  | some id => if hMcast z.hdr then updCtx s u id (fun x => { x with result := x.result + hLen z.hdr }) else s
  | none => s

/-! ## Starting packets -/

/-- The packet of a queue that goes next: its descriptor and plan. -/
def headPlan (s : State) (u : UnitRef) (q : Nat) : Option (Nat × Ctx × Plan) :=
  ((punit s u).ctxs.filter (fun x => x.2.ring == q && !x.2.todo.isEmpty)).head?.bind (fun x =>
    x.2.todo.head?.map (fun p => (x.1, x.2, p)))

/-- R81: whether a plan's packet goes to the unit's own cell; a multicast does when its target set (R106) is that cell
alone. -/
def planOwn (s : State) (u : UnitRef) (p : Plan) : Bool :=
  match u with
  | .ni c =>
    if p.mcast then
      let h := planHdr p 0 0
      mcCols h == [c.x.val] && mcRows h c.x.val == [c.y.val]
    else destCell s u.dom p.dest == waferOf s u.dom * 65536 + c.x.val * 256 + c.y.val
  | .gw _ => false

/-- R133, R135: the open welt that carries a packet of a descriptor. DESIGN CHOICE (log entry 149): a CIRCUIT_CLOSE that runs on
another queue than the bound one, against which R135 does not order the bound queue's descriptors, ends its use at once. -/
def planWelt (s : State) (u : UnitRef) (q : Nat) (p : Plan) : Option Nat :=
  if p.cmd = 0 ∧ p.fence = false ∧ p.mcast = false then
    ((punit s u).weltSrc.find? (fun x => !x.2.closing && x.2.q == q && x.2.dest == destCell s u.dom p.dest)).map (fun x => x.1)
  else none

/-- R100, R96: whether a plan's packet may start as far as its stream and the outstanding table go. -/
def planReady (s : State) (u : UnitRef) (q : Nat) (p : Plan) : Bool :=
  (p.mcast || (freeTag s u).isSome) &&
    !(p.fence && (match streamFor s u q p.dest with
      | some y => y.2.fout
      | none => false))

/-- Remove the first plan of a descriptor. -/
def popPlan (s : State) (u : UnitRef) (id : Nat) : State := updCtx s u id (fun x => { x with todo := x.todo.tail })

/-- The register that holds route errors of a unit, the bit of NOPATH and the place of NOPATH_CNT (R115, R297). -/
def noPath (s : State) (u : UnitRef) (miss : Bool) : State :=
  match u with
  | .ni c =>
    let s1 := setBits (cntUp s (cellReg c 3 0x808) 16 8 1) (cellReg c 3 0x808) 2
    if miss then cntUp s1 (cellReg c 3 0xD204) 0 16 1 else s1
  | .gw g => setBits (cntUp s (gwReg g 0 8) 16 8 1) (gwReg g 0 8) 2

/-- R93: a packet waited with every first hop unusable. -/
def blockedSet (s : State) (u : UnitRef) : State :=
  match u with
  | .ni c => setBits s (cellReg c 3 0x808) 4
  | .gw _ => s

/-- Give the VC of its class to a packet. -/
def takeVcCur (s : State) (e : EndRef) (z : TxPkt) : State :=
  let t := txEnd s e
  setTxEnd s e { t with cur := lset t.cur z.cls (some { pkt := z, begun := false, left := z.data }) }

/-- R81, R90: put the completed route and the epoch into a header unit. -/
def routedHdr (s : State) (u : UnitRef) (h : Payload) (r : List Seg) : Payload :=
  hSet h (routeFields r ++ [(6, 2, (punit s u).epoch)])

/-- R285: whether the source bytes of a plan can be read now: a host port reads none while Bus Master Enable is clear. -/
def sourceOpen (s : State) (u : UnitRef) (p : Plan) : Bool :=
  match u, p.src with
  | .gw g, .mem _ len => len == 0 || (gw s g).link.bme
  | _, _ => true

/-- R145: whether the head packet of a queue may start on a class's VC. -/
def queueReady (s : State) (u : UnitRef) (k q : Nat) : Bool :=
  match headPlan s u q with
  | none => false
  | some (_, _, p) =>
    p.cls == k && !planOwn s u p && (planWelt s u q p).isNone && !isPaused s u k && shaperOpen s u q && planReady s u q p &&
      sourceOpen s u p

/-- R299: a window check of a unit's local memory failed. -/
def unitMiss (s : State) (u : UnitRef) : State :=
  match u with
  | .gw g => winMiss s g
  | .ni _ => s

/-- R390: the source bytes of a host port's packet are read from host memory. -/
def countSrc (s : State) (u : UnitRef) (p : Plan) : State :=
  match u, p.src with
  | .gw g, .mem off len => if len = 0 then s else telTlp s g false off len
  | _, _ => s

/-- R93, R145: start the head packet of a queue, or complete its descriptor with NOPATH. -/
def startQueue (s : State) (u : UnitRef) (e : EndRef) (k q : Nat) : State :=
  match headPlan s u q with
  | none => s
  | some (id, x, p) =>
    match planPkt s u id x p with
    | none => failCtx (unitMiss s u) u id 3 0
    | some z =>
      let took := fun (s : State) (z : TxPkt) =>
        let s1 := takeVcCur (popPlan (countSrc s u p) u id) e z
        let t := txEnd s1 e
        setTxEnd s1 e { t with qLast := lset t.qLast k q }
      if p.mcast then took s { z with hdr := put z.hdr 6 2 (punit s u).epoch }
      else
        let c := endCell e
        match choosePath s u c p.cls z.hdr c.x.val c.y.val none with
        | .nopath miss sp =>
          failCtx (noPath (updUnit s u (fun y => { y with spray := sp })) u miss) u id 4 0
        | .blocked => blockedSet s u
        | .ok r sp ow =>
          took (updUnit s u (fun y => { y with spray := sp }))
            { z with hdr := routedHdr s u z.hdr r, req := z.req.map (fun y => { y with offw := ow }) }

/-- R93: whether a start does more than wait for a path. -/
def startsNow (s : State) (u : UnitRef) (e : EndRef) (q : Nat) : Bool :=
  match headPlan s u q with
  | none => false
  | some (id, x, p) =>
    match planPkt s u id x p with
    | none => true
    | some z =>
      p.mcast || (match choosePath s u (endCell e) p.cls z.hdr (endCell e).x.val (endCell e).y.val none with
        | .blocked => false
        | _ => true)

/-- R153, R155: start the head packet of a queue; a host port meters it first. A packet dropped by the meter keeps its
outstanding entry; a demoted one starts on BLK. A packet that cannot be formed is none (R280). -/
def startMetered (s : State) (u : UnitRef) (e : EndRef) (k q : Nat) : State :=
  match u, headPlan s u q with
  | .gw (.host a b), some (id, x, p) =>
    if p.met = true ∨ (planPkt s u id x p).isNone = true then startQueue s u e k q
    else
      let m := meterTake s (.host a b) p.cmd (nduOf p.dataLen) p.cls
      let mark := fun (c : Nat) => updCtx m.1 u id (fun y => { y with todo := { p with met := true, cls := c } :: y.todo.tail })
      match m.2 with
      | .forward => startQueue (mark p.cls) u e k q
      | .demote => mark 3
      | .drop =>
        match (planPkt s u id x p).bind (fun z => z.req), freeTag s u with
        | some r, some t => settleCtx (takeEntry (popPlan m.1 u id) u t r (punit s u).epoch 0) u id
        | _, _ => settleCtx (popPlan m.1 u id) u id
  | _, _ => startQueue s u e k q

/-- R93, R145: give the VC of a class to the next eligible queue. A packet whose paths are all skipped waits, which
BLOCKED records. -/
def startClass (s : State) (u : UnitRef) (e : EndRef) (k : Nat) : State :=
  if (lget (txEnd s e).cur k none).isSome ∨ lget (link s e).credits (2 * k) 0 = 0 then s
  else
    let s1 := if (List.range 64).any (fun q => queueReady s u k q && !startsNow s u e q) then blockedSet s u else s
    match rrPick (fun q => queueReady s u k q && startsNow s u e q) (lget (txEnd s e).qLast k 63 + 1) 64 with
    | some q => startMetered s1 u e k q
    | none => s1

/-- R315: an answer to a packet held at a loss that cannot reach its source counts in OPT_LOSS.DISCARDED. -/
def lossGone (s : State) (u : UnitRef) (z : TxPkt) : State :=
  match u with
  | .gw g => if z.loss then cntUp s (gwReg g 1 0x48) 24 8 1 else s
  | .ni _ => s

/-- R81, R93: start the first response that is not blocked; one without an eligible path is discarded and counted. -/
def startResp (s : State) (u : UnitRef) (e : EndRef) : List TxPkt → List TxPkt → State
  | _, [] => s
  | pre, z :: r =>
    let c := endCell e
    if (match e with | .gw _ j => z.port != j.val | _ => false) then startResp s u e (pre ++ [z]) r
    else
      match choosePath s u c z.cls z.hdr c.x.val c.y.val z.via with
      | .nopath miss sp =>
        startResp (lossGone (noPath (updUnit s u (fun y => { y with spray := sp, resp := pre ++ r })) u miss) u z) u e pre r
      | .blocked => startResp (blockedSet s u) u e (pre ++ [z]) r
      | .ok rt sp _ =>
        takeVcCur (updUnit s u (fun y => { y with spray := sp, resp := pre ++ r })) e
          { z with hdr := routedHdr s u z.hdr rt }

/-- R145: start a response on the RSP VC. -/
def startRsp (s : State) (u : UnitRef) (e : EndRef) : State :=
  if (lget (txEnd s e).cur 0 none).isSome ∨ lget (link s e).credits 0 0 = 0 then s
  else startResp s u e [] (punit s u).resp

/-- R111: where a register of a unit's staging tables lies once the banks have changed places; others stay. -/
def swapOff (u : UnitRef) (off : Nat) : Nat :=
  let lo := match u with
    | .ni _ => 0xD000
    | .gw _ => 0x7000
  if 0x1000 ≤ off ∧ off < 0x3000 then off + 0x2000
  else if 0x3000 ≤ off ∧ off < 0x5000 then off - 0x2000
  else if lo ≤ off ∧ off < lo + 0x100 then off + 0x100
  else if lo + 0x100 ≤ off ∧ off < lo + 0x200 then off - 0x100
  else off

/-- R111: the banks of a unit change places. -/
def swapBanks (s : State) (u : UnitRef) : State :=
  let base := unitReg u 0 0 0
  let mine := fun (k : Nat) => decide (base ≤ k) && decide (k < base + 65536) && swapOff u (k - base) != k - base
  { s with regs := (s.regs.keep mine).foldl (fun m x => m.set (base + swapOff u (x.1 - base)) x.2) (s.regs.keep (fun k => !mine k)) }

/-- R307: the state in which a queued packet's route is chosen: the bank that was active as its header unit came in. -/
def bankOf (s : State) (u : UnitRef) (z : TxPkt) : State :=
  match z.pre with
  | .bank ep => if ((punit s u).epoch + 4 - ep) % 2 = 1 then swapBanks s u else s
  | _ => s

/-- R274, R307: the header unit of a queued packet with its route, under the epoch of the bank that gave it. -/
def queuedHdr (s : State) (u : UnitRef) (z : TxPkt) (rt : List Seg) : Payload :=
  match z.pre with
  | .bank ep => put (routedHdr s u z.hdr rt) 6 2 ep
  | _ => routedHdr s u z.hdr rt

/-- R274, R170: start the first waiting packet of a class of an end's own queue: ingress packets and chunks. A packet
whose path is not eligible is discarded; `lose` says what becomes of it. -/
def startQueued (lose : State → EndRef → TxPkt → Bool → State) (s : State) (e : EndRef) (k : Nat) :
    List TxPkt → List TxPkt → State
  | _, [] => s
  | pre, z :: r =>
    if z.cls ≠ k then startQueued lose s e k (pre ++ [z]) r
    else
      let u := endUnit e
      let c := endCell e
      let drop := fun (s : State) => setTxEnd s e { txEnd s e with queue := pre ++ r }
      if hMcast z.hdr then takeVcCur (drop s) e { z with hdr := put z.hdr 6 2 (punit s u).epoch }
      else if z.pre = .routed then takeVcCur (drop s) e z
      else if let .lost miss := z.pre then lose (drop s) e z miss
      else
        let sx := if z.raw then hSx z.hdr else c.x.val
        let sy := if z.raw then hSy z.hdr else c.y.val
        match choosePath (bankOf s u z) u c k z.hdr sx sy z.via with
        | .nopath miss sp =>
          lose (drop (updUnit s u (fun y => { y with spray := sp }))) e z miss
        | .blocked => startQueued lose (blockedSet s u) e k (pre ++ [z]) r
        | .ok rt sp _ => takeVcCur (drop (updUnit s u (fun y => { y with spray := sp }))) e { z with hdr := queuedHdr s u z rt }

/-- R81: the NI handles the head packet of a queue that is for its own cell. -/
def ownStep (s : State) (c : Cell) (q : Nat) : State :=
  let u := UnitRef.ni c
  match headPlan s u q with
  | none => s
  | some (id, x, p) =>
    if planOwn s u p && planReady s u q p then
      match planPkt s u id x p with
      | none => s
      | some z =>
        match enter s u c { z with hdr := put z.hdr 6 2 (punit s u).epoch } false with
        | none => s
        | some (h, s1) => settleCtx (countSent (deliverOwn (popPlan s1 u id) c h z.data p.free) u { z with hdr := h }) u id
    else s

/-- R81: responses for the own cell are delivered at once. -/
def ownResp (s : State) (c : Cell) : List TxPkt → State
  | [] => s
  | z :: r =>
    let u := UnitRef.ni c
    if destCell s c.field (hDest z.hdr) = waferOf s c.field * 65536 + c.x.val * 256 + c.y.val then
      let s1 := updUnit s u (fun p => { p with resp := p.resp.erase z })
      ownResp (deliverOwn s1 c (stampHdr s u c z.hdr) z.data none) c r
    else ownResp s c r

/-- R305, R317: the off-wafer entry under which a packet to a wafer is sent, if it leaves this one. -/
def offwOf (s : State) (u : UnitRef) (h : Payload) : Option Nat := if isLocal s u.dom (hDw h) then none else wmapFind s u (hDw h)

/-- R133: a WRITE of a bound queue goes to its welt, one packet at a time. -/
def weltStart (s : State) (c : Cell) (q : Nat) : State :=
  let u := UnitRef.ni c
  match headPlan s u q with
  | none => s
  | some (id, x, p) =>
    match planWelt s u q p with
    | none => s
    | some l =>
      if ((punit s u).weltCur.find l).isSome ∨ planReady s u q p = false then s
      else
        match planPkt s u id x p with
        | none => s
        | some z =>
          let z1 := { z with
            hdr := hSet z.hdr [(4, 2, 0), (6, 2, (punit s u).epoch)], cls := 0,
            req := z.req.map (fun y => { y with welt := some l, offw := offwOf s u z.hdr }) }
          updUnit (popPlan s u id) u (fun y => { y with weltCur := y.weltCur.set l { pkt := z1, begun := false, left := z1.data } })

/-! ## The flit that goes next -/

/-- R145: a unit's nominations: the packets that hold a VC with a credit; a request whose header unit has not entered L
needs an outstanding entry. -/
def unitNoms (s : State) (e : EndRef) : List Nom :=
  (List.range 4).filterMap (fun k =>
    match lget (txEnd s e).cur k none with
    | none => none
    | some z =>
      if 0 < lget (link s e).credits (2 * k) 0 ∧ (z.begun = true ∨ z.pkt.req.isNone = true ∨ (freeTag s (endUnit e)).isSome = true) then
        some { i := k, v := 2 * k, cls := k, grp := z.pkt.grp, ovc := 2 * k }
      else none)

/-- R389: count a packet that enters L. -/
def countInj (s : State) (e : EndRef) (k len : Nat) : State :=
  match e with
  | .ni c => telNi (telNi s c k 1) c (4 + k) len
  | _ => s

/-- The packet on a class's VC sends its next flit. DESIGN CHOICE (log entry 26): a packet that has its VC is sent even when its
class becomes PAUSED before its header unit enters L. -/
def sendCur (s : State) (e : EndRef) (k : Nat) (z : TxCur) : State :=
  let u := endUnit e
  let put1 := fun (s : State) (y : Option TxCur) => setTxEnd s e { txEnd s e with cur := lset (txEnd s e).cur k y }
  let done := fun (s : State) => match z.pkt.ctx with
    | some id => settleCtx s u id
    | none => s
  if z.begun then
    match z.left with
    | [] => put1 s none
    | d :: r =>
      let s1 := emitSeq (useCredit s e (2 * k)) e
        { payload := d, ty := if r.isEmpty then 6 else 4, w := false, vc := 2 * k, welt := none, tailEp := none, hdr := z.pkt.hdr }
      if r.isEmpty then done (put1 s1 none) else put1 s1 (some { z with left := r })
  else
    match enter s u (endCell e) z.pkt true with
    | none => s
    | some (h, s0) =>
      let s1 := countSent (countInj (emitSeq (useCredit s0 e (2 * k)) e
        { payload := h, ty := if z.left.isEmpty then 7 else 5, w := false, vc := 2 * k, welt := none, tailEp := none, hdr := h })
        e k (hLen h)) u z.pkt
      let s2 := match e with
        | .ni c => if hMcast h && mcTarget h c then deliverOwn s1 c h z.pkt.data none else s1
        | _ => s1
      if z.left.isEmpty then done (put1 s2 none)
      else put1 s2 (some { z with begun := true, pkt := { z.pkt with hdr := h } })

/-- Whether an end is a combine unit's, which chooses among its groups at the start of a packet (R200). -/
def isCmb (e : EndRef) : Bool :=
  match e with
  | .cmb _ => true
  | _ => false

/-- R145, R147: the class whose flit a unit's end sends next, and its arbitration state after it: responses first. -/
def unitGrant (s : State) (e : EndRef) : Option (Nat × Drr) :=
  let ns := unitNoms s e
  let t := txEnd s e
  if ns.any (fun n => n.cls == 0) then some (0, t.drr)
  else if isCmb e then (if ns.isEmpty then none else some (2, t.drr))
  else (drrPick (clsQuant s (endCell e)) (grpQuant s (endCell e)) ns t.drr).map (fun g => (g.1.cls, g.2))

/-- Send the next packet flit of a unit's end, if it has one. -/
def unitSend (s : State) (e : EndRef) : Option State :=
  match unitGrant s e with
  | none => none
  | some (k, d) =>
    match lget (txEnd s e).cur k none with
    | none => none
    | some z => some (sendCur (setTxEnd s e { txEnd s e with drr := d }) e k z)

end Sys2Proof.Machine
end

