-- ==== Sys2Proof/Machine/Welt.lean ====
section
/-! DEFINITION. Welt circuits: slot tables and input maps (R119-R122, R295), the stores of waiting welt flits (R123,
R129), the flit a slot's owner sends (R121, R127), and the swap with its checks (R120, R131, R132). -/

namespace Sys2Proof.Machine

/-! ## Tables -/

/-- R139: an entry of the output slot table in use. -/
def woutKey (c : Cell) (p slot : Nat) : Nat := cellReg c 2 (0x2000 + 0x100 * p + 4 * slot)
/-- R139: an entry of the input map in use. -/
def winKey (c : Cell) (p slot : Nat) : Nat := cellReg c 2 (0x4000 + 0x100 * p + 4 * slot)
/-- R297: an entry of a gateway's welt table in use. -/
def wtabKey (g : GwId) (t slot : Nat) : Nat := gwReg g 0 (0x6000 + 0x100 * t + 4 * slot)

/-- R120, R139: the welt that an entry of an output table names, as 16·port + index. -/
def slotName (w : Word) : Nat := 16 * bits w 1 3 + bits w 4 4

/-- R120: the welt that owns the slot of an output table's entry; none when it is empty or disabled. -/
def outName (w : Word) : Option Nat := if bit w 0 && !bit w 8 then some (slotName w) else none
/-- R122: the index that an input map's entry holds. -/
def inName (w : Word) : Option Nat := if bit w 0 then some (bits w 1 4) else none

/-- The welt that owns the present slot at an end's output: at a router as 16·input port + index, at an NI the L-input
index, at an optical gateway's band side the input index from the link. -/
def slotOwner (s : State) (e : EndRef) : Option Nat :=
  match e with
  | .router c p => outName (rd s (woutKey c p.val (slotOf s c.field)))
  | .ni c => inName (rd s (winKey c 4 (slotOf s c.field)))
  | .gw (.opt sd i) j =>
    match outName (rd s (wtabKey (.opt sd i) (4 + j.val % 2) (slotOf s (48 + sd.val)))) with
    | some n => if n / 16 = 2 then some (n % 16) else none
    | none => none
  | _ => none

/-! ## Stores (R123) -/

/-- R123: flits of a store beyond the two entries of each index. -/
def spillOf (w : FMap (List WFlit)) : Nat := sumN (w.map (fun x => x.2.length - 2))

/-- R123, R129: add a flit to a store whose shared part holds `cap`; none when it overflows. -/
def storeAdd (w : FMap (List WFlit)) (cap k : Nat) (f : WFlit) : Option (FMap (List WFlit)) :=
  let l := w.get k []
  if l.length < 2 ∨ spillOf w < cap then some (w.set k (l ++ [f])) else none

/-- Take the oldest flit of an index. -/
def storeTake (w : FMap (List WFlit)) (k : Nat) : Option (WFlit × FMap (List WFlit)) :=
  match w.get k [] with
  | f :: r => some (f, if r.isEmpty then w.erase k else w.set k r)
  | [] => none

/-! ## Arrival (R122, R126, R129) -/

/-- R129: the framing errors of a receive index. -/
def frameErr (s : State) (c : Cell) (i : Nat) (x : WeltRx) : State :=
  cntUp (updUnit s (.ni c) (fun p => { p with weltRx := p.weltRx.set i { x with frameErr := satAdd 65535 x.frameErr 1 } }))
    (cellReg c 3 0xA000) 8 8 1

/-- R124, R129: a welt flit reaches the NI of its destination, on receive index i. DESIGN CHOICE (log entry 28): a packet's bytes
are placed when all of it has arrived, so a packet that ends short has placed none. -/
def weltFrame (s : State) (c : Cell) (i : Nat) (f : WFlit) : State :=
  let u := UnitRef.ni c
  let x := (punit s u).weltRx.get i WeltRx.init
  let store := fun (s : State) (a : Option Asm) =>
    updUnit s u (fun p => { p with weltRx := p.weltRx.set i { p.weltRx.get i WeltRx.init with asm := a } })
  let push := fun (s : State) (h : Payload) (l : List Payload) =>
    updUnit s u (fun p => { p with inbox := p.inbox ++ [{ hdr := h, data := l, welt := true, port := i }] })
  if f.head then
    let s1 := if x.asm.isSome then frameErr s c i x else s
    let s2 := measureAge (telNi (telNi s1 c 8 1) c 9 (hLen f.payload)) c 3 f.payload
    if hNdu f.payload = 0 then push (store s2 none) f.payload []
    else store s2 (some { hdr := f.payload, data := [], left := hNdu f.payload })
  else
    match x.asm with
    | none => frameErr s c i x
    | some a =>
      if a.left = 1 then push (store s none) a.hdr (f.payload :: a.data).reverse
      else store s (some { a with data := f.payload :: a.data, left := a.left - 1 })

/-- R129, R131: whether every entry that names a welt in the given active output tables was disabled at the swap, at least one:
no slot serves it, and its flits are strays. -/
def deadWelt (s : State) (tabs : List Nat) (n : Nat) : Bool :=
  let ents := tabs.flatMap (fun k => ((List.range 64).map (fun i => rd s (k + 4 * i))).filter (fun w => bit w 0 && slotName w == n))
  !ents.isEmpty && ents.all (fun w => bit w 8)

/-- R122, R123, R129: a welt flit that an end accepted, with the sending side's slot. A unit that no welt can end at
discards it (log entry 13). DESIGN CHOICE (log entry 29): a flit whose slot an NI's receive map does not map is discarded and
nothing counts it, since the spec names no counter for it. At an optical gateway flits collect in the store for any link that has
not been lost (R138), also one that R311 says cannot forward (DEDUCED, log entry 154). -/
def weltArrive (s : State) (e : EndRef) (slot : Nat) (f : WFlit) : State :=
  match e with
  | .router c p =>
    let stray := setBits (cntUp s (cellReg c 2 8) 16 16 1) (cellReg c 2 4) 4
    match inName (rd s (winKey c p.val slot)) with
    | none => stray
    | some i =>
      if deadWelt s ((List.range 7).map (fun q => woutKey c q 0)) (16 * p.val + i) then stray
      else
      let x := rport s c p.val
      match storeAdd x.welt 32 i f with
      | none => setBits (cntUp s (cellReg c 2 8) 0 16 1) (cellReg c 2 4) 2
      | some w => maxUp (setRport s c p.val { x with welt := w }) (cellReg c 2 (0x10 + 4 * p.val)) 8 6 (spillOf w)
  | .ni c =>
    match inName (rd s (cellReg c 3 (0xA500 + 4 * slot))) with
    | none => s
    | some i => weltFrame s c i f
  | .gw (.opt sd i) j =>
    let g := GwId.opt sd i
    let o : OptId := ⟨sd, i⟩
    let stray := setBits (cntUp s (gwReg g 0 0x14) 16 16 1) (gwReg g 0 0x10) 4
    match inName (rd s (wtabKey g (j.val % 2) slot)) with
    | none => stray
    | some k =>
      if deadWelt s [wtabKey g 2 0] (16 * (j.val % 2) + k) then stray
      else
      match if (opt s o).lost then none else storeAdd (opt s o).wOut 256 (16 * (j.val % 2) + k) f with
      | none =>
        let s1 := cntUp s (gwReg g 0 0x14) 0 16 1
        if (opt s o).lost then s1 else setBits s1 (gwReg g 0 0x10) 2
      | some w => updOpt s o (fun x => { x with wOut := w })
  | _ => s

/-! ## Sending (R121, R127) -/

/-- R127: the first slot that the welt of an L-input index owns on its first output. -/
def firstSlot (s : State) (c : Cell) (l : Nat) : Option Nat :=
  (List.range 64).find? (fun t => (List.range 7).any (fun p => outName (rd s (woutKey c p t)) == some (64 + l)))

/-- R127: whether the flit that a source would send now, in slot n of its L input, is the one that would go in the welt's
first slot t on its first output in a frame whose counter reads 0: of the welt's L slots n is the last before t. -/
def guardSlot (s : State) (c : Cell) (l : Nat) : Bool :=
  let n := slotOf s c.field
  match firstSlot s c l with
  | none => false
  | some t =>
    let back := fun (k : Nat) => (t + 63 - k) % 64
    (if n < t then frameOf s c.field else (frameOf s c.field + 1) % 16) == 0 &&
      (List.range 64).all (fun k => inName (rd s (winKey c 4 k)) != some l || decide (back n ≤ back k))

/-- R14, R124: a welt flit as a router forwards it: a header unit's reserved bits are zero. -/
def WFlit.forwarded (f : WFlit) : WFlit := if f.head then { f with payload := clearReserved f.payload } else f

/-- R121, R127: the flit that the owner of the present slot sends at an end, its welt, and the state it leaves. -/
def weltNext (s : State) (e : EndRef) : Option (Nat × WFlit × State) :=
  match slotOwner s e with
  | none => none
  | some w =>
    match e with
    | .router c _ =>
      let x := rport s c (w / 16)
      (storeTake x.welt (w % 16)).map (fun y => (w, y.1.forwarded, setRport s c (w / 16) { x with welt := y.2 }))
    | .gw (.opt sd i) _ =>
      let o : OptId := ⟨sd, i⟩
      (storeTake (opt s o).wIn w).map (fun y => (w, y.1, updOpt s o (fun x => { x with wIn := y.2 })))
    | .ni c =>
      let u := UnitRef.ni c
      if guardSlot s c w then none
      else
        match (punit s u).weltCur.find w with
        | none => none
        | some z =>
          let gone := fun (s : State) => updUnit s u (fun p => { p with weltCur := p.weltCur.erase w })
          let fin := fun (s : State) => match z.pkt.ctx with
            | some id => settleCtx s u id
            | none => s
          if z.begun then
            match z.left with
            | [] => none
            | d :: r =>
              some (w, ⟨d, false, r.isEmpty⟩,
                if r.isEmpty then fin (gone s)
                else updUnit s u (fun p => { p with weltCur := p.weltCur.set w { z with left := r } }))
          else
            match enter s u c z.pkt false with
            | none => none
            | some (h, s1) =>
              let s2 := countInj s1 e 3 (hLen h)
              some (w, ⟨h, true, z.left.isEmpty⟩,
                if z.left.isEmpty then fin (gone s2)
                else updUnit s2 u (fun p => { p with weltCur := p.weltCur.set w { z with begun := true } }))
    | _ => none

/-! ## The swap (R131, R132) -/

/-- R120: whether the slots of a welt are k ∈ (1, 2, 4, 8, 16) at equal distances. -/
def evenSlots (l : List Nat) : Bool :=
  let k := l.length
  [1, 2, 4, 8, 16].contains k && (match l with
    | a :: _ => (List.range k).all (fun j => l.contains ((a + j * (64 / k)) % 64))
    | [] => false)

/-- R120: the entries of a 64-entry output table that break its rules, given the table and its own port:
all entries of a welt that does. DESIGN CHOICE (log entry 145): where more than 16 welts or 56 slots are owned every owned entry
breaks R120, and so does one whose IN_PORT is 7, which R139 does not let name a port. -/
def badSlots (tab : List Word) (own : Nat) : List Nat :=
  let owned := (List.range 64).filter (fun i => bit (lget tab i 0) 0)
  let name := fun i => slotName (lget tab i 0)
  let names := (owned.map name).eraseDups
  if 56 < owned.length ∨ 16 < names.length then owned
  else owned.filter (fun i =>
    !evenSlots (owned.filter (fun j => name j == name i)) || bits (lget tab i 0) 1 3 == own ||
      decide (7 ≤ bits (lget tab i 0) 1 3))

/-- Exchange n words of two register ranges 4 bytes apart each; what becomes active keeps the given mask, DIS clear. -/
def swapWords (s : State) (sh ac : Nat) : Nat → State
  | 0 => s
  | n + 1 =>
    let a := rd s (sh + 4 * n)
    let b := rd s (ac + 4 * n)
    let s1 := if a = b then s else wr (wr s (ac + 4 * n) a) (sh + 4 * n) (b &&& 0xFF)
    swapWords s1 sh ac n

/-- R131: disable the entries of a new active table that break R120; the flag says whether there were any. -/
def disableBad (s : State) (ac own : Nat) : State × Bool :=
  let bad := badSlots ((List.range 64).map (fun i => rd s (ac + 4 * i))) own
  (bad.foldl (fun t i => wr t (ac + 4 * i) (rd t (ac + 4 * i) ||| 0x100)) s, !bad.isEmpty)

/-- The 64 words of a table. -/
def tabWords (s : State) (k : Nat) : List Word := (List.range 64).map (fun i => rd s (k + 4 * i))

/-- R120, R132: the welts that will own slots of an output under a table that is about to become active, whose entries that
break R120 will be disabled. -/
def ownersOf (tab : List Word) (own : Nat) : List Nat :=
  let bad := badSlots tab own
  (List.range 64).filterMap (fun i => if bad.contains i then none else outName (lget tab i 0))

/-- R132: whether an output must wait: its replay buffer holds a welt flit whose welt, numbered from `base` in the table, owns
no slot in the new bank. -/
def mustDefer (s : State) (e : EndRef) (sh own base : Nat) : Bool :=
  (link s e).replay.any (fun r => match r.welt with
    | none => false
    | some w => !(ownersOf (tabWords s sh) own).contains (base + w))

/-- R119: the tick at which the present frame of a domain began. -/
def frameStart (s : State) (d : Nat) : Nat := (dom s d).ticks - slotOf s d

/-- R131, R328: whether the frame start last passed in a domain came after the given tick and at or after a Meridian time. -/
def frameReached (s : State) (d t after : Nat) : Bool :=
  (dom s d).mer.valid && decide (t ≤ ((dom s d).mer.vis - slotOf s d * 65536000 / perUs d) / 65536) && decide (after < frameStart s d)

/-- R131, R132: an output's part of the swap, done or deferred by one frame. -/
def swapOut (s : State) (c : Cell) (p : Fin 7) : State :=
  let sh := cellReg c 2 (0x1000 + 0x100 * p.val)
  let ac := cellReg c 2 (0x2000 + 0x100 * p.val)
  if mustDefer s (.router c p) sh p.val 0 then
    let r := router s c
    cntUp (setRouter s c { r with wait := r.wait.set p.val (frameStart s c.field) }) (cellReg c 2 0) 8 8 1
  else
    let s1 := disableBad (swapWords s sh ac 64) ac p.val
    let r := router s1.1 c
    let s2 := setRouter s1.1 c { r with wait := r.wait.erase p.val }
    if s1.2 then setBits s2 (cellReg c 2 4) 1 else s2

/-- R131: the swap of one cell: output tables, input maps, the NI's receive map. DESIGN CHOICE (log entry 160): an output that still
defers its part of an earlier swap exchanges its banks once for both. -/
def swapCell (s : State) (c : Cell) : State :=
  let s1 := (List.finRange 7).foldl (fun t p => swapOut t c p) s
  let s2 := (List.range 7).foldl (fun t p => swapWords t (cellReg c 2 (0x3000 + 0x100 * p)) (cellReg c 2 (0x4000 + 0x100 * p)) 64) s1
  swapWords s2 (cellReg c 3 0xA400) (cellReg c 3 0xA500) 64

/-- The cells of a field that hold anything but reset contents: those with a register written, or a router state. The
swap of any other cell exchanges empty tables. -/
def touchedCells (s : State) (f : Nat) : List Cell :=
  let a := (s.regs.filter (fun x => keyDom x.1 == f && keyCell x.1 < 1200)).map (fun x => keyCell x.1)
  let b := (s.routers.filter (fun x => unitKeyDom x.1 == f)).map (fun x => (cellOfKey x.1).num)
  ((a ++ b).eraseDups).map (cellOf f)

/-- R47, R120, R295: the number by which the output tables of an optical gateway name their own port as an input. -/
def tabOwn (t : Nat) : Nat := if t = 2 then 2 else t - 4

/-- R295: the swap of table t of an optical gateway, with the check of R120 where it is an output table. -/
def swapTab (s : State) (o : OptId) (t : Nat) : State :=
  let g := o.gw
  let s1 := swapWords s (gwReg g 0 (0x5000 + 0x100 * t)) (wtabKey g t 0) 64
  if t = 2 ∨ t = 4 ∨ t = 5 then
    let r := disableBad s1 (wtabKey g t 0) (tabOwn t)
    if r.2 then setBits r.1 (gwReg g 0 0x10) 1 else r.1
  else s1

/-- R132, R295: whether output table t of an optical gateway must wait. -/
def tabWaits (s : State) (o : OptId) (t : Nat) : Bool :=
  let sh := gwReg o.gw 0 (0x5000 + 0x100 * t)
  match t with
  | 2 => mustDefer s (.optical o) sh (tabOwn t) 0
  | 4 => mustDefer s (.gw o.gw 0) sh (tabOwn t) 32
  | 5 => mustDefer s (.gw o.gw 1) sh (tabOwn t) 32
  | _ => false

/-- R132, R295: table t takes its part of the last swap at a start of its frame, or defers it by one frame; `at'` is the tick of
that start, for the tables keyed by the band's slots. -/
def tabStep (s : State) (o : OptId) (at' t : Nat) : State :=
  if tabWaits s o t then updOpt s o (fun x => { x with behind := x.behind.set t at' })
  else updOpt (swapTab s o t) o (fun x => { x with behind := x.behind.erase t })

/-- The registers of a swap: CELL_WARM of a field (R140) or GW_WARM of an optical gateway (R297). -/
def warmBase (w : WeltDom) : Nat :=
  match w with
  | .field f => fieldReg f.val 2 0
  | .gw o => gwReg o.gw 0 0x20

/-- The domain whose Meridian time a swap waits for. -/
def warmDom (w : WeltDom) : Nat :=
  match w with
  | .field f => f.val
  | .gw o => 48 + o.side.val

/-- R140: the armed time in nanoseconds. -/
def warmTime (s : State) (w : WeltDom) : Nat :=
  let b := warmBase w
  secNs ((rd s (b + 4)).toNat + 4294967296 * bits (rd s (b + 8)) 0 16) (min 999999999 (rd s b).toNat)

/-- R131: whether the armed swap is to be done: the frame start last passed came after the ARM and at or after its time. -/
def swapDue (s : State) (w : WeltDom) : Bool :=
  let k := warmBase w + 12
  bit (rd s k) 8 && (s.warm.find k).any (fun x => frameReached s (warmDom w) x.1 x.2)

/-- R140: PENDING clears and SWAPS counts. -/
def swapDone (s : State) (w : WeltDom) : State :=
  let k := warmBase w + 12
  wr s k (put (put (rd s k) 8 1 0) 16 8 (rdF s k 16 8 + 1))

/-- R132: at a further frame start the outputs of a cell that deferred their swap try again. -/
def swapAgain (s : State) (c : Cell) : State :=
  (router s c).wait.foldl (fun t x => if x.2 < frameStart t c.field then swapOut t c (Fin.ofNat 7 x.1) else t) s

/-- R131, R132, R295: WELT_SWAP at a frame start of a field or of an optical gateway's band: the armed swap if it is due, else
the outputs that deferred theirs. A gateway's tables keyed by optical slots follow at a start of their own frame
(`tabAtStart`). -/
def weltSwap (s : State) (w : WeltDom) : State :=
  if clocked s (warmDom w) then
    match w with
    | .field f =>
      if swapDue s w then swapDone ((touchedCells s f.val).foldl swapCell s) w
      else (touchedCells s f.val).foldl swapAgain s
    | .gw o =>
      let at' := frameStart s (warmDom w)
      if swapDue s w then
        let s1 := updOpt s o (fun x => { x with
          ahead := [], behind := ([2, 3].filter (fun t => !x.ahead.contains t)).map (fun t => (t, 0)) })
        swapDone ([0, 1, 4, 5].foldl (fun t k => tabStep t o at' k) s1) w
      else (opt s o).behind.foldl (fun t x => if 4 ≤ x.1 ∧ x.2 < at' then tabStep t o at' x.1 else t) s
  else s

/-- R295: at optical slot 0, table 2 or 3 takes a swap that the band has done, or one whose time has come. -/
def tabAtStart (s : State) (o : OptId) (slot t : Nat) : State :=
  let k := warmBase (.gw o) + 12
  let d := 48 + o.side.val
  let x := opt s o
  if slot ≠ 0 then s
  else if (x.behind.find t).isSome then tabStep s o 0 t
  else if bit (rd s k) 8 = true ∧ x.ahead.contains t = false ∧ tabWaits s o t = false ∧
      (s.warm.find k).any (fun y => timeReached s d y.1) = true then
    updOpt (swapTab s o t) o (fun y => { y with ahead := t :: y.ahead })
  else s

end Sys2Proof.Machine
end

