-- ==== Sys2Proof/Machine/Reply.lean ====
section
/-! DEFINITION. Responses: what a target or a gateway sends back for a request (R82-R84, R315), and which packets are
malformed (R80, R82, R83, R88, R105). -/

namespace Sys2Proof.Machine

/-- Whether a request comes from the host port of its source cell. DESIGN CHOICE (log entry 14): the SRC fields and TAG do not
tell it from one of that cell's NI (R274, R283), and an answer has to reach the one that asked: on this wafer the host port asked
if its outstanding entry TAG remembers this request, of another wafer it is a free value. -/
def hostMark (s : State) (h : Payload) : Bool :=
  match gAt (mkCell (hSx h) (hSy h)) with
  | some (.host a b, _) =>
    if hMcast h then false
    else if isLocal s (GwId.host a b).dom (hSw h) then
      ((punit s (.gw (.host a b))).out.find (hTag h)).any (fun y => y.asked == askedHdr h)
    else Config.hostAsked (askedHdr h)
  | _ => false

/-- R82, R274: the fabric address that a response to a request goes to: the requester's cell, or its host port's edge
target, with an offset. -/
def replyAddr (s : State) (h : Payload) (off : Nat) : Nat :=
  let w := hSw h * 2 ^ 56
  if hostMark s h then
    match gAt (mkCell (hSx h) (hSy h)) with
    | some a => w + (0xF8 + a.1.side) * 2 ^ 48 + a.1.idx * 2 ^ 40 + off
    | none => w + hSx h * 2 ^ 48 + hSy h * 2 ^ 40 + off
  else w + hSx h * 2 ^ 48 + hSy h * 2 ^ 40 + off

/-- A response packet: its header fields beyond CMD, DEST and TAG, and its data. -/
def response (s : State) (h : Payload) (cmd off : Nat) (l : List (Nat × Nat × Nat)) (data : List Byte) (port : Nat) : TxPkt :=
  { hdr := hSet 0 ([(0, 4, cmd), (8, 6, nduOf data.length), (19, 6, lastbOf data.length), (152, 76, replyAddr s h off),
      (272, 16, hTag h)] ++ l),
    data := dataUnits data, cls := 0, grp := 0, req := none, ctx := none, q := none, port := port, raw := false, via := none }

/-- R82, R84: an ACK. -/
def ackPkt (s : State) (h : Payload) (status crc port : Nat) : TxPkt := response s h 3 0 [(384, 32, crc), (416, 4, status)] [] port

/-- R82, R84: a READ_DATA to the place that the request names. -/
def readDataPkt (s : State) (h : Payload) (status crc : Nat) (data : List Byte) (port : Nat) : TxPkt :=
  response s h 2 (hInl h 0 40) [(36, 4, status), (384, 32, crc)] data port

/-- R82: a STREAM_RSP. -/
def streamRspPkt (s : State) (h : Payload) (status stag sinst port : Nat) : TxPkt :=
  response s h 6 0 [(384, 9, stag), (393, 4, sinst), (397, 4, status)] [] port

/-- R83: the response with a status that a request's command carries, if any. DESIGN CHOICE (log entry 25): a STREAM_RSP
that grants nothing echoes the request's STAG and SINST. -/
def refusal (s : State) (h : Payload) (status port : Nat) : Option TxPkt :=
  if hMcast h then none
  else
    match hCmd h with
    | 0 => some (ackPkt s h status 0 port)
    | 4 => some (ackPkt s h status 0 port)
    | 9 => some (ackPkt s h status 0 port)
    | 1 => some (readDataPkt s h status 0 [] port)
    | 5 => some (streamRspPkt s h status (hStag h) (hSinst h) port)
    | 7 => some (streamRspPkt s h status (hStag h) (hSinst h) port)
    | _ => none

/-- Hold a response until it is sent (R110). -/
def pushResp (s : State) (u : UnitRef) (z : TxPkt) : State := updUnit s u (fun p => { p with resp := p.resp ++ [z] })

/-- R208: the malformed forms of a WRITE with CSPEC STRIDED or ZERO. DESIGN CHOICE (log entry 164): NROWS of 33 to 63, outside the
field's stated range but not in the list, is none of them. -/
def sparseBad (h : Payload) : Bool :=
  let cs := hCspec h
  let rowb := hInl h 0 20
  let rows := hInl h 40 6
  cs != 0 && (decide (3 ≤ cs) || hFence h || hMcast h || rowb == 0 || rows == 0 ||
    (cs == 1 && 64 * (hNdu h - 1) + (if hNdu h = 0 then 0 else if hLastb h = 0 then 64 else hLastb h) != rows * rowb) ||
    (cs == 2 && hNdu h != 0))

/-- R83, R80, R82, R255, R134: whether a packet is malformed at its destination. A welt packet is judged as BLK (R124). -/
def malformed (h : Payload) (welt : Bool) : Bool :=
  let cmd := hCmd h
  let cls := if welt then 3 else hCls h
  let n := hNdu h
  let il := hInlen h
  let m := hMcast h
  let clsOk := match cmd with
    | 0 => (cls == 1 && n == 0) || cls == 3
    | 1 => cls == 1
    | 2 => cls == 0
    | 3 => cls == 0
    | 4 => cls == 1
    | 5 => cls == 1
    | 6 => cls == 0
    | 7 => cls == 1
    | 8 => cls == 2
    | 9 => cls == 1
    | 10 => cls == 1
    | _ => false
  let ilOk := match cmd with
    | 0 => if m then il == 0 else if hCspec h = 0 then il ≤ 16 else il == 8
    | 1 => il == 8
    | 4 => il ≤ 8
    | 8 => il == 16
    | 9 => il == 8
    | 10 => il == 16
    | _ => il == 0
  !clsOk || !ilOk || decide (32 < n) || (hLastb h != 0 && n == 0) ||
    (hFence h && (!(cmd == 0 || cmd == 4) || m || !hStv h || n != 0 || decide (8 < il))) ||
    (m && cls != 2 && cls != 3) ||
    (cmd == 1 && (hInl h 40 12 == 0 || decide (2048 < hInl h 40 12))) ||
    (cmd == 0 && sparseBad h) || (cmd == 4 && n != 0) || (cmd == 9 && n != 0) || (welt && (cmd != 0 || hFence h || m))

/-- R83: whether a command is reserved. -/
def reservedCmd (h : Payload) : Bool := decide (11 ≤ hCmd h)

end Sys2Proof.Machine
end

