-- ==== Sys2Proof/Machine/Descriptors.lean ====
section
/-! DEFINITION. Descriptors: their fetch (R235, R239, R240), the checks of R246, and what each opcode but COLL and
COPY_SPARSE does (R247-R257, R133, R135, R98-R102). -/

namespace Sys2Proof.Machine

/-! ## Layouts (R244-R257) -/

/-- A field of a descriptor. -/
def df (d : BitVec 512) (lo len : Nat) : Nat := bits d lo len

/-- The bits [hi:lo] as a mask. -/
def span (hi lo : Nat) : Nat := 2 ^ (hi + 1) - 2 ^ lo

/-- R244-R257: the bits that an opcode's layout names. -/
def layoutMask (op : Nat) : Nat :=
  span 9 0 + span 63 32 + (match op with
    | 1 => span 139 64 + span 293 144
    | 2 => span 189 64 + span 215 192 + span 327 224
    | 3 => span 82 64 + span 277 84 + span 375 280
    | 4 => span 239 64
    | 5 => span 75 64
    | 6 => span 207 64
    | 7 => span 143 64
    | 8 => span 208 64
    | 9 => span 140 64
    | _ => 0)

/-- R245: whether an opcode and its options are allowed on a unit's rings. -/
def ringAllows (u : UnitRef) (d : BitVec 512) : Bool :=
  match u with
  | .ni _ => true
  | .gw _ =>
    match dOp d with
    | 0 => true
    | 1 => !bit d 219
    | 7 => true
    | 8 => !bit d 208
    | _ => false

/-- R35: the address check of a target and a length. -/
def addrOk (s : State) (dm dest len : Nat) : Bool :=
  let off := dest % 2 ^ 40
  let y := dest / 2 ^ 40 % 256
  let x := dest / 2 ^ 48 % 256
  let here := isLocal s dm (dest / 2 ^ 56)
  if x ≤ 239 then y ≤ 239 && (!here || off + len ≤ Config.sramBytes)
  else
    match gwOf (x / 4 % 4) (x % 4) y with
    | none => false
    | some (.mem a b) => !here || off + len ≤ memSizeOf s dm (.mem a b) * 2 ^ 30
    | some (.opt _ _) => !here || off + len ≤ 64
    | some (.host _ _) => !here || off + len ≤ 2 ^ 40

/-- Whether a fabric address names a cell (R34). -/
def namesCell (dest : Nat) : Bool := decide (dest / 2 ^ 48 % 256 ≤ 239)

/-- R247: whether a local range passes its check; a host port's windows must hold it (R280). -/
def localOk (s : State) (u : UnitRef) (off len : Nat) (wr : Bool) : Bool :=
  match u with
  | .ni _ => decide (off + len ≤ Config.sramBytes)
  | .gw g => (hostXlat s g off len wr).isSome

/-- R203: tile edge. -/
def tileEdge (tile : Nat) : Nat := 8 * 2 ^ tile

/-- R203: whether a format, tile code and size describe a sparse tensor. -/
def tensorOk (fmt tile rows cols : Nat) : Bool :=
  fmt ≤ 5 && tile ≤ 2 && rows != 0 && cols != 0 && rows % tileEdge tile == 0 && cols % tileEdge tile == 0

/-- R247, R105: the range check of COPY. -/
def copyRange (s : State) (u : UnitRef) (d : BitVec 512) : Bool :=
  let get := bit d 216
  let cls := df d 217 2
  let len := df d 144 32
  let dest := df d 64 76
  len != 0 && (cls == 1 || cls == 3) && (if get then cls == 1 else cls == 3 || len ≤ 16) &&
    (if bit d 219 then
      !get && cls == 3 && isLocal s u.dom (dest / 2 ^ 56) && dest / 2 ^ 40 % 65536 == 0 && df d 224 48 != 0 &&
        df d 272 6 ≤ df d 278 6 && df d 278 6 ≤ 39 && df d 284 5 ≤ df d 289 5 && df d 289 5 ≤ 29
    else df d 220 74 == 0)

/-- R253: inline bytes of FENCE and SIGNAL. -/
def immOk (d : BitVec 512) : Bool := df d 140 4 ≤ 8 && df d 144 64 / 2 ^ (8 * df d 140 4) == 0

/-- R206, R246: the range check of COPY_SPARSE. DMAP belongs to PACKED alone; NIDX, SLD and DLD are ignored where R206
says so. -/
def sparseRange (d : BitVec 512) : Bool :=
  let layout := df d 188 2
  let cols := df d 240 16
  tensorOk (df d 140 4) (df d 186 2) (df d 224 16) cols && layout != 3 && (bit d 184 || cols ≤ df d 256 16) &&
    (layout == 2 || (cols ≤ df d 272 16 && df d 288 40 == 0))

/-- R251: the unused fields of COLL. -/
def collRange (d : BitVec 512) : Bool :=
  let op := df d 72 4
  8 ≤ op || ((op == 5 || op == 6 || df d 148 40 == 0) && (op == 6 || df d 188 44 == 0) && (bit d 82 || df d 232 144 == 0))

/-- R246: whether every field is in its range. -/
def rangeOk (s : State) (u : UnitRef) (d : BitVec 512) : Bool :=
  match dOp d with
  | 1 => copyRange s u d
  | 2 => sparseRange d
  | 3 => collRange d
  | 4 => df d 64 40 == 0 && df d 208 32 ≤ 999999999
  | 6 => immOk d
  | 7 => df d 112 32 ≤ 999999999
  | 8 => immOk d
  | 9 => df d 64 40 == 0
  | _ => true

/-- R246: whether addresses pass. CIRCUIT_OPEN's destination is checked when it opens (R133), those of COPY_SPARSE and
COLL under R207 and R181. -/
def addressesOk (s : State) (u : UnitRef) (d : BitVec 512) : Bool :=
  let dest := df d 64 76
  match dOp d with
  | 1 => addrOk s u.dom dest (df d 144 32) && localOk s u (df d 176 40) (df d 144 32) (bit d 216)
  | 6 => addrOk s u.dom dest (df d 140 4)
  | 8 => namesCell dest && addrOk s u.dom dest (df d 140 4)
  | 9 => namesCell dest && addrOk s u.dom dest 0
  | _ => true

/-- R246: the first check that a descriptor fails, as status and detail. -/
def descCheck (s : State) (u : UnitRef) (d : BitVec 512) : Option (Nat × Nat) :=
  if 10 ≤ dOp d then some (1, 1)
  else if d &&& ~~~(BitVec.ofNat 512 (layoutMask (dOp d))) ≠ 0 then some (1, 2)
  else if ringAllows u d = false then some (2, 0)
  else if rangeOk s u d = false then some (1, 3)
  else if addressesOk s u d = false then some (3, 0)
  else none

/-- R280: a host port's failed window check is recorded. -/
def noteWindow (s : State) (u : UnitRef) (d : BitVec 512) : State :=
  match u with
  | .gw g => if dOp d = 1 ∧ localOk s u (df d 176 40) (df d 144 32) (bit d 216) = false then setBits s (gwReg g 1 4) 8 else s
  | .ni _ => s

/-- Complete a descriptor that fails R246. -/
def failCheck (s : State) (u : UnitRef) (id : Nat) (x : Ctx) (e : Nat × Nat) : State :=
  failCtx (if e = (3, 0) then noteWindow s u x.desc else s) u id e.1 e.2

/-- Start the oldest descriptor of a ring with an opcode that may start: check it, and run it if it passes. -/
def startOp (s : State) (u : UnitRef) (r op : Nat) (run : State → Nat → Ctx → State) : State :=
  if clocked s u.dom then
    match startable s u r op with
    | none => s
    | some (id, x) =>
      match descCheck s u x.desc with
      | some e => failCheck s u id x e
      | none => run s id x
  else s

/-! ## Fetch (R235, R239, R240) -/

/-- R240: whether a ring may fetch its next descriptor. -/
def fetchReady (s : State) (u : UnitRef) (r : Nat) : Bool :=
  let x := sqOf s u r
  let p := punit s u
  x.st == .running && 0 < cntDiff x.pi x.ci && p.ctxs.all (fun y => y.2.ring != r || (y.2.issued && !waitHolds s u y.1 y.2)) &&
    p.ctxs.length < ctxCap u && 0 < cqFree s u (rdF s (sqReg u r 2) 8 6)

/-- R235: the 64 bytes of the descriptor at a ring's CI. -/
def descAt (s : State) (u : UnitRef) (r : Nat) : BitVec 512 :=
  let n := (sqOf s u r).ci.toNat % 2 ^ sqLog s u r
  BitVec.ofNat 512 (natOf (memRead s (unitSpace u) (ringBase s u (sqReg u r 0) (sqReg u r 1) + 64 * n) 64))

/-- R239: a fresh context for a descriptor. NOP and CIRCUIT_CLOSE issue at fetch (R241), which their WAIT flag may still hold
(`waitHolds`). -/
def newCtx (r cq : Nat) (d : BitVec 512) : Ctx :=
  { ring := r, cq := cq, desc := d, st := .fetched, todo := [], out := 0, issued := dOp d == 0 || dOp d == 5, err := none,
    result := 0, late := false, unsync := false, aux := 0 }

/-- R245: whether no command starts a unit's descriptor with an opcode: a reserved one, or one that host rings have not. -/
def noStart (u : UnitRef) (op : Nat) : Bool :=
  decide (10 ≤ op) || (match u with
    | .gw _ => op != 0 && op != 1 && op != 7 && op != 8
    | .ni _ => false)

/-- R240, R246: complete the waiting descriptor whose WAIT flag lets it start and whose opcode no command starts. -/
def sweepReserved (s : State) (u : UnitRef) : State :=
  match (punit s u).ctxs.find? (fun x => noStart u (dOp x.2.desc) && mayStart s u x.1 x.2) with
  | some (id, x) =>
    match descCheck s u x.desc with
    | some e => failCheck s u id x e
    | none => s
  | none => s

/-- R235: take the descriptor at CI of a ring into a context. -/
def fetchOne (s : State) (u : UnitRef) (r : Nat) : State :=
  let d := descAt s u r
  let x := sqOf s u r
  let s1 := setSq s u r { x with ci := x.ci + 1 }
  let s2 := updUnit s1 u (fun p => { p with
    ctxs := p.ctxs.set p.nextId (newCtx r (rdF s (sqReg u r 2) 8 6) d), nextId := p.nextId + 1, fetchLast := r,
    ctxMax := max p.ctxMax (p.ctxs.length + 1) })
  match u with
  | .gw g => telGw (telTlp s2 g false 0 64) g 4 1
  | .ni _ => s2

/-- R262: a failed fetch. -/
def fetchFails (s : State) (u : UnitRef) (r : Nat) : State :=
  let s1 := updUnit (setSq s u r { sqOf s u r with st := .error }) u (fun p => { p with fetchLast := r })
  let s2 := setBits s1 (sqReg u r 5) 0x40
  match u with
  | .gw g => setBits (cntUp s2 (gwReg g 1 4) 16 8 1) (gwReg g 1 4) 4
  | .ni _ => s2

/-- R285, R361: whether a unit can fetch at all now: a domain that drains fetches no descriptor. -/
def fetchOpen (s : State) (u : UnitRef) : Bool :=
  (dom s u.dom).st == .run && (match u with
    | .gw g => hostReady s g
    | .ni _ => true)

/-- R235, R240: DESCRIPTOR_FETCH at the ring whose turn it is. -/
def descriptorFetch (s : State) (u : UnitRef) (ok : Bool) : State :=
  let s0 := sweepReserved s u
  if fetchOpen s0 u then
    match rrPick (fetchReady s0 u) ((punit s0 u).fetchLast + 1) (sqCount u) with
    | none => s0
    | some r => if ok then sweepReserved (fetchOne s0 u r) u else fetchFails s0 u r
  else s0

/-- R262: a completion write has failed. DESIGN CHOICE (log entry 166): its entry's bytes and its place in CPI stay. -/
def completionWriteFail (s : State) (u : UnitRef) (r : Nat) : State :=
  let x := cqOf s u r
  if r < cqCount u ∧ (x.st = .running ∨ x.st = .stopping) then
    setBits (setCq s u r { x with st := .error }) (cqReg u r 5) 0x40
  else s

/-! ## Opcodes -/

/-- A running descriptor and its packets. -/
def runWith (s : State) (u : UnitRef) (id : Nat) (l : List Plan) : State :=
  settleCtx (updCtx s u id (fun x => { x with st := .active, todo := l })) u id

/-- A plan of one packet without data units. -/
def inlinePlan (cmd cls dest inl inlen len : Nat) : Plan :=
  { cmd := cmd, cls := cls, dest := dest, src := .bytes [], inl := inl, inlen := inlen, cspec := 0, fence := false,
    mcast := false, mview := 0, mask := 0, onStream := false, len := len, crc := 0 }

/-- R248: the WRITEs of a range, 2,048 bytes each: from local memory at an offset, to a fabric address. The fuel is the
number of packets. -/
def putPlans (cls dest off len : Nat) : Nat → List Plan
  | 0 => []
  | n + 1 =>
    let k := min 2048 len
    { inlinePlan 0 cls dest 0 0 k with src := .mem off k, onStream := true } ::
      putPlans cls (dest / 2 ^ 40 * 2 ^ 40 + (dest + 2048) % 2 ^ 40) (off + 2048) (len - 2048) n

/-- R248: the READ_REQs of a GET. -/
def getPlans (dest off len : Nat) : Nat → List Plan
  | 0 => []
  | n + 1 =>
    let k := min 2048 len
    inlinePlan 1 1 dest (off + k * 2 ^ 40) 8 k ::
      getPlans (dest / 2 ^ 40 * 2 ^ 40 + (dest + 2048) % 2 ^ 40) (off + 2048) (len - 2048) n

/-- R105: the multicast fields of a COPY. -/
def mcastPlan (d : BitVec 512) (p : Plan) : Plan :=
  { p with mcast := true, onStream := false, mask := df d 224 48,
           mview := df d 220 4 + 16 * (df d 272 6 + 64 * df d 278 6 + 4096 * df d 284 5 + 131072 * df d 289 5) }

/-- R103: whether a queue's stream to a cell is BROKEN. -/
def streamBroken (s : State) (u : UnitRef) (q dest : Nat) : Bool :=
  match streamFor s u q dest with
  | some y => y.2.broken
  | none => false

/-- R248: a COPY. -/
def runCopy (s : State) (u : UnitRef) (id : Nat) (x : Ctx) : State :=
  let d := x.desc
  let dest := df d 64 76
  let len := df d 144 32
  let off := df d 176 40
  let cls := df d 217 2
  let n := (len + 2047) / 2048
  if bit d 216 then runWith s u id (getPlans dest off len n)
  else if bit d 219 then runWith s u id ((putPlans cls dest off len n).map (mcastPlan d))
  else if streamBroken s u x.ring dest then failCtx s u id 7 3
  else if len ≤ 16 then runWith s u id [{ inlinePlan 0 cls dest 0 len len with src := .mem off len, onStream := true }]
  else runWith s u id (putPlans cls dest off len n)

/-- R253: a FENCE. -/
def runFence (s : State) (u : UnitRef) (id : Nat) (x : Ctx) : State :=
  let dest := df x.desc 64 76
  match streamFor s u x.ring dest with
  | none => failCtx s u id 7 4
  | some y =>
    if y.2.broken then failCtx s u id 7 3
    else runWith s u id [{ inlinePlan 0 1 dest (df x.desc 144 64) (df x.desc 140 4) 0 with fence := true, onStream := true }]

/-- R254: a SIGNAL. -/
def runSignal (s : State) (u : UnitRef) (id : Nat) (x : Ctx) : State :=
  let dest := df x.desc 64 76
  let fence := bit x.desc 208
  if fence && (streamFor s u x.ring dest).isNone then failCtx s u id 7 4
  else if streamBroken s u x.ring dest then failCtx s u id 7 3
  else runWith s u id [{ inlinePlan 4 1 dest (df x.desc 144 64) (df x.desc 140 4) 0 with fence := fence, onStream := true }]

/-- R98: the cell part of an address as a fabric address at offset 0. -/
def cellAddr (dc : Nat) : Nat := dc / 65536 * 2 ^ 56 + dc % 65536 * 2 ^ 40

/-- R98, R99: STREAM_OPEN with REL = 0. -/
def runStreamOpen (s : State) (u : UnitRef) (id : Nat) (x : Ctx) : State :=
  let dest := df x.desc 64 76
  let dc := destCell s u.dom dest
  let req := fun (i : Nat) => { inlinePlan 5 1 (cellAddr dc) 0 0 0 with src := Src.mem i 0 }
  match streamFor s u x.ring dest with
  | some (i, y) =>
    if y.broken then runWith s u id [req i]
    else runWith (updCtx s u id (fun z => { z with result := y.stag + 512 * y.sinst })) u id []
  | none =>
    match (List.range 64).find? (fun i => ((punit s u).streams.find i).isNone) with
    | none =>
      let s1 := match u with
        | .ni c => cntUp s (cellReg c 3 0x814) 8 8 1
        | .gw _ => s
      failCtx s1 u id 7 1
    | some i =>
      let y : SrcStream := { live := false, broken := false, fout := false, relPend := none, dest := dc, q := x.ring, stag := 0,
                             sinst := 0, sgen := 0, sent := 0, unack := 0 }
      runWith (updUnit s u (fun p => { p with streams := p.streams.set i y })) u id [req i]

/-- R102: STREAM_OPEN with REL = 1: the release waits for STREAM_REL_SEND. -/
def runStreamRelease (s : State) (u : UnitRef) (id : Nat) (x : Ctx) : State :=
  match streamFor s u x.ring (df x.desc 64 76) with
  | none => failCtx s u id 7 4
  | some (i, y) =>
    updCtx (updUnit s u (fun p => { p with streams := p.streams.set i { y with relPend := some id } })) u id
      (fun z => { z with st := .waiting })

/-- Run a STREAM_OPEN whose REL bit is as given; the other kind is left to its own command. -/
def startStream (s : State) (c : Cell) (q : Nat) (rel : Bool) (run : State → UnitRef → Nat → Ctx → State) : State :=
  let u := UnitRef.ni c
  match startable s u q 9 with
  | some (_, x) => if bit x.desc 140 = rel then startOp s u q 9 (fun t id y => run t u id y) else s
  | none => s

/-- R256: the time of a WAIT_TIME in nanoseconds. -/
def waitUntil (d : BitVec 512) : Nat := secNs (df d 64 48) (df d 112 32)

/-- R256: a WAIT_TIME at its start. DESIGN CHOICE (log entry 167): a T reached by then, be it after the fetch or at this very time, has
passed. -/
def runWaitTime (s : State) (u : UnitRef) (id : Nat) (x : Ctx) : State :=
  if timeReached s (timeDom u) (waitUntil x.desc) then
    runWith (updCtx s u id (fun z => { z with late := true, unsync := (dom s (timeDom u)).mer.unsync })) u id []
  else updCtx s u id (fun z => { z with st := .waiting })

/-- A waiting descriptor of a ring with an opcode. -/
def waitingCtx (s : State) (u : UnitRef) (r op : Nat) : Option (Nat × Ctx) :=
  (punit s u).ctxs.find? (fun x => x.2.ring == r && x.2.st == .waiting && dOp x.2.desc == op)

/-- R256: the time of a held WAIT_TIME has come. -/
def waitReached (s : State) (u : UnitRef) (r : Nat) : State :=
  match waitingCtx s u r 7 with
  | none => s
  | some (id, x) =>
    if clocked s u.dom && timeReached s (timeDom u) (waitUntil x.desc) then
      runWith (updCtx s u id (fun z => { z with unsync := (dom s (timeDom u)).mer.unsync })) u id []
    else s

/-- R257: the open time of a CIRCUIT_OPEN in nanoseconds. -/
def openAt (d : BitVec 512) : Nat := secNs (df d 160 48) (df d 208 32)

/-- R134: a CIRCUIT notice. -/
def circuitPlan (op ridx wid dc : Nat) : Plan := inlinePlan 9 1 (cellAddr dc) (op + 4 * ridx + 256 * wid) 8 0

/-- R133: open a welt, with its checks. The completion tells of the time compared whatever the checks find (R258, R330). -/
def openWelt (s : State) (c : Cell) (id : Nat) (x : Ctx) (late : Bool) : State :=
  let u := UnitRef.ni c
  let d := x.desc
  let lidx := df d 152 4
  let dest := df d 64 76
  let dc := destCell s c.field dest
  let k := cellReg c 3 0xA000
  let un := (dom s c.field).mer.unsync
  let s0 := updCtx s u id (fun z => { z with late := late, unsync := un })
  if (List.range 64).all (fun i => inName (rd s (winKey c 4 i)) != some lidx) then failCtx (setBits s0 k 1) u id 8 1
  else if (punit s u).weltSrc.any (fun w => w.1 == lidx || w.2.q == x.ring) then failCtx (setBits s0 k 2) u id 8 2
  else if namesCell dest = false ∨ addrOk s c.field dest 0 = false ∨ dc = waferOf s c.field * 65536 + c.x.val * 256 + c.y.val then
    failCtx (setBits s0 k 4) u id 8 3
  else
    let w : WeltSrc := { closing := false, q := x.ring, ridx := df d 156 4, wid := df d 140 12, dest := dc, timedOut := false,
                         closeCtx := none }
    let s1 := updUnit (setBits s0 k (8 * b2n late + 16 * b2n un)) u (fun p => { p with weltSrc := p.weltSrc.set lidx w })
    runWith (updCtx s1 u id (fun z => { z with issued := true })) u id
      [circuitPlan 0 w.ridx w.wid dc]

/-- R133: CIRCUIT_OPEN at its start. A T_open that is the present time has passed (DESIGN CHOICE, log entry 167). -/
def runCircuitOpen (s : State) (c : Cell) (id : Nat) (x : Ctx) : State :=
  if timeReached s c.field (openAt x.desc) then openWelt s c id x true
  else updCtx s (.ni c) id (fun z => { z with st := .waiting })

/-- R133: CIRCUIT_OPEN at its open time. -/
def circuitOpenTime (s : State) (c : Cell) (q : Nat) : State :=
  match waitingCtx s (.ni c) q 4 with
  | none => s
  | some (id, x) => if clocked s c.field && timeReached s c.field (openAt x.desc) then openWelt s c id x false else s

/-- R135: CIRCUIT_CLOSE at its start. DESIGN CHOICE (log entry 30): a WID whose welt is closing already is not open, and of two
open welts with one WID the lower LIDX closes. -/
def runCircuitClose (s : State) (c : Cell) (id : Nat) (x : Ctx) : State :=
  let u := UnitRef.ni c
  match (punit s u).weltSrc.find? (fun w => !w.2.closing && w.2.wid == df x.desc 64 12) with
  | none => failCtx s u id 8 4
  | some (l, w) =>
    updCtx (updUnit s u (fun p => { p with weltSrc := p.weltSrc.set l { w with closing := true, closeCtx := some id } })) u id
      (fun z => { z with st := .waiting })

/-- R135: the CLOSE notice of a welt whose packets have all been answered or have timed out. -/
def circuitCloseSend (s : State) (c : Cell) (l : Nat) : State :=
  let u := UnitRef.ni c
  match (punit s u).weltSrc.find l with
  | none => s
  | some w =>
    if w.closing ∧ ((punit s u).weltCur.find l).isNone ∧
        (punit s u).out.all (fun e => e.2.quar || e.2.welt != some l) ∧ clocked s c.field then
      let s1 := updUnit s u (fun p => { p with weltSrc := p.weltSrc.erase l })
      let s2 := if w.timedOut then setBits s1 (cellReg c 3 0xA000) 32 else s1
      match w.closeCtx with
      | none => s2
      | some id =>
        runWith (updCtx s2 u id (fun z => { z with err := if w.timedOut then some (z.err.getD (5, 0)) else z.err })) u id
          [circuitPlan 1 w.ridx w.wid w.dest]
    else s

/-! ## The commands -/

/-- DESCRIPTOR_FETCH (R235). -/
def execDescriptorFetch (u : UnitRef) (ok : Bool) (s : State) : Host.Outcome State Fault Refusal :=
  .next (descriptorFetch s u ok)

/-- COMPLETION_WRITE_FAIL (R262). -/
def execCompletionWriteFail (u : UnitRef) (r : Fin 64) (s : State) : Host.Outcome State Fault Refusal :=
  .next (completionWriteFail s u r.val)

/-- NOP (R245). -/
def execNop (u : UnitRef) (r : Fin 64) (s : State) : Host.Outcome State Fault Refusal :=
  .next (startOp s u r.val 0 (fun t id _ => runWith t u id []))

/-- COPY (R248). -/
def execCopy (u : UnitRef) (r : Fin 64) (s : State) : Host.Outcome State Fault Refusal :=
  .next (startOp s u r.val 1 (fun t id x => runCopy t u id x))

/-- FENCE (R253). -/
def execFence (c : Cell) (q : Fin 16) (s : State) : Host.Outcome State Fault Refusal :=
  .next (startOp s (.ni c) q.val 6 (fun t id x => runFence t (.ni c) id x))

/-- SIGNAL_DESCRIPTOR (R254). -/
def execSignalDescriptor (u : UnitRef) (r : Fin 64) (s : State) : Host.Outcome State Fault Refusal :=
  .next (startOp s u r.val 8 (fun t id x => runSignal t u id x))

/-- STREAM_OPEN (R252). -/
def execStreamOpen (c : Cell) (q : Fin 16) (s : State) : Host.Outcome State Fault Refusal :=
  .next (startStream s c q.val false runStreamOpen)

/-- STREAM_RELEASE (R252). -/
def execStreamRelease (c : Cell) (q : Fin 16) (s : State) : Host.Outcome State Fault Refusal :=
  .next (startStream s c q.val true runStreamRelease)

/-- WAIT_TIME (R256). -/
def execWaitTime (u : UnitRef) (r : Fin 64) (s : State) : Host.Outcome State Fault Refusal :=
  .next (startOp s u r.val 7 (fun t id x => runWaitTime t u id x))

/-- WAIT_TIME_REACHED (R256). -/
def execWaitTimeReached (u : UnitRef) (r : Fin 64) (s : State) : Host.Outcome State Fault Refusal :=
  .next (waitReached s u r.val)

/-- CIRCUIT_OPEN (R133). -/
def execCircuitOpen (c : Cell) (q : Fin 16) (s : State) : Host.Outcome State Fault Refusal :=
  .next (startOp s (.ni c) q.val 4 (fun t id x => runCircuitOpen t c id x))

/-- CIRCUIT_OPEN_TIME (R133). -/
def execCircuitOpenTime (c : Cell) (q : Fin 16) (s : State) : Host.Outcome State Fault Refusal :=
  .next (circuitOpenTime s c q.val)

/-- CIRCUIT_CLOSE (R135). -/
def execCircuitClose (c : Cell) (q : Fin 16) (s : State) : Host.Outcome State Fault Refusal :=
  .next (startOp s (.ni c) q.val 5 (fun t id x => runCircuitClose t c id x))

/-- CIRCUIT_CLOSE_SEND (R135). -/
def execCircuitCloseSend (c : Cell) (lidx : Fin 16) (s : State) : Host.Outcome State Fault Refusal :=
  .next (circuitCloseSend s c lidx.val)

end Sys2Proof.Machine
end

