-- ==== Sys2Proof/Machine/Sparse.lean ====
section
/-! DEFINITION. Sparse tensors and COPY_SPARSE (R203-R215, R230). -/

namespace Sys2Proof.Machine

/-! ## Tensors and maps -/

/-- R168: element bytes of a format. -/
def elemBytes (fmt : Nat) : Nat :=
  match fmt with
  | 0 => 4
  | 1 => 2
  | 2 => 2
  | 5 => 4
  | _ => 1

/-- R203: the geometry of a sparse tensor: element bytes, tile edge, tile rows and columns. -/
structure Geo where
  eb : Nat
  edge : Nat
  tr : Nat
  tc : Nat
  deriving DecidableEq, Repr

/-- The geometry of a format, a tile code and a size. -/
def geoOf (fmt tile rows cols : Nat) : Geo :=
  { eb := elemBytes fmt, edge := tileEdge tile, tr := rows / tileEdge tile, tc := cols / tileEdge tile }

/-- R203: the number of tiles. -/
def Geo.nt (g : Geo) : Nat := g.tr * g.tc
/-- R203: the bytes of a tile. -/
def Geo.tb (g : Geo) : Nat := g.edge * g.edge * g.eb
/-- R204: the words of a bitmap. -/
def Geo.mw (g : Geo) : Nat := (g.nt + 63) / 64
/-- The bytes of one row of a tile. -/
def Geo.rowb (g : Geo) : Nat := g.edge * g.eb

/-- R204, R205: what a scan of a presence map finds: the present tiles in rising order, each with the place of its tile in
a packed source, the out-of-range and the out-of-order drops, and how many packed source tiles the map owns. -/
structure Scan where
  tiles : FMap Nat
  range : Nat
  order : Nat
  owned : Nat
  deriving DecidableEq, Repr

/-- R204: scan a bitmap given as a number of MW words. -/
def scanBits (g : Geo) (m : Nat) : Scan :=
  let on := (List.range g.nt).filter (fun t => m.testBit t)
  { tiles := on.zipIdx, range := ((List.range (64 * g.mw)).filter (fun t => decide (g.nt ≤ t) && m.testBit t)).length,
    order := 0, owned := ((List.range (64 * g.mw)).filter (fun t => m.testBit t)).length }

/-- R205: scan the entries of an index list, each with its place. -/
def scanList (nt : Nat) : List (Nat × Nat) → Option Nat → Scan → Scan
  | [], _, a => { a with tiles := a.tiles.reverse }
  | (t, i) :: r, last, a =>
    if nt ≤ t then scanList nt r last { a with range := a.range + 1 }
    else if last.any (fun l => decide (t ≤ l)) then scanList nt r last { a with order := a.order + 1 }
    else scanList nt r (some t) { a with tiles := (t, i) :: a.tiles }

/-- R205: the 32-bit entries of an index list. -/
def indexEntries (l : List Byte) (n : Nat) : List (Nat × Nat) := (List.range n).map (fun i => (natOf ((l.drop (4 * i)).take 4), i))

/-- R204, R205: scan the map of a descriptor from a cell's cluster SRAM. -/
def scanMap (s : State) (c : Cell) (g : Geo) (indexed : Bool) (smap nidx : Nat) : Scan :=
  let sp := unitSpace (.ni c)
  if indexed then scanList g.nt (indexEntries (memRead s sp smap (4 * nidx)) nidx) none ⟨[], 0, 0, nidx⟩
  else scanBits g (natOf (memRead s sp smap (8 * g.mw)))

/-! ## Packets (R209, R210) -/

/-- A packet of R209: its kind, its place relative to DEST, its rows, and where it lies in the tensor: tile row, first and
last tile column, first row in the tile, first byte in the run. -/
structure SPk where
  zero : Bool
  off : Nat
  nrows : Nat
  rowb : Nat
  tr : Nat
  c0 : Nat
  c1 : Nat
  r : Nat
  b : Nat
  deriving DecidableEq, Repr

/-- R209: the maximal runs of tiles of a tile row, each (first, last, present), given the presence of each column. -/
def runsOf : List Bool → Nat → List (Nat × Nat × Bool)
  | [], _ => []
  | p :: l, c =>
    match runsOf l (c + 1) with
    | (a, b, q) :: r => if p = q then (c, b, q) :: r else (c, c, p) :: (a, b, q) :: r
    | [] => [(c, c, p)]

/-- R209: the packets of a run of present tiles. -/
def runPkts (g : Geo) (off stride tr c0 c1 : Nat) : List SPk :=
  let rb := (c1 - c0 + 1) * g.rowb
  if rb ≤ 2048 then
    let q := min g.edge (2048 / rb)
    (List.range (ceilDiv g.edge q)).map (fun i =>
      { zero := false, off := off + i * q * stride, nrows := min q (g.edge - i * q), rowb := rb, tr := tr, c0 := c0, c1 := c1,
        r := i * q, b := 0 })
  else
    (List.range g.edge).flatMap (fun r => (List.range (ceilDiv rb 2048)).map (fun i =>
      { zero := false, off := off + r * stride + 2048 * i, nrows := 1, rowb := min 2048 (rb - 2048 * i), tr := tr, c0 := c0,
        c1 := c1, r := r, b := 2048 * i }))

/-- R209: the packets of a tensor, given the presence of each tile; `zeros`: absent runs are sent as ZERO packets. -/
def tensorPkts (g : Geo) (dld : Nat) (zeros : Bool) (present : Nat → Bool) : List SPk :=
  let stride := dld * g.eb
  (List.range g.tr).flatMap (fun tr =>
    (runsOf ((List.range g.tc).map (fun tc => present (tr * g.tc + tc))) 0).flatMap (fun x =>
      let off := (tr * g.edge * dld + x.1 * g.edge) * g.eb
      if x.2.2 then runPkts g off stride tr x.1 x.2.1
      else if zeros then
        [{ zero := true, off := off, nrows := g.edge, rowb := (x.2.1 - x.1 + 1) * g.rowb, tr := tr, c0 := x.1, c1 := x.2.1, r := 0, b := 0 }]
      else []))

/-- R209: the flits of a packet. -/
def spkFlits (p : SPk) : Nat := if p.zero then 1 else 1 + (p.nrows * p.rowb + 63) / 64

/-- Row r of tile t of a source: zeros where the map lacks it (R211). -/
def tileRow (s : State) (c : Cell) (g : Geo) (src : Nat) (packed : Bool) (sld : Nat) (sc : Scan) (t r : Nat) : List Byte :=
  match sc.tiles.find t with
  | none => List.replicate g.rowb 0
  | some i =>
    let a := if packed then src + i * g.tb + r * g.rowb
      else src + ((t / g.tc * g.edge + r) * sld + t % g.tc * g.edge) * g.eb
    memRead s (unitSpace (.ni c)) a g.rowb

/-- The data bytes of a STRIDED packet. -/
def spkBytes (g : Geo) (row : Nat → Nat → List Byte) (p : SPk) : List Byte :=
  (List.range p.nrows).flatMap (fun i =>
    (((List.range (p.c1 - p.c0 + 1)).flatMap (fun k => row (p.tr * g.tc + p.c0 + k) (p.r + i))).drop p.b).take p.rowb)

/-- A fabric address moved by an offset. -/
def addrPlus (dest off : Nat) : Nat := dest / 2 ^ 40 * 2 ^ 40 + (dest + off) % 2 ^ 40

/-- R214, R242: the tiles that count as sent when a packet is answered: those of its run, with the run's last packet (log
entry 41). -/
def spkTiles (g : Geo) (p : SPk) : Nat :=
  if p.zero = false ∧ p.r + p.nrows = g.edge ∧ p.b + p.rowb = (p.c1 - p.c0 + 1) * g.rowb then p.c1 - p.c0 + 1
  else 0

/-- R208: the plan of a packet of R209. -/
def spkPlan (g : Geo) (row : Nat → Nat → List Byte) (dest stride : Nat) (p : SPk) : Plan :=
  { inlinePlan 0 3 (addrPlus dest p.off) (p.rowb + 2 ^ 20 * stride + 2 ^ 40 * p.nrows) 8 0 with
    cspec := if p.zero then 2 else 1, onStream := true, src := .bytes (if p.zero then [] else spkBytes g row p), len := 2 * spkTiles g p,
    crc := if p.zero then crc32c (List.replicate (p.nrows * p.rowb) 0) else 0 }

/-- Plain WRITEs of up to 2,048 bytes of a byte list, of which each `unit` bytes are `w` tiles; `at'` bytes have gone
before. The fuel is the number of packets. -/
def bytePlans (dest unit w : Nat) : Nat → List Byte → Nat → List Plan
  | _, _, 0 => []
  | at', l, n + 1 =>
    if l.isEmpty then []
    else
      let k := min 2048 l.length
      { inlinePlan 0 3 dest 0 0 (2 * w * ((at' + k) / unit - at' / unit)) with src := .bytes (l.take 2048), onStream := true } ::
        bytePlans (addrPlus dest 2048) unit w (at' + k) (l.drop 2048) n

/-- The bytes of a tile, row-major. -/
def tileBytes (g : Geo) (row : Nat → Nat → List Byte) (t : Nat) : List Byte := (List.range g.edge).flatMap (row t)

/-- R211: the whole tensor row-major with a row stride of COLS. -/
def denseBytes (g : Geo) (row : Nat → Nat → List Byte) : List Byte :=
  (List.range (g.tr * g.edge)).flatMap (fun y => (List.range g.tc).flatMap (fun tc => row (y / g.edge * g.tc + tc) (y % g.edge)))

/-- R210: an output map with a bit for each tile. -/
def mapBytes (g : Geo) (tiles : FMap Nat) : List Byte := bytesOf (8 * g.mw) (tiles.foldl (fun a x => a + 2 ^ x.1) 0)

/-- R212: a header. -/
def packedHeader (ntiles dense tile fmt rows cols : Nat) : Nat :=
  ntiles % 2 ^ 24 + 2 ^ 24 * dense + 2 ^ 25 * tile + 2 ^ 27 * fmt + 2 ^ 32 * rows + 2 ^ 48 * cols

/-! ## COPY_SPARSE (R206-R215) -/

/-- R206: the geometry of a COPY_SPARSE. -/
def copyGeo (d : BitVec 512) : Geo := geoOf (df d 140 4) (df d 186 2) (df d 224 16) (df d 240 16)

/-- R211: whether the dense form is sent. -/
def goesDense (d : BitVec 512) (sc : Scan) : Bool :=
  let g := copyGeo d
  match df d 188 2 with
  | 0 =>
    let f := fun (p : Nat → Bool) => sumN ((tensorPkts g (df d 272 16) true p).map spkFlits)
    decide (f (fun _ => true) ≤ f (fun t => (sc.tiles.find t).isSome))
  | 2 => decide (df d 224 16 * df d 240 16 * g.eb ≤ 8 * g.mw + sc.tiles.length * g.tb)
  | _ => false

/-- R206: whether DEST names a cell or a memory port. -/
def sparseTarget (dest : Nat) : Bool := namesCell dest || dest / 2 ^ 50 % 4 == 0

/-- The extent of a dense layout in bytes (R35). -/
def denseExtent (g : Geo) (ld cols : Nat) : Nat := ((g.tr * g.edge - 1) * ld + cols) * g.eb

/-- R207: the source ranges (offset, bytes) of a COPY_SPARSE: the tiles and the map. -/
def sparseSources (d : BitVec 512) (sc : Scan) : List (Nat × Nat) :=
  let g := copyGeo d
  [(df d 144 20, if bit d 184 then sc.owned * g.tb else denseExtent g (df d 256 16) (df d 240 16)),
   (df d 164 20, if bit d 185 then 4 * df d 192 24 else 8 * g.mw)]

/-- R207: the destination ranges of the form chosen. -/
def sparseDests (d : BitVec 512) (sc : Scan) (dense : Bool) : List (Nat × Nat) :=
  let g := copyGeo d
  let dest := df d 64 76
  let dmap := dest / 2 ^ 40 * 2 ^ 40 + df d 288 40
  if df d 188 2 = 2 then
    (if dense then [(dest, df d 224 16 * df d 240 16 * g.eb), (dmap, 16)]
     else [(dest, sc.tiles.length * g.tb), (dmap, 16 + 8 * g.mw)])
  else [(dest, denseExtent g (df d 272 16) (df d 240 16))]

/-- Rows of bytes: the first byte, how many rows, their stride and their width. -/
structure Rows where
  off : Nat
  n : Nat
  stride : Nat
  width : Nat
  deriving DecidableEq, Repr

/-- A range of bytes. -/
def Rows.range (x : Nat × Nat) : Rows := ⟨x.1, 1, x.2, x.2⟩

/-- The rows of a dense layout (R203). -/
def Rows.dense (off rows ld cols eb : Nat) : Rows := ⟨off, rows, ld * eb, cols * eb⟩

/-- Whether two sets of rows share a byte: of the second's rows that begin before a row of the first ends, the last
reaches furthest. -/
def Rows.meets (a b : Rows) : Bool :=
  decide (0 < a.width) && decide (0 < b.width) && decide (0 < b.n) && (List.range a.n).any (fun i =>
    let lo := a.off + i * a.stride
    let hi := lo + a.width
    decide (b.off < hi) && decide (lo < b.off + min (b.n - 1) ((hi - 1 - b.off) / b.stride) * b.stride + b.width))

/-- R207, R215: the bytes of the source: the tiles and the map. -/
def sourceRows (d : BitVec 512) (sc : Scan) : List Rows :=
  let g := copyGeo d
  [if bit d 184 then .range (df d 144 20, sc.owned * g.tb) else .dense (df d 144 20) (g.tr * g.edge) (df d 256 16) (df d 240 16) g.eb,
   .range (df d 164 20, if bit d 185 then 4 * df d 192 24 else 8 * g.mw)]

/-- R213: the bytes of the destination, as offsets. -/
def destRows (d : BitVec 512) (l : List (Nat × Nat)) : List Rows :=
  let g := copyGeo d
  if df d 188 2 = 2 then l.map (fun x => .range (x.1 % 2 ^ 40, x.2))
  else [.dense (df d 64 40) (g.tr * g.edge) (df d 272 16) (df d 240 16) g.eb]

/-- R215: whether a destination in the own cell shares a byte with a source. -/
def overlapsOwn (s : State) (c : Cell) (d : BitVec 512) (sc : Scan) (ds : List (Nat × Nat)) : Bool :=
  destCell s c.field (df d 64 76) == waferOf s c.field * 65536 + c.x.val * 256 + c.y.val &&
    (destRows d ds).any (fun x => (sourceRows d sc).any (fun y => Rows.meets x y))

/-- R215, log entry 5: the k-th plan of a copy whose result is undefined places free values, zeros of absent tiles too. -/
def freePlan (n : Nat) (x : Plan × Nat) : Plan :=
  let p := x.1
  if p.cspec = 2 then
    { p with free := some (n + x.2), crc := crc32c (freeBytes (n + x.2) (p.inl / 2 ^ 40 * (p.inl % 2 ^ 20))) }
  else
    match p.src with
    | .bytes l => { p with src := .bytes (freeBytes (n + x.2) l.length) }
    | .mem _ _ => p

/-- R209-R211: the packets of a COPY_SPARSE but for PACKED's header. -/
def sparsePlans (s : State) (c : Cell) (d : BitVec 512) (sc : Scan) (dense : Bool) : List Plan :=
  let g := copyGeo d
  let dest := df d 64 76
  let row := tileRow s c g (df d 144 20) (bit d 184) (df d 256 16) sc
  if df d 188 2 = 2 then
    (if dense then bytePlans dest (g.nt * g.tb) g.nt 0 (denseBytes g row) (g.nt * g.tb / 2048 + 1)
     else bytePlans dest g.tb 1 0 (sc.tiles.flatMap (fun x => tileBytes g row x.1)) (sc.tiles.length * g.tb / 2048 + 1) ++
      bytePlans (dest / 2 ^ 40 * 2 ^ 40 + (df d 288 40 + 16) % 2 ^ 40) 1 0 0 (mapBytes g sc.tiles) (8 * g.mw / 2048 + 1))
  else
    (tensorPkts g (df d 272 16) (df d 188 2 == 0) (fun t => dense || (sc.tiles.find t).isSome)).map
      (spkPlan g row dest (df d 272 16 * g.eb))

/-- R214, R230: count a scan's drops. -/
def countDrops (s : State) (c : Cell) (sc : Scan) : State :=
  let k := cellReg c 3 0xC004
  let s1 := cntUp (cntUp s k 0 16 sc.range) k 16 16 sc.order
  setBits s1 (cellReg c 3 0xC014) (b2n (sc.range != 0) + 2 * b2n (sc.order != 0))

/-- R214, R242: RESULT before any packet is answered; each answer adds the tiles of its packet to TILES. -/
def sparseResult (dense : Bool) (sc : Scan) : Nat := b2n dense + 2 ^ 25 * min 4095 sc.range + 2 ^ 37 * min 4095 sc.order

/-- R207: a COPY_SPARSE. DEDUCED (log entry 153): its WRITEs carry the queue's stream to the cell, so that on a BROKEN stream it
completes as a COPY PUT does (R103), though R103 does not name it. -/
def runSparse (s : State) (c : Cell) (id : Nat) (x : Ctx) : State :=
  let u := UnitRef.ni c
  let d := x.desc
  let g := copyGeo d
  let mapLen := if bit d 185 then 4 * df d 192 24 else 8 * g.mw
  if Config.sramBytes < df d 164 20 + mapLen then failCtx s u id 3 0
  else
    let sc := scanMap s c g (bit d 185) (df d 164 20) (df d 192 24)
    let dense := goesDense d sc
    let s1 := countDrops s c sc
    let ss := sparseSources d sc
    let ds := sparseDests d sc dense
    if !(sparseTarget (df d 64 76) && ss.all (fun y => decide (y.1 + y.2 ≤ Config.sramBytes)) && ds.all (fun y => addrOk s c.field y.1 y.2)) then
      failCtx (updCtx s1 u id (fun z => { z with result := sparseResult false sc })) u id 3 0
    else if streamBroken s u x.ring (df d 64 76) then
      failCtx (updCtx s1 u id (fun z => { z with result := sparseResult false sc })) u id 7 3
    else
      let n := if dense then g.nt else sc.tiles.length
      let s2 := cntUp s1 (cellReg c 3 0xC000) (if dense then 16 else 0) 16 1
      let ps := sparsePlans s c d sc dense
      let overlap := overlapsOwn s c d sc ds
      let s3 := if overlap then { s2 with freeCtr := s2.freeCtr + ps.length } else s2
      let s4 := updCtx s3 u id (fun z => { z with result := sparseResult dense sc, aux := 1 + b2n dense + 2 * b2n overlap + 4 * n })
      let l := if overlap then ps.zipIdx.map (freePlan s.freeCtr) else ps
      if df d 188 2 = 2 then updCtx s4 u id (fun z => { z with st := .waiting, todo := l }) else runWith s4 u id l

/-- R207, R212: the header write of a PACKED copy whose other packets are all acknowledged; an undefined copy's (R215) is a free
value. -/
def packedHeaderWrite (s : State) (c : Cell) (q : Nat) : State :=
  let u := UnitRef.ni c
  match waitingCtx s u q 2 with
  | none => s
  | some (id, x) =>
    if clocked s c.field = true ∧ x.todo = [] ∧ x.out = 0 ∧ inFlight s u id = false then
      let d := x.desc
      let undef := (x.aux - 1) / 2 % 2 = 1
      let hd := if undef then natOf (freeBytes s.freeCtr 16) else packedHeader ((x.aux - 1) / 4) ((x.aux - 1) % 2) (df d 186 2) (df d 140 4) (df d 224 16) (df d 240 16)
      let dest := df d 64 76 / 2 ^ 40 * 2 ^ 40 + df d 288 40
      runWith (if undef then draw s else s) u id [{ inlinePlan 0 3 dest hd 16 0 with onStream := true }]
    else s

/-- COPY_SPARSE (R207). -/
def execCopySparse (c : Cell) (q : Fin 16) (s : State) : Host.Outcome State Fault Refusal :=
  .next (startOp s (.ni c) q.val 2 (fun t id x => runSparse t c id x))

/-- PACKED_HEADER_WRITE (R207). -/
def execPackedHeaderWrite (c : Cell) (q : Fin 16) (s : State) : Host.Outcome State Fault Refusal :=
  .next (packedHeaderWrite s c q.val)

end Sys2Proof.Machine
end

