-- ==== Sys2Proof/Machine/Chunks.lean ====
section
/-! DEFINITION. Combine entries and their chunks: configuration words (R202), the check of R167, what each phase carries
(R168, R182-R184, R218-R221), signatures (R194, R196), the chunk packets (R170-R172), and credits (R175). -/

namespace Sys2Proof.Machine

/-! ## Entries (R202) -/

/-- A combine unit. -/
def cmb (s : State) (c : Cell) : Cmb := s.cmbs.get c.key Cmb.init
/-- Store a combine unit. -/
def setCmb (s : State) (c : Cell) (x : Cmb) : State := { s with cmbs := s.cmbs.set c.key x }
/-- An entry. -/
def cent (s : State) (c : Cell) (e : Nat) : CEnt := (cmb s c).ents.get e CEnt.init
/-- Store an entry. -/
def setCent (s : State) (c : Cell) (e : Nat) (x : CEnt) : State := setCmb s c { cmb s c with ents := (cmb s c).ents.set e x }
/-- The run of an entry. -/
def crun (s : State) (c : Cell) (e : Nat) : Option CRun := (cent s c e).run
/-- Store the run of an entry. -/
def setRun (s : State) (c : Cell) (e : Nat) (r : CRun) : State := setCent s c e { cent s c e with run := some r }
/-- Update the run of an entry that is RUNNING. -/
def updRun (s : State) (c : Cell) (e : Nat) (f : CRun → CRun) : State :=
  match crun s c e with
  | some r => setRun s c e (f r)
  | none => s

/-- The register of word n of entry e. -/
def cwKey (c : Cell) (e n : Nat) : Nat := cellReg c 4 (0x1000 + 0x80 * e + 4 * n)
/-- A field of a word of an entry. -/
def cw (s : State) (c : Cell) (e n lo len : Nat) : Nat := rdF s (cwKey c e n) lo len
/-- VALID. -/
def cValid (s : State) (c : Cell) (e : Nat) : Bool := cw s c e 0 0 1 == 1
/-- LEVEL. -/
def cLevel (s : State) (c : Cell) (e : Nat) : Nat := cw s c e 0 1 2
/-- BASE. -/
def cBase (s : State) (c : Cell) (e : Nat) : Bool := cw s c e 0 3 1 == 1
/-- ROOT. -/
def cRoot (s : State) (c : Cell) (e : Nat) : Bool := cw s c e 0 4 1 == 1
/-- NEXT_LVL. -/
def cNext (s : State) (c : Cell) (e : Nat) : Bool := cw s c e 0 5 1 == 1
/-- DMC. -/
def cDmc (s : State) (c : Cell) (e : Nat) : Bool := cw s c e 0 6 1 == 1
/-- GROUP. -/
def cGroup (s : State) (c : Cell) (e : Nat) : Nat := cw s c e 0 8 8
/-- PLAN. -/
def cPlan (s : State) (c : Cell) (e : Nat) : Nat := cw s c e 0 16 12
/-- NCHILD. -/
def cNch (s : State) (c : Cell) (e : Nat) : Nat := cw s c e 0 28 3
/-- SLOTS. -/
def cSlots (s : State) (c : Cell) (e : Nat) : Nat := cw s c e 1 0 6
/-- WIN: 0 acts as 1, 3 as 2. -/
def cWin (s : State) (c : Cell) (e : Nat) : Nat := max 1 (min 2 (cw s c e 1 8 2))
/-- PIDX. -/
def cPidx (s : State) (c : Cell) (e : Nat) : Nat := cw s c e 1 16 3
/-- LAST_SEQ. -/
def cLast (s : State) (c : Cell) (e : Nat) : Nat := cw s c e 27 0 32
/-- MEMBERS. -/
def cMembers (s : State) (c : Cell) (e : Nat) : Nat := cw s c e 7 0 24
/-- The parent's fabric address. -/
def parentAddr (s : State) (c : Cell) (e : Nat) : Nat :=
  cw s c e 3 0 20 * 2 ^ 56 + cw s c e 2 0 8 * 2 ^ 48 + cw s c e 2 8 8 * 2 ^ 40
/-- Child k's fabric address. -/
def childAddr (s : State) (c : Cell) (e k : Nat) : Nat :=
  cw s c e (9 + 2 * k) 0 20 * 2 ^ 56 + cw s c e (8 + 2 * k) 0 8 * 2 ^ 48 + cw s c e (8 + 2 * k) 8 8 * 2 ^ 40

/-- The number of bits set of a mask of n bits. -/
def popN (m n : Nat) : Nat := ((List.range n).filter (fun i => m.testBit i)).length

/-- R167: the slots an entry needs for reductions. -/
def slotBudget (s : State) (c : Cell) (e : Nat) : Nat :=
  (if cNch s c e = 0 then 1 else cNch s c e * cWin s c e) + (if cRoot s c e || cDmc s c e then 0 else cWin s c e)

/-- R167: whether an entry whose words stand as they will be passes its check. -/
def entryOk (s : State) (c : Cell) (e : Nat) : Bool :=
  decide (cNch s c e ≤ 6) && !(cRoot s c e && cNext s c e) && (cLevel s c e != 0 || cBase s c e) &&
    (!cDmc s c e || cLevel s c e == 0) &&
    (List.range 32).all (fun f => f == e || !cValid s c f || cGroup s c f != cGroup s c e ||
      (cLevel s c f != cLevel s c e && !(cBase s c e && cBase s c f))) &&
    decide (slotBudget s c e ≤ popN (cSlots s c e) 6)

/-- The valid entry of a group at a level. -/
def entryAt (s : State) (c : Cell) (g lvl : Nat) : Option Nat :=
  (List.range 32).find? (fun e => cValid s c e && cGroup s c e == g && cLevel s c e == lvl)

/-- R165: the entry one level up that an entry feeds. -/
def upperOf (s : State) (c : Cell) (e : Nat) : Option Nat :=
  if cNext s c e then entryAt s c (cGroup s c e) (cLevel s c e + 1) else none

/-- R165: the entry one level below that feeds an entry. -/
def lowerOf (s : State) (c : Cell) (e : Nat) : Option Nat :=
  if cLevel s c e = 0 then none
  else
    match entryAt s c (cGroup s c e) (cLevel s c e - 1) with
    | some f => if cNext s c f then some f else none
    | none => none

/-- R181: an entry and its NEXT_LVL chain upward. The fuel is the number of levels. -/
def chainUp (s : State) (c : Cell) : Nat → Nat → List Nat
  | 0, _ => []
  | n + 1, e =>
    match upperOf s c e with
    | some f => e :: chainUp s c n f
    | none => [e]

/-- R197: the whole NEXT_LVL chain of an entry, in both directions. -/
def chainDown (s : State) (c : Cell) : Nat → Nat → List Nat
  | 0, _ => []
  | n + 1, e =>
    match lowerOf s c e with
    | some f => f :: chainDown s c n f
    | none => []

/-- The whole chain of an entry. -/
def chainOf (s : State) (c : Cell) (e : Nat) : List Nat := chainUp s c 4 e ++ chainDown s c 4 e

/-- R178: whether an entry sends its down phase by multicast: the root of an L0 tree with DMC. -/
def dmcRoot (s : State) (c : Cell) (e : Nat) : Bool := cDmc s c e && (cRoot s c e || cNext s c e)

/-- R178: whether an entry receives its down phase by multicast. -/
def dmcLeaf (s : State) (c : Cell) (e : Nat) : Bool := cDmc s c e && !cRoot s c e && !cNext s c e

/-- R178: the members that a DMC root's multicast reaches. -/
def dmcMembers (s : State) (c : Cell) (e : Nat) : List Nat :=
  let f := c.field
  ((List.range 1200).map (fun n => cellOf f n)).filterMap (fun d =>
    let x := d.x.val % 40
    let y := d.y.val % 30
    if decide (cw s c e 26 0 6 ≤ x) && decide (x ≤ cw s c e 26 6 6) && decide (cw s c e 26 12 5 ≤ y) &&
        decide (y ≤ cw s c e 26 17 5) && d != c then some d.key else none)

/-! ## COLL descriptors (R251) -/

/-- GROUP. -/
def kGroup (d : BitVec 512) : Nat := df d 64 8
/-- OP. -/
def kOp (d : BitVec 512) : Nat := df d 72 4
/-- RED. -/
def kRed (d : BitVec 512) : Nat := df d 76 2
/-- FMT. -/
def kFmt (d : BitVec 512) : Nat := df d 78 4
/-- SPARSE. -/
def kSparse (d : BitVec 512) : Bool := bit d 82
/-- COUNT. -/
def kCount (d : BitVec 512) : Nat := df d 84 24
/-- SRC. -/
def kSrc (d : BitVec 512) : Nat := df d 108 20
/-- DST. -/
def kDst (d : BitVec 512) : Nat := df d 128 20
/-- AUX. -/
def kAux (d : BitVec 512) : Nat := df d 148 20
/-- WORK. -/
def kWork (d : BitVec 512) : Nat := df d 168 20
/-- RMAP. -/
def kRmap (d : BitVec 512) : Nat := df d 188 20
/-- RCAP. -/
def kRcap (d : BitVec 512) : Nat := df d 208 24
/-- SMAP. -/
def kSmap (d : BitVec 512) : Nat := df d 232 20
/-- DMAP. -/
def kDmap (d : BitVec 512) : Nat := df d 252 20
/-- TILE. -/
def kTile (d : BitVec 512) : Nat := df d 272 2
/-- LAYOUT. -/
def kLayout (d : BitVec 512) : Nat := df d 274 2
/-- FMODE. -/
def kMode (d : BitVec 512) : Nat := df d 276 2
/-- ROWS. -/
def kRows (d : BitVec 512) : Nat := df d 280 16
/-- COLS. -/
def kCols (d : BitVec 512) : Nat := df d 296 16
/-- SLD. -/
def kSld (d : BitVec 512) : Nat := df d 312 16
/-- DLD. -/
def kDld (d : BitVec 512) : Nat := df d 328 16
/-- FTHR. -/
def kThr (d : BitVec 512) : Nat := df d 344 32
/-- R203: the geometry of a sparse instance. -/
def kGeo (d : BitVec 512) : Geo := geoOf (kFmt d) (kTile d) (kRows d) (kCols d)

/-- R184: whether a collective begins with a counts phase. -/
def kCounts (d : BitVec 512) : Bool := kOp d == 5 || kOp d == 6
/-- R184, R218: how many up and down phases an instance has. -/
def kPhases (d : BitVec 512) : Nat := if kSparse d || kCounts d then 2 else 1
/-- R184: whether a phase is the counts phase. -/
def inCounts (d : BitVec 512) (ph : Nat) : Bool := kCounts d && ph == 0
/-- R218: whether a phase is the map phase. -/
def inMap (d : BitVec 512) (ph : Nat) : Bool := kSparse d && ph == 0
/-- R167: whether a phase is a gather. -/
def inGather (d : BitVec 512) (ph : Nat) : Bool := kOp d == 3 || (kOp d == 5 && ph == 1)
/-- R184, R219: the format in which a phase combines. -/
def phFmt (d : BitVec 512) (ph : Nat) : Nat := if inCounts d ph then 5 else if inMap d ph then 4 else kFmt d
/-- R184, R219: the operator with which a phase combines. -/
def phRed (d : BitVec 512) (ph : Nat) : Nat := if inCounts d ph || inMap d ph then 0 else kRed d

/-! ## Chunks (R168) -/

/-- R168: elements per chunk of a format. -/
def perChunk (fmt : Nat) : Nat := if fmt = 6 then 3968 else 4096 / elemBytes fmt
/-- R168: chunks of n elements. -/
def nChunks (fmt n : Nat) : Nat := ceilDiv n (perChunk fmt)
/-- R168: the bytes of chunk i of n elements. -/
def chunkLen (fmt n i : Nat) : Nat :=
  let k := min (perChunk fmt) (n - i * perChunk fmt)
  if fmt = 6 then (if k = 3968 then 4096 else k / 32 * 33) else k * elemBytes fmt
/-- R168: the bytes that n elements take in cluster SRAM. -/
def elemSpan (fmt n : Nat) : Nat := if fmt = 6 then n / 3968 * 4096 + n % 3968 / 32 * 33 else n * elemBytes fmt

/-- R184: V. -/
def vLen (s : State) (c : Cell) (e : Nat) (d : BitVec 512) : Nat := if kOp d = 5 then 1 else cMembers s c e

/-- A counts vector of a run. -/
def cvec (r : CRun) (k : Nat) : List Nat := r.vecs.get k []
/-- An element of a counts vector. -/
def cvAt (r : CRun) (k j : Nat) : Nat := lget (cvec r k) j 0

/-- R182, R184, R218: the elements that a phase carries up. -/
def upElems (s : State) (c : Cell) (e : Nat) (r : CRun) : Nat :=
  let d := r.desc
  if inMap d r.ph then (kGeo d).nt
  else if kSparse d then r.kept * (kGeo d).edge * (kGeo d).edge
  else if inCounts d r.ph then vLen s c e d
  else
    match kOp d with
    | 3 => cMembers s c e * kCount d
    | 4 => 0
    | 5 => cvAt r 1 0
    | 6 => 0
    | 7 => 0
    | _ => kCount d

/-- R182, R184, R218, R221: the elements that a phase carries down. -/
def downElems (s : State) (c : Cell) (e : Nat) (r : CRun) (ph : Nat) : Nat :=
  let d := r.desc
  if inMap d ph then 8 * (kGeo d).mw
  else if inCounts d ph then 2 * vLen s c e d
  else
    match kOp d with
    | 0 => if kSparse d then r.kept * (kGeo d).edge * (kGeo d).edge else kCount d
    | 1 => if kSparse d then r.kept * (kGeo d).edge * (kGeo d).edge else kCount d
    | 3 => cMembers s c e * kCount d
    | 4 => kCount d
    | _ => 0

/-- R183, R184: the element range of an entry's own input in a gather. -/
def ownRange (s : State) (c : Cell) (e : Nat) (r : CRun) : Nat × Nat :=
  if kOp r.desc = 5 then (cvAt r 0 0, cvAt r 2 0)
  else (cw s c e 4 0 24 * kCount r.desc, cw s c e 5 0 24 * kCount r.desc)

/-- R166: the sum of CSUB_j for j below k. -/
def csubBelow (s : State) (c : Cell) (e k : Nat) : Nat := sumN ((List.range k).map (fun j => cw s c e (20 + j) 0 24))

/-- R166: the ranks (first, number) of child k; k = 6: those of the entry below. -/
def kidRanks (s : State) (c : Cell) (e k : Nat) : Nat × Nat :=
  if k = 6 then (cw s c e 4 0 24, cw s c e 5 0 24)
  else (cw s c e 4 0 24 + cw s c e 5 0 24 + csubBelow s c e k, cw s c e (20 + k) 0 24)

/-- R183: the element range of child k in a gather; k = 6: the own input. -/
def kidRange (s : State) (c : Cell) (e : Nat) (r : CRun) (k : Nat) : Nat × Nat :=
  if k = 6 then ownRange s c e r
  else if kOp r.desc = 5 then
    (cvAt r 0 0 + cvAt r 2 0 + sumN ((List.range k).map (fun j => cvAt r (3 + j) 0)), cvAt r (3 + k) 0)
  else ((kidRanks s c e k).1 * kCount r.desc, (kidRanks s c e k).2 * kCount r.desc)

/-- R183: the element range of an entry's subtree in a gather; the top root forms every chunk. -/
def treeRange (s : State) (c : Cell) (e : Nat) (r : CRun) : Nat × Nat :=
  if cRoot s c e then (0, upElems s c e r)
  else if kOp r.desc = 5 then
    (cvAt r 0 0, cvAt r 2 0 + sumN ((List.range (cNch s c e)).map (fun j => cvAt r (3 + j) 0)))
  else (cw s c e 4 0 24 * kCount r.desc, cw s c e 6 0 24 * kCount r.desc)

/-- R183: whether a range of elements overlaps chunk i of a format. -/
def touches (fmt i : Nat) (x : Nat × Nat) : Bool :=
  decide (0 < x.2) && decide (x.1 < (i + 1) * perChunk fmt) && decide (i * perChunk fmt < x.1 + x.2)

/-- R177, R183: the chunks that an entry forms in its present phase, in order. -/
def upList (s : State) (c : Cell) (e : Nat) (r : CRun) : List Nat :=
  let f := phFmt r.desc r.ph
  (List.range (nChunks f (upElems s c e r))).filter (fun i => !inGather r.desc r.ph || touches f i (treeRange s c e r))

/-- R177: whether chunk i needs child k's input (6: the own input). -/
def needsKid (s : State) (c : Cell) (e : Nat) (r : CRun) (k i : Nat) : Bool :=
  !inGather r.desc r.ph || touches (phFmt r.desc r.ph) i (kidRange s c e r k)

/-- R183: a chunk whose bytes within a range are those of an input. -/
def placeRange (fmt i : Nat) (x : Nat × Nat) (acc inp : List Byte) : List Byte :=
  if fmt = 6 then inp
  else
    let lo := (max x.1 (i * perChunk fmt) - i * perChunk fmt) * elemBytes fmt
    let hi := (min (x.1 + x.2) ((i + 1) * perChunk fmt) - i * perChunk fmt) * elemBytes fmt
    acc.take lo ++ (inp.take hi).drop lo ++ acc.drop hi

/-! ## Maps of sparse instances -/

/-- R219: the tiles that an output map keeps, in order. -/
def keptTiles (r : CRun) : List Nat := (List.range (kGeo r.desc).nt).filter (fun t => r.map.testBit t)

/-- R221: the tiles (first, one past the last) of the result that a rank range owns. -/
def ownTiles (m : Nat) (d : BitVec 512) (ranks : Nat × Nat) : Nat × Nat :=
  if kOp d = 1 then
    let per := (kGeo d).tr / max 1 m * (kGeo d).tc
    (ranks.1 * per, (ranks.1 + ranks.2) * per)
  else (0, (kGeo d).nt)

/-- R183, R221: whether a target that holds a rank range needs down chunk i of a data phase. -/
def needsDown (s : State) (c : Cell) (e : Nat) (r : CRun) (i : Nat) (ranks : Nat × Nat) : Bool :=
  let d := r.desc
  let m := cMembers s c e
  match kOp d with
  | 1 =>
    if kSparse d then
      let t2 := (kGeo d).edge * (kGeo d).edge
      let own := ownTiles m d ranks
      (keptTiles r).zipIdx.any (fun x => decide (own.1 ≤ x.1) && decide (x.1 < own.2) && x.2 * t2 / perChunk (kFmt d) == i)
    else
      let sl := kCount d / max 1 m
      touches (kFmt d) i (ranks.1 * sl, ranks.2 * sl)
  | _ => true

/-- R178, R183: the targets of a down chunk: children, a multicast, the entry below. -/
def targetsOf (s : State) (c : Cell) (e : Nat) (r : CRun) (ph i : Nat) : List Nat :=
  let all := inCounts r.desc ph || inMap r.desc ph
  let kids := if cDmc s c e then [] else List.range (cNch s c e)
  let low := if (lowerOf s c e).isSome then [6] else []
  (kids ++ low).filter (fun k => all || needsDown s c e r i (kidRanks s c e k)) ++
    (if dmcRoot s c e && decide (0 < cNch s c e) && (all || needsDown s c e r i (cw s c e 4 0 24, cw s c e 6 0 24)) then [8] else [])

/-! ## Signatures (R194, R196) -/

/-- R194: fold. -/
def fold32 (v : Nat) : Nat := v % 65536 ^^^ v / 65536 % 65536

/-- R194, R219: CHASH. -/
def kHash (d : BitVec 512) (m : Nat) : Nat :=
  if kSparse d then fold32 (kRows d * 65536 + kCols d) ^^^ (kTile d * 4096) ^^^ (kMode d * 16384)
  else
    match kOp d with
    | 5 => fold32 1
    | 6 => fold32 m ^^^ fold32 (kRcap d) ^^^ fold32 (kDst d)
    | 7 => 0
    | _ => fold32 (kCount d)

/-- R171, R194, R219: the signature of an entry in a phase. -/
def sigOf (s : State) (c : Cell) (e : Nat) (d : BitVec 512) (ph : Nat) : CSig :=
  { op := kOp d, fmt := if inMap d ph then 4 else kFmt d, red := if kCounts d then ph else if inMap d ph then 3 else kRed d,
    chash := kHash d (cMembers s c e), plan := cPlan s c e }

/-- R171: the signature of a chunk. -/
def hdrSig (h : Payload) : CSig :=
  { op := hInl h 18 4, fmt := hInl h 22 4, red := hInl h 26 2, chash := hInl h 40 16, plan := hInl h 28 12 }

/-- R196: the first field in which a chunk differs from a signature. -/
def sigDiff (a b : CSig) : Option Nat :=
  if a.op ≠ b.op then some 1
  else if a.fmt ≠ b.fmt then some 2
  else if a.op ≠ 5 ∧ a.op ≠ 6 ∧ a.red ≠ b.red then some 3
  else if a.chash ≠ b.chash then some 4
  else if a.plan ≠ b.plan then some 5
  else none

/-- R195, R196, R219: the first field in which a chunk of a kind differs from an entry's run. A CREDIT or an ABORT of a sparse
instance may come from a neighbour in the other phase (DEDUCED, log entry 61); another chunk of the data phase differs in RED from
an entry in a map phase (R219). -/
def runDiff (s : State) (c : Cell) (e : Nat) (d : BitVec 512) (ph kind : Nat) (a : CSig) : Option Nat :=
  let other := sigDiff (sigOf s c e d (1 - ph)) a
  if kSparse d && other.isNone && (kind == 1 || kind == 2) then none
  else if other.isNone && inMap d ph then some 3
  else sigDiff (sigOf s c e d ph) a

/-! ## Chunk packets (R170-R172) -/

/-- R171: the chunk header of a sender's entry. -/
def chunkInl (s : State) (c : Cell) (e dir half kind child : Nat) (g : CSig) (seq cidx crc : Nat) : Nat :=
  cGroup s c e + 2 ^ 8 * cLevel s c e + 2 ^ 10 * dir + 2 ^ 11 * half + 2 ^ 12 * kind + 2 ^ 15 * child + 2 ^ 18 * g.op +
    2 ^ 22 * g.fmt + 2 ^ 26 * g.red + 2 ^ 28 * g.plan + 2 ^ 40 * g.chash + 2 ^ 56 * (seq % 2 ^ 32) + 2 ^ 88 * cidx + 2 ^ 96 * crc

/-- R170: a CHUNK packet. `port` names the entry whose result slot the packet frees when it has entered C: 1 + entry. -/
def chunkPkt (inl dest : Nat) (data : List Byte) (port : Nat) : TxPkt :=
  { hdr := hSet 0 [(0, 4, 8), (4, 2, 2), (8, 6, nduOf data.length), (14, 5, 16), (19, 6, lastbOf data.length), (152, 76, dest),
      (384, 128, inl)],
    data := dataUnits data, cls := 2, grp := inl % 256, req := none, ctx := none, q := none, port := port, raw := false,
    via := none }

/-- R178: a CHUNK packet as a multicast over an entry's rectangle in its own field. -/
def chunkMcast (s : State) (c : Cell) (e inl : Nat) (data : List Byte) : TxPkt :=
  let z := chunkPkt inl (waferLocal * 2 ^ 56) data 0
  let rect := cw s c e 26 0 6 + 64 * cw s c e 26 6 6 + 4096 * cw s c e 26 12 5 + 131072 * cw s c e 26 17 5
  { z with hdr := hSet z.hdr [(26, 1, 1), (276, 22, rect), (320, 48, 2 ^ c.field)] }

/-- A packet joins its combine unit's queue. -/
def cmQueue (s : State) (c : Cell) (z : TxPkt) : State :=
  setTxEnd s (.cmb c) { txEnd s (.cmb c) with queue := (txEnd s (.cmb c)).queue ++ [z] }

/-- R170: queue the halves of a DATA chunk; it is counted for R387. -/
def queueData (s : State) (c : Cell) (mk : Nat → List Byte → Nat → TxPkt) (l : List Byte) (port : Nat) : State :=
  let s1 := setCmb s c { cmb s c with gen := (cmb s c).gen + 1 }
  if l.length ≤ 2048 then cmQueue s1 c (mk 0 l port)
  else cmQueue (cmQueue s1 c (mk 0 (l.take 2048) 0)) c (mk 1 (l.drop 2048) port)

/-- R387: words are written to scratch, at a place. -/
def scrWrote (s : State) (c : Cell) (p : CPlace) : State := setCmb s c { cmb s c with wr := ((cmb s c).wr.1 + 1, p) }

/-- R387: no word of the entries given is disturbed. -/
def scrClean (s : State) (c : Cell) (es : List Nat) : State :=
  if (cmb s c).bad.any (fun x => es.contains x.1.e) then
    setCmb s c { cmb s c with bad := (cmb s c).bad.filter (fun x => !es.contains x.1.e) }
  else s

/-! ## Edges and credits (R175) -/

/-- An edge of a run: children 0-5, 6 the entry below, 7 the parent or the entry above. -/
def CRun.edge (r : CRun) (k : Nat) : CEdge := r.edges.get k CEdge.init
/-- Update an edge. -/
def CRun.upd (r : CRun) (k : Nat) (f : CEdge → CEdge) : CRun := { r with edges := r.edges.set k (f (r.edge k)) }

/-- R198: TMO of an entry's level in cycles of the field clock. -/
def tmoOf (s : State) (c : Cell) (e : Nat) : Nat := max 1 (rdF s (cellReg c 4 (0x10 + 4 * cLevel s c e)) 0 24) * 2250

/-- R198: restart the progress timer. -/
def progress (s : State) (c : Cell) (e : Nat) : State :=
  updRun s c e (fun r => { r with since := cyc s c.field, tmo := tmoOf s c e })

/-- A CREDIT of n chunks to a neighbour: child k, or the parent (7). -/
def creditPkt (s : State) (c : Cell) (e : Nat) (r : CRun) (k n : Nat) : TxPkt :=
  let g := sigOf s c e r.desc r.ph
  if k = 7 then chunkPkt (chunkInl s c e 0 0 1 (cPidx s c e) g r.seq n 0) (parentAddr s c e) [] 0
  else chunkPkt (chunkInl s c e 1 0 1 0 g r.seq n 0) (childAddr s c e k) [] 0

/-- R175: grant a neighbour n more sends; between entries of one cell they pass at once. -/
def grant (s : State) (c : Cell) (e k n : Nat) : State :=
  match crun s c e with
  | none => s
  | some r =>
    let s1 := updRun s c e (fun x => x.upd k (fun y => { y with granted := y.granted + n }))
    let give := fun (f : Option Nat) (j : Nat) =>
      match f with
      | some f => progress (updRun s1 c f (fun x => x.upd j (fun y => { y with cred := y.cred + n, credSeen := true }))) c f
      | none => s1
    if k = 6 then give (lowerOf s c e) 7
    else if k = 7 ∧ cNext s c e = true then give (upperOf s c e) 6
    else cmQueue s1 c (creditPkt s c e r k n)

/-- R177: the credits that leave with a result: child 0's where the result was formed in its slot, the entry below's
where the entry has no children. -/
def resultLeft (s : State) (c : Cell) (e : Nat) (gather : Bool) : State :=
  if cNch s c e = 0 then (if (lowerOf s c e).isSome then grant s c e 6 1 else s)
  else if gather then s
  else grant s c e 0 1

end Sys2Proof.Machine
end

