-- ==== Sys2Proof/Machine/Combine.lean ====
section
/-! DEFINITION. Combine units at work: launch (R181), the reading, combining and sending of chunks (R174-R179, R183-R185,
R218-R226), arrivals (R195), aborts (R197-R199), the progress timer (R198) and the sharing of the C input (R200). -/

namespace Sys2Proof.Machine

/-! ## Results in cluster SRAM (R182, R221-R223) -/

/-- Whether an entry writes the data of a phase to DST. -/
def owesDst (s : State) (c : Cell) (e : Nat) (r : CRun) : Bool :=
  match kOp r.desc with
  | 2 => cRoot s c e
  | 5 => cRoot s c e
  | 4 => cBase s c e && !r.rootCell
  | 6 => false
  | 7 => false
  | _ => cBase s c e

/-- Write bytes to a cell's cluster SRAM, as far as it exists. -/
def sramPut (s : State) (c : Cell) (off : Nat) (l : List Byte) : State :=
  memWrite s (unitSpace (.ni c)) off (l.take (Config.sramBytes - off))

/-- R182: the part of dense down chunk i (for REDUCE, of result i) that a member keeps: the place, the bytes before it, its
length. -/
def densePiece (s : State) (c : Cell) (e : Nat) (r : CRun) (i : Nat) : Nat × Nat × Nat :=
  let d := r.desc
  let f := kFmt d
  if kOp d = 1 then
    let sl := kCount d / max 1 (cMembers s c e)
    let a := cw s c e 4 0 24 * sl
    let lo := max a (i * perChunk f)
    let hi := min (a + sl) ((i + 1) * perChunk f)
    if f = 6 then (kDst d + elemSpan 6 (lo - a), 0, if lo < hi then 4096 else 0)
    else (kDst d + (lo - a) * elemBytes f, (lo - i * perChunk f) * elemBytes f, (hi - lo) * elemBytes f)
  else (kDst d + 4096 * i, 0, chunkLen f (if kOp d = 2 then kCount d else downElems s c e r r.ph) i)

/-- R221: the tiles of the result that a member owns. -/
def myTiles (s : State) (c : Cell) (e : Nat) (r : CRun) : Nat × Nat :=
  ownTiles (cMembers s c e) r.desc (cw s c e 4 0 24, 1)

/-- R222: the pieces (place, length) of a tile's result: its rows at DST with stride DLD, or its place among the packed
tiles. -/
def tilePieces (s : State) (c : Cell) (e : Nat) (r : CRun) (t : Nat) : List (Nat × Nat) :=
  let d := r.desc
  let g := kGeo d
  let own := myTiles s c e r
  if kLayout d = 2 then
    [(kDst d + ((keptTiles r).filter (fun x => decide (own.1 ≤ x) && decide (x < t))).length * g.tb, g.tb)]
  else (List.range g.edge).map (fun y =>
    (kDst d + (((t - own.1) / g.tc * g.edge + y) * kDld d + t % g.tc * g.edge) * g.eb, g.rowb))

/-- Write a list of bytes over pieces, in order. -/
def putPieces (s : State) (c : Cell) : List (Nat × Nat) → List Byte → State
  | [], _ => s
  | p :: r, l => putPieces (sramPut s c p.1 (l.take p.2)) c r (l.drop p.2)

/-- R221, R222: write the tiles that data chunk i holds and the member owns. -/
def writeTiles (s : State) (c : Cell) (e : Nat) (r : CRun) (i : Nat) (l : List Byte) : State :=
  let g := kGeo r.desc
  let per := perChunk (kFmt r.desc) / (g.edge * g.edge)
  let own := myTiles s c e r
  (((keptTiles r).drop (i * per)).take per).zipIdx.foldl (fun t x =>
    if own.1 ≤ x.1 ∧ x.1 < own.2 then
      updRun (putPieces t c (tilePieces t c e r x.1) ((l.drop (x.2 * g.tb)).take g.tb)) c e (fun y => { y with written := x.1 :: y.written })
    else t) s

/-- Write what a member owes of a data chunk. -/
def writeData (s : State) (c : Cell) (e : Nat) (r : CRun) (i : Nat) (l : List Byte) : State :=
  if owesDst s c e r = false then s
  else if kSparse r.desc then writeTiles s c e r i l
  else if kOp r.desc = 5 then
    updRun (sramPut s c (kDst r.desc + 4096 * i) l) c e (fun y => { y with written := i :: y.written })
  else
    let p := densePiece s c e r i
    updRun (sramPut s c p.1 ((l.drop p.2.1).take p.2.2)) c e (fun y => { y with written := i :: y.written })

/-- The pieces of DST that an entry owes (or, at the base of the top root's cell, the top root), each with the chunk or
tile it belongs to. -/
def owedPieces (s : State) (c : Cell) (e : Nat) (r : CRun) (owes : Bool) : List (Nat × Nat × Nat) :=
  let d := r.desc
  if kOp d = 6 then [(0, kDst d, kRcap d * elemBytes (kFmt d))]
  else if owes = false then []
  else if kSparse d then
    let own := myTiles s c e r
    ((List.range (kGeo d).nt).filter (fun t => decide (own.1 ≤ t) && decide (t < own.2))).flatMap (fun t =>
      if kLayout d = 2 then [(t, kDst d + (t - own.1) * (kGeo d).tb, (kGeo d).tb)]
      else (tilePieces s c e r t).map (fun p => (t, p)))
  else
    let n := if kOp d = 5 then cvAt r 1 0 else if kOp d = 2 then kCount d else downElems s c e { r with ph := 0 } 0
    ((List.range (nChunks (kFmt d) n)).filter (fun i =>
      kOp d != 1 || needsDown s c e r i (cw s c e 4 0 24, 1))).map (fun i =>
        if kOp d = 5 ∨ kOp d = 2 then (i, kDst d + 4096 * i, chunkLen (kFmt d) n i)
        else
          let p := densePiece s c e r i
          (i, p.1, p.2.2))

/-- FREE VALUE (R182, R197, R223; log entry 5): pieces of DST whose content the spec leaves undefined. -/
def fillFree (s : State) (c : Cell) (l : List (Nat × Nat × Nat)) : State :=
  l.foldl (fun t p => draw (sramPut t c p.2.1 (freeBytes t.freeCtr p.2.2))) s

/-! ## The end of an instance -/

/-- R199, R259: the status and detail with which a cause completes a COLL. -/
def causeErr (cause : Nat) : Option (Nat × Nat) := some (if cause = 0x40 then (0xA, 0x40) else (9, cause))

/-- R185, R259: complete a COLL: OK, or with a status and detail. -/
def endColl (s : State) (c : Cell) (id : Nat) (err : Option (Nat × Nat)) (result : Nat) : State :=
  settleCtx (updCtx s (.ni c) id (fun x =>
    { x with err := err, result := result, todo := [], st := .active, issued := true })) (.ni c) id

/-- R251: RESULT. -/
def collResult (r : CRun) : Nat :=
  if kOp r.desc = 6 then min r.outDrop (2 ^ 24 - 1) + 2 ^ 24 * min r.inDrop (2 ^ 24 - 1) + 2 ^ 48 * (r.seq % 8192) else r.seq

/-- R251: RESULT of a COLL that ends before it starts its instance. -/
def seqResult (d : BitVec 512) (seq : Nat) : Nat := if kOp d = 6 then 2 ^ 48 * (seq % 8192) else seq

/-- The SEQ of the instance that an entry's next one follows. -/
def entrySeq (s : State) (c : Cell) (e : Nat) : Nat :=
  match crun s c e with
  | some r => r.seq
  | none => cLast s c e

/-- R181, R197: whether the base entry below an entry has ended an instance (sequence numbers compared modulo 2^32). -/
def basePast (s : State) (c : Cell) (e seq : Nat) : Bool :=
  (chainDown s c 4 e).any (fun f => cBase s c f &&
    decide ((entrySeq s c f + 2 ^ 32 - seq - (if (crun s c f).isSome then 1 else 0)) % 2 ^ 32 < 2 ^ 31))

/-- R181, R197: an entry that is not RUNNING takes an instance as aborted; what it held for it is discarded (R175). -/
def takeAborted (s : State) (c : Cell) (e seq : Nat) (cz : CCause) : State :=
  let x := cent s c e
  wr (setCent s c e { x with last := cz, early := x.early.filter (fun y => y.seq != seq), aborts := x.aborts.filter (fun y => y.1 != seq) })
    (cwKey c e 27) (BitVec.ofNat 32 seq)

/-- The aborts of the instances to come that an entry holds are spent where its member has ended those instances already
(R181; log entry 42), at most n of them. -/
def spendAborts (s : State) (c : Cell) (e n : Nat) : State :=
  (List.range n).foldl (fun t _ =>
    let seq := (cLast t c e + 1) % 2 ^ 32
    match (cent t c e).abortOf seq with
    | some cz => if basePast t c e seq then takeAborted t c e seq cz else t
    | none => t) s

/-- An entry becomes IDLE with LAST_SEQ = SEQ. -/
def goIdle (s : State) (c : Cell) (e : Nat) (r : CRun) : State :=
  let x := { cent s c e with run := none, upDone := r.upDone, downDone := r.downDone }
  spendAborts (wr (setCent s c e x) (cwKey c e 27) (BitVec.ofNat 32 r.seq)) c e x.aborts.length

/-- R197: ABORTs to an entry's parent and children, but not to the neighbour given. -/
def sendAborts (s : State) (c : Cell) (e : Nat) (g : CSig) (seq : Nat) (cz : CCause) (except : Option Nat) : State :=
  let crc := cz.x + 256 * cz.y + 65536 * cz.lvl
  let up := if cRoot s c e || cNext s c e then [] else
    [(parentAddr s c e, chunkInl s c e 0 0 2 (cPidx s c e) g seq cz.cause crc)]
  let down := (List.range (cNch s c e)).map (fun k => (childAddr s c e k, chunkInl s c e 1 0 2 0 g seq cz.cause crc))
  (up ++ down).foldl (fun t x =>
    if except = some (destCell t c.field x.1) then t else cmQueue t c (chunkPkt x.2 x.1 [] 0)) s

/-- R200: a group that has nothing ready loses its deficit. -/
def Drr.only (d : Drr) (gs : List Nat) : Drr := { d with gdef := d.gdef.keep (fun g => gs.contains g) }

/-- R200: the groups of a queue that have a DATA packet ready. -/
def dataGroups (q : List TxPkt) : List Nat := ((q.filter (fun z => hInl z.hdr 12 3 == 0)).map (fun z => z.grp)).eraseDups

/-- Packets of an instance that have not started are withdrawn, but for ABORTs; a group left with nothing ready loses its
deficit (R200). -/
def dropQueued (s : State) (c : Cell) (g seq : Nat) : State :=
  let x := txEnd s (.cmb c)
  let q := x.queue.filter (fun z => z.grp != g || hInl z.hdr 56 32 != seq % 2 ^ 32 || hInl z.hdr 12 3 == 2)
  setTxEnd s (.cmb c) { x with queue := q, drr := x.drr.only (dataGroups q) }

/-- Ranges (start, bytes) without what lies in another range. -/
def cutOut (l : List (Nat × Nat)) (k : Nat × Nat) : List (Nat × Nat) :=
  (l.flatMap (fun p =>
    let a := min (p.1 + p.2) k.1
    let b := max p.1 (k.1 + k.2)
    [(p.1, a - p.1), (b, p.1 + p.2 - b)])).filter (fun p => decide (0 < p.2))

/-- R197: the pieces of DST whose result an abort leaves undefined: those not written; for ALLTOALLV, which other members
write, all of DST; for a GATHERV whose total is not known yet, all that may follow DST but SRC, where SRC is not DST, and the
counts area. -/
def lostPieces (s : State) (c : Cell) (e : Nat) (r : CRun) : List (Nat × Nat × Nat) :=
  let d := r.desc
  if kOp d = 6 then (if cBase s c e then owedPieces s c e r true else [])
  else if kOp d = 5 ∧ r.ph = 0 ∧ owesDst s c e r = true then
    (cutOut (cutOut [(kDst d, Config.sramBytes - kDst d)] (if kSrc d = kDst d then (0, 0) else (kSrc d, kCount d * elemBytes (kFmt d))))
      (kWork d, (3 + cNch s c e) * 4)).map (fun p => (0, p))
  else (owedPieces s c e r (owesDst s c e r)).filter (fun p => !r.written.contains p.1)

/-- R197: one RUNNING entry ends its instance. -/
def abortOne (s : State) (c : Cell) (e : Nat) (cz : CCause) (except : Option Nat) : State :=
  match crun s c e with
  | none => s
  | some r =>
    let s1 := fillFree s c (lostPieces s c e r)
    let s2 := sendAborts (dropQueued s1 c (cGroup s c e) r.seq) c e (sigOf s c e r.desc r.ph) r.seq cz except
    let s3 := goIdle s2 c e r
    let s4 := setCent s3 c e { cent s3 c e with last := cz }
    match r.ctx with
    | some id => endColl s4 c id (causeErr cz.cause) (collResult r)
    | none => s4

/-- R201: an abort that originates here is counted by cause. -/
def countAbort (s : State) (c : Cell) (cause : Nat) : State :=
  let k := cellReg c 4 0xC
  let b := cellReg c 4 4
  if cause / 16 = 1 then setBits (cntUp s k 0 8 1) b 8
  else if cause / 16 = 2 then setBits (cntUp s k 8 8 1) b 0x10
  else if cause = 0x30 then setBits (cntUp s k 16 8 1) b 4
  else if cause = 0x60 then setBits (cntUp s k 24 8 1) b 0x20
  else cntUp s k 24 8 1

/-- R197: the instance of an entry ends along its NEXT_LVL chain. -/
def abortInst (s : State) (c : Cell) (e : Nat) (cz : CCause) (except : Option Nat) : State :=
  (chainOf s c e).foldl (fun t f => abortOne t c f cz except) s

/-- R197, R201: an abort that originates at an entry. -/
def abortHere (s : State) (c : Cell) (e cause : Nat) : State :=
  abortInst (countAbort s c cause) c e ⟨cause, c.x.val, c.y.val, cLevel s c e⟩ none

/-- R195, R197: record an early abort along the chain, at every entry that has the instance still to come, and pass it on. -/
def earlyAbort (s : State) (c : Cell) (e : Nat) (g : CSig) (seq : Nat) (cz : CCause) (except : Option Nat) : State :=
  (chainOf s c e).foldl (fun t f =>
    let x := cent t c f
    let d := (seq + 2 ^ 32 - entrySeq t c f) % 2 ^ 32
    if (x.abortOf seq).isSome ∨ d = 0 ∨ (if x.run.isSome then 2 ^ 31 ≤ d else d ≠ 1) then t
    else sendAborts (setCent t c f { x with aborts := x.aborts ++ [(seq, cz)] }) c f g seq cz except) s

/-- R174, R175, R201: words of an entry's scratch are read, those at the places given: what SECDED finds is counted, the
disturbed words among them (R387) included; an uncorrectable word ends the instance with cause CHECK. -/
def scratch (s : State) (c : Cell) (e : Nat) (reads : CPlace → Bool) (ecc : Ecc) (k : State → State) : State :=
  let hit := ((cmb s c).bad.filter (fun x => x.1.e == e && reads x.1)).map (fun x => eccOf .ok x.2) ++ [ecc]
  let ce := hit.countP (fun x => x == .ce)
  let ue := hit.countP (fun x => x == .ue)
  let s1 := if ce = 0 then s else setBits (cntUp s (cellReg c 4 0x24) 0 16 ce) (cellReg c 4 4) 0x100
  if ue = 0 then k s1 else abortHere (setBits (cntUp s1 (cellReg c 4 0x24) 16 8 ue) (cellReg c 4 4) 0x200) c e 0x30

/-- R196: the first field in which an entry of a cell differs from its neighbour in the NEXT_LVL chain, in the neighbour's
phase. -/
def chainDiff (s : State) (c : Cell) (e f : Nat) : Option Nat :=
  match crun s c e, crun s c f with
  | some a, some b =>
    match sigDiff (sigOf s c f b.desc b.ph) (sigOf s c e a.desc b.ph) with
    | some k => some k
    | none => if a.seq = b.seq then none else some 6
  | _, _ => none

/-- R196: a chunk passes from an entry to its neighbour in the NEXT_LVL chain, if their signatures agree. -/
def intoChain (s : State) (c : Cell) (e f : Nat) (k : State → State) : State :=
  match chainDiff s c e f with
  | some x => abortHere s c f (0x10 + x)
  | none => k s

/-! ## Down chunks -/

/-- R175: the slot of a down chunk, if it lies in one, is freed. -/
def itemDone (s : State) (c : Cell) (e slot : Nat) (gather : Bool) : State :=
  match slot with
  | 1 => resultLeft s c e gather
  | 2 => grant s c e 7 1
  | _ => s

/-- R175: what a down chunk leaves once it has gone to every target and its last flits have entered the router's C input. -/
def itemFree (s : State) (c : Cell) (e ph i : Nat) : State :=
  match crun s c e with
  | none => s
  | some r =>
    match r.downs.find? (fun x => x.ph == ph && x.idx == i && x.todo.isEmpty && x.out == 0) with
    | none => s
    | some x => itemDone (setRun s c e { r with downs := r.downs.filter (fun y => y != x) }) c e x.slot (inGather r.desc ph)

/-- R184, R219, R182: a down chunk of an entry takes its effect there, and waits to be forwarded. -/
def downTake (s : State) (c : Cell) (e ph i : Nat) (l : List Byte) (crc slot : Nat) : State :=
  match crun s c e with
  | none => s
  | some r =>
    let d := r.desc
    let s1 :=
      if inCounts d ph then
        let v := vLen s c e d
        let es := elemsOf 4 (l.length / 4) l
        let set := es.zipIdx.foldl (fun m x =>
          let p := 1024 * i + x.2
          let k := if p < v then 0 else 1
          FMap.set m k (lset (FMap.get m k []) (if p < v then p else p - v) x.1)) r.vecs
        let s2 := setRun s c e { r with vecs := set }
        if cBase s c e then sramPut s2 c (kWork d + 4096 * i) l else s2
      else if inMap d ph then
        let s2 := setRun s c e { r with map := r.map ||| natOf l <<< (32768 * i) }
        if cBase s c e then sramPut s2 c (kDmap d + 16 + 4096 * i) l else s2
      else writeData s c e r i l
    let todo := targetsOf s c e r ph i
    if todo.isEmpty then itemDone s1 c e slot (inGather d ph)
    else updRun s1 c e (fun x => { x with downs := x.downs ++ [{ ph := ph, idx := i, bytes := l, crc := crc, todo := todo, slot := slot }] })

/-- R184: a counts chunk as child k receives it: the prefix of the child, the total unchanged. -/
def countsFor (s : State) (c : Cell) (e : Nat) (r : CRun) (k i : Nat) (l : List Byte) : List Byte :=
  let v := vLen s c e r.desc
  if k = 6 then l
  else
    (elemsOf 4 (l.length / 4) l).zipIdx.flatMap (fun x =>
      let p := 1024 * i + x.2
      bytesOf 4 ((if p < v then x.1 + cvAt r 2 p + sumN ((List.range k).map (fun j => cvAt r (3 + j) p)) else x.1) % 2 ^ 32))

/-! ## The gates of phases -/

/-- R196: whether a chunk or TOKEN from every child and from the entry below has passed the comparisons. -/
def gateOpen (s : State) (c : Cell) (e : Nat) (r : CRun) : Bool :=
  (List.range (cNch s c e)).all (fun k => (r.edge k).passed) && ((lowerOf s c e).isNone || (r.edge 6).passed)

/-- R179: whether an edge has closed its present phase. -/
def edgeClosed (r : CRun) (k : Nat) : Bool := (r.edge k).tok == some (r.edge k).got && (r.edge k).slots.isEmpty

/-- The up part of the present phase has ended on every edge from below. -/
def kidsClosed (s : State) (c : Cell) (e : Nat) (r : CRun) : Bool :=
  (List.range (cNch s c e)).all (edgeClosed r) && ((lowerOf s c e).isNone || edgeClosed r 6)

/-- R185: a member's WRITEs of ALLTOALLV are all acknowledged. -/
def writesDone (s : State) (c : Cell) (r : CRun) : Bool :=
  !(kOp r.desc == 6 && r.ph == 1) || (match r.ctx with
    | none => true
    | some id => r.a2a && (match ctxOf s (.ni c) id with
        | none => true
        | some x => x.todo.isEmpty && x.out == 0 && !inFlight s (.ni c) id))

/-- Everything that an entry forms in its present phase has been formed. -/
def upFormed (s : State) (c : Cell) (e : Nat) (r : CRun) : Bool :=
  kidsClosed s c e r && r.next == (upList s c e r).length && r.own.isNone && writesDone s c r

/-- R218: an entry enters its next phase. -/
def nextPhase (r : CRun) : CRun :=
  { r with
    ended := r.ended + 1, ph := if r.ph + 1 < kPhases r.desc then r.ph + 1 else r.ph, own := none, read := 0, next := 0,
    upSent := 0, upTok := false, edges := r.edges.map (fun x => (x.1, { x.2 with tok := none, got := 0 })) }

/-- R184: the down vector of a counts phase at the top root, in chunks. -/
def rootCounts (s : State) (c : Cell) (e : Nat) (r : CRun) : State :=
  let v := vLen s c e r.desc
  let l := List.replicate (4 * v) (0 : Byte) ++ (cvec r 1).flatMap (bytesOf 4)
  (List.range (nChunks 5 (2 * v))).foldl (fun t i =>
    let b := (l.drop (4096 * i)).take 4096
    downTake t c e 0 i b (crc32c b) 0) s

/-- R219, R231: the output map of the top root: it is counted and goes down in chunks. -/
def rootMap (s : State) (c : Cell) (e cut : Nat) (map : Nat) : State :=
  match crun s c e with
  | none => s
  | some r =>
    let g := kGeo r.desc
    let u := popN map g.nt
    let s1 := wr s (cellReg c 4 0x48) (BitVec.ofNat 32 (u + 2 ^ 24 * cut))
    let s2 := cntUp (cntUp s1 (cellReg c 4 0x4C) 0 16 1) (cellReg c 4 0x4C) 16 16 (if u = 0 then 1 else 0)
    let s3 := updRun s2 c e (fun x => { x with gotMap := some (kMode r.desc, u), map := 0 })
    let l := bytesOf (8 * g.mw) map
    (List.range (nChunks 4 (8 * g.mw))).foldl (fun t i =>
      let b := (l.drop (4096 * i)).take 4096
      downTake t c e 0 i b (crc32c b) 0) s3

/-- R179, R184, R218, R220: whether the present phase has ended at an entry that is not the top root. -/
def phaseOver (r : CRun) : Bool :=
  r.upTok && (r.edge 7).tok == some (r.edge 7).got && (!inMap r.desc r.ph || r.gotMap.isSome)

/-- R218: end the present phase of an entry when it has ended there. DESIGN CHOICE (log entry 152): the top root sends the output
map after the whole map-up phase, as R218 orders the phases; R225 lets it leave earlier. -/
def phaseStep (s : State) (c : Cell) (e : Nat) : State :=
  match crun s c e with
  | none => s
  | some r =>
    if r.ended = kPhases r.desc then s
    else if cRoot s c e then
      if upFormed s c e r = false then s
      else if inMap r.desc r.ph ∧ r.gotMap.isNone = true then
        (if kMode r.desc = 2 then
          (if r.passAt.isSome then s else setRun s c e { r with passAt := some (cyc s c.field) })
         else rootMap s c e 0 r.map)
      else if kOp r.desc = 4 ∧ r.read ≠ nChunks (kFmt r.desc) (kCount r.desc) then s
      else
        let s1 := if inCounts r.desc r.ph then rootCounts s c e r else s
        updRun s1 c e (fun x => nextPhase { x with kept := match x.gotMap with | some m => m.2 | none => 0 })
    else if phaseOver r = false then s
    else
      let u := match r.gotMap with | some m => m.2 | none => 0
      if inMap r.desc r.ph ∧ cBase s c e = true ∧ u ≠ popN r.map (64 * (kGeo r.desc).mw) then abortHere s c e 0x30
      else setRun s c e (nextPhase { r with kept := u })

/-- A TOKEN or MAP sent, as a number: phase and target. -/
def sentKey (ph t : Nat) : Nat := ph * 100000 + t

/-- R178, R179: the targets of an entry's down TOKENs: children, or DMC members (100 + cell), and the entry below (6). -/
def tokenTargets (s : State) (c : Cell) (e : Nat) : List Nat :=
  (if cDmc s c e then (if dmcRoot s c e then (dmcMembers s c e).map (fun m => 100 + m) else []) else List.range (cNch s c e)) ++
    (if (lowerOf s c e).isSome then [6] else [])

/-- R179: whether an entry has nothing left to do in its instance. DESIGN CHOICE (log entry 39): a base entry with children
completes its member's COLL and becomes IDLE only when it has also forwarded its down chunks, TOKENs and MAPs. -/
def instanceOver (s : State) (c : Cell) (e : Nat) (r : CRun) : Bool :=
  r.ended == kPhases r.desc && r.downs.isEmpty && r.res.isEmpty && r.leaving == 0 &&
    (tokenTargets s c e).all (fun t => (List.range (kPhases r.desc)).all (fun p =>
      r.dtok.contains (sentKey p t) && (!inMap r.desc p || r.dmap.contains (sentKey p t))))

/-- Whether a base entry's member ends with a result of its own at DST. -/
def hasResult (r : CRun) : Bool :=
  match kOp r.desc with
  | 2 => r.rootCell
  | 5 => r.rootCell
  | 4 => !r.rootCell
  | 7 => false
  | _ => true

/-- R222: the last writes of a sparse instance at its base entry: zeros to the tiles not kept, then the header. DESIGN CHOICE
(log entry 151): the tiles written as zeros under SCATTER_ZERO do not count in NTILES. -/
def sparseLast (s : State) (c : Cell) (e : Nat) (r : CRun) : State :=
  let d := r.desc
  let g := kGeo d
  let own := myTiles s c e r
  let mine := (List.range g.nt).filter (fun t => decide (own.1 ≤ t) && decide (t < own.2))
  let s1 :=
    if kLayout d = 0 ∧ hasResult r = true then
      (mine.filter (fun t => !r.map.testBit t)).foldl (fun t x =>
        putPieces t c (tilePieces t c e r x) (List.replicate g.tb 0)) s
    else s
  let n := if hasResult r then (mine.filter (fun t => r.map.testBit t)).length else 0
  sramPut s1 c (kDmap d) (bytesOf 16 (packedHeader n 0 (kTile d) (kFmt d) (kRows d) (kCols d)))

/-- R182, R223: whether a packed result, or a GATHERV's, whose length is known only now, has overlapped another buffer. -/
def lateOverlap (s : State) (c : Cell) (e : Nat) (r : CRun) : Bool :=
  let d := r.desc
  let g := kGeo d
  if kOp d = 5 ∧ kSparse d = false then
    r.rootCell && (Rows.range (kSrc d, kCount d * elemBytes (kFmt d))).meets (Rows.range (kDst d, cvAt r 1 0 * elemBytes (kFmt d)))
  else if kSparse d ∧ kLayout d = 2 then
    let own := myTiles s c e r
    let n := ((keptTiles r).filter (fun t => decide (own.1 ≤ t) && decide (t < own.2))).length
    let dst := Rows.range (kDst d, n * g.tb)
    (Rows.dense (kSrc d) (g.tr * g.edge) (kSld d) (kCols d) g.eb).meets dst || (Rows.range (kDmap d, 16 + 8 * g.mw)).meets dst ||
      (kSmap d != 0xFFFFF && (Rows.range (kSmap d, 8 * g.mw)).meets dst)
  else false

/-- R179: an entry whose instance is over becomes IDLE; a base entry completes its member's COLL. -/
def finishStep (s : State) (c : Cell) (e : Nat) : State :=
  match crun s c e with
  | none => s
  | some r =>
    if instanceOver s c e r then
      let s1 := if kSparse r.desc ∧ cBase s c e = true then sparseLast s c e r else s
      let s2 := if (r.undef || lateOverlap s c e r) = true ∧ cBase s c e = true then fillFree s1 c (owedPieces s1 c e r (hasResult r)) else s1
      let s3 := goIdle s2 c e r
      match r.ctx with
      | some id => endColl s3 c id none (collResult r)
      | none => s3
    else s

/-! ## What is ready (R175, R177) -/

/-- R175: whether a working slot, or the slot of child 0 that will hold the result, is free to begin another chunk. -/
def slotOpen (s : State) (c : Cell) (e : Nat) (r : CRun) : Bool :=
  let held := r.res.length + r.leaving + (r.downs.filter (fun x => x.slot == 1)).length
  if cNch s c e = 0 ∨ inGather r.desc r.ph = true then held == 0 else decide (held < cWin s c e)

/-- The bytes of a landed chunk. -/
def CSlot.full (x : CSlot) : Option (List Byte) :=
  match x.h0, x.h1 with
  | some a, some b => some (a ++ b)
  | _, _ => none

/-- The verified chunk i of an edge. -/
def edgeChunk (r : CRun) (k i : Nat) : Option (List Byte) :=
  ((r.edge k).slots.find? (fun x => x.idx == i)).bind CSlot.full

/-- R177: the own input of chunk i. -/
def ownInput (s : State) (c : Cell) (e : Nat) (r : CRun) (i : Nat) : Option (List Byte) :=
  if cBase s c e then
    match r.own with
    | some (j, b) => if j = i then some b else none
    | none => none
  else edgeChunk r 6 i

/-- R177: whether every input that chunk i requires is there. -/
def inputsReady (s : State) (c : Cell) (e : Nat) (r : CRun) (i : Nat) : Bool :=
  (!needsKid s c e r 6 i || (ownInput s c e r i).isSome) &&
    (List.range (cNch s c e)).all (fun k => !needsKid s c e r k i || (edgeChunk r k i).isSome) && slotOpen s c e r

/-- R177: the next chunk of an entry, if every input it requires is there. -/
def readyChunk (s : State) (c : Cell) (e : Nat) : Option Nat :=
  match crun s c e with
  | none => none
  | some r => ((upList s c e r).drop r.next).head?.filter (fun i => inputsReady s c e r i)

/-- R200: a group that the pipeline has nothing ready of, be it by an abort, loses its deficit. -/
def cmIdleGroups (s : State) (c : Cell) : State :=
  let d := (cmb s c).drr.only (((List.range 32).filter (fun e => (readyChunk s c e).isSome)).map (cGroup s c))
  if d = (cmb s c).drr then s else setCmb s c { cmb s c with drr := d }

/-- Move every entry of a cell as far as it goes by itself. -/
def cmSettle (s : State) (c : Cell) : State :=
  let es := (cmb s c).ents.map (fun x => x.1)
  let one := fun (t : State) => es.foldl (fun a e => finishStep (phaseStep a c e) c e) t
  cmIdleGroups (one (one (one (one s)))) c

/-! ## Launch (R180, R181) -/

/-- R217: the FORMAT rules of a sparse instance. -/
def sparseFormat (s : State) (c : Cell) (d : BitVec 512) (m : Nat) (top : Bool) : Bool :=
  let thr := kThr d
  let mode := kMode d
  decide (kOp d ≤ 2) && tensorOk (kFmt d) (kTile d) (kRows d) (kCols d) && kCount d == kRows d * kCols d &&
    decide (kCols d ≤ kSld d) && decide (kCols d ≤ kDld d) && kLayout d != 3 && mode != 3 && !(mode != 0 && kOp d == 2) &&
    !(mode == 1 && (fltOf 0).isNan thr) && !(mode == 2 && thr / 65536 != 0) && (kOp d != 1 || (kGeo d).tr % m == 0) &&
    !(top && mode == 2 && (rdF s (cellReg c 4 0x40) 0 1 == 0 || decide (rdF s (cellReg c 4 0x44) 0 24 < (kGeo d).nt)))

/-- R181, R182: OP, RED, FMT and COUNT. -/
def formatOk (s : State) (c : Cell) (d : BitVec 512) (m : Nat) (top : Bool) : Bool :=
  let op := kOp d
  let n := kCount d
  let b8 := kFmt d == 6
  m != 0 && decide (op < 8) &&
    (if op = 7 then n == 0 && kRed d == 0 && !kSparse d
     else
       n != 0 && decide (kFmt d ≤ 6) && (if op ≤ 2 then decide (kRed d ≤ 2) else kRed d == 0) && (!b8 || n % 32 == 0) &&
         (op != 1 || (n % m == 0 && (!b8 || n / m % 3968 == 0))) && (op != 3 || !b8 || n % 3968 == 0) &&
         ((op != 5 && op != 6) || !b8) && (op != 6 || decide (m ≤ 4096)) && (!kSparse d || sparseFormat s c d m top))

/-- R184: the count vector of a member. -/
def countVec (s : State) (c : Cell) (d : BitVec 512) (m : Nat) : List Nat :=
  if kOp d = 5 then [kCount d] else elemsOf 4 m (memRead s (unitSpace (.ni c)) (kAux d) (4 * m))

/-- R181, R217: the buffers (offset, bytes) of an instance. -/
def collBufs (s : State) (c : Cell) (e : Nat) (d : BitVec 512) (top : Bool) : List (Nat × Nat) :=
  let m := cMembers s c e
  let f := kFmt d
  let n := kCount d
  let eb := elemBytes f
  let g := kGeo d
  if kSparse d then
    [(kSrc d, denseExtent g (kSld d) (kCols d)), (kDmap d, 16 + 8 * g.mw),
     (kDst d, if kLayout d = 2 then g.nt * g.tb else denseExtent g (kDld d) (kCols d))] ++
      (if kSmap d = 0xFFFFF then [] else [(kSmap d, 8 * g.mw)]) ++
      (if top && kMode d == 2 then [(rdF s (cellReg c 4 0x40) 4 16 * 16, rdF s (cellReg c 4 0x44) 0 24)] else [])
  else
    match kOp d with
    | 0 => [(kSrc d, elemSpan f n), (kDst d, elemSpan f n)]
    | 1 => [(kSrc d, elemSpan f n), (kDst d, elemSpan f (n / max 1 m))]
    | 2 => [(kSrc d, elemSpan f n), (kDst d, elemSpan f n)]
    | 3 => [(kSrc d, elemSpan f n), (kDst d, elemSpan f (m * n))]
    | 4 => [(kSrc d, elemSpan f n), (kDst d, elemSpan f n)]
    | 5 => [(kSrc d, n * eb), (kDst d, n * eb), (kWork d, (3 + cNch s c e) * 4)]
    | 6 => [(kSrc d, sumN (countVec s c d m) * eb), (kDst d, kRcap d * eb), (kAux d, 4 * m),
            (kWork d, (3 + cNch s c e) * m * 4), (kRmap d, 8 * m)]
    | _ => []

/-- R182, R223: whether buffers overlap in a way that leaves the result undefined, as far as a launch can tell: the places of
a packed result and of a GATHERV's are judged at the end (`lateOverlap`). -/
def overlapBad (s : State) (c : Cell) (e : Nat) (d : BitVec 512) (l : List (Nat × Nat)) : Bool :=
  if kSparse d then
    let g := kGeo d
    let src := Rows.dense (kSrc d) (g.tr * g.edge) (kSld d) (kCols d) g.eb
    let dmap := Rows.range (kDmap d, 16 + 8 * g.mw)
    let dst := if kLayout d = 2 then [] else
      [Rows.dense (kDst d) ((if kOp d = 1 then g.tr / max 1 (cMembers s c e) else g.tr) * g.edge) (kDld d) (kCols d) g.eb]
    let smap := Rows.range (kSmap d, 8 * g.mw)
    let same := kSrc d == kDst d && kSld d == kDld d && (kOp d == 0 || kOp d == 2) && kLayout d != 2
    src.meets dmap || dst.any (fun x => x.meets dmap || (!same && x.meets src)) ||
      (kSmap d != 0xFFFFF && (src.meets smap || dst.any (fun y => y.meets smap) || (kSmap d != kDmap d + 16 && dmap.meets smap)))
  else
    match l with
    | src :: dst :: _ =>
      if kOp d = 5 ∨ (kOp d = 0 ∨ kOp d = 2) ∧ kSrc d = kDst d then false
      else (Rows.range src).meets (Rows.range dst)
    | _ => false

/-- R181: an entry's run at its start. -/
def newRun (s : State) (c : Cell) (e : Nat) (d : BitVec 512) (ctx : Option Nat) (root undef : Bool) : CRun :=
  let v := vLen s c e d
  let sc := if kSparse d ∧ kSmap d ≠ 0xFFFFF ∧ ctx.isSome = true then natOf (memRead s (unitSpace (.ni c)) (kSmap d) (8 * (kGeo d).mw))
    else 2 ^ (kGeo d).nt - 1
  { desc := d, ctx := ctx, seq := (cLast s c e + 1) % 2 ^ 32, rootCell := root, ph := 0, edges := [], own := none, read := 0,
    next := 0, res := [], leaving := 0, upSent := 0, upTok := false, upDone := 0, downDone := 0, downs := [], dsent := [],
    dtok := [], dmap := [], ended := 0, gotMap := none,
    vecs := if kCounts d then [(0, List.replicate v 0), (1, List.replicate v 0)] else [], ownMap := sc, map := 0, kept := 0,
    hist := [], ws := rdF s (cellReg c 4 0x40) 4 16 * 16, since := cyc s c.field, tmo := tmoOf s c e, passAt := none, a2a := false,
    outDrop := 0, inDrop := 0, undef := undef, written := [] }

/-- R175: the grants of a launch at one entry. -/
def launchGrants (s : State) (c : Cell) (e : Nat) : State :=
  let s1 := (List.range (cNch s c e)).foldl (fun t k => grant t c e k (cWin s c e)) s
  let s2 := if cRoot s c e || (cDmc s c e && !cNext s c e) then s1
    else if cDmc s c e then
      (match upperOf s c e with
       | some f => updRun s1 c f (fun r => r.upd 6 (fun y => { y with credSeen := true }))
       | none => s1)
    else grant s1 c e 7 (cWin s c e)
  if (lowerOf s c e).isSome then grant s2 c e 6 (if cNch s c e = 0 then 1 else cWin s c e) else s2

/-- R176: whether an entry has an edge to or from another cell, as a chunk names it. -/
def hasEdge (s : State) (c : Cell) (e k : Nat) : Bool :=
  if k = 7 then !cRoot s c e && !cNext s c e else decide (k < cNch s c e)

/-- R176, R195, R196: the early CREDITs of an entry at its launch: each is compared, SEQ last, and granted. -/
def takeEarly (s : State) (c : Cell) (e : Nat) : State :=
  let l := (cent s c e).early
  let s1 := setCent s c e { cent s c e with early := [] }
  l.foldl (fun t x =>
    match crun t c e with
    | none => t
    | some r =>
      match runDiff t c e r.desc r.ph 1 x.sig with
      | some f => abortHere t c e (0x10 + f)
      | none =>
        if x.seq ≠ r.seq then abortHere t c e 0x16
        else if hasEdge t c e x.edge then setRun t c e (r.upd x.edge (fun y => { y with cred := y.cred + x.n, credSeen := true }))
        else abortHere t c e 0x60) s1

/-- R204, R230: the out-of-range bits of a member's map are counted. -/
def countRange (s : State) (c : Cell) (d : BitVec 512) (m : Nat) : State :=
  if kSparse d ∧ kSmap d ≠ 0xFFFFF then countDrops s c (scanBits (kGeo d) m) else s

/-- R181: a launch that fails a check that aborts the group: each entry it would have started takes the instance as aborted,
and what it held for it is discarded (R175). An upper entry that still runs an instance before holds the abort as an early one
(R195, R197). -/
def launchLocal (s : State) (c : Cell) (es : List Nat) (d : BitVec 512) (seq : Nat) : State :=
  es.foldl (fun t e =>
    let cz : CCause := ⟨0x50, c.x.val, c.y.val, cLevel t c e⟩
    let x := cent t c e
    let n := if x.run.isSome then seq else (cLast t c e + 1) % 2 ^ 32
    let held := (x.abortOf n).isSome
    let t1 :=
      if x.run.isNone then takeAborted t c e n cz
      else if held then t
      else setCent t c e { x with aborts := x.aborts ++ [(n, cz)] }
    if held then t1 else sendAborts t1 c e (sigOf t c e d 0) n cz none) (countAbort s c 0x50)

/-- R181: the slots of the entries that run in a cell. -/
def slotsUsed (s : State) (c : Cell) : Nat :=
  (List.range 32).foldl (fun a e => if (crun s c e).isSome then a ||| cSlots s c e else a) 0

/-- R181: whether no two entries of a list name the same slot and none names a slot of a mask. -/
def slotsFree (s : State) (c : Cell) : List Nat → Nat → Bool
  | [], _ => true
  | e :: r, m => (cSlots s c e &&& m) == 0 && slotsFree s c r (m ||| cSlots s c e)

/-- R181: start the entries of a launch; a word of their scratch that an instance before left disturbed is read no more
(R387). -/
def launch (s : State) (c : Cell) (id e : Nat) (es : List Nat) (d : BitVec 512) : State :=
  let root := es.any (fun f => cRoot s c f)
  let undef := overlapBad s c e d (collBufs s c e d root)
  let s1 := es.foldl (fun t f => setRun t c f (newRun t c f d (if f = e then some id else none) root undef)) s
  let s2 := updCtx (scrClean s1 c es) (.ni c) id (fun x => { x with st := .waiting, issued := true, aux := e })
  let s3 := countRange s2 c d (match crun s2 c e with | some r => r.ownMap | none => 0)
  let s4 := es.foldl (fun t f => launchGrants t c f) s3
  cmSettle (es.foldl (fun t f => takeEarly t c f) s4) c

/-- R181: COLL. -/
def runColl (s : State) (c : Cell) (id : Nat) (x : Ctx) : State :=
  let d := x.desc
  match (List.range 32).find? (fun e => cValid s c e && cGroup s c e == kGroup d && cBase s c e) with
  | none => endColl s c id (causeErr 1) 0
  | some e =>
    let seq := (cLast s c e + 1) % 2 ^ 32
    let es := chainUp s c 4 e
    if (crun s c e).isSome then endColl s c id (causeErr 2) 0
    else
      match (cent s c e).abortOf seq with
      | some cz =>
        let s1 := es.foldl (fun t f =>
          let n := (cLast t c f + 1) % 2 ^ 32
          if (crun t c f).isNone = true ∧ ((cent t c f).abortOf n).isSome = true then takeAborted t c f n cz else t) s
        endColl s1 c id (causeErr cz.cause) (seqResult d seq)
      | none =>
        let top := es.any (fun f => cRoot s c f)
        let gatherShort := (kOp d == 3 || kOp d == 5) && es.any (fun f =>
          decide (0 < cNch s c f) && decide (popN (cSlots s c f) 6 < slotBudget s c f + 1))
        if slotsFree s c es (slotsUsed s c) = false ∨ gatherShort = true then endColl (launchLocal s c es d seq) c id (causeErr 3) (seqResult d seq)
        else if formatOk s c d (cMembers s c e) top = false then endColl (launchLocal s c es d seq) c id (causeErr 4) (seqResult d seq)
        else if (collBufs s c e d top).any (fun b => decide (Config.sramBytes < b.1 + b.2)) then endColl (launchLocal s c es d seq) c id (causeErr 5) (seqResult d seq)
        else launch s c id e es d

/-! ## Reading a member's chunks (R174, R175, R219, R221) -/

/-- R203: the elements of a tile of a member's dense tensor. -/
def srcTile (s : State) (c : Cell) (d : BitVec 512) (t : Nat) : List Byte :=
  let g := kGeo d
  (List.range g.edge).flatMap (fun y =>
    memRead s (unitSpace (.ni c)) (kSrc d + ((t / g.tc * g.edge + y) * kSld d + t % g.tc * g.edge) * g.eb) g.rowb)

/-- R219: a member's contribution for a tile. -/
def contribution (s : State) (c : Cell) (r : CRun) (t : Nat) : Nat :=
  let d := r.desc
  let g := kGeo d
  if r.ownMap.testBit t = false then 0
  else if kMode d = 0 then 0x3C
  else tileEstimate (kFmt d) (elemsOf g.eb (g.edge * g.edge) (srcTile s c d t))

/-- R174, R182-R184, R219, R221: own chunk i of a base entry. -/
def ownChunk (s : State) (c : Cell) (e : Nat) (r : CRun) (i : Nat) : List Byte :=
  let d := r.desc
  let f := phFmt d r.ph
  let len := chunkLen f (upElems s c e r) i
  if inCounts d r.ph then
    ((countVec s c d (cMembers s c e)).drop (1024 * i)).take 1024 |>.flatMap (bytesOf 4)
  else if inMap d r.ph then (List.range len).map (fun k => BitVec.ofNat 8 (contribution s c r (4096 * i + k)))
  else if kSparse d then
    let t2 := (kGeo d).edge * (kGeo d).edge
    (((keptTiles r).drop (i * (perChunk f / t2))).take (perChunk f / t2)).flatMap (fun t =>
      if r.ownMap.testBit t then srcTile s c d t else List.replicate (kGeo d).tb 0)
  else if inGather d r.ph then
    let own := ownRange s c e r
    if f = 6 then memRead s (unitSpace (.ni c)) (kSrc d + 4096 * (i - own.1 / 3968)) len
    else
      let lo := max own.1 (i * perChunk f)
      let hi := min (own.1 + own.2) ((i + 1) * perChunk f)
      let b := memRead s (unitSpace (.ni c)) (kSrc d + (lo - own.1) * elemBytes f) ((hi - lo) * elemBytes f)
      let pre := (lo - i * perChunk f) * elemBytes f
      List.replicate pre 0 ++ b ++ List.replicate (len - pre - b.length) 0
  else memRead s (unitSpace (.ni c)) (kSrc d + 4096 * i) len

/-- R230: tiles read for a data-up phase. -/
def countTiles (s : State) (c : Cell) (r : CRun) (i : Nat) : State :=
  if kSparse r.desc ∧ r.ph = 1 then
    let per := perChunk (kFmt r.desc) / ((kGeo r.desc).edge * (kGeo r.desc).edge)
    cntUp s (cellReg c 3 0xC008) 0 32 ((((keptTiles r).drop (i * per)).take per).filter (fun t => r.ownMap.testBit t)).length
  else s

/-- R174: CHUNK_READ. The top root of BROADCAST reads SRC for its down phase. -/
def chunkRead (s : State) (c : Cell) (e : Nat) : State :=
  match crun s c e with
  | none => s
  | some r =>
    let d := r.desc
    if clocked s c.field = false then s
    else if kOp d = 4 ∧ cRoot s c e = true then
      let n := nChunks (kFmt d) (kCount d)
      if r.read < n ∧ r.downs.length < (if cNch s c e = 0 then 1 else cWin s c e) then
        let b := memRead s (unitSpace (.ni c)) (kSrc d + 4096 * r.read) (chunkLen (kFmt d) (kCount d) r.read)
        cmSettle (downTake (scrWrote (setRun s c e { r with read := r.read + 1 }) c ⟨e, 9, 0, r.read, 0⟩) c e 0 r.read b (crc32c b) 0) c
      else s
    else if cBase s c e = false ∨ r.own.isSome = true ∨ slotOpen s c e r = false then s
    else
      match (((upList s c e r).filter (needsKid s c e r 6)).drop r.read).head? with
      | none => s
      | some i =>
        countTiles (setRun s c e { r with own := some (i, ownChunk s c e r i), read := r.read + 1 }) c r i

/-! ## Combining (R177) -/

/-- R177, R183: the result of chunk i and the B8 overflows on the way. -/
def combined (s : State) (c : Cell) (e : Nat) (r : CRun) (i : Nat) : List Byte × Nat :=
  let f := phFmt r.desc r.ph
  let own := (ownInput s c e r i).getD []
  let kids := (List.range (cNch s c e)).filter (fun k => needsKid s c e r k i)
  if inGather r.desc r.ph then
    let zero := List.replicate (chunkLen f (upElems s c e r) i) (0 : Byte)
    let a := if needsKid s c e r 6 i then placeRange f i (kidRange s c e r 6) zero own else zero
    (kids.foldl (fun a k => placeRange f i (kidRange s c e r k) a ((edgeChunk r k i).getD [])) a, 0)
  else
    kids.foldl (fun a k =>
      let x := chunkOp f (phRed r.desc r.ph) a.1 ((edgeChunk r k i).getD [])
      (x.1, a.2 + x.2)) (own, 0)

/-- R184: the counts vectors that a combine leaves: O and S_k. -/
def noteCounts (s : State) (c : Cell) (e : Nat) (r : CRun) (i : Nat) : State :=
  let add := fun (t : State) (k : Nat) (l : List Byte) =>
    let t1 := updRun t c e (fun x => { x with vecs := x.vecs.set k (cvec x k ++ elemsOf 4 (l.length / 4) l) })
    if cBase t c e then sramPut t1 c (kWork r.desc + 4 * vLen t c e r.desc * k + 4096 * i) l else t1
  (List.range (cNch s c e)).foldl (fun t k => add t (3 + k) ((edgeChunk r k i).getD [])) (add s 2 ((ownInput s c e r i).getD []))

/-- R225, R226: a map-up chunk reduced at the top root. -/
def noteMap (s : State) (c : Cell) (e : Nat) (r : CRun) (i : Nat) (l : List Byte) : State :=
  let d := r.desc
  if kMode d = 2 then
    let h := l.foldl (fun (m : FMap Nat) b => if b = 0 then m else FMap.set m b.toNat (FMap.get m b.toNat 0 + 1)) r.hist
    updRun (sramPut s c (r.ws + 4096 * i) l) c e (fun x => { x with hist := h })
  else
    let keep := fun (v : Nat) => decide ((fltOf 4).key 0 < (fltOf 4).key v) && (kMode d == 0 || estAtLeast v (kThr d))
    let m := l.zipIdx.foldl (fun a x => if keep x.1.toNat then a + 2 ^ (4096 * i + x.2) else a) 0
    updRun s c e (fun x => { x with map := x.map + m })

/-- R175, R177: free the inputs of chunk i. -/
def freeInputs (s : State) (c : Cell) (e : Nat) (r : CRun) (i : Nat) : State :=
  let drop := fun (t : State) (k : Nat) => updRun t c e (fun x => x.upd k (fun y => { y with slots := y.slots.filter (fun z => z.idx != i) }))
  let g := inGather r.desc r.ph
  let s1 := (List.range (cNch s c e)).foldl (fun t k =>
    if (edgeChunk r k i).isSome then (if k = 0 ∧ g = false then drop t k else grant (drop t k) c e k 1) else t) s
  if cBase s c e then updRun s1 c e (fun x => if needsKid s c e r 6 i then { x with own := none } else x)
  else if (edgeChunk r 6 i).isSome then (if cNch s c e = 0 then drop s1 6 else grant (drop s1 6) c e 6 1)
  else s1

/-- What becomes of a result: it waits to go up; or at the top root it begins the down phase, or stays there. -/
def placeResult (s : State) (c : Cell) (e : Nat) (r : CRun) (i : Nat) (l : List Byte) : State :=
  let d := r.desc
  if cRoot s c e = false then updRun s c e (fun x => { x with res := x.res ++ [⟨i, l, crc32c l⟩] })
  else if inCounts d r.ph then
    resultLeft (updRun s c e (fun x => { x with vecs := x.vecs.set 1 (((cvec x 1).take (1024 * i)) ++ elemsOf 4 (l.length / 4) l ++ (cvec x 1).drop (1024 * i + l.length / 4)) })) c e false
  else if inMap d r.ph then resultLeft (noteMap s c e r i l) c e false
  else if kOp d = 2 ∨ kOp d = 5 then resultLeft (writeData s c e r i l) c e (inGather d r.ph)
  else downTake s c e r.ph i l (crc32c l) 1

/-- R200: what the combining of an entry's next chunk is charged: 64 bytes per data unit. -/
def combineCost (s : State) (c : Cell) (e : Nat) : Nat :=
  match crun s c e, readyChunk s c e with
  | some r, some i => 64 * nduOf (chunkLen (phFmt r.desc r.ph) (upElems s c e r) i)
  | _, _ => 0

/-- R200: the group whose quantum lets it go next: deficit round robin charging 64 bytes per data unit. The fuel exceeds the
turns that a chunk of 64 data units needs among 32 groups. -/
def groupPick (qg cost : Nat → Nat) (gs : List Nat) : Nat → Drr → Option (Nat × Drr)
  | 0, _ => none
  | n + 1, d =>
    let g := d.gcur
    if gs.contains g ∧ cost g ≤ d.gdef.get g 0 then some (g, { d with gdef := d.gdef.set g (d.gdef.get g 0 - cost g) })
    else
      match rrPick (fun k => gs.contains k) (g + 1) 256 with
      | none => none
      | some g1 => groupPick qg cost gs n { d with gcur := g1, gdef := d.gdef.set g1 (d.gdef.get g1 0 + qg g1) }

/-- R200: the group that the pipeline serves next, where entry e stands for its group. -/
def combinePick (s : State) (c : Cell) (e : Nat) : Option (Nat × Drr) :=
  let es := (e :: List.range 32).filter (fun f => (readyChunk s c f).isSome)
  let gs := (es.map (cGroup s c)).eraseDups
  let cost := fun (g : Nat) => match es.find? (fun f => cGroup s c f == g) with
    | some f => combineCost s c f
    | none => 0
  groupPick (grpQuant s c) cost gs 2400 ((cmb s c).drr.only gs)

/-- The combining of chunk i of an entry. -/
def combineChunk (s : State) (c : Cell) (e : Nat) (r : CRun) (i : Nat) : State :=
  let x := combined s c e r i
  let s1 := if x.2 = 0 then s else setBits (cntUp s (cellReg c 4 0x24) 24 8 x.2) (cellReg c 4 4) 0x400
  let s2 := telNi (scrWrote (updRun s1 c e (fun y => { y with next := y.next + 1 })) c ⟨e, if cRoot s c e then 9 else 8, r.ph, i, 0⟩) c 10 1
  let s3 := if inCounts r.desc r.ph then noteCounts s2 c e r i else s2
  placeResult (freeInputs s3 c e r i) c e r i x.1

/-- R177, R200: CHUNK_COMBINE of the entry whose turn it is, with what SECDED finds in the scratch words read. -/
def chunkCombine (s : State) (c : Cell) (e : Nat) (ecc : Ecc) : State :=
  match crun s c e, readyChunk s c e, combinePick s c e with
  | some r, some i, some g =>
    if clocked s c.field = false ∨ g.1 ≠ cGroup s c e then s
    else
      let s0 := setCmb s c { cmb s c with drr := g.2 }
      cmSettle (scratch s0 c e (fun p => p.kind ≤ 6 && p.ph == r.ph && p.idx == i) ecc (fun t => combineChunk t c e r i)) c
  | _, _, _ => s

/-- R226: FINDER_TOP_PASS. The progress timer goes on from where it stood before the pass, or from where a CREDIT in the pass
set it. -/
def finderPass (s : State) (c : Cell) (e : Nat) : State :=
  match crun s c e with
  | none => s
  | some r =>
    let d := r.desc
    if clocked s c.field = true ∧ cRoot s c e = true ∧ inMap d r.ph = true ∧ kMode d = 2 ∧ r.gotMap.isNone = true ∧ upFormed s c e r = true then
      let nt := (kGeo d).nt
      let k := ceilDiv (kThr d % 65536 * nt) 65536
      let codes := (List.range 0x7C).map (fun i => 0x7C - i)
      let at' := fun (x : Nat) => r.hist.get x 0
      let pick := codes.foldl (fun (a : Nat × Option Nat) x =>
        match a.2 with
        | some _ => a
        | none => if k ≤ a.1 + at' x then (a.1, some x) else (a.1 + at' x, none)) (0, none)
      let cut := pick.2.getD 1
      let above := if pick.2.isSome then pick.1 else pick.1 - at' 1
      let vals := memRead s (unitSpace (.ni c)) r.ws nt
      let m := vals.zipIdx.foldl (fun (a : Nat × Nat) x =>
        let v := x.1.toNat
        if cut < v then (a.1 + 2 ^ x.2, a.2)
        else if v = cut ∧ a.2 < k - above then (a.1 + 2 ^ x.2, a.2 + 1) else a) (0, 0)
      let now := cyc s c.field
      cmSettle (updRun (rootMap s c e cut m.1) c e (fun x => { x with since := x.since + (now - max (x.passAt.getD now) x.since) })) c
    else s

/-! ## ALLTOALLV data (R185, R229) -/

/-- R185: the WRITEs of a member: each segment to its rank's cell, clipped at RCAP. DESIGN CHOICE (log entry 159): they are sent on
the queue's stream to a member even where it is BROKEN, since R103 names no COLL. -/
def a2aPlans (s : State) (c : Cell) (r : CRun) (cnt : List Nat) : List Plan × Nat :=
  let d := r.desc
  let eb := elemBytes (kFmt d)
  let rmap := fun (j : Nat) => natOf (memRead s (unitSpace (.ni c)) (kRmap d + 8 * j) 8)
  let x := cnt.zipIdx.foldl (fun (a : List Plan × Nat × Nat) y =>
    let p := cvAt r 0 y.2
    let n := min y.1 (kRcap d - p)
    let w := rmap y.2
    let dest := w / 65536 % 2 ^ 20 * 2 ^ 56 + w % 256 * 2 ^ 48 + w / 256 % 256 * 2 ^ 40 + (kDst d + p * eb)
    (a.1 ++ putPlans 3 dest (kSrc d + a.2.1 * eb) (n * eb) ((n * eb + 2047) / 2048), a.2.1 + y.1, a.2.2 + (y.1 - n))) ([], 0, 0)
  (x.1, x.2.2)

/-- R185: ALLTOALLV_WRITES at a member's base entry. -/
def a2aWrites (s : State) (c : Cell) (e : Nat) : State :=
  match crun s c e with
  | none => s
  | some r =>
    match r.ctx with
    | none => s
    | some id =>
      if clocked s c.field = true ∧ kOp r.desc = 6 ∧ r.ph = 1 ∧ r.a2a = false then
        let cnt := countVec s c r.desc (cMembers s c e)
        let x := a2aPlans s c r cnt
        let t := cvAt r 1 (cw s c e 4 0 24)
        let inD := t - min t (kRcap r.desc)
        let s1 := setRun s c e { r with a2a := true, outDrop := x.2, inDrop := inD }
        let s2 := cntUp (cntUp s1 (cellReg c 3 0xC00C) 0 32 (min x.2 (2 ^ 24 - 1))) (cellReg c 3 0xC010) 0 32 (min inD (2 ^ 24 - 1))
        let s3 := setBits s2 (cellReg c 3 0xC014) (4 * b2n (x.2 != 0) + 8 * b2n (inD != 0))
        cmSettle (updCtx s3 (.ni c) id (fun y => { y with todo := x.1 })) c
      else s

/-- R185: an ALLTOALLV whose WRITE failed or timed out ends with cause DATA. -/
def collSweep (s : State) (c : Cell) : State :=
  (List.range 32).foldl (fun t e =>
    match crun t c e with
    | none => t
    | some r =>
      match r.ctx with
      | none => t
      | some id =>
        match ctxOf t (.ni c) id with
        | some x => if x.err.isSome then cmSettle (abortHere t c e 0x70) c else t
        | none => t) (cmSettle s c)

/-! ## Sending (R175, R178, R179, R220) -/

/-- R179: the up TOKEN of an entry is due. -/
def upTokDue (s : State) (c : Cell) (e : Nat) (r : CRun) : Bool :=
  !r.upTok && r.res.isEmpty && upFormed s c e r && r.upSent == (upList s c e r).length && gateOpen s c e r && (r.edge 7).credSeen

/-- A DATA chunk or TOKEN reaches the entry one level up. -/
def intoUpper (s : State) (c : Cell) (e f : Nat) (g : CEdge → CEdge) (k : State → State) : State :=
  intoChain s c e f (fun t => k (progress (updRun t c f (fun x => x.upd 6 (fun y => { g y with passed := true }))) c f))

/-- CHUNK_SEND toward the parent or the entry above. -/
def sendUp (s : State) (c : Cell) (e : Nat) (r : CRun) (ecc : Ecc) : State :=
  let g := sigOf s c e r.desc r.ph
  if cRoot s c e then s
  else if upTokDue s c e r then
    let s1 := setRun s c e { r with upTok := true }
    if cNext s c e then
      match upperOf s c e with
      | some f => intoUpper s1 c e f (fun y => { y with tok := some r.upSent }) (fun t => t)
      | none => s1
    else cmQueue s1 c (chunkPkt (chunkInl s c e 0 0 3 (cPidx s c e) g r.seq 0 r.upSent) (parentAddr s c e) [] 0)
  else
    match r.res with
    | [] => s
    | x :: rest =>
      if gateOpen s c e r = false ∨ (r.edge 7).cred = 0 then s
      else
        let r1 := ({ r with res := rest, upSent := r.upSent + 1, upDone := r.upDone + 1 }).upd 7 (fun y => { y with cred := y.cred - 1 })
        scratch s c e (fun p => p.kind == 8 && p.ph == r.ph && p.idx == x.idx) ecc (fun t =>
          if cNext t c e then
            match upperOf t c e with
            | some f =>
              intoUpper (setRun t c e r1) c e f (fun y =>
                { y with got := y.got + 1, granted := y.granted - 1, slots := y.slots ++ [⟨x.idx, some x.bytes, some [], x.crc⟩] })
                (fun a => resultLeft (scrWrote a c ⟨f, 6, r.ph, x.idx, 0⟩) c e (inGather r.desc r.ph))
            | none => t
          else
            queueData (setRun t c e { r1 with leaving := r1.leaving + 1 }) c
              (fun half l port => chunkPkt (chunkInl s c e 0 half 0 (cPidx s c e) g r.seq x.idx x.crc) (parentAddr s c e) l port) x.bytes (1 + e))

/-- R179, R220: the TOKEN or MAP due to a target: its phase and kind. -/
def downTokDue (r : CRun) (t : Nat) : Option (Nat × Nat) :=
  let item := if 100 ≤ t then 8 else t
  (List.range r.ended).findSome? (fun p =>
    if r.downs.any (fun x => x.ph == p && x.todo.contains item) then none
    else if !r.dtok.contains (sentKey p t) then some (p, 3)
    else if inMap r.desc p && !r.dmap.contains (sentKey p t) then some (p, 4)
    else none)

/-- What the TOKEN (3) or MAP (4) of a phase says: its CIDX and CRC fields. -/
def tokFields (r : CRun) (p kind t : Nat) : Nat × Nat :=
  if kind = 3 then (0, r.dsent.get (16 * p + (if 100 ≤ t then 8 else t)) 0)
  else match r.gotMap with
    | some m => m
    | none => (0, 0)

/-- Send a TOKEN or MAP down. -/
def sendTok (s : State) (c : Cell) (e : Nat) (r : CRun) (t p kind : Nat) : State :=
  let f := tokFields r p kind t
  let s1 := setRun s c e (if kind = 3 then { r with dtok := sentKey p t :: r.dtok } else { r with dmap := sentKey p t :: r.dmap })
  if t = 6 then
    match lowerOf s c e with
    | none => s1
    | some l =>
      intoChain s1 c e l (fun t =>
        if kind = 3 then progress (updRun t c l (fun x => x.upd 7 (fun y => { y with tok := some f.2, passed := true }))) c l
        else updRun t c l (fun x => { x with gotMap := some f }))
  else
    let dest := if 100 ≤ t then waferLocal * 2 ^ 56 + (t - 100) % 240 * 2 ^ 48 + (t - 100) / 240 * 2 ^ 40 else childAddr s c e t
    cmQueue s1 c (chunkPkt (chunkInl s c e 1 0 kind 0 (sigOf s c e r.desc p) r.seq f.1 f.2) dest [] 0)

/-- The mark of the packet that carries the last flit of a down chunk: its entry and phase, above the 32 marks of results. -/
def downMark (e ph : Nat) : Nat := 33 + e + 32 * ph

/-- R175: whether an edge lets a down chunk go: a credit, but for a multicast and a DMC root's entry. -/
def downCredit (s : State) (c : Cell) (e : Nat) (r : CRun) (t : Nat) : Bool :=
  t == 8 || decide (0 < (r.edge t).cred) || (t == 6 && (match lowerOf s c e with
    | some l => cDmc s c l
    | none => false))

/-- Send a down chunk to a target; its slot stays in use until the packets have entered C (`itemFree`). DESIGN CHOICE (log entry 40): in a counts phase under DMC the one multicast carries the
same prefixes to every member (R178), so that R184's prefix of each child is not added. -/
def sendItem (s : State) (c : Cell) (e : Nat) (r : CRun) (t : Nat) (x : CItem) : State :=
  let l := if inCounts r.desc x.ph ∧ t ≠ 8 then countsFor s c e r t x.idx x.bytes else x.bytes
  let crc := if inCounts r.desc x.ph ∧ t < 6 then crc32c l else x.crc
  let todo := x.todo.filter (fun y => y != t)
  let key := 16 * x.ph + t
  let downs := r.downs.map (fun y => if y = x then { y with todo := todo, out := y.out + (if t = 6 then 0 else 1) } else y)
  let r1 := ({ r with downs := downs, dsent := r.dsent.set key (r.dsent.get key 0 + 1) }).upd t (fun y => { y with cred := y.cred - 1 })
  let s1 := setRun s c e r1
  let mk := fun (half : Nat) (b : List Byte) (port : Nat) =>
    let inl := chunkInl s c e 1 half 0 0 (sigOf s c e r.desc x.ph) r.seq x.idx crc
    if t = 8 then { chunkMcast s c e inl b with port := port } else chunkPkt inl (childAddr s c e t) b port
  let s2 :=
    if t = 6 then
      match lowerOf s c e with
      | none => s1
      | some f =>
        intoChain s1 c e f (fun a =>
          let s3 := progress (updRun a c f (fun z => { z.upd 7 (fun y => { y with got := y.got + 1, granted := y.granted - 1 }) with downDone := z.downDone + 1 })) c f
          downTake (scrWrote s3 c ⟨f, 9, x.ph, x.idx, 0⟩) c f x.ph x.idx l crc (if cDmc s c f then 0 else 2))
    else queueData s1 c mk l (downMark e x.ph)
  itemFree s2 c e x.ph x.idx

/-- CHUNK_SEND toward a target below. -/
def sendDown (s : State) (c : Cell) (e : Nat) (r : CRun) (t : Nat) (ecc : Ecc) : State :=
  if cRoot s c e = true ∧ gateOpen s c e r = false then s
  else
    match (if (tokenTargets s c e).contains t ∧ (100 ≤ t ∨ (r.edge t).credSeen = true) then downTokDue r t else none) with
    | some (p, kind) => sendTok s c e r t p kind
    | none =>
      match r.downs.find? (fun x => x.todo.contains t) with
      | some x => if downCredit s c e r t then scratch s c e (fun p => p.kind == 9 && p.ph == x.ph && p.idx == x.idx) ecc (fun a => sendItem a c e r t x) else s
      | none => s

/-- R174, R175: CHUNK_SEND, with what SECDED finds in the scratch words it sends. -/
def chunkSend (s : State) (c : Cell) (e : Nat) (edge : Edge) (ecc : Ecc) : State :=
  match crun s c e with
  | none => s
  | some r =>
    if clocked s c.field = false then s
    else
      cmSettle (match edge with
        | .up => sendUp s c e r ecc
        | .down k => sendDown s c e r k.val ecc
        | .dmc => sendDown s c e r 8 ecc
        | .member m => sendDown s c e r (100 + m.key) ecc) c

/-! ## Arrivals (R172, R176, R195) -/

/-- R195: a late chunk. -/
def dropLate (s : State) (c : Cell) : State := setBits (cntUp s (cellReg c 4 8) 16 16 1) (cellReg c 4 4) 2

/-- The edge that a chunk names: its child, which is below 6 where there is one, or 7 for the parent. -/
def edgeName (h : Payload) : Nat := if hInl h 10 1 = 1 then 7 else if hInl h 15 3 < 6 then hInl h 15 3 else 16 + hInl h 15 3

/-- The edge on which a chunk arrives, if the entry has it (R176). -/
def edgeOf (s : State) (c : Cell) (e : Nat) (h : Payload) : Option Nat :=
  if hasEdge s c e (edgeName h) then some (edgeName h) else none

/-- R176: a protocol error of the running instance. -/
def protocolErr (s : State) (c : Cell) (e : Nat) : State := abortHere s c e 0x60

/-- R174, R176: a DATA half lands; a complete chunk is verified, and a down chunk is read from its slot to be written and
forwarded. -/
def dataLand (s : State) (c : Cell) (e : Nat) (r : CRun) (k : Nat) (p : RxPkt) (ecc : Ecc) : State :=
  let h := p.hdr
  let i := hInl h 88 8
  let half := hInl h 11 1
  let crc := hInl h 96 32
  let bs := dataBytes h p.data
  let up := k ≠ 7
  let f := if up then phFmt r.desc r.ph else if inMap r.desc r.ph then 4 else if inCounts r.desc r.ph then 5 else kFmt r.desc
  let n := if up then upElems s c e r else downElems s c e r r.ph
  let y := r.edge k
  let old := y.slots.find? (fun x => x.idx == i)
  let free := dmcLeaf s c e && k == 7
  if decide (nChunks f n ≤ i) || (old.isNone && y.granted == 0 && !free) ||
      old.any (fun x => (if half = 0 then x.h0 else x.h1).isSome) then protocolErr s c e
  else
    let len := chunkLen f n i
    let x0 : CSlot := old.getD ⟨i, none, if len ≤ 2048 then some [] else none, crc⟩
    let x := if half = 0 then { x0 with h0 := some bs } else { x0 with h1 := some bs }
    let y1 := { y with
      passed := true, granted := if old.isNone then y.granted - 1 else y.granted,
      slots := if old.isNone then y.slots ++ [x] else y.slots.map (fun z => if z.idx = i then x else z) }
    let s1 := progress ((fun t => if free then t else scrWrote t c ⟨e, if up then k else 9, r.ph, i, half⟩) (setRun s c e (r.upd k (fun _ => y1)))) c e
    match x.full with
    | none => if x0.crc = crc then s1 else abortHere s1 c e 0x30
    | some l =>
      if l.length ≠ len ∨ crc32c l ≠ crc ∨ x0.crc ≠ crc then abortHere s1 c e 0x30
      else if up then updRun s1 c e (fun z => z.upd k (fun w => { w with got := w.got + 1 }))
      else
        let s2 := updRun s1 c e (fun z => { z.upd 7 (fun w => { w with got := w.got + 1, slots := w.slots.filter (fun v => v.idx != i) }) with downDone := z.downDone + 1 })
        if free then downTake s2 c e r.ph i l crc 0 else scratch s2 c e (fun p => p.kind == 9 && p.ph == r.ph && p.idx == i) ecc (fun t => downTake t c e r.ph i l crc 2)

/-- The effect of a current chunk whose signature agrees. DESIGN CHOICE (log entry 163): an ABORT that names an edge the entry does
not have ends the instance with its own cause (R199, R315), not with PROTOCOL (R176). -/
def currentChunk (s : State) (c : Cell) (e : Nat) (r : CRun) (p : RxPkt) (ecc : Ecc) : State :=
  let h := p.hdr
  let kind := hInl h 12 3
  if kind = 2 then
    let cz : CCause := ⟨hInl h 88 8, hInl h 96 8, hInl h 104 8, hInl h 112 2⟩
    abortInst s c e cz (some (hSw h * 65536 + hSx h * 256 + hSy h))
  else
    match edgeOf s c e h with
    | none => protocolErr s c e
    | some k =>
      if kind = 0 then dataLand s c e r k p ecc
      else if kind = 1 then
        progress (setRun s c e (r.upd k (fun y => { y with cred := y.cred + hInl h 88 8, credSeen := true }))) c e
      else if kind = 3 then progress (setRun s c e (r.upd k (fun y => { y with tok := some (hInl h 96 32), passed := true }))) c e
      else if kSparse r.desc = false ∨ k ≠ 7 then protocolErr s c e
      else setRun s c e { r with gotMap := some (hInl h 88 8, hInl h 96 32) }

/-- R195: a chunk is compared with the entry it names and takes its effect. -/
def chunkArrive (s : State) (c : Cell) (p : RxPkt) (ecc : Ecc) : State :=
  let h := p.hdr
  let kind := hInl h 12 3
  match entryAt s c (hInl h 0 8) (hInl h 8 2) with
  | none => setBits (cntUp s (cellReg c 4 8) 0 16 1) (cellReg c 4 4) 1
  | some e =>
    let seq := hInl h 56 32
    let diff := (seq + 2 ^ 32 - entrySeq s c e) % 2 ^ 32
    let src := some (hSw h * 65536 + hSx h * 256 + hSy h)
    match crun s c e with
    | some r =>
      if diff = 0 then
        match runDiff s c e r.desc r.ph kind (hdrSig h) with
        | some f => abortHere s c e (0x10 + f)
        | none => currentChunk s c e r p ecc
      else if diff = 1 ∧ (kind = 1 ∨ kind = 2) then earlyTake s c e h seq src
      else if 2 ^ 32 - 16 ≤ diff then dropLate s c
      else abortHere s c e 0x16
    | none =>
      if diff = 1 then
        if kind = 1 ∨ kind = 2 then earlyTake s c e h seq src
        else if ((cent s c e).abortOf seq).isSome then s
        else
          earlyAbort (countAbort s c 0x16) c e (hdrSig h) seq ⟨0x16, c.x.val, c.y.val, cLevel s c e⟩ none
      else dropLate s c
where
  /-- R195: an early CREDIT or ABORT. -/
  earlyTake (s : State) (c : Cell) (e : Nat) (h : Payload) (seq : Nat) (src : Option Nat) : State :=
    if hInl h 12 3 = 2 then
      earlyAbort s c e (hdrSig h) seq ⟨hInl h 88 8, hInl h 96 8, hInl h 104 8, hInl h 112 2⟩ src
    else
      setCent s c e { cent s c e with early := (cent s c e).early ++ [⟨edgeName h, hInl h 88 8, hdrSig h, seq⟩] }

/-- R172: a chunk of a reserved kind. DESIGN CHOICE (log entry 162): one that is late, or names no valid entry, counts as no more than
that. -/
def reservedChunk (s : State) (c : Cell) (p : RxPkt) : State :=
  let h := p.hdr
  let s1 := setBits s (cellReg c 4 4) 0x20
  match entryAt s c (hInl h 0 8) (hInl h 8 2) with
  | none => s1
  | some e =>
    match crun s c e with
    | some r => if r.seq = hInl h 56 32 then protocolErr s1 c e else s1
    | none => s1

/-- The kind of the chunk that a combine unit takes next; 8: a packet that is no chunk or is malformed (R83). -/
def nextKind (s : State) (c : Cell) : Option Nat :=
  (cmb s c).inbox.head?.map (fun p => if hCmd p.hdr ≠ 8 ∨ malformed p.hdr false = true then 8 else hInl p.hdr 12 3)

/-- R106, R178: the copy of a unit's own multicast that reaches it is discarded. -/
def ownMcast (s : State) (c : Cell) (h : Payload) : Bool :=
  hMcast h && hSx h == c.x.val && hSy h == c.y.val && isLocal s c.field (hSw h)

/-- R176: take the next chunk if its kind is one of those given. -/
def takeChunk (s : State) (c : Cell) (kinds : List Nat) (ecc : Ecc) : State :=
  match (cmb s c).inbox, nextKind s c with
  | p :: r, some k =>
    if clocked s c.field = false ∨ kinds.contains k = false then s
    else
      let s1 := setCmb s c { cmb s c with inbox := r }
      if ownMcast s c p.hdr then s1
      else if k = 8 then cntUp s1 (cellReg c 3 0x81C) 0 8 1
      else if 5 ≤ k then cmSettle (reservedChunk s1 c p) c
      else cmSettle (chunkArrive s1 c p ecc) c
  | _, _ => s

/-! ## Timers and software (R198, R201, R317) -/

/-- R198: whether the up part of the present phase waits for child k: for the next chunk it has to form (R177), for the
TOKEN where no chunk is left (R179), or for the comparisons that hold back the first chunk up (R196). -/
def awaitsUp (s : State) (c : Cell) (e : Nat) (r : CRun) (k : Nat) : Bool :=
  (match ((upList s c e r).drop r.next).head? with
   | some i => needsKid s c e r k i && (edgeChunk r k i).isNone
   | none => (r.edge k).tok != some (r.edge k).got) ||
  (r.upSent == 0 && !r.res.isEmpty && !(r.edge k).passed)

/-- R198: the missing party: the lowest child the entry waits for, or 15 for the parent. -/
def missing (s : State) (c : Cell) (e : Nat) (r : CRun) : Nat :=
  let open' := fun (k : Nat) => r.ended != kPhases r.desc && !r.upTok && !(cRoot s c e && upFormed s c e r) && awaitsUp s c e r k
  let owed := fun (k : Nat) => r.downs.any (fun x => x.todo.contains k) || (downTokDue r k).isSome
  let kids := List.range (cNch s c e)
  match kids.find? (fun k => open' k || (!cDmc s c e && owed k && (r.edge k).cred == 0)) with
  | some k => k
  | none => (if cDmc s c e then none else kids.find? owed).getD 15

/-- R198: PROGRESS_TIMEOUT. It does not run during the Finder pass (R226). -/
def progressTimeout (s : State) (c : Cell) (e : Nat) : State :=
  match crun s c e with
  | none => s
  | some r =>
    let passing := cRoot s c e && inMap r.desc r.ph && kMode r.desc == 2 && r.gotMap.isNone && upFormed s c e r
    if clocked s c.field = true ∧ passing = false ∧ r.since + r.tmo ≤ cyc s c.field then
      cmSettle (abortHere s c e (0x20 + missing s c e r)) c
    else s

/-- R201: software aborts an entry's instance. -/
def swAbort (s : State) (c : Cell) (e : Nat) : State :=
  if (crun s c e).isSome then cmSettle (abortHere s c e 0x80) c else s

/-- R317: abort every RUNNING entry with a tree edge to a wafer. -/
def lostWafer (s : State) (c : Cell) (wafer : Nat) : State :=
  let own := fun (w : Nat) => if w = waferLocal then waferOf s c.field else w
  let hits := fun (t : State) (e : Nat) => (!cRoot t c e && own (cw t c e 3 0 20) == own wafer) ||
    (List.range (cNch t c e)).any (fun k => own (cw t c e (9 + 2 * k) 0 20) == own wafer)
  cmSettle ((List.range 32).foldl (fun t e => if (crun t c e).isSome && hits t e then abortHere t c e 0x40 else t) s) c

/-- R199: a chunk of a combine unit found no eligible path. -/
def chunkNoPath (s : State) (c : Cell) (z : TxPkt) : State :=
  if hInl z.hdr 12 3 = 2 then s
  else
    match entryAt s c (hInl z.hdr 0 8) (hInl z.hdr 8 2) with
    | none => s
    | some e =>
      match crun s c e with
      | some r => if r.seq = hInl z.hdr 56 32 then abortHere s c e 0x51 else s
      | none => s

/-! ## Sharing the C input (R200) -/

/-- R179, R200: the HEAD_TAIL packets of a queue that go before DATA, and the others: a TOKEN or MAP follows the DATA of
its group that the unit sent before it. -/
def splitHt : List TxPkt → List Nat → List TxPkt × List TxPkt
  | [], _ => ([], [])
  | z :: r, gs =>
    let k := hInl z.hdr 12 3
    if z.data.isEmpty && (k == 1 || k == 2 || !gs.contains z.grp) then
      let x := splitHt r gs
      (z :: x.1, x.2)
    else
      let x := splitHt r (z.grp :: gs)
      (x.1, z :: x.2)

/-- R93: whether a chunk packet of a combine unit waits with every first hop unusable. -/
def cmbBlocked (s : State) (c : Cell) (z : TxPkt) : Bool :=
  !hMcast z.hdr && (match choosePath s (.ni c) c z.cls z.hdr c.x.val c.y.val z.via with
    | .blocked => true
    | _ => false)

/-- R200: the packets of a combine unit in the order in which they may start, and the arbitration state after it. The turn goes
to a group whose packet may go now (R93). -/
def cmbOrder (s : State) (c : Cell) : List TxPkt × Drr :=
  let t := txEnd s (.cmb c)
  let x := splitHt t.queue []
  let now := x.2.filter (fun z => !cmbBlocked s c z)
  if x.1.any (fun z => !cmbBlocked s c z) = true ∨ now.isEmpty = true then (x.1 ++ x.2, t.drr)
  else
    let cost := fun (g : Nat) => match now.find? (fun z => z.grp == g) with
      | some z => 64 * z.data.length
      | none => 64
    match groupPick (grpQuant s c) cost (now.map (fun z => z.grp)).eraseDups 2400
        (t.drr.only (x.2.map (fun z => z.grp)).eraseDups) with
    | some (g, d) => (x.1 ++ (x.2.filter (fun z => z.grp == g) ++ x.2.filter (fun z => z.grp != g)), d)
    | none => (x.1 ++ x.2, t.drr)

/-- R175: a chunk's last flit has entered the router's C input: a result's slot is freed, and that of a down chunk which has
gone to all its targets. -/
def cmbAfter (s t : State) (c : Cell) : State :=
  match lget (txEnd s (.cmb c)).cur 2 none, lget (txEnd t (.cmb c)).cur 2 none with
  | some z, none =>
    if z.pkt.port = 0 then t
    else
      let e := (z.pkt.port - 1) % 32
      match crun t c e with
      | some r =>
        if r.seq = hInl z.pkt.hdr 56 32 then
          cmSettle (if z.pkt.port ≤ 32 then resultLeft (setRun t c e { r with leaving := r.leaving - 1 }) c e (inGather r.desc r.ph)
            else
              let ph := (z.pkt.port - 33) / 32
              let i := hInl z.pkt.hdr 88 8
              itemFree (setRun t c e { r with
                downs := r.downs.map (fun y => if y.ph = ph ∧ y.idx = i then { y with out := y.out - 1 } else y) }) c e ph i) c
        else t
      | none => t
  | _, _ => t

/-! ## The commands -/

/-- COLL (R181). A domain that drains launches nothing: the descriptor waits in its ring (R361). -/
def execColl (c : Cell) (q : Fin 16) (s : State) : Host.Outcome State Fault Refusal :=
  .next (if (dom s c.field).st = .run then startOp s (.ni c) q.val 3 (fun t id x => runColl t c id x) else s)

/-- CHUNK_READ (R174). -/
def execChunkRead (c : Cell) (e : Fin 32) (s : State) : Host.Outcome State Fault Refusal := .next (chunkRead s c e.val)

/-- DATA_CHUNK (R176); it also takes the chunks that are discarded whole. -/
def execDataChunk (c : Cell) (ecc : Ecc) (s : State) : Host.Outcome State Fault Refusal :=
  .next (takeChunk s c [0, 5, 6, 7, 8] ecc)

/-- CREDIT_CHUNK (R175). -/
def execCreditChunk (c : Cell) (s : State) : Host.Outcome State Fault Refusal := .next (takeChunk s c [1] .ok)

/-- ABORT_CHUNK (R197). -/
def execAbortChunk (c : Cell) (s : State) : Host.Outcome State Fault Refusal := .next (takeChunk s c [2] .ok)

/-- TOKEN_CHUNK (R179). -/
def execTokenChunk (c : Cell) (s : State) : Host.Outcome State Fault Refusal := .next (takeChunk s c [3] .ok)

/-- MAP_CHUNK (R220). -/
def execMapChunk (c : Cell) (s : State) : Host.Outcome State Fault Refusal := .next (takeChunk s c [4] .ok)

/-- CHUNK_COMBINE (R177). -/
def execChunkCombine (c : Cell) (e : Fin 32) (ecc : Ecc) (s : State) : Host.Outcome State Fault Refusal :=
  .next (chunkCombine s c e.val ecc)

/-- CHUNK_SEND (R175). -/
def execChunkSend (c : Cell) (e : Fin 32) (edge : Edge) (ecc : Ecc) (s : State) : Host.Outcome State Fault Refusal :=
  .next (chunkSend s c e.val edge ecc)

/-- PROGRESS_TIMEOUT (R198). -/
def execProgressTimeout (c : Cell) (e : Fin 32) (s : State) : Host.Outcome State Fault Refusal :=
  .next (progressTimeout s c e.val)

/-- FINDER_TOP_PASS (R226). -/
def execFinderTopPass (c : Cell) (e : Fin 32) (s : State) : Host.Outcome State Fault Refusal := .next (finderPass s c e.val)

/-- ALLTOALLV_WRITES (R185). -/
def execAlltoallvWrites (c : Cell) (e : Fin 32) (s : State) : Host.Outcome State Fault Refusal := .next (a2aWrites s c e.val)

end Sys2Proof.Machine
end

