-- ==== Sys2Proof/Machine/Optical.lean ====
section
/-! DEFINITION. Optical links (R286-R296) with their discovery, admission and loss (R308-R315): lane test, training,
codewords, the retry numbering of R292, the ingress, and what a lost link answers. -/

namespace Sys2Proof.Machine

/-! ## Registers and outcomes -/

/-- R300: a register of a link's OPT_ block. -/
def optReg (o : OptId) (off : Nat) : Nat := gwReg o.gw 1 off

/-- Set bits of OPT_ERR. -/
def optErr (s : State) (o : OptId) (mask : Nat) : State := setBits s (optReg o 0x14) mask

/-- The band clock of a link. -/
def optCyc (s : State) (o : OptId) : Nat := cyc s (48 + o.side.val)

/-- R300: OPT_STAT.STATE. -/
def optState (s : State) (o : OptId) : Nat :=
  match (opt s o).st with
  | .down => 0
  | .laneTest => 1
  | .train => 2
  | .disabled => 6
  | _ =>
    match (link s (.optical o)).st with
    | .replay => 4
    | .fail => 5
    | _ => 3

/-- R311: STATE is UP or REPLAY. -/
def optUpNow (s : State) (o : OptId) : Bool := optState s o == 3 || optState s o == 4

/-- R341: what happens on the link spoils the time exchange whose REQ has been sent; it counts as discarded at once. -/
def spoil (s : State) (o : OptId) : State :=
  match (opt s o).exch with
  | none => s
  | some x =>
    if x.sent = true ∧ x.spoiled = false then
      cntUp (updOpt s o (fun y => { y with exch := some { x with spoiled := true } })) (optReg o 0x74) 16 8 1
    else s

/-- R328: T40 with its fraction, as a band's copy shows it. -/
def t40 (s : State) (o : OptId) : Nat := (dom s (48 + o.side.val)).mer.vis % 72057594037927936

/-- R330: the UNSYNC bit of a TIME packet and of an exchange: the inverse of MER_CTRL.LOCK. -/
def merUnsync (s : State) : Bool := !bit (rd s (svcReg 1 0)) 0

/-- R309: the expectation that a link's gateway holds for link n: serial, port, validity, from the copies of its band. -/
def expectOf (s : State) (o : OptId) (n : Nat) : BitVec 64 × Nat × Bool :=
  let r := fun off => copyOf s (48 + o.side.val) (optReg (optOf n) off)
  (BitVec.ofNat 64 ((r 0x24).toNat + 4294967296 * (r 0x28).toNat), bits (r 0x2C) 0 6, bit (r 0x2C) 31)

/-- R291: this link's own expectation. -/
def expectOwn (s : State) (o : OptId) : BitVec 64 × Nat × Bool :=
  let r := fun off => rd s (optReg o off)
  (BitVec.ofNat 64 ((r 0x24).toNat + 4294967296 * (r 0x28).toNat), bits (r 0x2C) 0 6, bit (r 0x2C) 31)

/-- The peer's identity as received: serial and port. -/
def peerId (s : State) (o : OptId) : BitVec 64 × Nat :=
  (BitVec.ofNat 64 ((rd s (optReg o 0x18)).toNat + 4294967296 * (rd s (optReg o 0x1C)).toNat), rdF s (optReg o 0x20) 0 6)

/-- R291: the comparison: 1 MATCH, 2 DIFFER, 4 UNEXPECTED. -/
def compareId (s : State) (o : OptId) : Nat :=
  let e := expectOwn s o
  let p := peerId s o
  if e.2.2 = false then 4 else if e.1 = p.1 ∧ e.2.1 = p.2 then 1 else 2

/-- R309: the lowest other link whose expectation the peer meets. -/
def miswiredAt (s : State) (o : OptId) : Option Nat :=
  let p := peerId s o
  (List.range 64).find? (fun k => k != o.port && (let e := expectOf s o k; e.2.2 && e.1 == p.1 && e.2.1 == p.2))

/-- R309: the outcome, MATCH_LINK and QREASON. -/
def outcomeOf (s : State) (o : OptId) : Nat × Nat × Nat :=
  let x := opt s o
  match x.disc with
  | 0 => (if (expectOwn s o).2.2 = false then 0 else if x.waited then 2 else 1, 0, 0)
  | 3 => (3, 0, 3)
  | 1 => (if x.admits then 6 else 5, 0, 0)
  | d =>
    match miswiredAt s o with
    | some k => (4, k, 0)
    | none => (3, 0, if d = 4 then 1 else 2)

/-- R311: whether the link forwards packets and welt flits of its wafer. -/
def forwards (s : State) (o : OptId) : Bool := optUpNow s o && (outcomeOf s o).1 == 6

/-- R311: whether a packet may cross the link now: the link-local ones on a match, the others when admitted. -/
def mayCross (s : State) (o : OptId) (h : Payload) : Bool :=
  if hDw h = waferLocal then optUpNow s o && (opt s o).disc == 1 else forwards s o

/-- R311: whether packets for the link wait: it is in LANE_TEST or TRAIN and has not been lost. -/
def mayWait (s : State) (o : OptId) : Bool :=
  let x := opt s o
  ((x.st == .laneTest || x.st == .train) && !x.lost)

/-! ## Losing a link (R314, R315) -/

/-- R315: the ABORT that answers a chunk: its inline header with KIND 2 and cause LINK_LOST, back to its source. -/
def abortAnswer (s : State) (h : Payload) (c : Cell) (j : Nat) : TxPkt :=
  { hdr := hSet 0 [(0, 4, 8), (4, 2, 2), (14, 5, 16), (152, 76, replyAddr s h 0), (384, 128, hf h 384 128), (396, 3, 2),
      (472, 8, 0x40), (480, 32, c.x.val + 256 * c.y.val + 65536 * hInl h 8 2)],
    data := [], cls := 2, grp := hGroup h, req := none, ctx := none, q := none, port := j, raw := false, via := none, loss := true }

/-- R315: answer one packet held for a link. -/
def answerOne (s : State) (o : OptId) (h : Payload) (j : Nat) : State :=
  let u := UnitRef.gw o.gw
  let up := fun (s : State) => cntUp s (optReg o 0x48) 0 16 1
  if hCmd h = 8 then
    let key := (hGroup h, hInl h 56 32)
    if (opt s o).answered.contains key then s
    else
      let e := EndRef.gw o.gw (Fin.ofNat 16 j)
      let s1 := updOpt s o (fun x => { x with answered := key :: x.answered })
      up (setTxEnd s1 e { txEnd s1 e with queue := (txEnd s1 e).queue ++ [abortAnswer s h (attCell o.gw j) j] })
  else if hCmd h = 10 then s
  else
    match refusal s h 6 j with
    | some z => up (pushResp s u { z with loss := true })
    | none => cntUp s (optReg o 0x48) 24 8 1

/-- R315: answer packets held. -/
def answerAll (s : State) (o : OptId) (l : List (Payload × Nat)) : State :=
  l.foldl (fun t x => answerOne t o x.1 x.2) s

/-- R315: the header units in a replay buffer that no loss has answered yet. -/
def replayHdrs (l : LinkEnd) : List Payload :=
  ((l.replay.filter (fun r => r.welt.isNone && r.ctl.ty != 2 && r.hdr != 0)).map (fun r => r.hdr)).eraseDups

/-- R315: everything a gateway holds for its link is answered, once. -/
def flushHeld (s : State) (o : OptId) : State :=
  let e := EndRef.optical o
  let x := opt s o
  let at' := fun h => (h, attIndex o.gw (hOff h) (hSx h) (hSy h))
  let sent := replayHdrs (link s e)
  let inTx := (x.txCur.map (fun y => y.2.pkt.hdr)).filter (fun h => !sent.contains h)
  let l := (sent ++ inTx).map at' ++ x.out.map (fun p => (p.hdr, p.port))
  let nw := sumN (x.wOut.map (fun w => w.2.length)) +
    ((link s e).replay.filter (fun r => r.welt.isSome && r.hdr != 0)).length
  let s1 := updLink (updOpt s o (fun y => { y with out := [], txCur := [], wOut := [] })) e
    (fun k => { k with replay := k.replay.map (fun r => { r with hdr := 0 }) })
  let s2 := if nw = 0 then s1 else cntUp s1 (gwReg o.gw 0 0x14) 0 16 nw
  answerAll s2 o (l.filter (fun y => hDw y.1 != waferLocal))

/-- R311, R315: packets that are there for a link that cannot forward are answered at once. Welt flits collect (R138). -/
def optFlush (s : State) (o : OptId) : State :=
  if mayWait s o = true ∨ (forwards s o = true ∧ (opt s o).lost = false) then s
  else
    let l := ((opt s o).out.filter (fun p => hDw p.hdr != waferLocal)).map (fun p => (p.hdr, p.port))
    answerAll (updOpt s o (fun x => { x with out := x.out.filter (fun p => hDw p.hdr == waferLocal) })) o l

/-- R314, R381: a link that is ADMITTED and UP is no longer lost, and its OPT_LOSS pin falls. -/
def clearLost (s : State) (o : OptId) : State :=
  if (opt s o).lost = true ∧ optState s o = 3 ∧ (outcomeOf s o).1 = 6 then
    { updOpt s o (fun x => { x with lost := false }) with
      flt := { s.flt with seen := s.flt.seen.filter (fun x => x != (48 + o.side.val, o.gw.num, 5)) } }
  else s

/-- R314: LINK_LOSS. -/
def loseLink (s : State) (o : OptId) : State :=
  if (opt s o).lost then s
  else
    let s1 := cntUp (updOpt s o (fun x => { x with lost := true, answered := [] })) (optReg o 0x48) 16 8 1
    let s2 := (List.range 2).foldl (fun t j => takeAll t (.gw o.gw (Fin.ofNat 16 j))) s1
    flushHeld s2 o

/-- R309, R314: take up a change of the outcome's inputs: a link that was ADMITTED and is no longer is lost; one that is
ADMITTED and UP is no longer lost. -/
def optEval (s : State) (o : OptId) : State :=
  let was := (opt s o).outcome
  let now := (outcomeOf s o).1
  let s1 := updOpt s o (fun x => { x with
    outcome := now,
    probeAt := if now = 5 ∨ now = 6 then (match x.probeAt with | some t => some t | none => some (optCyc s o))
      else if x.probe then x.probeAt else none })
  clearLost (if was = 6 ∧ now ≠ 6 then loseLink s1 o else s1) o

/-- R314: a state in which the link is lost at once. -/
def optStateLost (s : State) (o : OptId) : State :=
  if optState s o = 0 ∨ optState s o = 5 ∨ optState s o = 6 then loseLink s o else s

/-! ## Lane test (R289, R294) -/

/-- R314, R323: the time a LANE_TEST and TRAIN may last. -/
def holdTime (s : State) (o : OptId) : Nat := max 60 (rdF s (optReg o 0x44) 16 16) * 2400

/-- R289, R294: start the lane test. `anyLock`: some lane of the receive set keeps codeword lock (R314). -/
def startLaneTest (s : State) (o : OptId) (anyLock : Bool) : State :=
  let s1 := updOpt (spoil s o) o (fun x => { x with
    st := .laneTest, holdBy := optCyc s o + holdTime s o, held := false, rxgood := 0, peerGood := none,
    peerDone := false, done := false, laneRun := zeros8, stableRun := zeros8, doneTx := 0, cw := CwBuild.init, txq := 0, rxq := 0,
    result := if x.st = .down then none else x.result })
  let s2 := updLink s1 (.optical o) (fun l => { l with st := .down, resend := 0, ackDue := none })
  if anyLock then s2 else loseLink s2 o

/-- R289: the fixed bits of a lane-test codeword. -/
def laneFixed : Nat := (natOf (List.replicate 640 0x5A)) + 10 * 2 ^ 5120

/-- R289: the message of a lane-test codeword of a lane. -/
def laneMsg (x : Opt) (lane : Nat) : BitVec 5140 :=
  BitVec.ofNat 5140 (lane + 8 * x.rxgood + 2048 * b2n x.done + laneFixed * 65536)

/-- R289: the lowest w lanes of a mask, w the largest of 8, 4, 2, 1 that its population allows. -/
def laneSet (m : Nat) : Nat :=
  let l := (List.range 8).filter (fun i => m.testBit i)
  let w := if 8 ≤ l.length then 8 else if 4 ≤ l.length then 4 else if 2 ≤ l.length then 2 else min 1 l.length
  (l.take w).foldl (fun a i => a + 2 ^ i) 0

/-- R289: LANE_TEST_DONE: freeze the masks and choose the sets, or stay with NO_LANES. An end sends DONE once it has gone
out on all eight lanes (log entry 20). -/
def laneDone (s : State) (o : OptId) : State :=
  let x := opt s o
  match x.peerGood with
  | none => s
  | some pg =>
    if x.done && decide (8 ≤ x.doneTx) && x.peerDone then
      if laneSet pg = 0 ∨ laneSet x.rxgood = 0 then optErr s o 0x40
      else
        let s1 := updOpt s o (fun y => { y with st := .train, txSet := laneSet pg, rxSet := laneSet x.rxgood, txq := 0, rxq := 0, cw := CwBuild.init })
        beginTrain s1 (.optical o)
    else s

/-- R289: whether RXGOOD has stayed unchanged for 1,024 codewords: every lane that brings codewords has brought as many since, or
one lane has brought the next. The lanes bring theirs at the same time (log entry 20). -/
def laneStable (l : List Nat) : Bool :=
  l.any (fun n => decide (1025 ≤ n)) || (l.any (fun n => n != 0) && l.all (fun n => n == 0 || decide (1024 ≤ n)))

/-- R289: take a lane-test codeword of a lane. `stableRun` counts each lane's codewords since RXGOOD last changed; from
DONE on RXGOOD keeps what was reported (log entry 20). -/
def laneTake (s : State) (o : OptId) (lane : Nat) (msg : BitVec 5140) : State :=
  let x := opt s o
  let ok := bits msg 0 3 == lane && bits msg 16 5124 == laneFixed && bits msg 12 4 == 0
  let run := if ok then lget x.laneRun lane 0 + 1 else 0
  let dis := (rdF s (optReg o 8) 0 8).testBit lane
  let good := if 1024 ≤ run ∧ dis = false ∧ x.done = false ∧ x.rxgood.testBit lane = false then x.rxgood + 2 ^ lane else x.rxgood
  let stable := if good = x.rxgood then lset x.stableRun lane (min 1025 (lget x.stableRun lane 0 + 1)) else zeros8
  let pg := if ok then some (bits msg 3 8) else x.peerGood
  laneDone (updOpt s o (fun y => { y with
    laneRun := lset y.laneRun lane (min 1024 run), rxgood := good, stableRun := stable, peerGood := pg,
    peerDone := if ok then bit msg 11 else y.peerDone, done := y.done || (laneStable stable && pg.isSome) })) o

/-! ## Training (R290, R291) -/

/-- R290: the payload of a TRAIN flit of an optical link. -/
def optTrain (s : State) (o : OptId) (l : LinkEnd) : Payload :=
  let fr := (List.range 8).map (fun v => (128 + 10 * v, 10, lget l.free0 v 0))
  let fixed := (List.range 38).map (fun i => (8 * (i + 26), 8, (i + 26) ^^^ 0x5A))
  hSet 0 ([(0, 12, l.rxExp), (12, 1, b2n l.ready), (13, 1, b2n l.fresh), (16, 8, 1), (24, 8, 1),
    (32, 64, s.fuses.serial.toNat), (96, 6, o.port), (112, 16, 512)] ++ fr ++ fixed)

/-- R290: whether the fixed bytes of a received TRAIN payload are correct. -/
def optTrainOk (p : Payload) : Bool :=
  (List.range 38).all (fun i => bits p (8 * (i + 26)) 8 == ((i + 26) ^^^ 0x5A))

/-- R290: the negotiated version of a peer's range with this part's 1 to 1; none if not valid. -/
def versionOf (vmin vmax : Nat) : Option Nat :=
  let v := min 1 vmax
  if max 1 vmin ≤ v then some v else none

/-- R71: whether entering UP loses what the replay buffer holds. -/
def upLoses (l : LinkEnd) : Bool :=
  if l.fresh || l.peerFresh then !l.replay.isEmpty
  else
    match l.peerExp with
    | none => false
    | some a => (ackPos l 4096 a).isNone

/-- R311, R315: the packets that wait at the G inputs come in; those that the link does not forward are answered. -/
def takeWaiting (s : State) (o : OptId) : State :=
  optFlush ((List.range 2).foldl (fun t j => takeAll t (.gw o.gw (Fin.ofNat 16 j))) s) o

/-- R290, R291, R311, R314: the link enters UP. -/
def optEnterUp (s : State) (o : OptId) : State :=
  let e := EndRef.optical o
  let lose := upLoses (link s e)
  let s0 := if lose then loseLink s o else s
  let s1 := enterUp s0 e
  let s2 := updOpt s1 o (fun x => { x with st := .up, txq := 0, rxq := 0, cw := CwBuild.init, ver := 1 })
  takeWaiting (optEval (updOpt s2 o (fun x => { x with disc := compareId s2 o })) o) o

/-- R70, R290: take a good TRAIN flit: identity, versions, and what R71 needs. -/
def optTrainTake (s : State) (o : OptId) (p : Payload) : State :=
  let e := EndRef.optical o
  let ser := bits p 32 64
  let s1 := wr (wr (wr s (optReg o 0x18) (BitVec.ofNat 32 ser)) (optReg o 0x1C) (BitVec.ofNat 32 (ser / 4294967296)))
    (optReg o 0x20) (BitVec.ofNat 32 (bits p 96 6 + 256 * bits p 16 8 + 65536 * bits p 24 8 + 16777216 * (bits p 112 16 / 8 % 256)))
  let s2 := updLink (updOpt s1 o (fun x => { x with ident := true })) e (fun l => { l with
    good := l.good + 1, ready := l.ready || decide (64 ≤ l.good + 1), peerExp := some (bits p 0 12), peerFresh := l.peerFresh || bit p 13,
    peerReady := l.peerReady || bit p 12, peerFree := (List.range 8).map (fun v => bits p (128 + 10 * v) 10) })
  match versionOf (bits p 16 8) (bits p 24 8) with
  | none => optEval (updOpt s2 o (fun x => { x with disc := 3, ver := 0 })) o
  | some _ => if (link s2 e).ready && (link s2 e).peerReady then optEnterUp s2 o else s2

/-! ## Receiving (R287, R291-R293) -/

/-- R339: the time at which what the decoder now hands over came in. -/
def t40In (s : State) (o : OptId) : Nat :=
  (t40 s o + 72057594037927936 - Config.decodeLatency % 72057594037927936) % 72057594037927936

/-- R307: what the bank now in use gives a transit packet as a packet of class k from attachment cell j, its header unit, and the
spray state that choosing leaves. -/
def transitHdr (s : State) (o : OptId) (h : Payload) (k j : Nat) : (PreRoute × Payload) × FMap (Nat × Nat) :=
  let u := UnitRef.gw o.gw
  let h1 := put h 4 2 k
  match choosePath s u (attCell o.gw j) k h1 (hSx h) (hSy h) (some o.port) with
  | .ok rt sp _ => ((.routed, routedHdr s u h1 rt), sp)
  | .nopath miss sp => ((.lost miss, h1), sp)
  | .blocked => ((.bank (punit s u).epoch, h1), (punit s u).spray)

/-- R307, R339: note a header unit as it comes in from the link. A transit packet's route is chosen now, for either attachment
cell and should a meter demote it; DESIGN CHOICE (log entry 17): the spray state advances once, as for the cell next in turn. -/
def markIn (s : State) (o : OptId) (v : Nat) (h : Payload) : State :=
  let transit := hDw h != waferLocal && !isLocal s (48 + o.side.val) (hDw h) && !hMcast h
  let r := if transit then (List.range 4).map (fun n => transitHdr s o h (if n < 2 then hCls h else 3) (n % 2)) else []
  let x := opt s o
  let s1 := match r.drop ((x.altLast + 1) % 2) with
    | y :: _ => updUnit s (.gw o.gw) (fun p => { p with spray := y.2 })
    | [] => s
  updOpt s1 o (fun y => { y with
    marks := lset y.marks v (lget y.marks v [] ++ [{ t := t40In s o, hdrs := r.map (fun z => z.1) }]) })

/-- R293: a packet flit enters the ingress. -/
def ingressTake (s : State) (o : OptId) (v ty : Nat) (p : Payload) : State :=
  let e := EndRef.optical o
  if (opt s o).disc ≠ 1 then optErr (oweCredit s e v) o 0x100
  else
    let x := lget (opt s o).ingress v ⟨[], none⟩
    let setV := fun (s : State) (y : RxVc) => updOpt s o (fun z => { z with ingress := lset z.ingress v y })
    let s0 := telGw s o.gw 1 1
    if ty = 5 ∨ ty = 7 then
      let y := padRx x
      let n := hNdu p
      setV (markIn s0 o v p) {
                buf := y.buf ++ [⟨p, true, n == 0, true, 0⟩],
                asm := if n = 0 then none else some { hdr := p, data := [], left := n } }
    else
      match x.asm with
      | none => oweCredit s0 e v
      | some a =>
        let y : RxVc := { buf := x.buf ++ [⟨p, false, a.left == 1, true, 0⟩],
                          asm := if a.left = 1 then none else some { a with left := a.left - 1 } }
        setV s0 (if ty = 6 ∧ a.left ≠ 1 then padRx y else y)

/-- R295: a welt flit from the link, by the optical slot it came in. -/
def weltFromLink (s : State) (o : OptId) (slot : Nat) (f : WFlit) : State :=
  if (opt s o).disc ≠ 1 then optErr s o 0x100
  else
    let stray := setBits (cntUp s (gwReg o.gw 0 0x14) 16 16 1) (gwReg o.gw 0 0x10) 4
    match inName (rd s (wtabKey o.gw 3 slot)) with
    | none => stray
    | some k =>
      if deadWelt s [wtabKey o.gw 4 0, wtabKey o.gw 5 0] (32 + k) then stray
      else
      match storeAdd (opt s o).wIn 256 k f with
      | none => setBits (cntUp s (gwReg o.gw 0 0x14) 0 16 1) (gwReg o.gw 0 0x10) 2
      | some w => updOpt s o (fun x => { x with wIn := w })

/-- R66: a flit in error at a receiver: it enters DISCARD and owes a NAK, unless it is in DISCARD already. -/
def rxError (s : State) (e : EndRef) : State :=
  let s0 := match e with
    | .optical o => spoil s o
    | _ => s
  updLink s0 e (fun l => if l.discard then l else { l with discard := true, nak := true, nakEnd := none })

/-- R66: accept a sequenced flit and apply its CR. In DISCARD it is the first of the peer's replay (R341). -/
def rxAccept (s : State) (e : EndRef) (k : Ctl) : State :=
  let s0 := match e with
    | .optical o => if (link s e).discard then spoil s o else s
    | _ => s
  let s1 := updLink s0 e (fun l => { l with rxExp := (l.rxExp + 1) % 4096, discard := false, nak := false, nakEnd := none })
  if k.crv then addCredit s1 e k.crvc else s1

/-- R292: one flit of a corrected codeword in normal operation: `num` is the number of the next sequenced flit, `pos` the
flit's position; answers with the number after it. -/
def optFlit (s : State) (o : OptId) (num pos : Nat) (f : BitVec 568) : State × Nat :=
  let e := EndRef.optical o
  let d := decodeFlit f
  match d.ctl with
  | none => (rxError s e, num)
  | some k =>
    if k.ty = 3 then (rxError s e, num)
    else if k.ty = 1 then
      let l := link s e
      let stale := match l.stale with
        | none => false
        | some t => decide (optCyc s o < t)
      if stale then (s, num)
      else if d.crcErr then (rxError s e, num)
      else
        let s1 := beginTrain (updOpt (spoil s o) o (fun x => { x with st := .train, txq := 0, cw := CwBuild.init, holdBy := optCyc s o + holdTime s o, held := false })) e
        (if optTrainOk d.payload then optTrainTake s1 o d.payload else s1, num)
    else
      let s0 := if d.crcErr || d.bchUe || (isSeq k.ty && (k.seq6 != num % 64 || num != (link s e).rxExp)) then s
        else updLink s e (fun l => { l with stale := none })
      if isSeq k.ty then
        let l := link s0 e
        let next := (num + 1) % 4096
        if d.crcErr || d.bchUe then (rxError s0 e, next)
        else if k.seq6 ≠ num % 64 then (optErr (rxError s0 e) o 2, next)
        else if num ≠ l.rxExp then ((if l.discard then s0 else optErr (rxError s0 e) o 2), next)
        else
          let s1 := rxAccept s0 e k
          if k.ty = 2 then (s1, next)
          else if k.w then (weltFromLink s1 o (pos % 64) ⟨d.payload, k.ty == 5 || k.ty == 7, k.ty == 6 || k.ty == 7⟩, next)
          else (ingressTake s1 o k.vc k.ty d.payload, next)
      else (s0, num)

/-- The flits of a framed codeword's message. -/
def cwFlit (msg : BitVec 5140) (i : Nat) : BitVec 568 := BitVec.ofNat 568 (bits msg (28 + 568 * i) 568)

/-- R70, R290, R441: one flit while the link trains. One whose control code is uncorrectable or whose TYPE is reserved (R50) counts as
a TRAIN flit in error. -/
def optTrainFlit (s : State) (o : OptId) (f : BitVec 568) : State :=
  let e := EndRef.optical o
  let d := decodeFlit f
  let bad := fun (s : State) => updLink s e (fun l => { l with good := 0, ready := false })
  match d.ctl with
  | none => bad s
  | some k =>
    if k.ty = 3 then bad s
    else if k.ty = 1 then (if d.crcErr || !optTrainOk d.payload then bad s else optTrainTake s o d.payload)
    else if (link s e).ready && (versionOf (rdF s (optReg o 0x20) 8 8) (rdF s (optReg o 0x20) 16 8)).isSome then optEnterUp s o
    else s

/-- R287: the nine flits of a framed codeword, in order. A flit other than TRAIN that brings a READY end to UP is handled
there too (R441). At slot 0 the optical input map may swap (R295). -/
def optFlits (s' : State) (o : OptId) (msg : BitVec 5140) (num base : Nat) : List Nat → State
  | [] => s'
  | i :: r =>
    let s := if (opt s' o).st = .up then tabAtStart s' o ((base + i) % 64) 3 else s'
    let f := cwFlit msg i
    match (opt s o).st with
    | .train =>
      let s1 := optTrainFlit s o f
      let plain := match (decodeFlit f).ctl with
        | some k => k.ty != 1 && k.ty != 3
        | none => false
      if (opt s1 o).st = .up ∧ plain = true then
        let y := optFlit s1 o num (base + i) f
        optFlits y.1 o msg y.2 base r
      else optFlits s1 o msg (if (match (decodeFlit f).ctl with | some k => isSeq k.ty | none => false) then (num + 1) % 4096 else num) base r
    | .up =>
      let y := optFlit s o num (base + i) f
      optFlits y.1 o msg y.2 base r
    | _ => s

/-- R67, R292: take ACK12 and NAK of a corrected codeword's marker. -/
def optMarker (s : State) (o : OptId) (msg : BitVec 5140) : State :=
  let e := EndRef.optical o
  match ackPos (link s e) 4096 (bits msg 15 12) with
  | none => s
  | some n =>
    let s1 := ackN s e n
    clearLost (if bit msg 27 then optStateLost (startReplay (spoil s1 o) e) o else s1) o

/-- Whether a framed codeword holds a flit other than TRAIN. -/
def cwPlain (msg : BitVec 5140) : Bool :=
  (List.range 9).any (fun i => match (decodeFlit (cwFlit msg i)).ctl with
    | some k => k.ty != 1 && k.ty != 3
    | none => false)

/-- R287: a corrected framed codeword. The peer counts positions from its own entry to UP: its first codeword with other
flits than TRAIN tells by CWIDX which one it is (log entry 20). -/
def framedTake (s : State) (o : OptId) (msg : BitVec 5140) : State :=
  let x := opt s o
  let first := cwPlain msg && (x.st == .train || (link s (.optical o)).stale.isSome)
  let q := if first then bits msg 0 3 else x.rxq
  let s1 := if x.st = .up then optMarker s o msg else s
  updOpt (optFlits s1 o msg (bits msg 3 12) (9 * q) (List.range 9)) o (fun y => { y with rxq := q + 1 })

/-- R292, R294: an uncorrectable codeword: nine flits in error, nine positions gone, and a count per lane and window. -/
def ueTake (s : State) (o : OptId) (lane : Nat) : State :=
  let e := EndRef.optical o
  let s1 := telGw (optErr (cntUp (spoil s o) (optReg o 0x30) 16 16 1) o 1) o.gw 8 1
  let x := opt s1 o
  let fresh := x.ueFrom + 2400000 ≤ optCyc s1 o
  let runs := if fresh then zeros8 else x.ueRun
  let s2 := updOpt s1 o (fun y => { y with
    rxq := y.rxq + 1, ueFrom := if fresh then optCyc s1 o else y.ueFrom, ueRun := lset runs lane (lget runs lane 0 + 1) })
  match x.st with
  | .up => rxError s2 e
  | .train => updLink s2 e (fun l => { l with good := 0, ready := false })
  | .laneTest => updOpt s2 o (fun y => { y with laneRun := lset y.laneRun lane 0 })
  | _ => s2

/-! ## Sending -/

/-- R295: the welt flit that owns the optical slot now, if the link admits it. -/
def optWelt (s : State) (o : OptId) (slot : Nat) : Option (Nat × WFlit × State) :=
  if forwards s o = false then none
  else
    match outName (rd s (wtabKey o.gw 2 slot)) with
    | none => none
    | some n => (storeTake (opt s o).wOut n).map (fun y => (n, y.1, updOpt s o (fun x => { x with wOut := y.2 })))

/-- Start packets toward the link: the first admissible packet of each class takes the class's VC. -/
def optStart (s : State) (o : OptId) (k : Nat) : State :=
  let x := opt s o
  if (x.txCur.find k).isSome then s
  else
    match takeFirst (fun p => hCls p.hdr == k && mayCross s o p.hdr) x.out with
    | none => s
    | some (p, r) =>
      let z : TxPkt := { hdr := p.hdr, data := p.data, cls := k, grp := hGroup p.hdr, req := none, ctx := none, q := none,
                         port := p.port, raw := true, via := none }
      updOpt s o (fun y => { y with out := r, txCur := y.txCur.set k { pkt := z, begun := false, left := p.data } })

/-- R292, R339: the codeword in the making as the next flit finds it. DESIGN CHOICE (log entry 18): the first flit fixes the
codeword's ACK12 and NAK, of which every flit carries the low bits, and its first symbol passes as that flit is framed. -/
def cwNow (s : State) (o : OptId) (num : Nat) : CwBuild :=
  let x := opt s o
  let l := link s (.optical o)
  if x.cw.flits.isEmpty then { seq := num, ack := l.rxExp % 4096, nak := l.nak, t := t40 s o, flits := [] } else x.cw

/-- R292: the link end with the back channel of the codeword in the making. -/
def cwBack (s : State) (o : OptId) : LinkEnd :=
  let b := cwNow s o 0
  { link s (.optical o) with rxExp := b.ack, nak := b.nak }

/-- Append a flit to the codeword in the making; the ninth completes it (R287). -/
def cwAppend (s : State) (o : OptId) (num : Nat) (w : BitVec 568) : State :=
  let x := opt s o
  let b := { cwNow s o num with flits := (cwNow s o num).flits ++ [w] }
  if b.flits.length < 9 then updOpt s o (fun y => { y with cw := b })
  else
    let body := b.flits.zipIdx.foldl (fun a f => a + f.1.toNat * 2 ^ (28 + 568 * f.2)) 0
    let m := x.txq % 8 + 8 * (b.seq % 4096) + 32768 * b.ack + 134217728 * b2n b.nak + body
    let lanes := (List.range 8).filter (fun i => x.txSet.testBit i)
    let lane := lget lanes (x.txq % max 1 lanes.length) 0
    let s1 := updOpt s o (fun y => { y with
      cw := CwBuild.init, txq := y.txq + 1, sent := y.sent + 1, txCw := some (.framed (Fin.ofNat 8 lane) 0 (BitVec.ofNat 5140 m)) })
    if b.nak then updLink (spoil s1 o) (.optical o) (nakSent s1 (.optical o)) else s1

/-- A new sequenced flit toward the link. -/
def optEmit (s : State) (o : OptId) (x : Send) : State :=
  let e := EndRef.optical o
  let l := link s e
  let k := mkCtl (cwBack s o) x.ty x.w x.vc l.txSeq l.crDue.head?
  let ent : Rep := { seq := l.txSeq, payload := x.payload, ctl := k, welt := x.welt, tailEp := none, hdr := x.hdr }
  let l1 := { l with
    txSeq := (l.txSeq + 1) % 4096, crDue := l.crDue.tail, crHeld := l.crHeld - 1, replay := l.replay ++ [ent],
    ackDue := if l.replay.isEmpty then some (endCyc s e + ackTmo s e) else l.ackDue }
  cwAppend (setLink s e l1) o l.txSeq (flitWires x.payload k)

/-- Resend a flit toward the link; the last one ends the replay (R314). -/
def optResend (s : State) (o : OptId) (r : Rep) : State :=
  let e := EndRef.optical o
  let l := link s e
  let k := { r.ctl with ack6 := (cwBack s o).rxExp % 64, nak := (cwBack s o).nak }
  let s1 := setLink s e { l with resend := l.resend - 1, st := if l.resend ≤ 1 then .up else l.st }
  clearLost (cwAppend (telGw s1 o.gw 6 1) o r.seq (flitWires r.payload k)) o

/-- The number that the next sequenced flit of the link will carry. -/
def optNextNum (l : LinkEnd) : Nat :=
  match nextReplay l with
  | some r => r.seq
  | none => l.txSeq

/-- The nominations toward the link: packets on their VC with a credit; one not yet begun must be free to cross still (R338). -/
def optNoms (s : State) (o : OptId) : List Nom :=
  (opt s o).txCur.filterMap (fun y =>
    if 0 < lget (link s (.optical o)).credits (2 * y.1) 0 ∧ (y.2.begun = true ∨ mayCross s o y.2.pkt.hdr = true) then
      some { i := y.1, v := 2 * y.1, cls := y.1, grp := y.2.pkt.grp, ovc := 2 * y.1 }
    else none)

/-- R339, R340: the header unit of a TIME packet as it is framed: an RSP takes T3. -/
def timeHdr (s : State) (o : OptId) (h : Payload) : Payload :=
  if hCmd h = 10 ∧ hInl h 0 2 = 1 then put h 456 56 (cwNow s o 0).t else h

/-- R339, R340: as a REQ is framed, the exchange takes t1. -/
def timeSent (s : State) (o : OptId) (h : Payload) : State :=
  if hCmd h = 10 ∧ hInl h 0 2 = 0 then
    updOpt s o (fun x => { x with exch := x.exch.map (fun y => { y with t1 := (cwNow s o 0).t, unsync := merUnsync s, sent := true }) })
  else s

/-- The packet of a class sends its next flit toward the link. -/
def optSendCur (s : State) (o : OptId) (k : Nat) (z : TxCur) : State :=
  let e := EndRef.optical o
  let setC := fun (s : State) (y : Option TxCur) => updOpt s o (fun x => { x with
    txCur := match y with
      | some w => x.txCur.set k w
      | none => x.txCur.erase k })
  let s0 := telGw (useCredit s e (2 * k)) o.gw 0 1
  if z.begun then
    match z.left with
    | [] => setC s none
    | d :: r =>
      optEmit (setC s0 (if r.isEmpty then none else some { z with left := r })) o
        { payload := d, ty := if r.isEmpty then 6 else 4, w := false, vc := 2 * k, welt := none, tailEp := none, hdr := z.pkt.hdr }
  else
    let s1 := timeSent (telGw (telGw s0 o.gw 2 1) o.gw 4 (hLen z.pkt.hdr)) o z.pkt.hdr
    optEmit (setC s1 (if z.left.isEmpty then none else some { z with begun := true })) o
      { payload := timeHdr s o z.pkt.hdr, ty := if z.left.isEmpty then 7 else 5, w := false, vc := 2 * k, welt := none, tailEp := none, hdr := z.pkt.hdr }

/-- An IDLE flit toward the link. -/
def optIdle (s : State) (o : OptId) : State :=
  let l := link s (.optical o)
  cwAppend s o (optNextNum l) (flitWires 0 (mkCtl (cwBack s o) 0 false 0 0 none))

/-- R287, R292: whether the next sequenced flit would break the numbering of the codeword in the making; the rest of that
codeword then carries IDLE flits (log entry 15). -/
def optBreak (s : State) (o : OptId) : Bool :=
  let b := (opt s o).cw
  !b.flits.isEmpty &&
    (b.seq + (b.flits.filter (fun f => isSeq (bits f 512 3))).length) % 4096 != optNextNum (link s (.optical o))

/-- R63, R292: what the link sends new where no welt flit goes: a packet flit, else a credit or IDLE. -/
def optSendNew (s : State) (o : OptId) : State :=
  let s1 := (List.range 4).foldl (fun t k => optStart t o k) s
  let ns := optNoms s1 o
  let c := attCell o.gw 0
  let g := if ns.any (fun n => n.cls == 0) then some (0, (opt s1 o).drr)
    else (drrPick (clsQuant s1 c) (grpQuant s1 c) ns (opt s1 o).drr).map (fun y => (y.1.cls, y.2))
  match g with
  | some (k, d) =>
    match (opt s1 o).txCur.find k with
    | some z => optSendCur (updOpt s1 o (fun y => { y with drr := d })) o k z
    | none => optIdle s1 o
  | none =>
    if (link s (.optical o)).crDue.isEmpty then optIdle s1 o
    else optEmit s1 o { payload := 0, ty := 2, w := false, vc := 0, welt := none, tailEp := none, hdr := 0 }

/-- R292, R295: what the link sends new in an optical slot. -/
def optSendSlot (s : State) (o : OptId) (slot : Nat) : State :=
  match optWelt s o slot with
  | some (n, f, s1) =>
    optEmit s1 o { payload := f.payload, ty := flitType f.head f.tail, w := true, vc := 0, welt := some n, tailEp := none, hdr := 1 }
  | none => optSendNew s o

/-- R65, R121, R292: a flit of the replay buffer: a welt flit in a slot of its welt, another in a slot of none. -/
def optReplay (s : State) (o : OptId) (r : Rep) (owner : Option Nat) : State :=
  match r.welt with
  | some w => if owner = some w then optResend s o r else optIdle s o
  | none => if owner.isSome then optIdle s o else optResend s o r

/-- R287, R292, R295: what the link sends in its next flit position while it is UP. At slot 0 the optical output table may
swap (R295). -/
def optSendUp (s' : State) (o : OptId) : State :=
  let slot := (9 * (opt s' o).txq + (opt s' o).cw.flits.length) % 64
  let s := tabAtStart s' o slot 2
  let l := link s (.optical o)
  match l.st, optBreak s o with
  | .fail, _ => optIdle s o
  | _, true => optIdle s o
  | _, false =>
    match nextReplay l with
    | some r => optReplay s o r (outName (rd s (wtabKey o.gw 2 slot)))
    | none => if 3072 ≤ l.replay.length then optIdle s o else optSendSlot s o slot

/-- FLIT_SEND toward an optical link: the next flit of its codewords, or in LANE_TEST the next lane-test codeword. -/
def optSend (s : State) (o : OptId) : State :=
  if clocked s (48 + o.side.val) then
    let x := opt s o
    match x.st with
    | .laneTest =>
      let lane := x.txq % 8
      laneDone (updOpt s o (fun y => { y with
        txq := y.txq + 1, sent := y.sent + 1, doneTx := if y.done then min 8 (y.doneTx + 1) else 0,
        txCw := some (.laneTest (Fin.ofNat 8 lane) 0 (laneMsg x lane)) })) o
    | .train =>
      let l := link s (.optical o)
      cwAppend s o (optNextNum l) (flitWires (optTrain s o l) (mkCtl (cwBack s o) 1 false 0 0 none))
    | .up => optSendUp s o
    | _ => s
  else s

end Sys2Proof.Machine
end

