-- ==== Sys2Proof/Machine/Flits.lean ====
section
/-! DEFINITION. The commands on flits: sending and receiving at every link end, timeouts, allocation, injection and
welts (R49-R76, R81, R119-R132, R289-R294). -/

namespace Sys2Proof.Machine

/-! ## Receiving -/

/-- Take the flit that lands next at an end, disturbed by the given flips. -/
def popWire (s : State) (e : EndRef) : State := updLink s e (fun l => { l with wire := l.wire.tail })

/-- R389: flits received in error. -/
def countRxErr (s : State) (e : EndRef) : State :=
  match e with
  | .router c p => telPort s c p.val 7 1
  | _ => s

/-- R389: flits received with a correction. -/
def countCorr (s : State) (e : EndRef) : State :=
  match e with
  | .router c p => telPort s c p.val 6 1
  | _ => s

/-- R55: a correction sets its bit and counts. -/
def noteCorr (s : State) (e : EndRef) (d : Decoded) : State :=
  let s1 := if d.ctlCe then portErr s e 0 else s
  let s2 := if d.bchCe then portErr s1 e 3 else s1
  if d.ctlCe || d.bchCe then countCorr s2 e else s2

/-- R55, R66: a flit in error: the bits that say why, the count, DISCARD and a NAK. -/
def flitError (s : State) (e : EndRef) (bs : List Nat) : State :=
  rxError (countRxErr (bs.foldl (fun t b => portErr t e b) s) e) e

/-- R64, R81: an accepted packet flit goes to the input VC of a router or to the receiving side of a unit. -/
def acceptPacket (s : State) (e : EndRef) (k : Ctl) (p : Payload) : State :=
  match e with
  | .router c q => routerTake s c q k.vc k.ty p
  | .gw (.opt sd i) _ =>
    optFlush (unitTake s e k.vc ⟨p, k.ty == 5 || k.ty == 7, k.ty == 6 || k.ty == 7, true, 0⟩) ⟨sd, i⟩
  | _ => unitTake s e k.vc ⟨p, k.ty == 5 || k.ty == 7, k.ty == 6 || k.ty == 7, true, 0⟩

/-- R55, R66, R67: a decoded flit other than TRAIN in normal operation or in FAIL. One without error ends the time of R441 in
which TRAIN flits are ignored. -/
def handleFlit (s : State) (e : EndRef) (w : Wire) (d : Decoded) (k : Ctl) : State :=
  if k.ty = 3 then flitError s e [1]
  else
    let s1 := backChannel (noteCorr s e d) e k
    let bad := d.crcErr || d.bchUe
    let inSeq := k.seq6 == (link s1 e).rxExp % 64
    let s2 := if bad || (isSeq k.ty && !inSeq) then s1 else updLink s1 e (fun l => { l with stale := none })
    if isSeq k.ty then
      let l := link s2 e
      let why := (if d.crcErr then [2] else []) ++ (if d.bchUe then [4] else []) ++ (if !inSeq && !l.discard then [5] else [])
      if bad || !inSeq then flitError s2 e why
      else
        let s3 := rxAccept s2 e k
        if k.ty = 2 then s3
        else if k.w then weltArrive s3 e w.slot ⟨d.payload, k.ty == 5 || k.ty == 7, k.ty == 6 || k.ty == 7⟩
        else acceptPacket s3 e k d.payload
    else s2

/-- R71, R72: an end of a link inside the wafer enters UP; a router then moves what the cuts released. -/
def endUp (s : State) (e : EndRef) : State :=
  let s1 := enterUp s e
  match e with
  | .router c _ => settleAll s1 c
  | _ => s1

/-- What arrives next at an end: the flit's slot, and what it decodes to. -/
def arriving (s : State) (e : EndRef) (flips : BitVec 568) : Option (Wire × Decoded) :=
  match (link s e).wire with
  | [] => none
  | w :: _ => some (w, decodeFlit (w.flit ^^^ flips))

/-- R55, R66, R441: FLIT_RECEIVE: a flit other than TRAIN and welt flits. In TRAIN it is discarded, unless the end is
READY, which enters UP first. -/
def flitReceive (s : State) (e : EndRef) (flips : BitVec 568) : State :=
  match effSt s e, arriving s e flips with
  | some st, some (w, d) =>
    match d.ctl with
    | none => if st.live ∨ st = .fail then flitError (popWire s e) e [1] else s
    | some k =>
      if k.ty = 1 ∨ (k.w ∧ isSeq k.ty) ∨ st = .down ∨ (k.ty = 3 ∧ st = .train) then s
      else if st = .train then
        if (link s e).ready then handleFlit (endUp (popWire s e) e) e w d k else popWire s e
      else handleFlit (popWire s e) e w d k
  | _, _ => s

/-- R126, R129: WELT_FLIT_RECEIVE: a welt flit. -/
def weltFlitReceive (s : State) (e : EndRef) (flips : BitVec 568) : State :=
  match effSt s e, arriving s e flips with
  | some st, some (w, d) =>
    match d.ctl with
    | none => s
    | some k =>
      if (k.w ∧ isSeq k.ty) ∧ st ≠ .down then
        if st = .train then
          (if (link s e).ready then handleFlit (endUp (popWire s e) e) e w d k else popWire s e)
        else handleFlit (popWire s e) e w d k
      else s
  | _, _ => s

/-- R70, R441: a TRAIN flit in error at an end in TRAIN. -/
def trainBad (s : State) (e : EndRef) : State :=
  updLink (portErr s e 10) e (fun l => { l with good := 0, ready := false })

/-- R55, R441: at an end in TRAIN, a flit whose control code is uncorrectable, or whose TYPE is reserved, sets CTL_UE, counts
once as received in error, and counts as a TRAIN flit in error. -/
def trainLost (s : State) (e : EndRef) : State := trainBad (countRxErr (portErr s e 1) e) e

/-- R70: a good TRAIN flit at an end in TRAIN. -/
def trainGood (s : State) (e : EndRef) (p : Payload) : State :=
  let s1 := updLink s e (fun l => { l with
    good := l.good + 1, ready := l.ready || decide (64 ≤ l.good + 1), peerExp := some (bits p 0 12), peerFresh := l.peerFresh || bit p 13,
    peerReady := l.peerReady || bit p 12, peerFree := (List.range 8).map (fun v => bits p (16 + 4 * v) 4) })
  if (link s1 e).ready ∧ (link s1 e).peerReady then endUp s1 e else s1

/-- R441: whether an end that has just entered UP still ignores TRAIN flits. -/
def staleNow (s : State) (e : EndRef) : Bool :=
  match (link s e).stale with
  | none => false
  | some t => decide (endCyc s e < t)

/-- R70, R441: a TRAIN flit without error by R55 at an end in TRAIN: it counts where its fixed bytes are right. -/
def trainTake (s : State) (e : EndRef) (p : Payload) : State :=
  if trainFixed p then trainGood s e p else trainBad s e

/-- R55, R66, R441: a TRAIN flit at an end that is not in TRAIN: it starts a training there; one whose CRC-16 fails is a flit
in error. Shortly after the last training it is ignored. -/
def trainStarts (s : State) (e : EndRef) (d : Decoded) (k : Ctl) : State :=
  if staleNow s e then s
  else
    let s1 := backChannel (noteCorr s e d) e k
    if d.crcErr then flitError s1 e [10] else trainTake (beginTrain s1 e) e d.payload

/-- R55, R70, R441: TRAIN_FLIT_RECEIVE. At an end in TRAIN it also takes what counts as a TRAIN flit in error there. -/
def trainFlitReceive (s : State) (e : EndRef) (flips : BitVec 568) : State :=
  match effSt s e, arriving s e flips with
  | some st, some (_, d) =>
    match d.ctl with
    | none => if st = .train then trainLost (popWire s e) e else s
    | some k =>
      if k.ty = 1 ∧ st ≠ .down then
        if st = .train then
          let s1 := backChannel (noteCorr (popWire s e) e d) e k
          if d.crcErr then trainBad (countRxErr s1 e) e else trainTake s1 e d.payload
        else trainStarts (popWire s e) e d k
      else if k.ty = 3 ∧ st = .train then trainLost (popWire s e) e
      else s
  | _, _ => s

/-! ## Timeouts (R66, R67) -/

/-- R66: NAK_TIMEOUT. -/
def nakTimeout (s : State) (e : EndRef) : State :=
  let l := link s e
  match l.nakEnd with
  | some t =>
    if l.discard ∧ t ≤ endCyc s e then portErr (setLink s e { l with nak := true, nakEnd := none }) e 6 else s
  | none => s

/-- R67: ACK_TIMEOUT. -/
def ackTimeout (s : State) (e : EndRef) : State :=
  let l := link s e
  match l.ackDue with
  | some t =>
    if t ≤ endCyc s e ∧ l.st.live ∧ l.replay ≠ [] then
      let s1 := updLink (startReplay (portErr s e 7) e) e (fun m => { m with tmoAt := some (endCyc s e) })
      match e with
      | .optical o => optStateLost (spoil s1 o) o
      | _ => s1
    else s
  | none => s

/-! ## Sending (R59, R63, R65, R75, R145) -/

/-- R75: whether the sender of an end holds back in this fc. -/
def holdsBack (s : State) (e : EndRef) : Bool :=
  e.boundary && (match e.peer with
    | some f => decide (4 < laneP (link s f))
    | none => false)

/-- R389: count a resent flit. -/
def countRetry (s : State) (e : EndRef) : State :=
  match e with
  | .router c p => telPort s c p.val 5 1
  | _ => s

/-- R63: the inputs that nominate for a router's output rotate, whatever the output then sends. -/
def noteOut (s : State) (e : EndRef) : State :=
  match e with
  | .router c p => noteNoms s c (nomsFor s c p.val)
  | _ => s

/-- R63, R389: an fc in which a router's output grants nothing: the inputs that nominated for it rotate, and a stall counts. -/
def noGrant (s : State) (e : EndRef) : State := noteOut (countStall s e) e

/-- R63, R145: what an end sends new: a granted packet flit, else a credit or IDLE. -/
def sendNew (s : State) (e : EndRef) (ecc : Ecc) : State :=
  match e with
  | .router c p =>
    let ns := nomsFor s c p.val
    match grantOf s c p.val ns with
    | some (n, x) => sendGrant (setRport (noteNoms s c ns) c p.val { rport (noteNoms s c ns) c p.val with
        drr := x.drr, rspLast := x.rspLast }) c p n ecc
    | none => sendIdle (countStall s e) e
  | _ =>
    match unitSend s e with
    | some t =>
      (match e with
       | .cmb c => cmbAfter s t c
       | _ => t)
    | none => sendIdle s e

/-- R50, R63, R65, R67, R75: FLIT_SEND at an end of a link inside the wafer. In a slot whose welt has a flit waiting the
output belongs to the welt (R121). DESIGN CHOICE (log entry 144): R125 keeps the packet flits of a replay out of welt-owned slots
and says nothing of its CREDIT flits, which wait there too. -/
def flitSend (s : State) (e : EndRef) (ecc : Ecc) : State :=
  let l := link s e
  match effSt s e with
  | none => s
  | some .down => noGrant s e
  | some st =>
    if holdsBack s e then
      match e with
      | .router c p => cntUp (noGrant s e) (portReg c p.val 0x14) 16 16 1
      | _ => s
    else
      match st with
      | .train => emitPlain (noGrant s e) e 1 (trainPayload l)
      | .fail => emitPlain (noGrant s e) e 0 0
      | _ =>
        match nextReplay l with
        | some r =>
          match r.welt with
          | some w => if slotOwner s e = some w then s else emitPlain (noGrant s e) e 0 0
          | none =>
            if (slotOwner s e).isSome then emitPlain (noGrant s e) e 0 0
            else countRetry (emitReplay (if r.ofPacket then noteOut s e else noGrant s e) e r) e
        | none =>
          if 32 ≤ l.replay.length then emitPlain (noGrant s e) e 0 0
          else if (weltNext s e).isSome then s
          else sendNew s e ecc

/-- FLIT_SEND at any end. -/
def sendAny (s : State) (e : EndRef) (ecc : Ecc) : State :=
  match e with
  | .optical o => optSend s o
  | _ => flitSend s e ecc

/-- R121, R125: WELT_FLIT_SEND: the owner of the present slot sends its oldest flit, or its flit that the replay has
come to. -/
def weltFlitSend (s : State) (e : EndRef) : State :=
  let l := link s e
  match effSt s e with
  | none => s
  | some st =>
    if st.live = false ∨ holdsBack s e = true then s
    else
      match nextReplay l with
      | some r => if r.welt.isSome ∧ slotOwner s e = r.welt then countRetry (emitReplay (noGrant s e) e r) e else s
      | none =>
        if 32 ≤ l.replay.length then s
        else
          match weltNext s e with
          | none => s
          | some (w, f, s1) =>
            let x : Send := { payload := f.payload, ty := flitType f.head f.tail, w := true, vc := 0, welt := some w, tailEp := none, hdr := 0 }
            let s2 := emitSeq (noGrant s1 e) e x
            match e with
            | .router c p => telPort s2 c p.val 3 1
            | _ => s2

/-! ## Injection (R81, R145) -/

/-- R297: a packet of an end's own queue that has no eligible path: at an optical ingress it is discarded, and a request
is answered with ADDR (R306). -/
def loseQueued (s : State) (e : EndRef) (z : TxPkt) (miss : Bool) : State :=
  let u := endUnit e
  let s1 := lossGone (noPath s u miss) u z
  match e with
  | .gw _ j =>
    match z.via, refusal s z.hdr 1 j.val with
    | some _, some r => pushResp s1 u r
    | _, _ => s1
  | .cmb c => chunkNoPath s1 c z
  | _ => s1

/-- R145: give the free VCs of an end to packets that may start. An NI takes header units again once a response has left
(R110). -/
def startAll (s : State) (e : EndRef) : State :=
  let u := endUnit e
  match e with
  | .ni c =>
    let s1 := ownResp s c (punit s u).resp
    let s2 := (List.range 16).foldl (fun t q => weltStart (ownStep t c q) c q) s1
    takeAll (startClass (startClass (startClass (startRsp s2 u e) u e 1) u e 2) u e 3) e
  | .gw g j =>
    if j.val < gwCount g.kind ∧ (e.peer.any (fun f => holdsOut s f.dom)) = false then
      let s1 := startClass (startClass (startRsp s u e) u e 1) u e 3
      (List.range 4).foldl (fun t k =>
        if (lget (txEnd t e).cur k none).isSome ∨ lget (link t e).credits (2 * k) 0 = 0 then t
        else startQueued loseQueued t e k [] (txEnd t e).queue) s1
    else s
  | .cmb c =>
    if (lget (txEnd s e).cur 2 none).isSome ∨ lget (link s e).credits 4 0 = 0 then s
    else
      let o := cmbOrder s c
      let t := startQueued loseQueued s e 2 [] o.1
      match lget (txEnd t e).cur 2 none with
      | some z =>
        setTxEnd t e { txEnd t e with drr := (if z.left.isEmpty then (txEnd t e).drr else o.2).only (dataGroups (txEnd t e).queue) }
      | none => cmSettle t c
  | _ => s

/-- R185: what the end of a unit's requests means for the collectives of its cell. -/
def sweepUnit (s : State) (u : UnitRef) : State :=
  match u with
  | .ni c => collSweep s c
  | .gw _ => s

/-- PACKET_INJECT: packets start where they may, and the end sends its next flit; with nothing to send it stays as it
is. -/
def packetInject (s : State) (e : EndRef) : State :=
  if clocked s e.dom then
    let s1 := startAll s e
    match effSt s1 e with
    | some st =>
      if st.live ∧ (unitGrant s1 e).isSome then flitSend s1 e .ok else s1
    | none => s1
  else s

/-- R69: PORT_PEER_DOWN: a port whose far end is not clocked any more. -/
def portPeerDown (s : State) (c : Cell) (p : Fin 7) : State :=
  let e := EndRef.router c p
  match e.peer with
  | none => s
  | some f =>
    if clocked s f.dom then s
    else updLink s e (fun l => { l with st := .down, wire := [], resend := 0, ackDue := none, nakEnd := none })

/-! ## The commands -/

/-- FLIT_RECEIVE (R55). -/
def execFlitReceive (e : EndRef) (flips : BitVec 568) (s : State) : Host.Outcome State Fault Refusal :=
  .next (flitReceive s e flips)

/-- NAK_TIMEOUT (R66). -/
def execNakTimeout (e : EndRef) (s : State) : Host.Outcome State Fault Refusal := .next (nakTimeout s e)

/-- ACK_TIMEOUT (R67). -/
def execAckTimeout (e : EndRef) (s : State) : Host.Outcome State Fault Refusal := .next (ackTimeout s e)

/-- HEADER_ALLOCATE (R63). -/
def execHeaderAllocate (c : Cell) (p : Fin 7) (v : Fin 8) (s : State) : Host.Outcome State Fault Refusal :=
  .next (headerAllocate s c p v.val)

/-- FLIT_SEND (R63). -/
def execFlitSend (e : EndRef) (ecc : Ecc) (s : State) : Host.Outcome State Fault Refusal := .next (sendAny s e ecc)

/-- PORT_PEER_DOWN (R69). -/
def execPortPeerDown (c : Cell) (port : Fin 7) (s : State) : Host.Outcome State Fault Refusal :=
  .next (portPeerDown s c port)

/-- TRAIN_FLIT_RECEIVE (R70). -/
def execTrainFlitReceive (e : EndRef) (flips : BitVec 568) (s : State) : Host.Outcome State Fault Refusal :=
  .next (trainFlitReceive s e flips)

/-- PACKET_INJECT (R81). -/
def execPacketInject (e : EndRef) (s : State) : Host.Outcome State Fault Refusal := .next (sweepUnit (packetInject s e) (endUnit e))

/-- WELT_FLIT_RECEIVE (R126). -/
def execWeltFlitReceive (e : EndRef) (flips : BitVec 568) (s : State) : Host.Outcome State Fault Refusal :=
  .next (weltFlitReceive s e flips)

/-- WELT_FLIT_SEND (R121). -/
def execWeltFlitSend (e : EndRef) (s : State) : Host.Outcome State Fault Refusal := .next (weltFlitSend s e)

/-- WELT_SWAP (R131). -/
def execWeltSwap (w : WeltDom) (s : State) : Host.Outcome State Fault Refusal := .next (weltSwap s w)

end Sys2Proof.Machine
end

