-- ==== Sys2Proof/Machine/Target.lean ====
section
/-! DEFINITION. Requests at their target (R80-R84, R95-R107, R159, R208, R255, R273-R282, R383): the NI's placement,
Last, notices and welt contexts, the memory and host gateways' requests, and the link-local record (R296). -/

namespace Sys2Proof.Machine

/-! ## Arrivals -/

/-- R83, R273: whether no command's row but WRITE takes a packet with a CMD at a unit: reserved ones everywhere, CHUNK
outside a combine unit, TIME outside an optical port. WRITE takes them and finds them malformed. -/
def strayCmd (u : UnitRef) (cmd : Nat) : Bool :=
  decide (11 ≤ cmd) || cmd == 8 || (cmd == 10 && (match u with
    | .gw (.opt _ _) => false
    | _ => true))

/-- Take the first packet with a command from a unit's inbox. -/
def takeCmd (s : State) (u : UnitRef) (cmd : Nat) : Option (RxPkt × State) :=
  (takeFirst (fun p => hCmd p.hdr == cmd || (cmd == 0 && strayCmd u (hCmd p.hdr))) (punit s u).inbox).map (fun x => (x.1, updUnit s u (fun y => { y with inbox := x.2 })))

/-- R110: whether an NI may build another response. -/
def respRoom (s : State) (u : UnitRef) : Bool :=
  match u with
  | .ni _ => decide ((punit s u).resp.length < 32)
  | .gw _ => true

/-- R110: whether an NI holds no more responses than it may. -/
def respFits (s : State) (u : UnitRef) : Bool :=
  match u with
  | .ni _ => decide ((punit s u).resp.length ≤ 32)
  | .gw _ => true

/-- Hold a response if there is one. -/
def pushOpt (s : State) (u : UnitRef) (z : Option TxPkt) : State :=
  match z with
  | some r => pushResp s u r
  | none => s

/-- Count a malformed arrival (R83, R273). -/
def countMalformed (s : State) (u : UnitRef) : State :=
  match u with
  | .ni c => cntUp s (cellReg c 3 0x81C) 0 8 1
  | .gw g => cntUp s (gwReg g 0 8) 8 8 1

/-- The place that marks a packet of an optical gateway's inbox as come over its link. -/
def linkPort : Nat := 2

/-- R296, R310: an answer of an optical gateway to the gateway at the other end of its link. -/
def linkAnswer (s : State) (o : OptId) (z : TxPkt) : State :=
  let peer := rdF s (gwReg o.gw 1 0x20) 0 6
  let h := hSet z.hdr [(152, 76, waferLocal * 2 ^ 56 + (0xF4 + peer / 16) * 2 ^ 48 + peer % 16 * 2 ^ 40 + hOff z.hdr)]
  updOpt s o (fun x => { x with out := x.out ++ [arrival (stampHdr s (.gw o.gw) (attCell o.gw 0) h) z.data false linkPort] })

/-- R273: answer a packet where it came in: on its attachment cell, or over the link. -/
def answerAt (s : State) (u : UnitRef) (p : RxPkt) (z : TxPkt) : State :=
  match u with
  | .gw (.opt sd i) => if p.port = linkPort then linkAnswer s ⟨sd, i⟩ z else pushResp s u z
  | _ => pushResp s u z

/-- R83: MALFORMED_PACKET. -/
def takeMalformed (s : State) (u : UnitRef) (p : RxPkt) : State :=
  match refusal s p.hdr 2 p.port with
  | some z => answerAt (countMalformed s u) u p z
  | none => countMalformed s u

/-! ## Placement -/

/-- R79, R208: the pieces (of a ZERO of an undefined copy, R215, free values) that a WRITE or SIGNAL places, each (offset, bytes), in placement order. -/
def pieces (p : RxPkt) : List (Nat × List Byte) :=
  let h := p.hdr
  let d := dataBytes h p.data
  match hCspec h with
  | 0 => [(hOff h, (if hMcast h then [] else hInlBytes h) ++ d)]
  | cs =>
    let rowb := hInl h 0 20
    let stride := hInl h 20 20
    (List.range (hInl h 40 6)).map (fun r =>
      (hOff h + r * stride, if cs = 1 then (d.drop (r * rowb)).take rowb
        else match p.free with
          | none => List.replicate rowb 0
          | some n => ((freeBytes n (hInl h 40 6 * rowb)).drop (r * rowb)).take rowb))

/-- Write pieces to a memory space. -/
def placeAll (s : State) (space : Nat) (l : List (Nat × List Byte)) : State :=
  l.foldl (fun t x => memWrite t space x.1 x.2) s

/-- R82, R97: the check value over the bytes placed, 0 if none. -/
def placedCrc (p : RxPkt) : Nat :=
  let l := (pieces p).flatMap (fun x => x.2)
  if l.isEmpty then 0 else crc32c l

/-- R35: whether a packet's extent lies within a cell's cluster SRAM. -/
def sramFits (h : Payload) : Bool := decide (hOff h + extent h ≤ Config.sramBytes)

/-! ## Last (R98-R104, R117) -/

/-- A Last entry. -/
def lastOf (s : State) (c : Cell) (t : Nat) : LastEnt := (punit s (.ni c)).last.get t LastEnt.init
/-- Entries in use. -/
def lastOpen (s : State) (c : Cell) : Nat := ((punit s (.ni c)).last.filter (fun x => x.2.valid)).length
/-- Entries that hold a fenced packet. -/
def lastHeld (s : State) (c : Cell) : Nat := ((punit s (.ni c)).last.filter (fun x => x.2.valid && x.2.held.isSome)).length

/-- Write a Last entry: a new word, good whatever disturbed the old one (R387). -/
def putLast (s : State) (c : Cell) (t : Nat) (x : LastEnt) : State :=
  updUnit s (.ni c) (fun p => { p with last := p.last.set t { x with bad := 0 }, lastWr := (p.lastWr.1 + 1, t) })

/-- Store a Last entry and its high-water marks (R158). -/
def setLast (s : State) (c : Cell) (t : Nat) (x : LastEnt) : State :=
  let s1 := putLast s c t x
  maxUp (maxUp s1 (cellReg c 3 0xB010) 0 10 (lastOpen s1 c)) (cellReg c 3 0xB010) 10 10 (lastHeld s1 c)

/-- R101: whether a Last entry is that of a packet's stream. -/
def lastMatch (x : LastEnt) (h : Payload) : Bool :=
  x.valid && x.inst == hSinst h && x.wafer == hSw h && x.x == hSx h && x.y == hSy h && x.q == hSq h

/-- R104: free a Last entry; a held packet is discarded without an ACK and counted. -/
def freeLast (s : State) (c : Cell) (t : Nat) : State :=
  let x := lastOf s c t
  let s1 := if x.held.isSome then cntUp s (cellReg c 3 0x81C) 24 8 1 else s
  putLast s1 c t { x with valid := false, held := none }

/-- R383: read a Last entry through SECDED: an uncorrectable word frees its entry, which counts once in RESET. -/
def lastEcc (s : State) (c : Cell) (t : Nat) (ecc : Ecc) : State :=
  match eccOf ecc (lastOf s c t).bad with
  | .ok => s
  | .ce => setBits (cntUp s (cellReg c 3 0xE000) 0 16 1) (cellReg c 3 0xE000) 0x1000000
  | .ue =>
    let x := lastOf s c t
    let s1 := if x.valid then cntUp s (cellReg c 3 0x81C) 24 8 1 else s
    let s2 := putLast s1 c t { x with valid := false, held := none }
    setBits (cntUp s2 (cellReg c 3 0xE000) 16 8 1) (cellReg c 3 0xE000) 0x2000000

/-! ## Notices (R255) -/

/-- R258: a signal notice, but for PHASE. -/
def noticeEntry (h : Payload) : BitVec 128 :=
  let l := [(0, 64, natOf ((hInlBytes h).take 8)), (64, 8, hSx h), (72, 8, hSy h), (80, 4, hSq h), (84, 4, hInlen h),
    (88, 1, b2n (hFence h)), (90, 20, hSw h), (125, 2, 1)]
  l.foldl (fun (a : BitVec 128) f => put a f.1 f.2.1 f.2.2) 0

/-- R255: NOTICE_WRITE. -/
def notice (s : State) (c : Cell) (h : Payload) : State :=
  let u := UnitRef.ni c
  let r := rdF s (cellReg c 3 0x304) (2 * hSq h) 2
  if (cqOf s u r).st = .running ∧ 0 < cqFree s u r then cqWrite s u r (noticeEntry h)
  else setBits (cntUp s (cqReg u r 5) 24 8 1) (cqReg u r 5) 0x80

/-! ## WRITE and SIGNAL at an NI -/

/-- R95, R255: place a packet, write its notice, and acknowledge it. -/
def placeAck (s : State) (c : Cell) (p : RxPkt) : State :=
  let u := UnitRef.ni c
  let s1 := placeAll s (unitSpace u) (pieces p)
  let s2 := if hCmd p.hdr = 4 then notice s1 c p.hdr else s1
  pushResp s2 u (ackPkt s p.hdr 0 (placedCrc p) p.port)

/-- An ACK with an error status. -/
def nackPkt (s : State) (c : Cell) (p : RxPkt) (status : Nat) : State := pushResp s (.ni c) (ackPkt s p.hdr status 0 p.port)

/-- Place and acknowledge, or answer ADDR where the address check fails (R35, R84). -/
def placeChecked (s : State) (c : Cell) (p : RxPkt) : State :=
  if sramFits p.hdr then placeAck s c p else nackPkt (cntUp s (cellReg c 3 0x81C) 16 8 1) c p 1

/-- R101: FENCE_RELEASE of the packet an entry holds. -/
def releaseHeld (s : State) (c : Cell) (t : Nat) : State :=
  let x := lastOf s c t
  match x.held with
  | none => s
  | some y => placeChecked (setLast s c t { x with held := none, cnt := lset x.cnt y.gen 0 }) c y.pkt

/-- R101: LAST_ARRIVAL of a packet whose stream has entry t. -/
def lastArrival (s : State) (c : Cell) (t : Nat) (p : RxPkt) : State :=
  let x := lastOf s c t
  let g := hFgen p.hdr
  if hFence p.hdr then
    if lget x.cnt g 0 = hScount p.hdr then setLast (placeChecked s c p) c t { x with cnt := lset x.cnt g 0 }
    else if x.held.isSome then nackPkt (cntUp s (cellReg c 3 0x81C) 8 8 1) c p 3
    else setLast s c t { x with held := some { gen := g, scount := hScount p.hdr, pkt := p } }
  else
    let n := (lget x.cnt g 0 + 1) % 65536
    let s1 := setLast (placeChecked s c p) c t { x with cnt := lset x.cnt g n }
    match x.held with
    | some y => if y.gen = g ∧ n = y.scount then releaseHeld s1 c t else s1
    | none => s1

/-- R84: a packet whose stream this Last does not know: placed if unfenced, answered STREAM. DESIGN CHOICE (log entry 147): an
unfenced one that also fails the address check, so that it cannot be placed, is answered ADDR and counts as that alone. -/
def strangeArrival (s : State) (c : Cell) (p : RxPkt) : State :=
  if hFence p.hdr then nackPkt (cntUp s (cellReg c 3 0x81C) 8 8 1) c p 3
  else if sramFits p.hdr then
    let s1 := placeAll (cntUp s (cellReg c 3 0x81C) 8 8 1) (unitSpace (.ni c)) (pieces p)
    let s2 := if hCmd p.hdr = 4 then notice s1 c p.hdr else s1
    pushResp s2 (.ni c) (ackPkt s p.hdr 3 (placedCrc p) p.port)
  else nackPkt (cntUp s (cellReg c 3 0x81C) 16 8 1) c p 1

/-- R107: ARRIVAL_COUNT of a placed multicast WRITE. -/
def arrivalCount (s : State) (c : Cell) (p : RxPkt) : State :=
  let r := rd s (cellReg c 3 0x828)
  if bit r 31 then
    let a := bits r 4 16 * 16 + 16 * hf p.hdr 272 4
    if Config.sramBytes < a + 16 then cntUp s (cellReg c 3 0x81C) 16 8 1
    else
      let sp := unitSpace (.ni c)
      let d := dataBytes p.hdr p.data
      let at' := if crc32c d = hInl p.hdr 0 32 then a else a + 8
      let inc := if crc32c d = hInl p.hdr 0 32 then d.length else 1
      memWrite s sp at' (bytesOf 8 ((natOf (memRead s sp at' 8) + inc) % 18446744073709551616))
  else s

/-- R95-R107: a WRITE or SIGNAL at an NI. -/
def niWrite (s : State) (c : Cell) (p : RxPkt) (ecc : Ecc) : State :=
  if malformed p.hdr p.welt || strayCmd (.ni c) (hCmd p.hdr) then takeMalformed s (.ni c) p
  else if hMcast p.hdr then
    if sramFits p.hdr then arrivalCount (placeAll s (unitSpace (.ni c)) (pieces p)) c p
    else cntUp s (cellReg c 3 0x81C) 16 8 1
  else if hStv p.hdr then
    let s1 := lastEcc s c (hStag p.hdr) ecc
    if lastMatch (lastOf s1 c (hStag p.hdr)) p.hdr then lastArrival s1 c (hStag p.hdr) p else strangeArrival s1 c p
  else placeChecked s c p

/-! ## Requests at memory and host gateways (R273-R282) -/

/-- R390: count a request at a port. -/
def countReq (s : State) (g : GwId) (wr : Bool) (off len : Nat) : State :=
  match g with
  | .mem _ _ => if wr then telGw (telGw s g 1 1) g 3 len else telGw (telGw s g 0 1) g 2 len
  | .host _ _ =>
    telTlp s g wr off len
  | .opt _ _ => s

/-- R84: a request that fails its port's check is answered ADDR. -/
def gwRefuse (s : State) (g : GwId) (p : RxPkt) : State := pushOpt s (.gw g) (refusal s p.hdr 1 p.port)

/-- R285: whether a port answers every packet with ADDR, since Bus Master Enable is clear. -/
def noMaster (s : State) (g : GwId) : Bool :=
  match g with
  | .host _ _ => !(gw s g).link.bme
  | _ => false

/-- R275, R280, R281: a request enters a memory or host port, at the place that its check gave it as its header unit came. -/
def gwRequest (s : State) (g : GwId) (p : RxPkt) (wr : Bool) : State :=
  let len := if wr then extent p.hdr else hInl p.hdr 40 12
  if noMaster s g then gwRefuse s g p
  else
    match p.place with
    | none => gwRefuse (winMiss s g) g p
    | some a =>
      updGw (countReq s g wr a len) g (fun x => { x with reqs := x.reqs ++ [{ pkt := p, wr := wr, off := a, len := len }] })

/-- R273: a WRITE at a gateway. -/
def gwWrite (s : State) (g : GwId) (p : RxPkt) : State :=
  match g with
  | .mem _ _ => if malformed p.hdr false || hMcast p.hdr || hCmd p.hdr != 0 then takeMalformed s (.gw g) p else gwRequest s g p true
  | .host _ _ =>
    if malformed p.hdr false || hMcast p.hdr || hCmd p.hdr != 0 || hCspec p.hdr != 0 then takeMalformed s (.gw g) p else gwRequest s g p true
  | .opt _ _ => takeMalformed s (.gw g) p

/-- R296: the link-local record. -/
def linkRecord (stat : Word) (lane : Word) (s : State) (o : OptId) : List Byte :=
  bytesOf 4 stat.toNat ++ bytesOf 4 lane.toNat ++ bytesOf 4 (rd s (gwReg o.gw 1 0x18)).toNat ++
    bytesOf 4 (rd s (gwReg o.gw 1 0x1C)).toNat ++ bytesOf 4 (rd s (gwReg o.gw 1 0x20)).toNat ++
    bytesOf 4 (rd s (gwReg o.gw 1 0x30)).toNat ++ List.replicate 40 0

/-- R300: OPT_STAT as it reads. -/
def optStatWord (s : State) (o : OptId) : Word :=
  let x := opt s o
  let w := fun (m : Nat) => ((List.range 8).filter (fun i => m.testBit i)).length
  BitVec.ofNat 32 (optState s o + 16 * w x.txSet + 256 * w x.rxSet + 4096 * x.ver + 1048576 * x.disc)

/-- R300: OPT_LANE_STAT as it reads. -/
def optLaneWord (s : State) (o : OptId) : Word :=
  let x := opt s o
  BitVec.ofNat 32 (x.rxgood + 256 * x.peerGood.getD 0 + 65536 * x.txSet + 16777216 * x.rxSet)

/-- R296, R310: a READ_REQ at an optical port: its record, or ADDR. -/
def optRead (s : State) (o : OptId) (p : RxPkt) : State :=
  let u := UnitRef.gw o.gw
  if malformed p.hdr false then takeMalformed s u p
  else
    let ok := hOff p.hdr == 0 && hInl p.hdr 40 12 == 64
    let bs := if ok then linkRecord (optStatWord s o) (optLaneWord s o) s o else []
    answerAt s u p (readDataPkt s p.hdr (if ok then 0 else 1) (if ok then crc32c bs else 0) bs p.port)

/-! ## The commands -/

/-- A command on the first packet of its kind at a unit that may build a response. One that also releases or resets a held
packet needs room for two responses, and waits until both fit (R110). -/
def onCmd (s : State) (u : UnitRef) (cmd : Nat) (f : State → RxPkt → State) : State :=
  if respRoom s u && clocked s u.dom then
    match takeCmd s u cmd with
    | some (p, s1) => if respFits (f s1 p) u then f s1 p else s
    | none => s
  else s

/-- WRITE (R95). -/
def execWrite (t : UnitRef) (ecc : Ecc) (s : State) : Host.Outcome State Fault Refusal :=
  .next (onCmd s t 0 (fun s p => match t with
    | .ni c => niWrite s c p ecc
    | .gw g => gwWrite s g p))

/-- READ_REQ (R82): an NI answers at once; a memory or host port asks its stack or host; an optical port reads its record. -/
def execReadReq (t : UnitRef) (s : State) : Host.Outcome State Fault Refusal :=
  .next (onCmd s t 1 (fun s p => match t with
    | .ni c =>
      if malformed p.hdr p.welt then takeMalformed s t p
      else
        let len := hInl p.hdr 40 12
        if hOff p.hdr + len ≤ Config.sramBytes then
          let bs := memRead s (unitSpace (.ni c)) (hOff p.hdr) len
          pushResp s t (readDataPkt s p.hdr 0 (crc32c bs) bs p.port)
        else pushResp (cntUp s (cellReg c 3 0x81C) 16 8 1) t (readDataPkt s p.hdr 1 0 [] p.port)
    | .gw (.opt sd i) => optRead s ⟨sd, i⟩ p
    | .gw g => if malformed p.hdr false then takeMalformed s t p else gwRequest s g p false))

/-- SIGNAL (R255). -/
def execSignal (t : UnitRef) (ecc : Ecc) (s : State) : Host.Outcome State Fault Refusal :=
  .next (onCmd s t 4 (fun s p => match t with
    | .ni c => niWrite s c p ecc
    | .gw _ => takeMalformed s t p))

/-- R98: the Last entry that a request's source owns, if any. -/
def lastOwned (s : State) (c : Cell) (h : Payload) : Option (Nat × LastEnt) :=
  (punit s (.ni c)).last.find? (fun x => x.2.valid && x.2.wafer == hSw h && x.2.x == hSx h && x.2.y == hSy h && x.2.q == hSq h)

/-- R98, R383: STREAM_REQ from a source that owns no Last entry: the lowest free one, read through SECDED, or FULL. DESIGN CHOICE (log entry 25): FULL
comes with STAG and SINST zero. -/
def lastOpenNew (s' : State) (c : Cell) (p : RxPkt) (ecc : Ecc) : State :=
  let h := p.hdr
  let u := UnitRef.ni c
  match (List.range 512).find? (fun t => !(lastOf s' c t).valid) with
  | none => pushResp (cntUp s' (cellReg c 3 0x818) 20 8 1) u (streamRspPkt s' h 4 0 0 p.port)
  | some t =>
    let s := lastEcc s' c t ecc
    let n := ((lastOf s c t).inst + 1) % 16
    let y : LastEnt := { valid := true, inst := n, wafer := hSw h, x := hSx h, y := hSy h, q := hSq h, cnt := [0, 0],
                         held := none, bad := 0 }
    pushResp (setLast s c t y) u (streamRspPkt s h 0 t n p.port)

/-- R98, R99, R383: STREAM_REQ at an NI. -/
def streamReq (s : State) (c : Cell) (p : RxPkt) (ecc : Ecc) : State :=
  let u := UnitRef.ni c
  match lastOwned s c p.hdr with
  | some (t, _) =>
    let s0 := lastEcc s c t ecc
    let x := lastOf s0 c t
    if x.valid then
      let s1 := match x.held with
        | some y => nackPkt (cntUp s0 (cellReg c 3 0x81C) 24 8 1) c y.pkt 5
        | none => s0
      let n := (x.inst + 1) % 16
      pushResp (setLast s1 c t { x with inst := n, cnt := [0, 0], held := none }) u (streamRspPkt s p.hdr 0 t n p.port)
    else lastOpenNew s0 c p .ok
  | none => lastOpenNew s c p ecc

/-- STREAM_REQ (R98). -/
def execStreamReq (t : UnitRef) (ecc : Ecc) (s : State) : Host.Outcome State Fault Refusal :=
  .next (onCmd s t 5 (fun s p => match t with
    | .ni c =>
      if malformed p.hdr p.welt then takeMalformed s t p else streamReq s c p ecc
    | .gw _ => takeMalformed s t p))

/-- R102, R383: STREAM_REL at an NI. -/
def streamRel (s : State) (c : Cell) (p : RxPkt) (ecc : Ecc) : State :=
  let u := UnitRef.ni c
  let t := hStag p.hdr
  let s0 := lastEcc s c t ecc
  if lastMatch (lastOf s0 c t) p.hdr then
    pushResp (freeLast s0 c t) u (streamRspPkt s p.hdr 0 t (hSinst p.hdr) p.port)
  else pushResp (cntUp s0 (cellReg c 3 0x81C) 8 8 1) u (streamRspPkt s p.hdr 3 t (hSinst p.hdr) p.port)

/-- STREAM_REL (R102). -/
def execStreamRel (t : UnitRef) (ecc : Ecc) (s : State) : Host.Outcome State Fault Refusal :=
  .next (onCmd s t 7 (fun s p => match t with
    | .ni c =>
      if malformed p.hdr p.welt then takeMalformed s t p else streamRel s c p ecc
    | .gw _ => takeMalformed s t p))

/-- R134: a CIRCUIT notice at an NI. -/
def circuitNotice (s : State) (c : Cell) (p : RxPkt) : State :=
  let u := UnitRef.ni c
  let op := hInl p.hdr 0 2
  let i := hInl p.hdr 2 4
  if 2 ≤ op then takeMalformed s u p
  else
    let x := (punit s u).weltRx.get i WeltRx.init
    let y : WeltRx :=
      if op = 0 then { x with valid := true, closed := false, wid := hInl p.hdr 8 12, sx := hSx p.hdr, sy := hSy p.hdr, sw := hSw p.hdr }
      else { x with closed := true }
    pushResp (updUnit s u (fun z => { z with weltRx := z.weltRx.set i y })) u (ackPkt s p.hdr 0 0 p.port)

/-- CIRCUIT (R134). -/
def execCircuit (t : UnitRef) (s : State) : Host.Outcome State Fault Refusal :=
  .next (onCmd s t 9 (fun s p => match t with
    | .ni c =>
      if malformed p.hdr p.welt then takeMalformed s t p else circuitNotice s c p
    | .gw _ => takeMalformed s t p))

/-! ## Answers of the stack and of the host (R276, R277, R281, R282) -/

/-- Take the first request of a direction from a port. -/
def takeReq (s : State) (g : GwId) (wr : Bool) : Option (MemReq × State) :=
  (takeFirst (fun q => q.wr == wr) (gw s g).reqs).map (fun x => (x.1, updGw s g (fun y => { y with reqs := x.2 })))

/-- The pieces of a WRITE with their places moved to where the port's check put its range. -/
def placedAt (q : MemReq) : List (Nat × List Byte) :=
  (pieces q.pkt).map (fun x => (q.off + (x.1 - hOff q.pkt.hdr), x.2))

/-- R277: a check value, complemented when the stack or host reported a failure. -/
def checkValue (ok : Bool) (v : Nat) : Nat := if ok then v else v ^^^ 0xFFFFFFFF

/-- R276, R277: a write is committed or has failed. -/
def memCommit (s : State) (g : GwId) (ok : Bool) : State :=
  match takeReq s g true with
  | none => s
  | some (q, s1) =>
    let l := placedAt q
    let s2 :=
      if ok then placeAll s1 (unitSpace (.gw g)) l
      else
        let s3 := setBits (cntUp s1 (gwReg g 1 8) 24 8 1) (gwReg g 1 8) 2
        placeAll (draw s3) (unitSpace (.gw g)) (l.map (fun x => (x.1, freeBytes s.freeCtr x.2.length)))
    pushResp s2 (.gw g) (ackPkt s q.pkt.hdr 0 (checkValue ok (placedCrc q.pkt)) q.pkt.port)

/-- R276, R277, R282: a read has its bytes, or has failed. -/
def readDone (s : State) (g : GwId) (ok : Bool) (fail : State → State) : State :=
  match takeReq s g false with
  | none => s
  | some (q, s1) =>
    let bs := if ok then memRead s1 (unitSpace (.gw g)) q.off q.len else freeBytes s.freeCtr q.len
    let s2 := if ok then s1 else draw (fail s1)
    pushResp s2 (.gw g) (readDataPkt s q.pkt.hdr 0 (checkValue ok (crc32c bs)) bs q.pkt.port)

/-- R390: count the band cycles in which the stack controller has refused the request that it now reports done. -/
def countRefused (s : State) (g : GwId) (n : Nat) : State := if n = 0 then s else telGw s g 4 n

/-- MEM_WRITE_COMMIT (R276). -/
def execMemWriteCommit (m : MemId) (ok : Bool) (refused : BitVec 16) (s : State) : Host.Outcome State Fault Refusal :=
  .next (memCommit (countRefused s m.gw refused.toNat) m.gw ok)

/-- MEM_READ_DONE (R276). -/
def execMemReadDone (m : MemId) (ok : Bool) (refused : BitVec 16) (s : State) : Host.Outcome State Fault Refusal :=
  .next (readDone (countRefused s m.gw refused.toNat) m.gw ok (fun t => setBits (cntUp t (gwReg m.gw 1 8) 16 8 1) (gwReg m.gw 1 8) 1))

/-- HOST_WRITE_ACCEPTED (R281). -/
def execHostWriteAccepted (h : Fin 8) (s : State) : Host.Outcome State Fault Refusal :=
  .next (match takeReq s (hostGw h.val) true with
    | none => s
    | some (q, s1) =>
      pushResp (placeAll s1 (unitSpace (.gw (hostGw h.val))) (placedAt q)) (.gw (hostGw h.val))
        (ackPkt s q.pkt.hdr 0 (placedCrc q.pkt) q.pkt.port))

/-- R282, R299: a read of host memory has failed. -/
def readFailed (s : State) (g : GwId) : State := setBits (cntUp s (gwReg g 1 4) 16 8 1) (gwReg g 1 4) 4

/-- A descriptor of a port that still has source bytes to read from host memory: the oldest one. -/
def sourceCtx (s : State) (g : GwId) : Option Nat :=
  ((punit s (.gw g)).ctxs.find? (fun x => x.2.st == .active && x.2.todo.any (fun p => match p.src with
    | .mem _ len => len != 0
    | .bytes _ => false))).map (fun x => x.1)

/-- R282: the read of a descriptor's source bytes has failed. DESIGN CHOICE (log entry 31): the descriptor, whose bytes cannot be
had, completes with DATA under R242. -/
def sourceFails (s : State) (g : GwId) : State :=
  match sourceCtx s g with
  | none => s
  | some id => failCtx (readFailed s g) (.gw g) id 6 0

/-- R282: a read of host memory ends: that of the oldest READ_REQ, or that of the source bytes of the oldest descriptor. -/
def hostRead (s : State) (g : GwId) (how : HostReadEnd) : State :=
  match how with
  | .done => readDone s g true (fun t => readFailed t g)
  | .failed => readDone s g false (fun t => readFailed t g)
  | .source => sourceFails s g

/-- HOST_READ_DONE (R282). -/
def execHostReadDone (h : Fin 8) (how : HostReadEnd) (s : State) : Host.Outcome State Fault Refusal :=
  .next (hostRead s (hostGw h.val) how)

/-- MEM_STACK_READY (R275, R298): the controller reports the stack trained. -/
def execMemStackReady (m : MemId) (s : State) : Host.Outcome State Fault Refusal :=
  .next (updGw s m.gw (fun x => { x with ready := true }))

end Sys2Proof.Machine
end

