-- ==== Sys2Proof/Machine/Requester.lean ====
section
/-! DEFINITION. Responses at their requester and the outstanding table (R84, R96, R97, R98-R103, R135, R249, R259, R310,
R316). -/

namespace Sys2Proof.Machine

/-- R96, R283: the response timeout of a unit, in cycles of its clock. -/
def rspTmo (s : State) (u : UnitRef) : Nat :=
  max 1 (match u with
    | .ni c => rdF s (cellReg c 3 0x80C) 0 16
    | .gw g => rdF s (gwReg g 1 8) 0 16) * unitPerUs u

/-- R96: free an entry: it is quarantined. -/
def freeEntry (s : State) (u : UnitRef) (tag : Nat) (e : OutEnt) : State :=
  updUnit s u (fun p => { p with out := p.out.set tag { e with quar := true, since := unitCyc s u } })

/-- R96: a late or stray response is discarded whole and counted. -/
def lateRsp (s : State) (u : UnitRef) : State :=
  match u with
  | .ni c => cntUp s (cellReg c 3 0x808) 24 8 1
  | .gw g => cntUp s (gwReg g 1 4) 24 8 1

/-- R84, R259, R260: the completion status and detail of a status other than OK in a response of a kind (CMD 2 READ_DATA, 3
ACK, 6 STREAM_RSP). STREAM answers packets of a stream and releases, RESET a held packet; no other response defines them. -/
def statusOf (cmd st : Nat) : Nat × Nat :=
  match st with
  | 1 => (3, 1)
  | 3 => if cmd = 2 then (0xB, 3) else (7, 5)
  | 5 => if cmd = 3 then (7, 6) else (0xB, 5)
  | 6 => (0xA, 0)
  | n => (0xB, n)

/-- R109: whether a response of a kind answers a request. -/
def answersCmd (cmd req : Nat) : Bool :=
  match cmd with
  | 2 => req == 1
  | 3 => req == 0 || req == 4 || req == 9
  | _ => req == 5 || req == 7

/-- R103, R316: mark a stream BROKEN. -/
def breakStream (s : State) (u : UnitRef) (i : Nat) : State :=
  updUnit s u (fun p => { p with streams := match p.streams.find i with
    | some y => p.streams.set i { y with broken := true }
    | none => p.streams })

/-- R100, R102: a packet of a stream has been answered or has timed out. -/
def streamAnswered (s : State) (u : UnitRef) (i : Nat) (fence : Bool) : State :=
  updUnit s u (fun p => { p with streams := match p.streams.find i with
    | some y => p.streams.set i { y with unack := y.unack - 1, fout := y.fout && !fence }
    | none => p.streams })

/-- A request's answer reaches its descriptor: an error completes it under R242, else its bytes are confirmed. -/
def ctxAnswer (s : State) (u : UnitRef) (e : OutEnt) (err : Option (Nat × Nat)) : State :=
  match e.ctx with
  | none => s
  | some id =>
    let s1 := updCtx s u id (fun x => { x with out := x.out - 1, result := if err.isNone ∧ dOp x.desc ≠ 3 then x.result + e.len else x.result })
    let s2 := match err with
      | some d => ctxErr s1 u id d.1 d.2
      | none => s1
    settleCtx s2 u id

/-- R96: what the answer or the loss of a request does to its stream. -/
def entryStream (s : State) (u : UnitRef) (e : OutEnt) (broken : Bool) : State :=
  match e.stream with
  | none => s
  | some i =>
    let s1 := streamAnswered s u i e.fence
    if broken then breakStream s1 u i else s1

/-- R97: an ACK. -/
def ackTake (s : State) (u : UnitRef) (p : RxPkt) (tag : Nat) (e : OutEnt) : State :=
  let st := hInl p.hdr 32 4
  let err := if st = 0 then (if hInl p.hdr 0 32 = e.crc then none else some (6, 0)) else some (statusOf 3 st)
  ctxAnswer (entryStream (freeEntry s u tag e) u e (st == 6)) u e err

/-- R95, R97, R109: place the bytes of a READ_DATA in the requester's local memory; none when a host port's window check
failed as its header unit came (R280), which also chose the place. -/
def placeRead (s : State) (u : UnitRef) (off : Nat) (place : Option Nat) (bs : List Byte) : Option State :=
  match u with
  | .ni _ => some (memWrite s (unitSpace u) off bs)
  | .gw g =>
    if noMaster s g then none
    else place.map (fun a => telTlp (memWrite s (unitSpace u) a bs) g true a bs.length)

/-- R299: a window check of a READ_DATA's place failed, unless the port may not write at all. -/
def readMiss (s : State) (u : UnitRef) : State :=
  match u with
  | .gw g => if noMaster s g then s else winMiss s g
  | .ni _ => s

/-- R97: a READ_DATA. -/
def readDataTake (s : State) (u : UnitRef) (p : RxPkt) (tag : Nat) (e : OutEnt) : State :=
  let st := hCspec p.hdr
  let s1 := freeEntry s u tag e
  if st ≠ 0 then ctxAnswer s1 u e (some (statusOf 2 st))
  else
    let bs := dataBytes p.hdr p.data
    match placeRead s1 u (hOff p.hdr) p.place bs with
    | none => ctxAnswer (readMiss s1 u) u e (some (3, 0))
    | some s2 => ctxAnswer s2 u e (if hInl p.hdr 0 32 = crc32c bs then none else some (6, 0))

/-- R98, R99, R102: a STREAM_RSP. -/
def streamRspTake (s : State) (u : UnitRef) (p : RxPkt) (tag : Nat) (e : OutEnt) : State :=
  let st := hInl p.hdr 13 4
  let s1 := freeEntry s u tag e
  let i := e.place
  let setS := fun (s : State) (f : SrcStream → SrcStream) => updUnit s u (fun q => { q with streams := match q.streams.find i with
    | some y => q.streams.set i (f y)
    | none => q.streams })
  let drop := fun (s : State) => updUnit s u (fun q => { q with streams := q.streams.erase i })
  let keep := match (punit s u).streams.find i with
    | some y => y.live
    | none => false
  if e.cmd = 5 then
    if st = 0 then
      let s2 := setS s1 (fun y => { y with
        live := true, broken := false, sent := 0, sgen := 0, stag := hInl p.hdr 0 9, sinst := hInl p.hdr 9 4 })
      let s3 := match e.ctx with
        | some id => updCtx s2 u id (fun x => { x with result := hInl p.hdr 0 13 })
        | none => s2
      ctxAnswer s3 u e none
    else ctxAnswer (if keep then s1 else drop s1) u e (some (if st = 4 then (7, 2) else statusOf 6 st))
  else if st = 0 then ctxAnswer (drop s1) u e none
  else if st = 3 then ctxAnswer (drop s1) u e (some (7, 5))
  else ctxAnswer (setS s1 (fun y => { y with relPend := none, broken := y.broken || st == 6 })) u e (some (statusOf 6 st))

/-- R96, R109: the entry that a response answers: in use, and of a request that its kind answers. -/
def answered (s : State) (u : UnitRef) (cmd : Nat) (h : Payload) : Option (Nat × OutEnt) :=
  match (punit s u).out.find (hTag h) with
  | none => none
  | some e => if e.quar || !answersCmd cmd e.cmd then none else some (hTag h, e)

/-- R273: whether a unit takes responses: an NI and a host port. -/
def takesRsp (u : UnitRef) : Bool :=
  match u with
  | .ni _ => true
  | .gw (.host _ _) => true
  | .gw _ => false

/-- A response at its requester: late and stray ones are discarded. -/
def onRsp (s : State) (u : UnitRef) (cmd : Nat) (f : State → RxPkt → Nat → OutEnt → State) : State :=
  if clocked s u.dom then
    match takeCmd s u cmd with
    | none => s
    | some (p, s1) =>
      if malformed p.hdr p.welt || !takesRsp u then countMalformed s1 u
      else
        match answered s1 u cmd p.hdr with
        | none => lateRsp s1 u
        | some (t, e) => f s1 p t e
  else s

/-- R310: the answer of an admission probe. -/
def probeAnswer (s : State) (o : OptId) : State :=
  let u := UnitRef.gw o.gw
  match takeCmd s u 2 with
  | none => s
  | some (p, s1) =>
    let x := opt s1 o
    if malformed p.hdr false || !x.probe || p.port != linkPort then countMalformed s1 u
    else
      let disc := bits (BitVec.ofNat 32 (natOf ((dataBytes p.hdr p.data).take 4))) 20 3
      let s2 := updOpt s1 o (fun y => { y with
        probe := false, probeStale := false, admits := if y.probeStale then y.admits else hCspec p.hdr == 0 && disc == 1 })
      optEval s2 o

/-- ACK (R97). -/
def execAck (t : UnitRef) (s : State) : Host.Outcome State Fault Refusal :=
  .next (sweepUnit (onRsp s t 3 (fun s p tag e => ackTake s t p tag e)) t)

/-- READ_DATA (R97; at an optical port R310). -/
def execReadData (t : UnitRef) (s : State) : Host.Outcome State Fault Refusal :=
  .next (match t with
    | .gw (.opt sd i) => if clocked s t.dom then probeAnswer s ⟨sd, i⟩ else s
    | _ => onRsp s t 2 (fun s p tag e => readDataTake s t p tag e))

/-- STREAM_RSP (R98, R102). -/
def execStreamRsp (t : UnitRef) (s : State) : Host.Outcome State Fault Refusal :=
  .next (onRsp s t 6 (fun s p tag e => streamRspTake s t p tag e))

/-- R96, R103, R135: an entry without an answer ends: its stream breaks, its welt remembers a timeout, a STREAM_REQ
leaves no entry behind. -/
def entryLost (s : State) (u : UnitRef) (tag : Nat) (e : OutEnt) (err : Nat × Nat) : State :=
  let s1 := entryStream (freeEntry s u tag e) u e true
  let s2 := match e.welt with
    | none => s1
    | some l => updUnit s1 u (fun p => { p with weltSrc := match p.weltSrc.find l with
        | some y => p.weltSrc.set l { y with timedOut := y.timedOut || err.1 == 5 }
        | none => p.weltSrc })
  let s3 :=
    if e.cmd = 5 then
      updUnit s2 u (fun p => { p with streams := match p.streams.find e.place with
        | some y => if y.live then p.streams else p.streams.erase e.place
        | none => p.streams })
    else if e.cmd = 7 then
      updUnit s2 u (fun p => { p with streams := match p.streams.find e.place with
        | some y => p.streams.set e.place { y with broken := true, relPend := none }
        | none => p.streams })
    else s2
  ctxAnswer s3 u e (some err)

/-- R96: RESPONSE_TIMEOUT of an entry older than the timeout. -/
def responseTimeout (s : State) (u : UnitRef) (tag : Nat) : State :=
  match (punit s u).out.find tag with
  | none => s
  | some e => if e.quar = false ∧ e.since + rspTmo s u < unitCyc s u then entryLost s u tag e (5, 0) else s

/-- RESPONSE_TIMEOUT (R96). -/
def execResponseTimeout (u : UnitRef) (tag : Fin 1024) (s : State) : Host.Outcome State Fault Refusal :=
  .next (sweepUnit (responseTimeout s u tag.val) u)

/-- QUARANTINE_END (R96). -/
def execQuarantineEnd (u : UnitRef) (tag : Fin 1024) (s : State) : Host.Outcome State Fault Refusal :=
  .next (match (punit s u).out.find tag.val with
    | none => s
    | some e =>
      if e.quar ∧ e.since + rspTmo s u ≤ unitCyc s u then updUnit s u (fun p => { p with out := p.out.erase tag.val }) else s)

/-- R102: the STREAM_REL of a stream that has nothing unacknowledged. -/
def streamRelSend (s : State) (c : Cell) (i : Nat) : State :=
  let u := UnitRef.ni c
  match (punit s u).streams.find i with
  | none => s
  | some y =>
    match y.relPend with
    | none => s
    | some id =>
      if y.unack = 0 ∧ y.fout = false then
        let dest := y.dest / 65536 * 2 ^ 56 + y.dest % 65536 * 2 ^ 40
        let p : Plan := { cmd := 7, cls := 1, dest := dest, src := .mem i 0, inl := 0, inlen := 0, cspec := 0, fence := false,
                          mcast := false, mview := y.stag * 2 ^ 32 + 2 ^ 41 + y.sinst * 2 ^ 43, mask := 0, onStream := false, len := 0, crc := 0 }
        updCtx (updUnit s u (fun q => { q with streams := q.streams.set i { y with relPend := none } })) u id
          (fun x => { x with st := .active, todo := [p] })
      else s

/-- STREAM_REL_SEND (R102). -/
def execStreamRelSend (c : Cell) (s' : Fin 64) (s : State) : Host.Outcome State Fault Refusal :=
  .next (streamRelSend s c s'.val)

end Sys2Proof.Machine
end

