-- ==== Sys2Proof/Machine/Shaper.lean ====
section
/-! DEFINITION. Shaper refills (R150-R152, R162). -/

namespace Sys2Proof.Machine

/-- The cell number and queue of a shaper's W0 in a field, if a configuration address is one. -/
def shaperAt (f k : Nat) : Option (Nat × Nat) :=
  let off := k % 65536
  if k / 65536 % 32 = 3 ∧ k / 65536 / 32 / 2048 = f ∧ 0xB100 ≤ off ∧ off < 0xB200 ∧ off % 16 = 0 ∧ k / 65536 / 32 % 2048 < 1200 then
    some (k / 65536 / 32 % 2048, (off - 0xB100) / 16)
  else none

/-- R152: whether a queue of a cell holds a packet that its shaper governs (R151). -/
def shapedHead (s : State) (c : Cell) (q : Nat) : Bool :=
  match headPlan s (.ni c) q with
  | none => false
  | some (_, _, p) => !planOwn s (.ni c) p && (planWelt s (.ni c) q p).isNone

/-- R152: refill one queue. A queue that still holds a packet with credit at or below zero is counted (R162). DESIGN CHOICE
(log entry 27): the credit judged is the one after the refill. -/
def refillQueue (s : State) (c : Cell) (q : Nat) : State :=
  let k := cellReg c 3 (0xB100 + 0x10 * q)
  let on := bit (rd s k) 31
  let rate := rdF s k 0 16
  let burst := max (rdF s (k + 4) 0 20) rate
  let x := shaper s (.ni c) q
  let cr : Int := if on then min (burst : Int) (x.credit + rate) else 0
  let y : Shaper := { enable := on, ovh := rdF s k 16 8, credit := cr }
  let s1 := updUnit s (.ni c) (fun p => { p with shapers := p.shapers.set q y })
  if on && decide (cr ≤ 0) && shapedHead s c q then cntUp s1 (k + 12) 0 16 1 else s1

/-- R152: SHAPER_REFILL, once in 256 fc of a field. A queue whose W0 nothing has written is disabled and stays so. DESIGN CHOICE
(log entry 161): refills of frame starts that passed while the NI's clock stood are made up. -/
def shaperRefill (s : State) (f : Nat) : State :=
  if clocked s f = true ∧ (dom s f).refills ≤ (dom s f).ticks / 256 then
    let s1 := (s.regs.filterMap (fun x => shaperAt f x.1)).foldl (fun t x => refillQueue t (cellOf f x.1) x.2) s
    updDom s1 f (fun d => { d with refills := d.refills + 1 })
  else s

/-- SHAPER_REFILL (R152). -/
def execShaperRefill (f : Fin 48) (s : State) : Host.Outcome State Fault Refusal := .next (shaperRefill s f.val)

end Sys2Proof.Machine
end

