-- ==== Sys2Proof/Machine/Optics.lean ====
section
/-! DEFINITION. The commands of optical links: codewords (R287), lane tests (R289, R294), the ingress (R274, R306),
admission (R310), discovery (R309) and hold (R314), and what writes of OPT_CTRL and OPT_EXPECT_PORT do. -/

namespace Sys2Proof.Machine

/-! ## Codewords and lane tests -/

/-- R300, R390: count a codeword with n corrected symbols. -/
def corrected (s : State) (o : OptId) (lane n : Nat) : State :=
  if n = 0 then s else telGw (telGw (cntUp s (optReg o 0x30) 0 16 1) o.gw 7 1) o.gw (9 + lane) n

/-- R287, R289, R292: a codeword arrives. In TRAIN, before the peer's first framed codeword, lane-test codewords with DONE
are the tail of the lane test that both have passed (log entry 20). -/
def codewordReceive (s : State) (o : OptId) (cw : Codeword) : State :=
  let st := (opt s o).st
  if clocked s (48 + o.side.val) = false ∨ st = .down ∨ st = .disabled then s
  else
    match cw with
    | .uncorrectable lane => ueTake s o lane.val
    | .laneTest lane n msg =>
      let s1 := corrected s o lane.val n.val
      if st = .laneTest then laneTake s1 o lane.val msg
      else if st = .train ∧ (opt s o).rxq = 0 ∧ bit msg 11 = true then s1
      else laneTake (startLaneTest s1 o true) o lane.val msg
    | .framed lane n msg =>
      let s1 := corrected s o lane.val n.val
      if st = .laneTest then updOpt s1 o (fun x => { x with laneRun := lset x.laneRun lane.val 0 })
      else framedTake s1 o msg

/-- R434: an enabled link that has been released and is DOWN starts its lane test. -/
def laneTestStart (s : State) (o : OptId) (anyLock : Bool) : State :=
  if clocked s (48 + o.side.val) = true ∧ s.boot.optGo = true ∧ (opt s o).st = .down ∧ bit (rd s (optReg o 0)) 1 = false then
    startLaneTest s o anyLock
  else s

/-- R294: a lane of the receive set lost codeword lock, or had too many uncorrectable codewords in its window. -/
def laneFault (s : State) (o : OptId) (lane : Nat) (lostLock anyLock : Bool) : State :=
  let x := opt s o
  if clocked s (48 + o.side.val) = true ∧ optUpNow s o = true ∧ x.rxSet.testBit lane = true ∧
      (lostLock = true ∨ rdF s (optReg o 8) 8 8 < lget x.ueRun lane 0) then
    startLaneTest (optErr s o 0x80) o anyLock
  else s

/-- R300, R309, R310: STATE passes through DOWN or DISABLED: the identity and the admission are cleared. -/
def optStop (s : State) (o : OptId) (st : OptSt) : State :=
  let s1 := wr (wr (wr s (optReg o 0x18) 0) (optReg o 0x1C) 0) (optReg o 0x20) 0
  let s2 := updOpt (spoil s1 o) o (fun x => { x with
    st := st, ident := false, disc := 0, ver := 0, admits := false, probe := false, rxgood := 0, peerGood := none, peerDone := false,
    done := false, cw := CwBuild.init })
  let s3 := updLink s2 (.optical o) (fun l => { l with st := .down, resend := 0, ackDue := none, nakEnd := none })
  optEval (optStateLost s3 o) o

/-- R294: OPT_CTRL.RETRAIN: a TRAIN phase starts again. -/
def optRetrain (s : State) (o : OptId) : State :=
  if (opt s o).st = .down ∨ (opt s o).st = .disabled then s
  else if (opt s o).st = .train then beginTrain (updOpt s o (fun x => { x with cw := CwBuild.init })) (.optical o)
  else startLaneTest s o true

/-- R309, R323: DISC_TMO in band cycles; 0 acts as 1. -/
def discTime (s : State) (o : OptId) : Nat := max 1 (rdF s (optReg o 0x44) 0 16) * 2400000

/-- R309: the time a neighbour has to show itself starts again. -/
def discStart (s : State) (o : OptId) : State :=
  updOpt s o (fun x => { x with waited := false, discBy := optCyc s o + discTime s o })

/-- R300, R434: OPT_CTRL.DISABLE as written. Before OPT_GO a link stays DOWN. -/
def optDisable (s : State) (o : OptId) (on : Bool) : State :=
  if s.boot.optGo = false then s
  else if on then (if (opt s o).st = .disabled then s else optStop s o .disabled)
  else if (opt s o).st = .disabled then
    startLaneTest (optEval (discStart (updOpt s o (fun x => { x with st := .down })) o) o) o true
  else s

/-- R291, R309, R310: a write of OPT_EXPECT_PORT repeats the comparison. -/
def optExpect (s : State) (o : OptId) : State :=
  let s1 := discStart s o
  updOpt s1 o (fun x => { x with
    disc := if x.ident = false ∨ x.disc = 3 then x.disc else compareId s1 o, probeStale := x.probe })

/-- R309: every gateway takes up a change of the expectations. -/
def evalAll (s : State) : State := (List.range 64).foldl (fun t k => optEval t (optOf k)) s

/-! ## Ingress (R274, R293, R306) -/

/-- R293: the complete packet at the head of an ingress VC, and what lies behind it. -/
def ingressHead (v : RxVc) : Option (List VcFlit × List VcFlit) :=
  match v.buf with
  | f :: _ =>
    if f.head then
      (firstIdx (fun x => x.tail) v.buf 0).map (fun n => (v.buf.take (n + 1), v.buf.drop (n + 1)))
    else none
  | [] => none

/-- R274: the attachment cell by which an ingress packet of a class enters the wafer: the two cells in turn, passing over
one that has no credit. While that cell's G port still has a packet of the class to send, the packet waits for it. -/
def ingressCell (s : State) (o : OptId) (k : Nat) : Option Nat :=
  let e := fun (j : Nat) => EndRef.gw o.gw (Fin.ofNat 16 j)
  (rrPick (fun j => decide (0 < lget (link s (e j)).credits (2 * k) 0)) ((opt s o).altLast + 1) 2).filter (fun j =>
    (lget (txEnd s (e j)).cur k none).isNone && (txEnd s (e j)).queue.all (fun z => z.cls != k))

/-- R306: whether a link-local packet names this port. -/
def namesLink (o : OptId) (h : Payload) : Bool := hDx h == 0xF4 + o.side.val && hDy h == o.i.val

/-- R153, R274, R306, R307, R155: what becomes of a packet received from the link; none: it waits. A transit packet keeps what the
arrival of its header unit settled of its route, demoted by the meter or not (log entry 17). -/
def ingressRoute (s : State) (o : OptId) (mk : InMark) (h : Payload) (data : List Payload) : Option State :=
  let u := UnitRef.gw o.gw
  let count := fun (s : State) => telGw (telGw s o.gw 3 1) o.gw 5 (hLen h)
  let m := meterTake s o.gw (hCmd h) (hNdu h) (hCls h)
  if hDw h = waferLocal then
    let p := { arrival h data false linkPort with t := mk.t }
    some (count (if m.2 = .drop then m.1
      else if namesLink o h then updUnit m.1 u (fun x => { x with inbox := x.inbox ++ [p] }) else countMalformed m.1 u))
  else
    let k := if m.2 = .demote then 3 else hCls h
    if m.2 = .drop then some (count m.1)
    else
      match ingressCell s o k with
      | none => none
      | some j =>
        let e := EndRef.gw o.gw (Fin.ofNat 16 j)
        let rt := lget mk.hdrs (if k = hCls h then j else 2 + j) (.later, put h 4 2 k)
        let z : TxPkt := { hdr := rt.2, data := data, cls := k, grp := hGroup h, req := none, ctx := none, q := none,
                           port := j, raw := true, via := some o.port, pre := rt.1 }
        let s1 := setTxEnd m.1 e { txEnd m.1 e with queue := (txEnd m.1 e).queue ++ [z] }
        some (count (updOpt s1 o (fun x => { x with altLast := j })))

/-- R293: take the complete packet of an ingress VC, returning its credits. -/
def ingressVc (s : State) (o : OptId) (v : Nat) : Option State :=
  match ingressHead (lget (opt s o).ingress v ⟨[], none⟩) with
  | none => none
  | some (fs, rest) =>
    match fs with
    | [] => none
    | f :: ds =>
      let mk := (lget (opt s o).marks v []).headD { t := 0, hdrs := [] }
      (ingressRoute s o mk f.payload (ds.map (fun x => x.payload))).map (fun t =>
        let t1 := updOpt t o (fun x => { x with
          ingress := lset x.ingress v { lget x.ingress v ⟨[], none⟩ with buf := rest },
          marks := lset x.marks v (lget x.marks v []).tail })
        (fs.filter (fun x => x.credit)).foldl (fun a _ => oweCredit a (.optical o) v) t1)

/-- OPTICAL_INGRESS: the first VC, RSP first, whose packet may go on. -/
def opticalIngress (s : State) (o : OptId) : State :=
  if clocked s (48 + o.side.val) then ((List.range 8).findSome? (ingressVc s o)).getD s else s

/-! ## Admission, discovery, hold -/

/-- R310: the time between probes in band cycles. -/
def probeGap (s : State) (o : OptId) : Nat := if (outcomeOf s o).1 = 6 then 240000 else 24000

/-- R310: the probe's header unit. -/
def probeHdr (s : State) (o : OptId) : Payload :=
  let n := (peerId s o).2
  stampHdr s (.gw o.gw) (attCell o.gw 0)
    (hSet 0 [(0, 4, 1), (4, 2, 1), (6, 2, (punit s (.gw o.gw)).epoch), (14, 5, 8),
      (152, 76, waferLocal * 2 ^ 56 + (0xF4 + n / 16) * 2 ^ 48 + n % 16 * 2 ^ 40), (424, 12, 64)])

/-- R310: ADMISSION_PROBE. -/
def admissionProbe (s : State) (o : OptId) : State :=
  let x := opt s o
  if clocked s (48 + o.side.val) = true ∧ x.disc = 1 ∧ optUpNow s o = true ∧ x.probe = false ∧
      (match x.probeAt with | some t => decide (t + probeGap s o ≤ optCyc s o) | none => false) = true then
    updOpt s o (fun y => { y with
      probe := true, probeStale := false, probeAt := some (optCyc s o),
      out := y.out ++ [arrival (probeHdr s o) [] false linkPort] })
  else s

/-- R310: PROBE_TIMEOUT. -/
def probeTimeout (s : State) (o : OptId) : State :=
  let x := opt s o
  if x.probe = true ∧ (match x.probeAt with | some t => decide (t + 2400000 ≤ optCyc s o) | none => false) = true then
    optEval (updOpt s o (fun y => { y with probe := false, admits := false })) o
  else s

/-- R309: DISCOVERY_TIMEOUT. -/
def discoveryTimeout (s : State) (o : OptId) : State :=
  let x := opt s o
  if x.waited = false ∧ x.discBy ≤ optCyc s o ∧ clocked s (48 + o.side.val) = true then
    optEval (updOpt s o (fun y => { y with waited := true })) o
  else s

/-- R314: HOLD_TIMEOUT. -/
def holdTimeout (s : State) (o : OptId) : State :=
  let x := opt s o
  if (x.st = .laneTest ∨ x.st = .train) ∧ x.held = false ∧ x.holdBy ≤ optCyc s o ∧ clocked s (48 + o.side.val) = true then
    loseLink (updOpt s o (fun y => { y with held := true })) o
  else s

/-! ## The commands -/

/-- CODEWORD_RECEIVE (R287). -/
def execCodewordReceive (o : OptId) (cw : Codeword) (s : State) : Host.Outcome State Fault Refusal :=
  .next (codewordReceive s o cw)

/-- LANE_TEST_START (R289). -/
def execLaneTestStart (o : OptId) (anyLock : Bool) (s : State) : Host.Outcome State Fault Refusal :=
  .next (laneTestStart s o anyLock)

/-- LANE_FAULT (R294). -/
def execLaneFault (o : OptId) (lane : Fin 8) (lostLock anyLock : Bool) (s : State) : Host.Outcome State Fault Refusal :=
  .next (laneFault s o lane.val lostLock anyLock)

/-- OPTICAL_INGRESS (R274). -/
def execOpticalIngress (o : OptId) (s : State) : Host.Outcome State Fault Refusal := .next (opticalIngress s o)

/-- ADMISSION_PROBE (R310). -/
def execAdmissionProbe (o : OptId) (s : State) : Host.Outcome State Fault Refusal := .next (admissionProbe s o)

/-- PROBE_TIMEOUT (R310). -/
def execProbeTimeout (o : OptId) (s : State) : Host.Outcome State Fault Refusal := .next (probeTimeout s o)

/-- DISCOVERY_TIMEOUT (R309). -/
def execDiscoveryTimeout (o : OptId) (s : State) : Host.Outcome State Fault Refusal := .next (discoveryTimeout s o)

/-- HOLD_TIMEOUT (R314). -/
def execHoldTimeout (o : OptId) (s : State) : Host.Outcome State Fault Refusal := .next (holdTimeout s o)

end Sys2Proof.Machine
end

