-- ==== Sys2Proof/Machine/Host.lean ====
section
/-! DEFINITION. The PCIe side of a host port: its link (R278, R285) and Function Level Reset (R285). -/

namespace Sys2Proof.Machine

/-- R278, R285, R299: the PCIe link of a host port changes; completions that waited go out when it carries traffic. -/
def pcieLinkChange (s : State) (h : Nat) (l : HostLink) : State :=
  let g := hostGw h
  let s1 := updGw s g (fun x => { x with link := l })
  let s2 := if l.up && l.speed == 0 then setBits s1 (gwReg g 1 0) 0x400 else s1
  if hostReady s2 g then cplFlush s2 (.gw g) else s2

/-- R285: whether a configuration address is a ring or mailbox register of a host port. -/
def flrKey (g : GwId) (k : Nat) : Bool := decide (gwReg g 1 0x1000 ≤ k) && decide (k < gwReg g 1 0x2200)

/-- R285: Function Level Reset. Contexts go, so that no completion is written; outstanding entries stay until answered. -/
def flr (s : State) (h : Nat) : State :=
  let g := hostGw h
  let u := UnitRef.gw g
  let s1 := { s with regs := s.regs.keep (fun k => !flrKey g k) }
  let s2 := updUnit s1 u (fun p => { p with sq := [], cq := [], ctxs := [], cpl := [] })
  let s3 := (unitEnds u).foldl (fun t e =>
    setTxEnd t e { txEnd t e with cur := (txEnd t e).cur.map (fun z => match z with
      | some w => if w.pkt.ctx.isSome && !w.begun then none else z
      | none => none) }) s2
  setBits (updGw s3 g (fun x => { x with mbx := [] })) (gwReg g 1 4) 0x10

/-- PCIE_LINK_CHANGE (R285): what the link and the function's configuration have become; `mps` and `mrrs` are the size codes
of Device Control, 128 bytes times a power of two (R278). -/
def execPcieLinkChange (h : Fin 8) (up flit : Bool) (speed : Fin 3) (width : Fin 17) (bme : Bool) (mps : Fin 3) (mrrs : Fin 6)
    (s : State) : Host.Outcome State Fault Refusal :=
  .next (pcieLinkChange s h.val
    { up := up, flit := flit, speed := speed.val, width := width.val, bme := bme, mps := 128 * 2 ^ mps.val, mrrs := 128 * 2 ^ mrrs.val })

/-- FUNCTION_LEVEL_RESET (R285). -/
def execFunctionLevelReset (h : Fin 8) (s : State) : Host.Outcome State Fault Refusal := .next (flr s h.val)

end Sys2Proof.Machine
end

