-- ==== Sys2Proof/Machine/Meridian.lean ====
section
/-! DEFINITION. Meridian time: the master counter with SET, STEP, capture and PPS (R325-R333), its copies (R334-R337) and
time exchange over optical links (R338-R341, R345). -/

namespace Sys2Proof.Machine

/-! ## Clocks that run (R346, R357, R361) -/

/-- R357, R371: the SLEEP enables that act on a domain: those in force in SLEEP and while it wakes from it, and in GATE toward
it those it will enter with. -/
def sleepSet (s : State) (d : Nat) : Nat :=
  let x := dom s d
  match x.st with
  | .sleep => x.sleepEn
  | .waking => if x.phase = 0 ∨ x.phase = 3 then x.sleepEn else 0
  | .draining => if x.phase = 2 ∧ x.target = .sleep then (rd s (aonReg 0 (0x10C + 0x20 * d))).toNat else 0
  | _ => 0

/-- R357: whether the group of a domain whose bit is given keeps its clock in the domain's present state. -/
def groupRun (s : State) (d g : Nat) : Bool :=
  clocked s d || ((sleepSet s d).testBit g && (sleepSet s d).testBit 7)

/-- R334, R335, R357: whether the clock of a domain's Meridian copy runs: the TIME group, HCLK for the service group. -/
def timeRun (s : State) (d : Nat) : Bool := groupRun s d (if d < 52 then 3 else 0)

/-- R346, R357: whether clock k's output runs. ACLK never stops; TCK is the debugger's. -/
def clkRun (s : State) (k : Nat) : Bool :=
  if k < 52 then groupRun s k 3
  else
    match k with
    | 55 => true
    | 59 => true
    | 56 => groupRun s 52 3
    | 57 => groupRun s 52 4
    | 58 => groupRun s 52 5
    | n => groupRun s 52 (n - 52)

/-- R346: cycles of a clock in 20 ns, locked or coasting. Log entry 4. -/
def rate20 (s : State) (k : Nat) : Nat :=
  let c := (clk s k).coast
  if k < 48 then (if c then 12 else 45)
  else if k < 52 then (if c then 46 else 48)
  else
    match k with
    | 52 => if c then 10 else 20
    | 53 => if c then 4 else 8
    | 54 => if c then 10 else 20
    | 55 => 2
    | 56 => if c then 2 else 4
    | 57 => if c then 2 else 4
    | 58 => if c then 5 else 10
    | _ => 0

/-! ## The master (R325-R327) -/

/-- A register of the MER_ block. -/
def merReg (off : Nat) : Nat := svcReg 1 off

/-- One nanosecond and one second of the master counter, in units of 2^-40 ns. -/
def merNs : Nat := 1099511627776
/-- One second. -/
def merSec : Nat := 1000000000 * merNs

/-- R344: MER_CTRL.LOCK. -/
def merLock (s : State) : Bool := bit (rd s (merReg 0)) 0

/-- R329, R344: the hardware clears LOCK, which wins over a write of 1 in the same cycle. -/
def merUnlock (s : State) : State := { wrF s (merReg 0) 0 1 0 with mer := { s.mer with cleared := true } }

/-- R326: n cycles of the master at an ADJ. -/
def merAdd (cnt n : Nat) (adj : Word) : Nat := ((cnt : Int) + (n : Int) * ((merNs : Int) + adj.toInt)).toNat

/-- Count a lost capture. -/
def tsqLost (s : State) (n : Nat) : State := cntUp s (merReg 4) 16 8 n

/-- The first multiple of 1,000 ns at or after a count, as a number of microseconds (R335). -/
def nextPulse (cnt : Nat) : Nat := (cnt + 1000 * merNs - 1) / (1000 * merNs)

/-- R327: the counter takes a value in the next MCLK cycle. -/
def merJump (s : State) (cnt : Nat) : State := { s with mer := { s.mer with jump := some cnt } }

/-- R326, R327: the counter in the next MCLK cycle: what a SET or STEP makes of it (the next pulse is then STEPPED), else one
cycle more at the ADJ in force. -/
def merNext (m : Mer) : Mer :=
  match m.jump with
  | some c => { m with cnt := c, jump := none, stepped := true, pulseX := nextPulse c }
  | none => { m with cnt := merAdd m.cnt 1 m.adj }

/-- R333: how many cycles before the present one the second's first cycle was, given that at most n - 1 cycles of an ADJ have passed
since. -/
def sinceSecond (cnt n : Nat) (adj : Word) : Nat := min (n - 1) (cnt % merSec / ((merNs : Int) + adj.toInt).toNat)

/-- R326, R333: the master counts n MCLK cycles (at least one): an ADJ written takes effect from the second. A second that
begins while PPS_OUT_EN is set calls for a pulse, at the cycle it begins in; one that a SET or STEP crosses does not. The
captures that found the queue full in the cycle that ends are lost (R332). -/
def merRun (s' : State) (n : Nat) : State :=
  let s := if s'.mer.late.isEmpty then s' else tsqLost s' s'.mer.late.length
  let m := merNext s.mer
  let c := merAdd m.cnt (n - 1) (rd s (merReg 8))
  let from' := if s.mer.jump.isSome then m.cnt else s.mer.cnt
  let cyc := (clk s 54).cyc + n
  let wraps := bit (rd s (merReg 0)) 4 && decide (from' / merSec < c / merSec)
  { s with mer := { m with
      cnt := c, adj := rd s (merReg 8), late := [], cleared := false, ppsDue := m.ppsDue || wraps,
      ppsAt := if wraps then cyc - sinceSecond c n (rd s (merReg 8)) else m.ppsAt } }

/-- R327: SET. -/
def merSet (s : State) : State :=
  let ns := (rd s (merReg 0x1C)).toNat
  if 999999999 < ns then setBits s (merReg 4) 8
  else
    let t := secNs ((rd s (merReg 0x14)).toNat + 4294967296 * rdF s (merReg 0x18) 0 16) ns
    merJump (merUnlock s) (t * merNs + rdF s (merReg 0x20) 0 16 * 16777216)

/-- R327: STEP. It adds to what the next cycle would make of the counter: its nanosecond, or a SET or STEP of this cycle. -/
def merStep (s : State) : State :=
  let c := ((merNext s.mer).cnt : Int) + (rd s (merReg 0xC)).toInt * (merNs : Int) +
    ((rdF s (merReg 0x10) 0 16 * 16777216 : Nat) : Int)
  if c < 0 then setBits s (merReg 4) 8 else merJump s c.toNat

/-- Write a time, in units of 2^-16 ns, to four registers (_SEC_LO, _SEC_HI, _NS, _FRAC). -/
def putTime (s : State) (base t extra : Nat) : State :=
  let ns := t / 65536
  let sec := ns / 1000000000
  wr (wr (wr (wr s base (BitVec.ofNat 32 sec)) (base + 4) (BitVec.ofNat 32 (sec / 4294967296 % 65536 + extra)))
    (base + 8) (BitVec.ofNat 32 (ns % 1000000000))) (base + 12) (BitVec.ofNat 32 (t % 65536))

/-- R344: SNAP. -/
def merSnap (s : State) : State :=
  putTime s (merReg 0x24) (s.mer.cnt / 16777216) (2147483648 * b2n (!merLock s))

/-- R329: a write of MER_ADJ, or of MER_CTRL with LOCK = 1, starts the holdover time again. -/
def merHold (s : State) : State := { s with mer := { s.mer with holdFrom := (clk s 54).cyc } }

/-- R329: HOLDOVER_EXPIRE. -/
def holdoverExpire (s : State) : State :=
  let h := rdF s (merReg 0) 16 16
  if h ≠ 0 ∧ merLock s = true ∧ clkRun s 54 = true ∧ s.mer.holdFrom + h * 1000000 ≤ (clk s 54).cyc then
    setBits (merUnlock s) (merReg 4) 4
  else s

/-! ## Losing a reference (R329, R347) -/

/-- R335: a change of a domain's coast flag ends the VALID of its copy. -/
def copyStop (s : State) (d : Nat) : State :=
  updDom s d (fun x => { x with mer := { x.mer with valid := false, pulses := 0 } })

/-- R347, R348: a PLL sets or clears COAST; where that changes nothing it only ends a relocking. -/
def setCoast (s : State) (k : Nat) (c : Bool) : State :=
  let x := clk s k
  let s1 := setClk s k { x with coast := c, locked := !c, relocking := false, coastAt := if x.coast = c then x.coastAt else x.cyc }
  let s2 := if k ≤ 52 ∧ x.coast ≠ c then copyStop s1 k else s1
  if c then setBits s2 (aonReg 1 (0x100 + 0x10 * k)) 8 else s2

/-- R347: whether a clock comes from a PLL, which has a reference to lose: all but ACLK and JCLK. -/
def hasPll (k : Nat) : Bool := k != 55 && k != 59

/-- R329, R347: a PLL loses its reference and coasts; MCLK's loss also clears LOCK. -/
def loseRef (s : State) (k : Nat) : State :=
  if hasPll k && (clk s k).srcOk then
    let s1 := setClk s k { clk s k with srcOk := false, relocking := false }
    let s2 := if (clk s k).coast then s1 else setCoast s1 k true
    if k = 54 then setBits (merUnlock s2) (merReg 4) 2 else s2
  else s

/-! ## Captures and PPS (R331-R333) -/

/-- R331: the fixed and programmed delays of an input in nanoseconds. -/
def tspDelay (s : State) (src : Nat) : Nat := 2 + (if src = 2 then rdF s (merReg 0x44) 8 8 else rdF s (merReg 0x44) 0 8)

/-- R331: the master time less an input's delays; a free value where that lies below zero (log entry 5). -/
def captureTime (s : State) (src : Nat) : Nat :=
  let t := s.mer.cnt / 16777216
  let d := tspDelay s src * 65536
  if d ≤ t then t - d else natOf (freeBytes s.freeCtr 14)

/-- R332: captures enter in the order of their cycles, those of one cycle in SRC order. -/
def capInsert (q : List Capture) (c : Capture) : List Capture :=
  q.filter (fun x => x.cyc != c.cyc || decide (x.src ≤ c.src)) ++ c :: q.filter (fun x => x.cyc == c.cyc && decide (c.src < x.src))

/-- R332: the queue takes what the sixteen entries hold; the rest waits for a pop in the same cycle. -/
def capTake (m : Mer) (c : Capture) : Mer :=
  let q := capInsert (m.queue ++ m.late) c
  { m with queue := q.take 16, late := q.drop 16 }

/-- R331, R332: TIMESTAMP_CAPTURE. -/
def timestampCapture (s : State) (src tag : Nat) : State :=
  let cyc := (clk s 54).cyc
  let m := s.mer
  if clkRun s 54 = true ∧ bit (rd s (merReg 0x40)) src = true then
    match lget m.lastEv src none with
    | some t => if cyc < t + 8 then tsqLost s 1 else go s cyc m
    | none => go s cyc m
  else s
where
  /-- An accepted event. -/
  go (s : State) (cyc : Nat) (m : Mer) : State :=
    let c : Capture := { cyc := cyc, src := src, tag := if src = 2 then 0 else tag, t := captureTime s src, unsync := !merLock s }
    draw { s with mer := capTake { m with lastEv := lset m.lastEv src (some cyc) } c }

/-- R332: TSQ_POP. It comes before the captures of its cycle: they are not there for it, and one that found the queue full
takes the place. -/
def tsqPop (s : State) : State :=
  match s.mer.queue with
  | [] => wrF s (merReg 0x58) 31 1 0
  | c :: r =>
    if c.cyc = (clk s 54).cyc then wrF s (merReg 0x58) 31 1 0
    else putTime { s with mer := { s.mer with queue := r ++ s.mer.late.take 1, late := s.mer.late.drop 1 } } (merReg 0x54) c.t
      (65536 * c.src + 262144 * c.tag + 4194304 * b2n c.unsync + 2147483648)

/-- R333: PPS_OUT_PULSE. -/
def ppsOutPulse (s : State) : State :=
  let m := s.mer
  if m.ppsDue then
    { s with mer := { m with ppsDue := false, ppsHigh := true, ppsEnd := m.ppsAt + 1000 * max 1 (rdF s (merReg 0) 8 8) } }
  else s

/-- R333: PPS_PULSE_END. -/
def ppsPulseEnd (s : State) : State :=
  if s.mer.ppsHigh = true ∧ s.mer.ppsEnd ≤ (clk s 54).cyc then { s with mer := { s.mer with ppsHigh := false } } else s

/-! ## Copies (R334-R337) -/

/-- R335: N_prev of a copy; the nominal number before a first interval has been measured. -/
def nPrevOf (d : Nat) (m : MerCopy) : Nat := if m.nPrev = 0 then perUs d else m.nPrev

/-- R335: the visible time of a copy at a cycle. -/
def copyVis (d : Nat) (m : MerCopy) (now : Nat) : Nat :=
  max m.vis (m.target + (now - m.at_) * 65536000 / nPrevOf d m)

/-- R335: FOFS_k, signed, in units of 2^-16 ns. -/
def fofs (s : State) (d : Nat) : Int := toSigned 24 (rd s (merReg (0x100 + 4 * d))).toNat

/-- R335, R344: the time a pulse takes to copy k, in units of 2^-16 ns: the fuses hold it as measured (log entry 89). -/
def pulseFlight (s : State) (d : Nat) : Nat := (toSigned 24 (s.fuses.fofs.get d 0).toNat).toNat

/-- R335: a copy's cycle in which a pulse arrives that left when the master reached its value, which the master has since
passed by `late` (in units of 2^-40 ns). -/
def pulseArrives (s : State) (d late : Nat) : Nat :=
  let inc := merAdd 0 1 s.mer.adj
  let unit := 1310720 * inc * rate20 s 54
  ((dom s d).ticks * unit + pulseFlight s d * rate20 s d * inc * rate20 s 54 - late * rate20 s d * 1310720) / unit

/-- R335: a copy takes a pulse in the cycle it arrives in. An interval in which its clock stopped is not measured (DEDUCED, log
entry 32). -/
def copyTake (d : Nat) (ofs : Int) (m : MerCopy) (p : MerPulse) : MerCopy :=
  let n := p.at_ - m.at_
  let t := (((p.x * 65536000 : Nat) : Int) + ofs).toNat
  let np := nPrevOf d m
  let bad := m.valid && !p.stepped && m.exempt == 0 && decide (np < 1000 * (max n np - min n np))
  { m with
    vis := if p.stepped then t else max (copyVis d m p.at_) t, target := t, at_ := p.at_,
    nPrev := if m.gap || p.stepped then m.nPrev else n,
    pulses := if bad then 1 else min 2 (m.pulses + 1), gap := false, valid := !bad && (m.valid || decide (1 ≤ m.pulses)),
    unsync := p.unsync, exempt := if p.stepped then 1 else 0 }

/-- R335: a copy at a cycle: it has taken the pulses that have arrived, and shows the time that its target has reached. -/
def copyAt (d : Nat) (ofs : Int) (m : MerCopy) (now : Nat) : MerCopy :=
  let m1 := (m.flight.filter (fun p => decide (p.at_ ≤ now))).foldl (copyTake d ofs)
    { m with flight := m.flight.filter (fun p => decide (now < p.at_)) }
  { m1 with vis := copyVis d m1 now }

/-- R335: the pulse that marks x µs leaves for a copy. -/
def copyPulse (s : State) (d x late : Nat) (unsync stepped : Bool) : State :=
  let p : MerPulse := { x := x, at_ := pulseArrives s d late, unsync := unsync, stepped := stepped }
  updDom s d (fun y => { y with mer := copyAt d (fofs s d) { y.mer with flight := y.mer.flight ++ [p] } y.ticks })

/-- R335: TIME_PULSE: the latest multiple of 1,000 ns that the master has reached and not yet sent. -/
def timePulse (s : State) : State :=
  let m := s.mer
  if clkRun s 53 = true ∧ clkRun s 54 = true ∧ m.pulseX * (1000 * merNs) ≤ m.cnt then
    let x := m.cnt / (1000 * merNs)
    let late := m.cnt - x * (1000 * merNs)
    let s1 := (List.range 53).foldl (fun t d => if timeRun t d then copyPulse t d x late (!merLock s) m.stepped else t) s
    { s1 with mer := { m with stepped := false, pulseX := x + 1 } }
  else s

/-- R335: PULSE_MISSING. -/
def pulseMissing (s : State) (d : Nat) : State :=
  let m := (dom s d).mer
  if timeRun s d = true ∧ 1 ≤ m.pulses ∧ m.at_ + 2 * perUs d < (dom s d).ticks then copyStop s d else s

/-! ## Time exchange (R338-R341, R345) -/

/-- R340: the time between exchanges in band cycles. -/
def exchGap (s : State) (o : OptId) : Nat := max 10 (rdF s (optReg o 0x60) 8 16) * 2400

/-- R338: a TIME packet for the peer of a link. -/
def timePkt (s : State) (o : OptId) (op xseq t2 : Nat) : RxPkt :=
  let n := (peerId s o).2
  let h := hSet 0 [(0, 4, 10), (4, 2, 1), (6, 2, (punit s (.gw o.gw)).epoch), (14, 5, 16),
    (152, 76, waferLocal * 2 ^ 56 + (0xF4 + n / 16) * 2 ^ 48 + n % 16 * 2 ^ 40),
    (384, 2, op), (386, 1, b2n (merUnsync s)), (392, 8, xseq), (400, 56, t2)]
  arrival (stampHdr s (.gw o.gw) (attCell o.gw 0) h) [] false linkPort

/-- Send a TIME packet. -/
def timeSend (s : State) (o : OptId) (p : RxPkt) : State := updOpt s o (fun x => { x with out := x.out ++ [p] })

/-- R340, R341: the start of the interval that now runs, counted on from the first exchange. -/
def exchGrid (s : State) (o : OptId) : Option Nat :=
  match (opt s o).exchAt with
  | some t => some (t + (optCyc s o - t) / exchGap s o * exchGap s o)
  | none => some (optCyc s o)

/-- R341: an exchange is over; the next starts at the next interval. -/
def exchEnd (s : State) (o : OptId) : State := updOpt s o (fun y => { y with exch := none, exchAt := exchGrid s o })

/-- R340: TIME_EXCHANGE_START. -/
def timeExchangeStart (s : State) (o : OptId) : State :=
  let x := opt s o
  if clocked s (48 + o.side.val) = true ∧ bit (rd s (optReg o 0x60)) 0 = true ∧ x.disc = 1 ∧ optState s o = 3 ∧ x.exch = none ∧
      (match x.exchAt with | some t => decide (t + exchGap s o ≤ optCyc s o) | none => true) = true then
    let n := (x.xseq + 1) % 256
    let s1 := updOpt s o (fun y => { y with
      xseq := n, exchAt := exchGrid s o,
      exch := some { xseq := n, t1 := t40 s o, unsync := merUnsync s, since := optCyc s o, sent := false, spoiled := false } })
    timeSend s1 o (timePkt s1 o 0 n 0)
  else s

/-- Take the first TIME packet with or without OP = 1 from an optical port's inbox. -/
def takeTime (s : State) (o : OptId) (rsp : Bool) : Option (RxPkt × State) :=
  let u := UnitRef.gw o.gw
  (takeFirst (fun p => hCmd p.hdr == 10 && (hInl p.hdr 0 2 == 1) == rsp) (punit s u).inbox).map (fun x =>
    (x.1, updUnit s u (fun y => { y with inbox := x.2 })))

/-- R338: whether a TIME packet is malformed; one that did not come over the link is. -/
def timeBad (p : RxPkt) : Bool := malformed p.hdr false || decide (2 ≤ hInl p.hdr 0 2) || hNdu p.hdr != 0 || hOff p.hdr != 0 || p.port != linkPort

/-- R340: TIME_REQ. -/
def timeReq (s : State) (o : OptId) : State :=
  if clocked s (48 + o.side.val) then
    match takeTime s o false with
    | none => s
    | some (p, s1) =>
      if timeBad p then countMalformed s1 (.gw o.gw) else timeSend s1 o (timePkt s1 o 1 (hInl p.hdr 8 8) p.t)
  else s

/-- R340: half a signed number, rounded as the given free bit says. -/
def halfOf (up : Bool) (v : Int) : Int := (v + (if up then 1 else 0)) / 2

/-- R340: ofs and dly of an exchange, in units of 2^-16 ns and 2^-8 ns; `up` rounds what those units cannot hold. -/
def exchResult (up : Bool) (t1 t2 t3 t4 : Nat) (asym : Int) : Int × Nat :=
  let df := fun (a b : Nat) => toSigned 56 (a + 72057594037927936 - b)
  let d := (df t4 t1 - df t3 t2)
  (halfOf up (toSigned 57 (ofSigned 57 (df t2 t1 - df t4 t3)) - asym), ofSigned 32 ((d + (if up then 511 else 0)) / 512))

/-- R340, R341: TIME_RSP. -/
def timeRsp (s : State) (o : OptId) : State :=
  if clocked s (48 + o.side.val) then
    match takeTime s o true with
    | none => s
    | some (p, s1) =>
      if timeBad p then countMalformed s1 (.gw o.gw)
      else
        match (opt s1 o).exch with
        | none => s1
        | some x =>
          let s2 := exchEnd s1 o
          if x.spoiled then s2
          else if hInl p.hdr 8 8 ≠ x.xseq then cntUp s2 (optReg o 0x74) 16 8 1
          else
            let r := exchResult (Config.roundUp s.freeCtr) x.t1 (hInl p.hdr 16 56) (hInl p.hdr 72 56) p.t
              (toSigned 32 (rd s (optReg o 0x64)).toNat)
            let lim : Int := 140737488355328
            let ofs := if lim ≤ r.1 then lim - 1 else if r.1 < -lim then -lim else r.1
            draw (updOpt s2 o (fun y => { y with
              result := some { ofs := ofSigned 48 ofs, dly := r.2, own := x.unsync, peer := bit p.hdr 386,
                               range := decide (ofs ≠ r.1), xseq := x.xseq } }))
  else s

/-- R341: EXCHANGE_TIMEOUT. -/
def exchangeTimeout (s : State) (o : OptId) : State :=
  match (opt s o).exch with
  | none => s
  | some x =>
    if clocked s (48 + o.side.val) = true ∧ x.since + 240000 ≤ optCyc s o then
      cntUp (exchEnd s o) (optReg o 0x74) 24 8 1
    else s

/-- R345: the low bits of OPT_TIME_STAT. -/
def timeStatBits (s : State) (o : OptId) : Nat :=
  match (opt s o).result with
  | none => 0
  | some r => 1 + 2 * b2n r.own + 4 * b2n r.peer + 8 * b2n r.range + 256 * r.xseq

/-- R345: a read of OPT_TIME_STAT copies the latest result. -/
def timeStatRead (s : State) (o : OptId) : State :=
  match (opt s o).result with
  | none => s
  | some r =>
    wr (wr (wr s (optReg o 0x68) (BitVec.ofNat 32 r.ofs)) (optReg o 0x6C) (BitVec.ofNat 32 (r.ofs / 4294967296)))
      (optReg o 0x70) (BitVec.ofNat 32 r.dly)

/-! ## The commands -/

/-- HOLDOVER_EXPIRE (R329). -/
def execHoldoverExpire (s : State) : Host.Outcome State Fault Refusal := .next (holdoverExpire s)

/-- MCLK_LOST (R329): the reference of MCLK's PLL is lost. -/
def execMclkLost (s : State) : Host.Outcome State Fault Refusal := .next (loseRef s 54)

/-- TIMESTAMP_CAPTURE (R331). -/
def execTimestampCapture (src : Fin 3) (tag : Fin 16) (s : State) : Host.Outcome State Fault Refusal :=
  .next (timestampCapture s src.val tag.val)

/-- PPS_OUT_PULSE (R333). -/
def execPpsOutPulse (s : State) : Host.Outcome State Fault Refusal := .next (ppsOutPulse s)

/-- PPS_PULSE_END (R333). -/
def execPpsPulseEnd (s : State) : Host.Outcome State Fault Refusal := .next (ppsPulseEnd s)

/-- TIME_PULSE (R335). -/
def execTimePulse (s : State) : Host.Outcome State Fault Refusal := .next (timePulse s)

/-- PULSE_MISSING (R335). -/
def execPulseMissing (k : Fin 53) (s : State) : Host.Outcome State Fault Refusal := .next (pulseMissing s k.val)

/-- TIME_EXCHANGE_START (R340). -/
def execTimeExchangeStart (o : OptId) (s : State) : Host.Outcome State Fault Refusal := .next (timeExchangeStart s o)

/-- TIME_REQ (R340). -/
def execTimeReq (o : OptId) (s : State) : Host.Outcome State Fault Refusal := .next (timeReq s o)

/-- TIME_RSP (R340). -/
def execTimeRsp (o : OptId) (s : State) : Host.Outcome State Fault Refusal := .next (timeRsp s o)

/-- EXCHANGE_TIMEOUT (R341). -/
def execExchangeTimeout (o : OptId) (s : State) : Host.Outcome State Fault Refusal := .next (exchangeTimeout s o)

end Sys2Proof.Machine
end

