-- ==== Sys2Proof/Machine/Clocks.lean ====
section
/-! DEFINITION. The clocks: the passage of 20 ns, which is what a step does when no command waits (log entry 4), the PLLs
(R346-R349) and the frequency measurement (R372). -/

namespace Sys2Proof.Machine

/-! ## The passage of time -/

/-- A clock counts the cycles of 20 ns. -/
def tickClk (s : State) (k : Nat) : State :=
  let on := if k < 52 then clocked s k else clkRun s k
  if on && rate20 s k != 0 then setClk s k { clk s k with cyc := (clk s k).cyc + rate20 s k } else s

/-- R119, R335: the slot counters and the Meridian copy of a domain advance while its TIME group runs. -/
def tickDom (s : State) (d : Nat) : State :=
  if timeRun s d then
    let n := (dom s d).ticks + rate20 s d
    updDom s d (fun x => { x with ticks := n, mer := copyAt d (fofs s d) x.mer n })
  else s

/-- R371: PWR_WAKE_TIMER counts down once a microsecond of ACLK. -/
def tickTimer (s : State) : State :=
  let k := aonReg 0 4
  if s.aclk % 100 = 0 ∧ bit (rd s k) 31 = true ∧ rdF s k 0 31 ≠ 0 then wrF s k 0 31 (rdF s k 0 31 - 1) else s

/-- 20 ns pass. -/
def tick (s : State) : State :=
  let s1 := if clkRun s 54 then merRun s (rate20 s 54) else s
  let s2 := (List.range 53).foldl tickDom s1
  let s3 := (List.range 59).foldl tickClk s2
  tickTimer { s3 with aclk := s.aclk + 2 }

/-! ## PLLs (R347, R348) -/

/-- A register of the CLK_ block: 0 STAT, 4 CTRL, 8 MEAS. -/
def clkReg (k off : Nat) : Nat := aonReg 1 (0x100 + 0x10 * k + off)

/-- R348: CLK_CTRL_k.RELOCK. -/
def clkRelock (s : State) (k : Nat) : State :=
  if hasPll k = false then s
  else if (clk s k).srcOk = false then setBits s (clkReg k 0) 0x10
  else setClk s k { clk s k with relocking := true }

/-- R347: PLL_RELOCKED. -/
def pllRelocked (s : State) (k : Nat) : State := if (clk s k).relocking then setCoast s k false else s

/-- R359: the power domain of a clock's PLL: the domain itself, the service group for the service clocks. -/
def pllDom (k : Nat) : Nat := min k 52

/-- R357, R359, R369: whether a clock's PLL is stopped by the power state, or has been started again and has not had its time
to lock: 12 µs, after 6 µs for the supply where that comes first, counted from the wake request or from the start of RESET. -/
def pllOff (s : State) (k : Nat) : Bool :=
  let x := dom s (pllDom k)
  hasPll k && (match x.st with
    | .sleep => !x.sleepEn.testBit 7
    | .deep => !x.deepEn.testBit 7
    | .off => true
    | .waking => (x.phase == 2 && decide (s.aclk < x.since + 1803)) || (x.phase == 3 && decide (s.aclk < x.since + 1203))
    | .reset => decide (s.aclk < x.since + 1803)
    | _ => false)

/-- R372: LOCKED as it reads. -/
def pllLocked (s : State) (k : Nat) : Bool := (clk s k).locked && !pllOff s k

/-- R372: the low bits of CLK_STAT_k that follow the PLL. -/
def clkStatBits (s : State) (k : Nat) : Nat :=
  let x := clk s k
  (if hasPll k then b2n x.srcOk + 2 * b2n (pllLocked s k) + 4 * b2n x.coast else 0) + 32 * b2n (!clkRun s k)

/-- R372: CLK_MEAS_WINDOW: a measuring window of clock k ends with the given count. -/
def clkMeasWindow (s : State) (k cycles : Nat) : State :=
  let x := clk s k
  let r := clk s (if k = 54 then 55 else 54)
  let len := if k = 54 then 100000 else 1000000
  if (k = 54 ∨ clkRun s 54 = true) ∧ x.measFrom + len ≤ r.cyc then
    let ok := k == 54 || (pllLocked s 54 && !r.coast && decide (r.coastAt ≤ x.measFrom))
    wr (setClk s k { x with measFrom := r.cyc }) (clkReg k 8) (BitVec.ofNat 32 (cycles + 2147483648 * b2n ok))
  else s

/-! ## The commands -/

/-- PLL_COAST (R347). -/
def execPllCoast (k : Fin 60) (s : State) : Host.Outcome State Fault Refusal := .next (loseRef s k.val)

/-- PLL_RELOCKED (R347). -/
def execPllRelocked (k : Fin 60) (s : State) : Host.Outcome State Fault Refusal := .next (pllRelocked s k.val)

/-- PLL_REFERENCE_RETURN (R348). -/
def execPllReferenceReturn (k : Fin 60) (s : State) : Host.Outcome State Fault Refusal :=
  .next (if hasPll k.val then setClk s k.val { clk s k.val with srcOk := true } else s)

/-- CLK_MEAS_WINDOW (R372). -/
def execClkMeasWindow (k : Fin 60) (cycles : BitVec 24) (s : State) : Host.Outcome State Fault Refusal :=
  .next (clkMeasWindow s k.val cycles.toNat)

end Sys2Proof.Machine
end

