-- ==== Sys2Proof/Machine/Power.lean ====
section
/-! DEFINITION. Power domains (R354-R371): the moves between states, their checks, draining, gating, waking, and what a
domain loses when it is switched off. -/

namespace Sys2Proof.Machine

/-- A register of a power domain: 0 CTRL, 4 STAT, 8 RUN_EN, 0xC SLEEP_EN, 0x10 DEEP_EN. -/
def pwrReg (d off : Nat) : Nat := aonReg 0 (0x100 + 0x20 * d + off)

/-! ## What a domain holds -/

/-- Keep the entries of a map that do not belong to a domain. -/
def keepOut {α : Type} (m : FMap α) (dom : Nat → Nat) (d : Nat) : FMap α := m.keep (fun k => dom k != d)

/-- R25, R356: a register of a domain that lies in the always-on logic: a field's remap block. -/
def isRemap (k : Nat) : Bool := decide (keyDom k < 48) && keyCell k == 2047 && keyBlk k == 0

/-- R69, R354: a link end whose peer has left its reset, or is in it: nothing is in flight toward it. -/
def cutEnd (l : LinkEnd) : LinkEnd :=
  { l with st := .down, wire := [], resend := 0, ackDue := none, nakEnd := none, good := 0, ready := false }

/-- Whether a link end leads into a domain from outside it. -/
def leadsInto (e : EndRef) (d : Nat) : Bool :=
  e.dom != d && (match e.peer with
    | some f => f.dom == d
    | none => false)

/-- R358: what a domain other than the service group loses without supply. Cluster SRAM and the stacks are surroundings. -/
def loseDomain (s : State) (d : Nat) : State :=
  { s with
    regs := s.regs.keep (fun k => keyDom k != d || isRemap k)
    links := (keepOut s.links endKeyDom d).map (fun x => if leadsInto (endOfKey x.1) d then (x.1, cutEnd x.2) else x)
    routers := keepOut s.routers unitKeyDom d
    units := keepOut s.units unitKeyDom d
    rx := keepOut s.rx endKeyDom d
    tx := keepOut s.tx endKeyDom d
    cmbs := keepOut s.cmbs unitKeyDom d
    gws := keepOut s.gws (fun k => 48 + k % 4) d
    warm := keepOut s.warm keyDom d
    tel := { s.tel with
      todo := s.tel.todo.filter (fun x => x % 64 != d),
      live := keepOut s.tel.live (fun k => k / 262144) d, snap := keepOut s.tel.snap (fun k => k / 262144) d } }

/-- R406, R409, R417: the security unit without its supply: the lockout lies in the always-on logic. -/
def secReset (x : Sec) : Sec :=
  { Sec.init with locked := x.locked, lockFrom := x.lockFrom, lockLen := x.lockLen, lockouts := x.lockouts }

/-- R354, R417: what the service group loses without supply. -/
def loseService (s : State) : State :=
  { s with
    regs := keepOut s.regs keyDom 52
    mer := { Mer.init with holdFrom := (clk s 54).cyc }
    flt := Flt.init
    tel := { Tel.init with live := s.tel.live, snap := s.tel.snap }
    sec := secReset s.sec
    bar := [], mirror := [] }

/-- R372: MCLK's PLL has stopped: a measuring window in which it did is not whole. -/
def mclkStop (s : State) (d : Nat) : State :=
  if d = 52 ∧ pllOff s 54 = true then setClk s 54 { clk s 54 with coastAt := (clk s 54).cyc } else s

/-- R358, R365: a domain goes OFF, or through RESET when `st` says so. -/
def powerOffTo (s : State) (d : Nat) (st : PwrSt) : State :=
  let s1 := if d = 52 then loseService s else loseDomain s d
  mclkStop (updDom s1 d (fun x => { Dom.init with
    st := st, target := st, since := s.aclk, reason := x.reason, lastWake := x.lastWake, remapBad := x.remapBad })) d

/-! ## Moves (R359, R360) -/

/-- R371: a GO that is ignored. -/
def goIgnored (s : State) (d : Nat) : State := setBits s (pwrReg d 4) 0x200

/-- R360: REASON 1: a welt table or context holds the domain. -/
def holdsWelt (s : State) (d : Nat) : Bool :=
  s.regs.any (fun x => keyDom x.1 == d && bit x.2 0 && (
    if d < 48 then
      keyCell x.1 < 1200 && ((keyBlk x.1 == 2 && ((0x2000 ≤ keyOff x.1 && keyOff x.1 < 0x2700) || (0x4000 ≤ keyOff x.1 && keyOff x.1 < 0x4700))) ||
        (keyBlk x.1 == 3 && 0xA500 ≤ keyOff x.1 && keyOff x.1 < 0xA600))
    else keyBlk x.1 == 0 && 0x6000 ≤ keyOff x.1 && keyOff x.1 < 0x6600)) ||
  s.units.any (fun u => unitKeyDom u.1 == d && (!u.2.weltSrc.isEmpty || u.2.weltRx.any (fun w => w.2.valid && !w.2.closed)))

/-- R360: REASON 2: an optical link of a band that is not DISABLED. -/
def holdsOptical (s : State) (d : Nat) : Bool :=
  48 ≤ d && d < 52 && (List.range 16).any (fun i => optState s (optOf ((d - 48) * 16 + i)) != 6)

/-- R360: the reason for which a GO from RUN is refused, the lowest first; 0: none. -/
def goReason (s : State) (d : Nat) (t : PwrSt) : Nat :=
  if d < 52 then (if holdsWelt s d then 1 else if holdsOptical s d then 2 else 0)
  else if t = .deep ∧ (List.range 52).any (fun k => (dom s k).st != .deep && (dom s k).st != .off) = true then 3
  else if t = .off then 4
  else if 2 ≤ s.sec.level then 7
  else 0

/-- R361: a drain begins. -/
def drainStart (s : State) (d : Nat) (t : PwrSt) : State :=
  updDom s d (fun x => { x with st := .draining, target := t, phase := 0, wakePend := 0, since := s.aclk, drainFrom := s.aclk })

/-- R359, R360: POWER_DOWN: a GO from RUN. -/
def powerDown (s : State) (d : Nat) (t : PwrSt) : State :=
  let r := goReason s d t
  if r = 0 then drainStart s d t
  else setBits (updDom s d (fun x => { x with reason := r })) (pwrReg d 4) 0x400

/-- R335: the clock of a copy stops; pulses on their way to it are lost, and no interval is measured until its next pulse. -/
def copyGap (s : State) (d : Nat) : State := updDom s d (fun x => { x with mer := { x.mer with gap := true, flight := [] } })

/-- R154, R358: the meters of a band whose clocks stop are updated no more; the periods that pass until they run again give none. -/
def meterRest (s : State) (d : Nat) : State :=
  { s with gws := s.gws.map (fun x => if 48 + x.1 % 4 = d then (x.1, { x.2 with updates := 0 }) else x) }

/-- R357, R358: a domain enters SLEEP or DEEP with the enable sets as written; its copy loses VALID if its clock stops. -/
def enterLow (s : State) (d : Nat) (t : PwrSt) : State :=
  let s1 := updDom s d (fun x => { x with
    st := t, target := t, phase := 0, since := s.aclk,
    sleepEn := (rd s (pwrReg d 0xC)).toNat, deepEn := (rd s (pwrReg d 0x10)).toNat })
  let s2 := if timeRun s1 d then s1 else copyGap (copyStop s1 d) d
  let s3 := meterRest (mclkStop s2 d) d
  if d = 52 ∧ t = .deep then { s3 with sec := { s3.sec with chal := false, busy := .idle, nonce := 0 } } else s3

/-- R355, R369: the ports of a domain that had stopped train. -/
def trainPorts (s : State) (d : Nat) : State :=
  (s.links.filter (fun x => endKeyDom x.1 == d || leadsInto (endOfKey x.1) d)).foldl (fun t x =>
    match endOfKey x.1 with
    | .optical _ => t
    | e => beginTrain (updLink t e (fun l => { l with wire := [], nakEnd := none })) e) s

/-- R369: which steps a wake needs: the clocks; the supply; the PLL. -/
def wakeKind (x : Dom) : Nat :=
  match x.st with
  | .deep => if x.deepEn.testBit 7 then 1 else 2
  | _ => if x.sleepEn.testBit 7 then 0 else 3

/-- R391, R392: every counter of a domain is copied. -/
def snapTake (s : State) (d : Nat) (skew deferred : Bool) : State :=
  let mine := s.tel.live.keep (fun k => k / 262144 == d)
  let rest := s.tel.snap.keep (fun k => k / 262144 != d)
  let s1 := { s with tel := { s.tel with
    snap := mine.foldl (fun m x => m.set x.1 x.2) rest, todo := s.tel.todo.filter (fun x => x % 64 != d) } }
  updDom s1 d (fun x => { x with snapId := s.tel.id, skew := skew, deferred := deferred })

/-- R392: a domain that was in SLEEP or DEEP at Ts copies before it wakes, while its counters still have the values of then. -/
def snapDeferred (s : State) (d : Nat) : State :=
  if s.tel.todo.any (fun x => x % 64 == d) && decide (s.tel.ts / 65536 ≤ (dom s 52).mer.vis / 65536) then snapTake s d false true else s

/-- R366: a domain in SLEEP or DEEP starts to wake. -/
def wakeStart (s' : State) (d src : Nat) : State :=
  let s := snapDeferred s' d
  let x := dom s d
  let s1 := setDom s d { x with st := .waking, target := .run, phase := wakeKind x, wakePend := 0, since := s.aclk, lastWake := src }
  trainPorts (cntUp s1 (pwrReg d 4) 16 8 1) d

/-- R366, R367: a wake reaches a domain, in this ACLK cycle (R368). -/
def wakeDom (s : State) (d src : Nat) : State :=
  let x := dom s d
  let y := { x with wakeAt := some s.aclk }
  match x.st with
  | .sleep => wakeStart (setDom s d y) d src
  | .deep => if src = 3 then s else wakeStart (setDom s d y) d src
  | .draining => setDom s d { y with wakePend := if x.wakePend = 0 then src else x.wakePend }
  | _ => s

/-- R362: a drain ends early. -/
def drainEnd (s : State) (d reason : Nat) : State :=
  updDom s d (fun x => { x with st := .run, target := .run, phase := 0, wakePend := 0, reason := reason })

/-- R365: FORCE_OFF. -/
def forceOff (s : State) (d : Nat) : State := powerOffTo s d .off

/-- R371: the state a TARGET value names. -/
def targetOf (v : Nat) : PwrSt :=
  match v with
  | 0 => .run
  | 1 => .sleep
  | 2 => .deep
  | _ => .off

/-- R359, R362, R365, R368: a GO. One in the ACLK cycle of a wake of the domain is ignored (log entry 19). -/
def powerGo (s : State) (d : Nat) (t : PwrSt) (force : Bool) : State :=
  let x := dom s d
  if x.wakeAt = some s.aclk then goIgnored s d
  else
  match x.st with
  | .run =>
    if t = .run then goIgnored s d
    else if force ∧ t = .off then forceOff s d
    else powerDown s d t
  | .sleep =>
    match t with
    | .run => wakeStart s d 1
    | .deep => enterLow s d .deep
    | .off => forceOff s d
    | _ => goIgnored s d
  | .deep =>
    match t with
    | .run => wakeStart s d 1
    | .off => forceOff s d
    | _ => goIgnored s d
  | .off => if t = .run then updDom s d (fun y => { y with st := .reset, target := .run, since := s.aclk }) else goIgnored s d
  | .draining => if t = .run ∧ x.phase < 2 then drainEnd s d 6 else goIgnored s d
  | _ => goIgnored s d

/-! ## Phases of a drain (R361) -/

/-- R361, R363: whether a held access is for the service group itself, which holds it from QUIESCE on, or needs no root
(R243). -/
def heldThere (a : HeldAcc) : Bool :=
  match a.via with
  | .loc _ => true
  | _ => decide (barBase ≤ a.key) || keyDom a.key == 52

/-- R361: whether a domain has no context, outstanding entry, running combine entry or held memory request; the service
group, no access in progress and no comparison (R414). -/
def quiesced (s : State) (d : Nat) : Bool :=
  if d = 52 then s.sec.busy == .idle && s.held.all heldThere
  else
    s.units.all (fun u => unitKeyDom u.1 != d || (u.2.ctxs.isEmpty && u.2.out.all (fun e => e.2.quar))) &&
    s.cmbs.all (fun c => unitKeyDom c.1 != d || c.2.ents.all (fun e => e.2.run.isNone)) &&
    s.gws.all (fun g => 48 + g.1 % 4 != d || g.2.reqs.isEmpty)

/-- Whether a flit on a wire carries anything that must arrive: a sequenced flit. -/
def wireBusy (w : Wire) : Bool := isSeq (bits w.flit 512 3)

/-- R361: whether an end holds nothing that is still to leave or arrive; at a boundary, nothing unacknowledged. -/
def endEmpty (d k : Nat) (l : LinkEnd) : Bool :=
  let e := endOfKey k
  if endKeyDom k == d then !l.wire.any wireBusy && (!e.boundary || l.replay.isEmpty)
  else !leadsInto e d || (l.replay.isEmpty && !l.wire.any wireBusy)

/-- R361: whether no packet of a neighbouring domain holds an output VC toward a domain. -/
def approachDone (s : State) (d : Nat) : Bool :=
  s.routers.all (fun r => unitKeyDom r.1 == d || r.2.ports.all (fun p => p.2.vcs.all (fun v =>
    match v.cur with
    | some u => u.copies.all (fun y => y.ovc.isNone || y.void || farDom (cellOfKey r.1) y.out != d)
    | none => true))) &&
  s.tx.all (fun t => !leadsInto (endOfKey t.1) d || t.2.cur.all (fun c => c.isNone))

/-- R361: whether every buffer, queue and pipeline of a domain is empty, and the packets that hold an output VC toward it have
finished. -/
def drained (s : State) (d : Nat) : Bool :=
  approachDone s d &&
  s.links.all (fun x => endEmpty d x.1 x.2) &&
  s.routers.all (fun r => unitKeyDom r.1 != d ||
    r.2.ports.all (fun p => p.2.vcs.all (fun v => v.q.isEmpty && v.cur.isNone) && p.2.welt.all (fun w => w.2.isEmpty))) &&
  s.units.all (fun u => unitKeyDom u.1 != d || (u.2.inbox.isEmpty && u.2.resp.isEmpty && u.2.weltCur.isEmpty)) &&
  s.cmbs.all (fun c => unitKeyDom c.1 != d || c.2.inbox.isEmpty) &&
  s.rx.all (fun r => endKeyDom r.1 != d || r.2.vcs.all (fun v => v.buf.isEmpty && v.asm.isNone)) &&
  s.tx.all (fun t => endKeyDom t.1 != d || (t.2.queue.isEmpty && t.2.cur.all (fun c => c.isNone))) &&
  s.gws.all (fun g => 48 + g.1 % 4 != d || (g.2.opt.out.isEmpty && g.2.opt.txCur.isEmpty &&
    g.2.opt.ingress.all (fun v => v.buf.isEmpty) && g.2.reqs.isEmpty))

/-- R361: QUIESCE_END. -/
def quiesceEnd (s : State) (d : Nat) : State :=
  let x := dom s d
  if x.st = .draining ∧ x.phase = 0 ∧ quiesced s d = true then setDom s d { x with phase := 1, since := s.aclk } else s

/-- R361: CLOSE_END. -/
def closeEnd (s : State) (d : Nat) : State :=
  let x := dom s d
  if x.st = .draining ∧ x.phase = 1 ∧ drained s d = true then setDom s d { x with phase := 2, since := s.aclk } else s

/-- R361, R367: GATE_END: eight steps of 160 ns, then the target state and the latched wake. -/
def gateEnd (s : State) (d : Nat) : State :=
  let x := dom s d
  if x.st = .draining ∧ x.phase = 2 ∧ x.since + 128 ≤ s.aclk then
    if x.target = .off then
      if x.wakePend = 0 then powerOffTo s d .off
      else cntUp (updDom (powerOffTo s d .reset) d (fun y => { y with lastWake := x.wakePend })) (pwrReg d 4) 16 8 1
    else
      let s1 := enterLow s d x.target
      if x.wakePend = 0 then s1 else wakeStart s1 d x.wakePend
  else s

/-- R362: DRAIN_TIMEOUT. -/
def drainTimeout (s : State) (d : Nat) : State :=
  let x := dom s d
  if x.st = .draining ∧ x.phase < 2 ∧ x.drainFrom + 100 * max 1 (rdF s (aonReg 0 0) 0 20) < s.aclk then
    setBits (drainEnd s d 5) (pwrReg d 4) 0x100
  else s

/-! ## Wakes (R364, R366) -/

/-- R90, R93, R305: the first hops of every eligible path of a packet from a cell. -/
def wantHops (s : State) (u : UnitRef) (src : Cell) (cls : Nat) (h : Payload) : List Nat :=
  let dsts : List Cell :=
    if isLocal s u.dom (hDw h) then
      if hDx h ≤ 239 then [mkCell (hDx h) (hDy h)]
      else
        match gwOf (hDx h / 4 % 4) (hDx h) (hDy h) with
        | some g => [attCell g (attIndex g (hOff h) src.x.val src.y.val)]
        | none => []
    else
      match wmapFind s u (hDw h) with
      | none => []
      | some i => (List.range 8).filterMap (fun k =>
          if pathFor s u (48 + i) k cls then
            some (attCell (optOf (offLink s u i k)).gw (attIndex (optOf (offLink s u i k)).gw (hOff h) src.x.val src.y.val))
          else none)
  dsts.flatMap (fun c => (List.range 8).filterMap (fun k => (eligible s u src c.field k cls c).map (firstHop u cls)))

/-- The packets that wait at a unit's ends and have not started: the end, the class and the header unit. -/
def waitingPkts (s : State) (u : UnitRef) : List (EndRef × Nat × Payload) :=
  let heads := (List.range (sqCount u)).filterMap (fun q =>
    match headPlan s u q with
    | some (id, x, p) => if p.mcast || planOwn s u p then none else (planPkt s u id x p).map (fun z => (p.cls, z.hdr))
    | none => none)
  let rsp := (punit s u).resp.map (fun z => (z.port, z.cls, z.hdr))
  match u with
  | .ni c =>
    heads.map (fun x => (.ni c, x.1, x.2)) ++ rsp.map (fun x => (.ni c, x.2.1, x.2.2)) ++
      (txEnd s (.cmb c)).queue.map (fun z => (.cmb c, z.cls, z.hdr))
  | .gw g =>
    heads.map (fun x => (.gw g 0, x.1, x.2)) ++ rsp.map (fun x => (.gw g (Fin.ofNat 16 x.1), x.2.1, x.2.2)) ++
      (unitEnds u).flatMap (fun e => (txEnd s e).queue.map (fun z => (e, z.cls, z.hdr)))

/-- R361, R364: whether a header unit that holds an output VC into a domain waits too: one left when the port went DOWN. -/
def heldBack (s : State) (d : Nat) : Bool := (dom s d).st != .draining

/-- R364: whether a packet of a unit waits because its way leads into a domain. -/
def unitWaits (s : State) (u : UnitRef) (d : Nat) : Bool :=
  clocked s u.dom && ((waitingPkts s u).any (fun x =>
    let src := endCell x.1
    let hops := wantHops s u src x.2.1 x.2.2
    leadsInto x.1 d || (hops.any (fun p => farDom src p == d) && hops.all (fun p => !hopOpen s src p))) ||
   (heldBack s d && (unitEnds u).any (fun e => leadsInto e d && (txEnd s e).cur.any (fun z => z.any (fun y => !y.begun)))))

/-- R364: whether a header unit waits at a router of a neighbouring domain for an output into a domain. -/
def routerWaits (s : State) (d : Nat) : Bool :=
  s.routers.any (fun r =>
    let c := cellOfKey r.1
    c.field != d && clocked s c.field && r.2.ports.any (fun p => p.2.vcs.any (fun v =>
      match v.cur with
      | some u => u.copies.any (fun y => (y.ovc.isNone || heldBack s d) && !y.begun && !y.void && farDom c y.out == d)
      | none => false)))

/-- The unit with an index. -/
def unitOfKey (k : Nat) : UnitRef :=
  if k < 57600 then .ni (cellOfKey k)
  else
    match gwOfNum (k - 57600) with
    | some g => .gw g
    | none => .ni (cellOfKey 0)

/-- R364, R366: WAKE_PACKET. -/
def wakePacket (s : State) (d : Nat) : State :=
  if holdsOut s d && d != 52 && (routerWaits s d || s.units.any (fun u => unitWaits s (unitOfKey u.1) d)) then wakeDom s d 2 else s

/-- R366, R371: the wake pin takes a level. -/
def wakeIn (s : State) (level : Bool) : State :=
  let rise := level && !s.wakePin
  let s1 := { s with wakePin := level }
  if rise then wakeDom (setBits (cntUp s1 (aonReg 0 8) 8 8 1) (aonReg 0 8) 2) 52 4 else s1

/-- R366, R371: WAKE_TIMER. -/
def wakeTimer (s : State) : State :=
  let k := aonReg 0 4
  if bit (rd s k) 31 = true ∧ rdF s k 0 31 = 0 then wrF (wakeDom s 52 5) k 31 1 0 else s

/-! ## Entering RUN -/

/-- The ends of a domain's links inside the wafer. -/
def domEnds (d : Nat) : List EndRef :=
  if d < 48 then
    (List.range 1200).flatMap (fun n =>
      let c := cellOf d n
      ((List.finRange 7).map (fun p => EndRef.router c p)) ++ [.ni c, .cmb c])
  else
    ((List.range 256).filterMap gwOfNum).flatMap (fun g =>
      if g.dom = d then (List.range (gwCount g.kind)).map (fun j => EndRef.gw g (Fin.ofNat 16 j)) else [])

/-- R369: whether every port of a domain is UP. DEDUCED (log entry 155): but for those that lead nowhere and never train, the
idle G ports (R41) and the port 6 of a cell without one. -/
def portsUp (s : State) (d : Nat) : Bool := (domEnds d).all (fun e => e.peer.isNone || effSt s e == some .up)

/-- R369: whether a waking domain may enter RUN. -/
def wakeReady (s : State) (d : Nat) : Bool :=
  let x := dom s d
  x.st == .waking && decide (x.since + ungateAt x ≤ s.aclk) && (decide (x.since + ungateAt x + 50 ≤ s.aclk) || portsUp s d)

/-- R428: the copies that the root has of mirrored registers reach a domain that enters RUN. -/
def replayMirror (s : State) (d : Nat) : State :=
  let s1 := updDom s d (fun x => { x with copies := s.mirror.foldl (fun m e => m.set e.1 e.2) x.copies })
  if 48 ≤ d ∧ d < 52 ∧ s.mirror ≠ [] then evalAll s1 else s1

/-- R309, R323: the optical links of a band that leaves its reset give their neighbours time to show themselves. -/
def startDisc (s : State) (d : Nat) : State :=
  if 48 ≤ d ∧ d < 52 ∧ cyc s d ≠ 0 then
    (List.range 16).foldl (fun t i => discStart t (optOf ((d - 48) * 16 + i))) s
  else s

/-- R344: the fuse values of MER_FOFS. -/
def loadFofs (s : State) : State := s.fuses.fofs.foldl (fun t x => wr t (merReg (0x100 + 4 * x.1)) x.2) s

/-- R354, R369: a domain leaves its reset and enters RUN. -/
def resetRun (s : State) (d : Nat) : State :=
  let s1 := updDom s d (fun x => { x with st := .run, target := .run, since := s.aclk })
  if d = 52 then loadFofs { s1 with mer := { Mer.init with holdFrom := (clk s 54).cyc } }
  else replayMirror (startDisc (trainPorts s1 d) d) d

/-! ## The commands -/

/-- QUIESCE_END (R361). -/
def execQuiesceEnd (d : Fin 53) (s : State) : Host.Outcome State Fault Refusal := .next (quiesceEnd s d.val)

/-- WAKE_PACKET (R364). -/
def execWakePacket (d : Fin 53) (s : State) : Host.Outcome State Fault Refusal := .next (wakePacket s d.val)

/-- WAKE_IN (R366). -/
def execWakeIn (level : Bool) (s : State) : Host.Outcome State Fault Refusal := .next (wakeIn s level)

/-- WAKE_TIMER (R366). -/
def execWakeTimer (s : State) : Host.Outcome State Fault Refusal := .next (wakeTimer s)

end Sys2Proof.Machine
end

