-- ==== Sys2Proof/Machine/Faults.lean ====
section
/-! DEFINITION. Error pins, collectors, the fault log and fault injection (R374-R387), and telemetry snapshots
(R388-R393). -/

namespace Sys2Proof.Machine

/-! ## Remap (R19, R20, R22) -/

/-- R22, R25: the column fence mask of a field. -/
def colMask (s : State) (f : Nat) : Nat := s.fuses.cols.get f 0x300000
/-- R22, R25: the row fence mask of a field. -/
def rowMask (s : State) (f : Nat) : Nat := s.fuses.rows.get f 0x18000

/-- The fenced numbers of a mask. -/
def fenced (m n : Nat) : List Nat := (List.range n).filter (fun i => m.testBit i)

/-- R19, R20: whether a field's masks are usable. -/
def remapOk (s : State) (f : Nat) : Bool :=
  let c := colMask s f
  let r := rowMask s f
  (fenced c 42).length == 2 && (fenced r 32).length == 2 && !(f % 6 == 0 && c.testBit 0) && !(f % 6 == 5 && c.testBit 41) &&
    !(f / 6 == 0 && r.testBit 0) && !(f / 6 == 7 && r.testBit 31)

/-! ## Pins (R374, R380-R382) -/

/-- R374: the number of the pin of class 18, SRAM_CE, of a cell's NI; the pins of the router and welt blocks and every other
pin have the number of their class. -/
def niSramPin : Nat := 18 + 64

/-- R374, R380: the pins of a class in a collector's domain, one per block that owns it. -/
def classPins (d cls : Nat) : List Nat := if d < 48 ∧ cls = 18 then [18, niSramPin] else [cls]

/-- The level of a pin of a cell of a field (R380). -/
def cellPin (s : State) (c : Cell) (cls : Nat) : Bool :=
  let ports := fun (m : Nat) => (List.range 7).any (fun p => (rd s (portReg c p 8)).toNat &&& m != 0)
  match cls with
  | 1 => ports 0x2
  | 2 => ports 0x10
  | 3 => ports 0x20
  | 4 => ports 0xC0
  | 5 => ports 0x100
  | 6 => ports 0x200
  | 7 => ports 0x400
  | 8 => bit (rd s (cellReg c 0 0xC)) 9
  | 9 => bit (rd s (cellReg c 1 8)) 8
  | 10 => bit (rd s (cellReg c 2 4)) 0
  | 11 => bit (rd s (cellReg c 2 4)) 1
  | 12 => bit (rd s (cellReg c 2 4)) 2
  | 13 => bit (rd s (cellReg c 4 4)) 2
  | 14 => bit (rd s (cellReg c 4 4)) 5
  | 15 => bit (rd s (cellReg c 4 4)) 6
  | 16 => bit (rd s (cellReg c 4 4)) 9
  | 17 => bit (rd s (cellReg c 3 0xE000)) 25
  | 18 => bit (rd s (cellReg c 0 0xC)) 8
  | 82 => bit (rd s (cellReg c 3 0xE000)) 24
  | _ => false

/-- The level of class `cls` of a gateway port (R381). -/
def gwPin (s : State) (g : GwId) (cls : Nat) : Bool :=
  let k := g.kind
  match cls with
  | 0 => k == 1 && bit (rd s (gwReg g 1 0x14)) 0
  | 1 => k == 1 && bit (rd s (gwReg g 1 0x14)) 4
  | 2 => k == 1 && bit (rd s (gwReg g 1 0x14)) 5
  | 3 => k == 1 && bit (rd s (gwReg g 1 0x14)) 6
  | 4 => k == 1 && bit (rd s (gwReg g 1 0x14)) 7
  | 5 => k == 1 && (gw s g).opt.lost
  | 6 => k == 0 && bit (rd s (gwReg g 1 8)) 0
  | 7 => k == 0 && bit (rd s (gwReg g 1 8)) 1
  | 8 => k == 2 && bit (rd s (gwReg g 1 4)) 2
  | 9 => k == 2 && bit (rd s (gwReg g 1 4)) 4
  | 10 => (rd s (gwReg g 0 0x10)).toNat &&& 7 != 0
  | 11 => bit (rd s (gwReg g 0 8)) 0
  | _ => false

/-- A register of the FLT_ block. -/
def fltReg (off : Nat) : Nat := svcReg 2 off
/-- A register of collector d. -/
def colReg (d off : Nat) : Nat := fltReg (0x100 + 0x40 * d + off)

/-- The level of a service class (R382). -/
def svcPin (s : State) (cls : Nat) : Bool :=
  match cls with
  | 52 => bit (rd s (svcReg 0 0x18)) 3
  | 53 => (rd s (merReg 4)).toNat &&& 6 != 0
  | 54 => (List.range 60).any (fun k => bit (rd s (clkReg k 0)) 3)
  | 55 => (List.range 53).any (fun d => (rd s (pwrReg d 4)).toNat &&& 0x500 != 0)
  | 56 => (rd s (svcReg 4 0xC)).toNat &&& 0xF != 0
  | 57 => (List.range 52).any (fun d => bit (rd s (colReg d 0x28)) 8)
  | 58 => s.boot.fused && (!s.fuses.keyOk || (s.fuses.life == 0 && !s.fuses.pwdOk))
  | _ => false

/-- R374, R376: the level of a pin. A domain without clocks and supply leaves its pins at their last level. -/
def pinLevel (s : State) (d cell cls : Nat) : Bool :=
  if d = 52 then cell == 2047 && svcPin s cls
  else if d < 48 ∧ cls = 0 then cell == 2047 && (dom s d).remapBad
  else
    match (dom s d).st with
    | .deep => s.flt.seen.contains (d, cell, cls)
    | .off => s.flt.seen.contains (d, cell, cls)
    | .reset => s.flt.seen.contains (d, cell, cls)
    | _ =>
      if d < 48 then decide (cell < 1200) && cellPin s (cellOf d cell) cls
      else
        match gwOfNum cell with
        | some g => decide (cell < 256) && g.side == d - 48 && gwPin s g cls
        | none => false

/-- Pins whose level has fallen are ready to rise again. -/
def dropPins (s : State) : State :=
  { s with flt := { s.flt with seen := s.flt.seen.filter (fun x => pinLevel s x.1 x.2.1 x.2.2) } }

/-! ## Status and severity (R375, R377, R379) -/

/-- R379: the severity of a class of a collector, or of a service class (d = 52). -/
def sevOf (s : State) (d cls : Nat) : Nat :=
  if d = 52 then (if cls < 59 then rdF s (fltReg 0x10) (2 * (cls - 52)) 2 else 3)
  else rdF s (colReg d (0x10 + 4 * (cls / 16))) (2 * (cls % 16)) 2

/-- R375, R382: set the status bit of a class that is not MASKED. -/
def setStat (s : State) (d cls : Nat) : State :=
  if sevOf s d cls = 3 then s
  else if d = 52 then setBits s (fltReg 4) (2 ^ (20 + (cls - 52)))
  else setBits s (colReg d (4 * (cls / 32))) (2 ^ (cls % 32))

/-- The pins whose rise the collectors have seen and that are still high. -/
def highPins (s : State) : List (Nat × Nat × Nat) := s.flt.seen.filter (fun x => pinLevel s x.1 x.2.1 x.2.2)

/-- R375, R377: the status follows the levels the collectors see. -/
def refreshStat (s : State) : State := (highPins s).foldl (fun t x => setStat t x.1 (x.2.2 % 64)) s

/-- R375: the RAW word of a collector: n = 0 low, 1 high. -/
def rawWord (s : State) (d n : Nat) : Nat :=
  (List.range 32).foldl (fun a i => if (highPins s).any (fun x => x.1 == d && x.2.2 % 64 == 32 * n + i) then a + 2 ^ i else a) 0

/-- R379: whether a collector holds a status bit whose class is CONTAINED or FATAL. -/
def topBit (s : State) (d : Nat) : Bool :=
  (List.range 64).any (fun c => bit (rd s (colReg d (4 * (c / 32)))) (c % 32) && (sevOf s d c == 1 || sevOf s d c == 2))

/-! ## Reports (R375, R378, R384) -/

/-- R378, R379: the top collector hears of a report: locators, the fatal flag, and its place in line for the log. -/
def topTake (s : State) (r : Report) : State :=
  let sv := sevOf s r.d r.cls
  let bad := sv == 1 || sv == 2
  let first := bad && r.d != 52 && !bit (rd s (colReg r.d 0x20)) 31
  let s1 := if first then wr s (colReg r.d 0x20) (BitVec.ofNat 32 (r.cell + 2048 * r.cls + 2147483648)) else s
  let fatal := sv == 2
  let loc := fatal && !bit (rd s1 (fltReg 0xC)) 31
  let s2 := if fatal then setBits s1 (fltReg 8) 1 else s1
  let s3 := if loc then wr s2 (fltReg 0xC) (BitVec.ofNat 32 (r.d + 64 * r.cell + 131072 * r.cls + 2147483648)) else s2
  if bad || (sv == 0 && bit (rd s (fltReg 0x14)) 0) then { s3 with flt := { s3.flt with top := s3.flt.top ++ [⟨r, sv, first, loc⟩] } }
  else s3

/-- R375: a report reaches its collector's queue, or is lost; a service report goes straight on. -/
def report (s : State) (r : Report) : State :=
  if r.d = 52 then topTake s r
  else
    let q := s.flt.pend.get r.d []
    if 16 ≤ q.length then setBits (cntUp s (colReg r.d 0x28) 16 16 1) (colReg r.d 0x28) 0x100
    else { s with flt := { s.flt with pend := s.flt.pend.set r.d (q ++ [r]) } }

/-- R374, R375: a pin of a class and cell that is high and whose rise its collector has not seen. -/
def risenPin (s : State) (d cell cls : Nat) : Option Nat :=
  (classPins d cls).find? (fun p => pinLevel s d cell p && !s.flt.seen.contains (d, cell, p))

/-- R375: ERROR_PIN_RISE: the pin of one block. -/
def errorPinRise (s : State) (d cell cls : Nat) : State :=
  let s1 := dropPins s
  if clkRun s 57 then
    match risenPin s1 d cell cls with
    | some p =>
      let s2 := { s1 with flt := { s1.flt with seen := s1.flt.seen ++ [(d, cell, p)] } }
      report (setStat s2 d cls) ⟨d, cell, cls, false⟩
    | none => s1
  else s1

/-- R375: REPORT_ACCEPT. -/
def reportAccept (s : State) (d : Nat) : State :=
  match s.flt.pend.get d [] with
  | r :: q => if clkRun s 57 then topTake { s with flt := { s.flt with pend := if q.isEmpty then s.flt.pend.erase d else s.flt.pend.set d q } } r else s
  | [] => s

/-- R396: word 3 of a log entry. -/
def logWord3 (r : Report) (sv : Nat) (first : Bool) : Nat :=
  r.d + 64 * r.cell + 131072 * r.cls + 8388608 * sv + 33554432 * b2n first + 67108864 * b2n r.inj

/-- R384, R385: LOG_WRITE. -/
def logWrite (s : State) : State :=
  match s.flt.top with
  | [] => s
  | x :: l =>
    if clkRun s 57 then
      let r := x.rep
      let w := rd s (fltReg 0x20)
      let rdc := rd s (fltReg 0x24)
      let s1 := { s with flt := { s.flt with top := l } }
      let s2 := if cntDiff w rdc = 64 then cntUp (wr s1 (fltReg 0x24) (rdc + 1)) (fltReg 0x28) 16 16 1 else s1
      let k := fltReg (0x1000 + 0x10 * (w.toNat % 64))
      let ns := (dom s 52).mer.vis / 65536
      let s3 := wr (wr (wr (wr s2 k w) (k + 4) (BitVec.ofNat 32 (ns % 1000000000 + 1073741824 * b2n (stampUnsync s 52))))
        (k + 8) (BitVec.ofNat 32 (ns / 1000000000))) (k + 12) (BitVec.ofNat 32 (logWord3 r x.sev (x.first || x.loc)))
      let s4 := if x.first && r.d != 52 && bit (rd s3 (colReg r.d 0x20)) 31 then wr s3 (colReg r.d 0x24) w else s3
      wr s4 (fltReg 0x20) (w + 1)
    else s

/-- R385: a write of FLT_LOG_RD. -/
def logRead (s : State) (v : Word) : State :=
  let w := rd s (fltReg 0x20)
  let r := rd s (fltReg 0x24)
  if cntDiff v r ≤ cntDiff w r then wr s (fltReg 0x24) v else setBits s (fltReg 0x28) 0x100

/-! ## Fault injection (R387) -/

/-- R387: the link end of the output that an injection names. -/
def injEnd (tgt : Word) : EndRef := .router (cellOf (bits tgt 0 6) (bits tgt 6 11)) (Fin.ofNat 7 (bits tgt 17 3))

/-- R387: the optical link that an injection names by band and GW_ID. -/
def injOpt (tgt : Word) : Option OptId :=
  match gwOfNum (bits tgt 6 8) with
  | some (.opt sd i) => if 48 + sd.val = bits tgt 0 6 then some ⟨sd, i⟩ else none
  | _ => none

/-- R387: what an injection waits for, as a count so far: sequenced flits sent on the output, words written to the buffer, to
Last or to scratch, DATA chunks generated, codewords sent. -/
def injCount (s : State) (tgt ctl : Word) : Nat :=
  let c := cellOf (bits tgt 0 6) (bits tgt 6 11)
  match bits ctl 0 3 with
  | 0 => 0
  | 1 => (link s (injEnd tgt)).sent
  | 2 => (link s (injEnd tgt)).sent
  | 3 => (rport s c (bits tgt 17 3)).bufWr.1
  | 4 => (punit s (.ni c)).lastWr.1
  | 5 => (cmb s c).wr.1
  | 6 => (cmb s c).gen
  | _ => (injOpt tgt).elim 0 (fun o => (opt s o).sent)

/-- R387: FLT_INJ_CTRL.GO. -/
def injectGo (s : State) : State :=
  if s.sec.level = 3 then
    let t := rd s (fltReg 0x30)
    let k := rd s (fltReg 0x34)
    { s with flt := { s.flt with inj := true, tgt := t, ctl := k, mark := injCount s t k } }
  else setBits s (fltReg 0x34) 0x200

/-- R387: an injection has fired. -/
def injDone (s : State) : State := cntUp { s with flt := { s.flt with inj := false } } (fltReg 0x34) 16 8 1

/-- Change the last element of a list. -/
def onLast {α : Type} (f : α → α) (l : List α) : List α :=
  match l.reverse with
  | a :: r => (f a :: r).reverse
  | [] => []

/-- R387: TYPE 1 and 2: disturb the newest sequenced flit on the wires from an output. -/
def injLink (s : State) (e : EndRef) (flips : BitVec 568) : Option State :=
  match e.peer with
  | none => none
  | some f =>
    match (link s f).wire.getLast? with
    | some w =>
      if wireBusy w then
        some (updLink s f (fun l => { l with wire := onLast (fun x => { x with flit := x.flit ^^^ flips }) l.wire }))
      else none
    | none => none

/-- R387: TYPE 3: disturb the newest word of an input buffer. -/
def injBuf (s : State) (c : Cell) (p n : Nat) : Option State :=
  let v := (rport s c p).bufWr.2
  match (vcIn s c p v).q.getLast? with
  | some f =>
    if f.credit then some (setVcIn s c p v { vcIn s c p v with q := onLast (fun f => { f with bad := n }) (vcIn s c p v).q }) else none
  | none => none

/-- R387: TYPE 4: disturb the newest word of Last. -/
def injLast (s : State) (c : Cell) (n : Nat) : Option State :=
  let i := (punit s (.ni c)).lastWr.2
  ((punit s (.ni c)).last.find i).map (fun x => updUnit s (.ni c) (fun p => { p with last := p.last.set i { x with bad := n } }))

/-- R387: TYPE 5: disturb the word of combine scratch written last. -/
def injScratch (s : State) (c : Cell) (n : Nat) : State :=
  let x := cmb s c
  setCmb s c { x with bad := (x.wr.2, n) :: x.bad.filter (fun y => y.1 != x.wr.2) }

/-- R387: TYPE 6: complement the check value of the newest DATA chunk that waits to leave a combine unit. -/
def injChunk (s : State) (c : Cell) : Option State :=
  let q := (txEnd s (.cmb c)).queue
  let isData := fun (z : TxPkt) => hInl z.hdr 12 3 == 0
  match (q.filter isData).getLast? with
  | none => none
  | some z =>
    let same := fun (y : TxPkt) => isData y && hInl y.hdr 0 96 == hInl z.hdr 0 96 && hDest y.hdr == hDest z.hdr
    some (setTxEnd s (.cmb c) { txEnd s (.cmb c) with
      queue := mapIf same (fun y => { y with hdr := put y.hdr 480 32 (hInl y.hdr 96 32 ^^^ 0xFFFFFFFF) }) q })

/-- R387: TYPE 7: the codeword that a link has just sent becomes uncorrectable. -/
def injCw (s : State) (tgt : Word) : Option State :=
  match injOpt tgt with
  | some o =>
    match (opt s o).txCw with
    | some (.framed lane _ _) => some (updOpt s o (fun x => { x with txCw := some (.uncorrectable lane) }))
    | some (.laneTest lane _ _) => some (updOpt s o (fun x => { x with txCw := some (.uncorrectable lane) }))
    | _ => none
  | none => none

/-- R387: what the pending injection does now, to the newest word, flit, chunk or codeword of its target; none: its event has
not come since the GO. -/
def injFire (s : State) : Option State :=
  let t := s.flt.tgt
  if bits s.flt.ctl 0 3 ≠ 0 ∧ injCount s t s.flt.ctl = s.flt.mark then none
  else
  let arg := bits s.flt.ctl 3 2
  let c := cellOf (bits t 0 6) (bits t 6 11)
  let n := if arg = 0 then 1 else 2
  match bits s.flt.ctl 0 3 with
  | 0 => some (if bits t 0 6 < 52 then report s ⟨bits t 0 6, bits t 6 11, bits t 20 6, true⟩ else s)
  | 1 => injLink s (injEnd t) (BitVec.ofNat 568 (2 ^ (min arg 2 + 1) - 1))
  | 2 => injLink s (injEnd t) (BitVec.ofNat 568 ((2 ^ n - 1) * 2 ^ 512))
  | 3 => injBuf s c (bits t 17 3) n
  | 4 => injLast s c n
  | 5 => some (injScratch s c n)
  | 6 => injChunk s c
  | _ => injCw s t

/-- R387: FAULT_INJECT_FIRE. -/
def injectFire (s : State) : State :=
  if s.flt.inj && clkRun s 57 then
    match injFire s with
    | some t => injDone t
    | none => s
  else s

/-! ## Snapshots (R391-R393) -/

/-- A register of TEL_SNAP. -/
def snapReg (off : Nat) : Nat := svcReg 3 off

/-- R391: TEL_SNAP_CTRL.GO. -/
def snapshotGo (s : State) : State :=
  if s.tel.busy then setBits s (snapReg 0) 4
  else
    let m := (dom s 52).mer
    let ts := m.vis + 2000 * 65536
    let id := (s.tel.id + 1) % 65536
    let ns := ts / 65536
    let sec := ns / 1000000000
    let late := fun (d : Nat) => clocked s d && (!(dom s d).mer.valid || decide (ts / 65536 ≤ (dom s d).mer.vis / 65536))
    let todo := ((List.range 52).filter (fun d => (dom s d).st != .off && (dom s d).st != .reset)).map (fun d => if late d then d + 64 else d)
    let s1 := { s with tel := { s.tel with id := id, busy := true, ts := ts, todo := todo } }
    wr (wr (wr s1 (snapReg 4) (BitVec.ofNat 32 sec))
      (snapReg 8) (BitVec.ofNat 32 (sec / 4294967296 % 65536 + 2147483648 * b2n m.unsync))) (snapReg 12) (BitVec.ofNat 32 (ns % 1000000000))

/-- R391: SNAPSHOT_COPY: at once where the request came after Ts or found the copy not VALID, else once it is VALID and at or
after Ts. -/
def snapshotCopy (s : State) (d : Nat) : State :=
  match s.tel.todo.find? (fun x => x % 64 == d) with
  | none => s
  | some x =>
    let m := (dom s d).mer
    if clocked s d = false then s
    else if 64 ≤ x then snapTake s d true false
    else if m.valid = true ∧ s.tel.ts / 65536 ≤ m.vis / 65536 then snapTake s d false false
    else s

/-- R391: SNAPSHOT_BUSY_END. -/
def snapshotBusyEnd (s : State) : State :=
  if s.tel.busy && decide (s.tel.ts / 65536 + 2000 ≤ (dom s 52).mer.vis / 65536) then { s with tel := { s.tel with busy := false } } else s

/-! ## The commands -/

/-- ERROR_PIN_RISE (R375). -/
def execErrorPinRise (d : Fin 53) (cell : Fin 2048) (cls : Fin 64) (s : State) : Host.Outcome State Fault Refusal :=
  .next (errorPinRise s d.val cell.val cls.val)

/-- REPORT_ACCEPT (R375). -/
def execReportAccept (d : Fin 53) (s : State) : Host.Outcome State Fault Refusal := .next (reportAccept s d.val)

/-- LOG_WRITE (R384). -/
def execLogWrite (s : State) : Host.Outcome State Fault Refusal := .next (logWrite s)

/-- FAULT_INJECT_FIRE (R387). -/
def execFaultInjectFire (s : State) : Host.Outcome State Fault Refusal := .next (injectFire s)

/-- SNAPSHOT_COPY (R391). -/
def execSnapshotCopy (d : Fin 52) (s : State) : Host.Outcome State Fault Refusal := .next (snapshotCopy s d.val)

/-- SNAPSHOT_BUSY_END (R391). -/
def execSnapshotBusyEnd (s : State) : Host.Outcome State Fault Refusal := .next (snapshotBusyEnd s)

end Sys2Proof.Machine
end

