-- ==== Sys2Proof/Machine/Security.lean ====
section
/-! DEFINITION. The security unit: views in force, challenge and response, lockout and debug level (R400-R414). -/

namespace Sys2Proof.Machine

/-- A register of the SEC_ block. -/
def secReg (off : Nat) : Nat := svcReg 4 off

/-- Set bits of SEC_ERR. -/
def secErr (s : State) (mask : Nat) : State := setBits s (secReg 0xC) mask

/-- Replace the security unit's state. -/
def updSec (s : State) (f : Sec → Sec) : State := { s with sec := f s.sec }

/-- R405: the highest level of the lifecycle state. -/
def topLevel (s : State) : Nat := if s.fuses.life = 0 ∨ s.fuses.life = 3 then 3 else 2

/-- R403: the view in force of a host port's grant: 0 NONE, 1 U, 2 P. -/
def effView (s : State) (p : Nat) : Nat :=
  match rdF s (secReg (0x80 + 4 * p)) 0 2 with
  | 1 => 1
  | 2 => if 2 ≤ s.sec.level then 2 else 1
  | _ => 0

/-- R407: the number of a requester: 0 management port, 1 TAP; none otherwise. -/
def ownerOf (p : Path) : Option Nat :=
  match p with
  | .mgmt _ => some 0
  | .tap => some 1
  | _ => none

/-- R407: the flag that a REQUEST sets when a check fails; 0: it passes. -/
def requestFlag (s : State) (p : Path) (level mode : Nat) (healthy : Bool) : Nat :=
  if (ownerOf p).isNone || s.sec.locked || decide (level ≤ s.sec.level) || decide (topLevel s < level) then 0x10
  else if mode = 0 ∧ s.fuses.keyOk = false then 0x10
  else if mode = 1 ∧ (s.fuses.life ≠ 0 ∨ s.fuses.pwdOk = false) then 0x40
  else if healthy then 0 else 8

/-- R407: REQUEST, with LEVEL and MODE as written and what the entropy source's health test says. -/
def secRequest (s : State) (p : Path) (healthy : Bool) : State :=
  let level := rdF s (secReg 4) 0 2
  let mode := rdF s (secReg 4) 6 1
  let f := requestFlag s p level mode healthy
  if f = 0 then
    draw (updSec s (fun x => { x with
      pend := level, owner := (ownerOf p).getD 0, mode := mode, chal := false, busy := .nonce, nonce := Config.nonce s.freeCtr }))
  else secErr s f

/-- R407: CHALLENGE_READY. -/
def challengeReady (s : State) : State :=
  if s.sec.busy = .nonce ∧ clkRun s 56 = true then
    updSec s (fun x => { x with busy := .idle, chal := true, since := s.aclk, issued := (x.issued + 1) % 65536 })
  else s

/-- R409: VERIFY. DESIGN CHOICE (log entry 168): one that comes while a comparison runs does nothing. -/
def secVerify (s : State) (p : Path) : State :=
  if ownerOf p ≠ some s.sec.owner then secErr s 0x10
  else if s.sec.chal = false then secErr s 0x20
  else if s.sec.busy = .idle then updSec s (fun x => { x with busy := .verify, busyAt := (clk s 56).cyc })
  else s

/-- R408: the 48 bytes that are authenticated. -/
def secMessage (s : State) : List Byte :=
  bytesOf 32 s.sec.nonce.toNat ++ bytesOf 8 s.fuses.serial.toNat ++
    [BitVec.ofNat 8 s.sec.pend, BitVec.ofNat 8 s.sec.owner, BitVec.ofNat 8 s.fuses.life, 0, 0, 0, 0, 0]

/-- R408: the 32 bytes of the response registers. -/
def secResponse (s : State) : List Byte := (List.range 8).flatMap (fun i => bytesOf 4 (s.sec.resp.get i 0).toNat)

/-- R408: whether the response is right. -/
def secMatch (s : State) : Bool :=
  if s.sec.mode = 0 then secResponse s == hmacSha256 (bytesOf 32 s.fuses.key.toNat) (secMessage s)
  else sha256 (secResponse s) == bytesOf 32 s.fuses.pwd.toNat

/-- R414: a level of FULL or more abandons a drain of the service group. -/
def levelRaised (s : State) : State :=
  if 2 ≤ s.sec.level ∧ (dom s 52).st = .draining ∧ (dom s 52).phase < 2 then drainEnd s 52 7 else s

/-- R409: how long the k-th lockout lasts, in seconds. -/
def lockSeconds (k : Nat) : Nat := min 10240 (10 * 2 ^ (min k 12 - 1))

/-- R409: VERIFY_DONE. -/
def verifyDone (s : State) : State :=
  if s.sec.busy = .verify ∧ s.sec.busyAt + 64 ≤ (clk s 56).cyc then
    let ok := secMatch s
    let s1 := updSec s (fun x => { x with busy := .idle, chal := false, nonce := 0, resp := [] })
    if ok then levelRaised (secErr (updSec s1 (fun x => { x with level := x.pend, fails := 0 })) 4)
    else
      let s2 := secErr s1 1
      if s.sec.fails + 1 = 4 then
        secErr (updSec s2 (fun x => { x with
          fails := 0, locked := true, lockFrom := s.aclk, lockLen := lockSeconds (x.lockouts + 1), lockouts := min 255 (x.lockouts + 1) })) 2
      else updSec s2 (fun x => { x with fails := x.fails + 1 })
  else s

/-- R409: CHALLENGE_EXPIRE: 10 s of ACLK after CHAL was set. -/
def challengeExpire (s : State) : State :=
  if s.sec.chal = true ∧ s.sec.busy = .idle ∧ s.sec.since + 1000000000 ≤ s.aclk then updSec s (fun x => { x with chal := false, nonce := 0 }) else s

/-- R409: the seconds of lockout left. -/
def lockRemain (s : State) : Nat :=
  if s.sec.locked then ceilDiv (s.sec.lockFrom + s.sec.lockLen * 100000000 - s.aclk) 100000000 else 0

/-- R409: LOCKOUT_END. -/
def lockoutEnd (s : State) : State :=
  if s.sec.locked = true ∧ lockRemain s = 0 then updSec s (fun x => { x with locked := false }) else s

/-- R411, R412, R415: the instruction that acts: the debug level decides on SAMPLE/PRELOAD and EXTEST; every other code is
BYPASS. -/
def tapIr (s : State) : Nat :=
  let i := s.tap.ir
  if i = 1 ∨ i = 0x10 ∨ i = 0x11 ∨ (i = 2 ∧ 1 ≤ s.sec.level) ∨ (i = 3 ∧ s.sec.level = 3) then i else 0xFF

/-- R411: RELOCK. A test instruction that acts does so until the next Capture-DR. -/
def secRelock (s : State) : State :=
  let level := min s.sec.level (rdF s (secReg 4) 0 2)
  let s0 := { s with tap := { s.tap with lag := s.tap.lag || tapIr s == s.tap.ir } }
  let s1 := updSec s0 (fun x => { x with level := level, chal := false, nonce := 0, busy := .idle })
  if level < 3 then { s1 with flt := { s1.flt with inj := false } } else s1

/-- R420: SEC_LIFE as it reads. -/
def secLife (s : State) : Nat := s.fuses.life % 4 + 4 * b2n s.fuses.keyOk + 8 * b2n s.fuses.pwdOk

/-- R420: SEC_DBG_STAT as it reads. -/
def secStat (s : State) : Nat :=
  let x := s.sec
  x.level + 4 * x.pend + 16 * b2n x.chal + 32 * x.owner + 64 * b2n (x.busy != .idle) + 128 * b2n x.locked + 256 * x.fails + 65536 * x.issued

/-! ## The commands -/

/-- CHALLENGE_READY (R407). -/
def execChallengeReady (s : State) : Host.Outcome State Fault Refusal := .next (challengeReady s)

/-- CHALLENGE_EXPIRE (R409). -/
def execChallengeExpire (s : State) : Host.Outcome State Fault Refusal := .next (challengeExpire s)

/-- LOCKOUT_END (R409). -/
def execLockoutEnd (s : State) : Host.Outcome State Fault Refusal := .next (lockoutEnd s)

end Sys2Proof.Machine
end

