-- ==== Sys2Proof/Machine/Registers.lean ====
section
/-! DEFINITION. What a register reads (R12): the bits that are stored, with the bits that show what the machine holds
elsewhere (occupancies, states, tables), and what a read does besides (R12, R267, R345, R386). -/

namespace Sys2Proof.Machine

/-- Fields laid together, each (low bit, length, value). -/
def pack (l : List (Nat × Nat × Nat)) : Nat := l.foldl (fun a f => a + f.2.2 % 2 ^ f.2.1 * 2 ^ f.1) 0

/-- Word i of a bit string. -/
def wordOf (n i : Nat) : Nat := n / 2 ^ (32 * i) % 4294967296

/-! ## Router, route control and welt blocks (R77, R118, R139) -/

/-- R77: the error summary: ports whose CELL_PORT_ERR has any of bits 1 and 4 to 10. -/
def errSum (s : State) (c : Cell) : Nat :=
  (List.range 7).foldl (fun a p => if (rd s (portReg c p 8)).toNat &&& 0x7F2 != 0 then a + 2 ^ p else a) 0

/-- R69: STATE of a port; 7 where a port does not exist. -/
def portState (s : State) (e : EndRef) : Nat :=
  match effSt s e with
  | none => 7
  | some .down => 0
  | some .train => 1
  | some .up => 2
  | some .replay => 3
  | some .fail => 4

/-- R77: the registers of a port that show its link. -/
def portLive (s : State) (c : Cell) (p off : Nat) : Nat :=
  let e := EndRef.router c (Fin.ofNat 7 p)
  let l := link s e
  match off with
  | 4 => pack [(0, 3, portState s e), (3, 1, b2n e.boundary), (4, 12, l.txSeq), (16, 12, l.rxExp), (28, 4, l.run)]
  | 12 => pack ((List.range 8).map (fun v => (4 * v, 4, lget l.credits v 0)))
  | 16 => pack ((List.range 8).map (fun v => (4 * v, 4, ((vcIn s c p v).q.filter (fun f => f.credit)).length)))
  | 20 => if e.boundary then pack [(0, 4, min 8 (laneP l)), (8, 3, min 4 (laneW l))] else 0
  | _ => 0

/-- R112: the resident packets of a port, of epochs other than the current one and of all. -/
def drainOld (s : State) (c : Cell) (p : Nat) : Nat :=
  let cur := rdF s (cellReg c 1 0) 0 2
  sumN ((List.range 4).map (fun k => if k = cur then 0 else lget (rport s c p).resid k 0))

/-- R118: OLD and ALL of a port. DESIGN CHOICE (log entry 148): a count beyond their 8 bits, which cut packets can make (log
entry 21), reads 255. -/
def drainLive (s : State) (c : Cell) (p : Nat) : Nat :=
  pack [(0, 8, min 255 (drainOld s c p)), (8, 8, min 255 (sumN (rport s c p).resid))]

/-- The live bits of a router, route-control or welt register of a cell. -/
def routerLive (s : State) (c : Cell) (blk off : Nat) : Nat :=
  let r := router s c
  match blk with
  | 0 =>
    if off = 0 then pack [(0, 8, c.x.val), (8, 8, c.y.val), (16, 1, b2n c.edge)]
    else if off = 0xC then errSum s c
    else if 0x100 ≤ off ∧ off < 0x1E0 then portLive s c ((off - 0x100) / 0x20) (off % 0x20)
    else 0
  | 1 =>
    if off = 4 then pack [(0, 7, r.ena), (8, 7, r.clr)]
    else if 0x10 ≤ off then drainLive s c ((off - 0x10) / 4)
    else 0
  | _ =>
    if off = 0 then pack [(0, 1, rdF s (fieldReg c.field 2 12) 16 1), (1, 1, b2n (!r.wait.isEmpty))]
    else if 0x10 ≤ off ∧ off < 0x2C then pack [(0, 6, spillOf (rport s c ((off - 0x10) / 4)).welt)]
    else 0

/-! ## Rings and contexts (R263, R266) -/

/-- R263: STATE of a ring. -/
def ringState (x : RingSt) : Nat :=
  match x with
  | .stopped => 0
  | .running => 1
  | .stopping => 2
  | .error => 3

/-- R241: whether a descriptor holds its ring. -/
def holdsRing (s : State) (u : UnitRef) (id : Nat) (x : Ctx) : Bool :=
  (x.st == .waiting && [4, 7, 9].contains (dOp x.desc)) || (dOp x.desc == 9 && x.st == .active) ||
    waitHolds s u id x ||
    (match x.todo with
      | p :: _ => p.fence && (match streamFor s u x.ring p.dest with
          | some y => y.2.fout
          | none => false)
      | [] => false)

/-- R266: a live ring register: 3 doorbell, 4 consumer or producer count, 5 status. -/
def ringLive (s : State) (u : UnitRef) (cq : Bool) (r i : Nat) : Nat :=
  if cq then
    let x := cqOf s u r
    match i with
    | 3 => x.cci.toNat
    | 4 => x.cpi.toNat
    | 5 => pack [(0, 2, ringState x.st), (8, 9, cqRsv s u r)]
    | _ => 0
  else
    let x := sqOf s u r
    match i with
    | 3 => x.pi.toNat
    | 4 => x.ci.toNat
    | 5 => pack [(0, 2, ringState x.st),
        (2, 1, b2n ((punit s u).ctxs.any (fun y => y.2.ring == r && holdsRing s u y.1 y.2))), (8, 9, sqInexec s u r)]
    | _ => 0

/-- R264: the ring register at an offset of the NI block: kind, ring, index. -/
def niRing (off : Nat) : Bool × Nat × Nat :=
  let i := if off % 0x20 = 0 then 0 else off % 0x20 / 4 + 1
  if off < 0x200 then (false, off / 0x20, i) else (true, (off - 0x200) / 0x20, i)

/-- R265: the ring register at an offset of the HOST block. -/
def hostRing (off : Nat) : Bool × Nat × Nat :=
  if off < 0x1800 then (false, (off - 0x1000) / 0x20, off % 0x20 / 4) else (true, (off - 0x1800) / 0x20, off % 0x20 / 4)

/-! ## The NI block (R115, R117, R141, R162) -/

/-- R115: outstanding entries stamped with an epoch other than the current one. -/
def oldOut (s : State) (u : UnitRef) : Nat :=
  ((punit s u).out.filter (fun x => !x.2.quar && x.2.epoch != (punit s u).epoch)).length

/-- R117: a Last entry as a bit string. -/
def lastBits (x : LastEnt) : Nat :=
  pack ([(0, 1, b2n x.valid), (1, 4, x.inst), (5, 20, x.wafer), (25, 8, x.x), (33, 8, x.y), (41, 4, x.q),
    (45, 16, lget x.cnt 0 0), (61, 16, lget x.cnt 1 0)] ++
    (match x.held with
    | none => []
    | some h => [(77, 1, 1), (78, 1, h.gen), (79, 1, b2n (hCmd h.pkt.hdr != 0)), (80, 4, hInlen h.pkt.hdr), (84, 16, h.scount),
        (100, 16, hTag h.pkt.hdr), (116, 40, hOff h.pkt.hdr), (156, 64, natOf (hInlBytes h.pkt.hdr))]))

/-- R117: a source stream as a bit string; an entry whose STREAM_REQ is unanswered is not open. -/
def streamBits (x : SrcStream) : Nat :=
  if x.live then
    pack [(0, 1, 1), (1, 1, b2n x.broken), (2, 1, b2n x.fout), (3, 1, b2n x.relPend.isSome), (4, 20, x.dest / 65536),
      (24, 8, x.dest / 256), (32, 8, x.dest), (40, 4, x.q), (44, 9, x.stag), (53, 4, x.sinst), (57, 1, x.sgen), (58, 16, x.sent),
      (74, 11, x.unack)]
  else 0

/-- R141: a source context as a bit string. -/
def weltSrcBits (x : WeltSrc) : Nat :=
  pack [(0, 1, 1), (1, 1, b2n x.closing), (2, 4, x.q), (6, 4, x.ridx), (10, 12, x.wid), (32, 8, x.dest / 256), (40, 8, x.dest),
    (64, 20, x.dest / 65536)]

/-- R141: a receive context as a bit string. -/
def weltRxBits (x : WeltRx) : Nat :=
  pack [(0, 1, b2n x.valid), (1, 1, b2n x.closed), (2, 12, x.wid), (32, 8, x.sx), (40, 8, x.sy), (64, 20, x.sw), (96, 16, x.frameErr)]

/-- The live bits of an NI register. -/
def niLive (s : State) (c : Cell) (off : Nat) : Nat :=
  let u := UnitRef.ni c
  let p := punit s u
  if off < 0x300 then ringLive s u (niRing off).1 (niRing off).2.1 (niRing off).2.2
  else if off = 0x300 then pack [(0, 7, p.ctxs.length), (8, 7, p.ctxMax)]
  else if off = 0x804 then pack [(0, 2, p.epoch), (16, 11, oldOut s u)]
  else if off = 0x810 then outCount s u
  else if off = 0x814 then (p.streams.filter (fun x => x.2.live)).length
  else if off = 0x818 then pack [(0, 10, lastOpen s c), (10, 10, lastHeld s c)]
  else if 0x5000 ≤ off ∧ off < 0x9000 then wordOf (lastBits (lastOf s c ((off - 0x5000) / 0x20))) (off % 0x20 / 4)
  else if 0x9000 ≤ off ∧ off < 0x9400 then
    (match p.streams.find ((off - 0x9000) / 0x10) with
    | some x => wordOf (streamBits x) (off % 0x10 / 4)
    | none => 0)
  else if 0xA100 ≤ off ∧ off < 0xA200 then
    (match p.weltSrc.find ((off - 0xA100) / 0x10) with
    | some x => wordOf (weltSrcBits x) (off % 0x10 / 4)
    | none => 0)
  else if 0xA200 ≤ off ∧ off < 0xA300 then
    (match p.weltRx.find ((off - 0xA200) / 0x10) with
    | some x => wordOf (weltRxBits x) (off % 0x10 / 4)
    | none => 0)
  else if off = 0xB008 then
    pack [(0, 7, niOcc s c), (8, 1, b2n (isPaused s u 1)), (9, 1, b2n (isPaused s u 2)), (10, 1, b2n (isPaused s u 3))]
  else if 0xB100 ≤ off ∧ off < 0xB200 ∧ off % 0x10 = 8 then ofSigned 24 (shaper s u ((off - 0xB100) / 0x10)).credit
  else 0

/-! ## Combine block (R201, R202) -/

/-- R202: the live bits of a combine register. DESIGN CHOICE (log entry 150): of an instance with several up phases STATE reads
DOWN only once the up part of its last phase is done, and RUNNING in the down part of an earlier one. -/
def cmbLive (s : State) (c : Cell) (off : Nat) : Nat :=
  if off = 0 then pack [(0, 6, ((List.range 32).filter (fun e => (crun s c e).isSome)).length), (8, 6, slotsUsed s c)]
  else if 0x1000 ≤ off then
    let e := (off - 0x1000) / 0x80
    let x := cent s c e
    match off % 0x80 with
    | 0x70 =>
      let st := match x.run with
        | none => 0
        | some r => if r.ended = kPhases r.desc ∨ r.ph + 1 = kPhases r.desc ∧ (r.upTok || cRoot s c e && upFormed s c e r) = true then 2 else 1
      pack [(0, 2, st), (2, 1, b2n (!x.early.isEmpty)), (3, 1, b2n (x.abortOf ((entrySeq s c e + 1) % 2 ^ 32)).isSome)]
    | 0x74 => pack [(0, 8, x.last.cause), (8, 8, x.last.x), (16, 8, x.last.y), (24, 2, x.last.lvl)]
    | 0x78 =>
      (match x.run with
      | some r => pack [(0, 16, r.upDone), (16, 16, r.downDone)]
      | none => pack [(0, 16, x.upDone), (16, 16, x.downDone)])
    | _ => 0
  else 0

/-! ## Telemetry (R393, R398) -/

/-- A word of a counter as the last snapshot copied it. -/
def snapWord (s : State) (d cell i h : Nat) : Nat := wordOf (s.tel.snap.get (telKey d cell i) 0) h

/-- R398: the live bits of a telemetry register of a cell or a gateway port. -/
def telLive (s : State) (d cell off : Nat) : Nat :=
  let x := dom s d
  if off = 0 then pack [(0, 16, x.snapId), (16, 1, b2n x.skew), (17, 1, b2n x.deferred)]
  else if d < 48 then
    (if off < 0x300 then snapWord s d cell ((off - 0x100) / 0x40 * 8 + off % 0x40 / 8) (off / 4 % 2)
    else snapWord s d cell (56 + (off - 0x300) / 8) (off / 4 % 2))
  else snapWord s d cell ((off - 0x100) / 8) (off / 4 % 2)

/-! ## Remap (R25, R26) -/

/-- R26: the n-th number that a mask of `len` numbers leaves unfenced. -/
def unfenced (m len n : Nat) : Option Nat := ((List.range len).filter (fun i => !m.testBit i))[n]?

/-- R26: the lookup of a logical in-field cell. -/
def remapLookup (s : State) (f ix iy : Nat) : Nat :=
  if 39 < ix ∨ 29 < iy then 2147483648
  else
    match unfenced (colMask s f) 42 ix, unfenced (rowMask s f) 32 iy with
    | some c, some r => pack [(0, 6, c), (8, 5, r)]
    | _, _ => 2147483648

/-- R25: the live bits of a remap register, once the fuses have loaded it. -/
def remapLive (s : State) (f off : Nat) : Nat :=
  if s.boot.fused = false then 0
  else
    match off with
    | 0 => wordOf (colMask s f) 0
    | 4 => wordOf (colMask s f) 1
    | 8 => wordOf (rowMask s f) 0
    | 0xC =>
      pack [(0, 1, b2n (remapOk s f)), (1, 1, b2n (f % 6 == 0)), (2, 1, b2n (f % 6 == 5)), (3, 1, b2n (f / 6 == 0)),
        (4, 1, b2n (f / 6 == 7)), (8, 3, f % 6), (12, 3, f / 6), (16, 8, min 255 (s.fuses.defects.get f 0))]
    | 0x14 => let w := fieldReg f 0 0x10; remapLookup s f (rdF s w 0 6) (rdF s w 8 5)
    | _ => 0

/-! ## Gateways (R163, R270, R297-R300, R323, R345) -/

/-- R297: a welt store's occupancy. -/
def storeOcc (w : FMap (List WFlit)) : Nat := sumN (w.map (fun x => x.2.length))

/-- R163: TC and TP of a meter. -/
def meterLive (s : State) (g : GwId) (off : Nat) : Nat :=
  let m := (gw s g).meters.get ((off - 0x400) / 0x20 + 1) Meter.init
  match off % 0x20 with
  | 0x10 => m.tc / 65536
  | 0x14 => m.tp / 65536
  | _ => 0

/-- A mailbox. -/
def mbxOf (s : State) (g : GwId) (m : Nat) : Mbx := (gw s g).mbx.get m Mbx.init

/-- The live bits of a HOST_ register. -/
def hostLive (s : State) (g : GwId) (off : Nat) : Nat :=
  let u := UnitRef.gw g
  let l := (gw s g).link
  if off = 0 then pack [(0, 1, b2n l.up), (1, 1, b2n l.flit), (2, 2, l.speed), (4, 5, l.width), (9, 1, b2n l.bme)]
  else if off = 0xC then outCount s u
  else if 0x400 ≤ off ∧ off < 0x460 then meterLive s g off
  else if off = 0xF00 then pack [(0, 9, (punit s u).ctxs.length), (16, 9, (punit s u).ctxMax)]
  else if 0x1000 ≤ off ∧ off < 0x2000 then ringLive s u (hostRing off).1 (hostRing off).2.1 (hostRing off).2.2
  else if 0x2000 ≤ off then
    let x := mbxOf s g ((off - 0x2000) / 0x20)
    match off % 0x20 with
    | 0xC => x.tag.toNat
    | 0x10 => wordOf x.rxPtr.toNat 0
    | 0x14 => wordOf x.rxPtr.toNat 1
    | 0x18 => pack [(0, 1, b2n x.full), (16, 16, x.cnt)]
    | _ => 0
  else 0

/-- The live bits of an OPT_ register. -/
def optLive (s : State) (o : OptId) (off : Nat) : Nat :=
  match off with
  | 4 => (optStatWord s o).toNat
  | 0xC => (optLaneWord s o).toNat
  | 0x40 =>
    let r := outcomeOf s o
    pack [(0, 3, r.1), (4, 6, r.2.1), (10, 1, b2n (opt s o).admits), (11, 1, b2n (opt s o).lost), (12, 2, r.2.2)]
  | 0x74 => timeStatBits s o
  | n => if 0x400 ≤ n ∧ n < 0x460 then meterLive s o.gw n else 0

/-- The live bits of a register of a gateway port. -/
def gwLive (s : State) (g : GwId) (blk off : Nat) : Nat :=
  if blk = 0 then
    match off with
    | 0 => g.num
    | 4 => pack [(0, 2, (punit s (.gw g)).epoch), (16, 11, oldOut s (.gw g))]
    | 0x18 => pack [(0, 9, storeOcc (gw s g).opt.wOut), (16, 9, storeOcc (gw s g).opt.wIn)]
    | _ => 0
  else if blk = 5 then telLive s g.dom g.num off
  else
    match g with
    | .mem _ _ => if off = 4 then pack [(0, 1, b2n (gw s g).ready), (8, 10, (gw s g).reqs.length)] else 0
    | .opt sd i => optLive s ⟨sd, i⟩ off
    | .host _ _ => hostLive s g off

/-! ## The service and always-on blocks (R344, R371, R372, R395, R397, R420, R439) -/

/-- R344: bit k of each copy's VALID. -/
def copyValid (s : State) (from' n : Nat) : Nat :=
  pack ((List.range n).map (fun i => (i, 1, b2n (dom s (from' + i)).mer.valid)))

/-- The live bits of a register of the service domain. -/
def svcLive (s : State) (blk off : Nat) : Nat :=
  match blk with
  | 0 =>
    (match off with
    | 4 => if s.boot.fused then wordOf s.fuses.serial.toNat 0 else 0
    | 8 => if s.boot.fused then wordOf s.fuses.serial.toNat 1 else 0
    | 0x10 => pack [(0, 1, b2n s.boot.done), (1, 1, b2n s.boot.fail), (2, 1, b2n s.boot.optGo), (8, 3, s.boot.step)]
    | _ => 0)
  | 1 =>
    (match off with
    | 4 => pack [(0, 1, b2n (!merLock s)), (8, 5, s.mer.queue.length)]
    | 0x200 => copyValid s 0 32
    | 0x204 => copyValid s 32 21
    | _ => 0)
  | 2 =>
    if off = 0 then pack ((List.range 32).map (fun d => (d, 1, b2n (topBit s d))))
    else if off = 4 then pack ((List.range 20).map (fun d => (d, 1, b2n (topBit s (d + 32)))))
    else if off = 0x28 then min 64 (cntDiff (rd s (fltReg 0x20)) (rd s (fltReg 0x24)))
    else if off = 0x34 then pack [(8, 1, b2n s.flt.inj)]
    else if 0x100 ≤ off ∧ off < 0xE00 then
      let d := (off - 0x100) / 0x40
      (match off % 0x40 with
      | 8 => rawWord s d 0
      | 0xC => rawWord s d 1
      | 0x28 => (s.flt.pend.get d []).length
      | _ => 0)
    else 0
  | 3 => if off = 0 then pack [(1, 1, b2n s.tel.busy), (16, 16, s.tel.id)] else 0
  | _ =>
    if off = 0 then (if s.boot.fused then secLife s else 0)
    else if off = 8 then secStat s
    else if off = 0x10 then pack [(0, 16, lockRemain s), (16, 8, min 255 s.sec.lockouts)]
    else if 0x20 ≤ off ∧ off < 0x40 then (if s.sec.chal then wordOf s.sec.nonce.toNat ((off - 0x20) / 4) else 0)
    else if 0x80 ≤ off then pack [(4, 2, effView s ((off - 0x80) / 4))]
    else 0

/-- R358: STATE of a domain. -/
def pwrState (x : PwrSt) : Nat :=
  match x with
  | .run => 0
  | .sleep => 1
  | .deep => 2
  | .off => 3
  | .draining => 4
  | .waking => 5
  | .reset => 6

/-- R371: the live bits of PWR_STAT_d. -/
def pwrStat (s : State) (d : Nat) : Nat :=
  let x := dom s d
  pack [(0, 3, pwrState x.st), (4, 2, if x.st = .draining then x.phase else 0), (6, 1, b2n (x.wakePend != 0)), (12, 4, x.reason),
    (24, 3, x.lastWake)]

/-- The live bits of a register of the always-on domain. -/
def aonLive (s : State) (blk off : Nat) : Nat :=
  if blk = 0 then
    (if off = 8 then b2n s.wakePin
    else if 0x100 ≤ off ∧ off % 0x20 = 4 then pwrStat s ((off - 0x100) / 0x20)
    else 0)
  else if off % 0x10 = 0 then clkStatBits s ((off - 0x100) / 0x10)
  else 0

/-! ## Reading -/

/-- The bits of a register that show what the machine holds elsewhere. -/
def liveBits (s : State) (k : Nat) : Nat :=
  let d := keyDom k
  let cell := keyCell k
  let blk := keyBlk k
  let off := keyOff k
  if d < 48 then
    if cell = 2047 then (if blk = 0 then remapLive s d off else 0)
    else
      match blk with
      | 3 => niLive s (cellOf d cell) off
      | 4 => cmbLive s (cellOf d cell) off
      | 5 => telLive s d cell off
      | b => routerLive s (cellOf d cell) b off
  else if d < 52 then
    match gwOfNum cell with
    | some g => gwLive s g blk off
    | none => 0
  else if d = 52 then svcLive s blk off
  else aonLive s blk off

/-- Registers that store nothing of their own: they show only what the machine holds elsewhere (the remap words but for
LOOKUP_IN, R25, R26; a mailbox's RX_TAG and received pointer, R267). -/
def liveOnly (k : Nat) : Bool :=
  (decide (keyDom k < 48) && keyCell k == 2047 && keyBlk k == 0 && keyOff k != 0x10) ||
    (decide (48 ≤ keyDom k) && decide (keyDom k < 52) && keyBlk k == 1 && decide (0x2000 ≤ keyOff k) && decide (0xC ≤ keyOff k % 0x20) &&
      decide (keyOff k % 0x20 < 0x18))

/-- The bits of a register that are stored: of PWR_STAT_d the W1C and RC ones (its reset value is that of STATE). -/
def storedMask (k : Nat) : Nat :=
  if keyDom k = 53 ∧ keyBlk k = 0 ∧ 0x100 ≤ keyOff k ∧ keyOff k % 0x20 = 4 then 0xFF0700
  else if liveOnly k then 0
  else 0xFFFFFFFF

/-- R69: whether a register belongs to port 6 of a cell without a G port: it reads zero except STATE, and takes no
write. -/
def absentPort (k : Nat) : Bool :=
  decide (keyDom k < 48) && decide (keyCell k < 1200) && keyBlk k == 0 && decide (0x1C0 ≤ keyOff k) && decide (keyOff k < 0x1E0) &&
    !(cellOf (keyDom k) (keyCell k)).edge

/-- R386: words 1 to 3 of a log slot read the hold register. -/
def logHold (s : State) (k : Nat) : Option Word :=
  if keyDom k = 52 ∧ keyBlk k = 2 ∧ 0x1000 ≤ keyOff k ∧ keyOff k % 0x10 ≠ 0 then some (lget s.flt.hold (keyOff k % 0x10 / 4 - 1) 0) else none

/-- The value of a register; zero where no register lies (R422). -/
def regValue (s : State) (k : Nat) : Word :=
  match rowOf k with
  | none => 0
  | some _ =>
    if absentPort k then (if keyOff k = 0x1C4 then 7 else 0)
    else (rd s k &&& BitVec.ofNat 32 (storedMask k)) ||| BitVec.ofNat 32 (liveBits s k)

/-- R267: a read of HOST_MBX_RX_TAG. -/
def mbxReceive (s : State) (g : GwId) (m : Nat) : State :=
  let x := mbxOf s g m
  updGw s g (fun y => { y with mbx := y.mbx.set m { x with tag := 0, full := false, rxPtr := x.ptr } })

/-- R12, R267, R345, R386: what a read does besides. -/
def readEffect (s : State) (k : Nat) : State :=
  let off := keyOff k
  match rowOf k with
  | none => s
  | some r =>
    let s1 := if r.rc = 0 ∨ absentPort k = true then s else wr s k (afterRead r (rd s k))
    if keyDom k = 52 ∧ keyBlk k = 2 ∧ 0x1000 ≤ off ∧ off % 0x10 = 0 then
      { s1 with flt := { s1.flt with hold := [rd s (k + 4), rd s (k + 8), rd s (k + 12)] } }
    else if 48 ≤ keyDom k ∧ keyDom k < 52 ∧ keyBlk k = 1 then
      match gwOfNum (keyCell k) with
      | some (.opt sd i) => if off = 0x74 then timeStatRead s1 ⟨sd, i⟩ else s1
      | some (.host sd i) => if 0x2000 ≤ off ∧ off % 0x20 = 0xC then mbxReceive s1 (.host sd i) ((off - 0x2000) / 0x20) else s1
      | _ => s1
    else s1

/-- R383: a read of NI_LAST_TABLE reads the word of its entry through SECDED. -/
def lastTableRead (s : State) (k : Nat) : State :=
  if keyDom k < 48 ∧ keyCell k < 1200 ∧ keyBlk k = 3 ∧ 0x5000 ≤ keyOff k ∧ keyOff k < 0x9000 then
    lastEcc s (cellOf (keyDom k) (keyCell k)) ((keyOff k - 0x5000) / 0x20) .ok
  else s

/-- R12, R413: a read: its value and what it leaves. At OBSERVE it takes no action, and a log slot's word reads itself. -/
def regRead (s' : State) (observe : Bool) (k : Nat) : Word × State :=
  if observe then (regValue s' k, s')
  else
    let s := lastTableRead s' k
    ((logHold s k).getD (regValue s k), readEffect s k)

end Sys2Proof.Machine
end

