-- ==== Sys2Proof/Machine/Settings.lean ====
section
/-! DEFINITION. What a write of a register does (R12): it stores what the register map lets software store, and takes the
action that the bits written call for. -/

namespace Sys2Proof.Machine

/-! ## Rings (R234, R237, R261, R262) -/

/-- R262: what ABORT does to a descriptor of its ring: one that waits or still sends (a PACKED copy, until its header has
gone) completes with FLUSHED; a COLL that
has been accepted, and one that waits for an answer, run on. -/
def flushCtx (s : State) (u : UnitRef) (id : Nat) : State :=
  match ctxOf s u id with
  | none => s
  | some x =>
    let op := dOp x.desc
    if x.st = .fetched then
      settleCtx (updCtx s u id (fun y => { y with err := some (y.err.getD (0xC, 0)), todo := [], st := .active })) u id
    else if (x.st = .waiting ∧ (op = 2 ∨ op = 7 ∨ op = 4 ∨ op = 9)) ∨
        (x.st = .active ∧ (x.todo ≠ [] ∨ unbegun s u id = true) ∧ op ≠ 3) then failCtx s u id 0xC 0
    else s

/-- R262: ABORT. -/
def flushRing (s : State) (u : UnitRef) (r : Nat) : State :=
  (((punit s u).ctxs.filter (fun x => x.2.ring == r)).map (fun x => x.1)).foldl (fun t id => flushCtx t u id) s

/-- R232: whether a ring at a base with 2^n entries of a size lies where it may. -/
def ringFits (u : UnitRef) (base len : Nat) : Bool :=
  match u with
  | .ni _ => decide (base + len ≤ Config.sramBytes)
  | .gw _ => decide (base + len ≤ 2 ^ 64)

/-- R261: whether a STOPPED submission ring may be enabled. -/
def sqEnableOk (s : State) (u : UnitRef) (r : Nat) : Bool :=
  let n := sqLog s u r
  let q := rdF s (sqReg u r 2) 8 6
  4 ≤ n && n ≤ 16 && ringFits u (ringBase s u (sqReg u r 0) (sqReg u r 1)) (64 * 2 ^ n) && decide (q < cqCount u) &&
    (cqOf s u q).st == .running

/-- R261: whether a STOPPED completion ring may be enabled. -/
def cqEnableOk (s : State) (u : UnitRef) (r : Nat) : Bool :=
  let m := cqLog s u r
  4 ≤ m && m ≤ 16 && ringFits u (ringBase s u (cqReg u r 0) (cqReg u r 1)) (16 * 2 ^ m)

/-- R261: CFG_ERR of a ring. -/
def sqCfgErr (s : State) (u : UnitRef) (r : Nat) : State := setBits s (sqReg u r 5) 0x20
/-- R261: CFG_ERR of a completion ring. -/
def cqCfgErr (s : State) (u : UnitRef) (r : Nat) : State := setBits s (cqReg u r 5) 0x20

/-- Replace the bits of a mask in a stored register. -/
def wrMask (s : State) (k mask : Nat) (v : Word) : State :=
  let m := BitVec.ofNat 32 mask
  wr s k ((rd s k &&& ~~~m) ||| (v &&& m))

/-- Whether a write would change the bits of a mask. -/
def changes (s : State) (k mask : Nat) (v : Word) : Bool := (rd s k ^^^ v) &&& BitVec.ofNat 32 mask != 0

/-- R261, R262: a write of a submission ring's CFG. -/
def sqCfg (s : State) (u : UnitRef) (r : Nat) (v : Word) : State :=
  let k := sqReg u r 2
  let x := sqOf s u r
  if x.st = .stopped then
    let s1 := wrMask s k 0x3F1F v
    if bit v 16 then
      if sqEnableOk s1 u r then wrF (setSq s1 u r { st := .running, pi := 0, ci := 0 }) k 16 1 1 else sqCfgErr s1 u r
    else s1
  else
    let s1 := if changes s k 0x3F1F v then sqCfgErr s u r else s
    if bit v 16 then (if x.st = .running then s1 else sqCfgErr s1 u r)
    else
      let s2 := wrF (setSq s1 u r { x with st := .stopping }) k 16 1 0
      ringSettle (if bit v 17 then flushRing s2 u r else s2) u

/-- R261: whether an enabled submission ring names a completion ring. -/
def cqNamed (s : State) (u : UnitRef) (r : Nat) : Bool :=
  (List.range (sqCount u)).any (fun q => bit (rd s (sqReg u q 2)) 16 && rdF s (sqReg u q 2) 8 6 == r)

/-- R261, R262: a write of a completion ring's CFG. DESIGN CHOICE (log entry 165): a ring that leaves ERROR with reservations held
writes those completions while STOPPING. -/
def cqCfg (s : State) (u : UnitRef) (r : Nat) (v : Word) : State :=
  let k := cqReg u r 2
  let x := cqOf s u r
  if x.st = .stopped then
    let s1 := wrMask s k 0x1F v
    if bit v 16 then
      if cqEnableOk s1 u r then wrF (setCq s1 u r { st := .running, cpi := 0, cci := 0 }) k 16 1 1 else cqCfgErr s1 u r
    else s1
  else
    let s1 := if changes s k 0x1F v then cqCfgErr s u r else s
    if bit v 16 then (if x.st = .running then s1 else cqCfgErr s1 u r)
    else if cqNamed s1 u r then cqCfgErr s1 u r
    else ringSettle (wrF (setCq s1 u r { x with st := .stopping }) k 16 1 0) u

/-- R234: a submission doorbell. -/
def sqDoorbell (s : State) (u : UnitRef) (r : Nat) (d : Word) : State :=
  let x := sqOf s u r
  if x.st = .running ∧ cntDiff x.pi x.ci ≤ cntDiff d x.ci ∧ cntDiff d x.ci ≤ 2 ^ sqLog s u r then setSq s u r { x with pi := d }
  else setBits s (sqReg u r 5) 0x10

/-- R237: a completion doorbell. -/
def cqDoorbell (s : State) (u : UnitRef) (r : Nat) (d : Word) : State :=
  let x := cqOf s u r
  if cntDiff d x.cci ≤ cntDiff x.cpi x.cci then setCq s u r { x with cci := d } else setBits s (cqReg u r 5) 0x10

/-- R261: a write of a ring's base: refused where it would change the base of a ring that is not STOPPED. -/
def ringBaseWrite (s : State) (u : UnitRef) (cq : Bool) (r k : Nat) (row : RegRow) (v : Word) : State :=
  let st := if cq then (cqOf s u r).st else (sqOf s u r).st
  if st = .stopped then wrMask s k row.rw v
  else if changes s k row.rw v then (if cq then cqCfgErr s u r else sqCfgErr s u r)
  else s

/-- R266: a write of a ring register: index 0 and 1 BASE, 2 CFG, 3 DB; the others as their map says. -/
def ringWrite (s : State) (u : UnitRef) (x : Bool × Nat × Nat) (k : Nat) (row : RegRow) (v : Word) : State :=
  match x.2.2 with
  | 0 => ringBaseWrite s u x.1 x.2.1 k row v
  | 1 => ringBaseWrite s u x.1 x.2.1 k row v
  | 2 => if x.1 then cqCfg s u x.2.1 v else sqCfg s u x.2.1 v
  | 3 => if x.1 then cqDoorbell s u x.2.1 v else sqDoorbell s u x.2.1 v
  | _ => wr s k (plainWrite row (rd s k) v)

/-- R266: CTX_MAX starts again from the contexts now in use. -/
def ctxMaxClear (s : State) (u : UnitRef) : State := updUnit s u (fun p => { p with ctxMax := p.ctxs.length })

/-! ## Router and routes (R77, R91, R111, R113, R161) -/

/-- R70, R77: RETRAIN of a port; in TRAIN it restarts the count only. -/
def portRetrain (s : State) (c : Cell) (p : Nat) : State :=
  let e := EndRef.router c (Fin.ofNat 7 p)
  match effSt s e with
  | none => s
  | some .down => s
  | some .train => updLink s e (fun l => { l with good := 0, ready := false })
  | some _ => beginTrain s e

/-- R158, R161: the four marks of an input start again from the flits it holds now. -/
def hwmClear (s : State) (c : Cell) (p : Nat) : State :=
  let occ := fun (v : Nat) => ((vcIn s c p v).q.filter (fun f => f.credit)).length
  wr s (cellReg c 0 (0x410 + 4 * p))
    (BitVec.ofNat 32 (pack ((List.range 4).map (fun k => (5 * k, 5, occ (2 * k) + occ (2 * k + 1))))))

/-- R113, R118: a write of CELL_PORT_ENA: a bit set is set at once, a bit cleared waits until OLD is zero. -/
def portEnable (s : State) (c : Cell) (v : Nat) : State :=
  let r := router s c
  let on := fun (p : Nat) => v.testBit p || (r.ena.testBit p && drainOld s c p != 0)
  let wait := fun (p : Nat) => !v.testBit p && r.ena.testBit p && drainOld s c p != 0
  let mask := fun (f : Nat → Bool) => pack ((List.range 7).map (fun p => (p, 1, b2n (f p))))
  setRouter s c { r with ena := mask on, clr := mask wait }

/-- R113: a pending clear whose port has drained takes effect. -/
def portDisableApply (s : State) (c : Cell) (p : Nat) : State :=
  let r := router s c
  if r.clr.testBit p ∧ drainOld s c p = 0 then
    setRouter s c { r with ena := r.ena - r.ena / 2 ^ p % 2 * 2 ^ p, clr := r.clr - 2 ^ p }
  else s

/-- R91: a write of the third word of a path in the staging bank. -/
def pathLoad (s : State) (k err : Nat) (row : RegRow) (v : Word) : State :=
  let w := put (plainWrite row (rd s k) v) 28 2 0
  if bit v 31 then
    let c := pathCheck (rd s (k - 8)) (rd s (k - 4)) w
    if c.1 then wr s k (put (put w 28 1 (b2n c.2.1)) 29 1 (b2n c.2.2)) else setBits (wr s k (put w 31 1 0)) err 1
  else wr s k w

/-- R111: EPOCH.SWITCH. -/
def epochSwitch (s : State) (u : UnitRef) : State :=
  if oldOut s u ≠ 0 then setBits s (unitReg u 0x804 0 4) 0x100
  else swapBanks (updUnit s u (fun p => { p with epoch := (p.epoch + 1) % 4, spray := [] })) u

/-! ## Last and loss writes (R104, R317) -/

/-- R104, R383: NI_LAST_FLUSH.GO. The source of each entry is read through SECDED. -/
def lastFlush (s : State) (c : Cell) : State :=
  let f := rd s (cellReg c 3 0x820)
  let wafer := rdF s (cellReg c 3 0x824) 0 20
  let hit := fun (x : LastEnt) => x.valid && (!bit f 16 || (x.x == bits f 0 8 && x.y == bits f 8 8)) && (!bit f 17 || x.wafer == wafer)
  ((punit s (.ni c)).last.map (fun x => x.1)).foldl (fun t i =>
    let t1 := lastEcc t c i .ok
    if hit (lastOf t1 c i) then freeLast t1 c i else t1) s

/-- R162: NI_HWM_CLR. -/
def niHwmClr (s : State) (c : Cell) (v : Word) : State :=
  let s1 := if bit v 0 then
      wr s (cellReg c 3 0xB010) (BitVec.ofNat 32 (pack [(0, 10, lastOpen s c), (10, 10, lastHeld s c), (20, 11, outCount s (.ni c))]))
    else s
  (List.range 4).foldl (fun t k => if bit v (1 + k) then wr t (cellReg c 3 (0xB020 + 4 * k)) 0 else t) s1

/-- R317: NI_OFFW_LOST.GO: the entries sent under the off-wafer entries of a mask complete with LINK_LOST, and the streams
to their wafers become BROKEN. -/
def offwLost (s : State) (c : Cell) (mask : Nat) : State :=
  let u := UnitRef.ni c
  let hit := fun (o : Option Nat) => o.any (fun i => mask.testBit i)
  let ts := ((punit s u).out.filter (fun x => !x.2.quar && hit x.2.offw)).map (fun x => x.1)
  let ss := ((punit s u).streams.filter (fun x => x.2.live && !isLocal s c.field (x.2.dest / 65536) &&
    hit (wmapFind s u (x.2.dest / 65536)))).map (fun x => x.1)
  let s1 := ts.foldl (fun t tag => match (punit t u).out.find tag with
    | some e => entryLost t u tag e (0xA, 0)
    | none => t) s
  let s2 := cntUp s1 (cellReg c 3 0xD204) 16 16 ts.length
  sweepUnit (ss.foldl (fun t i => breakStream t u i) s2) u

/-! ## Combine entries (R167) -/

/-- R167: a write of a word of a combine entry. -/
def cmbEntryWrite (s : State) (c : Cell) (k off : Nat) (row : RegRow) (v : Word) : State :=
  let e := (off - 0x1000) / 0x80
  let s1 := wr s k (plainWrite row (rd s k) v)
  if (crun s c e).isSome then setBits s (cellReg c 4 4) 0x80
  else if off % 0x80 = 0 ∧ bit v 0 = true ∧ entryOk s1 c e = false then setBits (wrF s1 k 0 1 0) (cellReg c 4 4) 0x40
  else s1

/-! ## Swaps (R131, R132) -/

/-- R132, R140: a write of a WARM_CTRL: ARM takes the time held, CANCEL clears a pending swap. -/
def warmCtrl (s : State) (w : WeltDom) (v : Word) : State :=
  let k := warmBase w + 12
  let s1 := if bit v 0 then wrF { s with warm := s.warm.set k (warmTime s w, (dom s (warmDom w)).ticks) } k 8 1 1 else s
  let s2 := if bit v 1 then wrF { s1 with warm := s1.warm.erase k } k 8 1 0 else s1
  match w with
  | .field _ => s2
  | .gw o => if bit v 0 || bit v 1 then updOpt s2 o (fun x => { x with ahead := [] }) else s2

/-! ## Mirrored registers (R428) -/

/-- R428: the root keeps a register's value and copies it to every domain in RUN. -/
def mirrorReg (s : State) (k : Nat) : State :=
  let v := rd s k
  { s with
    mirror := s.mirror.set k v
    doms := s.doms.map (fun x => if x.1 < 52 ∧ x.2.st = .run then (x.1, { x.2 with copies := x.2.copies.set k v }) else x) }

/-! ## Handlers by block -/

/-- A write of a register of the router, route or welt block of a cell. -/
def routerWrite (s : State) (c : Cell) (blk off k : Nat) (row : RegRow) (v : Word) : State :=
  let s1 := wr s k (plainWrite row (rd s k) v)
  if blk = 0 ∧ 0x100 ≤ off ∧ off < 0x1E0 ∧ off % 0x20 = 0 then (if bit v 0 then portRetrain s1 c ((off - 0x100) / 0x20) else s1)
  else if blk = 0 ∧ 0x410 ≤ off ∧ off < 0x42C then (if bit v 31 then hwmClear s1 c ((off - 0x410) / 4) else s1)
  else if blk = 1 ∧ off = 4 then portEnable s1 c (bits v 0 7)
  else s1

/-- A write of a register of the NI block. -/
def niWriteReg (s : State) (c : Cell) (off k : Nat) (row : RegRow) (v : Word) : State :=
  let u := UnitRef.ni c
  let s1 := wr s k (plainWrite row (rd s k) v)
  if off < 0x300 then ringWrite s u (niRing off) k row v
  else if off = 0x300 then (if bit v 31 then ctxMaxClear s1 u else s1)
  else if off = 0x804 then (if bit v 4 then epochSwitch s1 u else s1)
  else if off = 0x820 then (if bit v 31 then lastFlush s1 c else s1)
  else if 0x1000 ≤ off ∧ off < 0x3000 ∧ off % 16 = 8 then pathLoad s k (cellReg c 3 0x808) row v
  else if off = 0xB000 ∨ off = 0xB004 then throttle s1 c
  else if off = 0xB014 then niHwmClr s1 c v
  else if off = 0xD200 then (if bit v 31 then offwLost s1 c (bits v 0 16) else s1)
  else s1

/-- A write of a register of the combine block. -/
def cmbWriteReg (s : State) (c : Cell) (off k : Nat) (row : RegRow) (v : Word) : State :=
  let s1 := wr s k (plainWrite row (rd s k) v)
  if 0x1000 ≤ off ∧ off % 0x80 < 0x70 then cmbEntryWrite s c k off row v
  else if off = 0x20 then (if bit v 31 then swAbort s1 c (bits v 0 5) else s1)
  else if off = 0x50 then (if bit v 31 then lostWafer s1 c (bits v 0 20) else s1)
  else s1

/-- R267: a write of HOST_MBX_TX_TAG. -/
def mailboxCommit (s : State) (g : GwId) (m : Nat) (tag : Word) : State :=
  let k := gwReg g 1 (0x2000 + 0x20 * m)
  let x := mbxOf s g m
  let ptr := BitVec.ofNat 64 ((rd s k).toNat + 4294967296 * (rd s (k + 4)).toNat)
  let s1 := updGw s g (fun y => { y with
    mbx := y.mbx.set m { x with ptr := ptr, tag := tag, full := true, cnt := (x.cnt + 1) % 65536 } })
  if x.full then setBits (cntUp s1 (k + 0x18) 8 8 1) (k + 0x18) 2 else s1

/-- A write of a register of the HOST_ block. -/
def hostWriteReg (s : State) (g : GwId) (off k : Nat) (row : RegRow) (v : Word) : State :=
  let s1 := wr s k (plainWrite row (rd s k) v)
  if off = 0xF00 then (if bit v 31 then ctxMaxClear s1 (.gw g) else s1)
  else if 0x1000 ≤ off ∧ off < 0x2000 then ringWrite s (.gw g) (hostRing off) k row v
  else if 0x2000 ≤ off ∧ off % 0x20 = 8 then mailboxCommit s1 g ((off - 0x2000) / 0x20) v
  else s1

/-- A write of a register of the OPT_ block. -/
def optWriteReg (s : State) (o : OptId) (off k : Nat) (row : RegRow) (v : Word) : State :=
  let s1 := wr s k (plainWrite row (rd s k) v)
  match off with
  | 0 =>
    let s2 := optDisable s1 o (bit v 1)
    if bit v 0 then optRetrain s2 o else s2
  | 0x24 => evalAll (mirrorReg s1 k)
  | 0x28 => evalAll (mirrorReg s1 k)
  | 0x2C => evalAll (optExpect (mirrorReg s1 k) o)
  | _ => s1

/-- A write of a register of a gateway port. -/
def gwWriteReg (s : State) (g : GwId) (blk off k : Nat) (row : RegRow) (v : Word) : State :=
  let s1 := wr s k (plainWrite row (rd s k) v)
  if blk = 0 then
    if off = 4 then (if bit v 4 then epochSwitch s1 (.gw g) else s1)
    else if 0x1000 ≤ off ∧ off < 0x3000 ∧ off % 16 = 8 then pathLoad s k (gwReg g 0 8) row v
    else if off = 0x2C then
      match g with
      | .opt sd i => warmCtrl s1 (.gw ⟨sd, i⟩) v
      | _ => s1
    else s1
  else if blk = 1 then
    match g with
    | .mem _ _ => if off = 0 then mirrorReg s1 k else s1
    | .opt sd i => meterWrite (optWriteReg s ⟨sd, i⟩ off k row v) g k v
    | .host _ _ => meterWrite (hostWriteReg s g off k row v) g k v
  else s1

/-- R36, R37: a write of CFG_WAFER_ID. -/
def waferWrite (s : State) (v : Word) : State :=
  let k := svcReg 0 0
  let s1 := if bit v 30 then wrF s k 30 1 0 else s
  if bits v 0 20 = waferLocal ∨ (List.range 64).any (fun n => optUpNow s (optOf n)) = true then wrF s1 k 30 1 1
  else mirrorReg (wrF s1 k 0 20 (bits v 0 20)) k

/-- R300, R434: a link that is released: DISABLED if its DISABLE is set, else its lane test starts. -/
def optRelease (s : State) (o : OptId) : State :=
  if (opt s o).st = .down ∧ bit (rd s (optReg o 0)) 1 = true then optStop s o .disabled else laneTestStart s o true

/-- R434: CFG_BOOT.OPT_GO. -/
def optGo (s : State) : State :=
  if s.boot.optGo then s
  else (List.range 64).foldl (fun t n => optRelease t (optOf n)) { s with boot := { s.boot with optGo := true } }

/-- R327, R329, R344: a write of MER_CTRL. A clear of LOCK in the same cycle wins over a write of 1. -/
def merCtrl (s : State) (v : Word) : State :=
  let k := merReg 0
  let s1 := if bit v 1 then merSnap s else s
  let s2 := wrMask s1 k 0xFFFFFF11 (if s1.mer.cleared then v &&& 0xFFFFFFFE else v)
  let s3 := if bit v 0 then merHold s2 else s2
  if bit v 2 then merSet s3 else if bit v 3 then merStep s3 else s3

/-- R407, R409, R411: a write of SEC_DBG_CTRL. -/
def secCtrl (s : State) (p : Path) (healthy : Bool) (v : Word) : State :=
  let s1 := wrMask s (secReg 4) 0x43 v
  let s2 := if bit v 4 then secRequest s1 p healthy else s1
  let s3 := if bit v 5 then secVerify s2 p else s2
  if bit v 7 then secRelock s3 else s3

/-- A write of a register of the service domain. -/
def svcWriteReg (s : State) (p : Path) (healthy : Bool) (blk off k : Nat) (row : RegRow) (v : Word) : State :=
  let s1 := wr s k (plainWrite row (rd s k) v)
  match blk with
  | 0 =>
    if off = 0 then waferWrite s v
    else if off = 0x10 then (if bit v 4 then optGo s1 else s1)
    else s1
  | 1 =>
    if off = 0 then merCtrl s v
    else if off = 8 then merHold s1
    else if off = 0x50 then (if bit v 31 then tsqPop s1 else s1)
    else s1
  | 2 =>
    if off = 0x24 then logRead s v
    else if off = 0x34 then (if bit v 31 then injectGo s1 else s1)
    else s1
  | 3 => if off = 0 ∧ bit v 0 = true then snapshotGo s1 else s1
  | _ =>
    if off = 4 then secCtrl s p healthy v
    else if 0x40 ≤ off ∧ off < 0x60 then updSec s1 (fun x => { x with resp := x.resp.set ((off - 0x40) / 4) v })
    else s1

/-- R359, R371: a write of PWR_CTRL_d. -/
def pwrCtrl (s : State) (d : Nat) (v : Word) : State := if bit v 4 then powerGo s d (targetOf (bits v 0 2)) (bit v 5) else s

/-- A write of a register of the always-on domain. -/
def aonWriteReg (s : State) (blk off k : Nat) (row : RegRow) (v : Word) : State :=
  let s1 := wr s k (plainWrite row (rd s k) v)
  if blk = 0 then (if 0x100 ≤ off ∧ off % 0x20 = 0 then pwrCtrl s1 ((off - 0x100) / 0x20) v else s1)
  else if off % 0x10 = 4 ∧ bit v 0 = true then clkRelock s1 ((off - 0x100) / 0x10)
  else s1

/-! ## A write -/

/-- What a write of a register does, its block's own way. -/
def blockWrite (s : State) (p : Path) (healthy : Bool) (k : Nat) (row : RegRow) (v : Word) : State :=
  let d := keyDom k
  let cell := keyCell k
  let blk := keyBlk k
  let off := keyOff k
  if d < 48 then
    if cell = 2047 then
      if blk = 2 ∧ off = 12 then warmCtrl s (.field (Fin.ofNat 48 d)) v else wr s k (plainWrite row (rd s k) v)
    else
      match blk with
      | 3 => niWriteReg s (cellOf d cell) off k row v
      | 4 => cmbWriteReg s (cellOf d cell) off k row v
      | b => routerWrite s (cellOf d cell) b off k row v
  else if d < 52 then
    match gwOfNum cell with
    | some g => gwWriteReg s g blk off k row v
    | none => s
  else if d = 52 then svcWriteReg s p healthy blk off k row v
  else aonWriteReg s blk off k row v

/-- R374, R375, R377: a write that cleared sticky bits may have dropped pins; a status bit whose level is still high is
set again. -/
def afterClear (s : State) (k : Nat) : State :=
  let s1 := dropPins s
  if keyDom k = 52 ∧ keyBlk k = 2 then refreshStat s1 else s1

/-- R379, R395: whether a register holds severities. -/
def isSev (k : Nat) : Bool :=
  keyDom k == 52 && keyBlk k == 2 &&
    (keyOff k == 0x10 || (decide (0x100 ≤ keyOff k) && decide (keyOff k < 0xE00) && decide (0x10 ≤ (keyOff k - 0x100) % 0x40) &&
      decide ((keyOff k - 0x100) % 0x40 < 0x20)))

/-- R12, R422: a write of a register, by a path; `healthy` is the outcome of the entropy source's test, for a REQUEST
(R407). Nothing happens where no register lies, and at a port that does not exist (R69). -/
def regWrite (s : State) (p : Path) (healthy : Bool) (k : Nat) (v : Word) : State :=
  match rowOf k with
  | none => s
  | some row =>
    if absentPort k then s
    else
      let s1 := blockWrite s p healthy k row v
      if v &&& BitVec.ofNat 32 row.w1c ≠ 0 then afterClear s1 k
      else if isSev k then refreshStat s1
      else s1

end Sys2Proof.Machine
end

