-- ==== Sys2Proof/Machine/Access.lean ====
section
/-! DEFINITION. Configuration accesses (R400-R404, R421-R432): what a path may reach, what the power state of the service
group and of the target makes of an access, its effect, its answer, broadcasts, and the accesses that are held. -/

namespace Sys2Proof.Machine

/-! ## Paths -/

/-- The number of a path in `State.resp`: 0 to 31 the management port's tags (R424), 32 TAP, 33 + p host p, 100 + cell
local port. -/
def viaNum (v : Via) : Nat :=
  match v with
  | .mgmt g => g.val
  | .tapSec => 32
  | .tapCfg => 32
  | .bar0 h => 33 + h
  | .bar2 h => 33 + h
  | .loc c => 100 + c.key
  | .piece n _ => n
  | .pieceFail n _ _ => n
  | .pieceEnd n _ => n

/-- The path of a number below 100. -/
def viaOfNum (n : Nat) : Via := if n < 32 then .mgmt (Fin.ofNat 32 n) else if n = 32 then .tapCfg else .bar2 (n - 33)

/-- R404: the place of a path in the order of service: the local port, which needs no root, then the management port, the
TAP and the hosts. -/
def viaRank (v : Via) : Nat :=
  match v with
  | .loc _ => 0
  | x => if viaNum x < 32 then 1 else viaNum x - 30

/-- The requester of an access (R407). -/
def viaPath (v : Via) : Path :=
  match v with
  | .loc c => .loc c
  | x =>
    let n := viaNum x
    if n < 32 then .mgmt (Fin.ofNat 32 n) else if n = 32 then .tap else .host (Fin.ofNat 8 (n - 33))

/-- R401: whether a register is in the U view. -/
def uReg (k : Nat) : Bool := (rowOf k).any (fun r => r.u)

/-- Whether an address lies in the block that begins at another. -/
def inBlock (base k : Nat) : Bool := decide (base ≤ k) && decide (k < base + 65536)

/-- R279: the HOST_ block of a host port. -/
def hostBlock (h : Nat) : Nat := gwReg (hostGw h) 1 0

/-- How an access of a path comes: the TAP's SEC instruction reaches the SEC_ block, BAR0 the U registers of the port's own
HOST_ block. -/
def viaOf (p : Path) (k : Nat) : Via :=
  match p with
  | .mgmt g => .mgmt g
  | .tap => if keyDom k = 52 ∧ keyBlk k = 4 then .tapSec else .tapCfg
  | .host h => if inBlock (hostBlock h.val) k && uReg k then .bar0 h.val else .bar2 h.val
  | .loc c => .loc c

/-- An access of a path. -/
def accOf (p : Path) (k : Nat) (wr : Bool) (v : Word) : HeldAcc := { via := viaOf p k, key := k, wr := wr, v := v, healthy := true }

/-! ## What the power states make of an access (R358, R363, R366, R417, R429) -/

/-- An access is served, held (waking the domain or not), or meets the error response with a cause (R429). -/
inductive Verdict where
  | serve
  | hold (wake : Bool)
  | err (cause : Nat)
  deriving DecidableEq, Repr

/-- R363: a field or an edge band. -/
def domVerdict (s : State) (d : Nat) : Verdict :=
  let x := dom s d
  match x.st with
  | .run => .serve
  | .draining => if x.phase < 2 then .serve else if x.target = .sleep then .hold true else .err 1
  | .waking => .hold false
  | .sleep => .hold true
  | _ => .err 1

/-- R363, R417: the service group, in which the root lies; `own` for an access to the group itself. -/
def svcVerdict (s : State) (own : Bool) : Verdict :=
  let x := dom s 52
  match x.st with
  | .run => .serve
  | .draining =>
    if x.phase < 2 ∧ own = false then .serve
    else if x.target = .sleep then .hold true
    else if x.target = .deep ∧ x.phase < 2 then .hold false
    else .err 1
  | .waking => .hold false
  | .sleep => .hold true
  | _ => .err 1

/-- R25, R423: whether the management port reaches an address through the always-on path. -/
def alwaysOn (s : State) (k : Nat) : Bool := keyDom k == 53 || (isRemap k && s.boot.fused)

/-- R424, R427: whether a write by the management port to a block waits at the root. -/
def mgmtWaits (s : State) (k : Nat) : Bool :=
  s.held.any (fun x => (match x.via with
      | .mgmt _ => true
      | _ => false) &&
    (keyDom x.key == keyDom k || keyDom x.key == 56) && keyCell x.key == keyCell k && keyBlk x.key == keyBlk k)

/-- What the root makes of an access. One to the always-on path keeps its place behind an earlier one of the management port to
the same block (R424). -/
def rootVerdict (s : State) (a : HeldAcc) : Verdict :=
  let own := keyDom a.key == 52 || decide (barBase ≤ a.key)
  match a.via with
  | .mgmt _ => if alwaysOn s a.key then (if mgmtWaits s a.key then .hold false else .serve) else svcVerdict s own
  | _ => svcVerdict s own

/-- What the target makes of an access that the root serves. -/
def targetVerdict (s : State) (k : Nat) : Verdict := if keyDom k < 52 ∧ isRemap k = false then domVerdict s (keyDom k) else .serve

/-! ## Views (R400-R403, R412) -/

/-- R403: what a U grant reaches. -/
def uReach (s : State) (h k : Nat) : Bool :=
  let tel := rdF s (secReg (0x80 + 4 * h)) 2 1 == 1
  ((decide (keyDom k < 48) && decide (keyCell k < 1200) && keyBlk k == 3 || inBlock (hostBlock h) k) && ((rowOf k).isNone || uReg k)) ||
    (tel && (blockRows (keyDom k) (keyCell k) (keyBlk k)).isSome &&
      ((decide (keyDom k < 52) && keyBlk k == 5) || (keyDom k == 52 && keyBlk k == 3)))

/-- What a path may do at an address: nothing lies there for it, it is denied (R402), or it passes. -/
inductive Judged where
  | nowhere
  | denied
  | passes
  deriving DecidableEq, Repr

/-- A path of U registers only, at a block of its own (R243, R279): nothing lies outside the block or where it has no
register. -/
def judgeOwn (base k : Nat) : Judged :=
  if !inBlock base k || (rowOf k).isNone then .nowhere else if uReg k then .passes else .denied

/-- R400, R402, R403, R412: whether a path has the view and the reach for an access. The grant or level that counts is the
one in force when the access reaches the root. -/
def judge (s : State) (a : HeldAcc) : Judged :=
  match a.via with
  | .tapCfg => if 2 ≤ s.sec.level ∨ (s.sec.level = 1 ∧ a.wr = false) then .passes else .denied
  | .bar0 h => judgeOwn (hostBlock h) a.key
  | .bar2 h =>
    if effView s h = 0 then .nowhere
    else if barBase ≤ a.key ∨ effView s h = 2 ∨ uReach s h a.key = true then .passes
    else .denied
  | .loc c => judgeOwn (cellReg c 3 0) a.key
  | _ => .passes

/-- R422, R427: whether an access passes the address test. -/
def addrPasses (a : HeldAcc) : Bool :=
  let cell := keyCell a.key
  let blk := keyBlk a.key
  if keyDom a.key = 56 then a.wr && cell != 2046 && (blockRows 0 cell blk).isSome || a.wr && cell == 2046 && (blockRows 0 0 blk).isSome
  else (blockRows (keyDom a.key) cell blk).isSome

/-! ## Answers (R402, R416, R424, R430, R432) -/

/-- What a path has received last. -/
def respOf (s : State) (n : Nat) : Resp := s.resp.get n ⟨0, 0, 0⟩

/-- Answer an access: status, cause, and read data (a write leaves the data of the last read). -/
def answer (s : State) (v : Via) (status cause : Nat) (data : Option Word) : State :=
  let n := viaNum v
  let s1 := { s with resp := s.resp.set n ⟨status, cause, data.getD (respOf s n).data⟩ }
  match v with
  | .tapSec => { s1 with tap := { s1.tap with status := status, data := data.getD s1.tap.data } }
  | .tapCfg => { s1 with tap := { s1.tap with status := status, data := data.getD s1.tap.data } }
  | .bar2 h => { s1 with bar := s1.bar.set h ((s1.bar.get h (0, 0)).1, BitVec.ofNat 32 (status + 4 * cause)) }
  | _ => s1

/-- Read data, for a read. -/
def dataIf (a : HeldAcc) (v : Word) : Option Word := if a.wr then none else some v

/-- R356: whether the registers of the configuration root have their supply. -/
def rootOn (s : State) : Bool := (dom s 52).st != .off && (dom s 52).st != .reset

/-- R243, R402: a denied access reads zero or is ignored; the local port knows no status for it but OK. Nothing is recorded while
the SEC_ block has no supply (log entry 35). -/
def denyAcc (s : State) (a : HeldAcc) : State :=
  answer (if rootOn s then secErr (cntUp s (secReg 0xC) 16 16 1) 0x10 else s) a.via (match a.via with
    | .loc _ => 0
    | _ => 3) 0 (dataIf a 0)

/-- R439: PATH and HOST of a requester's number; 41 is a copy of the root (R428). -/
def errPath (n : Nat) : Nat × Nat :=
  if n < 32 then (0, 0) else if n = 32 then (1, 0) else if n = 41 then (3, 0) else (2, n - 33)

/-- R404, R429: the place of a requester whose error response is recorded: 0 the management port. -/
def errRank (v : Via) : Nat := viaRank v - 1

/-- R429: whether the error response recorded last is of this CCLK cycle and of a requester of higher priority. -/
def errOutranked (s : State) (rank : Nat) : Bool :=
  s.errAt.any (fun x => x.1 == s.aclk && x.2.1 == cyc s 56 && decide (x.2.2 < rank))

/-- R429, R439: the root records an error response of requester n, unless it has no supply (log entry 109): its cause and count,
and, where none of higher priority fell in the same CCLK cycle, its place. -/
def cfgError (s : State) (rank n k cause : Nat) : State :=
  if rootOn s = false then s
  else
    let e := svcReg 0 0x18
    let p := errPath n
    let s1 := setBits (cntUp s e 16 8 1) e (2 ^ (cause - 1))
    if errOutranked s rank then s1
    else
      let s2 := wr (wr (wrF s1 e 8 3 cause) (svcReg 0 0x1C) (BitVec.ofNat 32 (pack
        [(0, 6, keyDom k), (6, 11, keyCell k), (17, 5, keyBlk k), (22, 2, p.1), (24, 3, p.2)])))
        (svcReg 0 0x20) (BitVec.ofNat 32 (keyOff k))
      { s2 with errAt := some (s.aclk, cyc s 56, rank) }

/-- R284: HOST_ERR of a host port whose access met the error response. -/
def hostErr (s : State) (h : Nat) (wrt : Bool) : State :=
  let g := hostGw h
  if (dom s g.dom).st = .off ∨ (dom s g.dom).st = .reset then s else setBits s (gwReg g 1 4) (if wrt then 2 else 1)

/-- R430: the error response as a path presents it. What the TAP's data bits hold after a read that failed the spec does
not say: a free value (log entry 5). -/
def errShow (s : State) (a : HeldAcc) (cause : Nat) : State :=
  match a.via with
  | .tapSec => draw (answer s a.via 2 cause (dataIf a (BitVec.ofNat 32 (natOf (freeBytes s.freeCtr 4)))))
  | .tapCfg => draw (answer s a.via 2 cause (dataIf a (BitVec.ofNat 32 (natOf (freeBytes s.freeCtr 4)))))
  | .bar0 h => answer (hostErr s h a.wr) a.via 2 cause (dataIf a 0xFFFFFFFF)
  | .bar2 h => answer (hostErr s h a.wr) (if barBase ≤ a.key then .bar0 h else a.via) 2 cause (dataIf a 0xFFFFFFFF)
  | .loc _ => answer s a.via 2 cause (dataIf a 0xFFFFFFFF)
  | _ => answer s a.via 2 cause (dataIf a 0)

/-- R243, R429, R432: the error response: the root records it, but for the local port and the responder's own registers,
which are not on the network. -/
def errAcc (s : State) (a : HeldAcc) (cause : Nat) : State :=
  errShow (match a.via with
    | .loc _ => s
    | v => if barBase ≤ a.key then s else cfgError s (errRank v) (viaNum v) a.key cause) a cause

/-- R413: whether an access that comes now only observes. -/
def observes (s : State) (a : HeldAcc) : Bool := a.via == .tapCfg && s.sec.level == 1

/-- The effect of an access that is served, and the data of a read. -/
def effectAcc (s : State) (a : HeldAcc) : Option Word × State :=
  if a.wr then (none, regWrite s (viaPath a.via) a.healthy a.key a.v)
  else
    let r := regRead s a.obs a.key
    (some r.1, r.2)

/-- The cause with which a fate ends an access; 0: it does not. -/
def fateCause (f : Fate) : Nat :=
  match f with
  | .good => 0
  | .corrected => 0
  | .timeout _ => 3
  | .lost _ => 4

/-- R429, R431: whether an access took effect: not where it was lost on the way out; where its answer did not come, the
spec does not say: a free value (log entry 5). -/
def fateTook (s : State) (f : Fate) : Bool :=
  match f with
  | .good => true
  | .corrected => true
  | .timeout _ => Config.accessTook s.freeCtr
  | .lost back => back && Config.accessTook s.freeCtr

/-- R429, R431: what the root notes of a fate, unless it has no supply (log entry 109): the counts of CFG_ECC, NETWORK for a lost
word, and LATE. -/
def fateNote (s : State) (f : Fate) : State :=
  let on := rootOn s
  match f with
  | .good => s
  | .corrected => if on then cntUp s (svcReg 0 0x24) 0 16 1 else s
  | .timeout late => draw (if on && late then setBits s (svcReg 0 0x18) 0x10 else s)
  | .lost _ => draw (if on then setBits (cntUp s (svcReg 0 0x24) 16 8 1) (svcReg 0 0x18) 8 else s)

/-- R428: whether a register has copies. -/
def mirrored (k : Nat) : Bool :=
  k == svcReg 0 0 || (match gwOfNum (keyCell k) with
    | some (.mem _ _) => decide (48 ≤ keyDom k) && decide (keyDom k < 52) && keyBlk k == 1 && keyOff k == 0
    | some (.opt _ _) => decide (48 ≤ keyDom k) && decide (keyDom k < 52) && keyBlk k == 1 && decide (0x24 ≤ keyOff k) && decide (keyOff k ≤ 0x2C)
    | _ => false)

/-- R428: whether a domain holds copies of a mirrored register: of MEM_CFG the fields, of OPT_EXPECT the bands, of CFG_WAFER_ID
both. -/
def copiedTo (k d : Nat) : Bool :=
  mirrored k && decide (d < 52) && (k == svcReg 0 0 || (match gwOfNum (keyCell k) with
    | some (.opt _ _) => decide (48 ≤ d)
    | _ => decide (d < 48)))

/-- R428: the other domains in RUN in which what befalls an access befalls the copy of its register. -/
def hitCopies (s : State) (a : HeldAcc) : List Nat :=
  if a.wr then (List.range 52).filter (fun d => a.hit.testBit d && d != keyDom a.key && copiedTo a.key d && (dom s d).st == .run) else []

/-- R428: an effect whose copies do not reach some domains: as if those were not in RUN. -/
def withoutCopies (s : State) (ds : List Nat) (f : State → State) : State :=
  ds.foldl (fun t d => updDom t d (fun x => { x with st := .run }))
    (f (ds.foldl (fun t d => updDom t d (fun x => { x with st := .reset })) s))

/-- What befalls an access in a domain. -/
def fateIn (a : HeldAcc) (d : Nat) : Fate := if a.hit.testBit d then a.fate else .good

/-- R429, R431, R439: a copy that ends in an error: the root records it as its own, at the domain it was bound for (log
entry 36). -/
def copyError (s : State) (a : HeldAcc) (d cause : Nat) : State :=
  cfgError s (errRank a.via) 41 (regKey d (keyCell a.key) (keyBlk a.key) (keyOff a.key)) cause

/-- R428: serve a write whose copies in some domains meet its fate: the write completes, with the error, after the other
copies have applied it. Each is an error response; the record left is that of the lowest domain. Where the write's own block
meets the fate too, the response is its own, and a write that took no effect there (R429) has no copies. -/
def serveCopy (s : State) (a : HeldAcc) (ds : List Nat) : State :=
  let f := fateIn a (keyDom a.key)
  match fateCause a.fate with
  | 0 => answer (effectAcc (ds.foldl (fun t _ => fateNote t a.fate) (fateNote s f)) a).2 a.via 0 0 none
  | c =>
    let took := fateTook s a.fate
    let copies := fun (t : State) => ds.reverse.foldl (fun t d => copyError (fateNote t a.fate) a d c) t
    if fateCause f = 0 then
      errShow (copies (if took then (effectAcc s a).2 else withoutCopies s ds (fun t => (effectAcc t a).2))) a c
    else errAcc (fateNote (if took then copies (effectAcc s a).2 else s) f) a c

/-- Serve an access in its block. -/
def serveAcc (s : State) (a : HeldAcc) : State :=
  if hitCopies s a ≠ [] then serveCopy s a (hitCopies s a)
  else
    let f := fateIn a (keyDom a.key)
    match fateCause f with
    | 0 =>
      let r := effectAcc (fateNote s f) a
      answer r.2 a.via 0 0 r.1
    | c => errAcc (fateNote (if fateTook s f then (effectAcc s a).2 else s) f) a c

/-- R363, R366, R416: hold an access, and wake a domain if it says so. The TAP reads BUSY. -/
def holdAcc (s : State) (a : HeldAcc) (wake : Bool) (d : Nat) : State :=
  let s1 := { s with held := s.held ++ [a] }
  let s2 := match a.via with
    | .tapSec => { s1 with tap := { s1.tap with status := 1 } }
    | .tapCfg => { s1 with tap := { s1.tap with status := 1 } }
    | _ => s1
  if wake then wakeDom s2 d 3 else s2

/-! ## Broadcasts (R427) -/

/-- The address in a field of a broadcast's address. -/
def pieceKey (f k : Nat) : Nat := regKey f (keyCell k) (keyBlk k) (keyOff k)

/-- R427: the fields that CFG_BCAST_FMASK selects. -/
def bcastFields (s : State) : List Nat :=
  (List.range 48).filter (fun f => bit (rd s (svcReg 0 (if f < 32 then 0x28 else 0x2C))) (f % 32))

/-- R427: a broadcast's write of one field: one cell, or every logical cell. -/
def pieceWrite (s : State) (n k : Nat) (v : Word) : State :=
  let p := viaPath (viaOfNum n)
  if keyCell k = 2046 then
    (List.range 1200).foldl (fun t c => regWrite t p true (regKey (keyDom k) c (keyBlk k) (keyOff k)) v) s
  else regWrite s p true k v

/-- R427: a field of broadcast i of requester n fails. -/
def pieceLost (s : State) (a : HeldAcc) (n i cause : Nat) : State :=
  { s with held := s.held ++ [{ a with via := .pieceFail n i cause }] }

/-- R427: what becomes of broadcast i of requester n at one field. The remap block's registers, at cell 2,047, block 0,
answer in every state of the field, so that R427's skipped fields are not skipped there (R25; DESIGN CHOICE, log entry
33). -/
def pieceStep (s : State) (n i : Nat) (a : HeldAcc) : State :=
  match targetVerdict s a.key with
  | .serve =>
    let f := fateIn a (keyDom a.key)
    let s1 := fateNote (if fateTook s f then pieceWrite s n a.key a.v else s) f
    match fateCause f with
    | 0 => s1
    | c => pieceLost s1 a n i c
  | .hold w => holdAcc s { a with via := .piece n i } w (keyDom a.key)
  | .err c => pieceLost s a n i c

/-- The failing field of a broadcast with the lowest number, and its cause. -/
def firstFail (n i : Nat) (l : List HeldAcc) : Option (Nat × Nat) :=
  l.foldl (fun m x =>
    match x.via with
    | .pieceFail v j c =>
      if v = n ∧ j = i ∧ m.all (fun y => decide (keyDom x.key < y.1)) = true then some (keyDom x.key, c) else m
    | _ => m) none

/-- Whether a held access is a field that failed in broadcast i of requester n. -/
def isFail (n i : Nat) (a : HeldAcc) : Bool :=
  match a.via with
  | .pieceFail v j _ => v == n && j == i
  | _ => false

/-- R427, R439: a broadcast ends: OK if every field took it, else ERROR with the cause of the lowest field that did not. -/
def bcastDone (s : State) (n i : Nat) (a : HeldAcc) : State :=
  let s1 := { s with held := s.held.filter (fun x => !isFail n i x) }
  let b : HeldAcc := { a with via := viaOfNum n }
  match firstFail n i s.held with
  | none => answer s1 b.via 0 0 none
  | some x =>
    let e := svcReg 0 0x30
    errAcc (setBits (wrF (wrF s1 e 0 6 x.1) e 8 6 (s.held.countP (isFail n i))) e 0x80) b x.2

/-- R427: the end of a broadcast waits for the fields that hold it. -/
def bcastEnd (s : State) (n i : Nat) (a : HeldAcc) : State :=
  if s.held.any (fun x => x.via == .piece n i) then { s with held := s.held ++ [{ a with via := .pieceEnd n i }] } else bcastDone s n i a

/-- The number of a requester's next broadcast: above those it waits for. -/
def bcastNum (s : State) (n : Nat) : Nat :=
  s.held.foldl (fun m x =>
    match x.via with
    | .pieceEnd v i => if v = n then max m (i + 1) else m
    | _ => m) 0

/-- R427: a broadcast. -/
def bcast (s : State) (a : HeldAcc) : State :=
  let n := viaNum a.via
  let i := bcastNum s n
  let s1 := (bcastFields s).foldl (fun t f => pieceStep t n i { a with key := pieceKey f a.key }) s
  let s2 := bcastEnd s1 n i a
  if s2.held.any (fun x => x.via == .pieceEnd n i) && n == 32 then { s2 with tap := { s2.tap with status := 1 } } else s2

/-! ## An access -/

/-- R432: the block that HOST_CFG_WIN names, with an offset. -/
def winKey2 (w : Word) (off : Nat) : Nat := regKey (bits w 0 6) (bits w 6 11) (bits w 17 5) off

/-- R432: an address above the responder's registers, where nothing lies. -/
def barNowhere : Nat := barBase + 0x20000

/-- R279, R432: an access above the network's addresses: the responder's own registers; the others read zero and ignore
writes. -/
def barReg (s : State) (a : HeldAcc) : State :=
  let off := a.key - barBase
  match a.via with
  | .bar2 h =>
    let x := s.bar.get h (0, 0)
    if a.wr then
      answer (if off = 65536 then { s with bar := s.bar.set h (a.v &&& 0x3FFFFF, x.2) } else s) (.bar0 h) 0 0 none
    else answer s (.bar0 h) 0 0 (some (if off = 65536 then x.1 else if off = 65540 then x.2 else 0))
  | v => answer s v 0 0 (dataIf a 0)

/-- An access that the root serves. -/
def reachAcc (s : State) (a : HeldAcc) : State :=
  if barBase ≤ a.key then barReg s a
  else if addrPasses a = false then errAcc s a 2
  else if keyDom a.key = 56 then bcast s a
  else
    match targetVerdict s a.key with
    | .serve => serveAcc s a
    | .hold w => holdAcc s a w (keyDom a.key)
    | .err c => errAcc s a c

/-- An access as it goes on once it is judged, at the level of that moment (R413): where nothing lies, to an address that reads
zero and ignores writes. -/
def judged (s : State) (a : HeldAcc) (j : Judged) : HeldAcc :=
  let b := { a with ok := true, obs := if a.ok then a.obs else observes s a }
  match j with
  | .nowhere => { b with key := barNowhere }
  | _ => b

/-- R402, R403, R432: a BAR2 access with no view reads zero and ignores writes, whatever the state of the group. -/
def noView (a : HeldAcc) (j : Judged) : Bool :=
  j == .nowhere && (match a.via with
    | .bar2 _ => true
    | _ => false)

/-- An access at the root: what the service group's state makes of it (R363, R417), then the view and reach of its path
(R402), which count as it arrives and not when it is served. A denied access wakes nothing. -/
def rootAcc (s : State) (a : HeldAcc) : State :=
  let j := if a.ok then .passes else judge s a
  match rootVerdict s a with
  | .err e => if noView a j then barReg s (judged s a j) else errAcc s a e
  | .hold w => if j = .denied then denyAcc s a else holdAcc s (judged s a j) w 52
  | .serve => if j = .denied then denyAcc s a else reachAcc s (judged s a j)

/-- R243: an access by the local register port of a cell's NI. -/
def localAcc (s : State) (c : Cell) (a : HeldAcc) : State :=
  let j := if a.ok then .passes else judge s a
  let b := { judged s a j with fate := .good }
  match domVerdict s c.field with
  | .err e => errAcc s a e
  | .hold w => if j = .denied then denyAcc s a else holdAcc s b w c.field
  | .serve => if j = .denied then denyAcc s a else if barBase ≤ b.key then barReg s b else serveAcc s b

/-- A configuration access. -/
def access (s : State) (a : HeldAcc) : State :=
  match a.via with
  | .loc c => localAcc s c a
  | .piece n i => pieceStep s n i a
  | .pieceFail _ _ _ => { s with held := s.held ++ [a] }
  | .pieceEnd n i => bcastEnd s n i a
  | _ => rootAcc s a

/-- R404: the accesses that are held, in the order of service: by requester, and of one requester as they came. -/
def heldOrder (l : List HeldAcc) : List HeldAcc := (List.range 11).flatMap (fun r => l.filter (fun a => viaRank a.via == r))

/-- One more try of every access that is held, in order. -/
def retryHeld (s : State) : State := (heldOrder s.held).foldl access { s with held := [] }

/-- R363, R366, R427: the accesses that are held are served, or answered, as soon as the domains let them. A second round
takes what the first has freed. -/
def serveHeld (s : State) : State := if s.held = [] then s else retryHeld (retryHeld s)

/-- R416, R424: whether a path can take no further access: the TAP's one, the management port's under a tag, BAR2's eight
are outstanding. -/
def pathFull (s : State) (v : Via) : Bool :=
  match v with
  | .tapSec => s.tap.status == 1
  | .tapCfg => s.tap.status == 1
  | .mgmt g => s.held.any (fun x => x.via == .mgmt g || (match x.via with
    | .pieceEnd n _ => n == g.val
    | _ => false))
  | .bar2 h => decide (8 ≤ s.held.countP (fun x => x.via == .bar2 h || (match x.via with
    | .pieceEnd n _ => n == 33 + h
    | _ => false)))
  | _ => false

/-- R416, R424: a request enters, if its path can take it (log entry 37). -/
def request (s : State) (a : HeldAcc) : State := if pathFull s a.via then s else serveHeld (access s a)

/-- A write by a path. -/
def writeBy (s : State) (p : Path) (k : Nat) (v : Word) : State := request s (accOf p k true v)

/-- A read by a path. -/
def readBy (s : State) (p : Path) (k : Nat) : State := request s (accOf p k false 0)

/-- R429: an access whose answer from a domain does not come within CFG_TMO. -/
def timeoutAcc (s : State) (a : HeldAcc) (hit : Nat) (late : Bool) : State := request s { a with fate := .timeout late, hit := hit }

/-- R431: a tree link word of an access to a domain in error: corrected and counted; or uncorrectable, which ends the
access. -/
def networkAcc (s : State) (a : HeldAcc) (hit : Nat) (fatal back : Bool) : State :=
  request s { a with fate := if fatal then .lost back else .corrected, hit := hit }

end Sys2Proof.Machine
end

