-- ==== Sys2Proof/Machine/Rows.lean ====
section
/-! DEFINITION. The commands that are accesses of registers: each names the register it reads or writes and the bits that
make the write what the row says. -/

namespace Sys2Proof.Machine

/-- Bit 31, GO of many registers. -/
def goBit : Word := 0x80000000

/-! ## Plain accesses (R12, R26, R37) -/

/-- REGISTER_WRITE (R12). -/
def execRegisterWrite (p : Path) (a : CfgAddr) (v : Word) (s : State) : Host.Outcome State Fault Refusal := .next (writeBy s p a.key v)

/-- RC_FIELD_READ (R12). -/
def execRcFieldRead (p : Path) (a : CfgAddr) (s : State) : Host.Outcome State Fault Refusal := .next (readBy s p a.key)

/-- REMAP_LOOKUP (R26): a write of CELL_REMAP_LOOKUP_IN. -/
def execRemapLookup (p : Path) (f : Fin 48) (v : Word) (s : State) : Host.Outcome State Fault Refusal :=
  .next (writeBy s p (fieldReg f.val 0 0x10) v)

/-- WAFER_ID_WRITE (R37). -/
def execWaferIdWrite (p : Path) (v : Word) (s : State) : Host.Outcome State Fault Refusal := .next (writeBy s p (svcReg 0 0) v)

/-! ## Routers and routes -/

/-- PORT_RETRAIN (R70). -/
def execPortRetrain (p : Path) (c : Cell) (port : Fin 7) (s : State) : Host.Outcome State Fault Refusal :=
  .next (writeBy s p (portReg c port.val 0) 1)

/-- ROUTE_PATH_WRITE (R91): W2 of a staging path, with VALID = 1. -/
def execRoutePathWrite (p : Path) (u : UnitRef) (entry : Fin 64) (k : Fin 8) (w2 : Word) (s : State) :
    Host.Outcome State Fault Refusal :=
  .next (writeBy s p (unitReg u (0x1008 + 0x80 * entry.val + 0x10 * k.val) 0 (0x1008 + 0x80 * entry.val + 0x10 * k.val)) (w2 ||| goBit))

/-- EPOCH_SWITCH (R111). -/
def execEpochSwitch (p : Path) (u : UnitRef) (s : State) : Host.Outcome State Fault Refusal := .next (writeBy s p (unitReg u 0x804 0 4) 0x10)

/-- CELL_EPOCH_WRITE (R118). -/
def execCellEpochWrite (p : Path) (c : Cell) (v : Word) (s : State) : Host.Outcome State Fault Refusal :=
  .next (writeBy s p (cellReg c 1 0) v)

/-- PORT_ENABLE_WRITE (R113). -/
def execPortEnableWrite (p : Path) (c : Cell) (v : Word) (s : State) : Host.Outcome State Fault Refusal :=
  .next (writeBy s p (cellReg c 1 4) v)

/-- PORT_DISABLE_APPLY (R113). -/
def execPortDisableApply (c : Cell) (port : Fin 7) (s : State) : Host.Outcome State Fault Refusal :=
  .next (portDisableApply s c port.val)

/-- LAST_FLUSH (R104). -/
def execLastFlush (p : Path) (c : Cell) (v : Word) (s : State) : Host.Outcome State Fault Refusal :=
  .next (writeBy s p (cellReg c 3 0x820) (v ||| goBit))

/-- WARM_ARM (R132). -/
def execWarmArm (p : Path) (w : WeltDom) (v : Word) (s : State) : Host.Outcome State Fault Refusal :=
  .next (writeBy s p (warmBase w + 12) (v ||| 1))

/-- WARM_CANCEL (R132). -/
def execWarmCancel (p : Path) (w : WeltDom) (v : Word) (s : State) : Host.Outcome State Fault Refusal :=
  .next (writeBy s p (warmBase w + 12) (v ||| 2))

/-- CELL_HWM_CLEAR (R158). -/
def execCellHwmClear (p : Path) (c : Cell) (port : Fin 7) (s : State) : Host.Outcome State Fault Refusal :=
  .next (writeBy s p (cellReg c 0 (0x410 + 4 * port.val)) goBit)

/-- NI_HWM_CLR (R162). -/
def execNiHwmClr (p : Path) (c : Cell) (v : Word) (s : State) : Host.Outcome State Fault Refusal := .next (writeBy s p (cellReg c 3 0xB014) v)

/-! ## Combine units -/

/-- CMB_ENTRY_LOAD (R167): W0 of an entry, with VALID = 1. -/
def execCmbEntryLoad (p : Path) (c : Cell) (e : Fin 32) (w0 : Word) (s : State) : Host.Outcome State Fault Refusal :=
  .next (writeBy s p (cellReg c 4 (0x1000 + 0x80 * e.val)) (w0 ||| 1))

/-- CMB_SW_ABORT (R201). -/
def execCmbSwAbort (p : Path) (c : Cell) (v : Word) (s : State) : Host.Outcome State Fault Refusal :=
  .next (writeBy s p (cellReg c 4 0x20) (v ||| goBit))

/-- CMB_LOST_WAFER (R317). -/
def execCmbLostWafer (p : Path) (c : Cell) (v : Word) (s : State) : Host.Outcome State Fault Refusal :=
  .next (writeBy s p (cellReg c 4 0x50) (v ||| goBit))

/-! ## Rings and mailboxes -/

/-- Write a ring's register where the unit has such a ring. -/
def ringBy (s : State) (p : Path) (u : UnitRef) (cq : Bool) (r i : Nat) (v : Word) : State :=
  if cq then (if r < cqCount u then writeBy s p (cqReg u r i) v else s)
  else if r < sqCount u then writeBy s p (sqReg u r i) v
  else s

/-- SQ_DOORBELL (R234). -/
def execSqDoorbell (p : Path) (u : UnitRef) (r : Fin 64) (d : Word) (s : State) : Host.Outcome State Fault Refusal :=
  .next (ringBy s p u false r.val 3 d)

/-- CQ_DOORBELL (R237). -/
def execCqDoorbell (p : Path) (u : UnitRef) (r : Fin 64) (d : Word) (s : State) : Host.Outcome State Fault Refusal :=
  .next (ringBy s p u true r.val 3 d)

/-- RING_ENABLE (R261): a write with ENABLE = 1. -/
def execRingEnable (p : Path) (u : UnitRef) (cq : Bool) (r : Fin 64) (v : Word) (s : State) : Host.Outcome State Fault Refusal :=
  .next (ringBy s p u cq r.val 2 (v ||| 0x10000))

/-- RING_DISABLE (R262): a write with ENABLE = 0 and ABORT = 0. -/
def execRingDisable (p : Path) (u : UnitRef) (cq : Bool) (r : Fin 64) (v : Word) (s : State) : Host.Outcome State Fault Refusal :=
  .next (ringBy s p u cq r.val 2 (v &&& 0xFFFCFFFF))

/-- RING_ABORT (R262): a write with ENABLE = 0 and ABORT = 1. -/
def execRingAbort (p : Path) (u : UnitRef) (r : Fin 64) (v : Word) (s : State) : Host.Outcome State Fault Refusal :=
  .next (ringBy s p u false r.val 2 (v &&& 0xFFFCFFFF ||| 0x20000))

/-- LOCAL_PORT_ACCESS (R243). -/
def execLocalPortAccess (c : Cell) (wr : Bool) (off : BitVec 16) (v : Word) (s : State) : Host.Outcome State Fault Refusal :=
  .next (request s { via := .loc c, key := cellReg c 3 off.toNat, wr := wr, v := v, healthy := true })

/-- MAILBOX_COMMIT (R267). -/
def execMailboxCommit (p : Path) (h : Fin 8) (m : Fin 16) (tag : Word) (s : State) : Host.Outcome State Fault Refusal :=
  .next (writeBy s p (gwReg (hostGw h.val) 1 (0x2008 + 0x20 * m.val)) tag)

/-- MAILBOX_RECEIVE (R267). -/
def execMailboxReceive (p : Path) (h : Fin 8) (m : Fin 16) (s : State) : Host.Outcome State Fault Refusal :=
  .next (readBy s p (gwReg (hostGw h.val) 1 (0x200C + 0x20 * m.val)))

/-! ## Gateways -/

/-- MEM_SIZE_WRITE (R275). -/
def execMemSizeWrite (p : Path) (m : MemId) (v : Word) (s : State) : Host.Outcome State Fault Refusal :=
  .next (writeBy s p (gwReg m.gw 1 0) v)

/-- R432: the block that HOST_CFG_WIN names for an access that enters now: the last write of it that entered before, though
it be held, governs. -/
def barWindow (s : State) (h : Nat) : Word :=
  match (s.held.filter (fun x => x.via == .bar2 h && x.wr && x.key == barBase + 65536)).getLast? with
  | some x => x.v &&& 0x3FFFFF
  | none => (s.bar.get h (0, 0)).1

/-- R279, R432: an aligned word of a BAR. A BAR2 access samples the window as it enters the responder. -/
def barAcc (s : State) (h : Nat) (bar2 : Bool) (off : Nat) (wr : Bool) (v : Word) : HeldAcc :=
  if bar2 then
    { via := .bar2 h, key := if off < 65536 then winKey2 (barWindow s h) off else barBase + off, wr := wr, v := v, healthy := true }
  else { via := .bar0 h, key := hostBlock h + off, wr := wr, v := v, healthy := true }

/-- BAR_ACCESS (R278, R279, R432). A write with partial byte enables is ignored, and so is one that does not begin at a
word; a read returns the word; an AtomicOp is answered Unsupported Request. -/
def execBarAccess (h : Fin 8) (bar2 : Bool) (off : BitVec 18) (wr full atomic : Bool) (v : Word) (s : State) :
    Host.Outcome State Fault Refusal :=
  let o := off.toNat - off.toNat % 4
  if bar2 = false ∧ 65536 ≤ o then .fault .outsideBar
  else if atomic then .next (answer s (.bar0 h.val) 4 0 none)
  else if wr = true ∧ (full = false ∨ off.toNat % 4 ≠ 0) then .next s
  else .next (request s (barAcc s h.val bar2 o wr v))

/-- OPT_RETRAIN (R294). -/
def execOptRetrain (p : Path) (o : OptId) (v : Word) (s : State) : Host.Outcome State Fault Refusal := .next (writeBy s p (optReg o 0) (v ||| 1))

/-- OPT_DISABLE (R300): a write of OPT_CTRL with DISABLE as given. -/
def execOptDisable (p : Path) (o : OptId) (v : Word) (s : State) : Host.Outcome State Fault Refusal := .next (writeBy s p (optReg o 0) v)

/-- OPT_EXPECT_WRITE (R291). -/
def execOptExpectWrite (p : Path) (o : OptId) (v : Word) (s : State) : Host.Outcome State Fault Refusal :=
  .next (writeBy s p (optReg o 0x2C) v)

/-- NI_OFFW_LOST (R317). -/
def execNiOffwLost (p : Path) (c : Cell) (v : Word) (s : State) : Host.Outcome State Fault Refusal :=
  .next (writeBy s p (cellReg c 3 0xD200) (v ||| goBit))

/-! ## Meridian time -/

/-- MER_ADJ_WRITE (R326). -/
def execMerAdjWrite (p : Path) (v : Word) (s : State) : Host.Outcome State Fault Refusal := .next (writeBy s p (merReg 8) v)

/-- MER_SET (R327). -/
def execMerSet (p : Path) (v : Word) (s : State) : Host.Outcome State Fault Refusal := .next (writeBy s p (merReg 0) (v ||| 4))

/-- MER_STEP (R327): STEP without SET. -/
def execMerStep (p : Path) (v : Word) (s : State) : Host.Outcome State Fault Refusal :=
  .next (writeBy s p (merReg 0) (v &&& 0xFFFFFFFB ||| 8))

/-- MER_SNAP (R344). -/
def execMerSnap (p : Path) (v : Word) (s : State) : Host.Outcome State Fault Refusal := .next (writeBy s p (merReg 0) (v ||| 2))

/-- TSQ_POP (R332). -/
def execTsqPop (p : Path) (v : Word) (s : State) : Host.Outcome State Fault Refusal := .next (writeBy s p (merReg 0x50) (v ||| goBit))

/-- OPT_TIME_STAT_READ (R345). -/
def execOptTimeStatRead (p : Path) (o : OptId) (s : State) : Host.Outcome State Fault Refusal := .next (readBy s p (optReg o 0x74))

/-! ## Clocks and power -/

/-- CLK_RELOCK (R348). -/
def execClkRelock (p : Path) (k : Fin 60) (v : Word) (s : State) : Host.Outcome State Fault Refusal := .next (writeBy s p (clkReg k.val 4) (v ||| 1))

/-- POWER_DOWN (R361): a GO with TARGET and FORCE as given. -/
def execPowerDown (p : Path) (d : Fin 53) (v : Word) (s : State) : Host.Outcome State Fault Refusal :=
  .next (writeBy s p (pwrReg d.val 0) (v ||| 0x10))

/-- POWER_DEEPEN (R359): a GO with TARGET as given. -/
def execPowerDeepen (p : Path) (d : Fin 53) (v : Word) (s : State) : Host.Outcome State Fault Refusal :=
  .next (writeBy s p (pwrReg d.val 0) (v ||| 0x10))

/-- POWER_UP (R366): a GO with TARGET = RUN. -/
def execPowerUp (p : Path) (d : Fin 53) (v : Word) (s : State) : Host.Outcome State Fault Refusal :=
  .next (writeBy s p (pwrReg d.val 0) (v &&& 0xFFFFFFFC ||| 0x10))

/-- FORCE_OFF (R365): a GO with TARGET = OFF and FORCE = 1. -/
def execForceOff (p : Path) (d : Fin 53) (v : Word) (s : State) : Host.Outcome State Fault Refusal :=
  .next (writeBy s p (pwrReg d.val 0) (v ||| 0x33))

/-- WAKE_CONFIG (R366): an access, which wakes what sleeps on its way. -/
def execWakeConfig (p : Path) (a : CfgAddr) (wr : Bool) (v : Word) (s : State) : Host.Outcome State Fault Refusal :=
  .next (request s (accOf p a.key wr v))

/-! ## Faults and telemetry -/

/-- LOG_READ_COUNT (R385). -/
def execLogReadCount (p : Path) (v : Word) (s : State) : Host.Outcome State Fault Refusal := .next (writeBy s p (fltReg 0x24) v)

/-- LOG_SLOT_READ (R386): a read of word 0 of a slot. -/
def execLogSlotRead (p : Path) (slot : Fin 64) (s : State) : Host.Outcome State Fault Refusal :=
  .next (readBy s p (fltReg (0x1000 + 0x10 * slot.val)))

/-- FAULT_INJECT_GO (R387). -/
def execFaultInjectGo (p : Path) (v : Word) (s : State) : Host.Outcome State Fault Refusal :=
  .next (writeBy s p (fltReg 0x34) (v ||| goBit))

/-- SNAPSHOT_GO (R391). -/
def execSnapshotGo (p : Path) (v : Word) (s : State) : Host.Outcome State Fault Refusal := .next (writeBy s p (snapReg 0) (v ||| 1))

/-! ## Security -/

/-- DEBUG_REQUEST (R407), with what the entropy source's health test says. -/
def execDebugRequest (p : Path) (v : Word) (healthy : Bool) (s : State) : Host.Outcome State Fault Refusal :=
  .next (request s { accOf p (secReg 4) true (v ||| 0x10) with healthy := healthy })

/-- DEBUG_VERIFY (R409). -/
def execDebugVerify (p : Path) (v : Word) (s : State) : Host.Outcome State Fault Refusal := .next (writeBy s p (secReg 4) (v ||| 0x20))

/-- DEBUG_RELOCK (R411). -/
def execDebugRelock (p : Path) (v : Word) (s : State) : Host.Outcome State Fault Refusal := .next (writeBy s p (secReg 4) (v ||| 0x80))

/-- HOST_GRANT_WRITE (R403). -/
def execHostGrantWrite (p : Path) (h : Fin 8) (v : Word) (s : State) : Host.Outcome State Fault Refusal :=
  .next (writeBy s p (secReg (0x80 + 4 * h.val)) v)

/-! ## The network -/

/-- OPT_GO (R434). -/
def execOptGo (p : Path) (v : Word) (s : State) : Host.Outcome State Fault Refusal := .next (writeBy s p (svcReg 0 0x10) (v ||| 0x10))

/-- BROADCAST_WRITE (R427). -/
def execBroadcastWrite (p : Path) (cell : Fin 2048) (block : Fin 32) (off : Fin 65536) (v : Word) (s : State) :
    Host.Outcome State Fault Refusal := .next (writeBy s p (regKey 56 cell.val block.val off.val) v)

/-- CONFIG_TIMEOUT (R429). -/
def execConfigTimeout (p : Path) (a : CfgAddr) (wr : Bool) (v : Word) (hit : BitVec 54) (late : Bool) (s : State) :
    Host.Outcome State Fault Refusal := .next (timeoutAcc s (accOf p a.key wr v) hit.toNat late)

/-- CONFIG_NETWORK_ERROR (R431). -/
def execConfigNetworkError (p : Path) (a : CfgAddr) (wr : Bool) (v : Word) (hit : BitVec 54) (fatal : Bool) (back : Bool) (s : State) :
    Host.Outcome State Fault Refusal := .next (networkAcc s (accOf p a.key wr v) hit.toNat fatal back)

end Sys2Proof.Machine
end

