-- ==== Sys2Proof/Machine/Boot.lean ====
section
/-! DEFINITION. The commands after which accesses that were held may go on: the end of drains and wakes (R361, R362, R366,
R369), power-on (R433), the comparison's end (R409), and the test access port (R415, R416). -/

namespace Sys2Proof.Machine

/-! ## Drains and wakes -/

/-- CLOSE_END (R361). -/
def execCloseEnd (d : Fin 53) (s : State) : Host.Outcome State Fault Refusal := .next (serveHeld (closeEnd s d.val))

/-- GATE_END (R361, R367). -/
def execGateEnd (d : Fin 53) (s : State) : Host.Outcome State Fault Refusal := .next (serveHeld (gateEnd s d.val))

/-- DRAIN_TIMEOUT (R362). -/
def execDrainTimeout (d : Fin 53) (s : State) : Host.Outcome State Fault Refusal := .next (serveHeld (drainTimeout s d.val))

/-- R369, R428: a waking domain enters RUN. -/
def wakeDone (s : State) (d : Nat) : State :=
  if wakeReady s d then
    replayMirror (updDom s d (fun x => { x with st := .run, target := .run, phase := 0, since := s.aclk })) d
  else s

/-- WAKE_DONE (R369). -/
def execWakeDone (d : Fin 53) (s : State) : Host.Outcome State Fault Refusal := .next (serveHeld (wakeDone s d.val))

/-- R23, R354, R369: a domain powered up from OFF leaves its reset, unless its remap keeps it there. -/
def resetExit (s : State) (d : Nat) : State :=
  if (dom s d).st = .reset ∧ s.boot.done = true ∧ (dom s d).remapBad = false then dropPins (resetRun s d) else s

/-- RESET_EXIT (R369). -/
def execResetExit (d : Fin 53) (s : State) : Host.Outcome State Fault Refusal := .next (serveHeld (resetExit s d.val))

/-! ## Power-on (R433) -/

/-- R19, R20, R23: the fuses are loaded, and each field's remap is checked. -/
def fuseLoad (s : State) : State :=
  (List.range 48).foldl (fun t d => if remapOk s d then t else updDom t d (fun x => { x with remapBad := true }))
    { s with boot := { s.boot with fused := true } }

/-- R433: the sequencer brings domains to RUN; one that misses its bound stays in RESET, and so does a field whose remap
failed its check: FAIL. -/
def bringUp (s : State) (late : BitVec 53) (l : List Nat) : State :=
  let bad : Nat → Bool := fun d => late.getLsbD d || (dom s d).remapBad
  let s1 := l.foldl (fun t d => if bad d then t else resetRun t d) s
  { s1 with boot := { s1.boot with fail := s1.boot.fail || l.any bad } }

/-- R433: the fields of a row. -/
def rowFields (fy : Nat) : List Nat := (List.range 6).map (fun fx => 6 * fy + fx)

/-- R433: the sequencer's next step: the fuse load; the service group; the bands; the next field row; DONE. The domains
of `late` miss their bound. -/
def powerOn (s : State) (late : BitVec 53) : State :=
  let n := s.boot.step
  let s1 := { s with boot := { s.boot with step := n + 1 } }
  match n with
  | 0 => fuseLoad s1
  | 1 => s1
  | 2 => bringUp s1 late [52]
  | 3 => bringUp s1 late [48, 49, 50, 51]
  | 4 =>
    let s2 := bringUp s late (rowFields s.boot.row)
    if s.boot.row < 7 then { s2 with boot := { s2.boot with row := s.boot.row + 1 } }
    else { s2 with boot := { s2.boot with step := 5, done := true } }
  | _ => s

/-- POWER_ON (R433). -/
def execPowerOn (late : BitVec 53) (s : State) : Host.Outcome State Fault Refusal := .next (powerOn s late)

/-! ## Security -/

/-- VERIFY_DONE (R409, R414). -/
def execVerifyDone (s : State) : Host.Outcome State Fault Refusal := .next (serveHeld (verifyDone s))

/-! ## Test access port (R415, R416) -/

/-- TAP_RESET (R415): IDCODE. -/
def execTapReset (s : State) : Host.Outcome State Fault Refusal := .next { s with tap := { s.tap with ir := 1, lag := false } }

/-- TAP_IR_UPDATE (R415): the bits shifted out are those that Capture-IR loaded. -/
def execTapIrUpdate (ir : BitVec 8) (s : State) : Host.Outcome State Fault Refusal :=
  .next { s with tap := { s.tap with ir := ir.toNat, irOut := 4 * s.sec.level + 1, lag := false } }

/-- R415: the level of the pin PPS_OUT: its boundary cell drives it under EXTEST, after a RELOCK until the next Capture-DR
(R411). -/
def ppsPin (s : State) : Bool := if tapIr s = 3 ∨ (s.tap.ir = 3 ∧ s.tap.lag = true) then s.tap.bsr.testBit 2 else s.mer.ppsHigh

/-- R415: the boundary register captures the pins. Levels of pins that State does not hold are free (log entry 5). -/
def boundary (s : State) : Nat :=
  let w := natOf (freeBytes s.freeCtr 2)
  b2n s.wakePin + 2 * (w % 2) + 4 * b2n (ppsPin s) + 8 * (w / 8 % 1024)

/-- R415, R416: the length of the data register that an instruction selects, and what Capture-DR loads. -/
def tapCapture (s : State) (i : Nat) : Nat × Nat :=
  let acc := s.tap.data.toNat + 4294967296 * s.tap.status
  match i with
  | 1 => (32, 0x14D034F5)
  | 2 => (13, boundary s)
  | 3 => (13, boundary s)
  | 0x10 => (40, acc)
  | 0x11 => (72, acc)
  | _ => (1, 0)

/-- R416: Update-DR of SEC. -/
def tapSec (s : State) (dr : BitVec 40) : State :=
  request s { via := .tapSec, key := secReg (4 * bits dr 0 6), wr := bit dr 6, v := BitVec.ofNat 32 (bits dr 7 32), healthy := true }

/-- R416: Update-DR of CFG. -/
def tapCfg (s : State) (dr : BitVec 72) : State :=
  request s { via := .tapCfg, key := bits dr 0 38, wr := bit dr 38, v := BitVec.ofNat 32 (bits dr 39 32), healthy := true }

/-- R415, R416: a scan of a data register: Capture-DR, w bits shifted in from bit 0 up, Update-DR. A preload acts only
where EXTEST may be selected (R412). -/
def tapScan (s : State) (w dr : Nat) : State :=
  let i := tapIr s
  let c := tapCapture s i
  let all := c.2 + dr * 2 ^ c.1
  let x := all / 2 ^ w % 2 ^ c.1
  let s1 := { s with tap := { s.tap with out := all % 2 ^ w, lag := false } }
  match i with
  | 0x10 => tapSec s1 (BitVec.ofNat 40 x)
  | 0x11 => tapCfg s1 (BitVec.ofNat 72 x)
  | 2 => draw (if s.sec.level = 3 then { s1 with tap := { s1.tap with bsr := x } } else s1)
  | 3 => draw { s1 with tap := { s1.tap with bsr := x } }
  | _ => s1

/-- TAP_SEC_ACCESS (R416): a scan of 40 bits. -/
def execTapSecAccess (dr : BitVec 40) (s : State) : Host.Outcome State Fault Refusal := .next (tapScan s 40 dr.toNat)

/-- TAP_CFG_ACCESS (R416): a scan of 72 bits. -/
def execTapCfgAccess (dr : BitVec 72) (s : State) : Host.Outcome State Fault Refusal := .next (tapScan s 72 dr.toNat)

end Sys2Proof.Machine
end

