-- ==== Sys2Proof/Machine/Dispatch.lean ====
section
/-! DEFINITION. The meaning of every command: one arm per constructor, each a direct call of its meaning. -/

namespace Sys2Proof.Machine

/-- What a command does to everything but the queue. -/
def exec (i : Instr) (s : State) : Host.Outcome State Fault Refusal :=
  match i with
  | .registerWrite p a v => Sys2Proof.Machine.execRegisterWrite p a v s
  | .rcFieldRead p a => Sys2Proof.Machine.execRcFieldRead p a s
  | .remapLookup p f v => Sys2Proof.Machine.execRemapLookup p f v s
  | .waferIdWrite p v => Sys2Proof.Machine.execWaferIdWrite p v s
  | .flitReceive e flips => Sys2Proof.Machine.execFlitReceive e flips s
  | .nakTimeout e => Sys2Proof.Machine.execNakTimeout e s
  | .ackTimeout e => Sys2Proof.Machine.execAckTimeout e s
  | .headerAllocate c p v => Sys2Proof.Machine.execHeaderAllocate c p v s
  | .flitSend e ecc => Sys2Proof.Machine.execFlitSend e ecc s
  | .portRetrain p c port => Sys2Proof.Machine.execPortRetrain p c port s
  | .portPeerDown c port => Sys2Proof.Machine.execPortPeerDown c port s
  | .trainFlitReceive e flips => Sys2Proof.Machine.execTrainFlitReceive e flips s
  | .packetInject e => Sys2Proof.Machine.execPacketInject e s
  | .write t ecc => Sys2Proof.Machine.execWrite t ecc s
  | .readReq t => Sys2Proof.Machine.execReadReq t s
  | .signal t ecc => Sys2Proof.Machine.execSignal t ecc s
  | .streamReq t ecc => Sys2Proof.Machine.execStreamReq t ecc s
  | .streamRel t ecc => Sys2Proof.Machine.execStreamRel t ecc s
  | .ack t => Sys2Proof.Machine.execAck t s
  | .readData t => Sys2Proof.Machine.execReadData t s
  | .streamRsp t => Sys2Proof.Machine.execStreamRsp t s
  | .responseTimeout u tag => Sys2Proof.Machine.execResponseTimeout u tag s
  | .quarantineEnd u tag => Sys2Proof.Machine.execQuarantineEnd u tag s
  | .streamRelSend c st => Sys2Proof.Machine.execStreamRelSend c st s
  | .routePathWrite p u entry k w2 => Sys2Proof.Machine.execRoutePathWrite p u entry k w2 s
  | .epochSwitch p u => Sys2Proof.Machine.execEpochSwitch p u s
  | .cellEpochWrite p c v => Sys2Proof.Machine.execCellEpochWrite p c v s
  | .portEnableWrite p c v => Sys2Proof.Machine.execPortEnableWrite p c v s
  | .portDisableApply c port => Sys2Proof.Machine.execPortDisableApply c port s
  | .lastFlush p c v => Sys2Proof.Machine.execLastFlush p c v s
  | .weltFlitReceive e flips => Sys2Proof.Machine.execWeltFlitReceive e flips s
  | .weltFlitSend e => Sys2Proof.Machine.execWeltFlitSend e s
  | .weltSwap w => Sys2Proof.Machine.execWeltSwap w s
  | .warmArm p w v => Sys2Proof.Machine.execWarmArm p w v s
  | .warmCancel p w v => Sys2Proof.Machine.execWarmCancel p w v s
  | .circuitOpen c q => Sys2Proof.Machine.execCircuitOpen c q s
  | .circuitOpenTime c q => Sys2Proof.Machine.execCircuitOpenTime c q s
  | .circuitClose c q => Sys2Proof.Machine.execCircuitClose c q s
  | .circuitCloseSend c lidx => Sys2Proof.Machine.execCircuitCloseSend c lidx s
  | .circuit t => Sys2Proof.Machine.execCircuit t s
  | .shaperRefill f => Sys2Proof.Machine.execShaperRefill f s
  | .meterUpdate g => Sys2Proof.Machine.execMeterUpdate g s
  | .cellHwmClear p c port => Sys2Proof.Machine.execCellHwmClear p c port s
  | .niHwmClr p c v => Sys2Proof.Machine.execNiHwmClr p c v s
  | .cmbEntryLoad p c e w0 => Sys2Proof.Machine.execCmbEntryLoad p c e w0 s
  | .coll c q => Sys2Proof.Machine.execColl c q s
  | .chunkRead c e => Sys2Proof.Machine.execChunkRead c e s
  | .dataChunk c ecc => Sys2Proof.Machine.execDataChunk c ecc s
  | .creditChunk c => Sys2Proof.Machine.execCreditChunk c s
  | .abortChunk c => Sys2Proof.Machine.execAbortChunk c s
  | .tokenChunk c => Sys2Proof.Machine.execTokenChunk c s
  | .mapChunk c => Sys2Proof.Machine.execMapChunk c s
  | .chunkCombine c e ecc => Sys2Proof.Machine.execChunkCombine c e ecc s
  | .chunkSend c e edge ecc => Sys2Proof.Machine.execChunkSend c e edge ecc s
  | .progressTimeout c e => Sys2Proof.Machine.execProgressTimeout c e s
  | .cmbSwAbort p c v => Sys2Proof.Machine.execCmbSwAbort p c v s
  | .finderTopPass c e => Sys2Proof.Machine.execFinderTopPass c e s
  | .alltoallvWrites c e => Sys2Proof.Machine.execAlltoallvWrites c e s
  | .cmbLostWafer p c v => Sys2Proof.Machine.execCmbLostWafer p c v s
  | .copySparse c q => Sys2Proof.Machine.execCopySparse c q s
  | .packedHeaderWrite c q => Sys2Proof.Machine.execPackedHeaderWrite c q s
  | .sqDoorbell p u r d => Sys2Proof.Machine.execSqDoorbell p u r d s
  | .cqDoorbell p u r d => Sys2Proof.Machine.execCqDoorbell p u r d s
  | .descriptorFetch u ok => Sys2Proof.Machine.execDescriptorFetch u ok s
  | .completionWriteFail u r => Sys2Proof.Machine.execCompletionWriteFail u r s
  | .nop u r => Sys2Proof.Machine.execNop u r s
  | .copy u r => Sys2Proof.Machine.execCopy u r s
  | .fence c q => Sys2Proof.Machine.execFence c q s
  | .signalDescriptor u r => Sys2Proof.Machine.execSignalDescriptor u r s
  | .streamOpen c q => Sys2Proof.Machine.execStreamOpen c q s
  | .streamRelease c q => Sys2Proof.Machine.execStreamRelease c q s
  | .waitTime u r => Sys2Proof.Machine.execWaitTime u r s
  | .waitTimeReached u r => Sys2Proof.Machine.execWaitTimeReached u r s
  | .ringEnable p u cq r v => Sys2Proof.Machine.execRingEnable p u cq r v s
  | .ringDisable p u cq r v => Sys2Proof.Machine.execRingDisable p u cq r v s
  | .ringAbort p u r v => Sys2Proof.Machine.execRingAbort p u r v s
  | .localPortAccess c wr off v => Sys2Proof.Machine.execLocalPortAccess c wr off v s
  | .mailboxCommit p h m tag => Sys2Proof.Machine.execMailboxCommit p h m tag s
  | .mailboxReceive p h m => Sys2Proof.Machine.execMailboxReceive p h m s
  | .memSizeWrite p m v => Sys2Proof.Machine.execMemSizeWrite p m v s
  | .memWriteCommit m ok refused => Sys2Proof.Machine.execMemWriteCommit m ok refused s
  | .memReadDone m ok refused => Sys2Proof.Machine.execMemReadDone m ok refused s
  | .hostWriteAccepted h => Sys2Proof.Machine.execHostWriteAccepted h s
  | .hostReadDone h how => Sys2Proof.Machine.execHostReadDone h how s
  | .barAccess h bar2 off wr full atomic v => Sys2Proof.Machine.execBarAccess h bar2 off wr full atomic v s
  | .pcieLinkChange h up flit speed width bme mps mrrs => Sys2Proof.Machine.execPcieLinkChange h up flit speed width bme mps mrrs s
  | .functionLevelReset h => Sys2Proof.Machine.execFunctionLevelReset h s
  | .codewordReceive o cw => Sys2Proof.Machine.execCodewordReceive o cw s
  | .laneTestStart o anyLock => Sys2Proof.Machine.execLaneTestStart o anyLock s
  | .laneFault o lane lostLock anyLock => Sys2Proof.Machine.execLaneFault o lane lostLock anyLock s
  | .optRetrain p o v => Sys2Proof.Machine.execOptRetrain p o v s
  | .optDisable p o v => Sys2Proof.Machine.execOptDisable p o v s
  | .optExpectWrite p o v => Sys2Proof.Machine.execOptExpectWrite p o v s
  | .opticalIngress o => Sys2Proof.Machine.execOpticalIngress o s
  | .admissionProbe o => Sys2Proof.Machine.execAdmissionProbe o s
  | .probeTimeout o => Sys2Proof.Machine.execProbeTimeout o s
  | .discoveryTimeout o => Sys2Proof.Machine.execDiscoveryTimeout o s
  | .holdTimeout o => Sys2Proof.Machine.execHoldTimeout o s
  | .niOffwLost p c v => Sys2Proof.Machine.execNiOffwLost p c v s
  | .merAdjWrite p v => Sys2Proof.Machine.execMerAdjWrite p v s
  | .merSet p v => Sys2Proof.Machine.execMerSet p v s
  | .merStep p v => Sys2Proof.Machine.execMerStep p v s
  | .merSnap p v => Sys2Proof.Machine.execMerSnap p v s
  | .holdoverExpire => Sys2Proof.Machine.execHoldoverExpire s
  | .mclkLost => Sys2Proof.Machine.execMclkLost s
  | .timestampCapture src tag => Sys2Proof.Machine.execTimestampCapture src tag s
  | .tsqPop p v => Sys2Proof.Machine.execTsqPop p v s
  | .ppsOutPulse => Sys2Proof.Machine.execPpsOutPulse s
  | .ppsPulseEnd => Sys2Proof.Machine.execPpsPulseEnd s
  | .timePulse => Sys2Proof.Machine.execTimePulse s
  | .pulseMissing k => Sys2Proof.Machine.execPulseMissing k s
  | .timeExchangeStart o => Sys2Proof.Machine.execTimeExchangeStart o s
  | .timeReq o => Sys2Proof.Machine.execTimeReq o s
  | .timeRsp o => Sys2Proof.Machine.execTimeRsp o s
  | .exchangeTimeout o => Sys2Proof.Machine.execExchangeTimeout o s
  | .optTimeStatRead p o => Sys2Proof.Machine.execOptTimeStatRead p o s
  | .pllCoast k => Sys2Proof.Machine.execPllCoast k s
  | .clkRelock p k v => Sys2Proof.Machine.execClkRelock p k v s
  | .pllRelocked k => Sys2Proof.Machine.execPllRelocked k s
  | .powerDown p d v => Sys2Proof.Machine.execPowerDown p d v s
  | .powerDeepen p d v => Sys2Proof.Machine.execPowerDeepen p d v s
  | .powerUp p d v => Sys2Proof.Machine.execPowerUp p d v s
  | .forceOff p d v => Sys2Proof.Machine.execForceOff p d v s
  | .quiesceEnd d => Sys2Proof.Machine.execQuiesceEnd d s
  | .closeEnd d => Sys2Proof.Machine.execCloseEnd d s
  | .gateEnd d => Sys2Proof.Machine.execGateEnd d s
  | .drainTimeout d => Sys2Proof.Machine.execDrainTimeout d s
  | .wakePacket d => Sys2Proof.Machine.execWakePacket d s
  | .wakeConfig p a wr v => Sys2Proof.Machine.execWakeConfig p a wr v s
  | .wakeIn level => Sys2Proof.Machine.execWakeIn level s
  | .wakeTimer => Sys2Proof.Machine.execWakeTimer s
  | .wakeDone d => Sys2Proof.Machine.execWakeDone d s
  | .errorPinRise d cell cls => Sys2Proof.Machine.execErrorPinRise d cell cls s
  | .reportAccept d => Sys2Proof.Machine.execReportAccept d s
  | .logWrite => Sys2Proof.Machine.execLogWrite s
  | .logReadCount p v => Sys2Proof.Machine.execLogReadCount p v s
  | .logSlotRead p slot => Sys2Proof.Machine.execLogSlotRead p slot s
  | .faultInjectGo p v => Sys2Proof.Machine.execFaultInjectGo p v s
  | .faultInjectFire => Sys2Proof.Machine.execFaultInjectFire s
  | .snapshotGo p v => Sys2Proof.Machine.execSnapshotGo p v s
  | .snapshotCopy d => Sys2Proof.Machine.execSnapshotCopy d s
  | .snapshotBusyEnd => Sys2Proof.Machine.execSnapshotBusyEnd s
  | .debugRequest p v healthy => Sys2Proof.Machine.execDebugRequest p v healthy s
  | .challengeReady => Sys2Proof.Machine.execChallengeReady s
  | .debugVerify p v => Sys2Proof.Machine.execDebugVerify p v s
  | .verifyDone => Sys2Proof.Machine.execVerifyDone s
  | .challengeExpire => Sys2Proof.Machine.execChallengeExpire s
  | .lockoutEnd => Sys2Proof.Machine.execLockoutEnd s
  | .debugRelock p v => Sys2Proof.Machine.execDebugRelock p v s
  | .hostGrantWrite p h v => Sys2Proof.Machine.execHostGrantWrite p h v s
  | .tapReset => Sys2Proof.Machine.execTapReset s
  | .tapIrUpdate ir => Sys2Proof.Machine.execTapIrUpdate ir s
  | .tapSecAccess dr => Sys2Proof.Machine.execTapSecAccess dr s
  | .tapCfgAccess dr => Sys2Proof.Machine.execTapCfgAccess dr s
  | .powerOn late => Sys2Proof.Machine.execPowerOn late s
  | .optGo p v => Sys2Proof.Machine.execOptGo p v s
  | .broadcastWrite p cell block off v => Sys2Proof.Machine.execBroadcastWrite p cell block off v s
  | .configTimeout p a wr v hit late => Sys2Proof.Machine.execConfigTimeout p a wr v hit late s
  | .configNetworkError p a wr v hit fatal back => Sys2Proof.Machine.execConfigNetworkError p a wr v hit fatal back s
  | .resetExit d => Sys2Proof.Machine.execResetExit d s
  | .pllReferenceReturn k => Sys2Proof.Machine.execPllReferenceReturn k s
  | .memStackReady m => Sys2Proof.Machine.execMemStackReady m s
  | .clkMeasWindow k cycles => Sys2Proof.Machine.execClkMeasWindow k cycles s

end Sys2Proof.Machine
end

