-- ==== Sys2Proof/Safety.lean ====
section
/-! DEFINITION. The terms in which claims about the block are stated: which parts of the state a command may change, the
forms the state keeps, and the conditions under which a configuration access is served at once. -/

namespace Sys2Proof.Machine

/-! ## Parts of the state -/

/-- The parts of the state: its fields, and whether the debug level may rise (R405). -/
inductive Part where
  | pending
  | mem
  | regs
  | links
  | routers
  | units
  | rx
  | tx
  | cmbs
  | gws
  | doms
  | clks
  | mer
  | flt
  | tel
  | sec
  | boot
  | tap
  | fuses
  | held
  | resp
  | bar
  | warm
  | mirror
  | errAt
  | wakePin
  | aclk
  | freeCtr
  | levelRise
  deriving DecidableEq, Repr

/-- Two states agree in a part; for `levelRise`, the debug level is no higher in the second. -/
def Part.same (p : Part) (s t : State) : Prop :=
  match p with
  | .pending => t.pending = s.pending
  | .mem => t.mem = s.mem
  | .regs => t.regs = s.regs
  | .links => t.links = s.links
  | .routers => t.routers = s.routers
  | .units => t.units = s.units
  | .rx => t.rx = s.rx
  | .tx => t.tx = s.tx
  | .cmbs => t.cmbs = s.cmbs
  | .gws => t.gws = s.gws
  | .doms => t.doms = s.doms
  | .clks => t.clks = s.clks
  | .mer => t.mer = s.mer
  | .flt => t.flt = s.flt
  | .tel => t.tel = s.tel
  | .sec => t.sec = s.sec
  | .boot => t.boot = s.boot
  | .tap => t.tap = s.tap
  | .fuses => t.fuses = s.fuses
  | .held => t.held = s.held
  | .resp => t.resp = s.resp
  | .bar => t.bar = s.bar
  | .warm => t.warm = s.warm
  | .mirror => t.mirror = s.mirror
  | .errAt => t.errAt = s.errAt
  | .wakePin => t.wakePin = s.wakePin
  | .aclk => t.aclk = s.aclk
  | .freeCtr => t.freeCtr = s.freeCtr
  | .levelRise => t.sec.level ≤ s.sec.level

/-- R405: the debug level, and the level of a challenge under way, do not exceed the highest level of the lifecycle
state. -/
def SecOk (s : State) : Prop := s.sec.level ≤ topLevel s ∧ s.sec.pend ≤ topLevel s

/-- Everything outside a list of parts stays, and the forms that every state keeps are kept: memory's canonical form,
and R405's bound on the debug level. -/
structure Touches (m : List Part) (s t : State) : Prop where
  stays : ∀ p, p ∉ m → p.same s t
  memForm : Memory.wf s.mem = true → Memory.wf t.mem = true
  secForm : SecOk s → SecOk t

/-! ## Accesses -/

/-- The management port's access to a register is served at once: the service group is in RUN (R363, R417), no access is
held, a register lies at the address (R422), and its domain serves it (R363). -/
def MgmtServes (s : State) (k : Nat) : Prop :=
  (dom s 52).st = .run ∧ s.held = [] ∧ (rowOf k).isSome = true ∧ targetVerdict s k = .serve

/-- R12: whether a write of a register does no more than write its bits: it starts no operation, is not checked, copied or deferred,
and clears no status that follows a level (R375). -/
def startsNothing (k : Nat) : Bool :=
  let off := keyOff k
  let path := decide (0x1000 ≤ off) && decide (off < 0x3000) && off % 16 == 8
  let meter := fun (g : GwId) => (List.range 4).any (fun j => decide (1 ≤ j) && k == meterKey g j 3)
  if keyDom k < 48 then
    if keyCell k = 2047 then keyBlk k != 2 || off != 12
    else
      match keyBlk k with
      | 0 => !(decide (0x100 ≤ off) && decide (off < 0x1E0) && off % 0x20 == 0) && !(decide (0x410 ≤ off) && decide (off < 0x42C))
      | 1 => off != 4
      | 3 => decide (0x300 < off) && !path && !(List.contains [0x804, 0x820, 0xB000, 0xB004, 0xB014, 0xD200] off)
      | 4 => !(decide (0x1000 ≤ off) && decide (off % 0x80 < 0x70)) && off != 0x20 && off != 0x50
      | _ => true
  else if keyDom k < 52 then
    match gwOfNum (keyCell k), keyBlk k with
    | some _, 0 => off != 4 && off != 0x2C && !path
    | some (.mem _ _), 1 => off != 0
    | some (.opt sd i), 1 => !(List.contains [0, 0x24, 0x28, 0x2C] off) && !meter (.opt sd i)
    | some (.host sd i), 1 =>
      off != 0xF00 && !(decide (0x1000 ≤ off) && decide (off < 0x2000)) && !(decide (0x2000 ≤ off) && off % 0x20 == 8) && !meter (.host sd i)
    | _, _ => true
  else if keyDom k = 52 then
    match keyBlk k with
    | 0 => off != 0 && off != 0x10
    | 1 => !(List.contains [0, 8, 0x50] off)
    | 2 => off != 0x24 && off != 0x34 && !isSev k && (rowOf k).all (fun r => r.w1c == 0)
    | 3 => off != 0
    | _ => off != 4 && !(decide (0x40 ≤ off) && decide (off < 0x60))
  else if keyBlk k = 0 then !(decide (0x100 ≤ off) && off % 0x20 == 0)
  else off % 0x10 != 4

/-- The management port has been answered OK under a tag (R424). -/
def AnsweredOk (t : State) (g : Fin 32) : Prop := (respOf t g.val).status = 0

/-- Registers stay as stored, but for those listed. -/
def RegsBut (ks : List Nat) (s t : State) : Prop := ∀ k, k ∉ ks → rd t k = rd s k

/-! ## Flits -/

/-- R55, R66, R67: the flit that arrives next at an end decodes without error or correction, is the one expected, and
acknowledges nothing new. -/
def InSequence (s : State) (e : EndRef) (flips : BitVec 568) (w : Wire) (d : Decoded) (k : Ctl) : Prop :=
  arriving s e flips = some (w, d) ∧ d.ctl = some k ∧ d.ctlCe = false ∧ d.bchCe = false ∧ d.bchUe = false ∧ d.crcErr = false ∧
    k.seq6 = (link s e).rxExp % 64 ∧ ackPos (link s e) 64 k.ack6 = some 0 ∧ k.nak = false

/-- R66: a link end that has taken a sequenced flit: the flit is off the wires, the next number is expected, and no error
is pending. -/
def Accepted (s t : State) (e : EndRef) : Prop :=
  (link t e).wire = (link s e).wire.tail ∧ (link t e).rxExp = ((link s e).rxExp + 1) % 4096 ∧ (link t e).discard = false ∧
    (link t e).nak = false ∧ (link t e).nakEnd = none ∧ (link t e).st = (link s e).st ∧ (link t e).txSeq = (link s e).txSeq ∧
    (link t e).replay = (link s e).replay

/-- R65: a link end that has sent a new sequenced flit: it took the next number, and a replay entry holds it until it is
acknowledged. -/
def Emitted (s t : State) (e : EndRef) (p : Payload) : Prop :=
  (link t e).txSeq = ((link s e).txSeq + 1) % 4096 ∧
    (∃ r, (link t e).replay = (link s e).replay ++ [r] ∧ r.seq = (link s e).txSeq ∧ r.payload = p) ∧
    (link t e).rxExp = (link s e).rxExp

/-! ## Completions -/

/-- Where the next entry of a completion ring lies (R236). -/
def entryAddr (s : State) (u : UnitRef) (r : Nat) : Nat :=
  memAddr (unitSpace u)
    (ringBase s u (cqReg u r 0) (cqReg u r 1) + 16 * ((cqOf s u r).cpi.toNat % 2 ^ rdF s (cqReg u r 2) 0 5))

/-- R236: an entry has been written to a completion ring at CPI, with the PHASE of its pass over the ring; CPI has
advanced by one. -/
def Entered (s t : State) (u : UnitRef) (r : Nat) (e : BitVec 128) : Prop :=
  (cqOf t u r).cpi = (cqOf s u r).cpi + 1 ∧ (cqOf t u r).cci = (cqOf s u r).cci ∧
    (∀ i, i < 16 → memGet t.mem (entryAddr s u r + i) =
      BitVec.ofNat 8 ((put e 127 1 (1 - (cqOf s u r).cpi.toNat / 2 ^ rdF s (cqReg u r 2) 0 5 % 2)).toNat / 256 ^ i))

/-- R236: an entry has been written to a completion ring, and no other byte of memory differs. -/
def Posted (s t : State) (u : UnitRef) (r : Nat) (e : BitVec 128) : Prop :=
  Entered s t u r e ∧ (∀ a, a < entryAddr s u r ∨ entryAddr s u r + 16 ≤ a → memGet t.mem a = memGet s.mem a)

/-- The only descriptor of a cell's NI has sent its only request, which waits for its answer; its completion ring runs, and
the cell runs no collective, nor has its combine unit a deficit left of one (R200). -/
structure LoneRequest (s : State) (c : Cell) (tag id : Nat) (e : OutEnt) (x : Ctx) : Prop where
  entry : (punit s (.ni c)).out = [(tag, e)]
  live : e.quar = false
  ofCtx : e.ctx = some id
  noStream : e.stream = none
  noWelt : e.welt = none
  ctxs : (punit s (.ni c)).ctxs = [(id, x)]
  active : x.st = .active
  sent : x.todo = []
  one : x.out = 1
  good : x.err = none
  noColl : dOp x.desc ≠ 3
  still : inFlight s (.ni c) id = false
  noRelease : ∀ y, y ∈ (punit s (.ni c)).streams → y.2.relPend ≠ some id
  ring : (cqOf s (.ni c) x.cq).st = .running
  noCmb : (cmb s c).ents = []
  noDeficit : (cmb s c).drr.gdef = []

/-! ## Packets -/

/-- The packet that a command on packets of a kind takes at a unit: the unit is clocked and has room for a response, and the
packet is its oldest of the kind. -/
def Taken (s : State) (u : UnitRef) (cmd : Nat) (p : RxPkt) : Prop :=
  respRoom s u = true ∧ clocked s u.dom = true ∧ ∃ s1, takeCmd s u cmd = some (p, s1)

/-- A unit has built one response, with the tag of a request and a command. -/
def Responded (s t : State) (u : UnitRef) (h : Payload) (cmd : Nat) (z : TxPkt) : Prop :=
  (punit t u).resp = (punit s u).resp ++ [z] ∧ hCmd z.hdr = cmd ∧ hTag z.hdr = hTag h ∧ hDest z.hdr / 2 ^ 40 = replyAddr s h 0 / 2 ^ 40

/-- Bytes lie in memory from an address, and no other byte differs. -/
def Placed (s t : State) (a : Nat) (l : List Byte) : Prop :=
  (∀ i, i < l.length → memGet t.mem (a + i) = l.getD i 0) ∧ (∀ b, b < a ∨ a + l.length ≤ b → memGet t.mem b = memGet s.mem b)

/-- R79: the bytes that a WRITE or SIGNAL of plain form places. -/
def carried (p : RxPkt) : List Byte := hInlBytes p.hdr ++ dataBytes p.hdr p.data

/-- R255: the completion ring of a cell to which the notices of a packet's queue go. -/
def noticeRing (s : State) (c : Cell) (h : Payload) : Nat := rdF s (cellReg c 3 0x304) (2 * hSq h) 2

/-- R95, R255, R258: a WRITE or SIGNAL of plain form has landed in a cell. Its bytes lie in the SRAM. A SIGNAL's notice is the next
entry of its ring, where that runs and has one free, over whatever bytes were placed there; else it is counted as dropped. Nothing
else of memory differs, nor any register but those listed. -/
def Landed (s t : State) (c : Cell) (p : RxPkt) (ks : List Nat) : Prop :=
  (hCmd p.hdr = 0 → Placed s t (memAddr c.key (hOff p.hdr)) (carried p) ∧ RegsBut ks s t) ∧
  (hCmd p.hdr = 4 →
    if (cqOf s (.ni c) (noticeRing s c p.hdr)).st = .running ∧ 0 < cqFree s (.ni c) (noticeRing s c p.hdr) then
      Entered s t (.ni c) (noticeRing s c p.hdr) (noticeEntry p.hdr) ∧
      (∀ a, a < entryAddr s (.ni c) (noticeRing s c p.hdr) ∨ entryAddr s (.ni c) (noticeRing s c p.hdr) + 16 ≤ a →
        memGet t.mem a = (if memAddr c.key (hOff p.hdr) ≤ a ∧ a < memAddr c.key (hOff p.hdr) + (carried p).length
          then (carried p).getD (a - memAddr c.key (hOff p.hdr)) 0 else memGet s.mem a)) ∧ RegsBut ks s t
    else
      Placed s t (memAddr c.key (hOff p.hdr)) (carried p) ∧ bit (rd t (cqReg (.ni c) (noticeRing s c p.hdr) 5)) 7 = true ∧
      rdF t (cqReg (.ni c) (noticeRing s c p.hdr) 5) 24 8 = satAdd 255 (rdF s (cqReg (.ni c) (noticeRing s c p.hdr) 5) 24 8) 1 ∧
      RegsBut (cqReg (.ni c) (noticeRing s c p.hdr) 5 :: ks) s t)

/-- R159: the registers in which an NI records the ages of arriving packets. -/
def ageRegs (c : Cell) : List Nat :=
  [cellReg c 3 0xB018, cellReg c 3 0xB01C, cellReg c 3 0xB020, cellReg c 3 0xB024, cellReg c 3 0xB028, cellReg c 3 0xB02C]

/-! ## Descriptors -/

/-- A descriptor of a ring with an opcode that its command starts: its unit is clocked, its WAIT flag lets it start (R240), and
it passes the checks of R246. -/
structure Startable (s : State) (u : UnitRef) (r op id : Nat) (x : Ctx) : Prop where
  clock : clocked s u.dom = true
  oldest : startable s u r op = some (id, x)
  held : ctxOf s u id = some x
  passes : descCheck s u x.desc = none

/-- The only descriptor of a unit, which has sent nothing, and whose completion ring and link carry its entry at once. -/
structure LoneCtx (s : State) (u : UnitRef) (id : Nat) (x : Ctx) : Prop where
  clock : clocked s u.dom = true
  ctxs : (punit s u).ctxs = [(id, x)]
  unsent : x.todo = []
  answered : x.out = 0
  good : x.err = none
  reports : dNocomp x.desc = false
  still : inFlight s u id = false
  noRelease : ∀ y, y ∈ (punit s u).streams → y.2.relPend ≠ some id
  ring : (cqOf s u x.cq).st = .running
  carried : ∀ g, u = .gw g → hostReady s g = true

/-- A descriptor of a unit has been completed: its entry has been written (R236, R258), and its context is free. -/
def Completed (s t : State) (u : UnitRef) (x : Ctx) : Prop :=
  Posted s t u x.cq (cplEntry x) ∧ (punit t u).ctxs = []

/-- An end of an NI or of a gateway that is UP and may send (R65, R75, R121, R145), has a credit of the RSP VC, and whose unit has no
descriptor, ingress packet or arrival to go on with. -/
structure QuietSender (s : State) (e : EndRef) : Prop where
  kind : (∃ g j, e = .gw g j) ∨ ∃ c, e = .ni c ∧ rxEnd s e = RxEnd.init ∧ (cmb s c).ents = []
  clock : clocked s e.dom = true
  up : effSt s e = some .up
  free : holdsBack s e = false ∧ slotOwner s e = none ∧ (link s e).resend = 0 ∧ (link s e).replay.length < 32
  credit : (link s e).credits.length = 8 ∧ 0 < lget (link s e).credits 0 0
  quiet : (punit s (endUnit e)).ctxs = [] ∧ (txEnd s e).queue = []

/-! ## Collectives -/

/-- A RUNNING entry that no NEXT_LVL chain joins to another, the only entry of its unit that holds anything. -/
structure LoneRun (s : State) (c : Cell) (e : Nat) (r : CRun) : Prop where
  clock : clocked s c.field = true
  only : ∃ x, (cmb s c).ents = [(e, x)]
  running : crun s c e = some r
  top : cNext s c e = false
  bottom : lowerOf s c e = none

/-- R197: the ABORT packets of an entry with a cause, to its parent and its children but for one neighbour. -/
def abortsOf (s : State) (c : Cell) (e : Nat) (r : CRun) (z : CCause) (skip : Option Nat) : List TxPkt :=
  let pkt := fun (up : Bool) (a : Nat) =>
    chunkPkt (chunkInl s c e (if up then 0 else 1) 0 2 (if up then cPidx s c e else 0) (sigOf s c e r.desc r.ph) r.seq z.cause
      (z.x + 256 * z.y + 65536 * z.lvl)) a [] 0
  let send := fun (up : Bool) (a : Nat) => if skip = some (destCell s c.field a) then [] else [pkt up a]
  (if cRoot s c e then [] else send true (parentAddr s c e)) ++ (List.range (cNch s c e)).flatMap (fun k => send false (childAddr s c e k))

/-- R197: the instance of an entry has been aborted: the entry is idle with LAST_SEQ = SEQ and records the cause and its origin,
ABORTs have followed what its unit had to send, and its member's COLL, if it is its cell's only descriptor, has completed with
the cause (R199, R259). -/
def Aborted (s t : State) (c : Cell) (e : Nat) (r : CRun) (z : CCause) (skip : Option Nat) : Prop :=
  crun t c e = none ∧ rd t (cwKey c e 27) = BitVec.ofNat 32 r.seq ∧ (cent t c e).last = z ∧
    (∃ l, (∀ y, y ∈ l → y ∈ (txEnd s (.cmb c)).queue) ∧ (txEnd t (.cmb c)).queue = l ++ abortsOf s c e r z skip) ∧
    (∀ id x, r.ctx = some id → LoneCtx s (.ni c) id x →
      Entered s t (.ni c) x.cq (cplEntry { x with
        err := some (if z.cause = 0x40 then (0xA, 0x40) else (9, z.cause)), result := collResult r }) ∧
      (punit t (.ni c)).ctxs = [])

/-- A combine unit takes this chunk next: its cell is clocked, it is the oldest to have arrived, well formed, and not the unit's
own multicast. -/
def NextChunk (s : State) (c : Cell) (p : RxPkt) (rest : List RxPkt) : Prop :=
  clocked s c.field = true ∧ (cmb s c).inbox = p :: rest ∧ hCmd p.hdr = 8 ∧ malformed p.hdr false = false ∧ ownMcast s c p.hdr = false

/-- R195: the chunk that a combine unit takes next names an entry and belongs to its running instance. -/
structure Current (s : State) (c : Cell) (e : Nat) (r : CRun) (p : RxPkt) (rest : List RxPkt) : Prop where
  next : NextChunk s c p rest
  names : entryAt s c (hInl p.hdr 0 8) (hInl p.hdr 8 2) = some e
  lone : LoneRun s c e r
  seq : hInl p.hdr 56 32 = r.seq
  bound : r.seq < 2 ^ 32

end Sys2Proof.Machine
end

