-- ==== Sys2Proof/Certificates/Slice0/Obligations.lean ====
section
/-! DEFINITION. The statements about the block, for the provers. A statement whose parts are `Sys2Proof.Claim` definitions says
all of them. -/

open Sys2Proof
open Sys2Proof.Machine

/-! ## The queue, time and the forms that every step keeps -/

/-- A step takes the command at the front of the queue and runs it on the state with the queue's rest. -/
def Obligations.StepRunsFrontCommand : Prop :=
  ∀ (c : Instr) (r : List Instr) (s : State), s.pending = c :: r → step s = exec c { s with pending := r }

/-- With no command waiting, a step lets 20 ns pass (the model's choice, log entry 4): ACLK gains two cycles, and nothing
but clocks, time, the wake timer and the count of captures that found their queue full (R332) moves. -/
def Obligations.IdleStepPassesTime : Prop :=
  ∀ s : State, s.pending = [] → ∃ t, step s = .next t ∧ t.aclk = s.aclk + 2 ∧
    Touches [.regs, .doms, .clks, .mer, .aclk] s t ∧ RegsBut [aonReg 0 4, merReg 4] s t

/-- Reset leaves every register at its reset value (R11), every domain in RESET, the debug level LOCKED, no command waiting,
and memory and the debug level in the forms that every step keeps. -/
def Obligations.ResetForm : Prop :=
  (∀ k, rd State.reset k = resetOf k) ∧ (∀ d, (dom State.reset d).st = .reset) ∧ State.reset.sec.level = 0 ∧
    State.reset.pending = [] ∧ Memory.wf State.reset.mem = true ∧ SecOk State.reset

/-- Memory keeps its canonical form through every step, whatever the command. -/
def Obligations.StepKeepsMemoryForm : Prop :=
  ∀ s t : State, Memory.wf s.mem = true → step s = .next t → Memory.wf t.mem = true

/-- The debug level, and the level a challenge asks for, stay within the highest level of the lifecycle state through
every step (R405, R407). -/
def Obligations.StepKeepsDebugBound : Prop :=
  ∀ s t : State, SecOk s → step s = .next t → SecOk t

/-- No command but VERIFY_DONE raises the debug level (R409). -/
def Obligations.OnlyVerifyDoneRaisesLevel : Prop :=
  ∀ (c : Instr) (s t : State), c ≠ .verifyDone → exec c s = .next t → t.sec.level ≤ s.sec.level

/-- No command changes the fuses, which are surroundings (R2), nor the queue, which is the step's (log entry 1, DESIGN CHOICE),
nor ACLK: a command takes no time, and time passes only when no command waits (log entry 4, DESIGN CHOICE). The last two are the
model's choices, and no rule gives them. -/
def Obligations.CommandsLeaveQueueFusesAndTime : Prop :=
  ∀ (c : Instr) (s t : State), exec c s = .next t → t.pending = s.pending ∧ t.fuses = s.fuses ∧ t.aclk = s.aclk

/-- Commands that are no WRITE and reach no memory leave every byte of memory: all that the protocol of a link, time, faults
and telemetry do happens outside memory. (An NI's own welt flit may end a descriptor, whose entry lies in memory, R242.) -/
def Obligations.LinkAndServiceCommandsLeaveMemory : Prop :=
  ∀ (s t : State) (c : Instr), exec c s = .next t →
    (match c with
     | .flitReceive _ _ => True
     | .nakTimeout _ => True
     | .ackTimeout _ => True
     | .headerAllocate _ _ _ => True
     | .portPeerDown _ _ => True
     | .trainFlitReceive _ _ => True
     | .weltFlitReceive _ _ => True
     | .weltFlitSend (.ni _) => False
     | .weltFlitSend _ => True
     | .weltSwap _ => True
     | .portDisableApply _ _ => True
     | .shaperRefill _ => True
     | .meterUpdate _ => True
     | .codewordReceive _ _ => True
     | .laneTestStart _ _ => True
     | .laneFault _ _ _ _ => True
     | .opticalIngress _ => True
     | .holdoverExpire => True
     | .mclkLost => True
     | .timestampCapture _ _ => True
     | .timePulse => True
     | .errorPinRise _ _ _ => True
     | .reportAccept _ => True
     | .logWrite => True
     | .snapshotCopy _ => True
     | .challengeReady => True
     | .quiesceEnd _ => True
     | .wakePacket _ => True
     | _ => False) →
    ∀ a, memGet t.mem a = memGet s.mem a

/-- Every command answers a next state, but BAR_ACCESS beyond the 64 KB of BAR0, which stops: there is no such address
(R279). -/
def Obligations.OnlyAccessesBeyondBar0Stop : Prop :=
  ∀ (c : Instr) (s : State), (∃ t, exec c s = .next t) ∨
    (∃ h off wr full atomic v, c = .barAccess h false off wr full atomic v ∧ 65536 ≤ off.toNat ∧ exec c s = .fault .outsideBar)

/-! ## Registers (R12, R26, R37, R70, R113, R118, R158, R162) -/

/-- R12, at every register of the wafer whose write starts no operation and is not checked, copied or deferred: a write by the
management port sets the RW bits to the value written, clears the W1C bits written 1, ignores it in the others, and leaves every other
register. -/
def Obligations.RegisterWriteBits : Prop :=
  ∀ (g : Fin 32) (a : CfgAddr) (v : Word) (s : State) (row : RegRow),
    rowOf a.key = some row → absentPort a.key = false → startsNothing a.key = true → MgmtServes s a.key →
    ∃ t, exec (.registerWrite (.mgmt g) a v) s = .next t ∧ AnsweredOk t g ∧
      (∀ i, i < 32 → bit (rd t a.key) i =
        if row.rw.testBit i then bit v i else bit (rd s a.key) i && !(row.w1c.testBit i && bit v i)) ∧
      RegsBut [a.key] s t ∧ Touches [.regs, .flt, .resp] s t

/-- R12: a read of a cell's register by the management port answers its present value, and then clears its RC bits and no
others. R383: a read of a word of NI_LAST_TABLE goes through SECDED: a word with one bit disturbed reads right, is counted in
CE_CNT and sets CE; one with two frees its entry, which is read after, and sets UE. -/
def Obligations.RcFieldReadBits : Prop :=
  ∀ g : Fin 32,
  ∀ (a : CfgAddr) (s : State) (row : RegRow),
    a.domain.val < 48 → rowOf a.key = some row → absentPort a.key = false → MgmtServes s a.key →
    ((∀ c i j, j < 8 → a.key = cellReg c 3 (0x5000 + 0x20 * i + 4 * j) → (lastOf s c i).bad = 0) →
      ∃ t, exec (.rcFieldRead (.mgmt g) a) s = .next t ∧ respOf t g.val = ⟨0, 0, regValue s a.key⟩ ∧
        (∀ i, i < 32 → bit (rd t a.key) i = (bit (rd s a.key) i && !row.rc.testBit i)) ∧
        RegsBut [a.key] s t ∧ Touches [.regs, .resp] s t) ∧
    (∀ c i j, i < 512 → j < 8 → a.key = cellReg c 3 (0x5000 + 0x20 * i + 4 * j) →
      ((lastOf s c i).bad = 1 →
        ∃ t, exec (.rcFieldRead (.mgmt g) a) s = .next t ∧ respOf t g.val = ⟨0, 0, regValue s a.key⟩ ∧
          rdF t (cellReg c 3 0xE000) 0 16 = satAdd 65535 (rdF s (cellReg c 3 0xE000) 0 16) 1 ∧
          bit (rd t (cellReg c 3 0xE000)) 24 = true ∧ RegsBut [cellReg c 3 0xE000] s t ∧ Touches [.regs, .resp] s t) ∧
      (2 ≤ (lastOf s c i).bad →
        ∃ t, exec (.rcFieldRead (.mgmt g) a) s = .next t ∧ respOf t g.val = ⟨0, 0, regValue t a.key⟩ ∧
          lastOf t c i = { lastOf s c i with valid := false, held := none, bad := 0 } ∧
          rdF t (cellReg c 3 0xE000) 16 8 = satAdd 255 (rdF s (cellReg c 3 0xE000) 16 8) 1 ∧
          bit (rd t (cellReg c 3 0xE000)) 25 = true ∧
          rdF t (cellReg c 3 0x81C) 24 8 = satAdd 255 (rdF s (cellReg c 3 0x81C) 24 8) (b2n (lastOf s c i).valid) ∧
          RegsBut [cellReg c 3 0xE000, cellReg c 3 0x81C] s t ∧ Touches [.regs, .units, .resp] s t))

/-- R26: after a write of CELL_REMAP_LOOKUP_IN, CELL_REMAP_LOOKUP_OUT reads the (IX + 1)-th unfenced column and the
(IY + 1)-th unfenced row, or RANGE_ERR alone where there is no such cell. -/
def Sys2Proof.Claim.RemapLookupReadsUnfenced : Prop :=
  ∀ g : Fin 32,
  ∀ (f : Fin 48) (v : Word) (s : State),
    (dom s 52).st = .run → s.held = [] → s.boot.fused = true →
    ∃ t, exec (.remapLookup (.mgmt g) f v) s = .next t ∧ AnsweredOk t g ∧
      regValue t (fieldReg f.val 0 0x14) =
        (match unfenced (colMask s f.val) 42 (bits v 0 6), unfenced (rowMask s f.val) 32 (bits v 8 5) with
         | some c, some r => if bits v 0 6 ≤ 39 ∧ bits v 8 5 ≤ 29 then BitVec.ofNat 32 (c + 256 * r) else 0x80000000
         | _, _ => 0x80000000) ∧
      RegsBut [fieldReg f.val 0 0x10] s t ∧ Touches [.regs, .resp] s t

/-- R37: CFG_WAFER_ID.WAFER takes the value written while no optical link is up, and every domain in RUN takes its copy
(R428); with a link up, or with the value LOCAL, it stays and WR_ERR is set. -/
def Sys2Proof.Claim.WaferIdWrite : Prop :=
  ∀ g : Fin 32,
  ∀ (v : Word) (s : State), (dom s 52).st = .run → s.held = [] → bit v 30 = false →
    (bits v 0 20 ≠ waferLocal → (∀ n, n < 64 → optUpNow s (optOf n) = false) →
      ∃ t, exec (.waferIdWrite (.mgmt g) v) s = .next t ∧ AnsweredOk t g ∧
        rdF t (svcReg 0 0) 0 20 = bits v 0 20 ∧ bit (rd t (svcReg 0 0)) 30 = bit (rd s (svcReg 0 0)) 30 ∧
        (∀ d, d < 52 → (dom s d).st = .run → waferOf t d = bits v 0 20) ∧
        RegsBut [svcReg 0 0] s t ∧ Touches [.regs, .doms, .mirror, .resp] s t) ∧
    (bits v 0 20 = waferLocal ∨ (∃ n, n < 64 ∧ optUpNow s (optOf n) = true) →
      ∃ t, exec (.waferIdWrite (.mgmt g) v) s = .next t ∧ AnsweredOk t g ∧
        rdF t (svcReg 0 0) 0 20 = rdF s (svcReg 0 0) 0 20 ∧ bit (rd t (svcReg 0 0)) 30 = true ∧
        RegsBut [svcReg 0 0] s t ∧ Touches [.regs, .resp] s t)

/-- R118: CELL_EPOCH takes the epoch written. R113: CELL_PORT_ENA sets a bit written 1 at once, and clears a bit written 0
at once where no packet of another epoch resides, else marks its clear as pending. R70: RETRAIN of a port that is not DOWN
starts training. That the bit of port 6 is kept on a cell without a G port, too, is the model's reading (log entry 125). -/
def Sys2Proof.Claim.CellSettingsWrite : Prop :=
  ∀ g : Fin 32,
  (∀ (c : Cell) (v : Word) (s : State), MgmtServes s (cellReg c 1 0) →
    ∃ t, exec (.cellEpochWrite (.mgmt g) c v) s = .next t ∧ AnsweredOk t g ∧ rdF t (cellReg c 1 0) 0 2 = bits v 0 2 ∧
      RegsBut [cellReg c 1 0] s t ∧ Touches [.regs, .resp] s t) ∧
  (∀ (c : Cell) (v : Word) (s : State), MgmtServes s (cellReg c 1 4) →
    ∃ t, exec (.portEnableWrite (.mgmt g) c v) s = .next t ∧ AnsweredOk t g ∧
      (∀ p, p < 7 →
        (router t c).ena.testBit p = (bit v p || ((router s c).ena.testBit p && drainOld s c p != 0)) ∧
        (router t c).clr.testBit p = (!bit v p && (router s c).ena.testBit p && drainOld s c p != 0)) ∧
      (router t c).ports = (router s c).ports ∧ (∀ c', c'.key ≠ c.key → router t c' = router s c') ∧
      RegsBut [cellReg c 1 4] s t ∧ Touches [.regs, .routers, .resp] s t) ∧
  (∀ (c : Cell) (port : Fin 7) (st : PortSt) (s : State), MgmtServes s (portReg c port.val 0) →
    effSt s (.router c port) = some st → st ≠ .down →
    ∃ t, exec (.portRetrain (.mgmt g) c port) s = .next t ∧ AnsweredOk t g ∧
      (link t (.router c port)).st = .train ∧ (link t (.router c port)).good = 0 ∧ (link t (.router c port)).ready = false ∧
      (∀ e, e.key ≠ (EndRef.router c port).key → link t e = link s e) ∧
      RegsBut [portReg c port.val 0] s t ∧ Touches [.regs, .links, .resp] s t)

/-- R158, R161, R162: the marks of an input start again from the flits it holds now; NI_HWM_CLR does so for the NI's marks
and clears each of the four highest ages whose bit is written 1. That a mark starts again from what is there at the clear is the model's
reading (log entry 118). -/
def Sys2Proof.Claim.HighWaterMarksStartAgain : Prop :=
  ∀ g : Fin 32,
  (∀ (c : Cell) (port : Fin 7) (s : State), MgmtServes s (cellReg c 0 (0x410 + 4 * port.val)) →
    ∃ t, exec (.cellHwmClear (.mgmt g) c port) s = .next t ∧ AnsweredOk t g ∧
      (∀ k, k < 4 → rdF t (cellReg c 0 (0x410 + 4 * port.val)) (5 * k) 5 =
        (((vcIn s c port.val (2 * k)).q.filter (fun f => f.credit)).length +
          ((vcIn s c port.val (2 * k + 1)).q.filter (fun f => f.credit)).length) % 32) ∧
      RegsBut [cellReg c 0 (0x410 + 4 * port.val)] s t ∧ Touches [.regs, .resp] s t) ∧
  (∀ (c : Cell) (v : Word) (s : State), MgmtServes s (cellReg c 3 0xB014) →
    ∃ t, exec (.niHwmClr (.mgmt g) c v) s = .next t ∧ AnsweredOk t g ∧
      (bit v 0 = true → rdF t (cellReg c 3 0xB010) 0 10 = lastOpen s c % 1024 ∧
        rdF t (cellReg c 3 0xB010) 10 10 = lastHeld s c % 1024 ∧ rdF t (cellReg c 3 0xB010) 20 11 = outCount s (.ni c) % 2048) ∧
      (bit v 0 = false → rd t (cellReg c 3 0xB010) = rd s (cellReg c 3 0xB010)) ∧
      (∀ k, k < 4 → rd t (cellReg c 3 (0xB020 + 4 * k)) = if bit v (1 + k) then 0 else rd s (cellReg c 3 (0xB020 + 4 * k))) ∧
      RegsBut [cellReg c 3 0xB010, cellReg c 3 0xB020, cellReg c 3 0xB024, cellReg c 3 0xB028, cellReg c 3 0xB02C] s t ∧
      Touches [.regs, .resp] s t)

/-! ## Routes, epochs, rings and mailboxes (R91, R104, R111, R132, R234, R237, R261, R262, R267) -/

/-- R91: a path written with VALID = 1 is checked. A legal one keeps VALID, with CTL_OK and BULK_OK as the check found
them; an illegal one is stored with VALID = 0, and LOAD_ERR is set. -/
def Sys2Proof.Claim.RoutePathChecked : Prop :=
  ∀ g : Fin 32,
  ∀ (u : UnitRef) (entry : Fin 64) (k : Fin 8) (w2 : Word) (s : State) (row : RegRow) (a err : Nat),
    a = unitReg u (0x1008 + 0x80 * entry.val + 0x10 * k.val) 0 (0x1008 + 0x80 * entry.val + 0x10 * k.val) →
    err = unitReg u 0x808 0 8 → rowOf a = some row → MgmtServes s a →
    ∃ t, exec (.routePathWrite (.mgmt g) u entry k w2) s = .next t ∧ AnsweredOk t g ∧
      (∀ x, pathCheck (rd s (a - 8)) (rd s (a - 4)) (put (plainWrite row (rd s a) (w2 ||| goBit)) 28 2 0) = x →
        bit (rd t a) 31 = x.1 ∧ bit (rd t a) 28 = (x.1 && x.2.1) ∧ bit (rd t a) 29 = (x.1 && x.2.2) ∧
        bit (rd t err) 0 = (bit (rd s err) 0 || !x.1)) ∧
      RegsBut [a, err] s t ∧ Touches [.regs, .resp] s t

/-- R111: EPOCH.SWITCH with nothing outstanding from an earlier epoch advances the epoch and clears the spray state; with
something outstanding it leaves the epoch, and SW_ERR is set. -/
def Sys2Proof.Claim.EpochSwitches : Prop :=
  ∀ g : Fin 32,
  ∀ (u : UnitRef) (s : State), MgmtServes s (unitReg u 0x804 0 4) →
    ∃ t, exec (.epochSwitch (.mgmt g) u) s = .next t ∧ AnsweredOk t g ∧
      (oldOut s u = 0 → (punit t u).epoch = ((punit s u).epoch + 1) % 4 ∧ (punit t u).spray = [] ∧
        (punit t u).out = (punit s u).out ∧
        (FMap.rising s.regs = true → ∀ off, off < 65536 → swapOff u off ≠ off →
          t.regs.find (unitReg u 0 0 0 + swapOff u off) = s.regs.find (unitReg u 0 0 0 + off))) ∧
      (oldOut s u ≠ 0 → punit t u = punit s u ∧ bit (rd t (unitReg u 0x804 0 4)) 8 = true) ∧
      (∀ v, v.key ≠ u.key → punit t v = punit s v) ∧ Touches [.regs, .units, .resp] s t

/-- R104: NI_LAST_FLUSH.GO frees the valid Last entries that the filter names, and no others; R383: but one whose word it finds
with two bits disturbed is freed too. -/
def Sys2Proof.Claim.LastFlushFrees : Prop :=
  ∀ g : Fin 32,
  ∀ (c : Cell) (v : Word) (s : State), MgmtServes s (cellReg c 3 0x820) → FMap.rising (punit s (.ni c)).last = true →
    ∃ t, exec (.lastFlush (.mgmt g) c v) s = .next t ∧ AnsweredOk t g ∧
      (∀ i, (lastOf t c i).valid = ((lastOf s c i).valid && !decide (2 ≤ (lastOf s c i).bad) &&
        !((!bit v 16 || ((lastOf s c i).x == bits v 0 8 && (lastOf s c i).y == bits v 8 8)) &&
          (!bit v 17 || (lastOf s c i).wafer == rdF s (cellReg c 3 0x824) 0 20)))) ∧
      (punit t (.ni c)).out = (punit s (.ni c)).out ∧ (∀ u, u.key ≠ (UnitRef.ni c).key → punit t u = punit s u) ∧
      RegsBut [cellReg c 3 0x820, cellReg c 3 0x81C, cellReg c 3 0xE000] s t ∧ Touches [.regs, .units, .resp] s t

/-- R132, R140: WARM_ARM makes the swap of a field or an optical gateway wait for the armed time; WARM_CANCEL drops it.
(An ARM written with CANCEL is dropped at once: the model's choice, log entry 38.) -/
def Obligations.WarmArmAndCancel : Prop :=
  ∀ g : Fin 32,
  ∀ (w : WeltDom) (v : Word) (s : State), MgmtServes s (warmBase w + 12) →
    (bit v 1 = false → ∃ t, exec (.warmArm (.mgmt g) w v) s = .next t ∧ AnsweredOk t g ∧
      t.warm.find (warmBase w + 12) = some (warmTime s w, (dom s (warmDom w)).ticks) ∧ bit (rd t (warmBase w + 12)) 8 = true ∧
      (∀ k, k ≠ warmBase w + 12 → t.warm.find k = s.warm.find k) ∧
      RegsBut [warmBase w + 12] s t ∧ Touches [.regs, .gws, .warm, .resp] s t) ∧
    (∃ t, exec (.warmCancel (.mgmt g) w v) s = .next t ∧ AnsweredOk t g ∧
      t.warm.find (warmBase w + 12) = none ∧ bit (rd t (warmBase w + 12)) 8 = false ∧
      (∀ k, k ≠ warmBase w + 12 → t.warm.find k = s.warm.find k) ∧
      RegsBut [warmBase w + 12] s t ∧ Touches [.regs, .gws, .warm, .resp] s t)

/-- R234: a submission doorbell of a RUNNING ring moves PI to a value between PI and CI + 2^n; any other value, and any of a
ring that is not RUNNING, is ignored and sets DB_ERR. -/
def Obligations.SubmissionDoorbell : Prop :=
  ∀ g : Fin 32,
  ∀ (u : UnitRef) (r : Fin 64) (d : Word) (s : State), r.val < sqCount u → MgmtServes s (sqReg u r.val 3) →
    ∃ t, exec (.sqDoorbell (.mgmt g) u r d) s = .next t ∧ AnsweredOk t g ∧
      (if (sqOf s u r.val).st = .running ∧ (((sqOf s u r.val).pi - (sqOf s u r.val).ci).toNat ≤ (d - (sqOf s u r.val).ci).toNat) ∧
          (d - (sqOf s u r.val).ci).toNat ≤ 2 ^ rdF s (sqReg u r.val 2) 0 5 then
        sqOf t u r.val = { sqOf s u r.val with pi := d } ∧ RegsBut [] s t
      else punit t u = punit s u ∧ bit (rd t (sqReg u r.val 5)) 4 = true ∧ RegsBut [sqReg u r.val 5] s t) ∧
      (∀ q, q ≠ r.val → sqOf t u q = sqOf s u q) ∧ (punit t u).cq = (punit s u).cq ∧
      (∀ v, v.key ≠ u.key → punit t v = punit s v) ∧ Touches [.regs, .units, .resp] s t

/-- R237: a completion doorbell moves CCI to a value between CCI and CPI; any other value is ignored and sets DB_ERR. -/
def Obligations.CompletionDoorbell : Prop :=
  ∀ g : Fin 32,
  ∀ (u : UnitRef) (r : Fin 64) (d : Word) (s : State), r.val < cqCount u → MgmtServes s (cqReg u r.val 3) →
    ∃ t, exec (.cqDoorbell (.mgmt g) u r d) s = .next t ∧ AnsweredOk t g ∧
      (if (d - (cqOf s u r.val).cci).toNat ≤ ((cqOf s u r.val).cpi - (cqOf s u r.val).cci).toNat then
        cqOf t u r.val = { cqOf s u r.val with cci := d } ∧ RegsBut [] s t
      else punit t u = punit s u ∧ bit (rd t (cqReg u r.val 5)) 4 = true ∧ RegsBut [cqReg u r.val 5] s t) ∧
      (∀ q, q ≠ r.val → cqOf t u q = cqOf s u q) ∧ (punit t u).sq = (punit s u).sq ∧
      (∀ v, v.key ≠ u.key → punit t v = punit s v) ∧ Touches [.regs, .units, .resp] s t

/-- R261: a STOPPED ring that is enabled with a legal configuration becomes RUNNING with its indices at 0; one whose
configuration is not legal stays STOPPED, and CFG_ERR is set. -/
def Sys2Proof.Claim.RingEnableStarts : Prop :=
  ∀ g : Fin 32,
  (∀ (u : UnitRef) (r : Fin 64) (v : Word) (s : State), r.val < sqCount u → MgmtServes s (sqReg u r.val 2) →
    (sqOf s u r.val).st = .stopped →
    ∃ t, exec (.ringEnable (.mgmt g) u false r v) s = .next t ∧ AnsweredOk t g ∧
      rdF t (sqReg u r.val 2) 0 5 = bits v 0 5 ∧ rdF t (sqReg u r.val 2) 8 6 = bits v 8 6 ∧
      (if sqEnableOk (wrMask s (sqReg u r.val 2) 0x3F1F (v ||| 0x10000)) u r.val then
        sqOf t u r.val = ⟨.running, 0, 0⟩ ∧ bit (rd t (sqReg u r.val 2)) 16 = true
      else sqOf t u r.val = sqOf s u r.val ∧ bit (rd t (sqReg u r.val 5)) 5 = true) ∧
      (∀ q, q ≠ r.val → sqOf t u q = sqOf s u q) ∧ (punit t u).cq = (punit s u).cq ∧
      RegsBut [sqReg u r.val 2, sqReg u r.val 5] s t ∧ Touches [.regs, .units, .resp] s t) ∧
  (∀ (u : UnitRef) (r : Fin 64) (v : Word) (s : State), r.val < cqCount u → MgmtServes s (cqReg u r.val 2) →
    (cqOf s u r.val).st = .stopped →
    ∃ t, exec (.ringEnable (.mgmt g) u true r v) s = .next t ∧ AnsweredOk t g ∧ rdF t (cqReg u r.val 2) 0 5 = bits v 0 5 ∧
      (if cqEnableOk (wrMask s (cqReg u r.val 2) 0x1F (v ||| 0x10000)) u r.val then
        cqOf t u r.val = ⟨.running, 0, 0⟩ ∧ bit (rd t (cqReg u r.val 2)) 16 = true
      else cqOf t u r.val = cqOf s u r.val ∧ bit (rd t (cqReg u r.val 5)) 5 = true) ∧
      (∀ q, q ≠ r.val → cqOf t u q = cqOf s u q) ∧ (punit t u).sq = (punit s u).sq ∧
      RegsBut [cqReg u r.val 2, cqReg u r.val 5] s t ∧ Touches [.regs, .units, .resp] s t)

/-- R262: a submission ring that software disables fetches no more: it is STOPPING while one of its descriptors is in
execution or a completion of one waits to be written, else STOPPED; its counts stay. R261, R262: a completion ring does so while it holds reservations, and refuses
ENABLE = 0, with CFG_ERR, while an enabled submission ring names it. That ENABLE = 0 acts also where the write would change LOG2 or CQ,
which R261 refuses, is the model's reading (log entry 119). -/
def Sys2Proof.Claim.RingDisableStops : Prop :=
  ∀ g : Fin 32,
  (∀ (u : UnitRef) (r : Fin 64) (v : Word) (s : State), r.val < sqCount u → MgmtServes s (sqReg u r.val 2) →
    (sqOf s u r.val).st ≠ .stopped →
    ∃ t, exec (.ringDisable (.mgmt g) u false r v) s = .next t ∧ AnsweredOk t g ∧
      sqOf t u r.val = { sqOf s u r.val with st := if sqInexec s u r.val + sqOwing s u r.val = 0 then .stopped else .stopping } ∧
      bit (rd t (sqReg u r.val 2)) 16 = false ∧ (punit t u).ctxs = (punit s u).ctxs ∧
      RegsBut [sqReg u r.val 2, sqReg u r.val 5] s t ∧ Touches [.regs, .units, .resp] s t) ∧
  (∀ (u : UnitRef) (r : Fin 64) (v : Word) (s : State), r.val < cqCount u → MgmtServes s (cqReg u r.val 2) →
    (cqOf s u r.val).st ≠ .stopped →
    ∃ t, exec (.ringDisable (.mgmt g) u true r v) s = .next t ∧ AnsweredOk t g ∧
      (if cqNamed s u r.val then cqOf t u r.val = cqOf s u r.val ∧ bit (rd t (cqReg u r.val 5)) 5 = true
      else cqOf t u r.val = { cqOf s u r.val with st := if cqRsv s u r.val = 0 then .stopped else .stopping } ∧
        bit (rd t (cqReg u r.val 2)) 16 = false) ∧
      (punit t u).ctxs = (punit s u).ctxs ∧
      RegsBut [cqReg u r.val 2, cqReg u r.val 5] s t ∧ Touches [.regs, .units, .resp] s t)

/-- R262: with ABORT, a descriptor that holds the ring under WAIT_TIME completes at once with FLUSHED, and the ring, which
then has nothing in execution, is STOPPED; whatever else the write carries (the model's reading: log entry 119). -/
def Sys2Proof.Claim.RingAbortFlushes : Prop :=
  ∀ g : Fin 32,
  ∀ (c : Cell) (r : Fin 64) (v : Word) (s : State) (id : Nat) (x : Ctx), r.val < 16 → MgmtServes s (sqReg (.ni c) r.val 2) →
    (sqOf s (.ni c) r.val).st ≠ .stopped → (punit s (.ni c)).ctxs = [(id, x)] → x.ring = r.val → x.st = .waiting →
    dOp x.desc = 7 → x.todo = [] → x.out = 0 → x.err = none → inFlight s (.ni c) id = false →
    (∀ y, y ∈ (punit s (.ni c)).streams → y.2.relPend ≠ some id) → (cqOf s (.ni c) x.cq).st = .running →
    sqOwing s (.ni c) r.val = 0 →
    ∃ t, exec (.ringAbort (.mgmt g) (.ni c) r v) s = .next t ∧ AnsweredOk t g ∧
      (punit t (.ni c)).ctxs = [] ∧ (sqOf t (.ni c) r.val).st = .stopped ∧
      (sqOf t (.ni c) r.val).pi = (sqOf s (.ni c) r.val).pi ∧ (sqOf t (.ni c) r.val).ci = (sqOf s (.ni c) r.val).ci ∧
      bit (rd t (sqReg (.ni c) r.val 2)) 16 = false ∧
      Posted s t (.ni c) x.cq (cplEntry { x with err := some (0xC, 0) }) ∧
      RegsBut [sqReg (.ni c) r.val 2, sqReg (.ni c) r.val 5] s t ∧ Touches [.mem, .regs, .units, .tx, .tel, .resp] s t

/-- R267: a write of a mailbox's TX_TAG commits a message: FULL is set and MSG_CNT counts; a mailbox that was FULL is
overwritten, COLLISION is set and COLL_CNT counts. A read of RX_TAG answers the tag, latches the pointer and empties the mailbox. -/
def Sys2Proof.Claim.MailboxMessages : Prop :=
  ∀ g : Fin 32,
  ∀ (h : Fin 8) (m : Fin 16) (s : State),
    (∀ tag : Word, MgmtServes s (gwReg (hostGw h.val) 1 (0x2008 + 0x20 * m.val)) →
      ∃ t, exec (.mailboxCommit (.mgmt g) h m tag) s = .next t ∧ AnsweredOk t g ∧
        (mbxOf t (hostGw h.val) m.val).tag = tag ∧ (mbxOf t (hostGw h.val) m.val).full = true ∧
        (mbxOf t (hostGw h.val) m.val).cnt = ((mbxOf s (hostGw h.val) m.val).cnt + 1) % 65536 ∧
        (mbxOf t (hostGw h.val) m.val).ptr.toNat = (rd s (gwReg (hostGw h.val) 1 (0x2000 + 0x20 * m.val))).toNat +
          4294967296 * (rd s (gwReg (hostGw h.val) 1 (0x2004 + 0x20 * m.val))).toNat ∧
        bit (rd t (gwReg (hostGw h.val) 1 (0x2018 + 0x20 * m.val))) 1 =
          (bit (rd s (gwReg (hostGw h.val) 1 (0x2018 + 0x20 * m.val))) 1 || (mbxOf s (hostGw h.val) m.val).full) ∧
        rdF t (gwReg (hostGw h.val) 1 (0x2018 + 0x20 * m.val)) 8 8 =
          satAdd 255 (rdF s (gwReg (hostGw h.val) 1 (0x2018 + 0x20 * m.val)) 8 8) (b2n (mbxOf s (hostGw h.val) m.val).full) ∧
        (∀ n, n ≠ m.val → mbxOf t (hostGw h.val) n = mbxOf s (hostGw h.val) n) ∧
        RegsBut [gwReg (hostGw h.val) 1 (0x2008 + 0x20 * m.val), gwReg (hostGw h.val) 1 (0x2018 + 0x20 * m.val)] s t ∧
        Touches [.regs, .gws, .resp] s t) ∧
    (MgmtServes s (gwReg (hostGw h.val) 1 (0x200C + 0x20 * m.val)) →
      ∃ t, exec (.mailboxReceive (.mgmt g) h m) s = .next t ∧ respOf t g.val = ⟨0, 0, (mbxOf s (hostGw h.val) m.val).tag⟩ ∧
        (mbxOf t (hostGw h.val) m.val).full = false ∧
        (mbxOf t (hostGw h.val) m.val).rxPtr = (mbxOf s (hostGw h.val) m.val).ptr ∧
        (mbxOf t (hostGw h.val) m.val).cnt = (mbxOf s (hostGw h.val) m.val).cnt ∧
        (∀ n, n ≠ m.val → mbxOf t (hostGw h.val) n = mbxOf s (hostGw h.val) n) ∧
        RegsBut [gwReg (hostGw h.val) 1 (0x200C + 0x20 * m.val)] s t ∧ Touches [.regs, .gws, .resp] s t)

/-! ## Combine entries, loss writes, grants and host windows (R167, R243, R267, R275, R279, R402, R403, R432) -/

/-- R167: the first word of a combine entry written with VALID = 1. A word of a RUNNING entry is refused; an entry that
fails the check reads VALID = 0; both leave their flag. A write of another of its words, or of the first with VALID = 0, sets their RW
bits and is not checked, and is refused in the same way while the entry is RUNNING. -/
def Obligations.CombineEntryChecked : Prop :=
  ∀ g : Fin 32,
  (∀ (c : Cell) (e : Fin 32) (w0 : Word) (s : State) (row : RegRow) (a : Nat),
    a = cellReg c 4 (0x1000 + 0x80 * e.val) → rowOf a = some row → MgmtServes s a →
    ∃ t, exec (.cmbEntryLoad (.mgmt g) c e w0) s = .next t ∧ AnsweredOk t g ∧
      ((crun s c e.val).isSome = true → rd t a = rd s a ∧ bit (rd t (cellReg c 4 4)) 7 = true) ∧
      (crun s c e.val = none → (∀ i, 1 ≤ i → row.rw.testBit i = true → bit (rd t a) i = bit w0 i) ∧
        bit (rd t a) 0 = entryOk (wr s a (plainWrite row (rd s a) (w0 ||| 1))) c e.val ∧
        bit (rd t (cellReg c 4 4)) 6 = (bit (rd s (cellReg c 4 4)) 6 ||
          !entryOk (wr s a (plainWrite row (rd s a) (w0 ||| 1))) c e.val)) ∧
      RegsBut [a, cellReg c 4 4] s t ∧ Touches [.regs, .resp] s t) ∧
  (∀ (c : Cell) (e : Fin 32) (j : Fin 28) (v : Word) (s : State) (row : RegRow) (a : CfgAddr),
    a.key = cellReg c 4 (0x1000 + 0x80 * e.val + 4 * j.val) → rowOf a.key = some row → MgmtServes s a.key → (j.val = 0 → bit v 0 = false) →
    ∃ t, exec (.registerWrite (.mgmt g) a v) s = .next t ∧ AnsweredOk t g ∧
      ((crun s c e.val).isSome = true → rd t a.key = rd s a.key ∧ bit (rd t (cellReg c 4 4)) 7 = true ∧ RegsBut [cellReg c 4 4] s t) ∧
      (crun s c e.val = none →
        (∀ i, i < 32 → bit (rd t a.key) i = if row.rw.testBit i then bit v i else bit (rd s a.key) i) ∧ RegsBut [a.key] s t) ∧
      Touches [.regs, .flt, .resp] s t)

/-- R317: NI_OFFW_LOST.GO quarantines every outstanding entry that was sent under an off-wafer entry of MASK, leaves the others, and
counts them in LOST_CNT; every stream whose destination wafer resolves to such an entry becomes BROKEN; and a descriptor whose last
request goes so completes with LINK_LOST. (The cell runs no collective here.) -/
def Sys2Proof.Claim.OffWaferLossEndsRequests : Prop :=
  ∀ g : Fin 32,
  (∀ (c : Cell) (v : Word) (s : State), MgmtServes s (cellReg c 3 0xD200) → (cmb s c).ents = [] →
    FMap.rising (punit s (.ni c)).out = true → FMap.rising (punit s (.ni c)).streams = true →
    ∃ t, exec (.niOffwLost (.mgmt g) c v) s = .next t ∧ AnsweredOk t g ∧
      (∀ tag e, (punit s (.ni c)).out.find tag = some e →
        (if e.quar = false ∧ (e.offw.any (fun i => (bits v 0 16).testBit i)) = true then
          ∃ e', (punit t (.ni c)).out.find tag = some e' ∧ e'.quar = true
        else (punit t (.ni c)).out.find tag = some e)) ∧
      (∀ i y, (punit s (.ni c)).streams.find i = some y → y.live = true → isLocal s c.field (y.dest / 65536) = false →
        (∃ k, wmapFind s (.ni c) (y.dest / 65536) = some k ∧ (bits v 0 16).testBit k = true) →
        ∃ y', (punit t (.ni c)).streams.find i = some y' ∧ y'.broken = true) ∧
      rdF t (cellReg c 3 0xD204) 16 16 = satAdd 65535 (rdF s (cellReg c 3 0xD204) 16 16)
        ((punit s (.ni c)).out.filter (fun x => !x.2.quar && x.2.offw.any (fun i => (bits v 0 16).testBit i))).length ∧
      (∀ u, u.key ≠ (UnitRef.ni c).key → punit t u = punit s u) ∧
      Touches [.mem, .regs, .units, .tx, .cmbs, .tel, .freeCtr, .resp] s t) ∧
  (∀ (c : Cell) (v : Word) (s : State) (tag id i : Nat) (e : OutEnt) (x : Ctx), MgmtServes s (cellReg c 3 0xD200) →
    LoneRequest s c tag id e x → e.cmd ≤ 1 → dNocomp x.desc = false → e.offw = some i → (bits v 0 16).testBit i = true →
    ∃ t, exec (.niOffwLost (.mgmt g) c v) s = .next t ∧ AnsweredOk t g ∧ (punit t (.ni c)).ctxs = [] ∧
      (punit t (.ni c)).out = [(tag, { e with quar := true, since := cyc s c.field })] ∧
      Posted s t (.ni c) x.cq (cplEntry { x with err := some (0xA, 0) }) ∧
      rdF t (cellReg c 3 0xD204) 16 16 = satAdd 65535 (rdF s (cellReg c 3 0xD204) 16 16) 1 ∧
      Touches [.mem, .regs, .units, .tx, .tel, .resp] s t)

/-- R403: a grant takes effect at once: NONE, U, or P, which acts as U below level FULL. -/
def Sys2Proof.Claim.HostGrantTakesEffect : Prop :=
  ∀ g : Fin 32,
  ∀ (h : Fin 8) (v : Word) (s : State), MgmtServes s (secReg (0x80 + 4 * h.val)) →
    ∃ t, exec (.hostGrantWrite (.mgmt g) h v) s = .next t ∧ AnsweredOk t g ∧
      effView t h.val = (if bits v 0 2 = 1 then 1 else if bits v 0 2 = 2 then (if 2 ≤ s.sec.level then 2 else 1) else 0) ∧
      rdF t (secReg (0x80 + 4 * h.val)) 2 1 = bits v 2 1 ∧ (∀ g, g < 8 → g ≠ h.val → effView t g = effView s g) ∧
      RegsBut [secReg (0x80 + 4 * h.val)] s t ∧ Touches [.regs, .resp] s t

/-- R275, R428: SIZE_GB of a memory port takes the value written, and so does the copy of every domain in RUN. -/
def Sys2Proof.Claim.MemorySizeMirrored : Prop :=
  ∀ g : Fin 32,
  ∀ (m : MemId) (v : Word) (s : State), MgmtServes s (gwReg m.gw 1 0) →
    ∃ t, exec (.memSizeWrite (.mgmt g) m v) s = .next t ∧ AnsweredOk t g ∧ rdF t (gwReg m.gw 1 0) 0 10 = bits v 0 10 ∧
      (∀ d, d < 52 → (dom s d).st = .run → memSizeOf t d m.gw = bits v 0 10) ∧
      (∀ d, (dom s d).st ≠ .run → dom t d = dom s d) ∧
      RegsBut [gwReg m.gw 1 0] s t ∧ Touches [.regs, .doms, .mirror, .resp] s t

/-- R243, R402: an access by the local register port of a cell in RUN: a read of a U register of the cell's own NI block answers
its value, an offset without a register reads zero and takes no write, a register that is not U reads zero and takes no write,
answered OK, and the denial is recorded (R402), and a doorbell written there is a doorbell. -/
def Sys2Proof.Claim.LocalPortServes : Prop :=
  ∀ (c : Cell) (s : State), (dom s c.field).st = .run → s.held = [] →
    (∀ (off : BitVec 16) (v : Word), uReg (cellReg c 3 off.toNat) = true →
      ∃ t, exec (.localPortAccess c false off v) s = .next t ∧
        respOf t (100 + c.key) = ⟨0, 0, regValue s (cellReg c 3 off.toNat)⟩ ∧
        RegsBut [cellReg c 3 off.toNat] s t ∧ Touches [.regs, .resp] s t) ∧
    (∀ (wr : Bool) (off : BitVec 16) (v : Word), rowOf (cellReg c 3 off.toNat) = none →
      ∃ t, exec (.localPortAccess c wr off v) s = .next t ∧ (respOf t (100 + c.key)).status = 0 ∧
        (wr = false → (respOf t (100 + c.key)).data = 0) ∧ Touches [.resp] s t) ∧
    (∀ (wr : Bool) (off : BitVec 16) (v : Word), (rowOf (cellReg c 3 off.toNat)).isSome = true →
      uReg (cellReg c 3 off.toNat) = false →
      ∃ t, exec (.localPortAccess c wr off v) s = .next t ∧ (respOf t (100 + c.key)).status = 0 ∧
        (wr = false → (respOf t (100 + c.key)).data = 0) ∧
        ((dom s 52).st = .run → bit (rd t (secReg 0xC)) 4 = true ∧
          rdF t (secReg 0xC) 16 16 = satAdd 65535 (rdF s (secReg 0xC) 16 16) 1) ∧
        RegsBut [secReg 0xC] s t ∧ Touches [.regs, .resp] s t) ∧
    (∀ (r : Fin 16) (d : Word), (sqOf s (.ni c) r.val).st = .running →
      (sqOf s (.ni c) r.val).pi.toNat ≤ d.toNat → (sqOf s (.ni c) r.val).ci.toNat ≤ (sqOf s (.ni c) r.val).pi.toNat →
      d.toNat ≤ (sqOf s (.ni c) r.val).ci.toNat + 2 ^ rdF s (sqReg (.ni c) r.val 2) 0 5 →
      ∃ t, exec (.localPortAccess c true (BitVec.ofNat 16 (0x20 * r.val + 8)) d) s = .next t ∧
        (sqOf t (.ni c) r.val).pi = d ∧ RegsBut [] s t ∧ Touches [.regs, .units, .resp] s t)

/-- R278, R279, R402, R432: what a host's BARs do. A write whose byte enables are not all set is ignored, and an AtomicOp is
answered Unsupported Request. BAR0 reads the U registers of the port's own HOST_ block and zero where it has no register,
and denies the others. A doorbell written there is a doorbell. BAR2 reads zero without a view; with one, HOST_CFG_WIN takes the 22 bits written and reads
them, and the window leads to the block it names: a P view reads and writes a register there, a U view that does not reach it is
denied, and HOST_CFG_STAT takes the status. (Status 4 for an AtomicOp, R278, is the model's number: log entry 135, DESIGN CHOICE.) -/
def Sys2Proof.Claim.BarAccessServes : Prop :=
  ∀ (h : Fin 8) (s : State), (dom s 52).st = .run → s.held = [] →
    (∀ (bar2 : Bool) (off : BitVec 18) (v : Word), bar2 = true ∨ off.toNat < 65536 →
      exec (.barAccess h bar2 off true false false v) s = .next s) ∧
    (∀ (bar2 : Bool) (off : BitVec 18) (wr full : Bool) (v : Word), bar2 = true ∨ off.toNat < 65536 →
      ∃ t, exec (.barAccess h bar2 off wr full true v) s = .next t ∧ (respOf t (33 + h.val)).status = 4 ∧ Touches [.resp] s t) ∧
    (∀ (off : BitVec 18) (full : Bool) (v : Word), off.toNat < 65536 → off.toNat % 4 = 0 → (dom s (hostGw h.val).dom).st = .run →
      (uReg (hostBlock h.val + off.toNat) = true →
        ∃ t, exec (.barAccess h false off false full false v) s = .next t ∧
          respOf t (33 + h.val) = ⟨0, 0, regValue s (hostBlock h.val + off.toNat)⟩ ∧ Touches [.regs, .gws, .resp] s t) ∧
      (rowOf (hostBlock h.val + off.toNat) = none →
        ∃ t, exec (.barAccess h false off false full false v) s = .next t ∧ respOf t (33 + h.val) = ⟨0, 0, 0⟩ ∧
          Touches [.resp] s t) ∧
      ((rowOf (hostBlock h.val + off.toNat)).isSome = true → uReg (hostBlock h.val + off.toNat) = false →
        ∃ t, exec (.barAccess h false off false full false v) s = .next t ∧ respOf t (33 + h.val) = ⟨3, 0, 0⟩ ∧
          bit (rd t (secReg 0xC)) 4 = true ∧ RegsBut [secReg 0xC] s t ∧ Touches [.regs, .resp] s t)) ∧
    (∀ (off : BitVec 18) (full : Bool) (v : Word), effView s h.val = 0 →
      ∃ t, exec (.barAccess h true off false full false v) s = .next t ∧ respOf t (33 + h.val) = ⟨0, 0, 0⟩ ∧
        (∀ n, n ≠ 33 + h.val → respOf t n = respOf s n) ∧ Touches [.resp, .bar] s t) ∧
    (∀ (v : Word), effView s h.val ≠ 0 →
      ∃ t, exec (.barAccess h true 65536 true true false v) s = .next t ∧
        (t.bar.get h.val (0, 0)).1 = v &&& 0x3FFFFF ∧ (∀ g, g ≠ h.val → t.bar.get g (0, 0) = s.bar.get g (0, 0)) ∧
        Touches [.resp, .bar] s t) ∧
    (∀ (full : Bool) (v : Word), effView s h.val ≠ 0 →
      ∃ t, exec (.barAccess h true 65536 false full false v) s = .next t ∧
        respOf t (33 + h.val) = ⟨0, 0, (s.bar.get h.val (0, 0)).1⟩ ∧ Touches [.resp] s t) ∧
    (∀ (r : Fin 64) (off : BitVec 18) (d : Word), hostBlock h.val + off.toNat = sqReg (.gw (hostGw h.val)) r.val 3 →
      (dom s (hostGw h.val).dom).st = .run → (sqOf s (.gw (hostGw h.val)) r.val).st = .running →
      (sqOf s (.gw (hostGw h.val)) r.val).pi.toNat ≤ d.toNat →
      (sqOf s (.gw (hostGw h.val)) r.val).ci.toNat ≤ (sqOf s (.gw (hostGw h.val)) r.val).pi.toNat →
      d.toNat ≤ (sqOf s (.gw (hostGw h.val)) r.val).ci.toNat + 2 ^ rdF s (sqReg (.gw (hostGw h.val)) r.val 2) 0 5 →
      ∃ t, exec (.barAccess h false off true true false d) s = .next t ∧ (respOf t (33 + h.val)).status = 0 ∧
        (sqOf t (.gw (hostGw h.val)) r.val).pi = d ∧ RegsBut [] s t ∧ Touches [.regs, .units, .resp] s t) ∧
    (∀ (off : BitVec 18) (full : Bool) (v : Word) (k : Nat), off.toNat < 65536 → off.toNat % 4 = 0 →
      k = winKey2 (s.bar.get h.val (0, 0)).1 off.toNat → keyDom k < 48 → (rowOf k).isSome = true → targetVerdict s k = .serve →
      lastTableRead s k = s →
      (effView s h.val = 2 →
        ∃ t, exec (.barAccess h true off false full false v) s = .next t ∧ respOf t (33 + h.val) = ⟨0, 0, regValue s k⟩ ∧
          t.bar.get h.val (0, 0) = ((s.bar.get h.val (0, 0)).1, 0) ∧ RegsBut [k] s t ∧ Touches [.regs, .resp, .bar] s t) ∧
      (effView s h.val = 1 → uReach s h.val k = false →
        ∃ t, exec (.barAccess h true off false full false v) s = .next t ∧ respOf t (33 + h.val) = ⟨3, 0, 0⟩ ∧
          t.bar.get h.val (0, 0) = ((s.bar.get h.val (0, 0)).1, 3) ∧ bit (rd t (secReg 0xC)) 4 = true ∧
          RegsBut [secReg 0xC] s t ∧ Touches [.regs, .resp, .bar] s t)) ∧
    (∀ (off : BitVec 18) (v : Word) (c : Cell), off.toNat < 65536 → off.toNat % 4 = 0 →
      cellReg c 1 0 = winKey2 (s.bar.get h.val (0, 0)).1 off.toNat → (dom s c.field).st = .run → effView s h.val = 2 →
      ∃ t, exec (.barAccess h true off true true false v) s = .next t ∧ (respOf t (33 + h.val)).status = 0 ∧
        rdF t (cellReg c 1 0) 0 2 = bits v 0 2 ∧ t.bar.get h.val (0, 0) = ((s.bar.get h.val (0, 0)).1, 0) ∧
        RegsBut [cellReg c 1 0] s t ∧ Touches [.regs, .resp, .bar] s t)

/-! ## Optical settings (R291, R294, R300, R309, R345) -/

/-- R294: RETRAIN of a link in TRAIN starts its training again; of one in LANE_TEST, UP, REPLAY or FAIL starts its lane
test; of one that is DOWN, or DISABLED and stays so, does nothing. -/
def Sys2Proof.Claim.OpticalRetrain : Prop :=
  ∀ g : Fin 32,
  (∀ (o : OptId) (v : Word) (s : State), MgmtServes s (optReg o 0) → bit v 1 = false → (opt s o).st ≠ .disabled →
    ∃ t, exec (.optRetrain (.mgmt g) o v) s = .next t ∧ AnsweredOk t g ∧
      (match (opt s o).st with
       | .down => opt t o = opt s o ∧ link t (.optical o) = link s (.optical o)
       | .train => opt t o = { opt s o with cw := CwBuild.init } ∧ (link t (.optical o)).good = 0 ∧
           (link t (.optical o)).st = .train ∧ (link t (.optical o)).ready = false
       | _ => (opt t o).st = .laneTest ∧ (opt t o).rxgood = 0 ∧ (opt t o).peerGood = none ∧ (opt t o).done = false ∧
           (opt t o).held = false ∧ (opt t o).holdBy = cyc s o.gw.dom + holdTime s o ∧ (link t (.optical o)).st = .down) ∧
      (∀ e, e.key ≠ (EndRef.optical o).key → link t e = link s e) ∧
      RegsBut [optReg o 0, optReg o 0x74] s t ∧ Touches [.regs, .links, .gws, .resp] s t) ∧
  (∀ (o : OptId) (v : Word) (s : State), MgmtServes s (optReg o 0) → bit v 1 = true → (opt s o).st = .disabled →
    ∃ t, exec (.optRetrain (.mgmt g) o v) s = .next t ∧ AnsweredOk t g ∧ bit (rd t (optReg o 0)) 1 = true ∧
      RegsBut [optReg o 0] s t ∧ Touches [.regs, .resp] s t)

/-- R300, R309, R310, R434: once software has released the links, DISABLE = 1 takes a link to DISABLED and clears the
neighbour's identity and its admission, and DISABLE = 0 starts the lane test of a DISABLED link; before, the bit is stored
and the link stays as it is. -/
def Sys2Proof.Claim.OpticalDisable : Prop :=
  ∀ g : Fin 32,
  ∀ (o : OptId) (v : Word) (s : State), MgmtServes s (optReg o 0) →
    (bit v 1 = true → (opt s o).st ≠ .disabled → s.boot.optGo = true →
      ∃ t, exec (.optDisable (.mgmt g) o v) s = .next t ∧ AnsweredOk t g ∧ (opt t o).st = .disabled ∧ (opt t o).admits = false ∧
        (link t (.optical o)).st = .down ∧ rd t (optReg o 0x18) = 0 ∧ rd t (optReg o 0x1C) = 0 ∧ rd t (optReg o 0x20) = 0 ∧
        bit (rd t (optReg o 0)) 1 = true ∧ Touches [.regs, .links, .units, .rx, .tx, .cmbs, .gws, .flt, .tel, .resp] s t) ∧
    (bit v 1 = false → (opt s o).st = .disabled → s.boot.optGo = true →
      ∃ t, exec (.optDisable (.mgmt g) o v) s = .next t ∧ AnsweredOk t g ∧ (opt t o).st = .laneTest ∧
        (opt t o).done = false ∧ (opt t o).rxgood = 0 ∧ (link t (.optical o)).st = .down ∧
        bit (rd t (optReg o 0)) 1 = false ∧ Touches [.regs, .links, .units, .rx, .tx, .cmbs, .gws, .flt, .tel, .resp] s t) ∧
    (bit v 0 = false → s.boot.optGo = false →
      ∃ t, exec (.optDisable (.mgmt g) o v) s = .next t ∧ AnsweredOk t g ∧ bit (rd t (optReg o 0)) 1 = bit v 1 ∧
        opt t o = opt s o ∧ RegsBut [optReg o 0] s t ∧ Touches [.regs, .gws, .resp] s t)

/-- R291, R309: OPT_EXPECT_PORT takes the value written; the time that an expected neighbour has to show itself starts
again, and an answer to a probe under way is stale. -/
def Sys2Proof.Claim.OpticalExpectation : Prop :=
  ∀ g : Fin 32,
  ∀ (o : OptId) (v : Word) (s : State), MgmtServes s (optReg o 0x2C) →
    ∃ t, exec (.optExpectWrite (.mgmt g) o v) s = .next t ∧ AnsweredOk t g ∧
      rdF t (optReg o 0x2C) 0 6 = bits v 0 6 ∧ bit (rd t (optReg o 0x2C)) 31 = bit v 31 ∧
      (opt t o).waited = false ∧ (opt t o).discBy = cyc s o.gw.dom + discTime s o ∧ (opt t o).probeStale = (opt s o).probe ∧
      (opt t o).st = (opt s o).st ∧
      Touches [.regs, .links, .units, .rx, .tx, .cmbs, .gws, .doms, .flt, .tel, .mirror, .resp] s t

/-- R345: a read of OPT_TIME_STAT answers its value, copies the latest result to the result registers, and clears its
counts (R12). -/
def Sys2Proof.Claim.TimeStatusRead : Prop :=
  ∀ g : Fin 32,
  ∀ (o : OptId) (s : State), MgmtServes s (optReg o 0x74) →
    ∃ t, exec (.optTimeStatRead (.mgmt g) o) s = .next t ∧ respOf t g.val = ⟨0, 0, regValue s (optReg o 0x74)⟩ ∧
      (∀ r, (opt s o).result = some r → (rd t (optReg o 0x68)).toNat = r.ofs % 4294967296 ∧
        (rd t (optReg o 0x6C)).toNat = r.ofs / 4294967296 % 4294967296 ∧ (rd t (optReg o 0x70)).toNat = r.dly % 4294967296) ∧
      ((opt s o).result = none → RegsBut [optReg o 0x74] s t) ∧
      rdF t (optReg o 0x74) 16 16 = 0 ∧
      RegsBut [optReg o 0x68, optReg o 0x6C, optReg o 0x70, optReg o 0x74] s t ∧ Touches [.regs, .resp] s t

/-! ## Meridian time (R325-R332, R344) -/

/-- R326, R329: a write of MER_ADJ stores the adjustment, leaves the counter, and starts the holdover time again. -/
def Sys2Proof.Claim.MeridianAdjust : Prop :=
  ∀ g : Fin 32,
  ∀ (v : Word) (s : State), MgmtServes s (merReg 8) →
    ∃ t, exec (.merAdjWrite (.mgmt g) v) s = .next t ∧ AnsweredOk t g ∧ rd t (merReg 8) = v ∧
      t.mer = { s.mer with holdFrom := (clk s 54).cyc } ∧ RegsBut [merReg 8] s t ∧ Touches [.regs, .mer, .resp] s t

/-- R327, R329: SET gives the counter of the next MCLK cycle the time of the SET registers and clears LOCK; STEP adds its
signed amount to what that cycle counts, or to what a SET or STEP before it in the same cycle makes of it; this, and that the cycle of
a SET starts from the value set, is the model's reading (log entry 97). Each makes the next pulse STEPPED, in that cycle. A SET of more than 999,999,999 ns,
and a STEP below zero, leave the counter and set the error flag. R344: a LOCK that the hardware or a SET has cleared in this cycle
stays clear whatever is written. -/
def Sys2Proof.Claim.MeridianSetAndStep : Prop :=
  ∀ g : Fin 32,
  (∀ (v : Word) (s : State), MgmtServes s (merReg 0) → bit v 1 = false →
    ∃ t, exec (.merSet (.mgmt g) v) s = .next t ∧ AnsweredOk t g ∧
      (if (rd s (merReg 0x1C)).toNat ≤ 999999999 then
        t.mer.jump = some ((((rd s (merReg 0x14)).toNat + 4294967296 * rdF s (merReg 0x18) 0 16) * 1000000000 +
          (rd s (merReg 0x1C)).toNat) * 2 ^ 40 + rdF s (merReg 0x20) 0 16 * 2 ^ 24) ∧
        (∀ n, t.mer.jump = some n → (merNext t.mer).cnt = n ∧ (merNext t.mer).stepped = true) ∧
        bit (rd t (merReg 0)) 0 = false ∧ rd t (merReg 4) = rd s (merReg 4)
      else t.mer.jump = s.mer.jump ∧ bit (rd t (merReg 0)) 0 = (bit v 0 && !s.mer.cleared) ∧ bit (rd t (merReg 4)) 3 = true) ∧
      t.mer.cnt = s.mer.cnt ∧ t.mer.queue = s.mer.queue ∧ RegsBut [merReg 0, merReg 4] s t ∧ Touches [.regs, .mer, .resp] s t) ∧
  (∀ (v : Word) (s : State), MgmtServes s (merReg 0) → bit v 1 = false →
    ∃ t, exec (.merStep (.mgmt g) v) s = .next t ∧ AnsweredOk t g ∧
      (∀ c : Int, c = ((match s.mer.jump with | some n => n | none => merAdd s.mer.cnt 1 s.mer.adj : Nat) : Int) + (rd s (merReg 0xC)).toInt * 2 ^ 40 +
          ((rdF s (merReg 0x10) 0 16 * 2 ^ 24 : Nat) : Int) →
        if 0 ≤ c then
          (∃ n : Nat, t.mer.jump = some n ∧ (n : Int) = c ∧ (merNext t.mer).cnt = n ∧ (merNext t.mer).stepped = true) ∧
            rd t (merReg 4) = rd s (merReg 4)
        else t.mer.jump = s.mer.jump ∧ bit (rd t (merReg 4)) 3 = true) ∧
      bit (rd t (merReg 0)) 0 = (bit v 0 && !s.mer.cleared) ∧
      t.mer.cnt = s.mer.cnt ∧ t.mer.queue = s.mer.queue ∧ RegsBut [merReg 0, merReg 4] s t ∧ Touches [.regs, .mer, .resp] s t)

/-- R344: SNAP copies the counter to the snapshot registers, with UNSYNC where the master is not LOCKed. R332: TSQ_POP
moves the oldest capture, its time, SRC, TAG and UNSYNC, to its registers, VALID, or clears VALID where there is none, or only one
of the same cycle, which a pop comes before; a capture of the same cycle that found the queue full takes the place. -/
def Sys2Proof.Claim.MeridianSnapAndPop : Prop :=
  ∀ g : Fin 32,
  (∀ (v : Word) (s : State), MgmtServes s (merReg 0) → bit v 2 = false → bit v 3 = false →
    ∃ t, exec (.merSnap (.mgmt g) v) s = .next t ∧ AnsweredOk t g ∧
      (rd t (merReg 0x24)).toNat = s.mer.cnt / 2 ^ 40 / 1000000000 % 2 ^ 32 ∧
      rdF t (merReg 0x28) 0 16 = s.mer.cnt / 2 ^ 40 / 1000000000 / 2 ^ 32 % 65536 ∧
      (rd t (merReg 0x2C)).toNat = s.mer.cnt / 2 ^ 40 % 1000000000 ∧ (rd t (merReg 0x30)).toNat = s.mer.cnt / 2 ^ 24 % 65536 ∧
      bit (rd t (merReg 0x28)) 31 = !bit (rd s (merReg 0)) 0 ∧ t.mer.cnt = s.mer.cnt ∧
      RegsBut [merReg 0, merReg 0x24, merReg 0x28, merReg 0x2C, merReg 0x30] s t ∧ Touches [.regs, .mer, .resp] s t) ∧
  (∀ (v : Word) (s : State), MgmtServes s (merReg 0x50) →
    ∃ t, exec (.tsqPop (.mgmt g) v) s = .next t ∧ AnsweredOk t g ∧
      (match s.mer.queue with
       | [] => bit (rd t (merReg 0x58)) 31 = false ∧ t.mer = s.mer ∧ RegsBut [merReg 0x50, merReg 0x58] s t
       | x :: r =>
         if x.cyc = (clk s 54).cyc then
           bit (rd t (merReg 0x58)) 31 = false ∧ t.mer = s.mer ∧ RegsBut [merReg 0x50, merReg 0x58] s t
         else
           t.mer = { s.mer with queue := r ++ s.mer.late.take 1, late := s.mer.late.drop 1 } ∧
           (rd t (merReg 0x54)).toNat = x.t / 65536 / 1000000000 % 2 ^ 32 ∧
           rdF t (merReg 0x58) 0 16 = x.t / 65536 / 1000000000 / 2 ^ 32 % 65536 ∧
           (rd t (merReg 0x5C)).toNat = x.t / 65536 % 1000000000 ∧ (rd t (merReg 0x60)).toNat = x.t % 65536 ∧
           (x.src < 4 → x.tag < 16 → rdF t (merReg 0x58) 16 2 = x.src ∧ rdF t (merReg 0x58) 18 4 = x.tag ∧
             bit (rd t (merReg 0x58)) 22 = x.unsync ∧ bit (rd t (merReg 0x58)) 31 = true) ∧
           RegsBut [merReg 0x50, merReg 0x54, merReg 0x58, merReg 0x5C, merReg 0x60] s t) ∧
      Touches [.regs, .mer, .resp] s t)

/-! ## Clock and power commands (R348, R359-R366, R371) -/

/-- R348: RELOCK of a PLL whose reference is present begins the relock; without its reference it is refused, and RELOCK_ERR of
CLK_STAT is set. -/
def Sys2Proof.Claim.ClockRelock : Prop :=
  ∀ g : Fin 32,
  ∀ (k : Fin 60) (v : Word) (s : State), MgmtServes s (clkReg k.val 4) → hasPll k.val = true →
    ∃ t, exec (.clkRelock (.mgmt g) k v) s = .next t ∧ AnsweredOk t g ∧
      (if (clk s k.val).srcOk then clk t k.val = { clk s k.val with relocking := true } ∧ RegsBut [clkReg k.val 4] s t
      else clk t k.val = clk s k.val ∧ bit (rd t (clkReg k.val 0)) 4 = true) ∧
      (∀ j, j ≠ k.val → clk t j = clk s j) ∧ RegsBut [clkReg k.val 0, clkReg k.val 4] s t ∧ Touches [.regs, .clks, .resp] s t

/-- R359, R360, R361, R368: a GO from RUN to a deeper state, in no ACLK cycle of a wake, starts a drain at QUIESCE; with a
reason against it, it is refused: the state stays, REFUSED is set and REASON tells why (the lowest where several hold: log entry
101). R362: a GO with TARGET = RUN before GATE abandons a drain: the domain is in RUN again, with REASON ABANDONED and without
DRAIN_FAIL. -/
def Sys2Proof.Claim.PowerDownDrains : Prop :=
  ∀ g : Fin 32,
  (∀ (d : Fin 53) (v : Word) (s : State), s.held = [] → (dom s d.val).wakeAt ≠ some s.aclk → (dom s d.val).st = .draining →
    (dom s d.val).phase < 2 →
    ∃ t, exec (.powerUp (.mgmt g) d v) s = .next t ∧ AnsweredOk t g ∧
      dom t d.val = { dom s d.val with st := .run, target := .run, phase := 0, wakePend := 0, reason := 6 } ∧
      (∀ e, e ≠ d.val → dom t e = dom s e) ∧ RegsBut [pwrReg d.val 0] s t ∧ Touches [.regs, .doms, .resp] s t) ∧
  ∀ (d : Fin 53) (v : Word) (s : State), MgmtServes s (pwrReg d.val 0) → (dom s d.val).st = .run → (dom s d.val).wakeAt ≠ some s.aclk → bits v 0 2 ≠ 0 →
    ¬ (bits v 0 2 = 3 ∧ bit v 5 = true) →
    ∃ t, exec (.powerDown (.mgmt g) d v) s = .next t ∧ AnsweredOk t g ∧
      (if goReason s d.val (targetOf (bits v 0 2)) = 0 then
        dom t d.val = { dom s d.val with
          st := .draining, target := targetOf (bits v 0 2), phase := 0, wakePend := 0, since := s.aclk, drainFrom := s.aclk } ∧
        RegsBut [pwrReg d.val 0] s t
      else dom t d.val = { dom s d.val with reason := goReason s d.val (targetOf (bits v 0 2)) } ∧
        bit (rd t (pwrReg d.val 4)) 10 = true) ∧
      (∀ e, e ≠ d.val → dom t e = dom s e) ∧ RegsBut [pwrReg d.val 0, pwrReg d.val 4] s t ∧ Touches [.regs, .doms, .resp] s t

/-- R359, R366: a GO with TARGET = DEEP takes a domain from SLEEP to DEEP; one with TARGET = RUN makes a sleeping domain
wake, LAST_WAKE = GO, and takes a domain that is OFF through RESET. -/
def Sys2Proof.Claim.PowerMovesFromLow : Prop :=
  ∀ g : Fin 32,
  (∀ (d : Fin 53) (v : Word) (s : State), MgmtServes s (pwrReg d.val 0) → (dom s d.val).st = .sleep →
    (dom s d.val).wakeAt ≠ some s.aclk → bits v 0 2 = 2 →
    ∃ t, exec (.powerDeepen (.mgmt g) d v) s = .next t ∧ AnsweredOk t g ∧ (dom t d.val).st = .deep ∧
      (dom t d.val).deepEn = (rd s (pwrReg d.val 0x10)).toNat ∧ (∀ e, e ≠ d.val → dom t e = dom s e) ∧
      RegsBut [pwrReg d.val 0] s t ∧ Touches [.regs, .gws, .doms, .sec, .resp] s t) ∧
  (∀ (d : Fin 53) (v : Word) (s : State), MgmtServes s (pwrReg d.val 0) → (dom s d.val).wakeAt ≠ some s.aclk →
    ((dom s d.val).st = .sleep ∨ (dom s d.val).st = .deep →
      ∃ t, exec (.powerUp (.mgmt g) d v) s = .next t ∧ AnsweredOk t g ∧ (dom t d.val).st = .waking ∧ (dom t d.val).lastWake = 1 ∧
        (dom t d.val).since = s.aclk ∧ rdF t (pwrReg d.val 4) 16 8 = satAdd 255 (rdF s (pwrReg d.val 4) 16 8) 1 ∧
        (∀ e, e ≠ d.val → dom t e = dom s e) ∧ RegsBut [pwrReg d.val 0, pwrReg d.val 4] s t ∧ Touches [.regs, .links, .doms, .tel, .resp] s t) ∧
    ((dom s d.val).st = .off →
      ∃ t, exec (.powerUp (.mgmt g) d v) s = .next t ∧ AnsweredOk t g ∧ (dom t d.val).st = .reset ∧ (dom t d.val).target = .run ∧
        (∀ e, e ≠ d.val → dom t e = dom s e) ∧ RegsBut [pwrReg d.val 0] s t ∧ Touches [.regs, .doms, .resp] s t))

/-- R365: FORCE OFF takes a field or an edge band from RUN, SLEEP or DEEP to OFF at once: its registers read their reset
values again, and its routers, packet units, combine units, ports, link ends and what they send and receive are as after reset; other
domains keep their registers. FORCE takes the service group OFF in the same way, through the always-on path: its registers, the fault
collection, the mirrored registers and the security unit but for its lockout (R417) are as after reset. -/
def Sys2Proof.Claim.ForceOffLosesDomain : Prop :=
  ∀ g : Fin 32,
  (∀ (v : Word) (s : State), s.held = [] → (dom s 52).wakeAt ≠ some s.aclk →
    ((dom s 52).st = .run ∨ (dom s 52).st = .sleep ∨ (dom s 52).st = .deep) →
    ∃ t, exec (.forceOff (.mgmt g) 52 v) s = .next t ∧ AnsweredOk t g ∧ (dom t 52).st = .off ∧
      (∀ k, keyDom k = 52 → rd t k = resetOf k) ∧ t.flt = Flt.init ∧ t.mirror = [] ∧ t.bar = [] ∧
      t.sec = { Sec.init with
        locked := s.sec.locked, lockFrom := s.sec.lockFrom, lockLen := s.sec.lockLen, lockouts := s.sec.lockouts } ∧
      (∀ k, keyDom k ≠ 52 → k ≠ pwrReg 52 0 → rd t k = rd s k) ∧ (∀ e, e ≠ 52 → dom t e = dom s e) ∧
      Touches [.regs, .mer, .flt, .tel, .sec, .bar, .mirror, .doms, .clks, .resp] s t) ∧
  ∀ (d : Fin 53) (v : Word) (s : State), d.val < 52 → MgmtServes s (pwrReg d.val 0) → (dom s d.val).wakeAt ≠ some s.aclk →
    ((dom s d.val).st = .run ∨ (dom s d.val).st = .sleep ∨ (dom s d.val).st = .deep) →
    ∃ t, exec (.forceOff (.mgmt g) d v) s = .next t ∧ AnsweredOk t g ∧ (dom t d.val).st = .off ∧
      (∀ k, keyDom k = d.val → isRemap k = false → rd t k = resetOf k) ∧
      (∀ c : Cell, c.field = d.val → router t c = Router.init ∧ punit t (.ni c) = PUnit.init ∧ cmb t c = Cmb.init) ∧
      (∀ h : GwId, h.dom = d.val → punit t (.gw h) = PUnit.init ∧ gw t h = Gw.init) ∧
      (∀ e : EndRef, e.dom = d.val → link t e = LinkEnd.initOf e ∧ rxEnd t e = RxEnd.init ∧ txEnd t e = TxEnd.init) ∧
      (∀ k, keyDom k ≠ d.val → k ≠ pwrReg d.val 0 → rd t k = rd s k) ∧ (∀ e, e ≠ d.val → dom t e = dom s e) ∧
      Touches [.regs, .links, .routers, .units, .rx, .tx, .cmbs, .gws, .doms, .tel, .warm, .resp] s t

/-! ## Held, broadcast and failed accesses (R363, R366, R427, R429, R431) -/

/-- R366: an access to a register of a domain in SLEEP is held and wakes the domain, LAST_WAKE = configuration. -/
def Sys2Proof.Claim.ConfigAccessWakes : Prop :=
  ∀ g : Fin 32,
  ∀ (a : CfgAddr) (wr : Bool) (v : Word) (s : State), (dom s 52).st = .run → s.held = [] → a.domain.val < 52 →
    (rowOf a.key).isSome = true → isRemap a.key = false → (dom s a.domain.val).st = .sleep →
    ∃ t, exec (.wakeConfig (.mgmt g) a wr v) s = .next t ∧ t.held = [{ accOf (.mgmt g) a.key wr v with ok := true }] ∧
      (dom t a.domain.val).st = .waking ∧ (dom t a.domain.val).lastWake = 3 ∧ t.resp = s.resp ∧
      (∀ e, e ≠ a.domain.val → dom t e = dom s e) ∧
      RegsBut [pwrReg a.domain.val 4] s t ∧ Touches [.regs, .links, .doms, .tel, .held] s t

/-- R427: a broadcast write, here of CELL_EPOCH of one logical cell in every field that CFG_BCAST_FMASK selects, all of
them in RUN, is done in each of them and in no other, and answered once. -/
def Obligations.BroadcastReachesFields : Prop :=
  ∀ g : Fin 32,
  ∀ (cell : Fin 2048) (v : Word) (s : State), cell.val < 1200 → (dom s 52).st = .run → s.held = [] →
    (∀ f, f < 48 → bit (rd s (svcReg 0 (if f < 32 then 0x28 else 0x2C))) (f % 32) = true → (dom s f).st = .run) →
    ∃ t, exec (.broadcastWrite (.mgmt g) cell 1 0 v) s = .next t ∧ AnsweredOk t g ∧
      (∀ f, f < 48 → rdF t (regKey f cell.val 1 0) 0 2 =
        if bit (rd s (svcReg 0 (if f < 32 then 0x28 else 0x2C))) (f % 32) then bits v 0 2 else rdF s (regKey f cell.val 1 0) 0 2) ∧
      RegsBut ((List.range 48).map (fun f => regKey f cell.val 1 0)) s t ∧ Touches [.regs, .resp] s t

/-- R429: a read whose register's domain leaves it unanswered ends with the error response: cause TIMEOUT, counted, with LATE set if its answer
still comes, and recorded with its place. R431: a read that the configuration network spoils on its way ends so with cause NETWORK, and a corrected
error is counted and does no harm. -/
def Sys2Proof.Claim.ConfigNetworkFailures : Prop :=
  ∀ g : Fin 32,
  ∀ (a : CfgAddr) (v : Word) (hit : BitVec 54) (s : State), MgmtServes s a.key → hit.getLsbD a.domain.val = true →
    (∀ late, ∃ t, exec (.configTimeout (.mgmt g) a false v hit late) s = .next t ∧ respOf t g.val = ⟨2, 3, 0⟩ ∧
      (a.key ≠ svcReg 0 0x18 → rdF t (svcReg 0 0x18) 16 8 = satAdd 255 (rdF s (svcReg 0 0x18) 16 8) 1 ∧
        bit (rd t (svcReg 0 0x18)) 2 = true ∧ (late = true → bit (rd t (svcReg 0 0x18)) 4 = true)) ∧
      rdF t (svcReg 0 0x18) 8 3 = 3 ∧ rdF t (svcReg 0 0x1C) 0 6 = a.domain.val ∧ rdF t (svcReg 0 0x1C) 6 11 = a.cell.val ∧
      rd t (svcReg 0 0x20) = BitVec.ofNat 32 a.off.val ∧
      t.freeCtr = s.freeCtr + 1 ∧ t.held = [] ∧ Touches [.regs, .units, .gws, .flt, .resp, .errAt, .freeCtr] s t) ∧
    (∃ t, exec (.configNetworkError (.mgmt g) a false v hit true false) s = .next t ∧ respOf t g.val = ⟨2, 4, 0⟩ ∧
      rdF t (svcReg 0 0x24) 16 8 = satAdd 255 (rdF s (svcReg 0 0x24) 16 8) 1 ∧ bit (rd t (svcReg 0 0x18)) 3 = true ∧
      rdF t (svcReg 0 0x18) 8 3 = 4 ∧ rd t (svcReg 0 0x20) = BitVec.ofNat 32 a.off.val ∧
      RegsBut [svcReg 0 0x18, svcReg 0 0x1C, svcReg 0 0x20, svcReg 0 0x24] s t ∧ Touches [.regs, .resp, .errAt, .freeCtr] s t) ∧
    (∃ t, exec (.configNetworkError (.mgmt g) a false v hit false false) s = .next t ∧ (respOf t g.val).status = 0 ∧
      (a.key ≠ svcReg 0 0x24 → rdF t (svcReg 0 0x24) 0 16 = satAdd 65535 (rdF s (svcReg 0 0x24) 0 16) 1) ∧
      Touches [.regs, .units, .gws, .flt, .resp] s t)

/-! ## The log, injection and snapshots (R385-R387, R391) -/

/-- R385: a write of FLT_LOG_RD is accepted up to the write count; a value beyond it is ignored, and RD_ERR is set. -/
def Sys2Proof.Claim.LogReadCount : Prop :=
  ∀ g : Fin 32,
  ∀ (v : Word) (s : State), MgmtServes s (fltReg 0x24) →
    ∃ t, exec (.logReadCount (.mgmt g) v) s = .next t ∧ AnsweredOk t g ∧
      (if (v - rd s (fltReg 0x24)).toNat ≤ (rd s (fltReg 0x20) - rd s (fltReg 0x24)).toNat then
        rd t (fltReg 0x24) = v ∧ RegsBut [fltReg 0x24] s t
      else bit (rd t (fltReg 0x28)) 8 = true ∧ RegsBut [fltReg 0x28] s t) ∧
      Touches [.regs, .resp] s t

/-- R386: a read of word 0 of a log slot answers it and copies words 1 to 3 to the hold register, from which the reads of
those words then answer. -/
def Sys2Proof.Claim.LogSlotReadHolds : Prop :=
  ∀ g : Fin 32,
  ∀ (slot : Fin 64) (s : State), MgmtServes s (fltReg (0x1000 + 0x10 * slot.val)) →
    ∃ t, exec (.logSlotRead (.mgmt g) slot) s = .next t ∧
      respOf t g.val = ⟨0, 0, rd s (fltReg (0x1000 + 0x10 * slot.val))⟩ ∧
      (∀ i, i < 3 → logHold t (fltReg (0x1004 + 0x10 * slot.val + 4 * i)) = some (rd s (fltReg (0x1004 + 0x10 * slot.val + 4 * i)))) ∧
      t.flt.pend = s.flt.pend ∧ t.flt.top = s.flt.top ∧ RegsBut [] s t ∧ Touches [.flt, .resp] s t

/-- R387: FLT_INJ_CTRL.GO arms one injection at level FACTORY (3), and is denied at any other. R391: GO of a
snapshot takes the next ID and makes every domain that has its counters due; while BUSY it is refused. -/
def Sys2Proof.Claim.InjectionAndSnapshotGo : Prop :=
  ∀ g : Fin 32,
  (∀ (v : Word) (s : State), MgmtServes s (fltReg 0x34) → bit v 9 = false →
    ∃ t, exec (.faultInjectGo (.mgmt g) v) s = .next t ∧ AnsweredOk t g ∧
      (if s.sec.level = 3 then t.flt.inj = true ∧ t.flt.tgt = rd s (fltReg 0x30) ∧ bits t.flt.ctl 0 5 = bits v 0 5
      else t.flt = s.flt ∧ bit (rd t (fltReg 0x34)) 9 = true) ∧
      t.flt.pend = s.flt.pend ∧ RegsBut [fltReg 0x34] s t ∧ Touches [.regs, .flt, .resp] s t) ∧
  (∀ (v : Word) (s : State), MgmtServes s (snapReg 0) → bit v 2 = false →
    ∃ t, exec (.snapshotGo (.mgmt g) v) s = .next t ∧ AnsweredOk t g ∧
      (if s.tel.busy then t.tel = s.tel ∧ bit (rd t (snapReg 0)) 2 = true
      else t.tel.busy = true ∧ t.tel.id = (s.tel.id + 1) % 65536 ∧ t.tel.ts = (dom s 52).mer.vis + 2000 * 65536 ∧
        t.tel.live = s.tel.live ∧ t.tel.snap = s.tel.snap ∧
        (∀ d, d < 52 → ((d ∈ t.tel.todo ∨ d + 64 ∈ t.tel.todo) ↔ ((dom s d).st ≠ .off ∧ (dom s d).st ≠ .reset)))) ∧
      RegsBut [snapReg 0, snapReg 4, snapReg 8, snapReg 12] s t ∧ Touches [.regs, .tel, .resp] s t)

/-! ## Debug unlock (R407, R409, R411) -/

/-- R407: a REQUEST by the management port that passes every check draws a nonce and sets BUSY for the level and mode
asked, in place of a challenge or a comparison that is running (the model's reading: log entry 115); one that fails a check is ignored
and sets the flag of that check. -/
def Sys2Proof.Claim.DebugRequestChecked : Prop :=
  ∀ g : Fin 32,
  ∀ (v : Word) (healthy : Bool) (s : State), MgmtServes s (secReg 4) → bit v 5 = false → bit v 7 = false →
    ∃ t, exec (.debugRequest (.mgmt g) v healthy) s = .next t ∧ AnsweredOk t g ∧
      (if s.sec.locked = true ∨ bits v 0 2 ≤ s.sec.level ∨ topLevel s < bits v 0 2 ∨ (bit v 6 = false ∧ s.fuses.keyOk = false) then
        t.sec = s.sec ∧ bit (rd t (secReg 0xC)) 4 = true
      else if bit v 6 = true ∧ (s.fuses.life ≠ 0 ∨ s.fuses.pwdOk = false) then t.sec = s.sec ∧ bit (rd t (secReg 0xC)) 6 = true
      else if healthy = false then t.sec = s.sec ∧ bit (rd t (secReg 0xC)) 3 = true
      else t.sec.busy = .nonce ∧ t.sec.pend = bits v 0 2 ∧ t.sec.owner = 0 ∧ t.sec.mode = bits v 6 1 ∧ t.sec.chal = false ∧
        t.sec.level = s.sec.level ∧ t.sec.fails = s.sec.fails) ∧
      RegsBut [secReg 4, secReg 0xC] s t ∧ Touches [.regs, .sec, .freeCtr, .resp] s t

/-- R409: a VERIFY by OWNER with a challenge outstanding starts the comparison; by another, or without a challenge, it is
ignored and sets its flag. One by OWNER while a comparison runs changes nothing and sets no flag, the model's choice (log entry 168).
R411: RELOCK lowers the level at once, to the smaller of the present one and LEVEL, and ends
any challenge; a test instruction that acts does so until the next Capture-DR. -/
def Sys2Proof.Claim.DebugVerifyAndRelock : Prop :=
  ∀ g : Fin 32,
  (∀ (v : Word) (s : State), MgmtServes s (secReg 4) → bit v 4 = false → bit v 7 = false →
    ∃ t, exec (.debugVerify (.mgmt g) v) s = .next t ∧ AnsweredOk t g ∧
      (if s.sec.owner ≠ 0 then t.sec = s.sec ∧ bit (rd t (secReg 0xC)) 4 = true
      else if s.sec.chal = false then t.sec = s.sec ∧ bit (rd t (secReg 0xC)) 5 = true
      else if s.sec.busy = .idle then t.sec = { s.sec with busy := .verify, busyAt := (clk s 56).cyc }
      else t.sec = s.sec) ∧
      RegsBut [secReg 4, secReg 0xC] s t ∧ Touches [.regs, .sec, .resp] s t) ∧
  (∀ (v : Word) (s : State), MgmtServes s (secReg 4) → bit v 4 = false → bit v 5 = false →
    ∃ t, exec (.debugRelock (.mgmt g) v) s = .next t ∧ AnsweredOk t g ∧ t.sec.level = min s.sec.level (bits v 0 2) ∧
      t.sec.chal = false ∧ t.sec.nonce = 0 ∧ t.sec.busy = .idle ∧ t.sec.fails = s.sec.fails ∧ t.sec.locked = s.sec.locked ∧
      (min s.sec.level (bits v 0 2) < 3 → t.flt.inj = false) ∧ t.tap = { s.tap with lag := s.tap.lag || tapIr s == s.tap.ir } ∧
      RegsBut [secReg 4] s t ∧ Touches [.regs, .flt, .sec, .tap, .resp] s t)

/-- R434: CFG_BOOT.OPT_GO releases the optical links: each that is DOWN goes to DISABLED if its DISABLE is set, and starts its
lane test if it is clocked and DISABLE is clear. -/
def Sys2Proof.Claim.OpticalGo : Prop :=
  ∀ g : Fin 32,
  ∀ (v : Word) (s : State), MgmtServes s (svcReg 0 0x10) → s.boot.optGo = false →
    ∃ t, exec (.optGo (.mgmt g) v) s = .next t ∧ AnsweredOk t g ∧ t.boot = { s.boot with optGo := true } ∧
      (∀ o : OptId, (opt t o).st =
        if (opt s o).st = .down ∧ bit (rd s (optReg o 0)) 1 = true then .disabled
        else if (opt s o).st = .down ∧ clocked s (48 + o.side.val) = true then .laneTest
        else (opt s o).st) ∧
      Touches [.regs, .links, .units, .rx, .tx, .cmbs, .gws, .flt, .tel, .boot, .resp] s t

/-! ## Power events (R361, R362, R364, R366, R367, R369) -/

/-- R361: a drain at QUIESCE whose domain has quiesced goes on to CLOSE, one at CLOSE that has drained to GATE; else it
stays where it is. Nothing but the domain's phase and its beginning changes. That quarantined entries do not hold QUIESCE, nor IDLE
and TRAIN flits CLOSE, is the model's reading (log entries 102 and 103). -/
def Sys2Proof.Claim.DrainPhases : Prop :=
  (∀ (d : Fin 53) (s : State), ∃ t, exec (.quiesceEnd d) s = .next t ∧
    dom t d.val = (if (dom s d.val).st = .draining ∧ (dom s d.val).phase = 0 ∧ quiesced s d.val = true then
      { dom s d.val with phase := 1, since := s.aclk } else dom s d.val) ∧
    (∀ e, e ≠ d.val → dom t e = dom s e) ∧ Touches [.doms] s t) ∧
  (∀ (d : Fin 53) (s : State), s.held = [] → ∃ t, exec (.closeEnd d) s = .next t ∧
    dom t d.val = (if (dom s d.val).st = .draining ∧ (dom s d.val).phase = 1 ∧ drained s d.val = true then
      { dom s d.val with phase := 2, since := s.aclk } else dom s d.val) ∧
    (∀ e, e ≠ d.val → dom t e = dom s e) ∧ Touches [.doms] s t)

/-- R361, R367: 128 ACLK cycles into GATE a drain to SLEEP or DEEP ends there; a wake that came meanwhile is then begun, with its
own LAST_WAKE. One to OFF loses what the field or band holds and ends in OFF, or in RESET where a wake came meanwhile. R362: a drain that passes its limit before GATE goes back to RUN with REASON TIMEOUT, and DRAIN_FAIL
is set. -/
def Sys2Proof.Claim.GateAndDrainTimeout : Prop :=
  (∀ (d : Fin 53) (s : State), s.held = [] → (dom s d.val).st = .draining → (dom s d.val).phase = 2 →
    (dom s d.val).since + 128 ≤ s.aclk → (dom s d.val).target = .sleep ∨ (dom s d.val).target = .deep →
    ∃ t, exec (.gateEnd d) s = .next t ∧
      (dom t d.val).st = (if (dom s d.val).wakePend = 0 then (dom s d.val).target else .waking) ∧
      ((dom s d.val).wakePend ≠ 0 → (dom t d.val).lastWake = (dom s d.val).wakePend ∧
        rdF t (pwrReg d.val 4) 16 8 = satAdd 255 (rdF s (pwrReg d.val 4) 16 8) 1) ∧
      (∀ e, e ≠ d.val → dom t e = dom s e) ∧ RegsBut [pwrReg d.val 4] s t ∧ Touches [.regs, .links, .gws, .doms, .clks, .tel, .sec] s t) ∧
  (∀ (d : Fin 53) (s : State), d.val < 52 → s.held = [] → (dom s d.val).st = .draining → (dom s d.val).phase = 2 →
    (dom s d.val).since + 128 ≤ s.aclk → (dom s d.val).target = .off →
    ∃ t, exec (.gateEnd d) s = .next t ∧
      (dom t d.val).st = (if (dom s d.val).wakePend = 0 then .off else .reset) ∧
      ((dom s d.val).wakePend ≠ 0 → (dom t d.val).lastWake = (dom s d.val).wakePend ∧
        rdF t (pwrReg d.val 4) 16 8 = satAdd 255 (rdF s (pwrReg d.val 4) 16 8) 1) ∧
      (∀ k, keyDom k = d.val → isRemap k = false → rd t k = resetOf k) ∧
      (∀ c : Cell, c.field = d.val → router t c = Router.init ∧ punit t (.ni c) = PUnit.init ∧ cmb t c = Cmb.init) ∧
      (∀ h : GwId, h.dom = d.val → punit t (.gw h) = PUnit.init ∧ gw t h = Gw.init) ∧
      (∀ e : EndRef, e.dom = d.val → link t e = LinkEnd.initOf e ∧ rxEnd t e = RxEnd.init ∧ txEnd t e = TxEnd.init) ∧
      (∀ k, keyDom k ≠ d.val → k ≠ pwrReg d.val 4 → rd t k = rd s k) ∧ (∀ e, e ≠ d.val → dom t e = dom s e) ∧
      Touches [.regs, .links, .routers, .units, .rx, .tx, .cmbs, .gws, .doms, .tel, .warm] s t) ∧
  (∀ (d : Fin 53) (s : State), s.held = [] → ∃ t, exec (.drainTimeout d) s = .next t ∧
    (if (dom s d.val).st = .draining ∧ (dom s d.val).phase < 2 ∧
        (dom s d.val).drainFrom + 100 * max 1 (rdF s (aonReg 0 0) 0 20) < s.aclk then
      dom t d.val = { dom s d.val with st := .run, target := .run, phase := 0, wakePend := 0, reason := 5 } ∧
      bit (rd t (pwrReg d.val 4)) 8 = true
    else t = s) ∧
    (∀ e, e ≠ d.val → dom t e = dom s e) ∧ RegsBut [pwrReg d.val 4] s t ∧ Touches [.regs, .doms] s t)

/-- R366, R364: WAKE_IN's rise is counted, sets WAKE_IN and wakes a sleeping service group; its fall, and a level that
stays, do nothing. An enabled wake timer that has run out wakes it and is cleared. A packet that waits for a port of a
sleeping field or band wakes it, those of its neighbours' gateways too (the model's reading: log entry 108). -/
def Sys2Proof.Claim.WakeSources : Prop :=
  (∀ (level : Bool) (s : State), ∃ t, exec (.wakeIn level) s = .next t ∧ t.wakePin = level ∧
    (if level = true ∧ s.wakePin = false then
      rdF t (aonReg 0 8) 8 8 = satAdd 255 (rdF s (aonReg 0 8) 8 8) 1 ∧ bit (rd t (aonReg 0 8)) 1 = true ∧
      ((dom s 52).st = .sleep ∨ (dom s 52).st = .deep → (dom t 52).st = .waking ∧ (dom t 52).lastWake = 4)
    else t = { s with wakePin := level }) ∧
    (∀ d, d ≠ 52 → dom t d = dom s d) ∧ RegsBut [aonReg 0 8, pwrReg 52 4] s t ∧ Touches [.regs, .links, .doms, .tel, .wakePin] s t) ∧
  (∀ s : State, ∃ t, exec .wakeTimer s = .next t ∧
    (if bit (rd s (aonReg 0 4)) 31 = true ∧ rdF s (aonReg 0 4) 0 31 = 0 then
      bit (rd t (aonReg 0 4)) 31 = false ∧
      ((dom s 52).st = .sleep ∨ (dom s 52).st = .deep → (dom t 52).st = .waking ∧ (dom t 52).lastWake = 5)
    else t = s) ∧
    (∀ d, d ≠ 52 → dom t d = dom s d) ∧ RegsBut [aonReg 0 4, pwrReg 52 4] s t ∧ Touches [.regs, .links, .doms, .tel] s t) ∧
  (∀ (d : Fin 53) (c : Cell) (s : State), d.val < 52 → (dom s d.val).st = .sleep ∨ (dom s d.val).st = .deep →
    (routerWaits s d.val || s.units.any (fun u => unitWaits s (unitOfKey u.1) d.val)) = true →
    ∃ t, exec (.wakePacket d) s = .next t ∧ (dom t d.val).st = .waking ∧ (dom t d.val).lastWake = 2 ∧
      (∀ e, e ≠ d.val → dom t e = dom s e) ∧ router t c = router s c ∧
      RegsBut [pwrReg d.val 4] s t ∧ Touches [.regs, .links, .doms, .tel] s t)

/-- R369: a wake whose steps have been done and whose ports are up, or have had their time, ends in RUN. (The model's readings: idle
G ports do not hold it, log entry 155; the times of the PLLs, log entry 99.) R369, R433: a
domain in RESET enters RUN once bring-up is done, unless its remap failed (R23). -/
def Sys2Proof.Claim.DomainsEnterRun : Prop :=
  (∀ (d : Fin 53) (s : State), s.held = [] → ∃ t, exec (.wakeDone d) s = .next t ∧
    (dom t d.val).st = (if wakeReady s d.val then .run else (dom s d.val).st) ∧
    (∀ e, e ≠ d.val → (dom t e).st = (dom s e).st) ∧
    Touches [.regs, .links, .units, .rx, .tx, .cmbs, .gws, .doms, .flt, .tel] s t) ∧
  (∀ (d : Fin 53) (s : State), s.held = [] → ∃ t, exec (.resetExit d) s = .next t ∧
    (dom t d.val).st = (if (dom s d.val).st = .reset ∧ s.boot.done = true ∧ (dom s d.val).remapBad = false then .run
      else (dom s d.val).st) ∧
    (∀ e, e ≠ d.val → (dom t e).st = (dom s e).st) ∧
    Touches [.regs, .links, .units, .rx, .tx, .cmbs, .gws, .doms, .mer, .flt, .tel] s t)

/-- R433, R434, R23: the sequencer's steps in order: the fuses are read, the service group enters RUN, then the edge bands, then one
field row after another, but for a domain that misses its bound or a field whose remap is not good, which stays in RESET and
sets FAIL; after the last row DONE is set; a further POWER_ON does nothing. (That the fuses are in force as step 1 begins, and that
a late domain stays in RESET, is log entry 128, DEDUCED.) -/
def Obligations.BringUpSteps : Prop :=
  ∀ (late : BitVec 53) (s : State) (bad : Nat → Prop),
    (∀ d, bad d ↔ (late.getLsbD d = true ∨ (dom s d).remapBad = true)) →
    ∃ t, exec (.powerOn late) s = .next t ∧ t.boot.optGo = s.boot.optGo ∧
    (s.boot.step = 0 → t.boot.step = 1 ∧ t.boot.fused = true ∧ (∀ d, d < 48 → (dom t d).st = (dom s d).st ∧
      (dom t d).remapBad = ((dom s d).remapBad || !remapOk s d))) ∧
    (s.boot.step = 1 → t = { s with boot := { s.boot with step := 2 } }) ∧
    (s.boot.step = 2 → t.boot.step = 3 ∧ (bad 52 → dom t 52 = dom s 52 ∧ t.boot.fail = true) ∧
      (¬ bad 52 → (dom t 52).st = .run ∧ t.boot.fail = s.boot.fail) ∧ (∀ d, d ≠ 52 → dom t d = dom s d)) ∧
    (s.boot.step = 3 → t.boot.step = 4 ∧
      (∀ d, 48 ≤ d → d < 52 → (bad d → (dom t d).st = (dom s d).st ∧ t.boot.fail = true) ∧ (¬ bad d → (dom t d).st = .run)) ∧
      (∀ d, d < 48 → dom t d = dom s d)) ∧
    (s.boot.step = 4 → s.boot.row < 8 →
      (if s.boot.row < 7 then t.boot.row = s.boot.row + 1 ∧ t.boot.step = 4 ∧ t.boot.done = s.boot.done
      else t.boot.step = 5 ∧ t.boot.done = true) ∧
      (∀ d, d / 6 = s.boot.row → (bad d → (dom t d).st = (dom s d).st ∧ t.boot.fail = true) ∧ (¬ bad d → (dom t d).st = .run)) ∧
      (∀ d, d / 6 ≠ s.boot.row → dom t d = dom s d)) ∧
    (5 ≤ s.boot.step → t = s) ∧
    Touches [.regs, .links, .units, .rx, .tx, .cmbs, .gws, .doms, .mer, .flt, .tel, .boot] s t

/-! ## Clock events (R329, R347, R348, R372) -/

/-- R347, R372: a PLL whose reference is lost coasts: COAST_SEEN is set and its copy of time loses VALID (that LOCKED reads 0
while it coasts is log entry 98, DEDUCED). It leaves coast where a
RELOCK is in progress and it locks again. R348: the reference's return shows at once. R329: the loss of MCLK's reference also
clears LOCK and sets MCLK_LOST. -/
def Sys2Proof.Claim.PllEvents : Prop :=
  (∀ (k : Fin 60) (s : State), k.val ≠ 54 → hasPll k.val = true → (clk s k.val).srcOk = true → (clk s k.val).coast = true →
    ∃ t, exec (.pllCoast k) s = .next t ∧ clk t k.val = { clk s k.val with srcOk := false, relocking := false } ∧
      (∀ j, j ≠ k.val → clk t j = clk s j) ∧ Touches [.clks] s t) ∧
  (∀ (k : Fin 60) (s : State), k.val ≠ 54 → hasPll k.val = true → (clk s k.val).srcOk = true → (clk s k.val).coast = false →
    ∃ t, exec (.pllCoast k) s = .next t ∧
      clk t k.val = { clk s k.val with srcOk := false, locked := false, coast := true, relocking := false, coastAt := (clk s k.val).cyc } ∧
      bit (rd t (clkReg k.val 0)) 3 = true ∧ (k.val ≤ 52 → (dom t k.val).mer.valid = false ∧ (dom t k.val).mer.pulses = 0) ∧
      (∀ j, j ≠ k.val → clk t j = clk s j ∧ dom t j = dom s j) ∧ RegsBut [clkReg k.val 0] s t ∧ Touches [.regs, .doms, .clks] s t) ∧
  (∀ s : State, (clk s 54).srcOk = true →
    ∃ t, exec .mclkLost s = .next t ∧ (clk t 54).srcOk = false ∧ (clk t 54).coast = true ∧
      bit (rd t (merReg 0)) 0 = false ∧ bit (rd t (merReg 4)) 1 = true ∧ t.mer = { s.mer with cleared := true } ∧
      RegsBut [clkReg 54 0, merReg 0, merReg 4] s t ∧ Touches [.regs, .doms, .clks, .mer] s t) ∧
  (∀ (k : Fin 60) (s : State), ∃ t, exec (.pllRelocked k) s = .next t ∧
      (if (clk s k.val).relocking then
        clk t k.val = { clk s k.val with
          coast := false, locked := true, relocking := false,
          coastAt := if (clk s k.val).coast then (clk s k.val).cyc else (clk s k.val).coastAt } ∧
        (k.val ≤ 52 → (clk s k.val).coast = true → (dom t k.val).mer.valid = false)
      else t = s) ∧
      (∀ j, j ≠ k.val → clk t j = clk s j ∧ dom t j = dom s j) ∧ RegsBut [] s t ∧ Touches [.doms, .clks] s t) ∧
  (∀ (k : Fin 60) (s : State), hasPll k.val = true →
    ∃ t, exec (.pllReferenceReturn k) s = .next t ∧ clk t k.val = { clk s k.val with srcOk := true } ∧
      (∀ j, j ≠ k.val → clk t j = clk s j) ∧ Touches [.clks] s t)

/-- R372: at the end of a measuring window CLK_MEAS takes the cycles counted, with VALID where the reference was locked and did
not coast in it, and the next window begins; before the end nothing changes. MCLK itself is measured against ACLK. -/
def Sys2Proof.Claim.ClockMeasured : Prop :=
  (∀ (cycles : BitVec 24) (s : State), (clk s 54).measFrom + 100000 ≤ (clk s 55).cyc →
    ∃ t, exec (.clkMeasWindow 54 cycles) s = .next t ∧ rdF t (clkReg 54 8) 0 24 = cycles.toNat ∧
      bit (rd t (clkReg 54 8)) 31 = true ∧ clk t 54 = { clk s 54 with measFrom := (clk s 55).cyc } ∧
      RegsBut [clkReg 54 8] s t ∧ Touches [.regs, .clks] s t) ∧
  ∀ (k : Fin 60) (cycles : BitVec 24) (s : State), k.val ≠ 54 → clkRun s 54 = true →
    ∃ t, exec (.clkMeasWindow k cycles) s = .next t ∧
      (if (clk s k.val).measFrom + 1000000 ≤ (clk s 54).cyc then
        rdF t (clkReg k.val 8) 0 24 = cycles.toNat ∧
        bit (rd t (clkReg k.val 8)) 31 =
          (pllLocked s 54 && !(clk s 54).coast && decide ((clk s 54).coastAt ≤ (clk s k.val).measFrom)) ∧
        clk t k.val = { clk s k.val with measFrom := (clk s 54).cyc } ∧ RegsBut [clkReg k.val 8] s t
      else t = s) ∧ Touches [.regs, .clks] s t

/-! ## Time events (R329, R331, R333, R335) -/

/-- R329: a master that has been LOCKed for HOLDOVER milliseconds without a write that renews it loses LOCK, and HOLD_EXP is
set; with HOLDOVER = 0, and before, nothing changes. (That it expires only where LOCK is set is log entry 91, DEDUCED.) -/
def Sys2Proof.Claim.HoldoverExpires : Prop :=
  ∀ s : State, ∃ t, exec .holdoverExpire s = .next t ∧
    (if rdF s (merReg 0) 16 16 ≠ 0 ∧ bit (rd s (merReg 0)) 0 = true ∧ clkRun s 54 = true ∧
        s.mer.holdFrom + rdF s (merReg 0) 16 16 * 1000000 ≤ (clk s 54).cyc then
      bit (rd t (merReg 0)) 0 = false ∧ bit (rd t (merReg 4)) 2 = true ∧ t.mer = { s.mer with cleared := true }
    else t = s) ∧
    RegsBut [merReg 0, merReg 4] s t ∧ Touches [.regs, .mer] s t

/-- R331, R332: an event of an enabled input at least 8 MCLK cycles after its last one is captured with the master's time less the
input's delays (where that is not below zero: there the spec gives no value, log entry 5), its tag (0 for PPS_IN) and UNSYNC, after the captures before it but before those of the same cycle of higher inputs; the queue keeps 16, and
one beyond them waits for a pop of the same cycle. An event less than 8 cycles after its input's last is lost and counted in
TSQ_OVF; one of an input that is not enabled does nothing. -/
def Sys2Proof.Claim.TimestampCaptured : Prop :=
  ∀ (src : Fin 3) (tag : Fin 16) (s : State), clkRun s 54 = true → s.mer.lastEv.length = 3 →
    ∃ t, exec (.timestampCapture src tag) s = .next t ∧
      (bit (rd s (merReg 0x40)) src.val = false → t = s) ∧
      (bit (rd s (merReg 0x40)) src.val = true →
        (match lget s.mer.lastEv src.val none with
         | some c => c + 8 ≤ (clk s 54).cyc
         | none => True) →
        lget t.mer.lastEv src.val none = some (clk s 54).cyc ∧
        (∃ x : Capture, x.cyc = (clk s 54).cyc ∧ x.src = src.val ∧ x.tag = (if src.val = 2 then 0 else tag.val) ∧
          x.unsync = !bit (rd s (merReg 0)) 0 ∧
          (∀ n, n = 65536 * (2 + (if src.val = 2 then rdF s (merReg 0x44) 8 8 else rdF s (merReg 0x44) 0 8)) →
            n ≤ s.mer.cnt / 2 ^ 24 → x.t = s.mer.cnt / 2 ^ 24 - n) ∧
          t.mer.queue = (capInsert (s.mer.queue ++ s.mer.late) x).take 16 ∧
          t.mer.late = (capInsert (s.mer.queue ++ s.mer.late) x).drop 16 ∧
          ((∀ y, y ∈ s.mer.queue ++ s.mer.late → y.cyc ≠ x.cyc ∨ y.src ≤ x.src) →
            capInsert (s.mer.queue ++ s.mer.late) x = s.mer.queue ++ s.mer.late ++ [x])) ∧
        RegsBut [] s t) ∧
      (∀ c, bit (rd s (merReg 0x40)) src.val = true → lget s.mer.lastEv src.val none = some c → (clk s 54).cyc < c + 8 →
        t.mer = s.mer ∧ rdF t (merReg 4) 16 8 = satAdd 255 (rdF s (merReg 4) 16 8) 1) ∧
      t.mer.cnt = s.mer.cnt ∧ RegsBut [merReg 4] s t ∧ Touches [.regs, .mer, .freeCtr] s t

/-- R333: a PPS_OUT pulse that is due rises and ends PPS_WIDTH microseconds (0 acts as 1) after its second began. -/
def Sys2Proof.Claim.PpsOutPulses : Prop :=
  (∀ s : State, ∃ t, exec .ppsOutPulse s = .next t ∧
    (if s.mer.ppsDue then t.mer.ppsHigh = true ∧ t.mer.ppsDue = false ∧
      t.mer.ppsEnd = s.mer.ppsAt + 1000 * max 1 (rdF s (merReg 0) 8 8) else t = s) ∧
    t.mer.cnt = s.mer.cnt ∧ Touches [.mer] s t) ∧
  (∀ s : State, ∃ t, exec .ppsPulseEnd s = .next t ∧
    t.mer.ppsHigh = (s.mer.ppsHigh && !decide (s.mer.ppsEnd ≤ (clk s 54).cyc)) ∧ t.mer.cnt = s.mer.cnt ∧ Touches [.mer] s t)

/-- R335: the master's pulse at a whole microsecond leaves for every copy whose clock runs, with the master's UNSYNC and STEPPED,
and is taken in the cycle it arrives in (how long it flies is the value of its fuse: log entry 89, DEDUCED). It never turns a
copy's time back but where it is STEPPED; the next pulse is due a microsecond later. A copy that has missed a pulse loses VALID. -/
def Sys2Proof.Claim.TimePulseReachesCopies : Prop :=
  (∀ s : State, clkRun s 53 = true → clkRun s 54 = true → s.mer.pulseX * (1000 * 2 ^ 40) ≤ s.mer.cnt →
    ∃ t, exec .timePulse s = .next t ∧ t.mer.stepped = false ∧ t.mer.pulseX = s.mer.cnt / (1000 * 2 ^ 40) + 1 ∧
      t.mer.cnt = s.mer.cnt ∧
      (∀ d, d < 53 → if timeRun s d then
          (∀ n, n = pulseArrives s d (s.mer.cnt % (1000 * 2 ^ 40)) →
            if n ≤ (dom s d).ticks then (dom t d).mer.unsync = !bit (rd s (merReg 0)) 0 ∧
              1 ≤ (dom t d).mer.pulses ∧ (dom t d).mer.pulses ≤ 2
            else ⟨s.mer.cnt / (1000 * 2 ^ 40), n, !bit (rd s (merReg 0)) 0, s.mer.stepped⟩ ∈ (dom t d).mer.flight) ∧
          (s.mer.stepped = false → (∀ p, p ∈ (dom s d).mer.flight → p.stepped = false) → (dom s d).mer.vis ≤ (dom t d).mer.vis)
        else dom t d = dom s d) ∧
      (∀ d, (dom t d).st = (dom s d).st) ∧ Touches [.doms, .mer] s t) ∧
  (∀ (k : Fin 53) (s : State), ∃ t, exec (.pulseMissing k) s = .next t ∧
    (if timeRun s k.val = true ∧ 1 ≤ (dom s k.val).mer.pulses ∧ (dom s k.val).mer.at_ + 2 * perUs k.val < (dom s k.val).ticks then
      (dom t k.val).mer = { (dom s k.val).mer with valid := false, pulses := 0 } else t = s) ∧
    (∀ e, e ≠ k.val → dom t e = dom s e) ∧ Touches [.doms] s t)

/-! ## Fault reports, the log, telemetry (R374-R377, R381, R385, R387, R391) -/

/-- R374, R375, R376, R379: an error pin that rises, one of those of its class in its cell (one per block that owns it), sets its
status bit (unless its class is MASKED) and queues a report, at most 16 per collector; a further one is lost and counted in
OVF_CNT. A pin that is not high, or was reported since it rose, reports nothing. -/
def Sys2Proof.Claim.ErrorPinReported : Prop :=
  ∀ (d : Fin 53) (cell : Fin 2048) (cls : Fin 64) (s : State), d.val < 52 → clkRun s 57 = true →
    ∃ t, exec (.errorPinRise d cell cls) s = .next t ∧
      (if (classPins d.val cls.val).any (fun p => pinLevel s d.val cell.val p && !s.flt.seen.contains (d.val, cell.val, p)) = true then
        (∃ p, p ∈ classPins d.val cls.val ∧ pinLevel s d.val cell.val p = true ∧
          s.flt.seen.contains (d.val, cell.val, p) = false ∧ t.flt.seen.contains (d.val, cell.val, p) = true) ∧
        (sevOf s d.val cls.val ≠ 3 → bit (rd t (colReg d.val (4 * (cls.val / 32)))) (cls.val % 32) = true) ∧
        (if (s.flt.pend.get d.val []).length < 16 then
          t.flt.pend.get d.val [] = s.flt.pend.get d.val [] ++ [⟨d.val, cell.val, cls.val, false⟩]
        else t.flt.pend = s.flt.pend ∧ bit (rd t (colReg d.val 0x28)) 8 = true ∧
          rdF t (colReg d.val 0x28) 16 16 = satAdd 65535 (rdF s (colReg d.val 0x28) 16 16) 1)
      else t.flt.pend = s.flt.pend ∧ RegsBut [] s t) ∧
      (∀ e, e ≠ d.val → t.flt.pend.get e [] = s.flt.pend.get e []) ∧ t.flt.top = s.flt.top ∧
      RegsBut [colReg d.val (4 * (cls.val / 32)), colReg d.val 0x28] s t ∧ Touches [.regs, .flt] s t

/-- R375, R379: the fault unit takes the oldest report of a collector; one CONTAINED or FATAL, and one CORRECTED
where LOG_CE is set, goes to the log. R384, R385: the log's next entry, its number, the time, UNSYNC and what was reported, is
written at WR, which advances; into a full log it overwrites the oldest, RD advances and LOST counts. -/
def Sys2Proof.Claim.ReportsReachLog : Prop :=
  (∀ (d : Fin 53) (s : State) (r : Report) (q : List Report), clkRun s 57 = true → s.flt.pend.find d.val = some (r :: q) →
    ∃ t, exec (.reportAccept d) s = .next t ∧ t.flt.pend.get d.val [] = q ∧
      (∀ e, e ≠ d.val → t.flt.pend.get e [] = s.flt.pend.get e []) ∧
      (if sevOf s r.d r.cls = 1 ∨ sevOf s r.d r.cls = 2 ∨ (sevOf s r.d r.cls = 0 ∧ bit (rd s (fltReg 0x14)) 0 = true) then
        ∃ first loc, t.flt.top = s.flt.top ++ [⟨r, sevOf s r.d r.cls, first, loc⟩] else t.flt.top = s.flt.top) ∧
      (sevOf s r.d r.cls = 2 → bit (rd t (fltReg 8)) 0 = true) ∧
      RegsBut [colReg r.d 0x20, fltReg 8, fltReg 0xC] s t ∧ Touches [.regs, .flt] s t) ∧
  (∀ (s : State) (x : TopRep) (q : List TopRep), clkRun s 57 = true → x.rep.d < 53 → s.flt.top = x :: q →
    ∃ t, exec .logWrite s = .next t ∧ t.flt.top = q ∧ rd t (fltReg 0x20) = rd s (fltReg 0x20) + 1 ∧
      (∀ k, k = fltReg (0x1000 + 0x10 * ((rd s (fltReg 0x20)).toNat % 64)) → rd t k = rd s (fltReg 0x20) ∧
        rdF t (k + 4) 0 30 = (dom s 52).mer.vis / 65536 % 1000000000 ∧
        bit (rd t (k + 4)) 30 = ((dom s 52).mer.unsync || !(dom s 52).mer.valid) ∧
        (rd t (k + 8)).toNat = (dom s 52).mer.vis / 65536 / 1000000000 % 2 ^ 32 ∧
        (rd t (k + 12)).toNat = (x.rep.d + 2 ^ 6 * x.rep.cell + 2 ^ 17 * x.rep.cls + 2 ^ 23 * x.sev +
          2 ^ 25 * b2n (x.first || x.loc) + 2 ^ 26 * b2n x.rep.inj) % 2 ^ 32 ∧
        RegsBut [k, k + 4, k + 8, k + 12, fltReg 0x20, fltReg 0x24, fltReg 0x28, colReg x.rep.d 0x24] s t) ∧
      (if (rd s (fltReg 0x20) - rd s (fltReg 0x24)).toNat = 64 then
        rd t (fltReg 0x24) = rd s (fltReg 0x24) + 1 ∧ rdF t (fltReg 0x28) 16 16 = satAdd 65535 (rdF s (fltReg 0x28) 16 16) 1
      else rd t (fltReg 0x24) = rd s (fltReg 0x24) ∧ rd t (fltReg 0x28) = rd s (fltReg 0x28)) ∧
      t.flt.pend = s.flt.pend ∧ Touches [.regs, .flt] s t)

/-- R387: a pending injection of TYPE 0 enters a report of its class, marked as injected, counts in DONE_CNT and is no longer
pending; with none pending nothing happens, and one of another TYPE waits for the next word, flit, chunk or codeword of its
target. -/
def Sys2Proof.Claim.InjectedReport : Prop :=
  (∀ s : State, s.flt.inj = false → exec .faultInjectFire s = .next s) ∧
  (∀ s : State, bits s.flt.ctl 0 3 ≠ 0 → injCount s s.flt.tgt s.flt.ctl = s.flt.mark → exec .faultInjectFire s = .next s) ∧
  (∀ s : State, s.flt.inj = true → clkRun s 57 = true → bits s.flt.ctl 0 3 = 0 → bits s.flt.tgt 0 6 < 52 →
    (s.flt.pend.get (bits s.flt.tgt 0 6) []).length < 16 →
    ∃ t, exec .faultInjectFire s = .next t ∧ t.flt.inj = false ∧
      t.flt.pend.get (bits s.flt.tgt 0 6) [] = s.flt.pend.get (bits s.flt.tgt 0 6) [] ++
        [⟨bits s.flt.tgt 0 6, bits s.flt.tgt 6 11, bits s.flt.tgt 20 6, true⟩] ∧
      rdF t (fltReg 0x34) 16 8 = satAdd 255 (rdF s (fltReg 0x34) 16 8) 1 ∧ t.flt.top = s.flt.top ∧
      RegsBut [fltReg 0x34] s t ∧ Touches [.regs, .flt] s t)

/-- R391, R392: a clocked domain copies all of its live counters at once when its copy of time is VALID and the snapshot's time has
come, or at once with SKEW where the request found that time past or the copy not VALID; BUSY ends 2 microseconds after the
snapshot's time. -/
def Sys2Proof.Claim.SnapshotCopies : Prop :=
  (∀ (d : Fin 52) (s : State) (x : Nat), s.tel.todo.find? (fun y => y % 64 == d.val) = some x → clocked s d.val = true →
    FMap.rising s.tel.live = true →
    ∃ t, exec (.snapshotCopy d) s = .next t ∧
      (if 64 ≤ x ∨ ((dom s d.val).mer.valid = true ∧ s.tel.ts / 65536 ≤ (dom s d.val).mer.vis / 65536) then
        (∀ k, k / 262144 = d.val → t.tel.snap.find k = s.tel.live.find k) ∧
        (∀ k, k / 262144 ≠ d.val → t.tel.snap.find k = s.tel.snap.find k) ∧
        (dom t d.val).snapId = s.tel.id ∧ (dom t d.val).skew = decide (64 ≤ x) ∧
        (∀ y, y ∈ t.tel.todo ↔ (y ∈ s.tel.todo ∧ y % 64 ≠ d.val))
      else t = s) ∧
      t.tel.live = s.tel.live ∧ (∀ e, e ≠ d.val → dom t e = dom s e) ∧ Touches [.doms, .tel] s t) ∧
  (∀ s : State, ∃ t, exec .snapshotBusyEnd s = .next t ∧
    t.tel = { s.tel with busy := s.tel.busy && !decide (s.tel.ts / 65536 + 2000 ≤ (dom s 52).mer.vis / 65536) } ∧ Touches [.tel] s t)

/-! ## Unlock events and the test access port (R402, R405, R409, R415, R416) -/

/-- R407, R409: CHAL is set when the nonce is ready, and ISSUED counts (the moment is log entry 115, DEDUCED); a challenge ends 10 seconds of ACLK after it, its nonce
then reading zero; a lockout ends when its seconds have passed. -/
def Sys2Proof.Claim.ChallengeAndLockout : Prop :=
  (∀ s : State, ∃ t, exec .challengeReady s = .next t ∧
    t.sec = (if s.sec.busy = .nonce ∧ clkRun s 56 = true then
      { s.sec with busy := .idle, chal := true, since := s.aclk, issued := (s.sec.issued + 1) % 65536 } else s.sec) ∧ Touches [.sec] s t) ∧
  (∀ s : State, ∃ t, exec .challengeExpire s = .next t ∧
    t.sec = (if s.sec.chal = true ∧ s.sec.busy = .idle ∧ s.sec.since + 1000000000 ≤ s.aclk then
      { s.sec with chal := false, nonce := 0 } else s.sec) ∧ Touches [.sec] s t) ∧
  (∀ s : State, s.sec.locked = true → ∃ t, exec .lockoutEnd s = .next t ∧
    t.sec = { s.sec with locked := decide (s.aclk < s.sec.lockFrom + s.sec.lockLen * 100000000) } ∧ Touches [.sec] s t)

/-- R409: after 64 SCLK cycles the comparison ends: the challenge, the nonce and the response are gone. On a match LEVEL is
PEND_LEVEL and FAILS 0; on a mismatch LEVEL stays, AUTH_FAIL is set and FAILS counts; the fourth failure locks out, for 10 s at
first. -/
def Sys2Proof.Claim.VerifyCompares : Prop :=
  ∀ s : State, s.held = [] → s.sec.busy = .verify → s.sec.busyAt + 64 ≤ (clk s 56).cyc →
    ∃ t, exec .verifyDone s = .next t ∧ t.sec.busy = .idle ∧ t.sec.chal = false ∧ t.sec.nonce = 0 ∧ t.sec.resp = [] ∧
      (if secMatch s then t.sec.level = s.sec.pend ∧ t.sec.fails = 0 ∧ t.sec.locked = s.sec.locked ∧ bit (rd t (secReg 0xC)) 2 = true
      else t.sec.level = s.sec.level ∧ bit (rd t (secReg 0xC)) 0 = true ∧
        (if s.sec.fails = 3 then t.sec.fails = 0 ∧ t.sec.locked = true ∧ t.sec.lockFrom = s.aclk ∧
          t.sec.lockouts = min 255 (s.sec.lockouts + 1) ∧ (s.sec.lockouts = 0 → t.sec.lockLen = 10) ∧ bit (rd t (secReg 0xC)) 1 = true
        else t.sec.fails = s.sec.fails + 1 ∧ t.sec.locked = s.sec.locked ∧ t.sec.lockLen = s.sec.lockLen)) ∧
      RegsBut [secReg 0xC] s t ∧ Touches [.regs, .doms, .sec, .levelRise] s t

/-- R415, R416: reset selects the identification instruction, an Update-IR the instruction shifted in, the debug level coming
out. R402, R416: the CFG instruction is denied below level OBSERVE, and a write below level FULL, DENIED being counted; at
OBSERVE it reads and leaves what it reads (R413), at FULL it reads and writes. SEC reads the SEC_ block at every level. A scan with IDCODE shifts the device's identification out, and one with EXTEST loads the
boundary register. -/
def Obligations.TestPort : Prop :=
  (∀ s : State, ∃ t, exec .tapReset s = .next t ∧ t.tap = { s.tap with ir := 1, lag := false } ∧ Touches [.tap] s t) ∧
  (∀ (ir : BitVec 8) (s : State), ∃ t, exec (.tapIrUpdate ir) s = .next t ∧ t.tap = { s.tap with ir := ir.toNat, irOut := 4 * s.sec.level + 1, lag := false } ∧
    Touches [.tap] s t) ∧
  (∀ (dr : BitVec 72) (s : State), s.tap.ir = 0x11 → s.tap.status < 4 → s.tap.status ≠ 1 → (dom s 52).st = .run → s.held = [] →
    (s.sec.level = 0 ∨ (s.sec.level = 1 ∧ bit dr 38 = true)) →
    ∃ t, exec (.tapCfgAccess dr) s = .next t ∧ t.tap.status = 3 ∧ t.tap.ir = s.tap.ir ∧
      t.tap.out = s.tap.data.toNat + 4294967296 * s.tap.status ∧
      bit (rd t (secReg 0xC)) 4 = true ∧ rdF t (secReg 0xC) 16 16 = satAdd 65535 (rdF s (secReg 0xC) 16 16) 1 ∧
      RegsBut [secReg 0xC] s t ∧ Touches [.regs, .tap, .resp] s t) ∧
  (∀ (dr : BitVec 72) (s : State) (k : Nat), s.tap.ir = 0x11 → s.tap.status ≠ 1 → (dom s 52).st = .run → s.held = [] →
    k = bits dr 0 38 → keyDom k < 48 → (rowOf k).isSome = true → targetVerdict s k = .serve →
    (bit dr 38 = false → 1 ≤ s.sec.level → lastTableRead s k = s →
      ∃ t, exec (.tapCfgAccess dr) s = .next t ∧ t.tap.status = 0 ∧ t.tap.data = regValue s k ∧ t.tap.ir = s.tap.ir ∧
        (s.sec.level = 1 → RegsBut [] s t) ∧ RegsBut [k] s t ∧ Touches [.regs, .tap, .resp] s t) ∧
    (∀ c : Cell, bit dr 38 = true → 2 ≤ s.sec.level → k = cellReg c 1 0 →
      ∃ t, exec (.tapCfgAccess dr) s = .next t ∧ t.tap.status = 0 ∧ rdF t k 0 2 = bits dr 39 2 ∧ t.tap.ir = s.tap.ir ∧
        RegsBut [k] s t ∧ Touches [.regs, .tap, .resp] s t)) ∧
  (∀ (dr : BitVec 40) (s : State), s.tap.ir = 0x10 → s.tap.status < 4 → s.tap.status ≠ 1 → (dom s 52).st = .run → s.held = [] → bit dr 6 = false →
    (rowOf (secReg (4 * bits dr 0 6))).isSome = true →
    ∃ t, exec (.tapSecAccess dr) s = .next t ∧ t.tap.status = 0 ∧ t.tap.data = regValue s (secReg (4 * bits dr 0 6)) ∧
      t.sec = s.sec ∧ Touches [.regs, .tap, .resp] s t) ∧
  (∀ (dr : BitVec 40) (s : State), s.tap.ir = 1 →
    exec (.tapSecAccess dr) s = .next { s with tap := { s.tap with out := (0x14D034F5 + dr.toNat * 2 ^ 32) % 2 ^ 40, lag := false } }) ∧
  (∀ (dr : BitVec 40) (s : State), s.tap.ir = 3 → s.sec.level = 3 →
    ∃ t, exec (.tapSecAccess dr) s = .next t ∧ t.tap.bsr = dr.toNat / 2 ^ 27 % 2 ^ 13 ∧ t.tap.ir = 3 ∧
      t.freeCtr = s.freeCtr + 1 ∧ Touches [.tap, .freeCtr] s t)

/-! ## Links (R55, R59, R65-R72, R75) -/

/-- R66: an expected CREDIT flit is taken and its credit returned (R59). A packet flit that is expected joins its input VC
(R58), here behind a header unit that has come already. A sequenced flit that is in error, or not the one expected, is not
taken: the end discards until the expected one comes, and a NAK is due. -/
def Sys2Proof.Claim.FlitReceiveSequence : Prop :=
  (∀ (e : EndRef) (flips : BitVec 568) (s : State) (w : Wire) (d : Decoded) (k : Ctl), effSt s e = some .up →
    InSequence s e flips w d k → k.ty = 2 → k.w = false →
    ∃ t, exec (.flitReceive e flips) s = .next t ∧ Accepted s t e ∧
      (link t e).credits = (if k.crv then lset (link s e).credits k.crvc (lget (link s e).credits k.crvc 0 + 1) else (link s e).credits) ∧
      (∀ f, f.key ≠ e.key → link t f = link s f) ∧ Touches [.links, .units] s t) ∧
  (∀ (c : Cell) (p : Fin 7) (flips : BitVec 568) (s : State) (w : Wire) (d : Decoded) (k : Ctl) (n : Nat),
    effSt s (.router c p) = some .up → InSequence s (.router c p) flips w d k → k.w = false → k.ty = 4 → k.vc < 8 →
    (rport s c p.val).vcs.length = 8 → (vcIn s c p.val k.vc).cur = none → (vcIn s c p.val k.vc).left = some (n + 2) →
    ∃ t, exec (.flitReceive (.router c p) flips) s = .next t ∧ Accepted s t (.router c p) ∧
      (vcIn t c p.val k.vc).q = (vcIn s c p.val k.vc).q ++ [⟨d.payload, false, false, true, 0⟩] ∧
      (vcIn t c p.val k.vc).left = some (n + 1) ∧
      (∀ q v, (q ≠ p.val ∨ v ≠ k.vc) → vcIn t c q v = vcIn s c q v) ∧ (∀ b, b.key ≠ c.key → router t b = router s b) ∧
      RegsBut [cellReg c 0 (0x410 + 4 * p.val)] s t ∧ Touches [.regs, .links, .routers] s t) ∧
  (∀ (e : EndRef) (flips : BitVec 568) (s : State) (w : Wire) (d : Decoded) (k : Ctl), effSt s e = some .up →
    (∀ o, e ≠ .optical o) → arriving s e flips = some (w, d) → d.ctl = some k → isSeq k.ty = true → k.w = false →
    d.crcErr = true ∨ d.bchUe = true ∨ k.seq6 ≠ (link s e).rxExp % 64 →
    ackPos (link s e) 64 k.ack6 = some 0 → k.nak = false →
    ∃ t, exec (.flitReceive e flips) s = .next t ∧ (link t e).rxExp = (link s e).rxExp ∧ (link t e).discard = true ∧
      (link t e).wire = (link s e).wire.tail ∧ (link t e).txSeq = (link s e).txSeq ∧ (link t e).credits = (link s e).credits ∧
      ((link s e).discard = false → (link t e).nak = true) ∧
      (∀ f, f.key ≠ e.key → link t f = link s f) ∧ Touches [.regs, .links, .tel] s t)

/-- R70: at an end in TRAIN a good TRAIN flit counts, the 64th in a row making the end READY, and one in error starts the
count again. R67: each acknowledges the flits that its back channel names. -/
def Sys2Proof.Claim.TrainFlitsCount : Prop :=
  ∀ (e : EndRef) (flips : BitVec 568) (s : State) (w : Wire) (d : Decoded) (k : Ctl), effSt s e = some .train →
    arriving s e flips = some (w, d) → d.ctl = some k → k.ty = 1 → ∀ a, ackPos (link s e) 64 k.ack6 = some a →
    (d.crcErr = false → trainFixed d.payload = true → (link s e).good < 63 → (link s e).ready = false →
      ∃ t, exec (.trainFlitReceive e flips) s = .next t ∧ (link t e).good = (link s e).good + 1 ∧ (link t e).ready = false ∧
        (link t e).st = (link s e).st ∧ (link t e).peerExp = some (bits d.payload 0 12) ∧
        (link t e).peerFree = (List.range 8).map (fun v => bits d.payload (16 + 4 * v) 4) ∧
        (link t e).replay = (link s e).replay.drop a ∧
        (∀ f, f.key ≠ e.key → link t f = link s f) ∧ Touches [.regs, .links, .routers, .tel] s t) ∧
    (d.crcErr = false → trainFixed d.payload = true → 63 ≤ (link s e).good → bit d.payload 12 = false → (link s e).peerReady = false →
      ∃ t, exec (.trainFlitReceive e flips) s = .next t ∧ (link t e).ready = true ∧ (link t e).st = (link s e).st ∧
        (link t e).replay = (link s e).replay.drop a ∧
        (∀ f, f.key ≠ e.key → link t f = link s f) ∧ Touches [.regs, .links, .routers, .tel] s t) ∧
    (d.crcErr = true ∨ trainFixed d.payload = false →
      ∃ t, exec (.trainFlitReceive e flips) s = .next t ∧ (link t e).good = 0 ∧ (link t e).ready = false ∧
        (link t e).st = (link s e).st ∧ (link t e).replay = (link s e).replay.drop a ∧
        (∀ f, f.key ≠ e.key → link t f = link s f) ∧ Touches [.regs, .links, .routers, .tel] s t)

/-- R66: an end that still discards when its NAK timer ends owes a NAK again, and the timeout is flagged. R67, R68: an end
whose oldest flit is not acknowledged in time replays every flit that is not, and fails after more replays from one
position than RETRY_MAX allows. -/
def Sys2Proof.Claim.RetryTimeouts : Prop :=
  (∀ (e : EndRef) (s : State) (x : Nat), (link s e).nakEnd = some x → x ≤ cyc s e.dom → (link s e).discard = true →
    ∃ t, exec (.nakTimeout e) s = .next t ∧ link t e = { link s e with nak := true, nakEnd := none } ∧
      (∀ c p, e = .router c p → bit (rd t (portReg c p.val 8)) 6 = true) ∧
      (∀ f, f.key ≠ e.key → link t f = link s f) ∧ Touches [.regs, .links] s t) ∧
  (∀ (e : EndRef) (s : State) (x : Nat), (∀ o, e ≠ .optical o) → (link s e).ackDue = some x → x ≤ cyc s e.dom →
    (link s e).st.live = true → (link s e).replay ≠ [] → (link s e).tmoAt ≠ some (cyc s e.dom) →
    ∃ t, exec (.ackTimeout e) s = .next t ∧
      (if retryMax s e < (if (link s e).runFrom = some (oldest (link s e)) then (link s e).run + 1 else 1) then
        (link t e).st = .fail ∧ (link t e).resend = 0
      else (link t e).st = .replay ∧ (link t e).resend = (link s e).replay.length ∧
        (link t e).run = (if (link s e).runFrom = some (oldest (link s e)) then (link s e).run + 1 else 1)) ∧
      (link t e).replay = (link s e).replay ∧ (link t e).txSeq = (link s e).txSeq ∧ (link t e).rxExp = (link s e).rxExp ∧
      (∀ c p, e = .router c p → bit (rd t (portReg c p.val 8)) 7 = true) ∧
      (∀ f, f.key ≠ e.key → link t f = link s f) ∧ Touches [.regs, .links] s t)

/-- R69: a port whose far end is no longer clocked is DOWN, with nothing in flight toward it. R113: a port whose clear is
pending is disabled as soon as nothing of another epoch resides there, and no earlier. -/
def Sys2Proof.Claim.PortsGoDown : Prop :=
  (∀ (c : Cell) (p : Fin 7) (f : EndRef) (s : State), (EndRef.router c p).peer = some f →
    ∃ t, exec (.portPeerDown c p) s = .next t ∧
      (if clocked s f.dom then t = s
      else link t (.router c p) = { link s (.router c p) with st := .down, wire := [], resend := 0, ackDue := none, nakEnd := none }) ∧
      (∀ e, e.key ≠ (EndRef.router c p).key → link t e = link s e) ∧ Touches [.links] s t) ∧
  (∀ (c : Cell) (p : Fin 7) (s : State), ∃ t, exec (.portDisableApply c p) s = .next t ∧
    (if (router s c).clr.testBit p.val = true ∧ drainOld s c p.val = 0 then
      (∀ q, (router t c).ena.testBit q = ((router s c).ena.testBit q && decide (q ≠ p.val)) ∧
        (router t c).clr.testBit q = ((router s c).clr.testBit q && decide (q ≠ p.val)))
    else t = s) ∧
    (router t c).ports = (router s c).ports ∧ (∀ b, b.key ≠ c.key → router t b = router s b) ∧ Touches [.routers] s t)

/-- R50, R59, R65, R67, R70: what an end that is not held back sends: TRAIN flits in TRAIN; in a replay the next flit to be
resent; in UP, with nothing granted, the oldest credit due in a CREDIT flit, which takes a number, at a router's output as at an end
of a unit. R63: a router's output in UP whose slot no welt owns sends the flit at the head of the input VC it grants, a response
where any nominates, on the output VC that it holds, and spends a credit; a tail frees the output VC. R65, R145: the end of an NI, a
gateway or a combine unit in UP sends the next data unit of the class it grants, on that class's VC, and spends a credit; the last
frees the VC. -/
def Sys2Proof.Claim.FlitSendChooses : Prop :=
  ∀ (e f : EndRef) (ecc : Ecc) (s : State), (∀ o, e ≠ .optical o) → e.peer = some f → f.key ≠ e.key → holdsBack s e = false →
    slotOwner s e = none →
    (effSt s e = some .train →
      ∃ t x, exec (.flitSend e ecc) s = .next t ∧ (link t f).wire = (link s f).wire ++ [x] ∧
        (∃ k, x.flit = flitWires (trainPayload (link s e)) k ∧ k.ty = 1) ∧ (link t e).txSeq = (link s e).txSeq ∧
        (link t e).replay = (link s e).replay ∧ Touches [.regs, .links, .routers, .tel] s t) ∧
    (∀ r, effSt s e = some .replay → (link s e).st = .replay → nextReplay (link s e) = some r → r.welt = none →
      ∃ t x, exec (.flitSend e ecc) s = .next t ∧ (link t f).wire = (link s f).wire ++ [x] ∧
        (∃ k, x.flit = flitWires r.payload k ∧ k.ty = r.ctl.ty ∧ k.seq6 = r.ctl.seq6) ∧
        (link t e).resend = (link s e).resend - 1 ∧ (link t e).st = (if (link s e).resend ≤ 1 then .up else .replay) ∧
        (link t e).txSeq = (link s e).txSeq ∧ (link t e).replay = (link s e).replay ∧ Touches [.regs, .links, .routers, .tel] s t) ∧
    (∀ v l, effSt s e = some .up → (link s e).resend = 0 → (link s e).replay.length < 32 →
      (∀ c p, e = .router c p → grantOf s c p.val (nomsFor s c p.val) = none) → ((∀ c p, e ≠ .router c p) → unitGrant s e = none) →
      (link s e).crDue = v :: l →
      ∃ t x, exec (.flitSend e ecc) s = .next t ∧ (link t f).wire = (link s f).wire ++ [x] ∧
        (∃ k, x.flit = flitWires 0 k ∧ k.ty = 2 ∧ k.crv = true ∧ k.crvc = v) ∧ (link t e).crDue = l ∧
        Emitted s t e 0 ∧ Touches [.regs, .links, .tel] s t) ∧
    (∀ c p n x u y g l, e = .router c p → ecc = .ok → effSt s e = some .up → (link s e).resend = 0 →
      (link s e).replay.length < 32 → (link s e).credits.length = 8 → (rport s c p.val).holders.length = 8 → n.ovc < 8 → n.i < 7 →
      grantOf s c p.val (nomsFor s c p.val) = some (n, x) → (vcIn s c n.i n.v).q = g :: l → (vcIn s c n.i n.v).cur = some u →
      u.copies.find? (fun z => z.out == p.val) = some y → g.bad = 0 →
      ∃ t z, exec (.flitSend e ecc) s = .next t ∧ (link t f).wire = (link s f).wire ++ [z] ∧
        (∃ k, z.flit = flitWires (if g.head then y.hdr else g.payload) k ∧ k.ty = flitType g.head g.tail ∧ k.vc = n.ovc) ∧
        Emitted s t e (if g.head then y.hdr else g.payload) ∧
        lget (link t e).credits n.ovc 0 = lget (link s e).credits n.ovc 0 - 1 ∧
        (g.tail = true → lget (rport t c p.val).holders n.ovc 0 = 0) ∧
        ((∃ m, m ∈ nomsFor s c p.val ∧ m.cls = 0) → n.cls = 0) ∧
        (∀ b, b.key ≠ c.key → router t b = router s b) ∧ Touches [.regs, .links, .routers, .units, .tel, .freeCtr] s t) ∧
    (∀ k d z x l, (∀ c p, e ≠ .router c p) → effSt s e = some .up → (link s e).resend = 0 → (link s e).replay.length < 32 →
      (link s e).credits.length = 8 → k < 4 → (txEnd s e).cur.length = 4 → unitGrant s e = some (k, d) →
      lget (txEnd s e).cur k none = some z → z.begun = true → z.left = x :: l → z.pkt.ctx = none → (l = [] → z.pkt.port = 0) →
      ∃ t w, exec (.flitSend e ecc) s = .next t ∧ (link t f).wire = (link s f).wire ++ [w] ∧
        (∃ q, w.flit = flitWires x q ∧ q.ty = (if l = [] then 6 else 4) ∧ q.vc = 2 * k) ∧ Emitted s t e x ∧
        lget (link t e).credits (2 * k) 0 = lget (link s e).credits (2 * k) 0 - 1 ∧
        lget (txEnd t e).cur k none = (if l = [] then none else some { z with left := l }) ∧
        (∀ j, j ≠ k → lget (txEnd t e).cur j none = lget (txEnd s e).cur j none) ∧
        (txEnd t e).queue = (txEnd s e).queue ∧ Touches [.regs, .links, .units, .tx] s t)

/-- R63: the header allocation of an input VC whose unicast packet waits for a free VC of its output, and is that output's
choice, gives it the VC. R81, R145: a packet that holds the RSP VC of an end of an NI or of a gateway goes on: its next data unit is
sent on its VC and spends a credit, and its last frees the VC. R81, R94, R145: a response that waits at an NI or at a gateway takes the
VC, with the path that its pick gives, and its header unit is sent with that route, the epoch, and the time and the cell stamped as
it goes. The end holds nothing else that may start. -/
def Sys2Proof.Claim.AllocationAndInjection : Prop :=
  (∀ (c : Cell) (p : Fin 7) (v : Fin 8) (s : State) (u : Cur) (y : Copy), clocked s c.field = true →
    (vcIn s c p.val v.val).cur = some u → u.copies = [y] → y.void = false → y.sent = false → offCopy s c y = false →
    y.want < 8 → claimant s c y.out y.want = some (p.val, v.val) → y.out ≠ p.val →
    (rport s c y.out).holders.length = 8 → (rport s c p.val).vcs.length = 8 →
    ∃ t, exec (.headerAllocate c p v) s = .next t ∧ lget (rport t c y.out).holders y.want 0 = 1 + 8 * p.val + v.val ∧
      (∀ w, w ≠ y.want → lget (rport t c y.out).holders w 0 = lget (rport s c y.out).holders w 0) ∧
      (vcIn t c p.val v.val).cur = some { u with copies := [{ y with ovc := some y.want }] } ∧
      (vcIn t c p.val v.val).q = (vcIn s c p.val v.val).q ∧
      (∀ b, b.key ≠ c.key → router t b = router s b) ∧ RegsBut [] s t ∧ Touches [.regs, .links, .routers] s t) ∧
  (∀ (e : EndRef) (s : State) (z : TxCur) (d : Payload) (l : List Payload), QuietSender s e → (punit s (endUnit e)).resp = [] →
    (txEnd s e).cur = [some z, none, none, none] → z.begun = true → z.left = d :: l → z.pkt.ctx = none →
    ∃ t, exec (.packetInject e) s = .next t ∧ Emitted s t e d ∧
      (txEnd t e).cur = (if l = [] then [none, none, none, none] else [some { z with left := l }, none, none, none]) ∧
      lget (link t e).credits 0 0 = lget (link s e).credits 0 0 - 1 ∧
      (∀ g j, e = .gw g j → t.units = s.units ∧ t.cmbs = s.cmbs) ∧ Touches [.regs, .links, .units, .tx, .cmbs] s t) ∧
  (∀ (e : EndRef) (s : State) (z : TxPkt) (r : List Seg) (sp : FMap (Nat × Nat)) (ow : Option Nat) (u : UnitRef) (c : Cell)
      (h : Payload), QuietSender s e → u = endUnit e → c = endCell e → (∀ f, e.peer = some f → holdsOut s f.dom = false) →
    (∀ g j, e = .gw g j → j.val < gwCount g.kind ∧ z.port = j.val) →
    (∀ d, e = .ni d → destCell s d.field (hDest z.hdr) ≠ waferOf s d.field * 65536 + d.x.val * 256 + d.y.val) →
    (punit s u).resp = [z] → (txEnd s e).cur = [none, none, none, none] →
    z.cls = 0 → z.raw = false → z.req = none → z.q = none → z.ctx = none →
    choosePath s u c 0 z.hdr c.x.val c.y.val z.via = .ok r sp ow →
    h = stampHdr s u c (routedHdr s u z.hdr r) → hMcast h = false →
    ∃ t, exec (.packetInject e) s = .next t ∧ Emitted s t e h ∧
      bits h 40 32 = (dom s (timeDom u)).mer.vis / 65536 % 2 ^ 32 ∧ bits h 248 8 = c.x.val ∧ bits h 256 8 = c.y.val ∧
      (txEnd t e).cur = (if z.data = [] then [none, none, none, none] else [some ⟨{ z with hdr := h }, true, z.data⟩, none, none, none]) ∧
      (punit t u).resp = [] ∧ (punit t u).spray = sp ∧
      lget (link t e).credits 0 0 = lget (link s e).credits 0 0 - 1 ∧
      (∀ g j, e = .gw g j → t.cmbs = s.cmbs) ∧ Touches [.regs, .links, .units, .tx, .tel, .cmbs] s t)

/-! ## Welts (R121, R125-R132) and the tick-driven credits (R150-R154) -/

/-- R126, R129: a welt flit that a router takes joins the store of the input index that its slot names, behind the flits
that wait there. R121, R125: the owner of a slot of a router's output sends its oldest flit in it, as a sequenced flit; R14: a header
unit goes on with its reserved bits zero. -/
def Sys2Proof.Claim.WeltFlitsPass : Prop :=
  (∀ (c : Cell) (p : Fin 7) (flips : BitVec 568) (s : State) (w : Wire) (d : Decoded) (k : Ctl) (i : Nat),
    effSt s (.router c p) = some .up → InSequence s (.router c p) flips w d k → k.w = true → 4 ≤ k.ty → k.ty ≤ 7 →
    inName (rd s (winKey c p.val w.slot)) = some i →
    deadWelt s ((List.range 7).map (fun q => woutKey c q 0)) (16 * p.val + i) = false → ((rport s c p.val).welt.get i []).length < 2 →
    ∃ t, exec (.weltFlitReceive (.router c p) flips) s = .next t ∧ Accepted s t (.router c p) ∧
      (rport t c p.val).welt.get i [] = (rport s c p.val).welt.get i [] ++ [⟨d.payload, k.ty == 5 || k.ty == 7, k.ty == 6 || k.ty == 7⟩] ∧
      (∀ j, j ≠ i → (rport t c p.val).welt.get j [] = (rport s c p.val).welt.get j []) ∧
      (rport t c p.val).vcs = (rport s c p.val).vcs ∧ (∀ b, b.key ≠ c.key → router t b = router s b) ∧
      RegsBut [cellReg c 2 (0x10 + 4 * p.val)] s t ∧ Touches [.regs, .links, .routers] s t) ∧
  (∀ (c : Cell) (p : Fin 7) (f : EndRef) (s : State) (n : Nat) (y : WFlit) (l : List WFlit),
    effSt s (.router c p) = some .up → holdsBack s (.router c p) = false → (EndRef.router c p).peer = some f →
    f.key ≠ (EndRef.router c p).key → (link s (.router c p)).resend = 0 → (link s (.router c p)).replay.length < 32 →
    slotOwner s (.router c p) = some n → (rport s c (n / 16)).welt.get (n % 16) [] = y :: l →
    ∃ t, exec (.weltFlitSend (.router c p)) s = .next t ∧ Emitted s t (.router c p) (if y.head then clearReserved y.payload else y.payload) ∧
      (rport t c (n / 16)).welt.get (n % 16) [] = l ∧ (∃ x, (link t f).wire = (link s f).wire ++ [x]) ∧
      (∀ b, b.key ≠ c.key → router t b = router s b) ∧ Touches [.regs, .links, .routers, .tel] s t)

/-- R131, R132, R140: the armed swap of a field or of an optical gateway that is due is done: it is no longer pending, and
SWAPS counts. The active and shadow banks of the input maps and of the NI's receive map exchange their contents, and so do those of
each output table, whose new entries that break R120 are then disabled, but of one that must wait for a welt flit it may yet resend
(that the rest swaps without it is the model's reading, log entry 46; which entries break a limit that all pass together, all of them,
its choice, log entry 145).
Where none is due, no output of the field, or table of the gateway, has a deferred swap to make up, nothing
happens; nor does anything where the domain is not clocked. -/
def Sys2Proof.Claim.WeltSwapWhenDue : Prop :=
  ∀ (w : WeltDom) (s : State),
    (clocked s (warmDom w) = true → swapDue s w = true →
      ∃ t, exec (.weltSwap w) s = .next t ∧ bit (rd t (warmBase w + 12)) 8 = false ∧
        rdF t (warmBase w + 12) 16 8 = (rdF s (warmBase w + 12) 16 8 + 1) % 256 ∧
        (FMap.rising s.regs = true → ∀ f, w = .field f → ∀ (c : Cell) (i : Nat), c.field = f.val → i < 64 →
          (∀ p : Fin 7, rd t (winKey c p.val i) = rd s (cellReg c 2 (0x3000 + 0x100 * p.val + 4 * i)) ∧
            rd t (cellReg c 2 (0x3000 + 0x100 * p.val + 4 * i)) &&& 0xFF = rd s (winKey c p.val i) &&& 0xFF ∧
            (∀ sh, sh = cellReg c 2 (0x1000 + 0x100 * p.val) →
              if mustDefer s (.router c p) sh p.val 0 = true then
                rd t (woutKey c p.val i) = rd s (woutKey c p.val i) ∧ rd t (sh + 4 * i) = rd s (sh + 4 * i)
              else rd t (woutKey c p.val i) = (if i ∈ badSlots (tabWords s sh) p.val then rd s (sh + 4 * i) ||| 0x100 else rd s (sh + 4 * i)) ∧
                rd t (sh + 4 * i) &&& 0xFF = rd s (woutKey c p.val i) &&& 0xFF)) ∧
          rd t (cellReg c 3 (0xA500 + 4 * i)) = rd s (cellReg c 3 (0xA400 + 4 * i)) ∧
          rd t (cellReg c 3 (0xA400 + 4 * i)) &&& 0xFF = rd s (cellReg c 3 (0xA500 + 4 * i)) &&& 0xFF) ∧
        (FMap.rising s.regs = true → ∀ o, w = .gw o → ∀ (k i : Nat), k ∈ [0, 1, 4, 5] → i < 64 → ∀ sh, sh = gwReg o.gw 0 (0x5000 + 0x100 * k) →
          if tabWaits s o k = true then
            rd t (wtabKey o.gw k i) = rd s (wtabKey o.gw k i) ∧ rd t (sh + 4 * i) = rd s (sh + 4 * i)
          else rd t (wtabKey o.gw k i) =
              (if 4 ≤ k ∧ i ∈ badSlots (tabWords s sh) (tabOwn k) then rd s (sh + 4 * i) ||| 0x100 else rd s (sh + 4 * i)) ∧
            rd t (sh + 4 * i) &&& 0xFF = rd s (wtabKey o.gw k i) &&& 0xFF) ∧
        Touches [.regs, .routers, .gws] s t) ∧
    (clocked s (warmDom w) = false → exec (.weltSwap w) s = .next s) ∧
    (∀ f, w = .field f → swapDue s w = false → (∀ c : Cell, c.field = f.val → (router s c).wait = []) →
      exec (.weltSwap w) s = .next s) ∧
    (∀ o, w = .gw o → swapDue s w = false → (opt s o).behind = [] → exec (.weltSwap w) s = .next s)

/-- R150, R152: a refill that is due gives every shaper of the field that is written and on its rate, up to its burst, and a
shaper that is off no credit; R154: an update that is due starts a meter that has just been enabled with full buckets, adds to
those of one that was enabled what its rates give in 256 cycles (for PIR no less than for CIR), up to their sizes, and a meter that
is disabled stops. -/
def Obligations.CreditsRefill : Prop :=
  (∀ (f : Fin 48) (c : Cell) (q : Fin 16) (s : State) (v : Word), clocked s f.val = true → c.field = f.val →
    (dom s f.val).refills ≤ (dom s f.val).ticks / 256 → FMap.rising s.regs = true →
    s.regs.find (cellReg c 3 (0xB100 + 0x10 * q.val)) = some v →
    ∃ t, exec (.shaperRefill f) s = .next t ∧ (dom t f.val).refills = (dom s f.val).refills + 1 ∧
      (shaper t (.ni c) q.val).credit =
        (if bit v 31 then min ((max (rdF s (cellReg c 3 (0xB104 + 0x10 * q.val)) 0 20) (bits v 0 16) : Nat) : Int)
          ((shaper s (.ni c) q.val).credit + (bits v 0 16 : Nat)) else 0) ∧
      (shaper t (.ni c) q.val).enable = bit v 31 ∧ Touches [.regs, .units, .doms] s t) ∧
  (∀ (g : GwId) (k : Nat) (s : State), 1 ≤ k → k ≤ 3 → hasMeters g = true → clocked s g.dom = true →
    (gw s g).updates ≤ cyc s (gwClkDom g) / 256 →
    ∃ t, exec (.meterUpdate g) s = .next t ∧ (gw t g).updates = (if (gw s g).updates = 0 then cyc s (gwClkDom g) / 256 + 1 else (gw s g).updates + 1) ∧
      ((gw t g).meters.get k Meter.init).enable = bit (rd s (meterKey g k 3)) 0 ∧
      (bit (rd s (meterKey g k 3)) 0 = true → ((gw s g).meters.get k Meter.init).enable = false →
        ((gw t g).meters.get k Meter.init).tc = meterSize s g k 1 ∧ ((gw t g).meters.get k Meter.init).tp = meterSize s g k 2) ∧
      (bit (rd s (meterKey g k 3)) 0 = true → ((gw s g).meters.get k Meter.init).enable = true →
        ((gw t g).meters.get k Meter.init).tc = min (meterSize s g k 1) (((gw s g).meters.get k Meter.init).tc +
          rdF s (meterKey g k 0) 0 16 * 10 * 256 * 65536 / perUs (gwClkDom g)) ∧
        ((gw t g).meters.get k Meter.init).tp = min (meterSize s g k 2) (((gw s g).meters.get k Meter.init).tp +
          max (rdF s (meterKey g k 0) 0 16) (rdF s (meterKey g k 0) 16 16) * 10 * 256 * 65536 / perUs (gwClkDom g))) ∧
      (gw t g).opt = (gw s g).opt ∧ (gw t g).reqs = (gw s g).reqs ∧ Touches [.regs, .gws] s t)

/-! ## Requests at their targets (R79, R82, R84, R95, R98, R99, R102, R134, R255, R275-R277) -/

/-- R95, R82: a well-formed unicast WRITE without a stream that fits a cell's SRAM is placed byte by byte from DEST.offset, and
an ACK with status OK carries the CRC-32C of the bytes placed. R84: one that does not fit places nothing, is counted, and its
ACK says ADDR. -/
def Sys2Proof.Claim.WritePlacesAndAcks : Prop :=
  ∀ (c : Cell) (ecc : Ecc) (p : RxPkt) (s : State), Taken s (.ni c) 0 p → malformed p.hdr p.welt = false → hCmd p.hdr = 0 →
    hMcast p.hdr = false → hStv p.hdr = false → hCspec p.hdr = 0 →
    (sramFits p.hdr = true →
      ∃ t z, exec (.write (.ni c) ecc) s = .next t ∧
        Placed s t (memAddr c.key (hOff p.hdr)) (hInlBytes p.hdr ++ dataBytes p.hdr p.data) ∧
        Responded s t (.ni c) p.hdr 3 z ∧ hInl z.hdr 32 4 = 0 ∧
        (hInlBytes p.hdr ++ dataBytes p.hdr p.data ≠ [] → hInl z.hdr 0 32 = crc32c (hInlBytes p.hdr ++ dataBytes p.hdr p.data) % 2 ^ 32) ∧
        RegsBut [] s t ∧ Touches [.mem, .regs, .units] s t) ∧
    (sramFits p.hdr = false →
      ∃ t z, exec (.write (.ni c) ecc) s = .next t ∧ t.mem = s.mem ∧ Responded s t (.ni c) p.hdr 3 z ∧ hInl z.hdr 32 4 = 1 ∧
        rdF t (cellReg c 3 0x81C) 16 8 = satAdd 255 (rdF s (cellReg c 3 0x81C) 16 8) 1 ∧
        RegsBut [cellReg c 3 0x81C] s t ∧ Touches [.regs, .units] s t)

/-- R100, R101: a WRITE or SIGNAL on a stream that its Last entry knows. One without FENCE is placed and acknowledged and counts in
its generation; one with FENCE whose count has been reached is placed and acknowledged, and the count starts again. One whose count has
not been reached is held, without an answer; where one is held already it is refused with STREAM. The packet that completes a held
one's count is placed, then the held one, and both are acknowledged. R84, R383: of a stream that Last does not know, or whose entry is
uncorrectable, one that fits is placed without FENCE, and not with it; both are answered STREAM. -/
def Sys2Proof.Claim.StreamArrivals : Prop :=
  ∀ (c : Cell) (ecc : Ecc) (p : RxPkt) (s : State) (i : Instr) (x : LastEnt) (n : Nat) (ks : List Nat),
    (i = .write (.ni c) ecc ∧ hCmd p.hdr = 0) ∨ (i = .signal (.ni c) ecc ∧ hCmd p.hdr = 4) → Taken s (.ni c) (hCmd p.hdr) p →
    malformed p.hdr p.welt = false → hMcast p.hdr = false → hStv p.hdr = true → hCspec p.hdr = 0 →
    x = lastOf s c (hStag p.hdr) → n = (lget x.cnt (hFgen p.hdr) 0 + 1) % 65536 →
    ks = [cellReg c 3 0x81C, cellReg c 3 0xB010, cellReg c 3 0xE000] →
    (lastMatch x p.hdr = true → eccOf ecc x.bad ≠ .ue →
      (if hFence p.hdr = true then lget x.cnt (hFgen p.hdr) 0 = hScount p.hdr
        else ∀ y, x.held = some y → ¬ (y.gen = hFgen p.hdr ∧ n = y.scount)) →
      ∃ t z, exec i s = .next t ∧ Responded s t (.ni c) p.hdr 3 z ∧
        (sramFits p.hdr = true → Landed s t c p ks ∧ hInl z.hdr 32 4 = 0) ∧
        (sramFits p.hdr = false → t.mem = s.mem ∧ hInl z.hdr 32 4 = 1 ∧ RegsBut ks s t) ∧
        lastOf t c (hStag p.hdr) = { x with cnt := lset x.cnt (hFgen p.hdr) (if hFence p.hdr then 0 else n), bad := 0 } ∧
        (∀ j, j ≠ hStag p.hdr → lastOf t c j = lastOf s c j) ∧ Touches [.mem, .regs, .units] s t) ∧
    (lastMatch x p.hdr = true → eccOf ecc x.bad ≠ .ue → hFence p.hdr = true → lget x.cnt (hFgen p.hdr) 0 ≠ hScount p.hdr →
      x.held = none →
      ∃ t, exec i s = .next t ∧ (punit t (.ni c)).resp = (punit s (.ni c)).resp ∧
        lastOf t c (hStag p.hdr) = { x with held := some { gen := hFgen p.hdr, scount := hScount p.hdr, pkt := p }, bad := 0 } ∧
        (∀ j, j ≠ hStag p.hdr → lastOf t c j = lastOf s c j) ∧ RegsBut ks s t ∧ Touches [.regs, .units] s t) ∧
    (lastMatch x p.hdr = true → eccOf ecc x.bad ≠ .ue → hFence p.hdr = true → lget x.cnt (hFgen p.hdr) 0 ≠ hScount p.hdr →
      x.held.isSome = true →
      ∃ t z, exec i s = .next t ∧ Responded s t (.ni c) p.hdr 3 z ∧ hInl z.hdr 32 4 = 3 ∧
        (∀ j, lastOf t c j = lastOf s c j) ∧ rdF t (cellReg c 3 0x81C) 8 8 = satAdd 255 (rdF s (cellReg c 3 0x81C) 8 8) 1 ∧
        RegsBut ks s t ∧ Touches [.regs, .units] s t) ∧
    (∀ y, lastMatch x p.hdr = true → eccOf ecc x.bad ≠ .ue → hFence p.hdr = false → x.held = some y → y.gen = hFgen p.hdr →
      n = y.scount → hCmd p.hdr = 0 → sramFits p.hdr = true → hCmd y.pkt.hdr = 0 → hMcast y.pkt.hdr = false →
      hCspec y.pkt.hdr = 0 → sramFits y.pkt.hdr = true → (punit s (.ni c)).resp.length + 2 ≤ 32 →
      ∃ t z w, exec i s = .next t ∧ (punit t (.ni c)).resp = (punit s (.ni c)).resp ++ [z, w] ∧
        (hCmd z.hdr = 3 ∧ hTag z.hdr = hTag p.hdr ∧ hInl z.hdr 32 4 = 0) ∧
        (hCmd w.hdr = 3 ∧ hTag w.hdr = hTag y.pkt.hdr ∧ hInl w.hdr 32 4 = 0) ∧
        (∀ a, memGet t.mem a =
          (if memAddr c.key (hOff y.pkt.hdr) ≤ a ∧ a < memAddr c.key (hOff y.pkt.hdr) + (carried y.pkt).length
            then (carried y.pkt).getD (a - memAddr c.key (hOff y.pkt.hdr)) 0
          else if memAddr c.key (hOff p.hdr) ≤ a ∧ a < memAddr c.key (hOff p.hdr) + (carried p).length
            then (carried p).getD (a - memAddr c.key (hOff p.hdr)) 0 else memGet s.mem a)) ∧
        lastOf t c (hStag p.hdr) = { x with cnt := lset (lset x.cnt y.gen n) y.gen 0, held := none, bad := 0 } ∧
        (∀ j, j ≠ hStag p.hdr → lastOf t c j = lastOf s c j) ∧ RegsBut ks s t ∧ Touches [.mem, .regs, .units] s t) ∧
    (lastMatch x p.hdr = false ∨ eccOf ecc x.bad = .ue → hFence p.hdr = true ∨ sramFits p.hdr = true →
      ∃ t z, exec i s = .next t ∧ Responded s t (.ni c) p.hdr 3 z ∧ hInl z.hdr 32 4 = 3 ∧
        (if hFence p.hdr = true then t.mem = s.mem ∧ RegsBut ks s t else Landed s t c p ks) ∧
        rdF t (cellReg c 3 0x81C) 8 8 = satAdd 255 (rdF s (cellReg c 3 0x81C) 8 8) 1 ∧
        (eccOf ecc x.bad ≠ .ue → lastOf t c (hStag p.hdr) = x) ∧ (eccOf ecc x.bad = .ue → (lastOf t c (hStag p.hdr)).valid = false) ∧
        (∀ j, j ≠ hStag p.hdr → lastOf t c j = lastOf s c j) ∧ Touches [.mem, .regs, .units] s t)

/-- R255, R258: a well-formed SIGNAL without a stream that fits a cell's SRAM has its bytes placed, writes its notice to the
completion ring that its queue's field names, where that ring runs and has a free entry, and is acknowledged with the CRC-32C of the
bytes; else the notice is dropped, counted in DROP_CNT, and NOTICE_OVF is set. One that does not fit does none of it, and its ACK says
ADDR (R84). -/
def Sys2Proof.Claim.SignalWritesNotice : Prop :=
  ∀ (c : Cell) (ecc : Ecc) (p : RxPkt) (s : State), Taken s (.ni c) 4 p → malformed p.hdr p.welt = false → hCmd p.hdr = 4 →
    hMcast p.hdr = false → hStv p.hdr = false → hCspec p.hdr = 0 →
    ∃ t z, exec (.signal (.ni c) ecc) s = .next t ∧ Responded s t (.ni c) p.hdr 3 z ∧
      (sramFits p.hdr = true → Landed s t c p [] ∧ hInl z.hdr 32 4 = 0 ∧ (carried p ≠ [] → hInl z.hdr 0 32 = crc32c (carried p) % 2 ^ 32)) ∧
      (sramFits p.hdr = false → t.mem = s.mem ∧ hInl z.hdr 32 4 = 1 ∧
        rdF t (cellReg c 3 0x81C) 16 8 = satAdd 255 (rdF s (cellReg c 3 0x81C) 16 8) 1 ∧ RegsBut [cellReg c 3 0x81C] s t) ∧
      Touches [.mem, .regs, .units] s t

/-- R82, R84: a well-formed READ_REQ within a cell's SRAM is answered at once by a READ_DATA with status OK, the bytes and their
CRC-32C; one beyond it by ADDR. Memory stays. -/
def Sys2Proof.Claim.ReadRequestAnswered : Prop :=
  ∀ (c : Cell) (p : RxPkt) (s : State), Taken s (.ni c) 1 p → malformed p.hdr p.welt = false → hCmd p.hdr = 1 →
    ∃ t z, exec (.readReq (.ni c)) s = .next t ∧ Responded s t (.ni c) p.hdr 2 z ∧
      (if hOff p.hdr + hInl p.hdr 40 12 ≤ Config.sramBytes then
        hCspec z.hdr = 0 ∧ z.data = dataUnits (memRead s c.key (hOff p.hdr) (hInl p.hdr 40 12)) ∧
        hInl z.hdr 0 32 = crc32c (memRead s c.key (hOff p.hdr) (hInl p.hdr 40 12)) % 2 ^ 32 ∧ RegsBut [] s t
      else hCspec z.hdr = 1 ∧ z.data = [] ∧ rdF t (cellReg c 3 0x81C) 16 8 = satAdd 255 (rdF s (cellReg c 3 0x81C) 16 8) 1) ∧
      RegsBut [cellReg c 3 0x81C] s t ∧ Touches [.regs, .units] s t

/-- R98, R99: a STREAM_REQ of a source without an entry takes the first free Last entry, with the next instance and counts of 0,
and is answered OK with both; with no entry free it is answered FULL. R102: a STREAM_REL of the stream that an entry holds
frees it and is answered OK; another is answered STREAM. R383: an entry whose word is uncorrectable as it is read is freed. -/
def Obligations.LastEntriesOpenAndClose : Prop :=
  (∀ (c : Cell) (ecc : Ecc) (p : RxPkt) (s : State), Taken s (.ni c) 5 p → malformed p.hdr p.welt = false → hCmd p.hdr = 5 →
    (∀ x, x ∈ (punit s (.ni c)).last → x.2.valid = true →
      ¬ (x.2.wafer = hSw p.hdr ∧ x.2.x = hSx p.hdr ∧ x.2.y = hSy p.hdr ∧ x.2.q = hSq p.hdr)) →
    ∃ t z, exec (.streamReq (.ni c) ecc) s = .next t ∧ Responded s t (.ni c) p.hdr 6 z ∧
      (∀ i, (List.range 512).find? (fun j => !(lastOf s c j).valid) = some i →
        lastOf t c i = { lastOf s c i with
          valid := true, inst := ((lastOf s c i).inst + 1) % 16, wafer := hSw p.hdr, x := hSx p.hdr, y := hSy p.hdr, q := hSq p.hdr,
          cnt := [0, 0], held := none, bad := 0 } ∧
        (∀ j, j ≠ i → lastOf t c j = lastOf s c j) ∧
        hInl z.hdr 0 9 = i ∧ hInl z.hdr 9 4 = ((lastOf s c i).inst + 1) % 16 ∧ hInl z.hdr 13 4 = 0) ∧
      ((∀ j, j < 512 → (lastOf s c j).valid = true) → (punit t (.ni c)).last = (punit s (.ni c)).last ∧ hInl z.hdr 13 4 = 4) ∧
      RegsBut [cellReg c 3 0x818, cellReg c 3 0xB010, cellReg c 3 0xE000] s t ∧ Touches [.regs, .units] s t) ∧
  (∀ (c : Cell) (ecc : Ecc) (p : RxPkt) (s : State), Taken s (.ni c) 7 p → malformed p.hdr p.welt = false → hCmd p.hdr = 7 →
    ∃ t z, exec (.streamRel (.ni c) ecc) s = .next t ∧ Responded s t (.ni c) p.hdr 6 z ∧
      (eccOf ecc (lastOf s c (hStag p.hdr)).bad ≠ .ue →
        if lastMatch (lastOf s c (hStag p.hdr)) p.hdr then
          lastOf t c (hStag p.hdr) = { lastOf s c (hStag p.hdr) with valid := false, held := none, bad := 0 } ∧ hInl z.hdr 13 4 = 0
        else lastOf t c (hStag p.hdr) = lastOf s c (hStag p.hdr) ∧ hInl z.hdr 13 4 = 3) ∧
      (eccOf ecc (lastOf s c (hStag p.hdr)).bad = .ue →
        (lastOf t c (hStag p.hdr)).valid = false ∧ hInl z.hdr 13 4 = 3 ∧ bit (rd t (cellReg c 3 0xE000)) 25 = true) ∧
      (∀ j, j ≠ hStag p.hdr → lastOf t c j = lastOf s c j) ∧ RegsBut [cellReg c 3 0x81C, cellReg c 3 0xE000] s t ∧
      Touches [.regs, .units] s t)

/-- R134: a CIRCUIT notice of an OPEN makes the receive context it names valid, with the welt ID and the source; one of a CLOSE
marks it closed. Both are acknowledged. -/
def Sys2Proof.Claim.CircuitNoticeTaken : Prop :=
  ∀ (c : Cell) (p : RxPkt) (s : State), Taken s (.ni c) 9 p → malformed p.hdr p.welt = false → hCmd p.hdr = 9 →
    hInl p.hdr 0 2 < 2 →
    ∃ t z, exec (.circuit (.ni c)) s = .next t ∧ Responded s t (.ni c) p.hdr 3 z ∧ hInl z.hdr 32 4 = 0 ∧
      (punit t (.ni c)).weltRx.get (hInl p.hdr 2 4) WeltRx.init =
        (if hInl p.hdr 0 2 = 0 then { (punit s (.ni c)).weltRx.get (hInl p.hdr 2 4) WeltRx.init with
            valid := true, closed := false, wid := hInl p.hdr 8 12, sx := hSx p.hdr, sy := hSy p.hdr, sw := hSw p.hdr }
        else { (punit s (.ni c)).weltRx.get (hInl p.hdr 2 4) WeltRx.init with closed := true }) ∧
      (∀ i, i ≠ hInl p.hdr 2 4 → (punit t (.ni c)).weltRx.get i WeltRx.init = (punit s (.ni c)).weltRx.get i WeltRx.init) ∧
      RegsBut [] s t ∧ Touches [.regs, .units] s t

/-- R275, R280, R281: a READ_REQ or a unicast WRITE that comes to a memory or host port whose check gave it a place when its header
unit came (within SIZE_GB, or a window of the port) enters the port's requests. R84: one without a place is answered ADDR, and a host
port flags it (R299); so is every packet at a host port whose Bus Master Enable is clear (R285), without the flag. -/
def Sys2Proof.Claim.PortsTakeRequests : Prop :=
  ∀ (g : GwId) (ecc : Ecc) (p : RxPkt) (s : State) (i : Instr) (w : Bool),
    (i = .readReq (.gw g) ∧ w = false ∧ hCmd p.hdr = 1) ∨
      (i = .write (.gw g) ecc ∧ w = true ∧ hCmd p.hdr = 0 ∧ hMcast p.hdr = false ∧ ((∃ a b, g = .host a b) → hCspec p.hdr = 0)) →
    (∀ a b, g ≠ .opt a b) → Taken s (.gw g) (hCmd p.hdr) p → malformed p.hdr false = false →
    (∀ a, noMaster s g = false → p.place = some a →
      ∃ t, exec i s = .next t ∧
        (gw t g).reqs = (gw s g).reqs ++ [⟨p, w, a, if w then extent p.hdr else hInl p.hdr 40 12⟩] ∧
        (punit t (.gw g)).resp = (punit s (.gw g)).resp ∧ RegsBut [] s t ∧ Touches [.units, .gws, .tel] s t) ∧
    (noMaster s g = true ∨ p.place = none →
      ∃ t z, exec i s = .next t ∧ Responded s t (.gw g) p.hdr (if w then 3 else 2) z ∧
        (if w then hInl z.hdr 32 4 = 1 else hCspec z.hdr = 1 ∧ z.data = []) ∧
        (noMaster s g = false → (∃ a b, g = .host a b) → bit (rd t (gwReg g 1 4)) 3 = true) ∧
        RegsBut (if noMaster s g = true ∨ (∀ a b, g ≠ .host a b) then [] else [gwReg g 1 4]) s t ∧ Touches [.regs, .units] s t)

/-- R276: the oldest write, once the stack has committed it, is in memory and acknowledged with the CRC-32C of its bytes; a read is
answered with the bytes and their CRC-32C when the stack has them. R277: one that the stack reports failed is answered with the
complement of that value, counted in MEM_ERR, and flagged; a failed write leaves every byte outside its range. The stack is trained when its controller says so (R298). -/
def Sys2Proof.Claim.MemoryPortServes : Prop :=
  (∀ (m : MemId) (n : BitVec 16) (q : MemReq) (l : List MemReq) (s : State), (gw s m.gw).reqs = q :: l → q.wr = true →
    hCspec q.pkt.hdr = 0 → hMcast q.pkt.hdr = false →
    ∃ t z, exec (.memWriteCommit m true n) s = .next t ∧ (gw t m.gw).reqs = l ∧
      Placed s t (memAddr (UnitRef.gw m.gw).key q.off) (hInlBytes q.pkt.hdr ++ dataBytes q.pkt.hdr q.pkt.data) ∧
      Responded s t (.gw m.gw) q.pkt.hdr 3 z ∧ hInl z.hdr 32 4 = 0 ∧
      hInl z.hdr 0 32 = (if hInlBytes q.pkt.hdr ++ dataBytes q.pkt.hdr q.pkt.data = [] then 0
        else crc32c (hInlBytes q.pkt.hdr ++ dataBytes q.pkt.hdr q.pkt.data) % 2 ^ 32) ∧
      RegsBut [] s t ∧ Touches [.mem, .units, .gws, .tel] s t) ∧
  (∀ (m : MemId) (n : BitVec 16) (q : MemReq) (l : List MemReq) (s : State), (gw s m.gw).reqs = q :: l → q.wr = true →
    hCspec q.pkt.hdr = 0 → hMcast q.pkt.hdr = false → hInlBytes q.pkt.hdr ++ dataBytes q.pkt.hdr q.pkt.data ≠ [] →
    ∃ t z, exec (.memWriteCommit m false n) s = .next t ∧ (gw t m.gw).reqs = l ∧
      (∀ b, b < memAddr (UnitRef.gw m.gw).key q.off ∨
        memAddr (UnitRef.gw m.gw).key q.off + (hInlBytes q.pkt.hdr ++ dataBytes q.pkt.hdr q.pkt.data).length ≤ b →
        memGet t.mem b = memGet s.mem b) ∧
      Responded s t (.gw m.gw) q.pkt.hdr 3 z ∧ hInl z.hdr 32 4 = 0 ∧
      hInl z.hdr 0 32 = (crc32c (hInlBytes q.pkt.hdr ++ dataBytes q.pkt.hdr q.pkt.data) ^^^ 0xFFFFFFFF) % 2 ^ 32 ∧
      bit (rd t (gwReg m.gw 1 8)) 1 = true ∧ rdF t (gwReg m.gw 1 8) 24 8 = satAdd 255 (rdF s (gwReg m.gw 1 8) 24 8) 1 ∧
      RegsBut [gwReg m.gw 1 8] s t ∧ Touches [.mem, .regs, .units, .gws, .tel, .freeCtr] s t) ∧
  (∀ (m : MemId) (n : BitVec 16) (q : MemReq) (l : List MemReq) (s : State), (gw s m.gw).reqs = q :: l → q.wr = false →
    ∃ t z, exec (.memReadDone m true n) s = .next t ∧ (gw t m.gw).reqs = l ∧ Responded s t (.gw m.gw) q.pkt.hdr 2 z ∧
      hCspec z.hdr = 0 ∧ z.data = dataUnits (memRead s (UnitRef.gw m.gw).key q.off q.len) ∧
      hInl z.hdr 0 32 = crc32c (memRead s (UnitRef.gw m.gw).key q.off q.len) % 2 ^ 32 ∧ RegsBut [] s t ∧
      Touches [.units, .gws, .tel] s t) ∧
  (∀ (m : MemId) (n : BitVec 16) (q : MemReq) (l : List MemReq) (s : State), (gw s m.gw).reqs = q :: l → q.wr = false →
    ∃ t z bs, exec (.memReadDone m false n) s = .next t ∧ (gw t m.gw).reqs = l ∧ Responded s t (.gw m.gw) q.pkt.hdr 2 z ∧
      hCspec z.hdr = 0 ∧ bs.length = q.len ∧ z.data = dataUnits bs ∧ hInl z.hdr 0 32 = (crc32c bs ^^^ 0xFFFFFFFF) % 2 ^ 32 ∧
      bit (rd t (gwReg m.gw 1 8)) 0 = true ∧ rdF t (gwReg m.gw 1 8) 16 8 = satAdd 255 (rdF s (gwReg m.gw 1 8) 16 8) 1 ∧
      RegsBut [gwReg m.gw 1 8] s t ∧ Touches [.regs, .units, .gws, .tel, .freeCtr] s t) ∧
  (∀ (m : MemId) (s : State), ∃ t, exec (.memStackReady m) s = .next t ∧ gw t m.gw = { gw s m.gw with ready := true } ∧
    (∀ g, g.num ≠ m.gw.num → gw t g = gw s g) ∧ Touches [.gws] s t)

/-! ## Hosts (R281, R282, R284, R285, R299) -/

/-- R281, R282: a write that a host has accepted is in its memory and acknowledged; a read whose data has come is answered with
it, and one that the host has failed is flagged (R284) and answered. The failure of a read of a descriptor's source is flagged, and
the descriptor sends nothing more and ends with an error (the model's choice, log entry 31). With none of the kind waiting nothing
happens. -/
def Sys2Proof.Claim.HostPortServes : Prop :=
  (∀ (h : Fin 8) (q : MemReq) (l : List MemReq) (s : State), (gw s (hostGw h.val)).reqs = q :: l → q.wr = true →
    hCspec q.pkt.hdr = 0 → hMcast q.pkt.hdr = false →
    ∃ t z, exec (.hostWriteAccepted h) s = .next t ∧ (gw t (hostGw h.val)).reqs = l ∧
      Placed s t (memAddr (UnitRef.gw (hostGw h.val)).key q.off) (hInlBytes q.pkt.hdr ++ dataBytes q.pkt.hdr q.pkt.data) ∧
      Responded s t (.gw (hostGw h.val)) q.pkt.hdr 3 z ∧ hInl z.hdr 32 4 = 0 ∧ RegsBut [] s t ∧ Touches [.mem, .units, .gws] s t) ∧
  (∀ (h : Fin 8) (how : HostReadEnd) (q : MemReq) (l : List MemReq) (s : State), (gw s (hostGw h.val)).reqs = q :: l →
    q.wr = false → how ≠ .source →
    ∃ t z, exec (.hostReadDone h how) s = .next t ∧ (gw t (hostGw h.val)).reqs = l ∧ Responded s t (.gw (hostGw h.val)) q.pkt.hdr 2 z ∧
      (how = .done → z.data = dataUnits (memRead s (UnitRef.gw (hostGw h.val)).key q.off q.len) ∧ RegsBut [] s t) ∧
      (how = .failed → bit (rd t (gwReg (hostGw h.val) 1 4)) 2 = true) ∧ t.mem = s.mem ∧
      RegsBut [gwReg (hostGw h.val) 1 4] s t ∧ Touches [.regs, .units, .gws, .freeCtr] s t) ∧
  (∀ (h : Fin 8) (id : Nat) (s : State), sourceCtx s (hostGw h.val) = some id →
    ∃ t, exec (.hostReadDone h .source) s = .next t ∧ bit (rd t (gwReg (hostGw h.val) 1 4)) 2 = true ∧
      (∀ x, ctxOf t (.gw (hostGw h.val)) id = some x → x.todo = [] ∧ x.err.isSome = true)) ∧
  (∀ (h : Fin 8) (how : HostReadEnd) (s : State),
    (if how = .source then sourceCtx s (hostGw h.val) = none else ∀ q, q ∈ (gw s (hostGw h.val)).reqs → q.wr = true) →
    exec (.hostReadDone h how) s = .next s)

/-- R299: the state of a port's PCIe link is what its controller reports, with the sizes that Device Control gives (R278), and a
link that came up below the slowest speed the port takes is flagged. R285: a function level reset stops and empties the port's
rings and mailboxes, whose registers read their reset values, and is flagged; memory and the link stay. -/
def Sys2Proof.Claim.HostLinkAndReset : Prop :=
  (∀ (h : Fin 8) (up flit : Bool) (speed : Fin 3) (width : Fin 17) (bme : Bool) (mps : Fin 3) (mrrs : Fin 6) (s : State),
    (punit s (.gw (hostGw h.val))).cpl = [] →
    ∃ t, exec (.pcieLinkChange h up flit speed width bme mps mrrs) s = .next t ∧
      gw t (hostGw h.val) = { gw s (hostGw h.val) with
        link := ⟨up, flit, speed.val, width.val, bme, 128 * 2 ^ mps.val, 128 * 2 ^ mrrs.val⟩ } ∧
      (up = true → speed.val = 0 → bit (rd t (gwReg (hostGw h.val) 1 0)) 10 = true) ∧
      (∀ g, g.num ≠ (hostGw h.val).num → gw t g = gw s g) ∧ RegsBut [gwReg (hostGw h.val) 1 0] s t ∧
      Touches [.regs, .units, .gws] s t) ∧
  (∀ (h : Fin 8) (s : State), ∃ t, exec (.functionLevelReset h) s = .next t ∧
    (punit t (.gw (hostGw h.val))).sq = [] ∧ (punit t (.gw (hostGw h.val))).cq = [] ∧ (punit t (.gw (hostGw h.val))).ctxs = [] ∧
    (punit t (.gw (hostGw h.val))).out = (punit s (.gw (hostGw h.val))).out ∧
    (∀ k, flrKey (hostGw h.val) k = true → rd t k = resetOf k) ∧
    (∀ k, flrKey (hostGw h.val) k = false → k ≠ gwReg (hostGw h.val) 1 4 → rd t k = rd s k) ∧
    bit (rd t (gwReg (hostGw h.val) 1 4)) 4 = true ∧ (gw t (hostGw h.val)).mbx = [] ∧
    (gw t (hostGw h.val)).link = (gw s (hostGw h.val)).link ∧ Touches [.regs, .units, .tx, .gws] s t)

/-! ## Answers at their requesters (R95-R99, R102) -/

/-- R96, R97, R242: the ACK of a descriptor's last request, with status OK and the check value kept, completes it: OK, with the
bytes counted, unless NOCOMP asks for no entry; another check value completes it with CHECK. The outstanding entry is then
quarantined. -/
def Sys2Proof.Claim.AckCompletes : Prop :=
  ∀ (c : Cell) (p : RxPkt) (s : State) (tag id : Nat) (e : OutEnt) (x : Ctx), Taken s (.ni c) 3 p →
    LoneRequest s c tag id e x → malformed p.hdr p.welt = false → hTag p.hdr = tag → hInl p.hdr 32 4 = 0 → dNocomp x.desc = false →
    answersCmd 3 e.cmd = true →
    ∃ t, exec (.ack (.ni c)) s = .next t ∧ (punit t (.ni c)).ctxs = [] ∧
      (punit t (.ni c)).out = [(tag, { e with quar := true, since := cyc s c.field })] ∧
      (if hInl p.hdr 0 32 = e.crc then Posted s t (.ni c) x.cq (cplEntry { x with result := x.result + e.len })
      else Posted s t (.ni c) x.cq (cplEntry { x with err := some (6, 0) })) ∧
      RegsBut [] s t ∧ Touches [.mem, .regs, .units, .tx, .tel] s t

/-- R95, R97: a READ_DATA with status OK places its bytes in the requester's SRAM from DEST.offset, and completes a NOCOMP
descriptor without an entry where its check value is that of the bytes. -/
def Sys2Proof.Claim.ReadDataPlaced : Prop :=
  ∀ (c : Cell) (p : RxPkt) (s : State) (tag id : Nat) (e : OutEnt) (x : Ctx), Taken s (.ni c) 2 p →
    LoneRequest s c tag id e x → malformed p.hdr p.welt = false → hTag p.hdr = tag → hCspec p.hdr = 0 → dNocomp x.desc = true → e.cmd = 1 →
    hInl p.hdr 0 32 = crc32c (dataBytes p.hdr p.data) →
    ∃ t, exec (.readData (.ni c)) s = .next t ∧ (punit t (.ni c)).ctxs = [] ∧
      Placed s t (memAddr c.key (hOff p.hdr)) (dataBytes p.hdr p.data) ∧
      (punit t (.ni c)).out = [(tag, { e with quar := true, since := cyc s c.field })] ∧
      (punit t (.ni c)).cq.map (fun y => y.2.cpi) = (punit s (.ni c)).cq.map (fun y => y.2.cpi) ∧
      RegsBut [] s t ∧ Touches [.mem, .regs, .units, .tx, .tel] s t

/-- R98, R99: a STREAM_RSP with status OK opens the stream that its STREAM_REQ reserved, with the STAG and SINST it brings; R102:
one for a STREAM_REL frees the stream's entry. Either completes its descriptor. -/
def Sys2Proof.Claim.StreamResponseTaken : Prop :=
  ∀ (c : Cell) (p : RxPkt) (s : State) (tag id : Nat) (e : OutEnt) (x : Ctx) (y : SrcStream), Taken s (.ni c) 6 p →
    LoneRequest s c tag id e x → malformed p.hdr p.welt = false → hTag p.hdr = tag → hInl p.hdr 13 4 = 0 → e.cmd = 5 ∨ e.cmd = 7 →
    (punit s (.ni c)).streams = [(e.place, y)] →
    ∃ t, exec (.streamRsp (.ni c)) s = .next t ∧ (punit t (.ni c)).ctxs = [] ∧
      (punit t (.ni c)).streams = (if e.cmd = 5 then
        [(e.place, { y with
          live := true, broken := false, sent := 0, sgen := 0, stag := hInl p.hdr 0 9, sinst := hInl p.hdr 9 4 })]
      else []) ∧
      RegsBut [] s t ∧ Touches [.mem, .regs, .units, .tx, .tel] s t

/-- R96: an entry without an answer for longer than the response timeout completes its descriptor with TIMEOUT and is
quarantined; a quarantined entry is free again after as long; before, nothing happens. R102: the STREAM_REL of a release that
waits is due once nothing of its stream is unacknowledged. -/
def Sys2Proof.Claim.OutstandingTimers : Prop :=
  (∀ (c : Cell) (tag : Fin 1024) (s : State) (id : Nat) (e : OutEnt) (x : Ctx), LoneRequest s c tag.val id e x → e.cmd ≤ 1 →
    dNocomp x.desc = false →
    ∃ t, exec (.responseTimeout (.ni c) tag) s = .next t ∧
      (if e.since + rspTmo s (.ni c) < cyc s c.field then
        (punit t (.ni c)).ctxs = [] ∧ (punit t (.ni c)).out = [(tag.val, { e with quar := true, since := cyc s c.field })] ∧
        Posted s t (.ni c) x.cq (cplEntry { x with err := some (5, 0) })
      else t = s) ∧ RegsBut [] s t ∧ Touches [.mem, .regs, .units, .tx, .tel] s t) ∧
  (∀ (u : UnitRef) (tag : Fin 1024) (s : State), ∃ t, exec (.quarantineEnd u tag) s = .next t ∧
    (∀ e, (punit s u).out.find tag.val = some e →
      if e.quar = true ∧ e.since + rspTmo s u ≤ unitCyc s u then (punit t u).out.find tag.val = none else t = s) ∧
    (∀ k, k ≠ tag.val → (punit t u).out.find k = (punit s u).out.find k) ∧ (punit t u).ctxs = (punit s u).ctxs ∧
    (∀ v, v.key ≠ u.key → punit t v = punit s v) ∧ Touches [.units] s t) ∧
  (∀ (c : Cell) (i : Fin 64) (s : State) (y : SrcStream) (id : Nat) (x : Ctx), (punit s (.ni c)).streams.find i.val = some y →
    y.relPend = some id → ctxOf s (.ni c) id = some x →
    ∃ t, exec (.streamRelSend c i) s = .next t ∧
      (if y.unack = 0 ∧ y.fout = false then
        (punit t (.ni c)).streams.find i.val = some { y with relPend := none } ∧
        (∃ z pl, ctxOf t (.ni c) id = some z ∧ z.st = .active ∧ z.todo = [pl] ∧ pl.cmd = 7)
      else t = s) ∧
      (∀ j, j ≠ i.val → (punit t (.ni c)).streams.find j = (punit s (.ni c)).streams.find j) ∧ Touches [.units] s t)

/-! ## Descriptors (R98-R102, R133-R135, R206-R215, R235-R262) -/

/-- R235, R240: DESCRIPTOR_FETCH of an NI takes the descriptor at CI of the ring whose turn it is into a context with the next
number, with the ring's completion ring, and advances CI; memory, registers and the other contexts stay. R246: one with a
reserved opcode is completed as malformed. R262: where the read fails, the ring goes to ERROR with FETCH_ERR, and nothing
is taken. R262: a completion write that fails, of a cell or of a host port, stops its ring. (That the fetch itself completes a
descriptor with a reserved opcode is DEDUCED, log entry 60: no command starts one. The fetches of host rings are not stated here.) -/
def Obligations.DescriptorFetched : Prop :=
  (∀ (c : Cell) (s : State) (r : Nat), (dom s (UnitRef.ni c).dom).st = .run →
    (∀ y, y ∈ (punit s (.ni c)).ctxs → noStart (.ni c) (dOp y.2.desc) = false) →
    rrPick (fetchReady s (.ni c)) ((punit s (.ni c)).fetchLast + 1) 16 = some r →
    (noStart (.ni c) (dOp (descAt s (.ni c) r)) = false →
      ∃ t, exec (.descriptorFetch (.ni c) true) s = .next t ∧ (sqOf t (.ni c) r).ci = (sqOf s (.ni c) r).ci + 1 ∧
        ctxOf t (.ni c) (punit s (.ni c)).nextId = some (newCtx r (rdF s (sqReg (.ni c) r 2) 8 6) (descAt s (.ni c) r)) ∧
        (∀ i, i ≠ (punit s (.ni c)).nextId → ctxOf t (.ni c) i = ctxOf s (.ni c) i) ∧
        (punit t (.ni c)).nextId = (punit s (.ni c)).nextId + 1 ∧ (punit t (.ni c)).fetchLast = r ∧ Touches [.units] s t) ∧
    (10 ≤ dOp (descAt s (.ni c) r) → (punit s (.ni c)).ctxs = [] → inFlight s (.ni c) (punit s (.ni c)).nextId = false →
      (∀ y, y ∈ (punit s (.ni c)).streams → y.2.relPend ≠ some (punit s (.ni c)).nextId) →
      (cqOf s (.ni c) (rdF s (sqReg (.ni c) r 2) 8 6)).st = .running →
      ∃ t, exec (.descriptorFetch (.ni c) true) s = .next t ∧
        Completed s t (.ni c) { newCtx r (rdF s (sqReg (.ni c) r 2) 8 6) (descAt s (.ni c) r) with err := some (1, 1) }) ∧
    (∃ t, exec (.descriptorFetch (.ni c) false) s = .next t ∧ (sqOf t (.ni c) r).st = .error ∧
      (sqOf t (.ni c) r).ci = (sqOf s (.ni c) r).ci ∧ bit (rd t (sqReg (.ni c) r 5)) 6 = true ∧
      (punit t (.ni c)).ctxs = (punit s (.ni c)).ctxs ∧ RegsBut [sqReg (.ni c) r 5] s t ∧ Touches [.units, .regs] s t)) ∧
  (∀ (u : UnitRef) (r : Fin 64) (s : State), r.val < cqCount u → (cqOf s u r.val).st = .running ∨ (cqOf s u r.val).st = .stopping →
    ∃ t, exec (.completionWriteFail u r) s = .next t ∧ cqOf t u r.val = { cqOf s u r.val with st := .error } ∧
      bit (rd t (cqReg u r.val 5)) 6 = true ∧ (∀ j, j ≠ r.val → cqOf t u j = cqOf s u j) ∧ RegsBut [cqReg u r.val 5] s t ∧
      Touches [.units, .regs] s t)

/-- R242, R258: descriptors that send nothing complete at once with the entry the rules give: a NOP; a WAIT_TIME whose time has
passed, with LATE and UNSYNC (R256); one whose time comes, with UNSYNC; a FENCE without an open stream, with STREAM and NOT_OPEN
(R253, R260); a STREAM_OPEN of a stream that is open, with its STAG and SINST (R99, R252); a COLL of a group without a base
entry, with NO_PLAN (R181, R199). -/
def Obligations.DescriptorsComplete : Prop :=
  (∀ (u : UnitRef) (r : Fin 64) (s : State) (id : Nat) (x : Ctx), LoneCtx s u id x → Startable s u r.val 0 id x →
    ∃ t, exec (.nop u r) s = .next t ∧ Completed s t u x ∧ Touches [.mem, .units, .tel] s t) ∧
  (∀ (u : UnitRef) (r : Fin 64) (s : State) (id : Nat) (x : Ctx), LoneCtx s u id x → Startable s u r.val 7 id x →
    timeReached s (timeDom u) (waitUntil x.desc) = true →
    ∃ t, exec (.waitTime u r) s = .next t ∧
      Completed s t u { x with late := true, unsync := (dom s (timeDom u)).mer.unsync } ∧ Touches [.mem, .units, .tel] s t) ∧
  (∀ (u : UnitRef) (r : Fin 64) (s : State) (id : Nat) (x : Ctx), LoneCtx s u id x → waitingCtx s u r.val 7 = some (id, x) →
    timeReached s (timeDom u) (waitUntil x.desc) = true →
    ∃ t, exec (.waitTimeReached u r) s = .next t ∧ Completed s t u { x with unsync := (dom s (timeDom u)).mer.unsync } ∧
      Touches [.mem, .units, .tel] s t) ∧
  (∀ (c : Cell) (q : Fin 16) (s : State) (id : Nat) (x : Ctx), LoneCtx s (.ni c) id x → Startable s (.ni c) q.val 6 id x →
    streamFor s (.ni c) x.ring (df x.desc 64 76) = none →
    ∃ t, exec (.fence c q) s = .next t ∧ Completed s t (.ni c) { x with err := some (7, 4) } ∧ Touches [.mem, .units, .tel, .tx] s t) ∧
  (∀ (c : Cell) (q : Fin 16) (s : State) (id i : Nat) (x : Ctx) (y : SrcStream), LoneCtx s (.ni c) id x →
    Startable s (.ni c) q.val 9 id x → bit x.desc 140 = false → streamFor s (.ni c) x.ring (df x.desc 64 76) = some (i, y) →
    y.broken = false →
    ∃ t, exec (.streamOpen c q) s = .next t ∧ Completed s t (.ni c) { x with result := y.stag + 512 * y.sinst } ∧
      Touches [.mem, .units, .tel] s t) ∧
  (∀ (c : Cell) (q : Fin 16) (s : State) (id : Nat) (x : Ctx), LoneCtx s (.ni c) id x → Startable s (.ni c) q.val 3 id x →
    (dom s c.field).st = .run → (∀ e, e < 32 → ¬ (cValid s c e = true ∧ cGroup s c e = kGroup x.desc ∧ cBase s c e = true)) →
    ∃ t, exec (.coll c q) s = .next t ∧ Completed s t (.ni c) { x with err := some (9, 1) } ∧ Touches [.mem, .units, .tel] s t)

/-- R248, R105: a COPY PUT beyond 16 bytes, or a multicast one, splits its range into WRITEs of 2,048 bytes in rising order, the
last of what is left, each at its place at the target; a GET splits it into READ_REQs that say where the bytes go. A unicast PUT
of up to 16 bytes is one WRITE that carries them inline, read from SRC as the packet is built, like those of the others. Memory
stays. -/
def Obligations.CopySends : Prop :=
  (∀ (u : UnitRef) (r : Fin 64) (s : State) (id : Nat) (x : Ctx), Startable s u r.val 1 id x →
    bit x.desc 216 = true ∨ bit x.desc 219 = true ∨ 16 < df x.desc 144 32 ∧ streamBroken s u x.ring (df x.desc 64 76) = false →
    ∃ t l, exec (.copy u r) s = .next t ∧ ctxOf t u id = some { x with st := .active, todo := l } ∧
      l.length = (df x.desc 144 32 + 2047) / 2048 ∧
      (∀ i, i < l.length → ∃ p, l[i]? = some p ∧ p.len = min 2048 (df x.desc 144 32 - 2048 * i) ∧
        p.dest = df x.desc 64 76 / 2 ^ 40 * 2 ^ 40 + (df x.desc 64 76 + 2048 * i) % 2 ^ 40 ∧
        (if bit x.desc 216 then
          p.cmd = 1 ∧ p.cls = 1 ∧ p.inlen = 8 ∧ p.inl = df x.desc 176 40 + 2048 * i + p.len * 2 ^ 40 ∧ p.src = .bytes []
        else p.cmd = 0 ∧ p.cls = df x.desc 217 2 ∧ p.inlen = 0 ∧ p.src = .mem (df x.desc 176 40 + 2048 * i) p.len ∧
          p.mcast = bit x.desc 219 ∧ p.onStream = !bit x.desc 219 ∧ (bit x.desc 219 = true → p.mask = df x.desc 224 48))) ∧
      Touches [.units] s t) ∧
  (∀ (u : UnitRef) (r : Fin 64) (s : State) (id : Nat) (x : Ctx), Startable s u r.val 1 id x →
    bit x.desc 216 = false → bit x.desc 219 = false → df x.desc 144 32 ≤ 16 →
    streamBroken s u x.ring (df x.desc 64 76) = false →
    ∃ t p, exec (.copy u r) s = .next t ∧ ctxOf t u id = some { x with st := .active, todo := [p] } ∧ p.cmd = 0 ∧
      p.cls = df x.desc 217 2 ∧ p.dest = df x.desc 64 76 ∧ p.len = df x.desc 144 32 ∧ p.inlen = df x.desc 144 32 ∧
      p.src = .mem (df x.desc 176 40) (df x.desc 144 32) ∧ p.onStream = true ∧ p.fence = false ∧
      (∀ bs, 0 < df x.desc 144 32 → localRead s u (df x.desc 176 40) (df x.desc 144 32) = some bs →
        ∃ z, planPkt s u id x p = some z ∧ z.data = [] ∧ z.hdr = planHdr { p with inl := natOf bs } x.ring 0) ∧
      Touches [.units] s t)

/-- R253: a FENCE on an open stream sends one fenced WRITE with its inline bytes. R254: a SIGNAL sends one SIGNAL packet, with a
fence where the descriptor asks for it. R98, R252: a STREAM_OPEN without a stream takes the lowest free source entry and sends a
STREAM_REQ to the cell; with none of the 64 free it completes with STREAM and FULL, and sends nothing. -/
def Sys2Proof.Claim.StreamDescriptorsSend : Prop :=
  (∀ (c : Cell) (q : Fin 16) (s : State) (id i : Nat) (x : Ctx) (y : SrcStream), Startable s (.ni c) q.val 6 id x →
    streamFor s (.ni c) x.ring (df x.desc 64 76) = some (i, y) → y.broken = false →
    ∃ t p, exec (.fence c q) s = .next t ∧ ctxOf t (.ni c) id = some { x with st := .active, todo := [p] } ∧ p.cmd = 0 ∧ p.cls = 1 ∧
      p.dest = df x.desc 64 76 ∧ p.inl = df x.desc 144 64 ∧ p.inlen = df x.desc 140 4 ∧ p.fence = true ∧ p.onStream = true ∧
      Touches [.units] s t) ∧
  (∀ (u : UnitRef) (r : Fin 64) (s : State) (id : Nat) (x : Ctx), Startable s u r.val 8 id x →
    (bit x.desc 208 = true → (streamFor s u x.ring (df x.desc 64 76)).isSome = true) →
    streamBroken s u x.ring (df x.desc 64 76) = false →
    ∃ t p, exec (.signalDescriptor u r) s = .next t ∧ ctxOf t u id = some { x with st := .active, todo := [p] } ∧ p.cmd = 4 ∧
      p.cls = 1 ∧ p.dest = df x.desc 64 76 ∧ p.inl = df x.desc 144 64 ∧ p.inlen = df x.desc 140 4 ∧ p.fence = bit x.desc 208 ∧
      p.onStream = true ∧ Touches [.units] s t) ∧
  (∀ (c : Cell) (q : Fin 16) (s : State) (id : Nat) (x : Ctx), Startable s (.ni c) q.val 9 id x → bit x.desc 140 = false →
    streamFor s (.ni c) x.ring (df x.desc 64 76) = none →
    (∀ i, (List.range 64).find? (fun j => ((punit s (.ni c)).streams.find j).isNone) = some i →
      ∃ t p y, exec (.streamOpen c q) s = .next t ∧ ctxOf t (.ni c) id = some { x with st := .active, todo := [p] } ∧ p.cmd = 5 ∧
        p.dest = cellAddr (destCell s c.field (df x.desc 64 76)) ∧ (punit t (.ni c)).streams.find i = some y ∧
        y.dest = destCell s c.field (df x.desc 64 76) ∧ y.q = x.ring ∧ y.live = false ∧
        (∀ j, j ≠ i → (punit t (.ni c)).streams.find j = (punit s (.ni c)).streams.find j) ∧ Touches [.units] s t) ∧
    ((∀ i, i < 64 → ((punit s (.ni c)).streams.find i).isSome = true) → LoneCtx s (.ni c) id x →
      ∃ t, exec (.streamOpen c q) s = .next t ∧ Completed s t (.ni c) { x with err := some (7, 1) } ∧
        rdF t (cellReg c 3 0x814) 8 8 = satAdd 255 (rdF s (cellReg c 3 0x814) 8 8) 1 ∧
        (punit t (.ni c)).streams = (punit s (.ni c)).streams ∧ (punit t (.ni c)).resp = (punit s (.ni c)).resp ∧
        RegsBut [cellReg c 3 0x814] s t ∧ Touches [.mem, .regs, .units, .tel] s t))

/-- R256, R133, R135, R102: what a descriptor waits for: a WAIT_TIME and a CIRCUIT_OPEN for a time that has not come; a
CIRCUIT_CLOSE for the welt it closes, which takes no further packets; a release for the stream it releases. (That of several open
welts with one WID the lowest LIDX closes, and that a closing one is not open, is DESIGN CHOICE, log entry 30.) -/
def Sys2Proof.Claim.DescriptorsWait : Prop :=
  (∀ (u : UnitRef) (r : Fin 64) (s : State) (id : Nat) (x : Ctx), Startable s u r.val 7 id x →
    timeReached s (timeDom u) (waitUntil x.desc) = false →
    ∃ t, exec (.waitTime u r) s = .next t ∧ ctxOf t u id = some { x with st := .waiting } ∧ Touches [.units] s t) ∧
  (∀ (c : Cell) (q : Fin 16) (s : State) (id : Nat) (x : Ctx), Startable s (.ni c) q.val 4 id x →
    timeReached s c.field (openAt x.desc) = false →
    ∃ t, exec (.circuitOpen c q) s = .next t ∧ ctxOf t (.ni c) id = some { x with st := .waiting } ∧
      (punit t (.ni c)).weltSrc = (punit s (.ni c)).weltSrc ∧ Touches [.units] s t) ∧
  (∀ (c : Cell) (q : Fin 16) (s : State) (id l : Nat) (x : Ctx) (w : WeltSrc), Startable s (.ni c) q.val 5 id x →
    (punit s (.ni c)).weltSrc.find? (fun v => !v.2.closing && v.2.wid == df x.desc 64 12) = some (l, w) →
    ∃ t, exec (.circuitClose c q) s = .next t ∧ ctxOf t (.ni c) id = some { x with st := .waiting } ∧
      (punit t (.ni c)).weltSrc.find l = some { w with closing := true, closeCtx := some id } ∧
      (∀ j, j ≠ l → (punit t (.ni c)).weltSrc.find j = (punit s (.ni c)).weltSrc.find j) ∧ Touches [.units] s t) ∧
  (∀ (c : Cell) (q : Fin 16) (s : State) (id i : Nat) (x : Ctx) (y : SrcStream), Startable s (.ni c) q.val 9 id x →
    bit x.desc 140 = true → streamFor s (.ni c) x.ring (df x.desc 64 76) = some (i, y) →
    ∃ t, exec (.streamRelease c q) s = .next t ∧ ctxOf t (.ni c) id = some { x with st := .waiting } ∧
      (punit t (.ni c)).streams.find i = some { y with relPend := some id } ∧ Touches [.units] s t)

/-- R133: a CIRCUIT_OPEN whose checks pass opens its source context and sends an OPEN notice; LATE_OPEN is set where its time had
passed when it started, UNSYNC_OPEN where Meridian is UNSYNC. A welt index that the active L input map lacks completes it with the
welt error and sets its cause. R135: once a closing welt has nothing outstanding, a CLOSE notice goes out and the context is
free; a packet that timed out sets TIMEOUT. -/
def Sys2Proof.Claim.CircuitsOpenAndClose : Prop :=
  (∀ (c : Cell) (q : Fin 16) (late : Bool) (s : State) (id : Nat) (x : Ctx),
    (if late then Startable s (.ni c) q.val 4 id x
      else waitingCtx s (.ni c) q.val 4 = some (id, x) ∧ ctxOf s (.ni c) id = some x ∧ clocked s c.field = true) →
    timeReached s c.field (openAt x.desc) = true →
    (∃ i, i < 64 ∧ inName (rd s (winKey c 4 i)) = some (df x.desc 152 4)) →
    (∀ w, w ∈ (punit s (.ni c)).weltSrc → w.1 ≠ df x.desc 152 4 ∧ w.2.q ≠ x.ring) → namesCell (df x.desc 64 76) = true →
    addrOk s c.field (df x.desc 64 76) 0 = true →
    destCell s c.field (df x.desc 64 76) ≠ waferOf s c.field * 65536 + c.x.val * 256 + c.y.val →
    ∃ t w p, exec (if late then .circuitOpen c q else .circuitOpenTime c q) s = .next t ∧
      (punit t (.ni c)).weltSrc.find (df x.desc 152 4) = some w ∧ w.q = x.ring ∧ w.ridx = df x.desc 156 4 ∧
      w.wid = df x.desc 140 12 ∧ w.dest = destCell s c.field (df x.desc 64 76) ∧ w.closing = false ∧
      ctxOf t (.ni c) id = some { x with
        st := .active, late := late, unsync := (dom s c.field).mer.unsync, issued := true, todo := [p] } ∧
      p.cmd = 9 ∧ p.cls = 1 ∧ p.dest = cellAddr w.dest ∧ p.inlen = 8 ∧ p.inl = 4 * w.ridx + 256 * w.wid ∧
      rd t (cellReg c 3 0xA000) = rd s (cellReg c 3 0xA000) |||
        BitVec.ofNat 32 (8 * b2n late + 16 * b2n (dom s c.field).mer.unsync) ∧
      RegsBut [cellReg c 3 0xA000] s t ∧ Touches [.regs, .units] s t) ∧
  (∀ (c : Cell) (q : Fin 16) (s : State) (id : Nat) (x : Ctx), LoneCtx s (.ni c) id x →
    waitingCtx s (.ni c) q.val 4 = some (id, x) → timeReached s c.field (openAt x.desc) = true →
    (∀ i, i < 64 → inName (rd s (winKey c 4 i)) ≠ some (df x.desc 152 4)) →
    ∃ t, exec (.circuitOpenTime c q) s = .next t ∧ Completed s t (.ni c) { x with err := some (8, 1) } ∧
      rd t (cellReg c 3 0xA000) = rd s (cellReg c 3 0xA000) ||| 1#32 ∧
      (punit t (.ni c)).weltSrc = (punit s (.ni c)).weltSrc) ∧
  (∀ (c : Cell) (l : Fin 16) (s : State) (id : Nat) (x : Ctx) (w : WeltSrc), clocked s c.field = true →
    (punit s (.ni c)).weltSrc.find l.val = some w → w.closing = true → w.closeCtx = some id →
    (punit s (.ni c)).weltCur.find l.val = none →
    (∀ e, e ∈ (punit s (.ni c)).out → e.2.quar = true ∨ e.2.welt ≠ some l.val) → ctxOf s (.ni c) id = some x →
    ∃ t p, exec (.circuitCloseSend c l) s = .next t ∧ (punit t (.ni c)).weltSrc.find l.val = none ∧
      ctxOf t (.ni c) id = some { x with
        st := .active, err := if w.timedOut then some (x.err.getD (5, 0)) else x.err, todo := [p] } ∧
      p.cmd = 9 ∧ p.dest = cellAddr w.dest ∧ p.inl = 1 + 4 * w.ridx + 256 * w.wid ∧
      rd t (cellReg c 3 0xA000) = rd s (cellReg c 3 0xA000) ||| BitVec.ofNat 32 (32 * b2n w.timedOut) ∧
      RegsBut [cellReg c 3 0xA000] s t ∧ Touches [.regs, .units] s t)

/-- R207, R211-R214, R230: a COPY_SPARSE whose map and ranges pass, on a stream that is not BROKEN, counts the tiles that its map drops, chooses the dense form by R211, counts the form, gives RESULT but for the tiles, which count as
their packets are sent and answered, and sends the packets of R209 or R211; a PACKED one then waits; where its ranges in its own
cell overlap (R215) it does the same with free values for data. R212: when those are
acknowledged, its header goes to DMAP with the number of tiles, the form and the tensor's description. R103: on a BROKEN stream it
completes with STREAM and BROKEN. (DEDUCED: map and sizes are read as the descriptor starts, log entry 55; the header goes as 16
inline bytes of one WRITE, log entry 57; the BROKEN stream, which R103 states of a COPY PUT, log entry 153.) -/
def Obligations.SparseCopies : Prop :=
  (∀ (c : Cell) (q : Fin 16) (s : State) (id : Nat) (x : Ctx) (g : Geo) (sc : Scan) (dense ov : Bool) (n : Nat),
    Startable s (.ni c) q.val 2 id x → g = copyGeo x.desc →
    df x.desc 164 20 + (if bit x.desc 185 then 4 * df x.desc 192 24 else 8 * g.mw) ≤ Config.sramBytes →
    sc = scanMap s c g (bit x.desc 185) (df x.desc 164 20) (df x.desc 192 24) → dense = goesDense x.desc sc →
    n = (if dense then g.nt else sc.tiles.length) → sparseTarget (df x.desc 64 76) = true →
    (∀ y, y ∈ sparseSources x.desc sc → y.1 + y.2 ≤ Config.sramBytes) →
    (∀ y, y ∈ sparseDests x.desc sc dense → addrOk s c.field y.1 y.2 = true) →
    streamBroken s (.ni c) x.ring (df x.desc 64 76) = false → df x.desc 188 2 = 2 ∨ sparsePlans s c x.desc sc dense ≠ [] →
    ov = overlapsOwn s c x.desc sc (sparseDests x.desc sc dense) →
    ∃ t y, exec (.copySparse c q) s = .next t ∧ ctxOf t (.ni c) id = some y ∧
      (ov = false → y.todo = sparsePlans s c x.desc sc dense ∧ t.freeCtr = s.freeCtr) ∧
      y.todo.map (fun p => (p.cmd, p.dest, p.len, p.inlen, p.cspec)) =
        (sparsePlans s c x.desc sc dense).map (fun p => (p.cmd, p.dest, p.len, p.inlen, p.cspec)) ∧
      y.st = (if df x.desc 188 2 = 2 then .waiting else .active) ∧
      y.result = b2n dense + 2 ^ 25 * min 4095 sc.range + 2 ^ 37 * min 4095 sc.order ∧
      y.aux = 1 + b2n dense + 2 * b2n ov + 4 * n ∧
      rdF t (cellReg c 3 0xC004) 0 16 = satAdd 65535 (rdF s (cellReg c 3 0xC004) 0 16) sc.range ∧
      rdF t (cellReg c 3 0xC004) 16 16 = satAdd 65535 (rdF s (cellReg c 3 0xC004) 16 16) sc.order ∧
      rdF t (cellReg c 3 0xC000) (if dense then 16 else 0) 16 =
        satAdd 65535 (rdF s (cellReg c 3 0xC000) (if dense then 16 else 0) 16) 1 ∧
      RegsBut [cellReg c 3 0xC000, cellReg c 3 0xC004, cellReg c 3 0xC014] s t ∧ Touches [.regs, .units, .freeCtr] s t) ∧
  (∀ (c : Cell) (q : Fin 16) (s : State) (id : Nat) (x : Ctx) (g : Geo) (sc : Scan) (dense : Bool), LoneCtx s (.ni c) id x →
    Startable s (.ni c) q.val 2 id x → g = copyGeo x.desc →
    df x.desc 164 20 + (if bit x.desc 185 then 4 * df x.desc 192 24 else 8 * g.mw) ≤ Config.sramBytes →
    sc = scanMap s c g (bit x.desc 185) (df x.desc 164 20) (df x.desc 192 24) → dense = goesDense x.desc sc →
    sparseTarget (df x.desc 64 76) = true → (∀ y, y ∈ sparseSources x.desc sc → y.1 + y.2 ≤ Config.sramBytes) →
    (∀ y, y ∈ sparseDests x.desc sc dense → addrOk s c.field y.1 y.2 = true) →
    streamBroken s (.ni c) x.ring (df x.desc 64 76) = true →
    ∃ t, exec (.copySparse c q) s = .next t ∧ Completed s t (.ni c) { x with
      err := some (7, 3), result := 2 ^ 25 * min 4095 sc.range + 2 ^ 37 * min 4095 sc.order }) ∧
  (∀ (c : Cell) (q : Fin 16) (s : State) (id n : Nat) (dense ov : Bool) (x : Ctx), waitingCtx s (.ni c) q.val 2 = some (id, x) →
    ctxOf s (.ni c) id = some x → clocked s c.field = true → x.todo = [] → x.out = 0 → inFlight s (.ni c) id = false →
    x.aux = 1 + b2n dense + 2 * b2n ov + 4 * n →
    ∃ t p, exec (.packedHeaderWrite c q) s = .next t ∧ ctxOf t (.ni c) id = some { x with st := .active, todo := [p] } ∧ p.cmd = 0 ∧
      p.dest = df x.desc 64 76 / 2 ^ 40 * 2 ^ 40 + df x.desc 288 40 ∧ p.inlen = 16 ∧
      (ov = false → p.inl = n % 2 ^ 24 + 2 ^ 24 * b2n dense + 2 ^ 25 * df x.desc 186 2 + 2 ^ 27 * df x.desc 140 4 +
        2 ^ 32 * df x.desc 224 16 + 2 ^ 48 * df x.desc 240 16 ∧ t.freeCtr = s.freeCtr) ∧ Touches [.units, .freeCtr] s t)

/-! ## Collectives (R174-R185, R195-R199, R226) -/

/-- R181, R175: a COLL that passes its checks, at a base entry that is its whole chain and receives no multicast, starts instance
LAST_SEQ + 1: the entry runs the descriptor from its first phase, the descriptor waits for the end of the instance, and CREDITs
of WIN go to every child and, below the top root, to the parent. -/
def Sys2Proof.Claim.CollectiveLaunches : Prop :=
  ∀ (c : Cell) (q : Fin 16) (s : State) (id e : Nat) (x : Ctx), Startable s (.ni c) q.val 3 id x → (dom s c.field).st = .run →
    (List.range 32).find? (fun f => cValid s c f && cGroup s c f == kGroup x.desc && cBase s c f) = some e →
    (cent s c e).run = none → (cent s c e).early = [] → (cent s c e).abortOf ((cLast s c e + 1) % 2 ^ 32) = none → cNext s c e = false → lowerOf s c e = none →
    cDmc s c e = false → cNch s c e ≤ 6 → cSlots s c e &&& slotsUsed s c = 0 →
    (kOp x.desc = 3 ∨ kOp x.desc = 5 → cNch s c e = 0 ∨ slotBudget s c e + 1 ≤ popN (cSlots s c e) 6) →
    formatOk s c x.desc (cMembers s c e) (cRoot s c e) = true →
    (∀ b, b ∈ collBufs s c e x.desc (cRoot s c e) → b.1 + b.2 ≤ Config.sramBytes) →
    ∃ t r, exec (.coll c q) s = .next (cmSettle t c) ∧ crun t c e = some r ∧ r.desc = x.desc ∧ r.ctx = some id ∧
      r.seq = (cLast s c e + 1) % 2 ^ 32 ∧ r.ph = 0 ∧ r.read = 0 ∧ r.next = 0 ∧ r.res = [] ∧ r.downs = [] ∧
      ctxOf t (.ni c) id = some { x with st := .waiting, issued := true, aux := e } ∧
      (∀ k, k < cNch s c e → (r.edge k).granted = cWin s c e) ∧ (cRoot s c e = false → (r.edge 7).granted = cWin s c e) ∧
      (txEnd t (.cmb c)).queue = (txEnd s (.cmb c)).queue ++
        (List.range (cNch s c e)).map (fun k => creditPkt s c e r k (cWin s c e)) ++
        (if cRoot s c e then [] else [creditPkt s c e r 7 (cWin s c e)]) ∧
      t.mem = s.mem

/-- R197-R199, R201, R317: what ends an instance at an entry: software, with cause SOFTWARE; the loss of a wafer to which the
entry has a tree edge, with LINK_LOST; no progress for the time of its level, with TIMEOUT and the missing party; a current
ABORT whose signature agrees, with the cause and origin it carries, passed on to all but the neighbour it came from. -/
def Sys2Proof.Claim.InstancesAbort : Prop :=
  ∀ g : Fin 32,
  (∀ (c : Cell) (v : Word) (s : State) (r : CRun), MgmtServes s (cellReg c 4 0x20) → LoneRun s c (bits v 0 5) r →
    ∃ t, exec (.cmbSwAbort (.mgmt g) c v) s = .next t ∧ AnsweredOk t g ∧
      Aborted s t c (bits v 0 5) r ⟨0x80, c.x.val, c.y.val, cLevel s c (bits v 0 5)⟩ none) ∧
  (∀ (c : Cell) (e : Fin 32) (v : Word) (s : State) (r : CRun), MgmtServes s (cellReg c 4 0x50) → LoneRun s c e.val r →
    bits v 0 20 ≠ waferLocal →
    cRoot s c e.val = false ∧ cw s c e.val 3 0 20 = bits v 0 20 ∨
      (∃ k, k < cNch s c e.val ∧ cw s c e.val (9 + 2 * k) 0 20 = bits v 0 20) →
    ∃ t, exec (.cmbLostWafer (.mgmt g) c v) s = .next t ∧ AnsweredOk t g ∧
      Aborted s t c e.val r ⟨0x40, c.x.val, c.y.val, cLevel s c e.val⟩ none) ∧
  (∀ (c : Cell) (e : Fin 32) (s : State) (r : CRun), LoneRun s c e.val r → inMap r.desc r.ph = false →
    r.since + r.tmo ≤ cyc s c.field →
    ∃ t, exec (.progressTimeout c e) s = .next t ∧
      Aborted s t c e.val r ⟨0x20 + missing s c e.val r, c.x.val, c.y.val, cLevel s c e.val⟩ none ∧
      rdF t (cellReg c 4 0xC) 8 8 = satAdd 255 (rdF s (cellReg c 4 0xC) 8 8) 1) ∧
  (∀ (c : Cell) (e : Nat) (s : State) (r : CRun) (p : RxPkt) (rest : List RxPkt), Current s c e r p rest → hInl p.hdr 12 3 = 2 →
    runDiff s c e r.desc r.ph 2 (hdrSig p.hdr) = none →
    ∃ t, exec (.abortChunk c) s = .next t ∧ (cmb t c).inbox = rest ∧
      Aborted s t c e r ⟨hInl p.hdr 88 8, hInl p.hdr 96 8, hInl p.hdr 104 8, hInl p.hdr 112 2⟩
        (some (hSw p.hdr * 65536 + hSx p.hdr * 256 + hSy p.hdr)))

/-- R195, R196: a current chunk whose signature differs ends the instance with MISMATCH and the first field that
differs; one of a future instance ends it with SEQ; a late one is discarded and counted; one for no valid entry is discarded and
counted. -/
def Sys2Proof.Claim.ChunksCompared : Prop :=
  (∀ (c : Cell) (ecc : Ecc) (e f : Nat) (s : State) (r : CRun) (p : RxPkt) (rest : List RxPkt), Current s c e r p rest →
    hInl p.hdr 12 3 < 5 →
    runDiff s c e r.desc r.ph (hInl p.hdr 12 3) (hdrSig p.hdr) = some f →
    ∃ t, exec (if hInl p.hdr 12 3 = 0 then .dataChunk c ecc else if hInl p.hdr 12 3 = 1 then .creditChunk c
        else if hInl p.hdr 12 3 = 2 then .abortChunk c
        else if hInl p.hdr 12 3 = 3 then .tokenChunk c else .mapChunk c) s = .next t ∧
      (cmb t c).inbox = rest ∧ Aborted s t c e r ⟨0x10 + f, c.x.val, c.y.val, cLevel s c e⟩ none ∧
      rdF t (cellReg c 4 0xC) 0 8 = satAdd 255 (rdF s (cellReg c 4 0xC) 0 8) 1) ∧
  (∀ (c : Cell) (ecc : Ecc) (e : Nat) (s : State) (r : CRun) (p : RxPkt) (rest : List RxPkt), NextChunk s c p rest → LoneRun s c e r →
    entryAt s c (hInl p.hdr 0 8) (hInl p.hdr 8 2) = some e → hInl p.hdr 12 3 = 0 → r.seq < 2 ^ 32 →
    1 ≤ (hInl p.hdr 56 32 + 2 ^ 32 - r.seq) % 2 ^ 32 →
    ((hInl p.hdr 56 32 + 2 ^ 32 - r.seq) % 2 ^ 32 < 2 ^ 32 - 16 →
      ∃ t, exec (.dataChunk c ecc) s = .next t ∧ Aborted s t c e r ⟨0x16, c.x.val, c.y.val, cLevel s c e⟩ none) ∧
    (2 ^ 32 - 16 ≤ (hInl p.hdr 56 32 + 2 ^ 32 - r.seq) % 2 ^ 32 →
      ∃ t, exec (.dataChunk c ecc) s = .next (cmSettle t c) ∧ crun t c e = some r ∧ (cmb t c).inbox = rest ∧
        rdF t (cellReg c 4 8) 16 16 = satAdd 65535 (rdF s (cellReg c 4 8) 16 16) 1 ∧ bit (rd t (cellReg c 4 4)) 1 = true)) ∧
  (∀ (c : Cell) (ecc : Ecc) (s : State) (p : RxPkt) (rest : List RxPkt), NextChunk s c p rest →
    entryAt s c (hInl p.hdr 0 8) (hInl p.hdr 8 2) = none → hInl p.hdr 12 3 = 0 →
    ∃ t, exec (.dataChunk c ecc) s = .next (cmSettle t c) ∧ (cmb t c).inbox = rest ∧ (cmb t c).ents = (cmb s c).ents ∧
      rdF t (cellReg c 4 8) 0 16 = satAdd 65535 (rdF s (cellReg c 4 8) 0 16) 1 ∧ bit (rd t (cellReg c 4 4)) 0 = true)

/-- R175, R176, R179, R220: what a current chunk whose signature agrees does: a CREDIT adds its sends to its edge; a TOKEN gives
its edge the number of DATA chunks; a MAP from above gives a sparse instance its number of tiles; a DATA half that is a whole
chunk takes the slot its credit reserved, and counts as received if its check value holds. R174, R176, R199: a wrong check value
ends the instance with CHECK, a chunk without a credit with PROTOCOL. -/
def Sys2Proof.Claim.ChunksTaken : Prop :=
  (∀ (c : Cell) (ecc : Ecc) (e k : Nat) (s : State) (r : CRun) (p : RxPkt) (rest : List RxPkt), Current s c e r p rest →
    runDiff s c e r.desc r.ph (hInl p.hdr 12 3) (hdrSig p.hdr) = none → edgeOf s c e p.hdr = some k →
    (hInl p.hdr 12 3 = 1 → ∃ t r', exec (.creditChunk c) s = .next (cmSettle t c) ∧ (cmb t c).inbox = rest ∧ crun t c e = some r' ∧
      r'.edge k = { r.edge k with cred := (r.edge k).cred + hInl p.hdr 88 8, credSeen := true } ∧
      (∀ j, j ≠ k → r'.edge j = r.edge j) ∧ r'.since = cyc s c.field ∧ Touches [.cmbs] s t) ∧
    (hInl p.hdr 12 3 = 3 → ∃ t r', exec (.tokenChunk c) s = .next (cmSettle t c) ∧ (cmb t c).inbox = rest ∧ crun t c e = some r' ∧
      r'.edge k = { r.edge k with tok := some (hInl p.hdr 96 32), passed := true } ∧
      (∀ j, j ≠ k → r'.edge j = r.edge j) ∧ r'.since = cyc s c.field ∧ Touches [.cmbs] s t) ∧
    (hInl p.hdr 12 3 = 4 → kSparse r.desc = true → k = 7 → ∃ t, exec (.mapChunk c) s = .next (cmSettle t c) ∧
      (cmb t c).inbox = rest ∧ crun t c e = some { r with gotMap := some (hInl p.hdr 88 8, hInl p.hdr 96 32) } ∧
      Touches [.cmbs] s t) ∧
    (hInl p.hdr 12 3 = 0 → k ≠ 7 → hInl p.hdr 11 1 = 0 → hInl p.hdr 88 8 < nChunks (phFmt r.desc r.ph) (upElems s c e r) →
      (r.edge k).slots.find? (fun x => x.idx == hInl p.hdr 88 8) = none →
      chunkLen (phFmt r.desc r.ph) (upElems s c e r) (hInl p.hdr 88 8) ≤ 2048 →
      ((r.edge k).granted = 0 → ∃ t, exec (.dataChunk c ecc) s = .next t ∧
        Aborted s t c e r ⟨0x60, c.x.val, c.y.val, cLevel s c e⟩ none) ∧
      (0 < (r.edge k).granted →
        (dataBytes p.hdr p.data).length = chunkLen (phFmt r.desc r.ph) (upElems s c e r) (hInl p.hdr 88 8) →
        (crc32c (dataBytes p.hdr p.data) = hInl p.hdr 96 32 →
          ∃ t r', exec (.dataChunk c ecc) s = .next (cmSettle t c) ∧ (cmb t c).inbox = rest ∧ crun t c e = some r' ∧
            r'.edge k = { r.edge k with
              passed := true, granted := (r.edge k).granted - 1, got := (r.edge k).got + 1,
              slots := (r.edge k).slots ++ [⟨hInl p.hdr 88 8, some (dataBytes p.hdr p.data), some [], hInl p.hdr 96 32⟩] } ∧
            (∀ j, j ≠ k → r'.edge j = r.edge j) ∧ r'.since = cyc s c.field ∧ Touches [.cmbs] s t) ∧
        (crc32c (dataBytes p.hdr p.data) ≠ hInl p.hdr 96 32 →
          ∃ t, exec (.dataChunk c ecc) s = .next t ∧ crun t c e = none ∧
            (cent t c e).last = ⟨0x30, c.x.val, c.y.val, cLevel s c e⟩))))

/-- R174: a member of a dense reduction reads its next own chunk from SRC, one at a time. R177, R188: an entry below the top root
that has every input of its next chunk of INT32 elements under SUM, and whose group's turn it is (R200), forms a result whose every element is the sum modulo 2^32 of
its own and its children's, and that waits to go up with its check value. R174: an uncorrectable word ends the instance with
CHECK and is counted. -/
def Obligations.ChunksReadAndCombined : Prop :=
  (∀ (c : Cell) (e : Fin 32) (s : State) (r : CRun), clocked s c.field = true → crun s c e.val = some r → kOp r.desc ≤ 2 →
    kSparse r.desc = false → cBase s c e.val = true → r.own = none → slotOpen s c e.val r = true →
    r.read < nChunks (kFmt r.desc) (kCount r.desc) →
    ∃ t, exec (.chunkRead c e) s = .next t ∧
      crun t c e.val = some { r with
        own := some (r.read, memRead s c.key (kSrc r.desc + 4096 * r.read) (chunkLen (kFmt r.desc) (kCount r.desc) r.read)),
        read := r.read + 1 } ∧
      (∀ f, f ≠ e.val → cent t c f = cent s c f) ∧ Touches [.cmbs] s t) ∧
  (∀ (c : Cell) (e : Fin 32) (s : State) (r : CRun) (own : List Byte), LoneRun s c e.val r → kOp r.desc ≤ 2 →
    kSparse r.desc = false → kFmt r.desc = 5 → r.next < nChunks 5 (kCount r.desc) → inputsReady s c e.val r r.next = true →
    ownInput s c e.val r r.next = some own → (combinePick s c e.val).map (fun x => x.1) = some (cGroup s c e.val) →
    (kRed r.desc = 0 → cRoot s c e.val = false → (cmb s c).bad = [] →
      (∀ k, k < cNch s c e.val → ((edgeChunk r k r.next).getD []).length = own.length) →
      ∃ t r' l, exec (.chunkCombine c e .ok) s = .next (cmSettle t c) ∧
        crun t c e.val = some r' ∧ r'.next = r.next + 1 ∧ r'.res = r.res ++ [⟨r.next, l, crc32c l⟩] ∧
        (∀ j, 4 * j + 4 ≤ own.length → natOf ((l.drop (4 * j)).take 4) =
          (natOf ((own.drop (4 * j)).take 4) +
            sumN ((List.range (cNch s c e.val)).map (fun k => natOf ((((edgeChunk r k r.next).getD []).drop (4 * j)).take 4)))) % 2 ^ 32) ∧
        t.mem = s.mem ∧ t.regs = s.regs) ∧
    (∃ t, exec (.chunkCombine c e .ue) s = .next t ∧ Aborted s t c e.val r ⟨0x30, c.x.val, c.y.val, cLevel s c e.val⟩ none ∧
      rdF t (cellReg c 4 0x24) 16 8 = satAdd 255 (rdF s (cellReg c 4 0x24) 16 8) 1))

/-- R175, R179: an entry below the top root with a result, an open gate (R196) and a credit of its parent sends the result as a
DATA chunk in halves of up to 2,048 bytes and spends the credit; when it has sent the last, its TOKEN with the number of chunks
follows. A down chunk goes to a child that needs it on the child's credit, unchanged; the slot of one that has gone to all its
targets is freed, and its CREDIT follows to the parent, as its last flit enters the router's C input, and no earlier. -/
def Sys2Proof.Claim.ChunksSent : Prop :=
  (∀ (c : Cell) (e : Fin 32) (s : State) (r : CRun) (x : CRes) (rest : List CRes), LoneRun s c e.val r → cRoot s c e.val = false →
    r.res = x :: rest → gateOpen s c e.val r = true → 0 < (r.edge 7).cred → (cmb s c).bad = [] →
    ∃ t r', ∃ mk : Nat → List Byte → Nat → TxPkt, exec (.chunkSend c e .up .ok) s = .next (cmSettle t c) ∧ crun t c e.val = some r' ∧ r'.res = rest ∧
      r'.upSent = r.upSent + 1 ∧ r'.leaving = r.leaving + 1 ∧ (r'.edge 7).cred = (r.edge 7).cred - 1 ∧
      (∀ half l port, mk half l port = chunkPkt (chunkInl s c e.val 0 half 0 (cPidx s c e.val) (sigOf s c e.val r.desc r.ph) r.seq
        x.idx x.crc) (parentAddr s c e.val) l port) ∧
      (txEnd t (.cmb c)).queue = (txEnd s (.cmb c)).queue ++
        (if x.bytes.length ≤ 2048 then [mk 0 x.bytes (1 + e.val)]
          else [mk 0 (x.bytes.take 2048) 0, mk 1 (x.bytes.drop 2048) (1 + e.val)]) ∧ Touches [.cmbs, .tx] s t) ∧
  (∀ (c : Cell) (e : Fin 32) (ecc : Ecc) (s : State) (r : CRun), LoneRun s c e.val r → cRoot s c e.val = false → upTokDue s c e.val r = true →
    ∃ t, exec (.chunkSend c e .up ecc) s = .next (cmSettle t c) ∧ crun t c e.val = some { r with upTok := true } ∧
      (txEnd t (.cmb c)).queue = (txEnd s (.cmb c)).queue ++
        [chunkPkt (chunkInl s c e.val 0 0 3 (cPidx s c e.val) (sigOf s c e.val r.desc r.ph) r.seq 0 r.upSent)
          (parentAddr s c e.val) [] 0] ∧ Touches [.cmbs, .tx] s t) ∧
  (∀ (c : Cell) (e : Fin 32) (k : Fin 7) (s : State) (r : CRun) (x : CItem), LoneRun s c e.val r → k.val < 6 →
    (cRoot s c e.val = true → gateOpen s c e.val r = true) → downTokDue r k.val = none →
    r.downs.find? (fun y => y.todo.contains k.val) = some x → inCounts r.desc x.ph = false → 0 < (r.edge k.val).cred →
    (cmb s c).bad = [] → (∀ y, y ∈ r.downs → y.ph = x.ph → y.idx = x.idx → y = x) →
    ∃ t, exec (.chunkSend c e (.down k) .ok) s = .next (cmSettle t c) ∧
      (txEnd t (.cmb c)).queue = (txEnd s (.cmb c)).queue ++
        (if x.bytes.length ≤ 2048 then
          [chunkPkt (chunkInl s c e.val 1 0 0 0 (sigOf s c e.val r.desc x.ph) r.seq x.idx x.crc) (childAddr s c e.val k.val) x.bytes
            (downMark e.val x.ph)]
        else
          [chunkPkt (chunkInl s c e.val 1 0 0 0 (sigOf s c e.val r.desc x.ph) r.seq x.idx x.crc) (childAddr s c e.val k.val)
            (x.bytes.take 2048) 0,
           chunkPkt (chunkInl s c e.val 1 1 0 0 (sigOf s c e.val r.desc x.ph) r.seq x.idx x.crc) (childAddr s c e.val k.val)
            (x.bytes.drop 2048) (downMark e.val x.ph)]) ∧
      (∃ r', crun t c e.val = some r' ∧ (r'.edge k.val).cred = (r.edge k.val).cred - 1 ∧
        r'.downs = r.downs.map (fun y => if y = x then { x with todo := x.todo.filter (fun j => j != k.val), out := x.out + 1 } else y)) ∧
      Touches [.cmbs, .tx] s t) ∧
  (∀ (c : Cell) (e : Fin 32) (ecc : Ecc) (s : State) (r : CRun) (x : CItem) (z : TxCur) (d : Drr) (y : Payload), LoneRun s c e.val r →
    effSt s (.cmb c) = some .up → (link s (.cmb c)).resend = 0 → (link s (.cmb c)).replay.length < 32 → holdsBack s (.cmb c) = false →
    (txEnd s (.cmb c)).cur.length = 4 → unitGrant s (.cmb c) = some (2, d) → lget (txEnd s (.cmb c)).cur 2 none = some z →
    z.begun = true → z.left = [y] → z.pkt.ctx = none → z.pkt.port = downMark e.val x.ph → hInl z.pkt.hdr 56 32 = r.seq →
    hInl z.pkt.hdr 88 8 = x.idx → r.downs = [x] → x.todo = [] → x.out = 1 → x.slot = 2 →
    ∃ t, exec (.flitSend (.cmb c) ecc) s = .next (cmSettle t c) ∧ Emitted s t (.cmb c) y ∧
      (∃ r', crun t c e.val = some r' ∧ r'.downs = [] ∧ (r'.edge 7).granted = (r.edge 7).granted + 1) ∧
      (txEnd t (.cmb c)).queue = (txEnd s (.cmb c)).queue ++
        [chunkPkt (chunkInl s c e.val 0 0 1 (cPidx s c e.val) (sigOf s c e.val r.desc r.ph) r.seq 1 0) (parentAddr s c e.val) [] 0] ∧
      Touches [.regs, .links, .tx, .cmbs] s t)

/-- R226: the Finder's pass keeps as many tiles as FRAC of all tiles, rounded up, but no more than there are positive ones; no
tile of value 0; and never a tile beside which one of greater value, or of the same value and a lower index, is left out. -/
def Obligations.FinderKeepsTheGreatest : Prop :=
  ∀ (c : Cell) (e : Fin 32) (s : State) (r : CRun) (vals : List Byte), LoneRun s c e.val r → cRoot s c e.val = true →
    inMap r.desc r.ph = true → kMode r.desc = 2 → r.gotMap = none → upFormed s c e.val r = true →
    vals = memRead s c.key r.ws (kGeo r.desc).nt →
    (∀ v, 0 < v → r.hist.get v 0 = (vals.filter (fun b => b.toNat == v)).length) → (∀ b, b ∈ vals → b.toNat ≤ 0x7C) →
    ∃ t r', exec (.finderTopPass c e) s = .next (cmSettle t c) ∧ crun t c e.val = some r' ∧
      r'.gotMap = some (2, min (ceilDiv (kThr r.desc % 65536 * (kGeo r.desc).nt) 65536) (vals.filter (fun b => b != 0)).length) ∧
      popN r'.map (kGeo r.desc).nt =
        min (ceilDiv (kThr r.desc % 65536 * (kGeo r.desc).nt) 65536) (vals.filter (fun b => b != 0)).length ∧
      (∀ i, r'.map.testBit i = true → i < (kGeo r.desc).nt ∧ vals.getD i 0 ≠ 0) ∧
      (∀ i j, r'.map.testBit i = true → j < (kGeo r.desc).nt → r'.map.testBit j = false →
        (vals.getD j 0).toNat < (vals.getD i 0).toNat ∨ vals.getD j 0 = vals.getD i 0 ∧ i < j)

/-- R185, R229: after the counts phase of ALLTOALLV a member's descriptor sends its segments as WRITEs on BLK, each clipped at
RCAP, in packets of up to 2,048 bytes: segment j, which lies in the send buffer behind those before it, to the cell that RMAP names
for rank j, from DST + P[j] elements on. The elements not sent, and those that the member itself could not be sent, are counted. -/
def Sys2Proof.Claim.AlltoallvSends : Prop :=
  ∀ (c : Cell) (e : Fin 32) (s : State) (r : CRun) (id : Nat) (x : Ctx) (cnt : List Nat) (len w dst : Nat → Nat),
    LoneRun s c e.val r → kOp r.desc = 6 → r.ph = 1 → r.a2a = false → r.ctx = some id → ctxOf s (.ni c) id = some x →
    cnt = countVec s c r.desc (cMembers s c e.val) →
    (∀ j, len j = elemBytes (kFmt r.desc) * min (cnt.getD j 0) (kRcap r.desc - cvAt r 0 j)) →
    (∀ j, w j = natOf (memRead s c.key (kRmap r.desc + 8 * j) 8)) →
    (∀ j, dst j = bits (BitVec.ofNat 64 (w j)) 16 20 * 2 ^ 56 + bits (BitVec.ofNat 64 (w j)) 0 8 * 2 ^ 48 +
      bits (BitVec.ofNat 64 (w j)) 8 8 * 2 ^ 40 + (kDst r.desc + elemBytes (kFmt r.desc) * cvAt r 0 j)) →
    ∃ t l r', exec (.alltoallvWrites c e) s = .next (cmSettle t c) ∧ ctxOf t (.ni c) id = some { x with todo := l } ∧
      crun t c e.val = some r' ∧ r'.a2a = true ∧
      (∀ p, p ∈ l → p.cmd = 0 ∧ p.cls = 3 ∧ 0 < p.len ∧ p.len ≤ 2048 ∧ p.onStream = true ∧
        ∃ j k, j < cnt.length ∧ 2048 * k < len j ∧ p.len = min 2048 (len j - 2048 * k) ∧
          p.src = .mem (kSrc r.desc + elemBytes (kFmt r.desc) * sumN (cnt.take j) + 2048 * k) p.len ∧
          p.dest = dst j / 2 ^ 40 * 2 ^ 40 + (dst j + 2048 * k) % 2 ^ 40) ∧
      (∀ j k, j < cnt.length → 2048 * k < len j → ∃ p, p ∈ l ∧ p.len = min 2048 (len j - 2048 * k) ∧
        p.dest = dst j / 2 ^ 40 * 2 ^ 40 + (dst j + 2048 * k) % 2 ^ 40) ∧
      sumN (l.map (fun p => p.len)) = elemBytes (kFmt r.desc) *
        sumN (cnt.zipIdx.map (fun y => min y.1 (kRcap r.desc - cvAt r 0 y.2))) ∧
      r'.outDrop = sumN (cnt.zipIdx.map (fun y => y.1 - min y.1 (kRcap r.desc - cvAt r 0 y.2))) ∧
      r'.inDrop = cvAt r 1 (cw s c e.val 4 0 24) - kRcap r.desc ∧
      rdF t (cellReg c 3 0xC00C) 0 32 = satAdd 4294967295 (rdF s (cellReg c 3 0xC00C) 0 32) (min r'.outDrop (2 ^ 24 - 1)) ∧
      rdF t (cellReg c 3 0xC010) 0 32 = satAdd 4294967295 (rdF s (cellReg c 3 0xC010) 0 32) (min r'.inDrop (2 ^ 24 - 1)) ∧
      t.mem = s.mem ∧ Touches [.cmbs, .regs, .units] s t

/-! ## Optical links (R274, R287-R294, R306, R309, R310, R314) and time exchange (R338-R341) -/

/-- R289, R294, R314: an enabled link that has been released starts its lane test from DOWN; a lane of the receive set that loses
lock, or has more uncorrectable codewords in its window than UE_LIMIT, starts it from UP and sets OPT_ERR. The test starts with
nothing received, the link carries nothing, and OPT_HOLD runs; with no lane of the receive set in lock the link is lost. -/
def Sys2Proof.Claim.LaneTestsStart : Prop :=
  ∀ (o : OptId) (lane : Fin 8) (lostLock anyLock fault : Bool) (s : State), clocked s o.gw.dom = true →
    (if fault then optUpNow s o = true ∧ (opt s o).rxSet.testBit lane.val = true ∧
        (lostLock = true ∨ rdF s (optReg o 8) 8 8 < lget (opt s o).ueRun lane.val 0)
      else s.boot.optGo = true ∧ (opt s o).st = .down ∧ bit (rd s (optReg o 0)) 1 = false) →
    ∃ t, exec (if fault then .laneFault o lane lostLock anyLock else .laneTestStart o anyLock) s = .next t ∧
      (opt t o).st = .laneTest ∧ (opt t o).holdBy = optCyc s o + max 60 (rdF s (optReg o 0x44) 16 16) * 2400 ∧
      (opt t o).rxgood = 0 ∧ (opt t o).peerGood = none ∧ (opt t o).done = false ∧ (opt t o).laneRun = zeros8 ∧
      (opt t o).txq = 0 ∧ (opt t o).rxq = 0 ∧ (link t (.optical o)).st = .down ∧
      (fault = true → bit (rd t (optReg o 0x14)) 7 = true) ∧
      (anyLock = true → (opt t o).lost = (opt s o).lost ∧ (link t (.optical o)).replay = (link s (.optical o)).replay ∧
        (link t (.optical o)).txSeq = (link s (.optical o)).txSeq ∧ (link t (.optical o)).rxExp = (link s (.optical o)).rxExp) ∧
      (anyLock = false → (opt t o).lost = true ∧ ((opt s o).lost = false →
        rdF t (optReg o 0x48) 16 8 = satAdd 255 (rdF s (optReg o 0x48) 16 8) 1)) ∧
      Touches [.regs, .links, .units, .rx, .tx, .cmbs, .gws, .tel] s t

/-- R289: in LANE_TEST a right codeword of a lane lengthens its run, and the 1,024th in a row sets the lane's bit of RXGOOD
unless RX_DIS holds it off; RXGOOD of the peer is kept. R292: in UP an uncorrectable codeword is counted, sets OPT_ERR, takes its
place in the order, and owes a NAK. R287, R292: a corrected codeword of IDLE flits acknowledges what ACK12 says and changes no
sequence. R289: a lane-test codeword of a link that is UP puts it into LANE_TEST. R300: a codeword with corrected symbols
counts. -/
def Sys2Proof.Claim.CodewordsReceived : Prop :=
  (∀ (o : OptId) (lane : Fin 8) (n : Fin 16) (msg : BitVec 5140) (s : State), clocked s o.gw.dom = true → (opt s o).done = false →
    (opt s o).doneTx = 0 → bits msg 0 3 = lane.val → bits msg 16 5124 = laneFixed → bits msg 12 4 = 0 →
    ((opt s o).st = .laneTest → (opt s o).laneRun.length = 8 →
      ∃ t, exec (.codewordReceive o (.laneTest lane n msg)) s = .next t ∧ (opt t o).st = .laneTest ∧
        lget (opt t o).laneRun lane.val 0 = min 1024 (lget (opt s o).laneRun lane.val 0 + 1) ∧
        (opt t o).rxgood = (if 1023 ≤ lget (opt s o).laneRun lane.val 0 ∧ (rdF s (optReg o 8) 0 8).testBit lane.val = false ∧
            (opt s o).rxgood.testBit lane.val = false then (opt s o).rxgood + 2 ^ lane.val else (opt s o).rxgood) ∧
        (opt t o).peerGood = some (bits msg 3 8) ∧ (opt t o).peerDone = bit msg 11 ∧
        rdF t (optReg o 0x30) 0 16 = satAdd 65535 (rdF s (optReg o 0x30) 0 16) (if n.val = 0 then 0 else 1) ∧
        RegsBut [optReg o 0x30] s t ∧ Touches [.regs, .gws, .tel] s t) ∧
    ((opt s o).st = .up → ∃ t, exec (.codewordReceive o (.laneTest lane n msg)) s = .next t ∧ (opt t o).st = .laneTest ∧
      (opt t o).rxgood = 0 ∧ (link t (.optical o)).st = .down ∧ (opt t o).lost = (opt s o).lost ∧
      Touches [.regs, .links, .gws, .tel] s t)) ∧
  (∀ (o : OptId) (lane : Fin 8) (s : State), clocked s o.gw.dom = true → (opt s o).st = .up →
    ∃ t, exec (.codewordReceive o (.uncorrectable lane)) s = .next t ∧ (opt t o).st = .up ∧ (opt t o).rxq = (opt s o).rxq + 1 ∧
      (link t (.optical o)).discard = true ∧ ((link s (.optical o)).discard = false → (link t (.optical o)).nak = true) ∧
      (link t (.optical o)).rxExp = (link s (.optical o)).rxExp ∧
      rdF t (optReg o 0x30) 16 16 = satAdd 65535 (rdF s (optReg o 0x30) 16 16) 1 ∧ bit (rd t (optReg o 0x14)) 0 = true ∧
      RegsBut [optReg o 0x30, optReg o 0x14, optReg o 0x74] s t ∧ Touches [.regs, .links, .gws, .tel] s t) ∧
  (∀ (o : OptId) (lane : Fin 8) (m : Fin 16) (msg : BitVec 5140) (n : Nat) (s : State), clocked s o.gw.dom = true →
    (opt s o).st = .up → (link s (.optical o)).stale = none →
    (∀ i, i < 9 → ∃ k, (decodeFlit (cwFlit msg i)).ctl = some k ∧ k.ty = 0 ∧ (decodeFlit (cwFlit msg i)).crcErr = false ∧
      (decodeFlit (cwFlit msg i)).bchUe = false) →
    bit msg 27 = false → ackPos (link s (.optical o)) 4096 (bits msg 15 12) = some n →
    bit (rd s (warmBase (.gw o) + 12)) 8 = false → (opt s o).behind.find 3 = none →
    ∃ t, exec (.codewordReceive o (.framed lane m msg)) s = .next t ∧ (opt t o).st = .up ∧ (opt t o).rxq = (opt s o).rxq + 1 ∧
      (link t (.optical o)).replay = (link s (.optical o)).replay.drop n ∧
      (link t (.optical o)).rxExp = (link s (.optical o)).rxExp ∧ (link t (.optical o)).txSeq = (link s (.optical o)).txSeq ∧
      rdF t (optReg o 0x30) 0 16 = satAdd 65535 (rdF s (optReg o 0x30) 0 16) (if m.val = 0 then 0 else 1) ∧
      RegsBut [optReg o 0x30] s t)

/-- R274, R293, R306: OPTICAL_INGRESS takes the first VC, RSP first, and returns the credit of each flit that it takes. A
link-local packet that the meter lets pass (R153) goes to its gateway if it names the port; one that names another is discarded
and counted. Any other packet that the meter lets pass unchanged goes on through an attachment cell with a credit for its class,
which alternates, with the route chosen as its header unit came in (R307). (DESIGN CHOICE: that the first VC with a flit is taken,
RSP first, log entry 51; that a route is chosen for each attachment cell as the header unit comes in, log entry 17.) -/
def Obligations.IngressForwards : Prop :=
  ∀ (o : OptId) (v : Fin 8) (f : VcFlit) (rest : List VcFlit) (a : Option Asm) (s : State), clocked s o.gw.dom = true →
    (opt s o).ingress.length = 8 → (∀ w, w < v.val → (lget (opt s o).ingress w ⟨[], none⟩).buf = []) →
    lget (opt s o).ingress v.val ⟨[], none⟩ = ⟨f :: rest, a⟩ → f.head = true → f.tail = true → f.credit = true →
    (hDw f.payload = waferLocal → (meterTake s o.gw (hCmd f.payload) (hNdu f.payload) (hCls f.payload)).2 ≠ .drop →
      ∃ t, exec (.opticalIngress o) s = .next t ∧ lget (opt t o).ingress v.val ⟨[], none⟩ = ⟨rest, a⟩ ∧
        (link t (.optical o)).crDue = (link s (.optical o)).crDue ++ [v.val] ∧
        (if namesLink o f.payload then
          ∃ p, (punit t (.gw o.gw)).inbox = (punit s (.gw o.gw)).inbox ++ [p] ∧ p.hdr = f.payload ∧ p.data = [] ∧ p.port = linkPort
        else (punit t (.gw o.gw)).inbox = (punit s (.gw o.gw)).inbox ∧
          rdF t (gwReg o.gw 0 8) 8 8 = satAdd 255 (rdF s (gwReg o.gw 0 8) 8 8) 1) ∧
        Touches [.regs, .links, .units, .gws, .tel] s t) ∧
    (∀ j, hDw f.payload ≠ waferLocal →
      (meterTake s o.gw (hCmd f.payload) (hNdu f.payload) (hCls f.payload)).2 = .forward →
      ingressCell s o (hCls f.payload) = some j →
      ∃ t z, exec (.opticalIngress o) s = .next t ∧ lget (opt t o).ingress v.val ⟨[], none⟩ = ⟨rest, a⟩ ∧
        (link t (.optical o)).crDue = (link s (.optical o)).crDue ++ [v.val] ∧ (opt t o).altLast = j ∧
        (txEnd t (.gw o.gw (Fin.ofNat 16 j))).queue = (txEnd s (.gw o.gw (Fin.ofNat 16 j))).queue ++ [z] ∧
        (z.pre, z.hdr) = lget ((lget (opt s o).marks v.val []).headD ⟨0, []⟩).hdrs j (.later, put f.payload 4 2 (hCls f.payload)) ∧
        z.data = [] ∧ z.cls = hCls f.payload ∧ z.port = j ∧ z.via = some o.port ∧ Touches [.regs, .links, .tx, .gws, .tel] s t)

/-- R310: a matched link that is UP sends an admission probe at its interval, one at a time; without an answer for 1 ms the
peer's admission is cleared, and an ADMITTED link falls back to AWAIT_PEER and is lost. R309: a link that expects a neighbour and
sees none in DISC_TMO is ABSENT. R314: a LANE_TEST or TRAIN that lasts beyond HOLD loses the link. Each loss is counted once. -/
def Obligations.AdmissionAndLoss : Prop :=
  (∀ (o : OptId) (at' : Nat) (s : State), clocked s o.gw.dom = true → (opt s o).disc = 1 → optUpNow s o = true →
    (opt s o).probe = false → (opt s o).probeAt = some at' →
    at' + (if (opt s o).admits then 240000 else 24000) ≤ optCyc s o →
    ∃ t p, exec (.admissionProbe o) s = .next t ∧ (opt t o).out = (opt s o).out ++ [p] ∧ (opt t o).probe = true ∧
      (opt t o).probeAt = some (optCyc s o) ∧ hCmd p.hdr = 1 ∧ hDw p.hdr = waferLocal ∧
      hDx p.hdr = 0xF4 + (peerId s o).2 / 16 ∧ hDy p.hdr = (peerId s o).2 % 16 ∧ hOff p.hdr = 0 ∧ hInl p.hdr 40 12 = 64 ∧
      hInl p.hdr 0 40 = 0 ∧ Touches [.gws] s t) ∧
  (∀ (o : OptId) (at' : Nat) (s : State), (opt s o).disc = 1 → (opt s o).probe = true → (opt s o).probeAt = some at' →
    at' + 2400000 ≤ optCyc s o →
    ∃ t, exec (.probeTimeout o) s = .next t ∧ (opt t o).probe = false ∧ (opt t o).admits = false ∧ (opt t o).outcome = 5 ∧
      ((opt s o).outcome = 6 → (opt s o).lost = false → (opt t o).lost = true ∧
        rdF t (optReg o 0x48) 16 8 = satAdd 255 (rdF s (optReg o 0x48) 16 8) 1) ∧
      ((opt s o).outcome ≠ 6 → (opt t o).lost = (opt s o).lost ∧ t.regs = s.regs)) ∧
  (∀ (o : OptId) (s : State), clocked s o.gw.dom = true → (opt s o).waited = false → (opt s o).discBy ≤ optCyc s o →
    (opt s o).disc = 0 → (opt s o).outcome ≠ 6 →
    ∃ t, exec (.discoveryTimeout o) s = .next t ∧ (opt t o).waited = true ∧
      (opt t o).outcome = (if bit (rd s (optReg o 0x2C)) 31 then 2 else 0) ∧ Touches [.gws] s t) ∧
  (∀ (o : OptId) (s : State), clocked s o.gw.dom = true → (opt s o).st = .laneTest ∨ (opt s o).st = .train → (opt s o).held = false →
    (opt s o).holdBy ≤ optCyc s o →
    ∃ t, exec (.holdTimeout o) s = .next t ∧ (opt t o).lost = true ∧ (opt t o).st = (opt s o).st ∧
      ((opt s o).lost = false → rdF t (optReg o 0x48) 16 8 = satAdd 255 (rdF s (optReg o 0x48) 16 8) 1) ∧
      ((opt s o).lost = true → t.regs = s.regs))

/-- R338-R341: an exchange starts at its interval (the first at once, the model's reading: log entry 95) with the next XSEQ and sends a REQ; a REQ is always answered by a RSP with the
same XSEQ and the time of its arrival; a RSP of the exchange gives ofs, held at ±2^31 ns with RANGE, and the UNSYNC flags; one
that does not belong to it is discarded and counted, one whose exchange was disturbed (and counted then) is discarded, and the
last result stays; one that does not come within 100 µs is counted. (Where half of the sum is no whole number of units, rounding is free: log entry 5.) -/
def Sys2Proof.Claim.TimeExchanges : Prop :=
  (∀ (o : OptId) (s : State), clocked s o.gw.dom = true → bit (rd s (optReg o 0x60)) 0 = true → (opt s o).disc = 1 →
    optState s o = 3 → (opt s o).exch = none →
    (∀ a, (opt s o).exchAt = some a → a + max 10 (rdF s (optReg o 0x60) 8 16) * 2400 ≤ optCyc s o) →
    ∃ t p x, exec (.timeExchangeStart o) s = .next t ∧ (opt t o).xseq = ((opt s o).xseq + 1) % 256 ∧ (opt t o).exch = some x ∧
      x.xseq = (opt t o).xseq ∧ x.spoiled = false ∧ x.since = optCyc s o ∧ (opt t o).out = (opt s o).out ++ [p] ∧
      hCmd p.hdr = 10 ∧ hInl p.hdr 0 2 = 0 ∧ hInl p.hdr 8 8 = (opt t o).xseq ∧ Touches [.gws] s t) ∧
  (∀ (o : OptId) (p : RxPkt) (s s1 : State), clocked s o.gw.dom = true → takeTime s o false = some (p, s1) → timeBad p = false →
    ∃ t q, exec (.timeReq o) s = .next t ∧ (opt t o).out = (opt s o).out ++ [q] ∧ hCmd q.hdr = 10 ∧ hInl q.hdr 0 2 = 1 ∧
      hInl q.hdr 8 8 = hInl p.hdr 8 8 ∧ hInl q.hdr 16 56 = p.t % 2 ^ 56 ∧
      (punit t (.gw o.gw)).inbox = (punit s1 (.gw o.gw)).inbox ∧ Touches [.units, .gws] s t) ∧
  (∀ (o : OptId) (p : RxPkt) (x : Exch) (s s1 : State), clocked s o.gw.dom = true → takeTime s o true = some (p, s1) →
    timeBad p = false → (opt s o).exch = some x →
    (x.spoiled = true ∨ hInl p.hdr 8 8 ≠ x.xseq →
      ∃ t, exec (.timeRsp o) s = .next t ∧ (opt t o).exch = none ∧ (opt t o).result = (opt s o).result ∧
        rdF t (optReg o 0x74) 16 8 = satAdd 255 (rdF s (optReg o 0x74) 16 8) (if x.spoiled then 0 else 1) ∧
        RegsBut [optReg o 0x74] s t ∧
        Touches [.regs, .units, .gws] s t) ∧
    (∀ h : Int, x.spoiled = false → hInl p.hdr 8 8 = x.xseq →
      toSigned 57 (ofSigned 57 (toSigned 56 (hInl p.hdr 16 56 + 2 ^ 56 - x.t1) - toSigned 56 (p.t + 2 ^ 56 - hInl p.hdr 72 56))) -
        toSigned 32 (rd s (optReg o 0x64)).toNat = 2 * h →
      ∃ t r, exec (.timeRsp o) s = .next t ∧ (opt t o).exch = none ∧ (opt t o).result = some r ∧ r.xseq = x.xseq ∧
        r.own = x.unsync ∧ r.peer = bit p.hdr 386 ∧
        (if 2 ^ 47 ≤ h then r.ofs = 2 ^ 47 - 1 ∧ r.range = true
          else if h < -2 ^ 47 then r.ofs = 2 ^ 47 ∧ r.range = true
          else r.ofs = ofSigned 48 h ∧ r.range = false) ∧
        t.regs = s.regs ∧ Touches [.units, .gws, .freeCtr] s t)) ∧
  (∀ (o : OptId) (x : Exch) (s : State), clocked s o.gw.dom = true → (opt s o).exch = some x → x.since + 240000 ≤ optCyc s o →
    ∃ t, exec (.exchangeTimeout o) s = .next t ∧ (opt t o).exch = none ∧ (opt t o).result = (opt s o).result ∧
      rdF t (optReg o 0x74) 24 8 = satAdd 255 (rdF s (optReg o 0x74) 24 8) 1 ∧ RegsBut [optReg o 0x74] s t ∧
      Touches [.regs, .gws] s t)

/-! ## Statements of several parts -/

/-- R26, R37, R118, R113, R70, R158, R162, R403, R275, R428: Writes of the remap lookup, the wafer ID, cell settings, marks, grants and memory sizes take effect. -/
def Obligations.SettingsTakeEffect : Prop :=
  Claim.RemapLookupReadsUnfenced ∧
  Claim.WaferIdWrite ∧
  Claim.CellSettingsWrite ∧
  Claim.HighWaterMarksStartAgain ∧
  Claim.HostGrantTakesEffect ∧
  Claim.MemorySizeMirrored

/-- R91, R111, R104, R383, R399: A path is checked when written, an epoch switch needs nothing old outstanding, a flush frees what its filter names. -/
def Obligations.RoutesEpochsAndLast : Prop :=
  Claim.RoutePathChecked ∧
  Claim.EpochSwitches ∧
  Claim.LastFlushFrees

/-- R261, R262: Rings start, stop and are aborted. -/
def Obligations.RingControl : Prop :=
  Claim.RingEnableStarts ∧
  Claim.RingDisableStops ∧
  Claim.RingAbortFlushes

/-- R267, R243, R278, R279, R402, R432: Mailboxes, the local register port and the BARs. -/
def Obligations.HostWindows : Prop :=
  Claim.MailboxMessages ∧
  Claim.LocalPortServes ∧
  Claim.BarAccessServes

/-- R294, R300, R291, R309, R310, R434: Retraining, disabling, expecting and releasing optical links. -/
def Obligations.OpticalControl : Prop :=
  Claim.OpticalRetrain ∧
  Claim.OpticalDisable ∧
  Claim.OpticalExpectation ∧
  Claim.OpticalGo

/-- R326, R327, R329, R332, R344: The master's adjustment, SET, STEP, SNAP and captures. -/
def Obligations.MeridianRegisters : Prop :=
  Claim.MeridianAdjust ∧
  Claim.MeridianSetAndStep ∧
  Claim.MeridianSnapAndPop

/-- R329, R331, R332, R333, R335: Holdover, captures, PPS pulses and the pulses that reach the copies. -/
def Obligations.MeridianEvents : Prop :=
  Claim.HoldoverExpires ∧
  Claim.TimestampCaptured ∧
  Claim.PpsOutPulses ∧
  Claim.TimePulseReachesCopies

/-- R347, R348, R329, R372: PLLs coast, relock and are measured. -/
def Obligations.Clocks : Prop :=
  Claim.ClockRelock ∧
  Claim.PllEvents ∧
  Claim.ClockMeasured

/-- R359, R360, R361, R362, R365, R367, R368, R417: Domains drain to a low state, are forced off, and drains end or time out. -/
def Obligations.PowerDown : Prop :=
  Claim.PowerDownDrains ∧
  Claim.ForceOffLosesDomain ∧
  Claim.DrainPhases ∧
  Claim.GateAndDrainTimeout

/-- R359, R364, R366, R369, R433: Domains move from low states, wake and enter RUN. -/
def Obligations.PowerUp : Prop :=
  Claim.PowerMovesFromLow ∧
  Claim.WakeSources ∧
  Claim.DomainsEnterRun

/-- R363, R366, R429, R431: Accesses that wake a domain, and accesses that fail. -/
def Obligations.ConfigNetwork : Prop :=
  Claim.ConfigAccessWakes ∧
  Claim.ConfigNetworkFailures

/-- R374, R375, R376, R379, R384, R385, R386, R396: Error pins, reports, the log and its reads. -/
def Obligations.FaultsReachLog : Prop :=
  Claim.ErrorPinReported ∧
  Claim.ReportsReachLog ∧
  Claim.LogReadCount ∧
  Claim.LogSlotReadHolds

/-- R387, R391, R392: Fault injection and telemetry snapshots. -/
def Obligations.InjectionAndSnapshots : Prop :=
  Claim.InjectionAndSnapshotGo ∧
  Claim.InjectedReport ∧
  Claim.SnapshotCopies

/-- R407, R409, R411: Debug requests are checked; VERIFY and RELOCK. -/
def Obligations.DebugRequests : Prop :=
  Claim.DebugRequestChecked ∧
  Claim.DebugVerifyAndRelock

/-- R405, R407, R409: Challenges, comparisons and lockouts end. -/
def Obligations.DebugOutcomes : Prop :=
  Claim.ChallengeAndLockout ∧
  Claim.VerifyCompares

/-- R58, R59, R66, R67, R68: Sequenced flits are taken in order, and retry timers act. -/
def Obligations.FlitsReceivedAndRetried : Prop :=
  Claim.FlitReceiveSequence ∧
  Claim.RetryTimeouts

/-- R67, R69, R70, R113: Training counts, and ports go down or are disabled. -/
def Obligations.LinksTrainAndGoDown : Prop :=
  Claim.TrainFlitsCount ∧
  Claim.PortsGoDown

/-- R50, R59, R63, R65, R67, R70, R81, R94, R145: What an end sends, allocates and injects. -/
def Obligations.FlitsSent : Prop :=
  Claim.FlitSendChooses ∧
  Claim.AllocationAndInjection

/-- R14, R121, R125, R126, R129, R131, R132, R139, R140, R295: Welt flits are stored and sent in their slots, and armed swaps happen when due. -/
def Obligations.Welts : Prop :=
  Claim.WeltFlitsPass ∧
  Claim.WeltSwapWhenDue

/-- R82, R84, R95, R100, R101, R255, R258, R383: A WRITE, with or without a stream, is placed and acknowledged with its check value; SIGNALs on a stream. -/
def Obligations.WritePlacesAndAcks : Prop :=
  Claim.WritePlacesAndAcks ∧
  Claim.StreamArrivals

/-- R255, R258, R266, R82, R84: A SIGNAL writes its notice, and a READ_REQ is answered. -/
def Obligations.SignalsAndReads : Prop :=
  Claim.SignalWritesNotice ∧
  Claim.ReadRequestAnswered

/-- R82, R84, R275, R276, R277, R280, R281, R285, R298, R299: Memory and host ports take requests; memory ports commit and answer them. -/
def Obligations.MemoryPortServes : Prop :=
  Claim.PortsTakeRequests ∧
  Claim.MemoryPortServes

/-- R278, R281, R282, R284, R285, R299: Host ports answer; their link and a function level reset. -/
def Obligations.HostPorts : Prop :=
  Claim.HostPortServes ∧
  Claim.HostLinkAndReset

/-- R95, R96, R97, R98, R99, R102, R242: ACK, READ_DATA and STREAM_RSP end the requests they answer. -/
def Obligations.ResponsesTaken : Prop :=
  Claim.AckCompletes ∧
  Claim.ReadDataPlaced ∧
  Claim.StreamResponseTaken

/-- R96, R102, R317: Timeouts, quarantines, releases and the loss of a wafer end requests. -/
def Obligations.OutstandingEntriesEnd : Prop :=
  Claim.OutstandingTimers ∧
  Claim.OffWaferLossEndsRequests

/-- R98, R102, R133, R135, R252, R253, R254, R256: FENCE, SIGNAL and STREAM_OPEN send; waits and releases wait. -/
def Obligations.DescriptorsSendOrWait : Prop :=
  Claim.StreamDescriptorsSend ∧
  Claim.DescriptorsWait

/-- R133, R134, R135, R257, R260: Welts open and close, and their notices are taken. -/
def Obligations.Circuits : Prop :=
  Claim.CircuitsOpenAndClose ∧
  Claim.CircuitNoticeTaken

/-- R175, R181, R185, R229: A COLL launches with its credits, and ALLTOALLV sends its segments. -/
def Obligations.CollectivesStart : Prop :=
  Claim.CollectiveLaunches ∧
  Claim.AlltoallvSends

/-- R195, R196, R197, R198, R199, R201, R317: Chunks are compared, and what aborts an instance. -/
def Obligations.InstancesEnd : Prop :=
  Claim.InstancesAbort ∧
  Claim.ChunksCompared

/-- R174, R175, R176, R179, R220: What chunks do on arrival and when they are sent. -/
def Obligations.ChunksMove : Prop :=
  Claim.ChunksTaken ∧
  Claim.ChunksSent

/-- R287, R289, R292, R294, R300, R314: Lane tests start, and codewords are received. -/
def Obligations.LanesAndCodewords : Prop :=
  Claim.LaneTestsStart ∧
  Claim.CodewordsReceived

/-- R338, R339, R340, R341, R345, R12: Time exchanges between wafers, and their result (free rounding: log entry 5). -/
def Obligations.TimeExchanges : Prop :=
  Claim.TimeExchanges ∧
  Claim.TimeStatusRead
end

