-- ==== Sys2Proof/Laws/Memory.lean ====
section
/-! SUPPORT. Finite maps and memory: a read after a write, and that every operation of memory keeps its canonical form. -/

namespace Sys2Proof.Machine

/-! ## Finite maps -/

theorem FMap.find_set_same {α : Type} (m : FMap α) (a : Nat) (x : α) : FMap.find (FMap.set m a x) a = some x := by
  induction m with
  | nil => simp [FMap.set, FMap.find]
  | cons e r ih =>
    obtain ⟨k, v⟩ := e
    by_cases h : k = a
    · simp [FMap.set, FMap.find, h]
    · by_cases h' : a < k
      · simp [FMap.set, FMap.find, h, h']
      · simp [FMap.set, FMap.find, h, h', ih]

theorem FMap.find_set_ne {α : Type} (m : FMap α) {a b : Nat} (x : α) (h : b ≠ a) :
    FMap.find (FMap.set m a x) b = FMap.find m b := by
  have h2 : ¬ a = b := fun e => h e.symm
  induction m with
  | nil => simp [FMap.set, FMap.find, h2]
  | cons e r ih =>
    obtain ⟨k, v⟩ := e
    by_cases h1 : k = a
    · simp [FMap.set, FMap.find, h1, h2]
    · by_cases h' : a < k
      · simp [FMap.set, FMap.find, h1, h', h2]
      · by_cases hk : k = b
        · subst hk
          simp [FMap.set, FMap.find, h, h']
        · simp [FMap.set, FMap.find, h1, h', hk, ih]

@[simp] theorem FMap.get_set_same {α : Type} (m : FMap α) (a : Nat) (x d : α) : FMap.get (FMap.set m a x) a d = x := by
  simp [FMap.get, FMap.find_set_same]

theorem FMap.get_set_ne {α : Type} (m : FMap α) {a b : Nat} (x d : α) (h : b ≠ a) :
    FMap.get (FMap.set m a x) b d = FMap.get m b d := by
  simp [FMap.get, FMap.find_set_ne m x h]

theorem FMap.find_erase_same {α : Type} (m : FMap α) (a : Nat) : FMap.find (FMap.erase m a) a = none := by
  induction m with
  | nil => simp [FMap.erase, FMap.find]
  | cons e r ih =>
    obtain ⟨k, v⟩ := e
    by_cases h : k = a
    · simpa [FMap.erase, h] using ih
    · simpa [FMap.erase, FMap.find, h] using ih

theorem FMap.find_erase_ne {α : Type} (m : FMap α) {a b : Nat} (h : b ≠ a) : FMap.find (FMap.erase m a) b = FMap.find m b := by
  induction m with
  | nil => simp [FMap.erase]
  | cons e r ih =>
    obtain ⟨k, v⟩ := e
    by_cases h1 : k = a
    · have h2 : ¬ a = b := fun e => h e.symm
      simpa [FMap.erase, FMap.find, h1, h2] using ih
    · by_cases h2 : k = b
      · subst h2
        simp [FMap.erase, FMap.find, h1]
      · simpa [FMap.erase, FMap.find, h1, h2] using ih

/-- Rising keys: the first lies below all others, which rise. -/
theorem FMap.rising_cons {α : Type} (k : Nat) (v : α) (r : FMap α) :
    FMap.rising ((k, v) :: r) = true ↔ (∀ e ∈ r, k < e.1) ∧ FMap.rising r = true := by
  induction r generalizing k v with
  | nil => simp [FMap.rising]
  | cons e r ih =>
    obtain ⟨k', v'⟩ := e
    simp only [FMap.rising, Bool.and_eq_true, decide_eq_true_eq, List.mem_cons, forall_eq_or_imp]
    constructor
    · intro ⟨h1, h2⟩
      exact ⟨⟨h1, fun e he => Nat.lt_trans h1 (((ih k' v').1 h2).1 e he)⟩, h2⟩
    · intro ⟨⟨h1, _⟩, h2⟩
      exact ⟨h1, h2⟩

theorem FMap.mem_set {α : Type} {m : FMap α} {a : Nat} {x : α} {e : Nat × α} (h : e ∈ FMap.set m a x) :
    e = (a, x) ∨ e ∈ m := by
  induction m with
  | nil => simpa [FMap.set] using h
  | cons f r ih =>
    obtain ⟨k, v⟩ := f
    by_cases h1 : k = a
    · simp only [FMap.set, h1, if_true, List.mem_cons] at h
      exact h.imp id (fun g => List.mem_cons_of_mem _ g)
    · by_cases h2 : a < k
      · simp only [FMap.set, h1, h2, if_true, if_false, List.mem_cons] at h
        simpa using h
      · simp only [FMap.set, h1, h2, if_false, List.mem_cons] at h
        rcases h with h | h
        · exact Or.inr (h ▸ List.mem_cons_self)
        · exact (ih h).imp id (fun g => List.mem_cons_of_mem _ g)

theorem FMap.rising_set {α : Type} {m : FMap α} (a : Nat) (x : α) (h : FMap.rising m = true) :
    FMap.rising (FMap.set m a x) = true := by
  induction m with
  | nil => simp [FMap.set, FMap.rising]
  | cons f r ih =>
    obtain ⟨k, v⟩ := f
    obtain ⟨h1, h2⟩ := (FMap.rising_cons k v r).1 h
    by_cases hk : k = a
    · simp only [FMap.set, hk, if_true]
      exact (FMap.rising_cons a x r).2 ⟨hk ▸ h1, h2⟩
    · by_cases ha : a < k
      · simp only [FMap.set, hk, ha, if_true, if_false]
        refine (FMap.rising_cons a x _).2 ⟨fun e he => ?_, h⟩
        rcases List.mem_cons.1 he with rfl | he
        · exact ha
        · exact Nat.lt_trans ha (h1 e he)
      · simp only [FMap.set, hk, ha, if_false]
        refine (FMap.rising_cons k v _).2 ⟨fun e he => ?_, ih h2⟩
        rcases FMap.mem_set he with rfl | he
        · exact Nat.lt_of_le_of_ne (Nat.le_of_not_lt ha) hk
        · exact h1 e he

theorem FMap.rising_filter {α : Type} {m : FMap α} (p : Nat × α → Bool) (h : FMap.rising m = true) :
    FMap.rising (m.filter p) = true := by
  induction m with
  | nil => rfl
  | cons f r ih =>
    obtain ⟨k, v⟩ := f
    obtain ⟨h1, h2⟩ := (FMap.rising_cons k v r).1 h
    by_cases hp : p (k, v) = true
    · rw [List.filter_cons_of_pos hp]
      exact (FMap.rising_cons k v _).2 ⟨fun e he => h1 e (List.mem_filter.1 he).1, ih h2⟩
    · rw [List.filter_cons_of_neg hp]
      exact ih h2

/-! ## Memory -/

theorem memory_wf_iff (m : List Host.Cell) :
    Memory.wf m = true ↔ FMap.rising m = true ∧ ∀ e ∈ m, e.2 ≠ memDefault := by
  simp [Memory.wf]

/-- A write of a byte keeps the canonical form. -/
theorem memPut_wf {m : List Host.Cell} (a : Nat) (v : Byte) (h : Memory.wf m = true) : Memory.wf (memPut m a v) = true := by
  obtain ⟨h1, h2⟩ := (memory_wf_iff m).1 h
  rw [memory_wf_iff]
  by_cases hv : v = memDefault
  · simp only [memPut, hv, if_true, FMap.erase]
    exact ⟨FMap.rising_filter _ h1, fun e he => h2 e (List.mem_filter.1 he).1⟩
  · simp only [memPut, hv, if_false]
    refine ⟨FMap.rising_set a v h1, fun e he => ?_⟩
    rcases FMap.mem_set he with rfl | he
    · exact hv
    · exact h2 e he

/-- A write of bytes keeps the canonical form. -/
theorem memPuts_wf {m : List Host.Cell} (a : Nat) (l : List Byte) (h : Memory.wf m = true) : Memory.wf (memPuts m a l) = true := by
  induction l generalizing m a with
  | nil => exact h
  | cons b r ih => exact ih (a + 1) (memPut_wf a b h)

@[simp] theorem memGet_memPut_same (m : List Host.Cell) (a : Nat) (v : Byte) : memGet (memPut m a v) a = v := by
  by_cases hv : v = memDefault
  · simp [memGet, memPut, hv, FMap.get, FMap.find_erase_same]
  · simp [memGet, memPut, hv]

theorem memGet_memPut_ne (m : List Host.Cell) {a b : Nat} (v : Byte) (h : b ≠ a) : memGet (memPut m a v) b = memGet m b := by
  by_cases hv : v = memDefault
  · simp [memGet, memPut, hv, FMap.get, FMap.find_erase_ne m h]
  · simp only [memGet, memPut, hv, if_false, FMap.get_set_ne m v memDefault h]

/-- A write of bytes leaves every byte outside them. -/
theorem memGet_memPuts_out (m : List Host.Cell) (a : Nat) (l : List Byte) {b : Nat} (h : b < a ∨ a + l.length ≤ b) :
    memGet (memPuts m a l) b = memGet m b := by
  induction l generalizing m a with
  | nil => rfl
  | cons x r ih =>
    have hb : b < a + 1 ∨ a + 1 + r.length ≤ b := by simp only [List.length_cons] at h; omega
    have hne : b ≠ a := by simp only [List.length_cons] at h; omega
    show memGet (memPuts (memPut m a x) (a + 1) r) b = memGet m b
    rw [ih _ _ hb, memGet_memPut_ne m x hne]

/-- A written byte reads back. -/
theorem memGet_memPuts_in (m : List Host.Cell) (a : Nat) (l : List Byte) {i : Nat} (h : i < l.length) :
    memGet (memPuts m a l) (a + i) = l[i] := by
  induction l generalizing m a i with
  | nil => exact absurd h (Nat.not_lt_zero i)
  | cons x r ih =>
    show memGet (memPuts (memPut m a x) (a + 1) r) (a + i) = _
    cases i with
    | zero => rw [memGet_memPuts_out _ _ _ (Or.inl (by omega))]; simp
    | succ j =>
      have hj : j < r.length := by simpa using h
      rw [show a + (j + 1) = a + 1 + j by omega, ih _ _ hj]
      simp

end Sys2Proof.Machine
end

