-- ==== Sys2Proof/Laws/Touch.lean ====
section
/-! SUPPORT. How `Touches` composes: through a change of one field, a choice, and a fold. -/

namespace Sys2Proof.Machine

theorem Part.same_refl (p : Part) (s : State) : p.same s s := by
  cases p <;> first | rfl | exact Nat.le_refl _

theorem Touches.refl (m : List Part) (s : State) : Touches m s s :=
  ⟨fun p _ => p.same_refl s, id, id⟩

theorem Part.same_trans {p : Part} {s t u : State} (h : p.same s t) (g : p.same t u) : p.same s u := by
  cases p <;> first | exact Eq.trans g h | exact Nat.le_trans g h

theorem Touches.trans {m : List Part} {s t u : State} (h : Touches m s t) (g : Touches m t u) : Touches m s u :=
  ⟨fun p hp => Part.same_trans (h.stays p hp) (g.stays p hp), fun x => g.memForm (h.memForm x), fun x => g.secForm (h.secForm x)⟩

theorem Touches.mono {a m : List Part} {s t : State} (hm : a ⊆ m) (h : Touches a s t) : Touches m s t :=
  ⟨fun p hp => h.stays p (fun x => hp (hm x)), h.memForm, h.secForm⟩

/-- A fold whose every step touches no more than a list of parts touches no more. -/
theorem Touches.foldl {α : Type} {m : List Part} {s0 : State} {f : State → α → State} (l : List α)
    (hf : ∀ (t : State) (x : α), Touches m s0 t → Touches m s0 (f t x)) {s : State} (h : Touches m s0 s) :
    Touches m s0 (l.foldl f s) := by
  induction l generalizing s with
  | nil => exact h
  | cons x r ih => exact ih (hf s x h)

theorem Touches.set_links {m : List Part} {s0 s : State} (x) (hm : [Part.links] ⊆ m) (h : Touches m s0 s) :
    Touches m s0 { s with links := x } :=
  h.trans ⟨fun p hp => by cases p <;> first | rfl | exact Nat.le_refl _ | exact absurd (hm (List.mem_singleton.2 rfl)) hp, id, id⟩

theorem Touches.set_routers {m : List Part} {s0 s : State} (x) (hm : [Part.routers] ⊆ m) (h : Touches m s0 s) :
    Touches m s0 { s with routers := x } :=
  h.trans ⟨fun p hp => by cases p <;> first | rfl | exact Nat.le_refl _ | exact absurd (hm (List.mem_singleton.2 rfl)) hp, id, id⟩

theorem Touches.set_units {m : List Part} {s0 s : State} (x) (hm : [Part.units] ⊆ m) (h : Touches m s0 s) :
    Touches m s0 { s with units := x } :=
  h.trans ⟨fun p hp => by cases p <;> first | rfl | exact Nat.le_refl _ | exact absurd (hm (List.mem_singleton.2 rfl)) hp, id, id⟩

theorem Touches.set_rx {m : List Part} {s0 s : State} (x) (hm : [Part.rx] ⊆ m) (h : Touches m s0 s) :
    Touches m s0 { s with rx := x } :=
  h.trans ⟨fun p hp => by cases p <;> first | rfl | exact Nat.le_refl _ | exact absurd (hm (List.mem_singleton.2 rfl)) hp, id, id⟩

theorem Touches.set_tx {m : List Part} {s0 s : State} (x) (hm : [Part.tx] ⊆ m) (h : Touches m s0 s) :
    Touches m s0 { s with tx := x } :=
  h.trans ⟨fun p hp => by cases p <;> first | rfl | exact Nat.le_refl _ | exact absurd (hm (List.mem_singleton.2 rfl)) hp, id, id⟩

theorem Touches.set_cmbs {m : List Part} {s0 s : State} (x) (hm : [Part.cmbs] ⊆ m) (h : Touches m s0 s) :
    Touches m s0 { s with cmbs := x } :=
  h.trans ⟨fun p hp => by cases p <;> first | rfl | exact Nat.le_refl _ | exact absurd (hm (List.mem_singleton.2 rfl)) hp, id, id⟩

theorem Touches.set_gws {m : List Part} {s0 s : State} (x) (hm : [Part.gws] ⊆ m) (h : Touches m s0 s) :
    Touches m s0 { s with gws := x } :=
  h.trans ⟨fun p hp => by cases p <;> first | rfl | exact Nat.le_refl _ | exact absurd (hm (List.mem_singleton.2 rfl)) hp, id, id⟩

theorem Touches.set_doms {m : List Part} {s0 s : State} (x) (hm : [Part.doms] ⊆ m) (h : Touches m s0 s) :
    Touches m s0 { s with doms := x } :=
  h.trans ⟨fun p hp => by cases p <;> first | rfl | exact Nat.le_refl _ | exact absurd (hm (List.mem_singleton.2 rfl)) hp, id, id⟩

theorem Touches.set_clks {m : List Part} {s0 s : State} (x) (hm : [Part.clks] ⊆ m) (h : Touches m s0 s) :
    Touches m s0 { s with clks := x } :=
  h.trans ⟨fun p hp => by cases p <;> first | rfl | exact Nat.le_refl _ | exact absurd (hm (List.mem_singleton.2 rfl)) hp, id, id⟩

theorem Touches.set_mer {m : List Part} {s0 s : State} (x) (hm : [Part.mer] ⊆ m) (h : Touches m s0 s) :
    Touches m s0 { s with mer := x } :=
  h.trans ⟨fun p hp => by cases p <;> first | rfl | exact Nat.le_refl _ | exact absurd (hm (List.mem_singleton.2 rfl)) hp, id, id⟩

theorem Touches.set_flt {m : List Part} {s0 s : State} (x) (hm : [Part.flt] ⊆ m) (h : Touches m s0 s) :
    Touches m s0 { s with flt := x } :=
  h.trans ⟨fun p hp => by cases p <;> first | rfl | exact Nat.le_refl _ | exact absurd (hm (List.mem_singleton.2 rfl)) hp, id, id⟩

theorem Touches.set_tel {m : List Part} {s0 s : State} (x) (hm : [Part.tel] ⊆ m) (h : Touches m s0 s) :
    Touches m s0 { s with tel := x } :=
  h.trans ⟨fun p hp => by cases p <;> first | rfl | exact Nat.le_refl _ | exact absurd (hm (List.mem_singleton.2 rfl)) hp, id, id⟩

theorem Touches.set_boot {m : List Part} {s0 s : State} (x) (hm : [Part.boot] ⊆ m) (h : Touches m s0 s) :
    Touches m s0 { s with boot := x } :=
  h.trans ⟨fun p hp => by cases p <;> first | rfl | exact Nat.le_refl _ | exact absurd (hm (List.mem_singleton.2 rfl)) hp, id, id⟩

theorem Touches.set_tap {m : List Part} {s0 s : State} (x) (hm : [Part.tap] ⊆ m) (h : Touches m s0 s) :
    Touches m s0 { s with tap := x } :=
  h.trans ⟨fun p hp => by cases p <;> first | rfl | exact Nat.le_refl _ | exact absurd (hm (List.mem_singleton.2 rfl)) hp, id, id⟩

theorem Touches.set_held {m : List Part} {s0 s : State} (x) (hm : [Part.held] ⊆ m) (h : Touches m s0 s) :
    Touches m s0 { s with held := x } :=
  h.trans ⟨fun p hp => by cases p <;> first | rfl | exact Nat.le_refl _ | exact absurd (hm (List.mem_singleton.2 rfl)) hp, id, id⟩

theorem Touches.set_resp {m : List Part} {s0 s : State} (x) (hm : [Part.resp] ⊆ m) (h : Touches m s0 s) :
    Touches m s0 { s with resp := x } :=
  h.trans ⟨fun p hp => by cases p <;> first | rfl | exact Nat.le_refl _ | exact absurd (hm (List.mem_singleton.2 rfl)) hp, id, id⟩

theorem Touches.set_bar {m : List Part} {s0 s : State} (x) (hm : [Part.bar] ⊆ m) (h : Touches m s0 s) :
    Touches m s0 { s with bar := x } :=
  h.trans ⟨fun p hp => by cases p <;> first | rfl | exact Nat.le_refl _ | exact absurd (hm (List.mem_singleton.2 rfl)) hp, id, id⟩

theorem Touches.set_warm {m : List Part} {s0 s : State} (x) (hm : [Part.warm] ⊆ m) (h : Touches m s0 s) :
    Touches m s0 { s with warm := x } :=
  h.trans ⟨fun p hp => by cases p <;> first | rfl | exact Nat.le_refl _ | exact absurd (hm (List.mem_singleton.2 rfl)) hp, id, id⟩

theorem Touches.set_mirror {m : List Part} {s0 s : State} (x) (hm : [Part.mirror] ⊆ m) (h : Touches m s0 s) :
    Touches m s0 { s with mirror := x } :=
  h.trans ⟨fun p hp => by cases p <;> first | rfl | exact Nat.le_refl _ | exact absurd (hm (List.mem_singleton.2 rfl)) hp, id, id⟩

theorem Touches.set_errAt {m : List Part} {s0 s : State} (x) (hm : [Part.errAt] ⊆ m) (h : Touches m s0 s) :
    Touches m s0 { s with errAt := x } :=
  h.trans ⟨fun p hp => by cases p <;> first | rfl | exact Nat.le_refl _ | exact absurd (hm (List.mem_singleton.2 rfl)) hp, id, id⟩

theorem Touches.set_wakePin {m : List Part} {s0 s : State} (x) (hm : [Part.wakePin] ⊆ m) (h : Touches m s0 s) :
    Touches m s0 { s with wakePin := x } :=
  h.trans ⟨fun p hp => by cases p <;> first | rfl | exact Nat.le_refl _ | exact absurd (hm (List.mem_singleton.2 rfl)) hp, id, id⟩

theorem Touches.set_aclk {m : List Part} {s0 s : State} (x) (hm : [Part.aclk] ⊆ m) (h : Touches m s0 s) :
    Touches m s0 { s with aclk := x } :=
  h.trans ⟨fun p hp => by cases p <;> first | rfl | exact Nat.le_refl _ | exact absurd (hm (List.mem_singleton.2 rfl)) hp, id, id⟩

theorem Touches.set_freeCtr {m : List Part} {s0 s : State} (x) (hm : [Part.freeCtr] ⊆ m) (h : Touches m s0 s) :
    Touches m s0 { s with freeCtr := x } :=
  h.trans ⟨fun p hp => by cases p <;> first | rfl | exact Nat.le_refl _ | exact absurd (hm (List.mem_singleton.2 rfl)) hp, id, id⟩

theorem Touches.set_regs {m : List Part} {s0 s : State} (x) (hm : [Part.regs] ⊆ m) (h : Touches m s0 s) :
    Touches m s0 { s with regs := x } :=
  h.trans ⟨fun p hp => by cases p <;> first | rfl | exact Nat.le_refl _ | exact absurd (hm (List.mem_singleton.2 rfl)) hp, id, id⟩

theorem Touches.set_mem {m : List Part} {s0 s : State} (x : List Host.Cell) (hm : [Part.mem] ⊆ m)
    (hx : Memory.wf s.mem = true → Memory.wf x = true) (h : Touches m s0 s) : Touches m s0 { s with mem := x } :=
  h.trans ⟨fun p hp => by cases p <;> first | rfl | exact Nat.le_refl _ | exact absurd (hm (List.mem_singleton.2 rfl)) hp, hx, id⟩

/-- A change of the security unit that leaves the level and the level asked for. -/
theorem Touches.set_sec {m : List Part} {s0 s : State} (x : Sec) (hm : [Part.sec] ⊆ m) (hl : x.level = s.sec.level)
    (hp : x.pend = s.sec.pend) (h : Touches m s0 s) : Touches m s0 { s with sec := x } :=
  h.trans ⟨fun p hp => by
    cases p <;> first | rfl | exact Nat.le_of_eq hl | exact absurd (hm (List.mem_singleton.2 rfl)) hp, id,
    fun k => ⟨hl ▸ k.1, hp ▸ k.2⟩⟩

/-- A change of the security unit that does not raise the level, or may, and that the bound on it survives. -/
theorem Touches.set_sec_level {m : List Part} {s0 s : State} (x : Sec) (hm : [Part.sec] ⊆ m)
    (hl : x.level ≤ s.sec.level ∨ [Part.levelRise] ⊆ m)
    (hk : SecOk s → x.level ≤ topLevel s ∧ x.pend ≤ topLevel s) (h : Touches m s0 s) : Touches m s0 { s with sec := x } :=
  h.trans ⟨fun p hp => by
    cases p <;> first
      | rfl
      | exact hl.resolve_right (fun g => absurd (g (List.mem_singleton.2 rfl)) hp)
      | exact absurd (hm (List.mem_singleton.2 rfl)) hp, id, hk⟩

/-- A choice between two states. -/
theorem Touches.ite {c : Prop} [Decidable c] {m : List Part} {s0 a b : State} (ha : c → Touches m s0 a)
    (hb : ¬c → Touches m s0 b) : Touches m s0 (if c then a else b) := by
  by_cases h : c
  · rw [if_pos h]; exact ha h
  · rw [if_neg h]; exact hb h

/-- The state in what an operation answers, if it answers, has changed in no more than a list of parts. -/
def TouchesOpt {α : Type} (m : List Part) (s0 : State) (g : α → State) (o : Option α) : Prop :=
  ∀ x, o = some x → Touches m s0 (g x)

theorem touchesOpt_none {α : Type} {m : List Part} {s0 : State} {g : α → State} : TouchesOpt m s0 g none :=
  fun _ h => nomatch h

theorem touchesOpt_some {α : Type} {m : List Part} {s0 : State} {g : α → State} {x : α} (h : Touches m s0 (g x)) :
    TouchesOpt m s0 g (some x) :=
  fun _ e => Option.some.inj e ▸ h

theorem touchesOpt_map {α β : Type} {m : List Part} {s0 : State} {g : β → State} {f : α → β} {o : Option α}
    (h : ∀ x, Touches m s0 (g (f x))) : TouchesOpt m s0 g (o.map f) := by
  cases o with
  | none => exact touchesOpt_none
  | some x => exact touchesOpt_some (h x)

end Sys2Proof.Machine
end

