-- ==== Sys2Proof/Laws/FrameOps.lean ====
section
/-! SUPPORT. What each operation of Sys2Proof/Machine/Ops.lean may change: the parts of the state that it touches. -/

namespace Sys2Proof.Machine

theorem wr_touches {m : List Part} {s0 s : State} (k : Nat) (v : Word) (hm : [.regs] ⊆ m) (h : Touches m s0 s) :
    Touches m s0 (wr s k v) := by
  unfold wr
  repeat' first
    | with_reducible assumption
    | (with_reducible refine List.Subset.trans ?_ hm); decide
    | with_reducible apply Touches.ite
    | split
    | extract_lets
    | intro _
    | dsimp +zetaDelta only
    | with_reducible apply Touches.set_regs

theorem wrF_touches {m : List Part} {s0 s : State} (k : Nat) (lo : Nat) (len : Nat) (v : Nat) (hm : [.regs] ⊆ m) (h : Touches m s0 s) :
    Touches m s0 (wrF s k lo len v) := by
  unfold wrF
  repeat' first
    | with_reducible assumption
    | (with_reducible refine List.Subset.trans ?_ hm); decide
    | with_reducible apply wr_touches
    | with_reducible apply Touches.ite
    | split
    | extract_lets
    | intro _
    | dsimp +zetaDelta only

theorem setBits_touches {m : List Part} {s0 s : State} (k : Nat) (mask : Nat) (hm : [.regs] ⊆ m) (h : Touches m s0 s) :
    Touches m s0 (setBits s k mask) := by
  unfold setBits
  repeat' first
    | with_reducible assumption
    | (with_reducible refine List.Subset.trans ?_ hm); decide
    | with_reducible apply wr_touches
    | with_reducible apply Touches.ite
    | split
    | extract_lets
    | intro _
    | dsimp +zetaDelta only

theorem cntUp_touches {m : List Part} {s0 s : State} (k : Nat) (lo : Nat) (len : Nat) (n : Nat) (hm : [.regs] ⊆ m) (h : Touches m s0 s) :
    Touches m s0 (cntUp s k lo len n) := by
  unfold cntUp
  repeat' first
    | with_reducible assumption
    | (with_reducible refine List.Subset.trans ?_ hm); decide
    | with_reducible apply wrF_touches
    | with_reducible apply Touches.ite
    | split
    | extract_lets
    | intro _
    | dsimp +zetaDelta only

theorem maxUp_touches {m : List Part} {s0 s : State} (k : Nat) (lo : Nat) (len : Nat) (v : Nat) (hm : [.regs] ⊆ m) (h : Touches m s0 s) :
    Touches m s0 (maxUp s k lo len v) := by
  unfold maxUp
  repeat' first
    | with_reducible assumption
    | (with_reducible refine List.Subset.trans ?_ hm); decide
    | with_reducible apply wrF_touches
    | with_reducible apply Touches.ite
    | split
    | extract_lets
    | intro _
    | dsimp +zetaDelta only

theorem memWrite_touches {m : List Part} {s0 s : State} (space off : Nat) (l : List Byte) (hm : [.mem] ⊆ m) (h : Touches m s0 s) :
    Touches m s0 (memWrite s space off l) :=
  h.set_mem _ hm (fun k => memPuts_wf _ l k)

theorem setLink_touches {m : List Part} {s0 s : State} (e : EndRef) (l : LinkEnd) (hm : [.links] ⊆ m) (h : Touches m s0 s) :
    Touches m s0 (setLink s e l) := by
  unfold setLink
  repeat' first
    | with_reducible assumption
    | (with_reducible refine List.Subset.trans ?_ hm); decide
    | with_reducible apply Touches.ite
    | split
    | extract_lets
    | intro _
    | dsimp +zetaDelta only
    | with_reducible apply Touches.set_links

theorem updLink_touches {m : List Part} {s0 s : State} (e : EndRef) (f : LinkEnd → LinkEnd) (hm : [.links] ⊆ m) (h : Touches m s0 s) :
    Touches m s0 (updLink s e f) := by
  unfold updLink
  repeat' first
    | with_reducible assumption
    | (with_reducible refine List.Subset.trans ?_ hm); decide
    | with_reducible apply setLink_touches
    | with_reducible apply Touches.ite
    | split
    | extract_lets
    | intro _
    | dsimp +zetaDelta only

theorem setRouter_touches {m : List Part} {s0 s : State} (c : Cell) (r : Router) (hm : [.routers] ⊆ m) (h : Touches m s0 s) :
    Touches m s0 (setRouter s c r) := by
  unfold setRouter
  repeat' first
    | with_reducible assumption
    | (with_reducible refine List.Subset.trans ?_ hm); decide
    | with_reducible apply Touches.ite
    | split
    | extract_lets
    | intro _
    | dsimp +zetaDelta only
    | with_reducible apply Touches.set_routers

theorem setRport_touches {m : List Part} {s0 s : State} (c : Cell) (p : Nat) (x : RPort) (hm : [.routers] ⊆ m) (h : Touches m s0 s) :
    Touches m s0 (setRport s c p x) := by
  unfold setRport
  repeat' first
    | with_reducible assumption
    | (with_reducible refine List.Subset.trans ?_ hm); decide
    | with_reducible apply setRouter_touches
    | with_reducible apply Touches.ite
    | split
    | extract_lets
    | intro _
    | dsimp +zetaDelta only

theorem setVcIn_touches {m : List Part} {s0 s : State} (c : Cell) (p : Nat) (v : Nat) (y : VcIn) (hm : [.routers] ⊆ m) (h : Touches m s0 s) :
    Touches m s0 (setVcIn s c p v y) := by
  unfold setVcIn
  repeat' first
    | with_reducible assumption
    | (with_reducible refine List.Subset.trans ?_ hm); decide
    | with_reducible apply setRport_touches
    | with_reducible apply Touches.ite
    | split
    | extract_lets
    | intro _
    | dsimp +zetaDelta only

theorem setUnit_touches {m : List Part} {s0 s : State} (u : UnitRef) (x : PUnit) (hm : [.units] ⊆ m) (h : Touches m s0 s) :
    Touches m s0 (setUnit s u x) := by
  unfold setUnit
  repeat' first
    | with_reducible assumption
    | (with_reducible refine List.Subset.trans ?_ hm); decide
    | with_reducible apply Touches.ite
    | split
    | extract_lets
    | intro _
    | dsimp +zetaDelta only
    | with_reducible apply Touches.set_units

theorem updUnit_touches {m : List Part} {s0 s : State} (u : UnitRef) (f : PUnit → PUnit) (hm : [.units] ⊆ m) (h : Touches m s0 s) :
    Touches m s0 (updUnit s u f) := by
  unfold updUnit
  repeat' first
    | with_reducible assumption
    | (with_reducible refine List.Subset.trans ?_ hm); decide
    | with_reducible apply setUnit_touches
    | with_reducible apply Touches.ite
    | split
    | extract_lets
    | intro _
    | dsimp +zetaDelta only

theorem setRxEnd_touches {m : List Part} {s0 s : State} (e : EndRef) (x : RxEnd) (hm : [.rx] ⊆ m) (h : Touches m s0 s) :
    Touches m s0 (setRxEnd s e x) := by
  unfold setRxEnd
  repeat' first
    | with_reducible assumption
    | (with_reducible refine List.Subset.trans ?_ hm); decide
    | with_reducible apply Touches.ite
    | split
    | extract_lets
    | intro _
    | dsimp +zetaDelta only
    | with_reducible apply Touches.set_rx

theorem setTxEnd_touches {m : List Part} {s0 s : State} (e : EndRef) (x : TxEnd) (hm : [.tx] ⊆ m) (h : Touches m s0 s) :
    Touches m s0 (setTxEnd s e x) := by
  unfold setTxEnd
  repeat' first
    | with_reducible assumption
    | (with_reducible refine List.Subset.trans ?_ hm); decide
    | with_reducible apply Touches.ite
    | split
    | extract_lets
    | intro _
    | dsimp +zetaDelta only
    | with_reducible apply Touches.set_tx

theorem setGw_touches {m : List Part} {s0 s : State} (g : GwId) (x : Gw) (hm : [.gws] ⊆ m) (h : Touches m s0 s) :
    Touches m s0 (setGw s g x) := by
  unfold setGw
  repeat' first
    | with_reducible assumption
    | (with_reducible refine List.Subset.trans ?_ hm); decide
    | with_reducible apply Touches.ite
    | split
    | extract_lets
    | intro _
    | dsimp +zetaDelta only
    | with_reducible apply Touches.set_gws

theorem updGw_touches {m : List Part} {s0 s : State} (g : GwId) (f : Gw → Gw) (hm : [.gws] ⊆ m) (h : Touches m s0 s) :
    Touches m s0 (updGw s g f) := by
  unfold updGw
  repeat' first
    | with_reducible assumption
    | (with_reducible refine List.Subset.trans ?_ hm); decide
    | with_reducible apply setGw_touches
    | with_reducible apply Touches.ite
    | split
    | extract_lets
    | intro _
    | dsimp +zetaDelta only

theorem setOpt_touches {m : List Part} {s0 s : State} (o : OptId) (x : Opt) (hm : [.gws] ⊆ m) (h : Touches m s0 s) :
    Touches m s0 (setOpt s o x) := by
  unfold setOpt
  repeat' first
    | with_reducible assumption
    | (with_reducible refine List.Subset.trans ?_ hm); decide
    | with_reducible apply updGw_touches
    | with_reducible apply Touches.ite
    | split
    | extract_lets
    | intro _
    | dsimp +zetaDelta only

theorem updOpt_touches {m : List Part} {s0 s : State} (o : OptId) (f : Opt → Opt) (hm : [.gws] ⊆ m) (h : Touches m s0 s) :
    Touches m s0 (updOpt s o f) := by
  unfold updOpt
  repeat' first
    | with_reducible assumption
    | (with_reducible refine List.Subset.trans ?_ hm); decide
    | with_reducible apply setOpt_touches
    | with_reducible apply Touches.ite
    | split
    | extract_lets
    | intro _
    | dsimp +zetaDelta only

theorem setDom_touches {m : List Part} {s0 s : State} (d : Nat) (x : Dom) (hm : [.doms] ⊆ m) (h : Touches m s0 s) :
    Touches m s0 (setDom s d x) := by
  unfold setDom
  repeat' first
    | with_reducible assumption
    | (with_reducible refine List.Subset.trans ?_ hm); decide
    | with_reducible apply Touches.ite
    | split
    | extract_lets
    | intro _
    | dsimp +zetaDelta only
    | with_reducible apply Touches.set_doms

theorem updDom_touches {m : List Part} {s0 s : State} (d : Nat) (f : Dom → Dom) (hm : [.doms] ⊆ m) (h : Touches m s0 s) :
    Touches m s0 (updDom s d f) := by
  unfold updDom
  repeat' first
    | with_reducible assumption
    | (with_reducible refine List.Subset.trans ?_ hm); decide
    | with_reducible apply setDom_touches
    | with_reducible apply Touches.ite
    | split
    | extract_lets
    | intro _
    | dsimp +zetaDelta only

theorem setClk_touches {m : List Part} {s0 s : State} (k : Nat) (x : Clk) (hm : [.clks] ⊆ m) (h : Touches m s0 s) :
    Touches m s0 (setClk s k x) := by
  unfold setClk
  repeat' first
    | with_reducible assumption
    | (with_reducible refine List.Subset.trans ?_ hm); decide
    | with_reducible apply Touches.ite
    | split
    | extract_lets
    | intro _
    | dsimp +zetaDelta only
    | with_reducible apply Touches.set_clks

theorem telAdd_touches {m : List Part} {s0 s : State} (k : Nat) (n : Nat) (hm : [.tel] ⊆ m) (h : Touches m s0 s) :
    Touches m s0 (telAdd s k n) := by
  unfold telAdd
  repeat' first
    | with_reducible assumption
    | (with_reducible refine List.Subset.trans ?_ hm); decide
    | with_reducible apply Touches.ite
    | split
    | extract_lets
    | intro _
    | dsimp +zetaDelta only
    | with_reducible apply Touches.set_tel

theorem telPort_touches {m : List Part} {s0 s : State} (c : Cell) (p : Nat) (i : Nat) (n : Nat) (hm : [.tel] ⊆ m) (h : Touches m s0 s) :
    Touches m s0 (telPort s c p i n) := by
  unfold telPort
  repeat' first
    | with_reducible assumption
    | (with_reducible refine List.Subset.trans ?_ hm); decide
    | with_reducible apply telAdd_touches
    | with_reducible apply Touches.ite
    | split
    | extract_lets
    | intro _
    | dsimp +zetaDelta only

theorem telNi_touches {m : List Part} {s0 s : State} (c : Cell) (i : Nat) (n : Nat) (hm : [.tel] ⊆ m) (h : Touches m s0 s) :
    Touches m s0 (telNi s c i n) := by
  unfold telNi
  repeat' first
    | with_reducible assumption
    | (with_reducible refine List.Subset.trans ?_ hm); decide
    | with_reducible apply telAdd_touches
    | with_reducible apply Touches.ite
    | split
    | extract_lets
    | intro _
    | dsimp +zetaDelta only

theorem telGw_touches {m : List Part} {s0 s : State} (g : GwId) (i : Nat) (n : Nat) (hm : [.tel] ⊆ m) (h : Touches m s0 s) :
    Touches m s0 (telGw s g i n) := by
  unfold telGw
  repeat' first
    | with_reducible assumption
    | (with_reducible refine List.Subset.trans ?_ hm); decide
    | with_reducible apply telAdd_touches
    | with_reducible apply Touches.ite
    | split
    | extract_lets
    | intro _
    | dsimp +zetaDelta only

theorem draw_touches {m : List Part} {s0 s : State}  (hm : [.freeCtr] ⊆ m) (h : Touches m s0 s) :
    Touches m s0 (draw s) := by
  unfold draw
  repeat' first
    | with_reducible assumption
    | (with_reducible refine List.Subset.trans ?_ hm); decide
    | with_reducible apply Touches.ite
    | split
    | extract_lets
    | intro _
    | dsimp +zetaDelta only
    | with_reducible apply Touches.set_freeCtr

end Sys2Proof.Machine
end

