-- ==== Sys2Proof/Laws/FrameLink.lean ====
section
/-! SUPPORT. What each operation of Sys2Proof/Machine/Link.lean may change: the parts of the state that it touches. -/

namespace Sys2Proof.Machine

theorem portErr_touches {m : List Part} {s0 s : State} (e : EndRef) (b : Nat) (hm : [.regs] ⊆ m) (h : Touches m s0 s) :
    Touches m s0 (portErr s e b) := by
  unfold portErr
  repeat' first
    | with_reducible assumption
    | (with_reducible refine List.Subset.trans ?_ hm); decide
    | with_reducible apply setBits_touches
    | with_reducible apply Touches.ite
    | split
    | extract_lets
    | intro _
    | dsimp +zetaDelta only

theorem dcqMarks_touches {m : List Part} {s0 s : State} (e : EndRef) (hm : [.regs] ⊆ m) (h : Touches m s0 s) :
    Touches m s0 (dcqMarks s e) := by
  unfold dcqMarks
  repeat' first
    | with_reducible assumption
    | (with_reducible refine List.Subset.trans ?_ hm); decide
    | with_reducible apply maxUp_touches
    | with_reducible apply Touches.ite
    | split
    | extract_lets
    | intro _
    | dsimp +zetaDelta only

theorem toWire_touches {m : List Part} {s0 s : State} (e : EndRef) (p : Payload) (k : Ctl) (hm : [.regs, .links] ⊆ m) (h : Touches m s0 s) :
    Touches m s0 (toWire s e p k) := by
  unfold toWire
  repeat' first
    | with_reducible assumption
    | (with_reducible refine List.Subset.trans ?_ hm); decide
    | with_reducible apply dcqMarks_touches
    | with_reducible apply updLink_touches
    | with_reducible apply Touches.ite
    | split
    | extract_lets
    | intro _
    | dsimp +zetaDelta only

theorem emitPlain_touches {m : List Part} {s0 s : State} (e : EndRef) (ty : Nat) (p : Payload) (hm : [.regs, .links] ⊆ m) (h : Touches m s0 s) :
    Touches m s0 (emitPlain s e ty p) := by
  unfold emitPlain
  repeat' first
    | with_reducible assumption
    | (with_reducible refine List.Subset.trans ?_ hm); decide
    | with_reducible apply toWire_touches
    | with_reducible apply setLink_touches
    | with_reducible apply Touches.ite
    | split
    | extract_lets
    | intro _
    | dsimp +zetaDelta only

theorem emitSeq_touches {m : List Part} {s0 s : State} (e : EndRef) (x : Send) (hm : [.regs, .links] ⊆ m) (h : Touches m s0 s) :
    Touches m s0 (emitSeq s e x) := by
  unfold emitSeq
  repeat' first
    | with_reducible assumption
    | (with_reducible refine List.Subset.trans ?_ hm); decide
    | with_reducible apply toWire_touches
    | with_reducible apply setLink_touches
    | with_reducible apply Touches.ite
    | split
    | extract_lets
    | intro _
    | dsimp +zetaDelta only

theorem sendIdle_touches {m : List Part} {s0 s : State} (e : EndRef) (hm : [.regs, .links] ⊆ m) (h : Touches m s0 s) :
    Touches m s0 (sendIdle s e) := by
  unfold sendIdle
  repeat' first
    | with_reducible assumption
    | (with_reducible refine List.Subset.trans ?_ hm); decide
    | with_reducible apply emitPlain_touches
    | with_reducible apply emitSeq_touches
    | with_reducible apply Touches.ite
    | split
    | extract_lets
    | intro _
    | dsimp +zetaDelta only

theorem emitReplay_touches {m : List Part} {s0 s : State} (e : EndRef) (r : Rep) (hm : [.regs, .links] ⊆ m) (h : Touches m s0 s) :
    Touches m s0 (emitReplay s e r) := by
  unfold emitReplay
  repeat' first
    | with_reducible assumption
    | (with_reducible refine List.Subset.trans ?_ hm); decide
    | with_reducible apply toWire_touches
    | with_reducible apply setLink_touches
    | with_reducible apply Touches.ite
    | split
    | extract_lets
    | intro _
    | dsimp +zetaDelta only

theorem residAdd_touches {m : List Part} {s0 s : State} (c : Cell) (p : Nat) (ep : Nat) (up : Bool) (hm : [.routers] ⊆ m) (h : Touches m s0 s) :
    Touches m s0 (residAdd s c p ep up) := by
  unfold residAdd
  repeat' first
    | with_reducible assumption
    | (with_reducible refine List.Subset.trans ?_ hm); decide
    | with_reducible apply setRport_touches
    | with_reducible apply Touches.ite
    | split
    | extract_lets
    | intro _
    | dsimp +zetaDelta only

theorem residDrop_touches {m : List Part} {s0 s : State} (e : EndRef) (z : List Rep) (hm : [.routers] ⊆ m) (h : Touches m s0 s) :
    Touches m s0 (residDrop s e z) := by
  induction z generalizing s  with
  | nil =>
    unfold residDrop
    repeat' first
      | with_reducible assumption
      | (with_reducible refine List.Subset.trans ?_ hm); decide
      | with_reducible apply residAdd_touches
      | with_reducible apply Touches.ite
      | split
      | extract_lets
      | intro _
      | dsimp +zetaDelta only
  | cons f r ih =>
    unfold residDrop
    repeat' first
      | with_reducible apply ih
      | with_reducible assumption
      | (with_reducible refine List.Subset.trans ?_ hm); decide
      | with_reducible apply residAdd_touches
      | with_reducible apply Touches.ite
      | split
      | extract_lets
      | intro _
      | dsimp +zetaDelta only

theorem ackN_touches {m : List Part} {s0 s : State} (e : EndRef) (n : Nat) (hm : [.links, .routers] ⊆ m) (h : Touches m s0 s) :
    Touches m s0 (ackN s e n) := by
  unfold ackN
  repeat' first
    | with_reducible assumption
    | (with_reducible refine List.Subset.trans ?_ hm); decide
    | with_reducible apply residDrop_touches
    | with_reducible apply setLink_touches
    | with_reducible apply Touches.ite
    | split
    | extract_lets
    | intro _
    | dsimp +zetaDelta only

theorem startReplay_touches {m : List Part} {s0 s : State} (e : EndRef) (hm : [.regs, .links] ⊆ m) (h : Touches m s0 s) :
    Touches m s0 (startReplay s e) := by
  unfold startReplay
  repeat' first
    | with_reducible assumption
    | (with_reducible refine List.Subset.trans ?_ hm); decide
    | with_reducible apply setLink_touches
    | with_reducible apply portErr_touches
    | with_reducible apply Touches.ite
    | split
    | extract_lets
    | intro _
    | dsimp +zetaDelta only

theorem backChannel_touches {m : List Part} {s0 s : State} (e : EndRef) (k : Ctl) (hm : [.regs, .links, .routers] ⊆ m) (h : Touches m s0 s) :
    Touches m s0 (backChannel s e k) := by
  unfold backChannel
  repeat' first
    | with_reducible assumption
    | (with_reducible refine List.Subset.trans ?_ hm); decide
    | with_reducible apply ackN_touches
    | with_reducible apply startReplay_touches
    | with_reducible apply Touches.ite
    | split
    | extract_lets
    | intro _
    | dsimp +zetaDelta only

theorem throttle_touches {m : List Part} {s0 s : State} (c : Cell) (hm : [.units] ⊆ m) (h : Touches m s0 s) :
    Touches m s0 (throttle s c) := by
  unfold throttle
  repeat' first
    | with_reducible assumption
    | (with_reducible refine List.Subset.trans ?_ hm); decide
    | with_reducible apply updUnit_touches
    | with_reducible apply Touches.ite
    | split
    | extract_lets
    | intro _
    | dsimp +zetaDelta only

theorem throttled_touches {m : List Part} {s0 s : State} (e : EndRef) (hm : [.units] ⊆ m) (h : Touches m s0 s) :
    Touches m s0 (throttled s e) := by
  unfold throttled
  repeat' first
    | with_reducible assumption
    | (with_reducible refine List.Subset.trans ?_ hm); decide
    | with_reducible apply throttle_touches
    | with_reducible apply Touches.ite
    | split
    | extract_lets
    | intro _
    | dsimp +zetaDelta only

theorem addCredit_touches {m : List Part} {s0 s : State} (e : EndRef) (vc : Nat) (hm : [.links, .units] ⊆ m) (h : Touches m s0 s) :
    Touches m s0 (addCredit s e vc) := by
  unfold addCredit
  repeat' first
    | with_reducible assumption
    | (with_reducible refine List.Subset.trans ?_ hm); decide
    | with_reducible apply throttled_touches
    | with_reducible apply updLink_touches
    | with_reducible apply Touches.ite
    | split
    | extract_lets
    | intro _
    | dsimp +zetaDelta only

theorem oweCredit_touches {m : List Part} {s0 s : State} (e : EndRef) (vc : Nat) (hm : [.links] ⊆ m) (h : Touches m s0 s) :
    Touches m s0 (oweCredit s e vc) := by
  unfold oweCredit
  repeat' first
    | with_reducible assumption
    | (with_reducible refine List.Subset.trans ?_ hm); decide
    | with_reducible apply updLink_touches
    | with_reducible apply Touches.ite
    | split
    | extract_lets
    | intro _
    | dsimp +zetaDelta only

theorem useCredit_touches {m : List Part} {s0 s : State} (e : EndRef) (vc : Nat) (hm : [.links, .units] ⊆ m) (h : Touches m s0 s) :
    Touches m s0 (useCredit s e vc) := by
  unfold useCredit
  repeat' first
    | with_reducible assumption
    | (with_reducible refine List.Subset.trans ?_ hm); decide
    | with_reducible apply throttled_touches
    | with_reducible apply updLink_touches
    | with_reducible apply Touches.ite
    | split
    | extract_lets
    | intro _
    | dsimp +zetaDelta only

theorem beginTrain_touches {m : List Part} {s0 s : State} (e : EndRef) (hm : [.links] ⊆ m) (h : Touches m s0 s) :
    Touches m s0 (beginTrain s e) := by
  unfold beginTrain
  repeat' first
    | with_reducible assumption
    | (with_reducible refine List.Subset.trans ?_ hm); decide
    | with_reducible apply updLink_touches
    | with_reducible apply Touches.ite
    | split
    | extract_lets
    | intro _
    | dsimp +zetaDelta only

theorem measureAge_touches {m : List Part} {s0 s : State} (c : Cell) (k : Nat) (h_ : Payload) (hm : [.regs] ⊆ m) (h : Touches m s0 s) :
    Touches m s0 (measureAge s c k h_) := by
  unfold measureAge
  repeat' first
    | with_reducible assumption
    | (with_reducible refine List.Subset.trans ?_ hm); decide
    | with_reducible apply cntUp_touches
    | with_reducible apply maxUp_touches
    | with_reducible apply Touches.ite
    | split
    | extract_lets
    | intro _
    | dsimp +zetaDelta only

theorem rxFrame_touches {m : List Part} {s0 s : State} (e : EndRef) (hm : [.regs] ⊆ m) (h : Touches m s0 s) :
    Touches m s0 (rxFrame s e) := by
  unfold rxFrame
  repeat' first
    | with_reducible assumption
    | (with_reducible refine List.Subset.trans ?_ hm); decide
    | with_reducible apply cntUp_touches
    | with_reducible apply Touches.ite
    | split
    | extract_lets
    | intro _
    | dsimp +zetaDelta only

theorem finishCut_touches {m : List Part} {s0 s : State} (e : EndRef) (vs : Option (List Nat)) (fromPeer : Bool) (hm : [.regs, .routers, .rx, .tx, .gws] ⊆ m) (h : Touches m s0 s) :
    Touches m s0 (finishCut s e vs fromPeer) := by
  unfold finishCut
  repeat' first
    | with_reducible assumption
    | (with_reducible refine List.Subset.trans ?_ hm); decide
    | with_reducible apply setRouter_touches
    | with_reducible apply portErr_touches
    | with_reducible apply updOpt_touches
    | with_reducible apply setTxEnd_touches
    | with_reducible apply setRxEnd_touches
    | with_reducible apply Touches.ite
    | split
    | extract_lets
    | intro _
    | dsimp +zetaDelta only

theorem lostFlits_touches {m : List Part} {s0 s : State} (e : EndRef) (l : List Rep) (hm : [.regs] ⊆ m) (h : Touches m s0 s) :
    Touches m s0 (lostFlits s e l) := by
  unfold lostFlits
  repeat' first
    | with_reducible assumption
    | (with_reducible refine List.Subset.trans ?_ hm); decide
    | with_reducible apply portErr_touches
    | with_reducible apply Touches.ite
    | split
    | extract_lets
    | intro _
    | dsimp +zetaDelta only

theorem enterUp_touches {m : List Part} {s0 s : State} (e : EndRef) (hm : [.regs, .links, .routers, .units, .rx, .tx, .gws] ⊆ m) (h : Touches m s0 s) :
    Touches m s0 (enterUp s e) := by
  unfold enterUp
  repeat' first
    | with_reducible assumption
    | (with_reducible refine List.Subset.trans ?_ hm); decide
    | with_reducible apply setLink_touches
    | with_reducible apply residDrop_touches
    | with_reducible apply throttled_touches
    | with_reducible apply portErr_touches
    | with_reducible apply finishCut_touches
    | with_reducible apply lostFlits_touches
    | with_reducible apply ackN_touches
    | with_reducible apply updLink_touches
    | with_reducible apply Touches.ite
    | split
    | extract_lets
    | intro _
    | dsimp +zetaDelta only

theorem deliverPkt_touches {m : List Part} {s0 s : State} (e : EndRef) (p : RxPkt) (hm : [.units, .cmbs, .gws] ⊆ m) (h : Touches m s0 s) :
    Touches m s0 (deliverPkt s e p) := by
  unfold deliverPkt
  repeat' first
    | with_reducible assumption
    | (with_reducible refine List.Subset.trans ?_ hm); decide
    | with_reducible apply updUnit_touches
    | with_reducible apply updOpt_touches
    | with_reducible apply Touches.ite
    | split
    | extract_lets
    | intro _
    | dsimp +zetaDelta only
    | with_reducible apply Touches.set_cmbs

theorem rxCount_touches {m : List Part} {s0 s : State} (e : EndRef) (h_ : Payload) (hm : [.regs, .tel] ⊆ m) (h : Touches m s0 s) :
    Touches m s0 (rxCount s e h_) := by
  unfold rxCount
  repeat' first
    | with_reducible assumption
    | (with_reducible refine List.Subset.trans ?_ hm); decide
    | with_reducible apply measureAge_touches
    | with_reducible apply telNi_touches
    | with_reducible apply Touches.ite
    | split
    | extract_lets
    | intro _
    | dsimp +zetaDelta only

theorem winMiss_touches {m : List Part} {s0 s : State} (g : GwId) (hm : [.regs] ⊆ m) (h : Touches m s0 s) :
    Touches m s0 (winMiss s g) := by
  unfold winMiss
  repeat' first
    | with_reducible assumption
    | (with_reducible refine List.Subset.trans ?_ hm); decide
    | with_reducible apply setBits_touches
    | with_reducible apply Touches.ite
    | split
    | extract_lets
    | intro _
    | dsimp +zetaDelta only

theorem takeVc_touches {m : List Part} {s0 s : State} (e : EndRef) (v : Nat) (asm : Option Asm) (z : List VcFlit) (hm : [.regs, .links, .units, .rx, .cmbs, .gws, .tel] ⊆ m) (h : Touches m s0 s) :
    Touches m s0 (takeVc s e v asm z) := by
  induction z generalizing s asm with
  | nil =>
    unfold takeVc
    repeat' first
      | with_reducible assumption
      | (with_reducible refine List.Subset.trans ?_ hm); decide
      | with_reducible apply setRxEnd_touches
      | with_reducible apply oweCredit_touches
      | with_reducible apply rxCount_touches
      | with_reducible apply rxFrame_touches
      | with_reducible apply deliverPkt_touches
      | with_reducible apply Touches.ite
      | split
      | extract_lets
      | intro _
      | dsimp +zetaDelta only
  | cons f r ih =>
    unfold takeVc
    repeat' first
      | with_reducible apply ih
      | with_reducible assumption
      | (with_reducible refine List.Subset.trans ?_ hm); decide
      | with_reducible apply setRxEnd_touches
      | with_reducible apply oweCredit_touches
      | with_reducible apply rxCount_touches
      | with_reducible apply rxFrame_touches
      | with_reducible apply deliverPkt_touches
      | with_reducible apply Touches.ite
      | split
      | extract_lets
      | intro _
      | dsimp +zetaDelta only

theorem takeAll_touches {m : List Part} {s0 s : State} (e : EndRef) (hm : [.regs, .links, .units, .rx, .cmbs, .gws, .tel] ⊆ m) (h : Touches m s0 s) :
    Touches m s0 (takeAll s e) := by
  unfold takeAll
  repeat' first
    | with_reducible assumption
    | (with_reducible refine List.Subset.trans ?_ hm); decide
    | with_reducible apply takeVc_touches
    | with_reducible apply Touches.foldl
    | with_reducible apply Touches.ite
    | split
    | extract_lets
    | intro _
    | dsimp +zetaDelta only

theorem unitTake_touches {m : List Part} {s0 s : State} (e : EndRef) (v : Nat) (f : VcFlit) (hm : [.regs, .links, .units, .rx, .cmbs, .gws, .tel] ⊆ m) (h : Touches m s0 s) :
    Touches m s0 (unitTake s e v f) := by
  unfold unitTake
  repeat' first
    | with_reducible assumption
    | (with_reducible refine List.Subset.trans ?_ hm); decide
    | with_reducible apply takeAll_touches
    | with_reducible apply setRxEnd_touches
    | with_reducible apply Touches.ite
    | split
    | extract_lets
    | intro _
    | dsimp +zetaDelta only

end Sys2Proof.Machine
end

