-- ==== Sys2Proof/Laws/FrameReply.lean ====
section
/-! SUPPORT. What each operation of Sys2Proof/Machine/Reply.lean may change: the parts of the state that it touches. -/

namespace Sys2Proof.Machine

theorem pushResp_touches {m : List Part} {s0 s : State} (u : UnitRef) (z : TxPkt) (hm : [.units] ⊆ m) (h : Touches m s0 s) :
    Touches m s0 (pushResp s u z) := by
  unfold pushResp
  repeat' first
    | with_reducible assumption
    | (with_reducible refine List.Subset.trans ?_ hm); decide
    | with_reducible apply updUnit_touches
    | with_reducible apply Touches.ite
    | split
    | extract_lets
    | intro _
    | dsimp +zetaDelta only

end Sys2Proof.Machine
end

