-- ==== Sys2Proof/Laws/FrameRings.lean ====
section
/-! SUPPORT. What each operation of Sys2Proof/Machine/Rings.lean may change: the parts of the state that it touches. -/

namespace Sys2Proof.Machine

theorem setSq_touches {m : List Part} {s0 s : State} (u : UnitRef) (r : Nat) (x : SqRing) (hm : [.units] ⊆ m) (h : Touches m s0 s) :
    Touches m s0 (setSq s u r x) := by
  unfold setSq
  repeat' first
    | with_reducible assumption
    | (with_reducible refine List.Subset.trans ?_ hm); decide
    | with_reducible apply updUnit_touches
    | with_reducible apply Touches.ite
    | split
    | extract_lets
    | intro _
    | dsimp +zetaDelta only

theorem setCq_touches {m : List Part} {s0 s : State} (u : UnitRef) (r : Nat) (x : CqRing) (hm : [.units] ⊆ m) (h : Touches m s0 s) :
    Touches m s0 (setCq s u r x) := by
  unfold setCq
  repeat' first
    | with_reducible assumption
    | (with_reducible refine List.Subset.trans ?_ hm); decide
    | with_reducible apply updUnit_touches
    | with_reducible apply Touches.ite
    | split
    | extract_lets
    | intro _
    | dsimp +zetaDelta only

theorem ringSettle_touches {m : List Part} {s0 s : State} (u : UnitRef) (hm : [.units] ⊆ m) (h : Touches m s0 s) :
    Touches m s0 (ringSettle s u) := by
  unfold ringSettle
  repeat' first
    | with_reducible assumption
    | (with_reducible refine List.Subset.trans ?_ hm); decide
    | with_reducible apply updUnit_touches
    | with_reducible apply Touches.ite
    | split
    | extract_lets
    | intro _
    | dsimp +zetaDelta only

theorem telTlp_touches {m : List Part} {s0 s : State} (g : GwId) (wr : Bool) (off : Nat) (len : Nat) (hm : [.tel] ⊆ m) (h : Touches m s0 s) :
    Touches m s0 (telTlp s g wr off len) := by
  unfold telTlp
  repeat' first
    | with_reducible assumption
    | (with_reducible refine List.Subset.trans ?_ hm); decide
    | with_reducible apply telGw_touches
    | with_reducible apply Touches.ite
    | split
    | extract_lets
    | intro _
    | dsimp +zetaDelta only

theorem cqWrite_touches {m : List Part} {s0 s : State} (u : UnitRef) (r : Nat) (ent : BitVec 128) (hm : [.mem, .regs, .units, .tel] ⊆ m) (h : Touches m s0 s) :
    Touches m s0 (cqWrite s u r ent) := by
  unfold cqWrite
  repeat' first
    | with_reducible assumption
    | (with_reducible refine List.Subset.trans ?_ hm); decide
    | with_reducible apply cntUp_touches
    | with_reducible apply memWrite_touches
    | with_reducible apply telGw_touches
    | with_reducible apply telTlp_touches
    | with_reducible apply setCq_touches
    | with_reducible apply Touches.ite
    | split
    | extract_lets
    | intro _
    | dsimp +zetaDelta only

theorem cqPost_touches {m : List Part} {s0 s : State} (u : UnitRef) (r : Nat) (ent : BitVec 128) (hm : [.mem, .regs, .units, .tel] ⊆ m) (h : Touches m s0 s) :
    Touches m s0 (cqPost s u r ent) := by
  unfold cqPost
  repeat' first
    | with_reducible assumption
    | (with_reducible refine List.Subset.trans ?_ hm); decide
    | with_reducible apply cqWrite_touches
    | with_reducible apply updUnit_touches
    | with_reducible apply Touches.ite
    | split
    | extract_lets
    | intro _
    | dsimp +zetaDelta only

theorem cplFlush_touches {m : List Part} {s0 s : State} (u : UnitRef) (hm : [.mem, .regs, .units, .tel] ⊆ m) (h : Touches m s0 s) :
    Touches m s0 (cplFlush s u) := by
  unfold cplFlush
  repeat' first
    | with_reducible assumption
    | (with_reducible refine List.Subset.trans ?_ hm); decide
    | with_reducible apply ringSettle_touches
    | with_reducible apply cqWrite_touches
    | with_reducible apply updUnit_touches
    | with_reducible apply Touches.foldl
    | with_reducible apply Touches.ite
    | split
    | extract_lets
    | intro _
    | dsimp +zetaDelta only

theorem setCtx_touches {m : List Part} {s0 s : State} (u : UnitRef) (id : Nat) (x : Ctx) (hm : [.units] ⊆ m) (h : Touches m s0 s) :
    Touches m s0 (setCtx s u id x) := by
  unfold setCtx
  repeat' first
    | with_reducible assumption
    | (with_reducible refine List.Subset.trans ?_ hm); decide
    | with_reducible apply updUnit_touches
    | with_reducible apply Touches.ite
    | split
    | extract_lets
    | intro _
    | dsimp +zetaDelta only

theorem updCtx_touches {m : List Part} {s0 s : State} (u : UnitRef) (id : Nat) (f : Ctx → Ctx) (hm : [.units] ⊆ m) (h : Touches m s0 s) :
    Touches m s0 (updCtx s u id f) := by
  unfold updCtx
  repeat' first
    | with_reducible assumption
    | (with_reducible refine List.Subset.trans ?_ hm); decide
    | with_reducible apply setCtx_touches
    | with_reducible apply Touches.ite
    | split
    | extract_lets
    | intro _
    | dsimp +zetaDelta only

theorem finish_touches {m : List Part} {s0 s : State} (u : UnitRef) (id : Nat) (hm : [.mem, .regs, .units, .tel] ⊆ m) (h : Touches m s0 s) :
    Touches m s0 (finish s u id) := by
  unfold finish
  repeat' first
    | with_reducible assumption
    | (with_reducible refine List.Subset.trans ?_ hm); decide
    | with_reducible apply updUnit_touches
    | with_reducible apply cqPost_touches
    | with_reducible apply telNi_touches
    | with_reducible apply ringSettle_touches
    | with_reducible apply Touches.ite
    | split
    | extract_lets
    | intro _
    | dsimp +zetaDelta only

theorem settleCtx_touches {m : List Part} {s0 s : State} (u : UnitRef) (id : Nat) (hm : [.mem, .regs, .units, .tel] ⊆ m) (h : Touches m s0 s) :
    Touches m s0 (settleCtx s u id) := by
  unfold settleCtx
  repeat' first
    | with_reducible assumption
    | (with_reducible refine List.Subset.trans ?_ hm); decide
    | with_reducible apply finish_touches
    | with_reducible apply setCtx_touches
    | with_reducible apply Touches.ite
    | split
    | extract_lets
    | intro _
    | dsimp +zetaDelta only

theorem giveUpStreams_touches {m : List Part} {s0 s : State} (u : UnitRef) (id : Nat) (hm : [.units] ⊆ m) (h : Touches m s0 s) :
    Touches m s0 (giveUpStreams s u id) := by
  unfold giveUpStreams
  repeat' first
    | with_reducible assumption
    | (with_reducible refine List.Subset.trans ?_ hm); decide
    | with_reducible apply updUnit_touches
    | with_reducible apply Touches.ite
    | split
    | extract_lets
    | intro _
    | dsimp +zetaDelta only

theorem ctxErr_touches {m : List Part} {s0 s : State} (u : UnitRef) (id : Nat) (st : Nat) (detail : Nat) (hm : [.units, .tx] ⊆ m) (h : Touches m s0 s) :
    Touches m s0 (ctxErr s u id st detail) := by
  unfold ctxErr
  repeat' first
    | with_reducible assumption
    | (with_reducible refine List.Subset.trans ?_ hm); decide
    | with_reducible apply updCtx_touches
    | with_reducible apply giveUpStreams_touches
    | with_reducible apply setTxEnd_touches
    | with_reducible apply updUnit_touches
    | with_reducible apply Touches.foldl
    | with_reducible apply Touches.ite
    | split
    | extract_lets
    | intro _
    | dsimp +zetaDelta only

theorem failCtx_touches {m : List Part} {s0 s : State} (u : UnitRef) (id : Nat) (st : Nat) (detail : Nat) (hm : [.mem, .regs, .units, .tx, .tel] ⊆ m) (h : Touches m s0 s) :
    Touches m s0 (failCtx s u id st detail) := by
  unfold failCtx
  repeat' first
    | with_reducible assumption
    | (with_reducible refine List.Subset.trans ?_ hm); decide
    | with_reducible apply settleCtx_touches
    | with_reducible apply ctxErr_touches
    | with_reducible apply Touches.ite
    | split
    | extract_lets
    | intro _
    | dsimp +zetaDelta only

end Sys2Proof.Machine
end

