-- ==== Sys2Proof/Laws/FrameTarget.lean ====
section
/-! SUPPORT. What each operation of Sys2Proof/Machine/Target.lean may change: the parts of the state that it touches. -/

namespace Sys2Proof.Machine

theorem takeCmd_touches {m : List Part} {s0 s : State} (u : UnitRef) (cmd : Nat) (hm : [.units] ⊆ m) (h : Touches m s0 s) :
    TouchesOpt m s0 (fun x => x.2) (takeCmd s u cmd) := by
  unfold takeCmd
  repeat' first
    | with_reducible apply touchesOpt_map
    | with_reducible apply touchesOpt_none
    | with_reducible apply touchesOpt_some
    | with_reducible assumption
    | (with_reducible refine List.Subset.trans ?_ hm); decide
    | with_reducible apply updUnit_touches
    | with_reducible apply Touches.ite
    | split
    | extract_lets
    | intro _
    | dsimp +zetaDelta only

theorem takeCmd_touches_eq {m : List Part} {s0 s s1 : State} {q} (u : UnitRef) (cmd : Nat) (he : takeCmd s u cmd = some (q, s1)) (hm : [.units] ⊆ m) (h : Touches m s0 s) :
    Touches m s0 s1 :=
  takeCmd_touches u cmd hm h  _ he

theorem pushOpt_touches {m : List Part} {s0 s : State} (u : UnitRef) (z : Option TxPkt) (hm : [.units] ⊆ m) (h : Touches m s0 s) :
    Touches m s0 (pushOpt s u z) := by
  unfold pushOpt
  repeat' first
    | with_reducible assumption
    | (with_reducible refine List.Subset.trans ?_ hm); decide
    | with_reducible apply pushResp_touches
    | with_reducible apply Touches.ite
    | split
    | extract_lets
    | intro _
    | dsimp +zetaDelta only

theorem countMalformed_touches {m : List Part} {s0 s : State} (u : UnitRef) (hm : [.regs] ⊆ m) (h : Touches m s0 s) :
    Touches m s0 (countMalformed s u) := by
  unfold countMalformed
  repeat' first
    | with_reducible assumption
    | (with_reducible refine List.Subset.trans ?_ hm); decide
    | with_reducible apply cntUp_touches
    | with_reducible apply Touches.ite
    | split
    | extract_lets
    | intro _
    | dsimp +zetaDelta only

theorem linkAnswer_touches {m : List Part} {s0 s : State} (o : OptId) (z : TxPkt) (hm : [.gws] ⊆ m) (h : Touches m s0 s) :
    Touches m s0 (linkAnswer s o z) := by
  unfold linkAnswer
  repeat' first
    | with_reducible assumption
    | (with_reducible refine List.Subset.trans ?_ hm); decide
    | with_reducible apply updOpt_touches
    | with_reducible apply Touches.ite
    | split
    | extract_lets
    | intro _
    | dsimp +zetaDelta only

theorem answerAt_touches {m : List Part} {s0 s : State} (u : UnitRef) (p : RxPkt) (z : TxPkt) (hm : [.units, .gws] ⊆ m) (h : Touches m s0 s) :
    Touches m s0 (answerAt s u p z) := by
  unfold answerAt
  repeat' first
    | with_reducible assumption
    | (with_reducible refine List.Subset.trans ?_ hm); decide
    | with_reducible apply linkAnswer_touches
    | with_reducible apply pushResp_touches
    | with_reducible apply Touches.ite
    | split
    | extract_lets
    | intro _
    | dsimp +zetaDelta only

theorem takeMalformed_touches {m : List Part} {s0 s : State} (u : UnitRef) (p : RxPkt) (hm : [.regs, .units, .gws] ⊆ m) (h : Touches m s0 s) :
    Touches m s0 (takeMalformed s u p) := by
  unfold takeMalformed
  repeat' first
    | with_reducible assumption
    | (with_reducible refine List.Subset.trans ?_ hm); decide
    | with_reducible apply answerAt_touches
    | with_reducible apply countMalformed_touches
    | with_reducible apply Touches.ite
    | split
    | extract_lets
    | intro _
    | dsimp +zetaDelta only

theorem placeAll_touches {m : List Part} {s0 s : State} (space : Nat) (l : List (Nat × List Byte)) (hm : [.mem] ⊆ m) (h : Touches m s0 s) :
    Touches m s0 (placeAll s space l) := by
  unfold placeAll
  repeat' first
    | with_reducible assumption
    | (with_reducible refine List.Subset.trans ?_ hm); decide
    | with_reducible apply memWrite_touches
    | with_reducible apply Touches.foldl
    | with_reducible apply Touches.ite
    | split
    | extract_lets
    | intro _
    | dsimp +zetaDelta only

theorem putLast_touches {m : List Part} {s0 s : State} (c : Cell) (t : Nat) (x : LastEnt) (hm : [.units] ⊆ m) (h : Touches m s0 s) :
    Touches m s0 (putLast s c t x) := by
  unfold putLast
  repeat' first
    | with_reducible assumption
    | (with_reducible refine List.Subset.trans ?_ hm); decide
    | with_reducible apply updUnit_touches
    | with_reducible apply Touches.ite
    | split
    | extract_lets
    | intro _
    | dsimp +zetaDelta only

theorem setLast_touches {m : List Part} {s0 s : State} (c : Cell) (t : Nat) (x : LastEnt) (hm : [.regs, .units] ⊆ m) (h : Touches m s0 s) :
    Touches m s0 (setLast s c t x) := by
  unfold setLast
  repeat' first
    | with_reducible assumption
    | (with_reducible refine List.Subset.trans ?_ hm); decide
    | with_reducible apply putLast_touches
    | with_reducible apply maxUp_touches
    | with_reducible apply Touches.ite
    | split
    | extract_lets
    | intro _
    | dsimp +zetaDelta only

theorem freeLast_touches {m : List Part} {s0 s : State} (c : Cell) (t : Nat) (hm : [.regs, .units] ⊆ m) (h : Touches m s0 s) :
    Touches m s0 (freeLast s c t) := by
  unfold freeLast
  repeat' first
    | with_reducible assumption
    | (with_reducible refine List.Subset.trans ?_ hm); decide
    | with_reducible apply cntUp_touches
    | with_reducible apply putLast_touches
    | with_reducible apply Touches.ite
    | split
    | extract_lets
    | intro _
    | dsimp +zetaDelta only

theorem lastEcc_touches {m : List Part} {s0 s : State} (c : Cell) (t : Nat) (ecc : Ecc) (hm : [.regs, .units] ⊆ m) (h : Touches m s0 s) :
    Touches m s0 (lastEcc s c t ecc) := by
  unfold lastEcc
  repeat' first
    | with_reducible assumption
    | (with_reducible refine List.Subset.trans ?_ hm); decide
    | with_reducible apply setBits_touches
    | with_reducible apply cntUp_touches
    | with_reducible apply putLast_touches
    | with_reducible apply Touches.ite
    | split
    | extract_lets
    | intro _
    | dsimp +zetaDelta only

theorem notice_touches {m : List Part} {s0 s : State} (c : Cell) (h_ : Payload) (hm : [.mem, .regs, .units, .tel] ⊆ m) (h : Touches m s0 s) :
    Touches m s0 (notice s c h_) := by
  unfold notice
  repeat' first
    | with_reducible assumption
    | (with_reducible refine List.Subset.trans ?_ hm); decide
    | with_reducible apply cqWrite_touches
    | with_reducible apply setBits_touches
    | with_reducible apply cntUp_touches
    | with_reducible apply Touches.ite
    | split
    | extract_lets
    | intro _
    | dsimp +zetaDelta only

theorem placeAck_touches {m : List Part} {s0 s : State} (c : Cell) (p : RxPkt) (hm : [.mem, .regs, .units, .tel] ⊆ m) (h : Touches m s0 s) :
    Touches m s0 (placeAck s c p) := by
  unfold placeAck
  repeat' first
    | with_reducible assumption
    | (with_reducible refine List.Subset.trans ?_ hm); decide
    | with_reducible apply placeAll_touches
    | with_reducible apply notice_touches
    | with_reducible apply pushResp_touches
    | with_reducible apply Touches.ite
    | split
    | extract_lets
    | intro _
    | dsimp +zetaDelta only

theorem nackPkt_touches {m : List Part} {s0 s : State} (c : Cell) (p : RxPkt) (status : Nat) (hm : [.units] ⊆ m) (h : Touches m s0 s) :
    Touches m s0 (nackPkt s c p status) := by
  unfold nackPkt
  repeat' first
    | with_reducible assumption
    | (with_reducible refine List.Subset.trans ?_ hm); decide
    | with_reducible apply pushResp_touches
    | with_reducible apply Touches.ite
    | split
    | extract_lets
    | intro _
    | dsimp +zetaDelta only

theorem placeChecked_touches {m : List Part} {s0 s : State} (c : Cell) (p : RxPkt) (hm : [.mem, .regs, .units, .tel] ⊆ m) (h : Touches m s0 s) :
    Touches m s0 (placeChecked s c p) := by
  unfold placeChecked
  repeat' first
    | with_reducible assumption
    | (with_reducible refine List.Subset.trans ?_ hm); decide
    | with_reducible apply placeAck_touches
    | with_reducible apply nackPkt_touches
    | with_reducible apply cntUp_touches
    | with_reducible apply Touches.ite
    | split
    | extract_lets
    | intro _
    | dsimp +zetaDelta only

theorem releaseHeld_touches {m : List Part} {s0 s : State} (c : Cell) (t : Nat) (hm : [.mem, .regs, .units, .tel] ⊆ m) (h : Touches m s0 s) :
    Touches m s0 (releaseHeld s c t) := by
  unfold releaseHeld
  repeat' first
    | with_reducible assumption
    | (with_reducible refine List.Subset.trans ?_ hm); decide
    | with_reducible apply placeChecked_touches
    | with_reducible apply setLast_touches
    | with_reducible apply Touches.ite
    | split
    | extract_lets
    | intro _
    | dsimp +zetaDelta only

theorem lastArrival_touches {m : List Part} {s0 s : State} (c : Cell) (t : Nat) (p : RxPkt) (hm : [.mem, .regs, .units, .tel] ⊆ m) (h : Touches m s0 s) :
    Touches m s0 (lastArrival s c t p) := by
  unfold lastArrival
  repeat' first
    | with_reducible assumption
    | (with_reducible refine List.Subset.trans ?_ hm); decide
    | with_reducible apply setLast_touches
    | with_reducible apply placeChecked_touches
    | with_reducible apply nackPkt_touches
    | with_reducible apply cntUp_touches
    | with_reducible apply releaseHeld_touches
    | with_reducible apply Touches.ite
    | split
    | extract_lets
    | intro _
    | dsimp +zetaDelta only

theorem strangeArrival_touches {m : List Part} {s0 s : State} (c : Cell) (p : RxPkt) (hm : [.mem, .regs, .units, .tel] ⊆ m) (h : Touches m s0 s) :
    Touches m s0 (strangeArrival s c p) := by
  unfold strangeArrival
  repeat' first
    | with_reducible assumption
    | (with_reducible refine List.Subset.trans ?_ hm); decide
    | with_reducible apply nackPkt_touches
    | with_reducible apply cntUp_touches
    | with_reducible apply placeAll_touches
    | with_reducible apply notice_touches
    | with_reducible apply pushResp_touches
    | with_reducible apply Touches.ite
    | split
    | extract_lets
    | intro _
    | dsimp +zetaDelta only

theorem arrivalCount_touches {m : List Part} {s0 s : State} (c : Cell) (p : RxPkt) (hm : [.mem, .regs] ⊆ m) (h : Touches m s0 s) :
    Touches m s0 (arrivalCount s c p) := by
  unfold arrivalCount
  repeat' first
    | with_reducible assumption
    | (with_reducible refine List.Subset.trans ?_ hm); decide
    | with_reducible apply cntUp_touches
    | with_reducible apply memWrite_touches
    | with_reducible apply Touches.ite
    | split
    | extract_lets
    | intro _
    | dsimp +zetaDelta only

theorem niWrite_touches {m : List Part} {s0 s : State} (c : Cell) (p : RxPkt) (ecc : Ecc) (hm : [.mem, .regs, .units, .gws, .tel] ⊆ m) (h : Touches m s0 s) :
    Touches m s0 (niWrite s c p ecc) := by
  unfold niWrite
  repeat' first
    | with_reducible assumption
    | (with_reducible refine List.Subset.trans ?_ hm); decide
    | with_reducible apply takeMalformed_touches
    | with_reducible apply arrivalCount_touches
    | with_reducible apply placeAll_touches
    | with_reducible apply cntUp_touches
    | with_reducible apply lastEcc_touches
    | with_reducible apply lastArrival_touches
    | with_reducible apply strangeArrival_touches
    | with_reducible apply placeChecked_touches
    | with_reducible apply Touches.ite
    | split
    | extract_lets
    | intro _
    | dsimp +zetaDelta only

theorem countReq_touches {m : List Part} {s0 s : State} (g : GwId) (wr : Bool) (off : Nat) (len : Nat) (hm : [.tel] ⊆ m) (h : Touches m s0 s) :
    Touches m s0 (countReq s g wr off len) := by
  unfold countReq
  repeat' first
    | with_reducible assumption
    | (with_reducible refine List.Subset.trans ?_ hm); decide
    | with_reducible apply telGw_touches
    | with_reducible apply telTlp_touches
    | with_reducible apply Touches.ite
    | split
    | extract_lets
    | intro _
    | dsimp +zetaDelta only

theorem gwRefuse_touches {m : List Part} {s0 s : State} (g : GwId) (p : RxPkt) (hm : [.units] ⊆ m) (h : Touches m s0 s) :
    Touches m s0 (gwRefuse s g p) := by
  unfold gwRefuse
  repeat' first
    | with_reducible assumption
    | (with_reducible refine List.Subset.trans ?_ hm); decide
    | with_reducible apply pushOpt_touches
    | with_reducible apply Touches.ite
    | split
    | extract_lets
    | intro _
    | dsimp +zetaDelta only

theorem gwRequest_touches {m : List Part} {s0 s : State} (g : GwId) (p : RxPkt) (wr : Bool) (hm : [.regs, .units, .gws, .tel] ⊆ m) (h : Touches m s0 s) :
    Touches m s0 (gwRequest s g p wr) := by
  unfold gwRequest
  repeat' first
    | with_reducible assumption
    | (with_reducible refine List.Subset.trans ?_ hm); decide
    | with_reducible apply gwRefuse_touches
    | with_reducible apply winMiss_touches
    | with_reducible apply updGw_touches
    | with_reducible apply countReq_touches
    | with_reducible apply Touches.ite
    | split
    | extract_lets
    | intro _
    | dsimp +zetaDelta only

theorem gwWrite_touches {m : List Part} {s0 s : State} (g : GwId) (p : RxPkt) (hm : [.regs, .units, .gws, .tel] ⊆ m) (h : Touches m s0 s) :
    Touches m s0 (gwWrite s g p) := by
  unfold gwWrite
  repeat' first
    | with_reducible assumption
    | (with_reducible refine List.Subset.trans ?_ hm); decide
    | with_reducible apply takeMalformed_touches
    | with_reducible apply gwRequest_touches
    | with_reducible apply Touches.ite
    | split
    | extract_lets
    | intro _
    | dsimp +zetaDelta only

theorem optRead_touches {m : List Part} {s0 s : State} (o : OptId) (p : RxPkt) (hm : [.regs, .units, .gws] ⊆ m) (h : Touches m s0 s) :
    Touches m s0 (optRead s o p) := by
  unfold optRead
  repeat' first
    | with_reducible assumption
    | (with_reducible refine List.Subset.trans ?_ hm); decide
    | with_reducible apply takeMalformed_touches
    | with_reducible apply answerAt_touches
    | with_reducible apply Touches.ite
    | split
    | extract_lets
    | intro _
    | dsimp +zetaDelta only

theorem onCmd_touches {m : List Part} {s0 s : State} (u : UnitRef) (cmd : Nat) (f : State → RxPkt → State) (hm : [.units] ⊆ m) (h : Touches m s0 s) (hf : ∀ (t : State) (x1 : RxPkt), Touches m s0 t → Touches m s0 (f t x1)) :
    Touches m s0 (onCmd s u cmd f) := by
  unfold onCmd
  repeat' first
    | with_reducible assumption
    | (with_reducible refine List.Subset.trans ?_ hm); decide
    | with_reducible apply hf
    | (with_reducible apply takeCmd_touches_eq); with_reducible assumption
    | with_reducible apply Touches.ite
    | split
    | extract_lets
    | intro _
    | dsimp +zetaDelta only

theorem lastOpenNew_touches {m : List Part} {s0 s : State} (c : Cell) (p : RxPkt) (ecc : Ecc) (hm : [.regs, .units] ⊆ m) (h : Touches m s0 s) :
    Touches m s0 (lastOpenNew s c p ecc) := by
  unfold lastOpenNew
  repeat' first
    | with_reducible assumption
    | (with_reducible refine List.Subset.trans ?_ hm); decide
    | with_reducible apply pushResp_touches
    | with_reducible apply cntUp_touches
    | with_reducible apply lastEcc_touches
    | with_reducible apply setLast_touches
    | with_reducible apply Touches.ite
    | split
    | extract_lets
    | intro _
    | dsimp +zetaDelta only

theorem streamReq_touches {m : List Part} {s0 s : State} (c : Cell) (p : RxPkt) (ecc : Ecc) (hm : [.regs, .units] ⊆ m) (h : Touches m s0 s) :
    Touches m s0 (streamReq s c p ecc) := by
  unfold streamReq
  repeat' first
    | with_reducible assumption
    | (with_reducible refine List.Subset.trans ?_ hm); decide
    | with_reducible apply lastEcc_touches
    | with_reducible apply nackPkt_touches
    | with_reducible apply cntUp_touches
    | with_reducible apply pushResp_touches
    | with_reducible apply setLast_touches
    | with_reducible apply lastOpenNew_touches
    | with_reducible apply Touches.ite
    | split
    | extract_lets
    | intro _
    | dsimp +zetaDelta only

theorem streamRel_touches {m : List Part} {s0 s : State} (c : Cell) (p : RxPkt) (ecc : Ecc) (hm : [.regs, .units] ⊆ m) (h : Touches m s0 s) :
    Touches m s0 (streamRel s c p ecc) := by
  unfold streamRel
  repeat' first
    | with_reducible assumption
    | (with_reducible refine List.Subset.trans ?_ hm); decide
    | with_reducible apply lastEcc_touches
    | with_reducible apply pushResp_touches
    | with_reducible apply freeLast_touches
    | with_reducible apply cntUp_touches
    | with_reducible apply Touches.ite
    | split
    | extract_lets
    | intro _
    | dsimp +zetaDelta only

theorem circuitNotice_touches {m : List Part} {s0 s : State} (c : Cell) (p : RxPkt) (hm : [.regs, .units, .gws] ⊆ m) (h : Touches m s0 s) :
    Touches m s0 (circuitNotice s c p) := by
  unfold circuitNotice
  repeat' first
    | with_reducible assumption
    | (with_reducible refine List.Subset.trans ?_ hm); decide
    | with_reducible apply takeMalformed_touches
    | with_reducible apply pushResp_touches
    | with_reducible apply updUnit_touches
    | with_reducible apply Touches.ite
    | split
    | extract_lets
    | intro _
    | dsimp +zetaDelta only

theorem takeReq_touches {m : List Part} {s0 s : State} (g : GwId) (wr : Bool) (hm : [.gws] ⊆ m) (h : Touches m s0 s) :
    TouchesOpt m s0 (fun x => x.2) (takeReq s g wr) := by
  unfold takeReq
  repeat' first
    | with_reducible apply touchesOpt_map
    | with_reducible apply touchesOpt_none
    | with_reducible apply touchesOpt_some
    | with_reducible assumption
    | (with_reducible refine List.Subset.trans ?_ hm); decide
    | with_reducible apply updGw_touches
    | with_reducible apply Touches.ite
    | split
    | extract_lets
    | intro _
    | dsimp +zetaDelta only

theorem takeReq_touches_eq {m : List Part} {s0 s s1 : State} {q} (g : GwId) (wr : Bool) (he : takeReq s g wr = some (q, s1)) (hm : [.gws] ⊆ m) (h : Touches m s0 s) :
    Touches m s0 s1 :=
  takeReq_touches g wr hm h  _ he

theorem memCommit_touches {m : List Part} {s0 s : State} (g : GwId) (ok : Bool) (hm : [.mem, .regs, .units, .gws, .freeCtr] ⊆ m) (h : Touches m s0 s) :
    Touches m s0 (memCommit s g ok) := by
  unfold memCommit
  repeat' first
    | with_reducible assumption
    | (with_reducible refine List.Subset.trans ?_ hm); decide
    | with_reducible apply placeAll_touches
    | with_reducible apply setBits_touches
    | with_reducible apply cntUp_touches
    | with_reducible apply draw_touches
    | with_reducible apply pushResp_touches
    | (with_reducible apply takeReq_touches_eq); with_reducible assumption
    | with_reducible apply Touches.ite
    | split
    | extract_lets
    | intro _
    | dsimp +zetaDelta only

theorem readDone_touches {m : List Part} {s0 s : State} (g : GwId) (ok : Bool) (fail : State → State) (hm : [.units, .gws, .freeCtr] ⊆ m) (h : Touches m s0 s) (hfail : ∀ (t : State), Touches m s0 t → Touches m s0 (fail t)) :
    Touches m s0 (readDone s g ok fail) := by
  unfold readDone
  repeat' first
    | with_reducible assumption
    | (with_reducible refine List.Subset.trans ?_ hm); decide
    | with_reducible apply draw_touches
    | with_reducible apply pushResp_touches
    | with_reducible apply hfail
    | (with_reducible apply takeReq_touches_eq); with_reducible assumption
    | with_reducible apply Touches.ite
    | split
    | extract_lets
    | intro _
    | dsimp +zetaDelta only

theorem countRefused_touches {m : List Part} {s0 s : State} (g : GwId) (n : Nat) (hm : [.tel] ⊆ m) (h : Touches m s0 s) :
    Touches m s0 (countRefused s g n) := by
  unfold countRefused
  repeat' first
    | with_reducible assumption
    | (with_reducible refine List.Subset.trans ?_ hm); decide
    | with_reducible apply telGw_touches
    | with_reducible apply Touches.ite
    | split
    | extract_lets
    | intro _
    | dsimp +zetaDelta only

theorem readFailed_touches {m : List Part} {s0 s : State} (g : GwId) (hm : [.regs] ⊆ m) (h : Touches m s0 s) :
    Touches m s0 (readFailed s g) := by
  unfold readFailed
  repeat' first
    | with_reducible assumption
    | (with_reducible refine List.Subset.trans ?_ hm); decide
    | with_reducible apply setBits_touches
    | with_reducible apply cntUp_touches
    | with_reducible apply Touches.ite
    | split
    | extract_lets
    | intro _
    | dsimp +zetaDelta only

theorem sourceFails_touches {m : List Part} {s0 s : State} (g : GwId) (hm : [.mem, .regs, .units, .tx, .tel] ⊆ m) (h : Touches m s0 s) :
    Touches m s0 (sourceFails s g) := by
  unfold sourceFails
  repeat' first
    | with_reducible assumption
    | (with_reducible refine List.Subset.trans ?_ hm); decide
    | with_reducible apply failCtx_touches
    | with_reducible apply readFailed_touches
    | with_reducible apply Touches.ite
    | split
    | extract_lets
    | intro _
    | dsimp +zetaDelta only

theorem hostRead_touches {m : List Part} {s0 s : State} (g : GwId) (how : HostReadEnd) (hm : [.mem, .regs, .units, .tx, .gws, .tel, .freeCtr] ⊆ m) (h : Touches m s0 s) :
    Touches m s0 (hostRead s g how) := by
  unfold hostRead
  repeat' first
    | with_reducible assumption
    | (with_reducible refine List.Subset.trans ?_ hm); decide
    | with_reducible apply readDone_touches
    | with_reducible apply readFailed_touches
    | with_reducible apply sourceFails_touches
    | with_reducible apply Touches.ite
    | split
    | extract_lets
    | intro _
    | dsimp +zetaDelta only

end Sys2Proof.Machine
end

