-- ==== Sys2Proof/Laws/FrameMeridian.lean ====
section
/-! SUPPORT. What each operation of Sys2Proof/Machine/Meridian.lean may change: the parts of the state that it touches. -/

namespace Sys2Proof.Machine

theorem merUnlock_touches {m : List Part} {s0 s : State}  (hm : [.regs, .mer] ⊆ m) (h : Touches m s0 s) :
    Touches m s0 (merUnlock s) := by
  unfold merUnlock
  repeat' first
    | with_reducible assumption
    | (with_reducible refine List.Subset.trans ?_ hm); decide
    | with_reducible apply wrF_touches
    | with_reducible apply Touches.ite
    | split
    | extract_lets
    | intro _
    | dsimp +zetaDelta only
    | with_reducible apply Touches.set_mer

theorem tsqLost_touches {m : List Part} {s0 s : State} (n : Nat) (hm : [.regs] ⊆ m) (h : Touches m s0 s) :
    Touches m s0 (tsqLost s n) := by
  unfold tsqLost
  repeat' first
    | with_reducible assumption
    | (with_reducible refine List.Subset.trans ?_ hm); decide
    | with_reducible apply cntUp_touches
    | with_reducible apply Touches.ite
    | split
    | extract_lets
    | intro _
    | dsimp +zetaDelta only

theorem merJump_touches {m : List Part} {s0 s : State} (cnt : Nat) (hm : [.mer] ⊆ m) (h : Touches m s0 s) :
    Touches m s0 (merJump s cnt) := by
  unfold merJump
  repeat' first
    | with_reducible assumption
    | (with_reducible refine List.Subset.trans ?_ hm); decide
    | with_reducible apply Touches.ite
    | split
    | extract_lets
    | intro _
    | dsimp +zetaDelta only
    | with_reducible apply Touches.set_mer

theorem merRun_touches {m : List Part} {s0 s : State} (n : Nat) (hm : [.regs, .mer] ⊆ m) (h : Touches m s0 s) :
    Touches m s0 (merRun s n) := by
  unfold merRun
  repeat' first
    | with_reducible assumption
    | (with_reducible refine List.Subset.trans ?_ hm); decide
    | with_reducible apply tsqLost_touches
    | with_reducible apply Touches.ite
    | split
    | extract_lets
    | intro _
    | dsimp +zetaDelta only
    | with_reducible apply Touches.set_mer

theorem merSet_touches {m : List Part} {s0 s : State}  (hm : [.regs, .mer] ⊆ m) (h : Touches m s0 s) :
    Touches m s0 (merSet s) := by
  unfold merSet
  repeat' first
    | with_reducible assumption
    | (with_reducible refine List.Subset.trans ?_ hm); decide
    | with_reducible apply setBits_touches
    | with_reducible apply merJump_touches
    | with_reducible apply merUnlock_touches
    | with_reducible apply Touches.ite
    | split
    | extract_lets
    | intro _
    | dsimp +zetaDelta only

theorem merStep_touches {m : List Part} {s0 s : State}  (hm : [.regs, .mer] ⊆ m) (h : Touches m s0 s) :
    Touches m s0 (merStep s) := by
  unfold merStep
  repeat' first
    | with_reducible assumption
    | (with_reducible refine List.Subset.trans ?_ hm); decide
    | with_reducible apply setBits_touches
    | with_reducible apply merJump_touches
    | with_reducible apply Touches.ite
    | split
    | extract_lets
    | intro _
    | dsimp +zetaDelta only

theorem putTime_touches {m : List Part} {s0 s : State} (base : Nat) (t : Nat) (extra : Nat) (hm : [.regs] ⊆ m) (h : Touches m s0 s) :
    Touches m s0 (putTime s base t extra) := by
  unfold putTime
  repeat' first
    | with_reducible assumption
    | (with_reducible refine List.Subset.trans ?_ hm); decide
    | with_reducible apply wr_touches
    | with_reducible apply Touches.ite
    | split
    | extract_lets
    | intro _
    | dsimp +zetaDelta only

theorem merSnap_touches {m : List Part} {s0 s : State}  (hm : [.regs] ⊆ m) (h : Touches m s0 s) :
    Touches m s0 (merSnap s) := by
  unfold merSnap
  repeat' first
    | with_reducible assumption
    | (with_reducible refine List.Subset.trans ?_ hm); decide
    | with_reducible apply putTime_touches
    | with_reducible apply Touches.ite
    | split
    | extract_lets
    | intro _
    | dsimp +zetaDelta only

theorem merHold_touches {m : List Part} {s0 s : State}  (hm : [.mer] ⊆ m) (h : Touches m s0 s) :
    Touches m s0 (merHold s) := by
  unfold merHold
  repeat' first
    | with_reducible assumption
    | (with_reducible refine List.Subset.trans ?_ hm); decide
    | with_reducible apply Touches.ite
    | split
    | extract_lets
    | intro _
    | dsimp +zetaDelta only
    | with_reducible apply Touches.set_mer

theorem holdoverExpire_touches {m : List Part} {s0 s : State}  (hm : [.regs, .mer] ⊆ m) (h : Touches m s0 s) :
    Touches m s0 (holdoverExpire s) := by
  unfold holdoverExpire
  repeat' first
    | with_reducible assumption
    | (with_reducible refine List.Subset.trans ?_ hm); decide
    | with_reducible apply setBits_touches
    | with_reducible apply merUnlock_touches
    | with_reducible apply Touches.ite
    | split
    | extract_lets
    | intro _
    | dsimp +zetaDelta only

theorem copyStop_touches {m : List Part} {s0 s : State} (d : Nat) (hm : [.doms] ⊆ m) (h : Touches m s0 s) :
    Touches m s0 (copyStop s d) := by
  unfold copyStop
  repeat' first
    | with_reducible assumption
    | (with_reducible refine List.Subset.trans ?_ hm); decide
    | with_reducible apply updDom_touches
    | with_reducible apply Touches.ite
    | split
    | extract_lets
    | intro _
    | dsimp +zetaDelta only

theorem setCoast_touches {m : List Part} {s0 s : State} (k : Nat) (c : Bool) (hm : [.regs, .doms, .clks] ⊆ m) (h : Touches m s0 s) :
    Touches m s0 (setCoast s k c) := by
  unfold setCoast
  repeat' first
    | with_reducible assumption
    | (with_reducible refine List.Subset.trans ?_ hm); decide
    | with_reducible apply setClk_touches
    | with_reducible apply copyStop_touches
    | with_reducible apply setBits_touches
    | with_reducible apply Touches.ite
    | split
    | extract_lets
    | intro _
    | dsimp +zetaDelta only

theorem loseRef_touches {m : List Part} {s0 s : State} (k : Nat) (hm : [.regs, .doms, .clks, .mer] ⊆ m) (h : Touches m s0 s) :
    Touches m s0 (loseRef s k) := by
  unfold loseRef
  repeat' first
    | with_reducible assumption
    | (with_reducible refine List.Subset.trans ?_ hm); decide
    | with_reducible apply setClk_touches
    | with_reducible apply setCoast_touches
    | with_reducible apply setBits_touches
    | with_reducible apply merUnlock_touches
    | with_reducible apply Touches.ite
    | split
    | extract_lets
    | intro _
    | dsimp +zetaDelta only

theorem timestampCapture.go_touches {m : List Part} {s0 s : State} (src : Nat) (tag : Nat) (cyc : Nat) (m_ : Mer) (hm : [.mer, .freeCtr] ⊆ m) (h : Touches m s0 s) :
    Touches m s0 (timestampCapture.go src tag s cyc m_) := by
  unfold timestampCapture.go
  repeat' first
    | with_reducible assumption
    | (with_reducible refine List.Subset.trans ?_ hm); decide
    | with_reducible apply draw_touches
    | with_reducible apply Touches.ite
    | split
    | extract_lets
    | intro _
    | dsimp +zetaDelta only
    | with_reducible apply Touches.set_mer

theorem timestampCapture_touches {m : List Part} {s0 s : State} (src : Nat) (tag : Nat) (hm : [.regs, .mer, .freeCtr] ⊆ m) (h : Touches m s0 s) :
    Touches m s0 (timestampCapture s src tag) := by
  unfold timestampCapture
  repeat' first
    | with_reducible assumption
    | (with_reducible refine List.Subset.trans ?_ hm); decide
    | with_reducible apply tsqLost_touches
    | with_reducible apply timestampCapture.go_touches
    | with_reducible apply Touches.ite
    | split
    | extract_lets
    | intro _
    | dsimp +zetaDelta only

theorem tsqPop_touches {m : List Part} {s0 s : State}  (hm : [.regs, .mer] ⊆ m) (h : Touches m s0 s) :
    Touches m s0 (tsqPop s) := by
  unfold tsqPop
  repeat' first
    | with_reducible assumption
    | (with_reducible refine List.Subset.trans ?_ hm); decide
    | with_reducible apply wrF_touches
    | with_reducible apply putTime_touches
    | with_reducible apply Touches.ite
    | split
    | extract_lets
    | intro _
    | dsimp +zetaDelta only
    | with_reducible apply Touches.set_mer

theorem ppsOutPulse_touches {m : List Part} {s0 s : State}  (hm : [.mer] ⊆ m) (h : Touches m s0 s) :
    Touches m s0 (ppsOutPulse s) := by
  unfold ppsOutPulse
  repeat' first
    | with_reducible assumption
    | (with_reducible refine List.Subset.trans ?_ hm); decide
    | with_reducible apply Touches.ite
    | split
    | extract_lets
    | intro _
    | dsimp +zetaDelta only
    | with_reducible apply Touches.set_mer

theorem ppsPulseEnd_touches {m : List Part} {s0 s : State}  (hm : [.mer] ⊆ m) (h : Touches m s0 s) :
    Touches m s0 (ppsPulseEnd s) := by
  unfold ppsPulseEnd
  repeat' first
    | with_reducible assumption
    | (with_reducible refine List.Subset.trans ?_ hm); decide
    | with_reducible apply Touches.ite
    | split
    | extract_lets
    | intro _
    | dsimp +zetaDelta only
    | with_reducible apply Touches.set_mer

theorem copyPulse_touches {m : List Part} {s0 s : State} (d : Nat) (x : Nat) (late : Nat) (unsync : Bool) (stepped : Bool) (hm : [.doms] ⊆ m) (h : Touches m s0 s) :
    Touches m s0 (copyPulse s d x late unsync stepped) := by
  unfold copyPulse
  repeat' first
    | with_reducible assumption
    | (with_reducible refine List.Subset.trans ?_ hm); decide
    | with_reducible apply updDom_touches
    | with_reducible apply Touches.ite
    | split
    | extract_lets
    | intro _
    | dsimp +zetaDelta only

theorem timePulse_touches {m : List Part} {s0 s : State}  (hm : [.doms, .mer] ⊆ m) (h : Touches m s0 s) :
    Touches m s0 (timePulse s) := by
  unfold timePulse
  repeat' first
    | with_reducible assumption
    | (with_reducible refine List.Subset.trans ?_ hm); decide
    | with_reducible apply copyPulse_touches
    | with_reducible apply Touches.foldl
    | with_reducible apply Touches.ite
    | split
    | extract_lets
    | intro _
    | dsimp +zetaDelta only
    | with_reducible apply Touches.set_mer

theorem pulseMissing_touches {m : List Part} {s0 s : State} (d : Nat) (hm : [.doms] ⊆ m) (h : Touches m s0 s) :
    Touches m s0 (pulseMissing s d) := by
  unfold pulseMissing
  repeat' first
    | with_reducible assumption
    | (with_reducible refine List.Subset.trans ?_ hm); decide
    | with_reducible apply copyStop_touches
    | with_reducible apply Touches.ite
    | split
    | extract_lets
    | intro _
    | dsimp +zetaDelta only

theorem timeSend_touches {m : List Part} {s0 s : State} (o : OptId) (p : RxPkt) (hm : [.gws] ⊆ m) (h : Touches m s0 s) :
    Touches m s0 (timeSend s o p) := by
  unfold timeSend
  repeat' first
    | with_reducible assumption
    | (with_reducible refine List.Subset.trans ?_ hm); decide
    | with_reducible apply updOpt_touches
    | with_reducible apply Touches.ite
    | split
    | extract_lets
    | intro _
    | dsimp +zetaDelta only

theorem exchEnd_touches {m : List Part} {s0 s : State} (o : OptId) (hm : [.gws] ⊆ m) (h : Touches m s0 s) :
    Touches m s0 (exchEnd s o) := by
  unfold exchEnd
  repeat' first
    | with_reducible assumption
    | (with_reducible refine List.Subset.trans ?_ hm); decide
    | with_reducible apply updOpt_touches
    | with_reducible apply Touches.ite
    | split
    | extract_lets
    | intro _
    | dsimp +zetaDelta only

theorem timeExchangeStart_touches {m : List Part} {s0 s : State} (o : OptId) (hm : [.gws] ⊆ m) (h : Touches m s0 s) :
    Touches m s0 (timeExchangeStart s o) := by
  unfold timeExchangeStart
  repeat' first
    | with_reducible assumption
    | (with_reducible refine List.Subset.trans ?_ hm); decide
    | with_reducible apply updOpt_touches
    | with_reducible apply timeSend_touches
    | with_reducible apply Touches.ite
    | split
    | extract_lets
    | intro _
    | dsimp +zetaDelta only

theorem takeTime_touches {m : List Part} {s0 s : State} (o : OptId) (rsp : Bool) (hm : [.units] ⊆ m) (h : Touches m s0 s) :
    TouchesOpt m s0 (fun x => x.2) (takeTime s o rsp) := by
  unfold takeTime
  repeat' first
    | with_reducible apply touchesOpt_map
    | with_reducible apply touchesOpt_none
    | with_reducible apply touchesOpt_some
    | with_reducible assumption
    | (with_reducible refine List.Subset.trans ?_ hm); decide
    | with_reducible apply updUnit_touches
    | with_reducible apply Touches.ite
    | split
    | extract_lets
    | intro _
    | dsimp +zetaDelta only

theorem takeTime_touches_eq {m : List Part} {s0 s s1 : State} {q} (o : OptId) (rsp : Bool) (he : takeTime s o rsp = some (q, s1)) (hm : [.units] ⊆ m) (h : Touches m s0 s) :
    Touches m s0 s1 :=
  takeTime_touches o rsp hm h  _ he

theorem timeReq_touches {m : List Part} {s0 s : State} (o : OptId) (hm : [.regs, .units, .gws] ⊆ m) (h : Touches m s0 s) :
    Touches m s0 (timeReq s o) := by
  unfold timeReq
  repeat' first
    | with_reducible assumption
    | (with_reducible refine List.Subset.trans ?_ hm); decide
    | with_reducible apply countMalformed_touches
    | with_reducible apply timeSend_touches
    | (with_reducible apply takeTime_touches_eq); with_reducible assumption
    | with_reducible apply Touches.ite
    | split
    | extract_lets
    | intro _
    | dsimp +zetaDelta only

theorem timeRsp_touches {m : List Part} {s0 s : State} (o : OptId) (hm : [.regs, .units, .gws, .freeCtr] ⊆ m) (h : Touches m s0 s) :
    Touches m s0 (timeRsp s o) := by
  unfold timeRsp
  repeat' first
    | with_reducible assumption
    | (with_reducible refine List.Subset.trans ?_ hm); decide
    | with_reducible apply countMalformed_touches
    | with_reducible apply exchEnd_touches
    | with_reducible apply cntUp_touches
    | with_reducible apply draw_touches
    | with_reducible apply updOpt_touches
    | (with_reducible apply takeTime_touches_eq); with_reducible assumption
    | with_reducible apply Touches.ite
    | split
    | extract_lets
    | intro _
    | dsimp +zetaDelta only

theorem exchangeTimeout_touches {m : List Part} {s0 s : State} (o : OptId) (hm : [.regs, .gws] ⊆ m) (h : Touches m s0 s) :
    Touches m s0 (exchangeTimeout s o) := by
  unfold exchangeTimeout
  repeat' first
    | with_reducible assumption
    | (with_reducible refine List.Subset.trans ?_ hm); decide
    | with_reducible apply cntUp_touches
    | with_reducible apply exchEnd_touches
    | with_reducible apply Touches.ite
    | split
    | extract_lets
    | intro _
    | dsimp +zetaDelta only

theorem timeStatRead_touches {m : List Part} {s0 s : State} (o : OptId) (hm : [.regs] ⊆ m) (h : Touches m s0 s) :
    Touches m s0 (timeStatRead s o) := by
  unfold timeStatRead
  repeat' first
    | with_reducible assumption
    | (with_reducible refine List.Subset.trans ?_ hm); decide
    | with_reducible apply wr_touches
    | with_reducible apply Touches.ite
    | split
    | extract_lets
    | intro _
    | dsimp +zetaDelta only

end Sys2Proof.Machine
end

