-- ==== Sys2Proof/Laws/FrameMeter.lean ====
section
/-! SUPPORT. What each operation of Sys2Proof/Machine/Meter.lean may change: the parts of the state that it touches. -/

namespace Sys2Proof.Machine

theorem meterStep_touches {m : List Part} {s0 s : State} (g : GwId) (k : Nat) (hm : [.regs, .gws] ⊆ m) (h : Touches m s0 s) :
    Touches m s0 (meterStep s g k) := by
  unfold meterStep
  repeat' first
    | with_reducible assumption
    | (with_reducible refine List.Subset.trans ?_ hm); decide
    | with_reducible apply updGw_touches
    | with_reducible apply setBits_touches
    | with_reducible apply Touches.ite
    | split
    | extract_lets
    | intro _
    | dsimp +zetaDelta only

theorem meterWrite_touches {m : List Part} {s0 s : State} (g : GwId) (key : Nat) (v : Word) (hm : [.gws] ⊆ m) (h : Touches m s0 s) :
    Touches m s0 (meterWrite s g key v) := by
  unfold meterWrite
  repeat' first
    | with_reducible assumption
    | (with_reducible refine List.Subset.trans ?_ hm); decide
    | with_reducible apply updGw_touches
    | with_reducible apply Touches.ite
    | split
    | extract_lets
    | intro _
    | dsimp +zetaDelta only

theorem meterUpdate_touches {m : List Part} {s0 s : State} (g : GwId) (hm : [.regs, .gws] ⊆ m) (h : Touches m s0 s) :
    Touches m s0 (meterUpdate s g) := by
  unfold meterUpdate
  repeat' first
    | with_reducible assumption
    | (with_reducible refine List.Subset.trans ?_ hm); decide
    | with_reducible apply meterStep_touches
    | with_reducible apply updGw_touches
    | with_reducible apply Touches.ite
    | split
    | extract_lets
    | intro _
    | dsimp +zetaDelta only

theorem meterTake_touches {m : List Part} {s0 s : State} (g : GwId) (cmd : Nat) (ndu : Nat) (cls : Nat) (hm : [.regs, .gws, .tel] ⊆ m) (h : Touches m s0 s) :
    Touches m s0 (meterTake s g cmd ndu cls).1 := by
  unfold meterTake
  repeat' first
    | with_reducible assumption
    | (with_reducible refine List.Subset.trans ?_ hm); decide
    | with_reducible apply updGw_touches
    | with_reducible apply telGw_touches
    | with_reducible apply cntUp_touches
    | with_reducible apply Touches.ite
    | split
    | extract_lets
    | intro _
    | dsimp +zetaDelta only

theorem meterTake_touches_eq {m : List Part} {s0 s s1 : State} {q} (g : GwId) (cmd : Nat) (ndu : Nat) (cls : Nat) (he : meterTake s g cmd ndu cls = (s1, q)) (hm : [.regs, .gws, .tel] ⊆ m) (h : Touches m s0 s) :
    Touches m s0 s1 := by
  have k := meterTake_touches g cmd ndu cls hm h 
  rwa [he] at k

end Sys2Proof.Machine
end

