-- ==== Sys2Proof/Laws/FrameSender.lean ====
section
/-! SUPPORT. What each operation of Sys2Proof/Machine/Sender.lean may change: the parts of the state that it touches. -/

namespace Sys2Proof.Machine

theorem charge_touches {m : List Part} {s0 s : State} (u : UnitRef) (q : Nat) (len : Nat) (hm : [.units] ⊆ m) (h : Touches m s0 s) :
    Touches m s0 (charge s u q len) := by
  unfold charge
  repeat' first
    | with_reducible assumption
    | (with_reducible refine List.Subset.trans ?_ hm); decide
    | with_reducible apply updUnit_touches
    | with_reducible apply Touches.ite
    | split
    | extract_lets
    | intro _
    | dsimp +zetaDelta only

theorem takeEntry_touches {m : List Part} {s0 s : State} (u : UnitRef) (tag : Nat) (r : OutReq) (epoch : Nat) (h_ : Payload) (hm : [.regs, .units] ⊆ m) (h : Touches m s0 s) :
    Touches m s0 (takeEntry s u tag r epoch h_) := by
  unfold takeEntry
  repeat' first
    | with_reducible assumption
    | (with_reducible refine List.Subset.trans ?_ hm); decide
    | with_reducible apply updUnit_touches
    | with_reducible apply updCtx_touches
    | with_reducible apply maxUp_touches
    | with_reducible apply Touches.ite
    | split
    | extract_lets
    | intro _
    | dsimp +zetaDelta only

theorem countSentTiles_touches {m : List Part} {s0 s : State} (u : UnitRef) (r : OutReq) (hm : [.regs] ⊆ m) (h : Touches m s0 s) :
    Touches m s0 (countSentTiles s u r) := by
  unfold countSentTiles
  repeat' first
    | with_reducible assumption
    | (with_reducible refine List.Subset.trans ?_ hm); decide
    | with_reducible apply cntUp_touches
    | with_reducible apply Touches.ite
    | split
    | extract_lets
    | intro _
    | dsimp +zetaDelta only

theorem enter_touches {m : List Part} {s0 s : State} (u : UnitRef) (c : Cell) (z : TxPkt) (charged : Bool) (hm : [.regs, .units] ⊆ m) (h : Touches m s0 s) :
    TouchesOpt m s0 (fun x => x.2) (enter s u c z charged) := by
  unfold enter
  repeat' first
    | with_reducible apply touchesOpt_map
    | with_reducible apply touchesOpt_none
    | with_reducible apply touchesOpt_some
    | with_reducible assumption
    | (with_reducible refine List.Subset.trans ?_ hm); decide
    | with_reducible apply charge_touches
    | with_reducible apply countSentTiles_touches
    | with_reducible apply takeEntry_touches
    | with_reducible apply updUnit_touches
    | with_reducible apply Touches.ite
    | split
    | extract_lets
    | intro _
    | dsimp +zetaDelta only

theorem enter_touches_eq {m : List Part} {s0 s s1 : State} {q} (u : UnitRef) (c : Cell) (z : TxPkt) (charged : Bool) (he : enter s u c z charged = some (q, s1)) (hm : [.regs, .units] ⊆ m) (h : Touches m s0 s) :
    Touches m s0 s1 :=
  enter_touches u c z charged hm h  _ he

theorem deliverOwn_touches {m : List Part} {s0 s : State} (c : Cell) (h_ : Payload) (data : List Payload) (free : Option Nat) (hm : [.regs, .units, .tel] ⊆ m) (h : Touches m s0 s) :
    Touches m s0 (deliverOwn s c h_ data free) := by
  unfold deliverOwn
  repeat' first
    | with_reducible assumption
    | (with_reducible refine List.Subset.trans ?_ hm); decide
    | with_reducible apply rxCount_touches
    | with_reducible apply updUnit_touches
    | with_reducible apply Touches.ite
    | split
    | extract_lets
    | intro _
    | dsimp +zetaDelta only

theorem countSent_touches {m : List Part} {s0 s : State} (u : UnitRef) (z : TxPkt) (hm : [.units] ⊆ m) (h : Touches m s0 s) :
    Touches m s0 (countSent s u z) := by
  unfold countSent
  repeat' first
    | with_reducible assumption
    | (with_reducible refine List.Subset.trans ?_ hm); decide
    | with_reducible apply updCtx_touches
    | with_reducible apply Touches.ite
    | split
    | extract_lets
    | intro _
    | dsimp +zetaDelta only

theorem popPlan_touches {m : List Part} {s0 s : State} (u : UnitRef) (id : Nat) (hm : [.units] ⊆ m) (h : Touches m s0 s) :
    Touches m s0 (popPlan s u id) := by
  unfold popPlan
  repeat' first
    | with_reducible assumption
    | (with_reducible refine List.Subset.trans ?_ hm); decide
    | with_reducible apply updCtx_touches
    | with_reducible apply Touches.ite
    | split
    | extract_lets
    | intro _
    | dsimp +zetaDelta only

theorem noPath_touches {m : List Part} {s0 s : State} (u : UnitRef) (miss : Bool) (hm : [.regs] ⊆ m) (h : Touches m s0 s) :
    Touches m s0 (noPath s u miss) := by
  unfold noPath
  repeat' first
    | with_reducible assumption
    | (with_reducible refine List.Subset.trans ?_ hm); decide
    | with_reducible apply setBits_touches
    | with_reducible apply cntUp_touches
    | with_reducible apply Touches.ite
    | split
    | extract_lets
    | intro _
    | dsimp +zetaDelta only

theorem blockedSet_touches {m : List Part} {s0 s : State} (u : UnitRef) (hm : [.regs] ⊆ m) (h : Touches m s0 s) :
    Touches m s0 (blockedSet s u) := by
  unfold blockedSet
  repeat' first
    | with_reducible assumption
    | (with_reducible refine List.Subset.trans ?_ hm); decide
    | with_reducible apply setBits_touches
    | with_reducible apply Touches.ite
    | split
    | extract_lets
    | intro _
    | dsimp +zetaDelta only

theorem takeVcCur_touches {m : List Part} {s0 s : State} (e : EndRef) (z : TxPkt) (hm : [.tx] ⊆ m) (h : Touches m s0 s) :
    Touches m s0 (takeVcCur s e z) := by
  unfold takeVcCur
  repeat' first
    | with_reducible assumption
    | (with_reducible refine List.Subset.trans ?_ hm); decide
    | with_reducible apply setTxEnd_touches
    | with_reducible apply Touches.ite
    | split
    | extract_lets
    | intro _
    | dsimp +zetaDelta only

theorem unitMiss_touches {m : List Part} {s0 s : State} (u : UnitRef) (hm : [.regs] ⊆ m) (h : Touches m s0 s) :
    Touches m s0 (unitMiss s u) := by
  unfold unitMiss
  repeat' first
    | with_reducible assumption
    | (with_reducible refine List.Subset.trans ?_ hm); decide
    | with_reducible apply winMiss_touches
    | with_reducible apply Touches.ite
    | split
    | extract_lets
    | intro _
    | dsimp +zetaDelta only

theorem countSrc_touches {m : List Part} {s0 s : State} (u : UnitRef) (p : Plan) (hm : [.tel] ⊆ m) (h : Touches m s0 s) :
    Touches m s0 (countSrc s u p) := by
  unfold countSrc
  repeat' first
    | with_reducible assumption
    | (with_reducible refine List.Subset.trans ?_ hm); decide
    | with_reducible apply telTlp_touches
    | with_reducible apply Touches.ite
    | split
    | extract_lets
    | intro _
    | dsimp +zetaDelta only

theorem startQueue_touches {m : List Part} {s0 s : State} (u : UnitRef) (e : EndRef) (k : Nat) (q : Nat) (hm : [.mem, .regs, .units, .tx, .tel] ⊆ m) (h : Touches m s0 s) :
    Touches m s0 (startQueue s u e k q) := by
  unfold startQueue
  repeat' first
    | with_reducible assumption
    | (with_reducible refine List.Subset.trans ?_ hm); decide
    | with_reducible apply failCtx_touches
    | with_reducible apply unitMiss_touches
    | with_reducible apply takeVcCur_touches
    | with_reducible apply popPlan_touches
    | with_reducible apply countSrc_touches
    | with_reducible apply setTxEnd_touches
    | with_reducible apply noPath_touches
    | with_reducible apply updUnit_touches
    | with_reducible apply blockedSet_touches
    | with_reducible apply Touches.ite
    | split
    | extract_lets
    | intro _
    | dsimp +zetaDelta only

theorem startMetered_touches {m : List Part} {s0 s : State} (u : UnitRef) (e : EndRef) (k : Nat) (q : Nat) (hm : [.mem, .regs, .units, .tx, .gws, .tel] ⊆ m) (h : Touches m s0 s) :
    Touches m s0 (startMetered s u e k q) := by
  unfold startMetered
  repeat' first
    | with_reducible assumption
    | (with_reducible refine List.Subset.trans ?_ hm); decide
    | with_reducible apply startQueue_touches
    | with_reducible apply meterTake_touches
    | with_reducible apply updCtx_touches
    | with_reducible apply settleCtx_touches
    | with_reducible apply takeEntry_touches
    | with_reducible apply popPlan_touches
    | (with_reducible apply meterTake_touches_eq); with_reducible assumption
    | with_reducible apply Touches.ite
    | split
    | extract_lets
    | intro _
    | dsimp +zetaDelta only

theorem startClass_touches {m : List Part} {s0 s : State} (u : UnitRef) (e : EndRef) (k : Nat) (hm : [.mem, .regs, .units, .tx, .gws, .tel] ⊆ m) (h : Touches m s0 s) :
    Touches m s0 (startClass s u e k) := by
  unfold startClass
  repeat' first
    | with_reducible assumption
    | (with_reducible refine List.Subset.trans ?_ hm); decide
    | with_reducible apply blockedSet_touches
    | with_reducible apply startMetered_touches
    | with_reducible apply Touches.ite
    | split
    | extract_lets
    | intro _
    | dsimp +zetaDelta only

theorem lossGone_touches {m : List Part} {s0 s : State} (u : UnitRef) (z : TxPkt) (hm : [.regs] ⊆ m) (h : Touches m s0 s) :
    Touches m s0 (lossGone s u z) := by
  unfold lossGone
  repeat' first
    | with_reducible assumption
    | (with_reducible refine List.Subset.trans ?_ hm); decide
    | with_reducible apply cntUp_touches
    | with_reducible apply Touches.ite
    | split
    | extract_lets
    | intro _
    | dsimp +zetaDelta only

theorem startResp_touches {m : List Part} {s0 s : State} (u : UnitRef) (e : EndRef) (z : List TxPkt) (z1 : List TxPkt) (hm : [.regs, .units, .tx] ⊆ m) (h : Touches m s0 s) :
    Touches m s0 (startResp s u e z z1) := by
  induction z1 generalizing s z with
  | nil =>
    unfold startResp
    repeat' first
      | with_reducible assumption
      | (with_reducible refine List.Subset.trans ?_ hm); decide
      | with_reducible apply lossGone_touches
      | with_reducible apply noPath_touches
      | with_reducible apply updUnit_touches
      | with_reducible apply blockedSet_touches
      | with_reducible apply takeVcCur_touches
      | with_reducible apply Touches.ite
      | split
      | extract_lets
      | intro _
      | dsimp +zetaDelta only
  | cons f r ih =>
    unfold startResp
    repeat' first
      | with_reducible apply ih
      | with_reducible assumption
      | (with_reducible refine List.Subset.trans ?_ hm); decide
      | with_reducible apply lossGone_touches
      | with_reducible apply noPath_touches
      | with_reducible apply updUnit_touches
      | with_reducible apply blockedSet_touches
      | with_reducible apply takeVcCur_touches
      | with_reducible apply Touches.ite
      | split
      | extract_lets
      | intro _
      | dsimp +zetaDelta only

theorem startRsp_touches {m : List Part} {s0 s : State} (u : UnitRef) (e : EndRef) (hm : [.regs, .units, .tx] ⊆ m) (h : Touches m s0 s) :
    Touches m s0 (startRsp s u e) := by
  unfold startRsp
  repeat' first
    | with_reducible assumption
    | (with_reducible refine List.Subset.trans ?_ hm); decide
    | with_reducible apply startResp_touches
    | with_reducible apply Touches.ite
    | split
    | extract_lets
    | intro _
    | dsimp +zetaDelta only

theorem swapBanks_touches {m : List Part} {s0 s : State} (u : UnitRef) (hm : [.regs] ⊆ m) (h : Touches m s0 s) :
    Touches m s0 (swapBanks s u) := by
  unfold swapBanks
  repeat' first
    | with_reducible assumption
    | (with_reducible refine List.Subset.trans ?_ hm); decide
    | with_reducible apply Touches.foldl
    | with_reducible apply Touches.ite
    | split
    | extract_lets
    | intro _
    | dsimp +zetaDelta only
    | with_reducible apply Touches.set_regs

theorem bankOf_touches {m : List Part} {s0 s : State} (u : UnitRef) (z : TxPkt) (hm : [.regs] ⊆ m) (h : Touches m s0 s) :
    Touches m s0 (bankOf s u z) := by
  unfold bankOf
  repeat' first
    | with_reducible assumption
    | (with_reducible refine List.Subset.trans ?_ hm); decide
    | with_reducible apply swapBanks_touches
    | with_reducible apply Touches.ite
    | split
    | extract_lets
    | intro _
    | dsimp +zetaDelta only

theorem startQueued_touches {m : List Part} {s0 s : State} (lose : State → EndRef → TxPkt → Bool → State) (e : EndRef) (k : Nat) (z : List TxPkt) (z1 : List TxPkt) (hm : [.regs, .units, .tx] ⊆ m) (h : Touches m s0 s) (hlose : ∀ (t : State) (x1 : EndRef) (x2 : TxPkt) (x3 : Bool), Touches m s0 t → Touches m s0 (lose t x1 x2 x3)) :
    Touches m s0 (startQueued lose s e k z z1) := by
  induction z1 generalizing s z with
  | nil =>
    unfold startQueued
    repeat' first
      | with_reducible assumption
      | (with_reducible refine List.Subset.trans ?_ hm); decide
      | with_reducible apply setTxEnd_touches
      | with_reducible apply takeVcCur_touches
      | with_reducible apply bankOf_touches
      | with_reducible apply updUnit_touches
      | with_reducible apply blockedSet_touches
      | with_reducible apply hlose
      | with_reducible apply Touches.ite
      | split
      | extract_lets
      | intro _
      | dsimp +zetaDelta only
  | cons f r ih =>
    unfold startQueued
    repeat' first
      | with_reducible apply ih
      | with_reducible assumption
      | (with_reducible refine List.Subset.trans ?_ hm); decide
      | with_reducible apply setTxEnd_touches
      | with_reducible apply takeVcCur_touches
      | with_reducible apply bankOf_touches
      | with_reducible apply updUnit_touches
      | with_reducible apply blockedSet_touches
      | with_reducible apply hlose
      | with_reducible apply Touches.ite
      | split
      | extract_lets
      | intro _
      | dsimp +zetaDelta only

theorem ownStep_touches {m : List Part} {s0 s : State} (c : Cell) (q : Nat) (hm : [.mem, .regs, .units, .tel] ⊆ m) (h : Touches m s0 s) :
    Touches m s0 (ownStep s c q) := by
  unfold ownStep
  repeat' first
    | with_reducible assumption
    | (with_reducible refine List.Subset.trans ?_ hm); decide
    | with_reducible apply settleCtx_touches
    | with_reducible apply countSent_touches
    | with_reducible apply deliverOwn_touches
    | with_reducible apply popPlan_touches
    | (with_reducible apply enter_touches_eq); with_reducible assumption
    | with_reducible apply Touches.ite
    | split
    | extract_lets
    | intro _
    | dsimp +zetaDelta only

theorem ownResp_touches {m : List Part} {s0 s : State} (c : Cell) (z : List TxPkt) (hm : [.regs, .units, .tel] ⊆ m) (h : Touches m s0 s) :
    Touches m s0 (ownResp s c z) := by
  induction z generalizing s  with
  | nil =>
    unfold ownResp
    repeat' first
      | with_reducible assumption
      | (with_reducible refine List.Subset.trans ?_ hm); decide
      | with_reducible apply updUnit_touches
      | with_reducible apply deliverOwn_touches
      | with_reducible apply Touches.ite
      | split
      | extract_lets
      | intro _
      | dsimp +zetaDelta only
  | cons f r ih =>
    unfold ownResp
    repeat' first
      | with_reducible apply ih
      | with_reducible assumption
      | (with_reducible refine List.Subset.trans ?_ hm); decide
      | with_reducible apply updUnit_touches
      | with_reducible apply deliverOwn_touches
      | with_reducible apply Touches.ite
      | split
      | extract_lets
      | intro _
      | dsimp +zetaDelta only

theorem weltStart_touches {m : List Part} {s0 s : State} (c : Cell) (q : Nat) (hm : [.units] ⊆ m) (h : Touches m s0 s) :
    Touches m s0 (weltStart s c q) := by
  unfold weltStart
  repeat' first
    | with_reducible assumption
    | (with_reducible refine List.Subset.trans ?_ hm); decide
    | with_reducible apply updUnit_touches
    | with_reducible apply popPlan_touches
    | with_reducible apply Touches.ite
    | split
    | extract_lets
    | intro _
    | dsimp +zetaDelta only

theorem countInj_touches {m : List Part} {s0 s : State} (e : EndRef) (k : Nat) (len : Nat) (hm : [.tel] ⊆ m) (h : Touches m s0 s) :
    Touches m s0 (countInj s e k len) := by
  unfold countInj
  repeat' first
    | with_reducible assumption
    | (with_reducible refine List.Subset.trans ?_ hm); decide
    | with_reducible apply telNi_touches
    | with_reducible apply Touches.ite
    | split
    | extract_lets
    | intro _
    | dsimp +zetaDelta only

theorem sendCur_touches {m : List Part} {s0 s : State} (e : EndRef) (k : Nat) (z : TxCur) (hm : [.mem, .regs, .links, .units, .tx, .tel] ⊆ m) (h : Touches m s0 s) :
    Touches m s0 (sendCur s e k z) := by
  unfold sendCur
  repeat' first
    | with_reducible assumption
    | (with_reducible refine List.Subset.trans ?_ hm); decide
    | with_reducible apply setTxEnd_touches
    | with_reducible apply settleCtx_touches
    | with_reducible apply emitSeq_touches
    | with_reducible apply useCredit_touches
    | with_reducible apply countSent_touches
    | with_reducible apply countInj_touches
    | with_reducible apply deliverOwn_touches
    | (with_reducible apply enter_touches_eq); with_reducible assumption
    | with_reducible apply Touches.ite
    | split
    | extract_lets
    | intro _
    | dsimp +zetaDelta only

theorem unitSend_touches {m : List Part} {s0 s : State} (e : EndRef) (hm : [.mem, .regs, .links, .units, .tx, .tel] ⊆ m) (h : Touches m s0 s) :
    TouchesOpt m s0 (fun x => x) (unitSend s e) := by
  unfold unitSend
  repeat' first
    | with_reducible apply touchesOpt_map
    | with_reducible apply touchesOpt_none
    | with_reducible apply touchesOpt_some
    | with_reducible assumption
    | (with_reducible refine List.Subset.trans ?_ hm); decide
    | with_reducible apply sendCur_touches
    | with_reducible apply setTxEnd_touches
    | with_reducible apply Touches.ite
    | split
    | extract_lets
    | intro _
    | dsimp +zetaDelta only

theorem unitSend_touches_eq {m : List Part} {s0 s s1 : State} (e : EndRef) (he : unitSend s e = some s1) (hm : [.mem, .regs, .links, .units, .tx, .tel] ⊆ m) (h : Touches m s0 s) :
    Touches m s0 s1 :=
  unitSend_touches e hm h  _ he

end Sys2Proof.Machine
end

