-- ==== Sys2Proof/Laws/FrameWelt.lean ====
section
/-! SUPPORT. What each operation of Sys2Proof/Machine/Welt.lean may change: the parts of the state that it touches. -/

namespace Sys2Proof.Machine

theorem frameErr_touches {m : List Part} {s0 s : State} (c : Cell) (i : Nat) (x : WeltRx) (hm : [.regs, .units] ⊆ m) (h : Touches m s0 s) :
    Touches m s0 (frameErr s c i x) := by
  unfold frameErr
  repeat' first
    | with_reducible assumption
    | (with_reducible refine List.Subset.trans ?_ hm); decide
    | with_reducible apply cntUp_touches
    | with_reducible apply updUnit_touches
    | with_reducible apply Touches.ite
    | split
    | extract_lets
    | intro _
    | dsimp +zetaDelta only

theorem weltFrame_touches {m : List Part} {s0 s : State} (c : Cell) (i : Nat) (f : WFlit) (hm : [.regs, .units, .tel] ⊆ m) (h : Touches m s0 s) :
    Touches m s0 (weltFrame s c i f) := by
  unfold weltFrame
  repeat' first
    | with_reducible assumption
    | (with_reducible refine List.Subset.trans ?_ hm); decide
    | with_reducible apply updUnit_touches
    | with_reducible apply frameErr_touches
    | with_reducible apply measureAge_touches
    | with_reducible apply telNi_touches
    | with_reducible apply Touches.ite
    | split
    | extract_lets
    | intro _
    | dsimp +zetaDelta only

theorem weltArrive_touches {m : List Part} {s0 s : State} (e : EndRef) (slot : Nat) (f : WFlit) (hm : [.regs, .routers, .units, .gws, .tel] ⊆ m) (h : Touches m s0 s) :
    Touches m s0 (weltArrive s e slot f) := by
  unfold weltArrive
  repeat' first
    | with_reducible assumption
    | (with_reducible refine List.Subset.trans ?_ hm); decide
    | with_reducible apply setBits_touches
    | with_reducible apply cntUp_touches
    | with_reducible apply maxUp_touches
    | with_reducible apply setRport_touches
    | with_reducible apply weltFrame_touches
    | with_reducible apply updOpt_touches
    | with_reducible apply Touches.ite
    | split
    | extract_lets
    | intro _
    | dsimp +zetaDelta only

theorem weltNext_touches {m : List Part} {s0 s : State} (e : EndRef) (hm : [.mem, .regs, .routers, .units, .gws, .tel] ⊆ m) (h : Touches m s0 s) :
    TouchesOpt m s0 (fun x => x.2.2) (weltNext s e) := by
  unfold weltNext
  repeat' first
    | with_reducible apply touchesOpt_map
    | with_reducible apply touchesOpt_none
    | with_reducible apply touchesOpt_some
    | with_reducible assumption
    | (with_reducible refine List.Subset.trans ?_ hm); decide
    | with_reducible apply setRport_touches
    | with_reducible apply updOpt_touches
    | with_reducible apply updUnit_touches
    | with_reducible apply settleCtx_touches
    | with_reducible apply countInj_touches
    | (with_reducible apply enter_touches_eq); with_reducible assumption
    | with_reducible apply Touches.ite
    | split
    | extract_lets
    | intro _
    | dsimp +zetaDelta only

theorem weltNext_touches_eq {m : List Part} {s0 s s1 : State} {q q1} (e : EndRef) (he : weltNext s e = some (q, q1, s1)) (hm : [.mem, .regs, .routers, .units, .gws, .tel] ⊆ m) (h : Touches m s0 s) :
    Touches m s0 s1 :=
  weltNext_touches e hm h  _ he

theorem swapWords_touches {m : List Part} {s0 s : State} (sh : Nat) (ac : Nat) (z : Nat) (hm : [.regs] ⊆ m) (h : Touches m s0 s) :
    Touches m s0 (swapWords s sh ac z) := by
  induction z generalizing s  with
  | zero =>
    unfold swapWords
    repeat' first
      | with_reducible assumption
      | (with_reducible refine List.Subset.trans ?_ hm); decide
      | with_reducible apply wr_touches
      | with_reducible apply Touches.ite
      | split
      | extract_lets
      | intro _
      | dsimp +zetaDelta only
  | succ n ih =>
    unfold swapWords
    repeat' first
      | with_reducible apply ih
      | with_reducible assumption
      | (with_reducible refine List.Subset.trans ?_ hm); decide
      | with_reducible apply wr_touches
      | with_reducible apply Touches.ite
      | split
      | extract_lets
      | intro _
      | dsimp +zetaDelta only

theorem disableBad_touches {m : List Part} {s0 s : State} (ac : Nat) (own : Nat) (hm : [.regs] ⊆ m) (h : Touches m s0 s) :
    Touches m s0 (disableBad s ac own).1 := by
  unfold disableBad
  repeat' first
    | with_reducible assumption
    | (with_reducible refine List.Subset.trans ?_ hm); decide
    | with_reducible apply wr_touches
    | with_reducible apply Touches.foldl
    | with_reducible apply Touches.ite
    | split
    | extract_lets
    | intro _
    | dsimp +zetaDelta only

theorem disableBad_touches_eq {m : List Part} {s0 s s1 : State} {q} (ac : Nat) (own : Nat) (he : disableBad s ac own = (s1, q)) (hm : [.regs] ⊆ m) (h : Touches m s0 s) :
    Touches m s0 s1 := by
  have k := disableBad_touches ac own hm h 
  rwa [he] at k

theorem swapOut_touches {m : List Part} {s0 s : State} (c : Cell) (p : Fin 7) (hm : [.regs, .routers] ⊆ m) (h : Touches m s0 s) :
    Touches m s0 (swapOut s c p) := by
  unfold swapOut
  repeat' first
    | with_reducible assumption
    | (with_reducible refine List.Subset.trans ?_ hm); decide
    | with_reducible apply cntUp_touches
    | with_reducible apply setRouter_touches
    | with_reducible apply disableBad_touches
    | with_reducible apply swapWords_touches
    | with_reducible apply setBits_touches
    | (with_reducible apply disableBad_touches_eq); with_reducible assumption
    | with_reducible apply Touches.ite
    | split
    | extract_lets
    | intro _
    | dsimp +zetaDelta only

theorem swapCell_touches {m : List Part} {s0 s : State} (c : Cell) (hm : [.regs, .routers] ⊆ m) (h : Touches m s0 s) :
    Touches m s0 (swapCell s c) := by
  unfold swapCell
  repeat' first
    | with_reducible assumption
    | (with_reducible refine List.Subset.trans ?_ hm); decide
    | with_reducible apply swapOut_touches
    | with_reducible apply swapWords_touches
    | with_reducible apply Touches.foldl
    | with_reducible apply Touches.ite
    | split
    | extract_lets
    | intro _
    | dsimp +zetaDelta only

theorem swapTab_touches {m : List Part} {s0 s : State} (o : OptId) (t : Nat) (hm : [.regs] ⊆ m) (h : Touches m s0 s) :
    Touches m s0 (swapTab s o t) := by
  unfold swapTab
  repeat' first
    | with_reducible assumption
    | (with_reducible refine List.Subset.trans ?_ hm); decide
    | with_reducible apply swapWords_touches
    | with_reducible apply disableBad_touches
    | with_reducible apply setBits_touches
    | (with_reducible apply disableBad_touches_eq); with_reducible assumption
    | with_reducible apply Touches.ite
    | split
    | extract_lets
    | intro _
    | dsimp +zetaDelta only

theorem tabStep_touches {m : List Part} {s0 s : State} (o : OptId) (at' : Nat) (t : Nat) (hm : [.regs, .gws] ⊆ m) (h : Touches m s0 s) :
    Touches m s0 (tabStep s o at' t) := by
  unfold tabStep
  repeat' first
    | with_reducible assumption
    | (with_reducible refine List.Subset.trans ?_ hm); decide
    | with_reducible apply updOpt_touches
    | with_reducible apply swapTab_touches
    | with_reducible apply Touches.ite
    | split
    | extract_lets
    | intro _
    | dsimp +zetaDelta only

theorem swapDone_touches {m : List Part} {s0 s : State} (w : WeltDom) (hm : [.regs] ⊆ m) (h : Touches m s0 s) :
    Touches m s0 (swapDone s w) := by
  unfold swapDone
  repeat' first
    | with_reducible assumption
    | (with_reducible refine List.Subset.trans ?_ hm); decide
    | with_reducible apply wr_touches
    | with_reducible apply Touches.ite
    | split
    | extract_lets
    | intro _
    | dsimp +zetaDelta only

theorem swapAgain_touches {m : List Part} {s0 s : State} (c : Cell) (hm : [.regs, .routers] ⊆ m) (h : Touches m s0 s) :
    Touches m s0 (swapAgain s c) := by
  unfold swapAgain
  repeat' first
    | with_reducible assumption
    | (with_reducible refine List.Subset.trans ?_ hm); decide
    | with_reducible apply swapOut_touches
    | with_reducible apply Touches.foldl
    | with_reducible apply Touches.ite
    | split
    | extract_lets
    | intro _
    | dsimp +zetaDelta only

theorem weltSwap_touches {m : List Part} {s0 s : State} (w : WeltDom) (hm : [.regs, .routers, .gws] ⊆ m) (h : Touches m s0 s) :
    Touches m s0 (weltSwap s w) := by
  unfold weltSwap
  repeat' first
    | with_reducible assumption
    | (with_reducible refine List.Subset.trans ?_ hm); decide
    | with_reducible apply swapDone_touches
    | with_reducible apply swapCell_touches
    | with_reducible apply swapAgain_touches
    | with_reducible apply updOpt_touches
    | with_reducible apply tabStep_touches
    | with_reducible apply Touches.foldl
    | with_reducible apply Touches.ite
    | split
    | extract_lets
    | intro _
    | dsimp +zetaDelta only

theorem tabAtStart_touches {m : List Part} {s0 s : State} (o : OptId) (slot : Nat) (t : Nat) (hm : [.regs, .gws] ⊆ m) (h : Touches m s0 s) :
    Touches m s0 (tabAtStart s o slot t) := by
  unfold tabAtStart
  repeat' first
    | with_reducible assumption
    | (with_reducible refine List.Subset.trans ?_ hm); decide
    | with_reducible apply tabStep_touches
    | with_reducible apply updOpt_touches
    | with_reducible apply swapTab_touches
    | with_reducible apply Touches.ite
    | split
    | extract_lets
    | intro _
    | dsimp +zetaDelta only

end Sys2Proof.Machine
end

