-- ==== Sys2Proof/Laws/FrameOptical.lean ====
section
/-! SUPPORT. What each operation of Sys2Proof/Machine/Optical.lean may change: the parts of the state that it touches. -/

namespace Sys2Proof.Machine

theorem optErr_touches {m : List Part} {s0 s : State} (o : OptId) (mask : Nat) (hm : [.regs] ⊆ m) (h : Touches m s0 s) :
    Touches m s0 (optErr s o mask) := by
  unfold optErr
  repeat' first
    | with_reducible assumption
    | (with_reducible refine List.Subset.trans ?_ hm); decide
    | with_reducible apply setBits_touches
    | with_reducible apply Touches.ite
    | split
    | extract_lets
    | intro _
    | dsimp +zetaDelta only

theorem spoil_touches {m : List Part} {s0 s : State} (o : OptId) (hm : [.regs, .gws] ⊆ m) (h : Touches m s0 s) :
    Touches m s0 (spoil s o) := by
  unfold spoil
  repeat' first
    | with_reducible assumption
    | (with_reducible refine List.Subset.trans ?_ hm); decide
    | with_reducible apply cntUp_touches
    | with_reducible apply updOpt_touches
    | with_reducible apply Touches.ite
    | split
    | extract_lets
    | intro _
    | dsimp +zetaDelta only

theorem answerOne_touches {m : List Part} {s0 s : State} (o : OptId) (h_ : Payload) (j : Nat) (hm : [.regs, .units, .tx, .gws] ⊆ m) (h : Touches m s0 s) :
    Touches m s0 (answerOne s o h_ j) := by
  unfold answerOne
  repeat' first
    | with_reducible assumption
    | (with_reducible refine List.Subset.trans ?_ hm); decide
    | with_reducible apply cntUp_touches
    | with_reducible apply updOpt_touches
    | with_reducible apply setTxEnd_touches
    | with_reducible apply pushResp_touches
    | with_reducible apply Touches.ite
    | split
    | extract_lets
    | intro _
    | dsimp +zetaDelta only

theorem answerAll_touches {m : List Part} {s0 s : State} (o : OptId) (l : List (Payload × Nat)) (hm : [.regs, .units, .tx, .gws] ⊆ m) (h : Touches m s0 s) :
    Touches m s0 (answerAll s o l) := by
  unfold answerAll
  repeat' first
    | with_reducible assumption
    | (with_reducible refine List.Subset.trans ?_ hm); decide
    | with_reducible apply answerOne_touches
    | with_reducible apply Touches.foldl
    | with_reducible apply Touches.ite
    | split
    | extract_lets
    | intro _
    | dsimp +zetaDelta only

theorem flushHeld_touches {m : List Part} {s0 s : State} (o : OptId) (hm : [.regs, .links, .units, .tx, .gws] ⊆ m) (h : Touches m s0 s) :
    Touches m s0 (flushHeld s o) := by
  unfold flushHeld
  repeat' first
    | with_reducible assumption
    | (with_reducible refine List.Subset.trans ?_ hm); decide
    | with_reducible apply updLink_touches
    | with_reducible apply updOpt_touches
    | with_reducible apply cntUp_touches
    | with_reducible apply answerAll_touches
    | with_reducible apply Touches.ite
    | split
    | extract_lets
    | intro _
    | dsimp +zetaDelta only

theorem optFlush_touches {m : List Part} {s0 s : State} (o : OptId) (hm : [.regs, .units, .tx, .gws] ⊆ m) (h : Touches m s0 s) :
    Touches m s0 (optFlush s o) := by
  unfold optFlush
  repeat' first
    | with_reducible assumption
    | (with_reducible refine List.Subset.trans ?_ hm); decide
    | with_reducible apply answerAll_touches
    | with_reducible apply updOpt_touches
    | with_reducible apply Touches.ite
    | split
    | extract_lets
    | intro _
    | dsimp +zetaDelta only

theorem clearLost_touches {m : List Part} {s0 s : State} (o : OptId) (hm : [.gws, .flt] ⊆ m) (h : Touches m s0 s) :
    Touches m s0 (clearLost s o) := by
  unfold clearLost
  repeat' first
    | with_reducible assumption
    | (with_reducible refine List.Subset.trans ?_ hm); decide
    | with_reducible apply updOpt_touches
    | with_reducible apply Touches.ite
    | split
    | extract_lets
    | intro _
    | dsimp +zetaDelta only
    | with_reducible apply Touches.set_flt

theorem loseLink_touches {m : List Part} {s0 s : State} (o : OptId) (hm : [.regs, .links, .units, .rx, .tx, .cmbs, .gws, .tel] ⊆ m) (h : Touches m s0 s) :
    Touches m s0 (loseLink s o) := by
  unfold loseLink
  repeat' first
    | with_reducible assumption
    | (with_reducible refine List.Subset.trans ?_ hm); decide
    | with_reducible apply cntUp_touches
    | with_reducible apply updOpt_touches
    | with_reducible apply takeAll_touches
    | with_reducible apply flushHeld_touches
    | with_reducible apply Touches.foldl
    | with_reducible apply Touches.ite
    | split
    | extract_lets
    | intro _
    | dsimp +zetaDelta only

theorem optEval_touches {m : List Part} {s0 s : State} (o : OptId) (hm : [.regs, .links, .units, .rx, .tx, .cmbs, .gws, .flt, .tel] ⊆ m) (h : Touches m s0 s) :
    Touches m s0 (optEval s o) := by
  unfold optEval
  repeat' first
    | with_reducible assumption
    | (with_reducible refine List.Subset.trans ?_ hm); decide
    | with_reducible apply updOpt_touches
    | with_reducible apply clearLost_touches
    | with_reducible apply loseLink_touches
    | with_reducible apply Touches.ite
    | split
    | extract_lets
    | intro _
    | dsimp +zetaDelta only

theorem optStateLost_touches {m : List Part} {s0 s : State} (o : OptId) (hm : [.regs, .links, .units, .rx, .tx, .cmbs, .gws, .tel] ⊆ m) (h : Touches m s0 s) :
    Touches m s0 (optStateLost s o) := by
  unfold optStateLost
  repeat' first
    | with_reducible assumption
    | (with_reducible refine List.Subset.trans ?_ hm); decide
    | with_reducible apply loseLink_touches
    | with_reducible apply Touches.ite
    | split
    | extract_lets
    | intro _
    | dsimp +zetaDelta only

theorem startLaneTest_touches {m : List Part} {s0 s : State} (o : OptId) (anyLock : Bool) (hm : [.regs, .links, .units, .rx, .tx, .cmbs, .gws, .tel] ⊆ m) (h : Touches m s0 s) :
    Touches m s0 (startLaneTest s o anyLock) := by
  unfold startLaneTest
  repeat' first
    | with_reducible assumption
    | (with_reducible refine List.Subset.trans ?_ hm); decide
    | with_reducible apply updOpt_touches
    | with_reducible apply spoil_touches
    | with_reducible apply updLink_touches
    | with_reducible apply loseLink_touches
    | with_reducible apply Touches.ite
    | split
    | extract_lets
    | intro _
    | dsimp +zetaDelta only

theorem laneDone_touches {m : List Part} {s0 s : State} (o : OptId) (hm : [.regs, .links, .gws] ⊆ m) (h : Touches m s0 s) :
    Touches m s0 (laneDone s o) := by
  unfold laneDone
  repeat' first
    | with_reducible assumption
    | (with_reducible refine List.Subset.trans ?_ hm); decide
    | with_reducible apply optErr_touches
    | with_reducible apply updOpt_touches
    | with_reducible apply beginTrain_touches
    | with_reducible apply Touches.ite
    | split
    | extract_lets
    | intro _
    | dsimp +zetaDelta only

theorem laneTake_touches {m : List Part} {s0 s : State} (o : OptId) (lane : Nat) (msg : BitVec 5140) (hm : [.regs, .links, .gws] ⊆ m) (h : Touches m s0 s) :
    Touches m s0 (laneTake s o lane msg) := by
  unfold laneTake
  repeat' first
    | with_reducible assumption
    | (with_reducible refine List.Subset.trans ?_ hm); decide
    | with_reducible apply laneDone_touches
    | with_reducible apply updOpt_touches
    | with_reducible apply Touches.ite
    | split
    | extract_lets
    | intro _
    | dsimp +zetaDelta only

theorem takeWaiting_touches {m : List Part} {s0 s : State} (o : OptId) (hm : [.regs, .links, .units, .rx, .tx, .cmbs, .gws, .tel] ⊆ m) (h : Touches m s0 s) :
    Touches m s0 (takeWaiting s o) := by
  unfold takeWaiting
  repeat' first
    | with_reducible assumption
    | (with_reducible refine List.Subset.trans ?_ hm); decide
    | with_reducible apply optFlush_touches
    | with_reducible apply takeAll_touches
    | with_reducible apply Touches.foldl
    | with_reducible apply Touches.ite
    | split
    | extract_lets
    | intro _
    | dsimp +zetaDelta only

theorem optEnterUp_touches {m : List Part} {s0 s : State} (o : OptId) (hm : [.regs, .links, .routers, .units, .rx, .tx, .cmbs, .gws, .flt, .tel] ⊆ m) (h : Touches m s0 s) :
    Touches m s0 (optEnterUp s o) := by
  unfold optEnterUp
  repeat' first
    | with_reducible assumption
    | (with_reducible refine List.Subset.trans ?_ hm); decide
    | with_reducible apply loseLink_touches
    | with_reducible apply enterUp_touches
    | with_reducible apply updOpt_touches
    | with_reducible apply takeWaiting_touches
    | with_reducible apply optEval_touches
    | with_reducible apply Touches.ite
    | split
    | extract_lets
    | intro _
    | dsimp +zetaDelta only

theorem optTrainTake_touches {m : List Part} {s0 s : State} (o : OptId) (p : Payload) (hm : [.regs, .links, .routers, .units, .rx, .tx, .cmbs, .gws, .flt, .tel] ⊆ m) (h : Touches m s0 s) :
    Touches m s0 (optTrainTake s o p) := by
  unfold optTrainTake
  repeat' first
    | with_reducible assumption
    | (with_reducible refine List.Subset.trans ?_ hm); decide
    | with_reducible apply wr_touches
    | with_reducible apply updLink_touches
    | with_reducible apply updOpt_touches
    | with_reducible apply optEval_touches
    | with_reducible apply optEnterUp_touches
    | with_reducible apply Touches.ite
    | split
    | extract_lets
    | intro _
    | dsimp +zetaDelta only

theorem markIn_touches {m : List Part} {s0 s : State} (o : OptId) (v : Nat) (h_ : Payload) (hm : [.units, .gws] ⊆ m) (h : Touches m s0 s) :
    Touches m s0 (markIn s o v h_) := by
  unfold markIn
  repeat' first
    | with_reducible assumption
    | (with_reducible refine List.Subset.trans ?_ hm); decide
    | with_reducible apply updUnit_touches
    | with_reducible apply updOpt_touches
    | with_reducible apply Touches.ite
    | split
    | extract_lets
    | intro _
    | dsimp +zetaDelta only

theorem ingressTake_touches {m : List Part} {s0 s : State} (o : OptId) (v : Nat) (ty : Nat) (p : Payload) (hm : [.regs, .links, .units, .gws, .tel] ⊆ m) (h : Touches m s0 s) :
    Touches m s0 (ingressTake s o v ty p) := by
  unfold ingressTake
  repeat' first
    | with_reducible assumption
    | (with_reducible refine List.Subset.trans ?_ hm); decide
    | with_reducible apply optErr_touches
    | with_reducible apply oweCredit_touches
    | with_reducible apply updOpt_touches
    | with_reducible apply telGw_touches
    | with_reducible apply markIn_touches
    | with_reducible apply Touches.ite
    | split
    | extract_lets
    | intro _
    | dsimp +zetaDelta only

theorem weltFromLink_touches {m : List Part} {s0 s : State} (o : OptId) (slot : Nat) (f : WFlit) (hm : [.regs, .gws] ⊆ m) (h : Touches m s0 s) :
    Touches m s0 (weltFromLink s o slot f) := by
  unfold weltFromLink
  repeat' first
    | with_reducible assumption
    | (with_reducible refine List.Subset.trans ?_ hm); decide
    | with_reducible apply optErr_touches
    | with_reducible apply setBits_touches
    | with_reducible apply cntUp_touches
    | with_reducible apply updOpt_touches
    | with_reducible apply Touches.ite
    | split
    | extract_lets
    | intro _
    | dsimp +zetaDelta only

theorem rxError_touches {m : List Part} {s0 s : State} (e : EndRef) (hm : [.regs, .links, .gws] ⊆ m) (h : Touches m s0 s) :
    Touches m s0 (rxError s e) := by
  unfold rxError
  repeat' first
    | with_reducible assumption
    | (with_reducible refine List.Subset.trans ?_ hm); decide
    | with_reducible apply spoil_touches
    | with_reducible apply updLink_touches
    | with_reducible apply Touches.ite
    | split
    | extract_lets
    | intro _
    | dsimp +zetaDelta only

theorem rxAccept_touches {m : List Part} {s0 s : State} (e : EndRef) (k : Ctl) (hm : [.regs, .links, .units, .gws] ⊆ m) (h : Touches m s0 s) :
    Touches m s0 (rxAccept s e k) := by
  unfold rxAccept
  repeat' first
    | with_reducible assumption
    | (with_reducible refine List.Subset.trans ?_ hm); decide
    | with_reducible apply spoil_touches
    | with_reducible apply updLink_touches
    | with_reducible apply addCredit_touches
    | with_reducible apply Touches.ite
    | split
    | extract_lets
    | intro _
    | dsimp +zetaDelta only

theorem optFlit_touches {m : List Part} {s0 s : State} (o : OptId) (num : Nat) (pos : Nat) (f : BitVec 568) (hm : [.regs, .links, .routers, .units, .rx, .tx, .cmbs, .gws, .flt, .tel] ⊆ m) (h : Touches m s0 s) :
    Touches m s0 (optFlit s o num pos f).1 := by
  unfold optFlit
  repeat' first
    | with_reducible assumption
    | (with_reducible refine List.Subset.trans ?_ hm); decide
    | with_reducible apply rxError_touches
    | with_reducible apply beginTrain_touches
    | with_reducible apply updOpt_touches
    | with_reducible apply spoil_touches
    | with_reducible apply optTrainTake_touches
    | with_reducible apply updLink_touches
    | with_reducible apply optErr_touches
    | with_reducible apply rxAccept_touches
    | with_reducible apply weltFromLink_touches
    | with_reducible apply ingressTake_touches
    | with_reducible apply Touches.ite
    | split
    | extract_lets
    | intro _
    | dsimp +zetaDelta only

theorem optFlit_touches_eq {m : List Part} {s0 s s1 : State} {q} (o : OptId) (num : Nat) (pos : Nat) (f : BitVec 568) (he : optFlit s o num pos f = (s1, q)) (hm : [.regs, .links, .routers, .units, .rx, .tx, .cmbs, .gws, .flt, .tel] ⊆ m) (h : Touches m s0 s) :
    Touches m s0 s1 := by
  have k := optFlit_touches o num pos f hm h 
  rwa [he] at k

theorem optTrainFlit_touches {m : List Part} {s0 s : State} (o : OptId) (f : BitVec 568) (hm : [.regs, .links, .routers, .units, .rx, .tx, .cmbs, .gws, .flt, .tel] ⊆ m) (h : Touches m s0 s) :
    Touches m s0 (optTrainFlit s o f) := by
  unfold optTrainFlit
  repeat' first
    | with_reducible assumption
    | (with_reducible refine List.Subset.trans ?_ hm); decide
    | with_reducible apply updLink_touches
    | with_reducible apply optTrainTake_touches
    | with_reducible apply optEnterUp_touches
    | with_reducible apply Touches.ite
    | split
    | extract_lets
    | intro _
    | dsimp +zetaDelta only

theorem optFlits_touches {m : List Part} {s0 s : State} (o : OptId) (msg : BitVec 5140) (num : Nat) (base : Nat) (z : List Nat) (hm : [.regs, .links, .routers, .units, .rx, .tx, .cmbs, .gws, .flt, .tel] ⊆ m) (h : Touches m s0 s) :
    Touches m s0 (optFlits s o msg num base z) := by
  induction z generalizing s num with
  | nil =>
    unfold optFlits
    repeat' first
      | with_reducible assumption
      | (with_reducible refine List.Subset.trans ?_ hm); decide
      | with_reducible apply tabAtStart_touches
      | with_reducible apply optTrainFlit_touches
      | with_reducible apply optFlit_touches
      | (with_reducible apply optFlit_touches_eq); with_reducible assumption
      | with_reducible apply Touches.ite
      | split
      | extract_lets
      | intro _
      | dsimp +zetaDelta only
  | cons f r ih =>
    unfold optFlits
    repeat' first
      | with_reducible apply ih
      | with_reducible assumption
      | (with_reducible refine List.Subset.trans ?_ hm); decide
      | with_reducible apply tabAtStart_touches
      | with_reducible apply optTrainFlit_touches
      | with_reducible apply optFlit_touches
      | (with_reducible apply optFlit_touches_eq); with_reducible assumption
      | with_reducible apply Touches.ite
      | split
      | extract_lets
      | intro _
      | dsimp +zetaDelta only

theorem optMarker_touches {m : List Part} {s0 s : State} (o : OptId) (msg : BitVec 5140) (hm : [.regs, .links, .routers, .units, .rx, .tx, .cmbs, .gws, .flt, .tel] ⊆ m) (h : Touches m s0 s) :
    Touches m s0 (optMarker s o msg) := by
  unfold optMarker
  repeat' first
    | with_reducible assumption
    | (with_reducible refine List.Subset.trans ?_ hm); decide
    | with_reducible apply ackN_touches
    | with_reducible apply clearLost_touches
    | with_reducible apply optStateLost_touches
    | with_reducible apply startReplay_touches
    | with_reducible apply spoil_touches
    | with_reducible apply Touches.ite
    | split
    | extract_lets
    | intro _
    | dsimp +zetaDelta only

theorem framedTake_touches {m : List Part} {s0 s : State} (o : OptId) (msg : BitVec 5140) (hm : [.regs, .links, .routers, .units, .rx, .tx, .cmbs, .gws, .flt, .tel] ⊆ m) (h : Touches m s0 s) :
    Touches m s0 (framedTake s o msg) := by
  unfold framedTake
  repeat' first
    | with_reducible assumption
    | (with_reducible refine List.Subset.trans ?_ hm); decide
    | with_reducible apply optMarker_touches
    | with_reducible apply updOpt_touches
    | with_reducible apply optFlits_touches
    | with_reducible apply Touches.ite
    | split
    | extract_lets
    | intro _
    | dsimp +zetaDelta only

theorem ueTake_touches {m : List Part} {s0 s : State} (o : OptId) (lane : Nat) (hm : [.regs, .links, .gws, .tel] ⊆ m) (h : Touches m s0 s) :
    Touches m s0 (ueTake s o lane) := by
  unfold ueTake
  repeat' first
    | with_reducible assumption
    | (with_reducible refine List.Subset.trans ?_ hm); decide
    | with_reducible apply telGw_touches
    | with_reducible apply optErr_touches
    | with_reducible apply cntUp_touches
    | with_reducible apply spoil_touches
    | with_reducible apply updOpt_touches
    | with_reducible apply rxError_touches
    | with_reducible apply updLink_touches
    | with_reducible apply Touches.ite
    | split
    | extract_lets
    | intro _
    | dsimp +zetaDelta only

theorem optWelt_touches {m : List Part} {s0 s : State} (o : OptId) (slot : Nat) (hm : [.gws] ⊆ m) (h : Touches m s0 s) :
    TouchesOpt m s0 (fun x => x.2.2) (optWelt s o slot) := by
  unfold optWelt
  repeat' first
    | with_reducible apply touchesOpt_map
    | with_reducible apply touchesOpt_none
    | with_reducible apply touchesOpt_some
    | with_reducible assumption
    | (with_reducible refine List.Subset.trans ?_ hm); decide
    | with_reducible apply updOpt_touches
    | with_reducible apply Touches.ite
    | split
    | extract_lets
    | intro _
    | dsimp +zetaDelta only

theorem optWelt_touches_eq {m : List Part} {s0 s s1 : State} {q q1} (o : OptId) (slot : Nat) (he : optWelt s o slot = some (q, q1, s1)) (hm : [.gws] ⊆ m) (h : Touches m s0 s) :
    Touches m s0 s1 :=
  optWelt_touches o slot hm h  _ he

theorem optStart_touches {m : List Part} {s0 s : State} (o : OptId) (k : Nat) (hm : [.gws] ⊆ m) (h : Touches m s0 s) :
    Touches m s0 (optStart s o k) := by
  unfold optStart
  repeat' first
    | with_reducible assumption
    | (with_reducible refine List.Subset.trans ?_ hm); decide
    | with_reducible apply updOpt_touches
    | with_reducible apply Touches.ite
    | split
    | extract_lets
    | intro _
    | dsimp +zetaDelta only

theorem cwAppend_touches {m : List Part} {s0 s : State} (o : OptId) (num : Nat) (w : BitVec 568) (hm : [.regs, .links, .gws] ⊆ m) (h : Touches m s0 s) :
    Touches m s0 (cwAppend s o num w) := by
  unfold cwAppend
  repeat' first
    | with_reducible assumption
    | (with_reducible refine List.Subset.trans ?_ hm); decide
    | with_reducible apply updOpt_touches
    | with_reducible apply updLink_touches
    | with_reducible apply spoil_touches
    | with_reducible apply Touches.foldl
    | with_reducible apply Touches.ite
    | split
    | extract_lets
    | intro _
    | dsimp +zetaDelta only

theorem optEmit_touches {m : List Part} {s0 s : State} (o : OptId) (x : Send) (hm : [.regs, .links, .gws] ⊆ m) (h : Touches m s0 s) :
    Touches m s0 (optEmit s o x) := by
  unfold optEmit
  repeat' first
    | with_reducible assumption
    | (with_reducible refine List.Subset.trans ?_ hm); decide
    | with_reducible apply cwAppend_touches
    | with_reducible apply setLink_touches
    | with_reducible apply Touches.ite
    | split
    | extract_lets
    | intro _
    | dsimp +zetaDelta only

theorem optResend_touches {m : List Part} {s0 s : State} (o : OptId) (r : Rep) (hm : [.regs, .links, .gws, .flt, .tel] ⊆ m) (h : Touches m s0 s) :
    Touches m s0 (optResend s o r) := by
  unfold optResend
  repeat' first
    | with_reducible assumption
    | (with_reducible refine List.Subset.trans ?_ hm); decide
    | with_reducible apply setLink_touches
    | with_reducible apply clearLost_touches
    | with_reducible apply cwAppend_touches
    | with_reducible apply telGw_touches
    | with_reducible apply Touches.ite
    | split
    | extract_lets
    | intro _
    | dsimp +zetaDelta only

theorem timeSent_touches {m : List Part} {s0 s : State} (o : OptId) (h_ : Payload) (hm : [.gws] ⊆ m) (h : Touches m s0 s) :
    Touches m s0 (timeSent s o h_) := by
  unfold timeSent
  repeat' first
    | with_reducible assumption
    | (with_reducible refine List.Subset.trans ?_ hm); decide
    | with_reducible apply updOpt_touches
    | with_reducible apply Touches.ite
    | split
    | extract_lets
    | intro _
    | dsimp +zetaDelta only

theorem optSendCur_touches {m : List Part} {s0 s : State} (o : OptId) (k : Nat) (z : TxCur) (hm : [.regs, .links, .units, .gws, .tel] ⊆ m) (h : Touches m s0 s) :
    Touches m s0 (optSendCur s o k z) := by
  unfold optSendCur
  repeat' first
    | with_reducible assumption
    | (with_reducible refine List.Subset.trans ?_ hm); decide
    | with_reducible apply updOpt_touches
    | with_reducible apply telGw_touches
    | with_reducible apply useCredit_touches
    | with_reducible apply optEmit_touches
    | with_reducible apply timeSent_touches
    | with_reducible apply Touches.ite
    | split
    | extract_lets
    | intro _
    | dsimp +zetaDelta only

theorem optIdle_touches {m : List Part} {s0 s : State} (o : OptId) (hm : [.regs, .links, .gws] ⊆ m) (h : Touches m s0 s) :
    Touches m s0 (optIdle s o) := by
  unfold optIdle
  repeat' first
    | with_reducible assumption
    | (with_reducible refine List.Subset.trans ?_ hm); decide
    | with_reducible apply cwAppend_touches
    | with_reducible apply Touches.ite
    | split
    | extract_lets
    | intro _
    | dsimp +zetaDelta only

theorem optSendNew_touches {m : List Part} {s0 s : State} (o : OptId) (hm : [.regs, .links, .units, .gws, .tel] ⊆ m) (h : Touches m s0 s) :
    Touches m s0 (optSendNew s o) := by
  have hs1 : Touches m s0 ((List.range 4).foldl (fun t k => optStart t o k) s) :=
    Touches.foldl _ (fun t k ht => optStart_touches o k (List.Subset.trans (by decide) hm) ht) h
  unfold optSendNew
  generalize (List.range 4).foldl (fun t k => optStart t o k) s = s1 at hs1 ⊢
  repeat' first
    | with_reducible assumption
    | (with_reducible refine List.Subset.trans ?_ hm); decide
    | with_reducible apply optIdle_touches
    | with_reducible apply optEmit_touches
    | with_reducible apply optSendCur_touches
    | with_reducible apply updOpt_touches
    | with_reducible apply Touches.ite
    | split
    | extract_lets
    | intro _
    | dsimp +zetaDelta only

theorem optSendSlot_touches {m : List Part} {s0 s : State} (o : OptId) (slot : Nat) (hm : [.regs, .links, .units, .gws, .tel] ⊆ m) (h : Touches m s0 s) :
    Touches m s0 (optSendSlot s o slot) := by
  unfold optSendSlot
  repeat' first
    | with_reducible assumption
    | (with_reducible refine List.Subset.trans ?_ hm); decide
    | with_reducible apply optEmit_touches
    | with_reducible apply optSendNew_touches
    | (with_reducible apply optWelt_touches_eq); with_reducible assumption
    | with_reducible apply Touches.ite
    | split
    | extract_lets
    | intro _
    | dsimp +zetaDelta only

theorem optReplay_touches {m : List Part} {s0 s : State} (o : OptId) (r : Rep) (owner : Option Nat) (hm : [.regs, .links, .gws, .flt, .tel] ⊆ m) (h : Touches m s0 s) :
    Touches m s0 (optReplay s o r owner) := by
  unfold optReplay
  repeat' first
    | with_reducible assumption
    | (with_reducible refine List.Subset.trans ?_ hm); decide
    | with_reducible apply optResend_touches
    | with_reducible apply optIdle_touches
    | with_reducible apply Touches.ite
    | split
    | extract_lets
    | intro _
    | dsimp +zetaDelta only

set_option maxHeartbeats 800000 in
theorem optSendUp_touches {m : List Part} {s0 s : State} (o : OptId) (hm : [.regs, .links, .units, .gws, .flt, .tel] ⊆ m) (h : Touches m s0 s) :
    Touches m s0 (optSendUp s o) := by
  unfold optSendUp
  repeat' first
    | with_reducible assumption
    | (with_reducible refine List.Subset.trans ?_ hm); decide
    | with_reducible apply tabAtStart_touches
    | with_reducible apply optIdle_touches
    | with_reducible apply optReplay_touches
    | with_reducible apply optSendSlot_touches
    | with_reducible apply Touches.ite
    | split
    | extract_lets
    | intro _
    | dsimp +zetaDelta only

theorem optSend_touches {m : List Part} {s0 s : State} (o : OptId) (hm : [.regs, .links, .units, .gws, .flt, .tel] ⊆ m) (h : Touches m s0 s) :
    Touches m s0 (optSend s o) := by
  unfold optSend
  repeat' first
    | with_reducible assumption
    | (with_reducible refine List.Subset.trans ?_ hm); decide
    | with_reducible apply laneDone_touches
    | with_reducible apply updOpt_touches
    | with_reducible apply cwAppend_touches
    | with_reducible apply optSendUp_touches
    | with_reducible apply Touches.ite
    | split
    | extract_lets
    | intro _
    | dsimp +zetaDelta only

end Sys2Proof.Machine
end

