-- ==== Sys2Proof/Laws/FrameOptics.lean ====
section
/-! SUPPORT. What each operation of Sys2Proof/Machine/Optics.lean may change: the parts of the state that it touches. -/

namespace Sys2Proof.Machine

theorem corrected_touches {m : List Part} {s0 s : State} (o : OptId) (lane : Nat) (n : Nat) (hm : [.regs, .tel] ⊆ m) (h : Touches m s0 s) :
    Touches m s0 (corrected s o lane n) := by
  unfold corrected
  repeat' first
    | with_reducible assumption
    | (with_reducible refine List.Subset.trans ?_ hm); decide
    | with_reducible apply telGw_touches
    | with_reducible apply cntUp_touches
    | with_reducible apply Touches.ite
    | split
    | extract_lets
    | intro _
    | dsimp +zetaDelta only

theorem codewordReceive_touches {m : List Part} {s0 s : State} (o : OptId) (cw : Codeword) (hm : [.regs, .links, .routers, .units, .rx, .tx, .cmbs, .gws, .flt, .tel] ⊆ m) (h : Touches m s0 s) :
    Touches m s0 (codewordReceive s o cw) := by
  unfold codewordReceive
  repeat' first
    | with_reducible assumption
    | (with_reducible refine List.Subset.trans ?_ hm); decide
    | with_reducible apply ueTake_touches
    | with_reducible apply corrected_touches
    | with_reducible apply laneTake_touches
    | with_reducible apply startLaneTest_touches
    | with_reducible apply updOpt_touches
    | with_reducible apply framedTake_touches
    | with_reducible apply Touches.ite
    | split
    | extract_lets
    | intro _
    | dsimp +zetaDelta only

theorem laneTestStart_touches {m : List Part} {s0 s : State} (o : OptId) (anyLock : Bool) (hm : [.regs, .links, .units, .rx, .tx, .cmbs, .gws, .tel] ⊆ m) (h : Touches m s0 s) :
    Touches m s0 (laneTestStart s o anyLock) := by
  unfold laneTestStart
  repeat' first
    | with_reducible assumption
    | (with_reducible refine List.Subset.trans ?_ hm); decide
    | with_reducible apply startLaneTest_touches
    | with_reducible apply Touches.ite
    | split
    | extract_lets
    | intro _
    | dsimp +zetaDelta only

theorem laneFault_touches {m : List Part} {s0 s : State} (o : OptId) (lane : Nat) (lostLock : Bool) (anyLock : Bool) (hm : [.regs, .links, .units, .rx, .tx, .cmbs, .gws, .tel] ⊆ m) (h : Touches m s0 s) :
    Touches m s0 (laneFault s o lane lostLock anyLock) := by
  unfold laneFault
  repeat' first
    | with_reducible assumption
    | (with_reducible refine List.Subset.trans ?_ hm); decide
    | with_reducible apply startLaneTest_touches
    | with_reducible apply optErr_touches
    | with_reducible apply Touches.ite
    | split
    | extract_lets
    | intro _
    | dsimp +zetaDelta only

theorem optStop_touches {m : List Part} {s0 s : State} (o : OptId) (st : OptSt) (hm : [.regs, .links, .units, .rx, .tx, .cmbs, .gws, .flt, .tel] ⊆ m) (h : Touches m s0 s) :
    Touches m s0 (optStop s o st) := by
  unfold optStop
  repeat' first
    | with_reducible assumption
    | (with_reducible refine List.Subset.trans ?_ hm); decide
    | with_reducible apply wr_touches
    | with_reducible apply updOpt_touches
    | with_reducible apply spoil_touches
    | with_reducible apply updLink_touches
    | with_reducible apply optEval_touches
    | with_reducible apply optStateLost_touches
    | with_reducible apply Touches.ite
    | split
    | extract_lets
    | intro _
    | dsimp +zetaDelta only

theorem optRetrain_touches {m : List Part} {s0 s : State} (o : OptId) (hm : [.regs, .links, .units, .rx, .tx, .cmbs, .gws, .tel] ⊆ m) (h : Touches m s0 s) :
    Touches m s0 (optRetrain s o) := by
  unfold optRetrain
  repeat' first
    | with_reducible assumption
    | (with_reducible refine List.Subset.trans ?_ hm); decide
    | with_reducible apply beginTrain_touches
    | with_reducible apply updOpt_touches
    | with_reducible apply startLaneTest_touches
    | with_reducible apply Touches.ite
    | split
    | extract_lets
    | intro _
    | dsimp +zetaDelta only

theorem discStart_touches {m : List Part} {s0 s : State} (o : OptId) (hm : [.gws] ⊆ m) (h : Touches m s0 s) :
    Touches m s0 (discStart s o) := by
  unfold discStart
  repeat' first
    | with_reducible assumption
    | (with_reducible refine List.Subset.trans ?_ hm); decide
    | with_reducible apply updOpt_touches
    | with_reducible apply Touches.ite
    | split
    | extract_lets
    | intro _
    | dsimp +zetaDelta only

theorem optDisable_touches {m : List Part} {s0 s : State} (o : OptId) (on : Bool) (hm : [.regs, .links, .units, .rx, .tx, .cmbs, .gws, .flt, .tel] ⊆ m) (h : Touches m s0 s) :
    Touches m s0 (optDisable s o on) := by
  unfold optDisable
  repeat' first
    | with_reducible assumption
    | (with_reducible refine List.Subset.trans ?_ hm); decide
    | with_reducible apply optStop_touches
    | with_reducible apply startLaneTest_touches
    | with_reducible apply optEval_touches
    | with_reducible apply discStart_touches
    | with_reducible apply updOpt_touches
    | with_reducible apply Touches.ite
    | split
    | extract_lets
    | intro _
    | dsimp +zetaDelta only

theorem optExpect_touches {m : List Part} {s0 s : State} (o : OptId) (hm : [.gws] ⊆ m) (h : Touches m s0 s) :
    Touches m s0 (optExpect s o) := by
  unfold optExpect
  repeat' first
    | with_reducible assumption
    | (with_reducible refine List.Subset.trans ?_ hm); decide
    | with_reducible apply discStart_touches
    | with_reducible apply updOpt_touches
    | with_reducible apply Touches.ite
    | split
    | extract_lets
    | intro _
    | dsimp +zetaDelta only

theorem evalAll_touches {m : List Part} {s0 s : State}  (hm : [.regs, .links, .units, .rx, .tx, .cmbs, .gws, .flt, .tel] ⊆ m) (h : Touches m s0 s) :
    Touches m s0 (evalAll s) := by
  unfold evalAll
  repeat' first
    | with_reducible assumption
    | (with_reducible refine List.Subset.trans ?_ hm); decide
    | with_reducible apply optEval_touches
    | with_reducible apply Touches.foldl
    | with_reducible apply Touches.ite
    | split
    | extract_lets
    | intro _
    | dsimp +zetaDelta only

theorem ingressRoute_touches {m : List Part} {s0 s : State} (o : OptId) (mk : InMark) (h_ : Payload) (data : List Payload) (hm : [.regs, .units, .tx, .gws, .tel] ⊆ m) (h : Touches m s0 s) :
    TouchesOpt m s0 (fun x => x) (ingressRoute s o mk h_ data) := by
  unfold ingressRoute
  repeat' first
    | with_reducible apply touchesOpt_map
    | with_reducible apply touchesOpt_none
    | with_reducible apply touchesOpt_some
    | with_reducible assumption
    | (with_reducible refine List.Subset.trans ?_ hm); decide
    | with_reducible apply telGw_touches
    | with_reducible apply meterTake_touches
    | with_reducible apply updUnit_touches
    | with_reducible apply countMalformed_touches
    | with_reducible apply setTxEnd_touches
    | with_reducible apply updOpt_touches
    | (with_reducible apply meterTake_touches_eq); with_reducible assumption
    | with_reducible apply Touches.ite
    | split
    | extract_lets
    | intro _
    | dsimp +zetaDelta only

theorem ingressRoute_touches_eq {m : List Part} {s0 s s1 : State} (o : OptId) (mk : InMark) (h_ : Payload) (data : List Payload) (he : ingressRoute s o mk h_ data = some s1) (hm : [.regs, .units, .tx, .gws, .tel] ⊆ m) (h : Touches m s0 s) :
    Touches m s0 s1 :=
  ingressRoute_touches o mk h_ data hm h  _ he

theorem ingressVc_touches {m : List Part} {s0 s : State} (o : OptId) (v : Nat)
    (hm : [.regs, .links, .units, .tx, .gws, .tel] ⊆ m) (h : Touches m s0 s) :
    TouchesOpt m s0 (fun x => x) (ingressVc s o v) := by
  unfold ingressVc
  split
  · exact touchesOpt_none
  · split
    · exact touchesOpt_none
    · intro x hx
      obtain ⟨t, ht, rfl⟩ := Option.map_eq_some_iff.1 hx
      exact Touches.foldl _ (fun a _ ha => oweCredit_touches _ v (List.Subset.trans (by decide) hm) ha)
        (updOpt_touches o _ (List.Subset.trans (by decide) hm)
          (ingressRoute_touches o _ _ _ (List.Subset.trans (by decide) hm) h t ht))

theorem ingressVc_touches_eq {m : List Part} {s0 s s1 : State} (o : OptId) (v : Nat) (he : ingressVc s o v = some s1)
    (hm : [.regs, .links, .units, .tx, .gws, .tel] ⊆ m) (h : Touches m s0 s) : Touches m s0 s1 :=
  ingressVc_touches o v hm h _ he

theorem opticalIngress_touches {m : List Part} {s0 s : State} (o : OptId)
    (hm : [.regs, .links, .units, .tx, .gws, .tel] ⊆ m) (h : Touches m s0 s) : Touches m s0 (opticalIngress s o) := by
  unfold opticalIngress
  refine Touches.ite (fun _ => ?_) (fun _ => h)
  generalize List.range 8 = l
  cases e : l.findSome? (ingressVc s o) with
  | none => exact h
  | some t =>
    obtain ⟨v, -, hv⟩ := List.exists_of_findSome?_eq_some e
    exact ingressVc_touches o v hm h t hv

theorem admissionProbe_touches {m : List Part} {s0 s : State} (o : OptId) (hm : [.gws] ⊆ m) (h : Touches m s0 s) :
    Touches m s0 (admissionProbe s o) := by
  unfold admissionProbe
  repeat' first
    | with_reducible assumption
    | (with_reducible refine List.Subset.trans ?_ hm); decide
    | with_reducible apply updOpt_touches
    | with_reducible apply Touches.ite
    | split
    | extract_lets
    | intro _
    | dsimp +zetaDelta only

theorem probeTimeout_touches {m : List Part} {s0 s : State} (o : OptId) (hm : [.regs, .links, .units, .rx, .tx, .cmbs, .gws, .flt, .tel] ⊆ m) (h : Touches m s0 s) :
    Touches m s0 (probeTimeout s o) := by
  unfold probeTimeout
  repeat' first
    | with_reducible assumption
    | (with_reducible refine List.Subset.trans ?_ hm); decide
    | with_reducible apply optEval_touches
    | with_reducible apply updOpt_touches
    | with_reducible apply Touches.ite
    | split
    | extract_lets
    | intro _
    | dsimp +zetaDelta only

theorem discoveryTimeout_touches {m : List Part} {s0 s : State} (o : OptId) (hm : [.regs, .links, .units, .rx, .tx, .cmbs, .gws, .flt, .tel] ⊆ m) (h : Touches m s0 s) :
    Touches m s0 (discoveryTimeout s o) := by
  unfold discoveryTimeout
  repeat' first
    | with_reducible assumption
    | (with_reducible refine List.Subset.trans ?_ hm); decide
    | with_reducible apply optEval_touches
    | with_reducible apply updOpt_touches
    | with_reducible apply Touches.ite
    | split
    | extract_lets
    | intro _
    | dsimp +zetaDelta only

theorem holdTimeout_touches {m : List Part} {s0 s : State} (o : OptId) (hm : [.regs, .links, .units, .rx, .tx, .cmbs, .gws, .tel] ⊆ m) (h : Touches m s0 s) :
    Touches m s0 (holdTimeout s o) := by
  unfold holdTimeout
  repeat' first
    | with_reducible assumption
    | (with_reducible refine List.Subset.trans ?_ hm); decide
    | with_reducible apply loseLink_touches
    | with_reducible apply updOpt_touches
    | with_reducible apply Touches.ite
    | split
    | extract_lets
    | intro _
    | dsimp +zetaDelta only

end Sys2Proof.Machine
end

