-- ==== Sys2Proof/Laws/FramePower.lean ====
section
/-! SUPPORT. What each operation of Sys2Proof/Machine/Power.lean may change: the parts of the state that it touches. -/

namespace Sys2Proof.Machine

theorem loseDomain_touches {m : List Part} {s0 s : State} (d : Nat)
    (hm : [.regs, .links, .routers, .units, .rx, .tx, .cmbs, .gws, .tel, .warm] ⊆ m) (h : Touches m s0 s) :
    Touches m s0 (loseDomain s d) :=
  h.trans ⟨fun p hp => by cases p <;> first | rfl | exact Nat.le_refl _ | exact absurd (hm (by decide)) hp, id, id⟩

theorem loseService_touches {m : List Part} {s0 s : State} (hm : [.regs, .mer, .flt, .tel, .sec, .bar, .mirror] ⊆ m)
    (h : Touches m s0 s) : Touches m s0 (loseService s) :=
  h.trans ⟨fun p hp => by
    cases p <;> first | rfl | exact Nat.zero_le _ | exact absurd (hm (by decide)) hp, id, fun _ => ⟨Nat.zero_le _, Nat.zero_le _⟩⟩

theorem mclkStop_touches {m : List Part} {s0 s : State} (d : Nat) (hm : [.clks] ⊆ m) (h : Touches m s0 s) :
    Touches m s0 (mclkStop s d) := by
  unfold mclkStop
  repeat' first
    | with_reducible assumption
    | (with_reducible refine List.Subset.trans ?_ hm); decide
    | with_reducible apply setClk_touches
    | with_reducible apply Touches.ite
    | split
    | extract_lets
    | intro _
    | dsimp +zetaDelta only

theorem powerOffTo_touches {m : List Part} {s0 s : State} (d : Nat) (st : PwrSt) (hm : [.regs, .links, .routers, .units, .rx, .tx, .cmbs, .gws, .doms, .clks, .mer, .flt, .tel, .sec, .bar, .warm, .mirror] ⊆ m) (h : Touches m s0 s) :
    Touches m s0 (powerOffTo s d st) := by
  unfold powerOffTo
  repeat' first
    | with_reducible assumption
    | (with_reducible refine List.Subset.trans ?_ hm); decide
    | with_reducible apply loseService_touches
    | with_reducible apply loseDomain_touches
    | with_reducible apply mclkStop_touches
    | with_reducible apply updDom_touches
    | with_reducible apply Touches.ite
    | split
    | extract_lets
    | intro _
    | dsimp +zetaDelta only

theorem goIgnored_touches {m : List Part} {s0 s : State} (d : Nat) (hm : [.regs] ⊆ m) (h : Touches m s0 s) :
    Touches m s0 (goIgnored s d) := by
  unfold goIgnored
  repeat' first
    | with_reducible assumption
    | (with_reducible refine List.Subset.trans ?_ hm); decide
    | with_reducible apply setBits_touches
    | with_reducible apply Touches.ite
    | split
    | extract_lets
    | intro _
    | dsimp +zetaDelta only

theorem drainStart_touches {m : List Part} {s0 s : State} (d : Nat) (t : PwrSt) (hm : [.doms] ⊆ m) (h : Touches m s0 s) :
    Touches m s0 (drainStart s d t) := by
  unfold drainStart
  repeat' first
    | with_reducible assumption
    | (with_reducible refine List.Subset.trans ?_ hm); decide
    | with_reducible apply updDom_touches
    | with_reducible apply Touches.ite
    | split
    | extract_lets
    | intro _
    | dsimp +zetaDelta only

theorem powerDown_touches {m : List Part} {s0 s : State} (d : Nat) (t : PwrSt) (hm : [.regs, .doms] ⊆ m) (h : Touches m s0 s) :
    Touches m s0 (powerDown s d t) := by
  unfold powerDown
  repeat' first
    | with_reducible assumption
    | (with_reducible refine List.Subset.trans ?_ hm); decide
    | with_reducible apply drainStart_touches
    | with_reducible apply setBits_touches
    | with_reducible apply updDom_touches
    | with_reducible apply Touches.ite
    | split
    | extract_lets
    | intro _
    | dsimp +zetaDelta only

theorem copyGap_touches {m : List Part} {s0 s : State} (d : Nat) (hm : [.doms] ⊆ m) (h : Touches m s0 s) :
    Touches m s0 (copyGap s d) := by
  unfold copyGap
  repeat' first
    | with_reducible assumption
    | (with_reducible refine List.Subset.trans ?_ hm); decide
    | with_reducible apply updDom_touches
    | with_reducible apply Touches.ite
    | split
    | extract_lets
    | intro _
    | dsimp +zetaDelta only

theorem meterRest_touches {m : List Part} {s0 s : State} (d : Nat) (hm : [.gws] ⊆ m) (h : Touches m s0 s) :
    Touches m s0 (meterRest s d) := by
  unfold meterRest
  repeat' first
    | with_reducible assumption
    | (with_reducible refine List.Subset.trans ?_ hm); decide
    | with_reducible apply Touches.ite
    | split
    | extract_lets
    | intro _
    | dsimp +zetaDelta only
    | with_reducible apply Touches.set_gws

theorem enterLow_touches {m : List Part} {s0 s : State} (d : Nat) (t : PwrSt) (hm : [.gws, .doms, .clks, .sec] ⊆ m) (h : Touches m s0 s) :
    Touches m s0 (enterLow s d t) := by
  unfold enterLow
  repeat' first
    | with_reducible assumption
    | (with_reducible refine List.Subset.trans ?_ hm); decide
    | rfl
    | with_reducible apply updDom_touches
    | with_reducible apply copyGap_touches
    | with_reducible apply copyStop_touches
    | with_reducible apply meterRest_touches
    | with_reducible apply mclkStop_touches
    | with_reducible apply Touches.ite
    | split
    | extract_lets
    | intro _
    | dsimp +zetaDelta only
    | with_reducible apply Touches.set_sec

theorem trainPorts_touches {m : List Part} {s0 s : State} (d : Nat) (hm : [.links] ⊆ m) (h : Touches m s0 s) :
    Touches m s0 (trainPorts s d) := by
  unfold trainPorts
  repeat' first
    | with_reducible assumption
    | (with_reducible refine List.Subset.trans ?_ hm); decide
    | with_reducible apply beginTrain_touches
    | with_reducible apply updLink_touches
    | with_reducible apply Touches.foldl
    | with_reducible apply Touches.ite
    | split
    | extract_lets
    | intro _
    | dsimp +zetaDelta only

theorem snapTake_touches {m : List Part} {s0 s : State} (d : Nat) (skew : Bool) (deferred : Bool) (hm : [.doms, .tel] ⊆ m) (h : Touches m s0 s) :
    Touches m s0 (snapTake s d skew deferred) := by
  unfold snapTake
  repeat' first
    | with_reducible assumption
    | (with_reducible refine List.Subset.trans ?_ hm); decide
    | with_reducible apply updDom_touches
    | with_reducible apply Touches.foldl
    | with_reducible apply Touches.ite
    | split
    | extract_lets
    | intro _
    | dsimp +zetaDelta only
    | with_reducible apply Touches.set_tel

theorem snapDeferred_touches {m : List Part} {s0 s : State} (d : Nat) (hm : [.doms, .tel] ⊆ m) (h : Touches m s0 s) :
    Touches m s0 (snapDeferred s d) := by
  unfold snapDeferred
  repeat' first
    | with_reducible assumption
    | (with_reducible refine List.Subset.trans ?_ hm); decide
    | with_reducible apply snapTake_touches
    | with_reducible apply Touches.ite
    | split
    | extract_lets
    | intro _
    | dsimp +zetaDelta only

theorem wakeStart_touches {m : List Part} {s0 s : State} (d : Nat) (src : Nat) (hm : [.regs, .links, .doms, .tel] ⊆ m) (h : Touches m s0 s) :
    Touches m s0 (wakeStart s d src) := by
  unfold wakeStart
  repeat' first
    | with_reducible assumption
    | (with_reducible refine List.Subset.trans ?_ hm); decide
    | with_reducible apply snapDeferred_touches
    | with_reducible apply setDom_touches
    | with_reducible apply trainPorts_touches
    | with_reducible apply cntUp_touches
    | with_reducible apply Touches.ite
    | split
    | extract_lets
    | intro _
    | dsimp +zetaDelta only

theorem wakeDom_touches {m : List Part} {s0 s : State} (d : Nat) (src : Nat) (hm : [.regs, .links, .doms, .tel] ⊆ m) (h : Touches m s0 s) :
    Touches m s0 (wakeDom s d src) := by
  unfold wakeDom
  repeat' first
    | with_reducible assumption
    | (with_reducible refine List.Subset.trans ?_ hm); decide
    | with_reducible apply wakeStart_touches
    | with_reducible apply setDom_touches
    | with_reducible apply Touches.ite
    | split
    | extract_lets
    | intro _
    | dsimp +zetaDelta only

theorem drainEnd_touches {m : List Part} {s0 s : State} (d : Nat) (reason : Nat) (hm : [.doms] ⊆ m) (h : Touches m s0 s) :
    Touches m s0 (drainEnd s d reason) := by
  unfold drainEnd
  repeat' first
    | with_reducible assumption
    | (with_reducible refine List.Subset.trans ?_ hm); decide
    | with_reducible apply updDom_touches
    | with_reducible apply Touches.ite
    | split
    | extract_lets
    | intro _
    | dsimp +zetaDelta only

theorem forceOff_touches {m : List Part} {s0 s : State} (d : Nat) (hm : [.regs, .links, .routers, .units, .rx, .tx, .cmbs, .gws, .doms, .clks, .mer, .flt, .tel, .sec, .bar, .warm, .mirror] ⊆ m) (h : Touches m s0 s) :
    Touches m s0 (forceOff s d) := by
  unfold forceOff
  repeat' first
    | with_reducible assumption
    | (with_reducible refine List.Subset.trans ?_ hm); decide
    | with_reducible apply powerOffTo_touches
    | with_reducible apply Touches.ite
    | split
    | extract_lets
    | intro _
    | dsimp +zetaDelta only

theorem powerGo_touches {m : List Part} {s0 s : State} (d : Nat) (t : PwrSt) (force : Bool) (hm : [.regs, .links, .routers, .units, .rx, .tx, .cmbs, .gws, .doms, .clks, .mer, .flt, .tel, .sec, .bar, .warm, .mirror] ⊆ m) (h : Touches m s0 s) :
    Touches m s0 (powerGo s d t force) := by
  unfold powerGo
  repeat' first
    | with_reducible assumption
    | (with_reducible refine List.Subset.trans ?_ hm); decide
    | with_reducible apply goIgnored_touches
    | with_reducible apply forceOff_touches
    | with_reducible apply powerDown_touches
    | with_reducible apply wakeStart_touches
    | with_reducible apply enterLow_touches
    | with_reducible apply updDom_touches
    | with_reducible apply drainEnd_touches
    | with_reducible apply Touches.ite
    | split
    | extract_lets
    | intro _
    | dsimp +zetaDelta only

theorem quiesceEnd_touches {m : List Part} {s0 s : State} (d : Nat) (hm : [.doms] ⊆ m) (h : Touches m s0 s) :
    Touches m s0 (quiesceEnd s d) := by
  unfold quiesceEnd
  repeat' first
    | with_reducible assumption
    | (with_reducible refine List.Subset.trans ?_ hm); decide
    | with_reducible apply setDom_touches
    | with_reducible apply Touches.ite
    | split
    | extract_lets
    | intro _
    | dsimp +zetaDelta only

theorem closeEnd_touches {m : List Part} {s0 s : State} (d : Nat) (hm : [.doms] ⊆ m) (h : Touches m s0 s) :
    Touches m s0 (closeEnd s d) := by
  unfold closeEnd
  repeat' first
    | with_reducible assumption
    | (with_reducible refine List.Subset.trans ?_ hm); decide
    | with_reducible apply setDom_touches
    | with_reducible apply Touches.ite
    | split
    | extract_lets
    | intro _
    | dsimp +zetaDelta only

theorem gateEnd_touches {m : List Part} {s0 s : State} (d : Nat) (hm : [.regs, .links, .routers, .units, .rx, .tx, .cmbs, .gws, .doms, .clks, .mer, .flt, .tel, .sec, .bar, .warm, .mirror] ⊆ m) (h : Touches m s0 s) :
    Touches m s0 (gateEnd s d) := by
  unfold gateEnd
  repeat' first
    | with_reducible assumption
    | (with_reducible refine List.Subset.trans ?_ hm); decide
    | with_reducible apply powerOffTo_touches
    | with_reducible apply cntUp_touches
    | with_reducible apply updDom_touches
    | with_reducible apply enterLow_touches
    | with_reducible apply wakeStart_touches
    | with_reducible apply Touches.ite
    | split
    | extract_lets
    | intro _
    | dsimp +zetaDelta only

theorem drainTimeout_touches {m : List Part} {s0 s : State} (d : Nat) (hm : [.regs, .doms] ⊆ m) (h : Touches m s0 s) :
    Touches m s0 (drainTimeout s d) := by
  unfold drainTimeout
  repeat' first
    | with_reducible assumption
    | (with_reducible refine List.Subset.trans ?_ hm); decide
    | with_reducible apply setBits_touches
    | with_reducible apply drainEnd_touches
    | with_reducible apply Touches.ite
    | split
    | extract_lets
    | intro _
    | dsimp +zetaDelta only

theorem wakePacket_touches {m : List Part} {s0 s : State} (d : Nat) (hm : [.regs, .links, .doms, .tel] ⊆ m) (h : Touches m s0 s) :
    Touches m s0 (wakePacket s d) := by
  unfold wakePacket
  repeat' first
    | with_reducible assumption
    | (with_reducible refine List.Subset.trans ?_ hm); decide
    | with_reducible apply wakeDom_touches
    | with_reducible apply Touches.ite
    | split
    | extract_lets
    | intro _
    | dsimp +zetaDelta only

theorem wakeIn_touches {m : List Part} {s0 s : State} (level : Bool) (hm : [.regs, .links, .doms, .tel, .wakePin] ⊆ m) (h : Touches m s0 s) :
    Touches m s0 (wakeIn s level) := by
  unfold wakeIn
  repeat' first
    | with_reducible assumption
    | (with_reducible refine List.Subset.trans ?_ hm); decide
    | with_reducible apply wakeDom_touches
    | with_reducible apply setBits_touches
    | with_reducible apply cntUp_touches
    | with_reducible apply Touches.ite
    | split
    | extract_lets
    | intro _
    | dsimp +zetaDelta only
    | with_reducible apply Touches.set_wakePin

theorem wakeTimer_touches {m : List Part} {s0 s : State}  (hm : [.regs, .links, .doms, .tel] ⊆ m) (h : Touches m s0 s) :
    Touches m s0 (wakeTimer s) := by
  unfold wakeTimer
  repeat' first
    | with_reducible assumption
    | (with_reducible refine List.Subset.trans ?_ hm); decide
    | with_reducible apply wrF_touches
    | with_reducible apply wakeDom_touches
    | with_reducible apply Touches.ite
    | split
    | extract_lets
    | intro _
    | dsimp +zetaDelta only

theorem replayMirror_touches {m : List Part} {s0 s : State} (d : Nat) (hm : [.regs, .links, .units, .rx, .tx, .cmbs, .gws, .doms, .flt, .tel] ⊆ m) (h : Touches m s0 s) :
    Touches m s0 (replayMirror s d) := by
  unfold replayMirror
  repeat' first
    | with_reducible assumption
    | (with_reducible refine List.Subset.trans ?_ hm); decide
    | with_reducible apply updDom_touches
    | with_reducible apply evalAll_touches
    | with_reducible apply Touches.foldl
    | with_reducible apply Touches.ite
    | split
    | extract_lets
    | intro _
    | dsimp +zetaDelta only

theorem startDisc_touches {m : List Part} {s0 s : State} (d : Nat) (hm : [.gws] ⊆ m) (h : Touches m s0 s) :
    Touches m s0 (startDisc s d) := by
  unfold startDisc
  repeat' first
    | with_reducible assumption
    | (with_reducible refine List.Subset.trans ?_ hm); decide
    | with_reducible apply discStart_touches
    | with_reducible apply Touches.foldl
    | with_reducible apply Touches.ite
    | split
    | extract_lets
    | intro _
    | dsimp +zetaDelta only

theorem loadFofs_touches {m : List Part} {s0 s : State}  (hm : [.regs] ⊆ m) (h : Touches m s0 s) :
    Touches m s0 (loadFofs s) := by
  unfold loadFofs
  repeat' first
    | with_reducible assumption
    | (with_reducible refine List.Subset.trans ?_ hm); decide
    | with_reducible apply wr_touches
    | with_reducible apply Touches.foldl
    | with_reducible apply Touches.ite
    | split
    | extract_lets
    | intro _
    | dsimp +zetaDelta only

theorem resetRun_touches {m : List Part} {s0 s : State} (d : Nat) (hm : [.regs, .links, .units, .rx, .tx, .cmbs, .gws, .doms, .mer, .flt, .tel] ⊆ m) (h : Touches m s0 s) :
    Touches m s0 (resetRun s d) := by
  unfold resetRun
  repeat' first
    | with_reducible assumption
    | (with_reducible refine List.Subset.trans ?_ hm); decide
    | with_reducible apply updDom_touches
    | with_reducible apply loadFofs_touches
    | with_reducible apply replayMirror_touches
    | with_reducible apply startDisc_touches
    | with_reducible apply trainPorts_touches
    | with_reducible apply Touches.ite
    | split
    | extract_lets
    | intro _
    | dsimp +zetaDelta only
    | with_reducible apply Touches.set_mer

end Sys2Proof.Machine
end

