-- ==== Sys2Proof/Laws/FrameRegisters.lean ====
section
/-! SUPPORT. What each operation of Sys2Proof/Machine/Registers.lean may change: the parts of the state that it touches. -/

namespace Sys2Proof.Machine

theorem mbxReceive_touches {m : List Part} {s0 s : State} (g : GwId) (m_ : Nat) (hm : [.gws] ⊆ m) (h : Touches m s0 s) :
    Touches m s0 (mbxReceive s g m_) := by
  unfold mbxReceive
  repeat' first
    | with_reducible assumption
    | (with_reducible refine List.Subset.trans ?_ hm); decide
    | with_reducible apply updGw_touches
    | with_reducible apply Touches.ite
    | split
    | extract_lets
    | intro _
    | dsimp +zetaDelta only

theorem readEffect_touches {m : List Part} {s0 s : State} (k : Nat) (hm : [.regs, .gws, .flt] ⊆ m) (h : Touches m s0 s) :
    Touches m s0 (readEffect s k) := by
  unfold readEffect
  repeat' first
    | with_reducible assumption
    | (with_reducible refine List.Subset.trans ?_ hm); decide
    | with_reducible apply wr_touches
    | with_reducible apply timeStatRead_touches
    | with_reducible apply mbxReceive_touches
    | with_reducible apply Touches.ite
    | split
    | extract_lets
    | intro _
    | dsimp +zetaDelta only
    | with_reducible apply Touches.set_flt

theorem lastTableRead_touches {m : List Part} {s0 s : State} (k : Nat) (hm : [.regs, .units] ⊆ m) (h : Touches m s0 s) :
    Touches m s0 (lastTableRead s k) := by
  unfold lastTableRead
  repeat' first
    | with_reducible assumption
    | (with_reducible refine List.Subset.trans ?_ hm); decide
    | with_reducible apply lastEcc_touches
    | with_reducible apply Touches.ite
    | split
    | extract_lets
    | intro _
    | dsimp +zetaDelta only

theorem regRead_touches {m : List Part} {s0 s : State} (observe : Bool) (k : Nat) (hm : [.regs, .units, .gws, .flt] ⊆ m) (h : Touches m s0 s) :
    Touches m s0 (regRead s observe k).2 := by
  unfold regRead
  repeat' first
    | with_reducible assumption
    | (with_reducible refine List.Subset.trans ?_ hm); decide
    | with_reducible apply lastTableRead_touches
    | with_reducible apply readEffect_touches
    | with_reducible apply Touches.ite
    | split
    | extract_lets
    | intro _
    | dsimp +zetaDelta only

theorem regRead_touches_eq {m : List Part} {s0 s s1 : State} {q} (observe : Bool) (k : Nat) (he : regRead s observe k = (q, s1)) (hm : [.regs, .units, .gws, .flt] ⊆ m) (h : Touches m s0 s) :
    Touches m s0 s1 := by
  have k := regRead_touches observe k hm h 
  rwa [he] at k

end Sys2Proof.Machine
end

