-- ==== Sys2Proof/Laws/FrameSecurity.lean ====
section
/-! SUPPORT. What each operation of Sys2Proof/Machine/Security.lean may change: the parts of the state that it touches. -/

namespace Sys2Proof.Machine

theorem secErr_touches {m : List Part} {s0 s : State} (mask : Nat) (hm : [.regs] ⊆ m) (h : Touches m s0 s) :
    Touches m s0 (secErr s mask) := by
  unfold secErr
  repeat' first
    | with_reducible assumption
    | (with_reducible refine List.Subset.trans ?_ hm); decide
    | with_reducible apply setBits_touches
    | with_reducible apply Touches.ite
    | split
    | extract_lets
    | intro _
    | dsimp +zetaDelta only

theorem updSec_touches {m : List Part} {s0 s : State} (f : Sec → Sec) (hm : [.sec] ⊆ m) (hl : (f s.sec).level = s.sec.level)
    (hp : (f s.sec).pend = s.sec.pend) (h : Touches m s0 s) : Touches m s0 (updSec s f) :=
  h.set_sec _ hm hl hp

/-- A REQUEST whose checks pass asks for a level that the lifecycle state allows. -/
theorem requestFlag_le {s : State} {p : Path} {level mode : Nat} {healthy : Bool}
    (h : requestFlag s p level mode healthy = 0) : level ≤ topLevel s := by
  unfold requestFlag at h
  split at h
  · exact absurd h (by decide)
  · rename_i g
    simp only [Bool.or_eq_true, decide_eq_true_eq, not_or, Nat.not_lt] at g
    exact g.2

theorem secRequest_touches {m : List Part} {s0 s : State} (p : Path) (healthy : Bool) (hm : [.regs, .sec, .freeCtr] ⊆ m)
    (h : Touches m s0 s) : Touches m s0 (secRequest s p healthy) := by
  unfold secRequest
  refine Touches.ite (fun g => ?_) (fun _ => secErr_touches _ (List.Subset.trans (by decide) hm) h)
  exact draw_touches (List.Subset.trans (by decide) hm)
    (h.set_sec_level _ (List.Subset.trans (by decide) hm) (Or.inl (Nat.le_refl _)) (fun k => ⟨k.1, requestFlag_le g⟩))

theorem challengeReady_touches {m : List Part} {s0 s : State}  (hm : [.sec] ⊆ m) (h : Touches m s0 s) :
    Touches m s0 (challengeReady s) := by
  unfold challengeReady
  repeat' first
    | with_reducible assumption
    | (with_reducible refine List.Subset.trans ?_ hm); decide
    | rfl
    | with_reducible apply updSec_touches
    | with_reducible apply Touches.ite
    | split
    | extract_lets
    | intro _
    | dsimp +zetaDelta only

theorem secVerify_touches {m : List Part} {s0 s : State} (p : Path) (hm : [.regs, .sec] ⊆ m) (h : Touches m s0 s) :
    Touches m s0 (secVerify s p) := by
  unfold secVerify
  repeat' first
    | with_reducible assumption
    | (with_reducible refine List.Subset.trans ?_ hm); decide
    | rfl
    | with_reducible apply secErr_touches
    | with_reducible apply updSec_touches
    | with_reducible apply Touches.ite
    | split
    | extract_lets
    | intro _
    | dsimp +zetaDelta only

theorem levelRaised_touches {m : List Part} {s0 s : State}  (hm : [.doms] ⊆ m) (h : Touches m s0 s) :
    Touches m s0 (levelRaised s) := by
  unfold levelRaised
  repeat' first
    | with_reducible assumption
    | (with_reducible refine List.Subset.trans ?_ hm); decide
    | with_reducible apply drainEnd_touches
    | with_reducible apply Touches.ite
    | split
    | extract_lets
    | intro _
    | dsimp +zetaDelta only

theorem verifyDone_touches {m : List Part} {s0 s : State} (hm : [.regs, .doms, .sec, .levelRise] ⊆ m) (h : Touches m s0 s) :
    Touches m s0 (verifyDone s) := by
  unfold verifyDone
  refine Touches.ite (fun _ => ?_) (fun _ => h)
  have h1 : Touches m s0 (updSec s (fun x => { x with busy := .idle, chal := false, nonce := 0, resp := [] })) :=
    updSec_touches _ (List.Subset.trans (by decide) hm) rfl rfl h
  have h2 : Touches m s0 (updSec (updSec s (fun x => { x with busy := .idle, chal := false, nonce := 0, resp := [] }))
      (fun x => { x with level := x.pend, fails := 0 })) :=
    h1.set_sec_level _ (List.Subset.trans (by decide) hm) (Or.inr (List.Subset.trans (by decide) hm)) (fun k => ⟨k.2, k.2⟩)
  have hr : ([.regs] : List Part) ⊆ m := List.Subset.trans (by decide) hm
  have hs : ([.sec] : List Part) ⊆ m := List.Subset.trans (by decide) hm
  refine Touches.ite (fun _ => levelRaised_touches (List.Subset.trans (by decide) hm) (secErr_touches _ hr h2)) (fun _ => ?_)
  exact Touches.ite
    (fun _ => secErr_touches _ hr (updSec_touches _ hs rfl rfl (secErr_touches _ hr h1)))
    (fun _ => updSec_touches _ hs rfl rfl (secErr_touches _ hr h1))

theorem challengeExpire_touches {m : List Part} {s0 s : State}  (hm : [.sec] ⊆ m) (h : Touches m s0 s) :
    Touches m s0 (challengeExpire s) := by
  unfold challengeExpire
  repeat' first
    | with_reducible assumption
    | (with_reducible refine List.Subset.trans ?_ hm); decide
    | rfl
    | with_reducible apply updSec_touches
    | with_reducible apply Touches.ite
    | split
    | extract_lets
    | intro _
    | dsimp +zetaDelta only

theorem lockoutEnd_touches {m : List Part} {s0 s : State}  (hm : [.sec] ⊆ m) (h : Touches m s0 s) :
    Touches m s0 (lockoutEnd s) := by
  unfold lockoutEnd
  repeat' first
    | with_reducible assumption
    | (with_reducible refine List.Subset.trans ?_ hm); decide
    | rfl
    | with_reducible apply updSec_touches
    | with_reducible apply Touches.ite
    | split
    | extract_lets
    | intro _
    | dsimp +zetaDelta only

theorem secRelock_touches {m : List Part} {s0 s : State} (hm : [.flt, .sec, .tap] ⊆ m) (h : Touches m s0 s) :
    Touches m s0 (secRelock s) := by
  have h0 : Touches m s0 { s with tap := { s.tap with lag := s.tap.lag || tapIr s == s.tap.ir } } :=
    h.set_tap _ (List.Subset.trans (by decide) hm)
  have h1 (level : Nat) (hl : level ≤ s.sec.level) :
      Touches m s0 (updSec { s with tap := { s.tap with lag := s.tap.lag || tapIr s == s.tap.ir } }
        (fun x => { x with level := level, chal := false, nonce := 0, busy := .idle })) :=
    h0.set_sec_level _ (List.Subset.trans (by decide) hm) (Or.inl hl) (fun k => ⟨Nat.le_trans hl k.1, k.2⟩)
  unfold secRelock
  exact Touches.ite (fun _ => (h1 _ (Nat.min_le_left _ _)).set_flt _ (List.Subset.trans (by decide) hm))
    (fun _ => h1 _ (Nat.min_le_left _ _))

end Sys2Proof.Machine
end

