-- ==== Sys2Proof/Laws/FrameClocks.lean ====
section
/-! SUPPORT. What each operation of Sys2Proof/Machine/Clocks.lean may change: the parts of the state that it touches. -/

namespace Sys2Proof.Machine

theorem tickClk_touches {m : List Part} {s0 s : State} (k : Nat) (hm : [.clks] ⊆ m) (h : Touches m s0 s) :
    Touches m s0 (tickClk s k) := by
  unfold tickClk
  repeat' first
    | with_reducible assumption
    | (with_reducible refine List.Subset.trans ?_ hm); decide
    | with_reducible apply setClk_touches
    | with_reducible apply Touches.ite
    | split
    | extract_lets
    | intro _
    | dsimp +zetaDelta only

theorem tickDom_touches {m : List Part} {s0 s : State} (d : Nat) (hm : [.doms] ⊆ m) (h : Touches m s0 s) :
    Touches m s0 (tickDom s d) := by
  unfold tickDom
  repeat' first
    | with_reducible assumption
    | (with_reducible refine List.Subset.trans ?_ hm); decide
    | with_reducible apply updDom_touches
    | with_reducible apply Touches.ite
    | split
    | extract_lets
    | intro _
    | dsimp +zetaDelta only

theorem tickTimer_touches {m : List Part} {s0 s : State}  (hm : [.regs] ⊆ m) (h : Touches m s0 s) :
    Touches m s0 (tickTimer s) := by
  unfold tickTimer
  repeat' first
    | with_reducible assumption
    | (with_reducible refine List.Subset.trans ?_ hm); decide
    | with_reducible apply wrF_touches
    | with_reducible apply Touches.ite
    | split
    | extract_lets
    | intro _
    | dsimp +zetaDelta only

theorem tick_touches {m : List Part} {s0 s : State}  (hm : [.regs, .doms, .clks, .mer, .aclk] ⊆ m) (h : Touches m s0 s) :
    Touches m s0 (tick s) := by
  unfold tick
  repeat' first
    | with_reducible assumption
    | (with_reducible refine List.Subset.trans ?_ hm); decide
    | with_reducible apply merRun_touches
    | with_reducible apply tickDom_touches
    | with_reducible apply tickClk_touches
    | with_reducible apply tickTimer_touches
    | with_reducible apply Touches.foldl
    | with_reducible apply Touches.ite
    | split
    | extract_lets
    | intro _
    | dsimp +zetaDelta only
    | with_reducible apply Touches.set_aclk

theorem clkRelock_touches {m : List Part} {s0 s : State} (k : Nat) (hm : [.regs, .clks] ⊆ m) (h : Touches m s0 s) :
    Touches m s0 (clkRelock s k) := by
  unfold clkRelock
  repeat' first
    | with_reducible assumption
    | (with_reducible refine List.Subset.trans ?_ hm); decide
    | with_reducible apply setBits_touches
    | with_reducible apply setClk_touches
    | with_reducible apply Touches.ite
    | split
    | extract_lets
    | intro _
    | dsimp +zetaDelta only

theorem pllRelocked_touches {m : List Part} {s0 s : State} (k : Nat) (hm : [.regs, .doms, .clks] ⊆ m) (h : Touches m s0 s) :
    Touches m s0 (pllRelocked s k) := by
  unfold pllRelocked
  repeat' first
    | with_reducible assumption
    | (with_reducible refine List.Subset.trans ?_ hm); decide
    | with_reducible apply setCoast_touches
    | with_reducible apply Touches.ite
    | split
    | extract_lets
    | intro _
    | dsimp +zetaDelta only

theorem clkMeasWindow_touches {m : List Part} {s0 s : State} (k : Nat) (cycles : Nat) (hm : [.regs, .clks] ⊆ m) (h : Touches m s0 s) :
    Touches m s0 (clkMeasWindow s k cycles) := by
  unfold clkMeasWindow
  repeat' first
    | with_reducible assumption
    | (with_reducible refine List.Subset.trans ?_ hm); decide
    | with_reducible apply wr_touches
    | with_reducible apply setClk_touches
    | with_reducible apply Touches.ite
    | split
    | extract_lets
    | intro _
    | dsimp +zetaDelta only

end Sys2Proof.Machine
end

