-- ==== Sys2Proof/Laws/FrameChunks.lean ====
section
/-! SUPPORT. What each operation of Sys2Proof/Machine/Chunks.lean may change: the parts of the state that it touches. -/

namespace Sys2Proof.Machine

theorem setCmb_touches {m : List Part} {s0 s : State} (c : Cell) (x : Cmb) (hm : [.cmbs] ⊆ m) (h : Touches m s0 s) :
    Touches m s0 (setCmb s c x) := by
  unfold setCmb
  repeat' first
    | with_reducible assumption
    | (with_reducible refine List.Subset.trans ?_ hm); decide
    | with_reducible apply Touches.ite
    | split
    | extract_lets
    | intro _
    | dsimp +zetaDelta only
    | with_reducible apply Touches.set_cmbs

theorem setCent_touches {m : List Part} {s0 s : State} (c : Cell) (e : Nat) (x : CEnt) (hm : [.cmbs] ⊆ m) (h : Touches m s0 s) :
    Touches m s0 (setCent s c e x) := by
  unfold setCent
  repeat' first
    | with_reducible assumption
    | (with_reducible refine List.Subset.trans ?_ hm); decide
    | with_reducible apply setCmb_touches
    | with_reducible apply Touches.ite
    | split
    | extract_lets
    | intro _
    | dsimp +zetaDelta only

theorem setRun_touches {m : List Part} {s0 s : State} (c : Cell) (e : Nat) (r : CRun) (hm : [.cmbs] ⊆ m) (h : Touches m s0 s) :
    Touches m s0 (setRun s c e r) := by
  unfold setRun
  repeat' first
    | with_reducible assumption
    | (with_reducible refine List.Subset.trans ?_ hm); decide
    | with_reducible apply setCent_touches
    | with_reducible apply Touches.ite
    | split
    | extract_lets
    | intro _
    | dsimp +zetaDelta only

theorem updRun_touches {m : List Part} {s0 s : State} (c : Cell) (e : Nat) (f : CRun → CRun) (hm : [.cmbs] ⊆ m) (h : Touches m s0 s) :
    Touches m s0 (updRun s c e f) := by
  unfold updRun
  repeat' first
    | with_reducible assumption
    | (with_reducible refine List.Subset.trans ?_ hm); decide
    | with_reducible apply setRun_touches
    | with_reducible apply Touches.ite
    | split
    | extract_lets
    | intro _
    | dsimp +zetaDelta only

theorem cmQueue_touches {m : List Part} {s0 s : State} (c : Cell) (z : TxPkt) (hm : [.tx] ⊆ m) (h : Touches m s0 s) :
    Touches m s0 (cmQueue s c z) := by
  unfold cmQueue
  repeat' first
    | with_reducible assumption
    | (with_reducible refine List.Subset.trans ?_ hm); decide
    | with_reducible apply setTxEnd_touches
    | with_reducible apply Touches.ite
    | split
    | extract_lets
    | intro _
    | dsimp +zetaDelta only

theorem queueData_touches {m : List Part} {s0 s : State} (c : Cell) (mk : Nat → List Byte → Nat → TxPkt) (l : List Byte) (port : Nat) (hm : [.tx, .cmbs] ⊆ m) (h : Touches m s0 s) :
    Touches m s0 (queueData s c mk l port) := by
  unfold queueData
  repeat' first
    | with_reducible assumption
    | (with_reducible refine List.Subset.trans ?_ hm); decide
    | with_reducible apply setCmb_touches
    | with_reducible apply cmQueue_touches
    | with_reducible apply Touches.ite
    | split
    | extract_lets
    | intro _
    | dsimp +zetaDelta only

theorem scrWrote_touches {m : List Part} {s0 s : State} (c : Cell) (p : CPlace) (hm : [.cmbs] ⊆ m) (h : Touches m s0 s) :
    Touches m s0 (scrWrote s c p) := by
  unfold scrWrote
  repeat' first
    | with_reducible assumption
    | (with_reducible refine List.Subset.trans ?_ hm); decide
    | with_reducible apply setCmb_touches
    | with_reducible apply Touches.ite
    | split
    | extract_lets
    | intro _
    | dsimp +zetaDelta only

theorem scrClean_touches {m : List Part} {s0 s : State} (c : Cell) (es : List Nat) (hm : [.cmbs] ⊆ m) (h : Touches m s0 s) :
    Touches m s0 (scrClean s c es) := by
  unfold scrClean
  repeat' first
    | with_reducible assumption
    | (with_reducible refine List.Subset.trans ?_ hm); decide
    | with_reducible apply setCmb_touches
    | with_reducible apply Touches.ite
    | split
    | extract_lets
    | intro _
    | dsimp +zetaDelta only

theorem progress_touches {m : List Part} {s0 s : State} (c : Cell) (e : Nat) (hm : [.cmbs] ⊆ m) (h : Touches m s0 s) :
    Touches m s0 (progress s c e) := by
  unfold progress
  repeat' first
    | with_reducible assumption
    | (with_reducible refine List.Subset.trans ?_ hm); decide
    | with_reducible apply updRun_touches
    | with_reducible apply Touches.ite
    | split
    | extract_lets
    | intro _
    | dsimp +zetaDelta only

theorem grant_touches {m : List Part} {s0 s : State} (c : Cell) (e : Nat) (k : Nat) (n : Nat) (hm : [.tx, .cmbs] ⊆ m) (h : Touches m s0 s) :
    Touches m s0 (grant s c e k n) := by
  unfold grant
  repeat' first
    | with_reducible assumption
    | (with_reducible refine List.Subset.trans ?_ hm); decide
    | with_reducible apply updRun_touches
    | with_reducible apply progress_touches
    | with_reducible apply cmQueue_touches
    | with_reducible apply Touches.ite
    | split
    | extract_lets
    | intro _
    | dsimp +zetaDelta only

theorem resultLeft_touches {m : List Part} {s0 s : State} (c : Cell) (e : Nat) (gather : Bool) (hm : [.tx, .cmbs] ⊆ m) (h : Touches m s0 s) :
    Touches m s0 (resultLeft s c e gather) := by
  unfold resultLeft
  repeat' first
    | with_reducible assumption
    | (with_reducible refine List.Subset.trans ?_ hm); decide
    | with_reducible apply grant_touches
    | with_reducible apply Touches.ite
    | split
    | extract_lets
    | intro _
    | dsimp +zetaDelta only

end Sys2Proof.Machine
end

