-- ==== Sys2Proof/Laws/FrameDescriptors.lean ====
section
/-! SUPPORT. What each operation of Sys2Proof/Machine/Descriptors.lean may change: the parts of the state that it touches. -/

namespace Sys2Proof.Machine

theorem noteWindow_touches {m : List Part} {s0 s : State} (u : UnitRef) (d : BitVec 512) (hm : [.regs] ⊆ m) (h : Touches m s0 s) :
    Touches m s0 (noteWindow s u d) := by
  unfold noteWindow
  repeat' first
    | with_reducible assumption
    | (with_reducible refine List.Subset.trans ?_ hm); decide
    | with_reducible apply setBits_touches
    | with_reducible apply Touches.ite
    | split
    | extract_lets
    | intro _
    | dsimp +zetaDelta only

theorem failCheck_touches {m : List Part} {s0 s : State} (u : UnitRef) (id : Nat) (x : Ctx) (e : Nat × Nat) (hm : [.mem, .regs, .units, .tx, .tel] ⊆ m) (h : Touches m s0 s) :
    Touches m s0 (failCheck s u id x e) := by
  unfold failCheck
  repeat' first
    | with_reducible assumption
    | (with_reducible refine List.Subset.trans ?_ hm); decide
    | with_reducible apply failCtx_touches
    | with_reducible apply noteWindow_touches
    | with_reducible apply Touches.ite
    | split
    | extract_lets
    | intro _
    | dsimp +zetaDelta only

theorem startOp_touches {m : List Part} {s0 s : State} (u : UnitRef) (r : Nat) (op : Nat) (run : State → Nat → Ctx → State) (hm : [.mem, .regs, .units, .tx, .tel] ⊆ m) (h : Touches m s0 s) (hrun : ∀ (t : State) (x1 : Nat) (x2 : Ctx), Touches m s0 t → Touches m s0 (run t x1 x2)) :
    Touches m s0 (startOp s u r op run) := by
  unfold startOp
  repeat' first
    | with_reducible assumption
    | (with_reducible refine List.Subset.trans ?_ hm); decide
    | with_reducible apply failCheck_touches
    | with_reducible apply hrun
    | with_reducible apply Touches.ite
    | split
    | extract_lets
    | intro _
    | dsimp +zetaDelta only

theorem sweepReserved_touches {m : List Part} {s0 s : State} (u : UnitRef) (hm : [.mem, .regs, .units, .tx, .tel] ⊆ m) (h : Touches m s0 s) :
    Touches m s0 (sweepReserved s u) := by
  unfold sweepReserved
  repeat' first
    | with_reducible assumption
    | (with_reducible refine List.Subset.trans ?_ hm); decide
    | with_reducible apply failCheck_touches
    | with_reducible apply Touches.ite
    | split
    | extract_lets
    | intro _
    | dsimp +zetaDelta only

theorem fetchOne_touches {m : List Part} {s0 s : State} (u : UnitRef) (r : Nat) (hm : [.units, .tel] ⊆ m) (h : Touches m s0 s) :
    Touches m s0 (fetchOne s u r) := by
  unfold fetchOne
  repeat' first
    | with_reducible assumption
    | (with_reducible refine List.Subset.trans ?_ hm); decide
    | with_reducible apply setSq_touches
    | with_reducible apply updUnit_touches
    | with_reducible apply telGw_touches
    | with_reducible apply telTlp_touches
    | with_reducible apply Touches.ite
    | split
    | extract_lets
    | intro _
    | dsimp +zetaDelta only

theorem fetchFails_touches {m : List Part} {s0 s : State} (u : UnitRef) (r : Nat) (hm : [.regs, .units] ⊆ m) (h : Touches m s0 s) :
    Touches m s0 (fetchFails s u r) := by
  unfold fetchFails
  repeat' first
    | with_reducible assumption
    | (with_reducible refine List.Subset.trans ?_ hm); decide
    | with_reducible apply updUnit_touches
    | with_reducible apply setSq_touches
    | with_reducible apply setBits_touches
    | with_reducible apply cntUp_touches
    | with_reducible apply Touches.ite
    | split
    | extract_lets
    | intro _
    | dsimp +zetaDelta only

theorem descriptorFetch_touches {m : List Part} {s0 s : State} (u : UnitRef) (ok : Bool) (hm : [.mem, .regs, .units, .tx, .tel] ⊆ m) (h : Touches m s0 s) :
    Touches m s0 (descriptorFetch s u ok) := by
  unfold descriptorFetch
  repeat' first
    | with_reducible assumption
    | (with_reducible refine List.Subset.trans ?_ hm); decide
    | with_reducible apply sweepReserved_touches
    | with_reducible apply fetchOne_touches
    | with_reducible apply fetchFails_touches
    | with_reducible apply Touches.ite
    | split
    | extract_lets
    | intro _
    | dsimp +zetaDelta only

theorem completionWriteFail_touches {m : List Part} {s0 s : State} (u : UnitRef) (r : Nat) (hm : [.regs, .units] ⊆ m) (h : Touches m s0 s) :
    Touches m s0 (completionWriteFail s u r) := by
  unfold completionWriteFail
  repeat' first
    | with_reducible assumption
    | (with_reducible refine List.Subset.trans ?_ hm); decide
    | with_reducible apply setBits_touches
    | with_reducible apply setCq_touches
    | with_reducible apply Touches.ite
    | split
    | extract_lets
    | intro _
    | dsimp +zetaDelta only

theorem runWith_touches {m : List Part} {s0 s : State} (u : UnitRef) (id : Nat) (l : List Plan) (hm : [.mem, .regs, .units, .tel] ⊆ m) (h : Touches m s0 s) :
    Touches m s0 (runWith s u id l) := by
  unfold runWith
  repeat' first
    | with_reducible assumption
    | (with_reducible refine List.Subset.trans ?_ hm); decide
    | with_reducible apply settleCtx_touches
    | with_reducible apply updCtx_touches
    | with_reducible apply Touches.ite
    | split
    | extract_lets
    | intro _
    | dsimp +zetaDelta only

theorem runCopy_touches {m : List Part} {s0 s : State} (u : UnitRef) (id : Nat) (x : Ctx) (hm : [.mem, .regs, .units, .tx, .tel] ⊆ m) (h : Touches m s0 s) :
    Touches m s0 (runCopy s u id x) := by
  unfold runCopy
  repeat' first
    | with_reducible assumption
    | (with_reducible refine List.Subset.trans ?_ hm); decide
    | with_reducible apply runWith_touches
    | with_reducible apply failCtx_touches
    | with_reducible apply Touches.ite
    | split
    | extract_lets
    | intro _
    | dsimp +zetaDelta only

theorem runFence_touches {m : List Part} {s0 s : State} (u : UnitRef) (id : Nat) (x : Ctx) (hm : [.mem, .regs, .units, .tx, .tel] ⊆ m) (h : Touches m s0 s) :
    Touches m s0 (runFence s u id x) := by
  unfold runFence
  repeat' first
    | with_reducible assumption
    | (with_reducible refine List.Subset.trans ?_ hm); decide
    | with_reducible apply failCtx_touches
    | with_reducible apply runWith_touches
    | with_reducible apply Touches.ite
    | split
    | extract_lets
    | intro _
    | dsimp +zetaDelta only

theorem runSignal_touches {m : List Part} {s0 s : State} (u : UnitRef) (id : Nat) (x : Ctx) (hm : [.mem, .regs, .units, .tx, .tel] ⊆ m) (h : Touches m s0 s) :
    Touches m s0 (runSignal s u id x) := by
  unfold runSignal
  repeat' first
    | with_reducible assumption
    | (with_reducible refine List.Subset.trans ?_ hm); decide
    | with_reducible apply failCtx_touches
    | with_reducible apply runWith_touches
    | with_reducible apply Touches.ite
    | split
    | extract_lets
    | intro _
    | dsimp +zetaDelta only

theorem runStreamOpen_touches {m : List Part} {s0 s : State} (u : UnitRef) (id : Nat) (x : Ctx) (hm : [.mem, .regs, .units, .tx, .tel] ⊆ m) (h : Touches m s0 s) :
    Touches m s0 (runStreamOpen s u id x) := by
  unfold runStreamOpen
  repeat' first
    | with_reducible assumption
    | (with_reducible refine List.Subset.trans ?_ hm); decide
    | with_reducible apply runWith_touches
    | with_reducible apply updCtx_touches
    | with_reducible apply cntUp_touches
    | with_reducible apply failCtx_touches
    | with_reducible apply updUnit_touches
    | with_reducible apply Touches.ite
    | split
    | extract_lets
    | intro _
    | dsimp +zetaDelta only

theorem runStreamRelease_touches {m : List Part} {s0 s : State} (u : UnitRef) (id : Nat) (x : Ctx) (hm : [.mem, .regs, .units, .tx, .tel] ⊆ m) (h : Touches m s0 s) :
    Touches m s0 (runStreamRelease s u id x) := by
  unfold runStreamRelease
  repeat' first
    | with_reducible assumption
    | (with_reducible refine List.Subset.trans ?_ hm); decide
    | with_reducible apply failCtx_touches
    | with_reducible apply updCtx_touches
    | with_reducible apply updUnit_touches
    | with_reducible apply Touches.ite
    | split
    | extract_lets
    | intro _
    | dsimp +zetaDelta only

theorem startStream_touches {m : List Part} {s0 s : State} (c : Cell) (q : Nat) (rel : Bool) (run : State → UnitRef → Nat → Ctx → State) (hm : [.mem, .regs, .units, .tx, .tel] ⊆ m) (h : Touches m s0 s) (hrun : ∀ (t : State) (x1 : UnitRef) (x2 : Nat) (x3 : Ctx), Touches m s0 t → Touches m s0 (run t x1 x2 x3)) :
    Touches m s0 (startStream s c q rel run) := by
  unfold startStream
  repeat' first
    | with_reducible assumption
    | (with_reducible refine List.Subset.trans ?_ hm); decide
    | with_reducible apply startOp_touches
    | with_reducible apply hrun
    | with_reducible apply Touches.ite
    | split
    | extract_lets
    | intro _
    | dsimp +zetaDelta only

theorem runWaitTime_touches {m : List Part} {s0 s : State} (u : UnitRef) (id : Nat) (x : Ctx) (hm : [.mem, .regs, .units, .tel] ⊆ m) (h : Touches m s0 s) :
    Touches m s0 (runWaitTime s u id x) := by
  unfold runWaitTime
  repeat' first
    | with_reducible assumption
    | (with_reducible refine List.Subset.trans ?_ hm); decide
    | with_reducible apply runWith_touches
    | with_reducible apply updCtx_touches
    | with_reducible apply Touches.ite
    | split
    | extract_lets
    | intro _
    | dsimp +zetaDelta only

theorem waitReached_touches {m : List Part} {s0 s : State} (u : UnitRef) (r : Nat) (hm : [.mem, .regs, .units, .tel] ⊆ m) (h : Touches m s0 s) :
    Touches m s0 (waitReached s u r) := by
  unfold waitReached
  repeat' first
    | with_reducible assumption
    | (with_reducible refine List.Subset.trans ?_ hm); decide
    | with_reducible apply runWith_touches
    | with_reducible apply updCtx_touches
    | with_reducible apply Touches.ite
    | split
    | extract_lets
    | intro _
    | dsimp +zetaDelta only

theorem openWelt_touches {m : List Part} {s0 s : State} (c : Cell) (id : Nat) (x : Ctx) (late : Bool) (hm : [.mem, .regs, .units, .tx, .tel] ⊆ m) (h : Touches m s0 s) :
    Touches m s0 (openWelt s c id x late) := by
  unfold openWelt
  repeat' first
    | with_reducible assumption
    | (with_reducible refine List.Subset.trans ?_ hm); decide
    | with_reducible apply updCtx_touches
    | with_reducible apply failCtx_touches
    | with_reducible apply setBits_touches
    | with_reducible apply updUnit_touches
    | with_reducible apply runWith_touches
    | with_reducible apply Touches.ite
    | split
    | extract_lets
    | intro _
    | dsimp +zetaDelta only

theorem runCircuitOpen_touches {m : List Part} {s0 s : State} (c : Cell) (id : Nat) (x : Ctx) (hm : [.mem, .regs, .units, .tx, .tel] ⊆ m) (h : Touches m s0 s) :
    Touches m s0 (runCircuitOpen s c id x) := by
  unfold runCircuitOpen
  repeat' first
    | with_reducible assumption
    | (with_reducible refine List.Subset.trans ?_ hm); decide
    | with_reducible apply openWelt_touches
    | with_reducible apply updCtx_touches
    | with_reducible apply Touches.ite
    | split
    | extract_lets
    | intro _
    | dsimp +zetaDelta only

theorem circuitOpenTime_touches {m : List Part} {s0 s : State} (c : Cell) (q : Nat) (hm : [.mem, .regs, .units, .tx, .tel] ⊆ m) (h : Touches m s0 s) :
    Touches m s0 (circuitOpenTime s c q) := by
  unfold circuitOpenTime
  repeat' first
    | with_reducible assumption
    | (with_reducible refine List.Subset.trans ?_ hm); decide
    | with_reducible apply openWelt_touches
    | with_reducible apply Touches.ite
    | split
    | extract_lets
    | intro _
    | dsimp +zetaDelta only

theorem runCircuitClose_touches {m : List Part} {s0 s : State} (c : Cell) (id : Nat) (x : Ctx) (hm : [.mem, .regs, .units, .tx, .tel] ⊆ m) (h : Touches m s0 s) :
    Touches m s0 (runCircuitClose s c id x) := by
  unfold runCircuitClose
  repeat' first
    | with_reducible assumption
    | (with_reducible refine List.Subset.trans ?_ hm); decide
    | with_reducible apply failCtx_touches
    | with_reducible apply updCtx_touches
    | with_reducible apply updUnit_touches
    | with_reducible apply Touches.ite
    | split
    | extract_lets
    | intro _
    | dsimp +zetaDelta only

theorem circuitCloseSend_touches {m : List Part} {s0 s : State} (c : Cell) (l : Nat) (hm : [.mem, .regs, .units, .tel] ⊆ m) (h : Touches m s0 s) :
    Touches m s0 (circuitCloseSend s c l) := by
  unfold circuitCloseSend
  repeat' first
    | with_reducible assumption
    | (with_reducible refine List.Subset.trans ?_ hm); decide
    | with_reducible apply updUnit_touches
    | with_reducible apply setBits_touches
    | with_reducible apply runWith_touches
    | with_reducible apply updCtx_touches
    | with_reducible apply Touches.ite
    | split
    | extract_lets
    | intro _
    | dsimp +zetaDelta only

end Sys2Proof.Machine
end

