-- ==== Sys2Proof/Laws/FrameSparse.lean ====
section
/-! SUPPORT. What each operation of Sys2Proof/Machine/Sparse.lean may change: the parts of the state that it touches. -/

namespace Sys2Proof.Machine

theorem countDrops_touches {m : List Part} {s0 s : State} (c : Cell) (sc : Scan) (hm : [.regs] ⊆ m) (h : Touches m s0 s) :
    Touches m s0 (countDrops s c sc) := by
  unfold countDrops
  repeat' first
    | with_reducible assumption
    | (with_reducible refine List.Subset.trans ?_ hm); decide
    | with_reducible apply cntUp_touches
    | with_reducible apply setBits_touches
    | with_reducible apply Touches.ite
    | split
    | extract_lets
    | intro _
    | dsimp +zetaDelta only

theorem runSparse_touches {m : List Part} {s0 s : State} (c : Cell) (id : Nat) (x : Ctx) (hm : [.mem, .regs, .units, .tx, .tel, .freeCtr] ⊆ m) (h : Touches m s0 s) :
    Touches m s0 (runSparse s c id x) := by
  unfold runSparse
  repeat' first
    | with_reducible assumption
    | (with_reducible refine List.Subset.trans ?_ hm); decide
    | with_reducible apply failCtx_touches
    | with_reducible apply countDrops_touches
    | with_reducible apply updCtx_touches
    | with_reducible apply cntUp_touches
    | with_reducible apply runWith_touches
    | with_reducible apply Touches.ite
    | split
    | extract_lets
    | intro _
    | dsimp +zetaDelta only
    | with_reducible apply Touches.set_freeCtr

theorem packedHeaderWrite_touches {m : List Part} {s0 s : State} (c : Cell) (q : Nat) (hm : [.mem, .regs, .units, .tel, .freeCtr] ⊆ m) (h : Touches m s0 s) :
    Touches m s0 (packedHeaderWrite s c q) := by
  unfold packedHeaderWrite
  repeat' first
    | with_reducible assumption
    | (with_reducible refine List.Subset.trans ?_ hm); decide
    | with_reducible apply runWith_touches
    | with_reducible apply draw_touches
    | with_reducible apply Touches.ite
    | split
    | extract_lets
    | intro _
    | dsimp +zetaDelta only

end Sys2Proof.Machine
end

