-- ==== Sys2Proof/Laws/FrameCombine.lean ====
section
/-! SUPPORT. What each operation of Sys2Proof/Machine/Combine.lean may change: the parts of the state that it touches. -/

namespace Sys2Proof.Machine

theorem sramPut_touches {m : List Part} {s0 s : State} (c : Cell) (off : Nat) (l : List Byte) (hm : [.mem] ⊆ m) (h : Touches m s0 s) :
    Touches m s0 (sramPut s c off l) := by
  unfold sramPut
  repeat' first
    | with_reducible assumption
    | (with_reducible refine List.Subset.trans ?_ hm); decide
    | with_reducible apply memWrite_touches
    | with_reducible apply Touches.ite
    | split
    | extract_lets
    | intro _
    | dsimp +zetaDelta only

theorem putPieces_touches {m : List Part} {s0 s : State} (c : Cell) (z : List (Nat × Nat)) (z1 : List Byte) (hm : [.mem] ⊆ m) (h : Touches m s0 s) :
    Touches m s0 (putPieces s c z z1) := by
  induction z generalizing s z1 with
  | nil =>
    unfold putPieces
    repeat' first
      | with_reducible assumption
      | (with_reducible refine List.Subset.trans ?_ hm); decide
      | with_reducible apply sramPut_touches
      | with_reducible apply Touches.ite
      | split
      | extract_lets
      | intro _
      | dsimp +zetaDelta only
  | cons f r ih =>
    unfold putPieces
    repeat' first
      | with_reducible apply ih
      | with_reducible assumption
      | (with_reducible refine List.Subset.trans ?_ hm); decide
      | with_reducible apply sramPut_touches
      | with_reducible apply Touches.ite
      | split
      | extract_lets
      | intro _
      | dsimp +zetaDelta only

theorem writeTiles_touches {m : List Part} {s0 s : State} (c : Cell) (e : Nat) (r : CRun) (i : Nat) (l : List Byte) (hm : [.mem, .cmbs] ⊆ m) (h : Touches m s0 s) :
    Touches m s0 (writeTiles s c e r i l) := by
  unfold writeTiles
  repeat' first
    | with_reducible assumption
    | (with_reducible refine List.Subset.trans ?_ hm); decide
    | with_reducible apply updRun_touches
    | with_reducible apply putPieces_touches
    | with_reducible apply Touches.foldl
    | with_reducible apply Touches.ite
    | split
    | extract_lets
    | intro _
    | dsimp +zetaDelta only

theorem writeData_touches {m : List Part} {s0 s : State} (c : Cell) (e : Nat) (r : CRun) (i : Nat) (l : List Byte) (hm : [.mem, .cmbs] ⊆ m) (h : Touches m s0 s) :
    Touches m s0 (writeData s c e r i l) := by
  unfold writeData
  repeat' first
    | with_reducible assumption
    | (with_reducible refine List.Subset.trans ?_ hm); decide
    | with_reducible apply writeTiles_touches
    | with_reducible apply updRun_touches
    | with_reducible apply sramPut_touches
    | with_reducible apply Touches.ite
    | split
    | extract_lets
    | intro _
    | dsimp +zetaDelta only

theorem fillFree_touches {m : List Part} {s0 s : State} (c : Cell) (l : List (Nat × Nat × Nat)) (hm : [.mem, .freeCtr] ⊆ m) (h : Touches m s0 s) :
    Touches m s0 (fillFree s c l) := by
  unfold fillFree
  repeat' first
    | with_reducible assumption
    | (with_reducible refine List.Subset.trans ?_ hm); decide
    | with_reducible apply draw_touches
    | with_reducible apply sramPut_touches
    | with_reducible apply Touches.foldl
    | with_reducible apply Touches.ite
    | split
    | extract_lets
    | intro _
    | dsimp +zetaDelta only

theorem endColl_touches {m : List Part} {s0 s : State} (c : Cell) (id : Nat) (err : Option (Nat × Nat)) (result : Nat) (hm : [.mem, .regs, .units, .tel] ⊆ m) (h : Touches m s0 s) :
    Touches m s0 (endColl s c id err result) := by
  unfold endColl
  repeat' first
    | with_reducible assumption
    | (with_reducible refine List.Subset.trans ?_ hm); decide
    | with_reducible apply settleCtx_touches
    | with_reducible apply updCtx_touches
    | with_reducible apply Touches.ite
    | split
    | extract_lets
    | intro _
    | dsimp +zetaDelta only

theorem takeAborted_touches {m : List Part} {s0 s : State} (c : Cell) (e : Nat) (seq : Nat) (cz : CCause) (hm : [.regs, .cmbs] ⊆ m) (h : Touches m s0 s) :
    Touches m s0 (takeAborted s c e seq cz) := by
  unfold takeAborted
  repeat' first
    | with_reducible assumption
    | (with_reducible refine List.Subset.trans ?_ hm); decide
    | with_reducible apply wr_touches
    | with_reducible apply setCent_touches
    | with_reducible apply Touches.ite
    | split
    | extract_lets
    | intro _
    | dsimp +zetaDelta only

theorem spendAborts_touches {m : List Part} {s0 s : State} (c : Cell) (e : Nat) (n : Nat) (hm : [.regs, .cmbs] ⊆ m) (h : Touches m s0 s) :
    Touches m s0 (spendAborts s c e n) := by
  unfold spendAborts
  repeat' first
    | with_reducible assumption
    | (with_reducible refine List.Subset.trans ?_ hm); decide
    | with_reducible apply takeAborted_touches
    | with_reducible apply Touches.foldl
    | with_reducible apply Touches.ite
    | split
    | extract_lets
    | intro _
    | dsimp +zetaDelta only

theorem goIdle_touches {m : List Part} {s0 s : State} (c : Cell) (e : Nat) (r : CRun) (hm : [.regs, .cmbs] ⊆ m) (h : Touches m s0 s) :
    Touches m s0 (goIdle s c e r) := by
  unfold goIdle
  repeat' first
    | with_reducible assumption
    | (with_reducible refine List.Subset.trans ?_ hm); decide
    | with_reducible apply spendAborts_touches
    | with_reducible apply wr_touches
    | with_reducible apply setCent_touches
    | with_reducible apply Touches.ite
    | split
    | extract_lets
    | intro _
    | dsimp +zetaDelta only

theorem sendAborts_touches {m : List Part} {s0 s : State} (c : Cell) (e : Nat) (g : CSig) (seq : Nat) (cz : CCause) (except : Option Nat) (hm : [.tx] ⊆ m) (h : Touches m s0 s) :
    Touches m s0 (sendAborts s c e g seq cz except) := by
  unfold sendAborts
  repeat' first
    | with_reducible assumption
    | (with_reducible refine List.Subset.trans ?_ hm); decide
    | with_reducible apply cmQueue_touches
    | with_reducible apply Touches.foldl
    | with_reducible apply Touches.ite
    | split
    | extract_lets
    | intro _
    | dsimp +zetaDelta only

theorem dropQueued_touches {m : List Part} {s0 s : State} (c : Cell) (g : Nat) (seq : Nat) (hm : [.tx] ⊆ m) (h : Touches m s0 s) :
    Touches m s0 (dropQueued s c g seq) := by
  unfold dropQueued
  repeat' first
    | with_reducible assumption
    | (with_reducible refine List.Subset.trans ?_ hm); decide
    | with_reducible apply setTxEnd_touches
    | with_reducible apply Touches.ite
    | split
    | extract_lets
    | intro _
    | dsimp +zetaDelta only

theorem abortOne_touches {m : List Part} {s0 s : State} (c : Cell) (e : Nat) (cz : CCause) (except : Option Nat) (hm : [.mem, .regs, .units, .tx, .cmbs, .tel, .freeCtr] ⊆ m) (h : Touches m s0 s) :
    Touches m s0 (abortOne s c e cz except) := by
  unfold abortOne
  repeat' first
    | with_reducible assumption
    | (with_reducible refine List.Subset.trans ?_ hm); decide
    | with_reducible apply fillFree_touches
    | with_reducible apply sendAborts_touches
    | with_reducible apply dropQueued_touches
    | with_reducible apply goIdle_touches
    | with_reducible apply setCent_touches
    | with_reducible apply endColl_touches
    | with_reducible apply Touches.ite
    | split
    | extract_lets
    | intro _
    | dsimp +zetaDelta only

theorem countAbort_touches {m : List Part} {s0 s : State} (c : Cell) (cause : Nat) (hm : [.regs] ⊆ m) (h : Touches m s0 s) :
    Touches m s0 (countAbort s c cause) := by
  unfold countAbort
  repeat' first
    | with_reducible assumption
    | (with_reducible refine List.Subset.trans ?_ hm); decide
    | with_reducible apply setBits_touches
    | with_reducible apply cntUp_touches
    | with_reducible apply Touches.ite
    | split
    | extract_lets
    | intro _
    | dsimp +zetaDelta only

theorem abortInst_touches {m : List Part} {s0 s : State} (c : Cell) (e : Nat) (cz : CCause) (except : Option Nat) (hm : [.mem, .regs, .units, .tx, .cmbs, .tel, .freeCtr] ⊆ m) (h : Touches m s0 s) :
    Touches m s0 (abortInst s c e cz except) := by
  unfold abortInst
  repeat' first
    | with_reducible assumption
    | (with_reducible refine List.Subset.trans ?_ hm); decide
    | with_reducible apply abortOne_touches
    | with_reducible apply Touches.foldl
    | with_reducible apply Touches.ite
    | split
    | extract_lets
    | intro _
    | dsimp +zetaDelta only

theorem abortHere_touches {m : List Part} {s0 s : State} (c : Cell) (e : Nat) (cause : Nat) (hm : [.mem, .regs, .units, .tx, .cmbs, .tel, .freeCtr] ⊆ m) (h : Touches m s0 s) :
    Touches m s0 (abortHere s c e cause) := by
  unfold abortHere
  repeat' first
    | with_reducible assumption
    | (with_reducible refine List.Subset.trans ?_ hm); decide
    | with_reducible apply abortInst_touches
    | with_reducible apply countAbort_touches
    | with_reducible apply Touches.ite
    | split
    | extract_lets
    | intro _
    | dsimp +zetaDelta only

theorem earlyAbort_touches {m : List Part} {s0 s : State} (c : Cell) (e : Nat) (g : CSig) (seq : Nat) (cz : CCause) (except : Option Nat) (hm : [.tx, .cmbs] ⊆ m) (h : Touches m s0 s) :
    Touches m s0 (earlyAbort s c e g seq cz except) := by
  unfold earlyAbort
  repeat' first
    | with_reducible assumption
    | (with_reducible refine List.Subset.trans ?_ hm); decide
    | with_reducible apply sendAborts_touches
    | with_reducible apply setCent_touches
    | with_reducible apply Touches.foldl
    | with_reducible apply Touches.ite
    | split
    | extract_lets
    | intro _
    | dsimp +zetaDelta only

theorem scratch_touches {m : List Part} {s0 s : State} (c : Cell) (e : Nat) (reads : CPlace → Bool) (ecc : Ecc) (k : State → State) (hm : [.mem, .regs, .units, .tx, .cmbs, .tel, .freeCtr] ⊆ m) (h : Touches m s0 s) (hk : ∀ (t : State), Touches m s0 t → Touches m s0 (k t)) :
    Touches m s0 (scratch s c e reads ecc k) := by
  unfold scratch
  repeat' first
    | with_reducible assumption
    | (with_reducible refine List.Subset.trans ?_ hm); decide
    | with_reducible apply setBits_touches
    | with_reducible apply cntUp_touches
    | with_reducible apply abortHere_touches
    | with_reducible apply hk
    | with_reducible apply Touches.ite
    | split
    | extract_lets
    | intro _
    | dsimp +zetaDelta only

theorem intoChain_touches {m : List Part} {s0 s : State} (c : Cell) (e : Nat) (f : Nat) (k : State → State) (hm : [.mem, .regs, .units, .tx, .cmbs, .tel, .freeCtr] ⊆ m) (h : Touches m s0 s) (hk : ∀ (t : State), Touches m s0 t → Touches m s0 (k t)) :
    Touches m s0 (intoChain s c e f k) := by
  unfold intoChain
  repeat' first
    | with_reducible assumption
    | (with_reducible refine List.Subset.trans ?_ hm); decide
    | with_reducible apply abortHere_touches
    | with_reducible apply hk
    | with_reducible apply Touches.ite
    | split
    | extract_lets
    | intro _
    | dsimp +zetaDelta only

theorem itemDone_touches {m : List Part} {s0 s : State} (c : Cell) (e : Nat) (slot : Nat) (gather : Bool) (hm : [.tx, .cmbs] ⊆ m) (h : Touches m s0 s) :
    Touches m s0 (itemDone s c e slot gather) := by
  unfold itemDone
  repeat' first
    | with_reducible assumption
    | (with_reducible refine List.Subset.trans ?_ hm); decide
    | with_reducible apply resultLeft_touches
    | with_reducible apply grant_touches
    | with_reducible apply Touches.ite
    | split
    | extract_lets
    | intro _
    | dsimp +zetaDelta only

theorem itemFree_touches {m : List Part} {s0 s : State} (c : Cell) (e : Nat) (ph : Nat) (i : Nat) (hm : [.tx, .cmbs] ⊆ m) (h : Touches m s0 s) :
    Touches m s0 (itemFree s c e ph i) := by
  unfold itemFree
  repeat' first
    | with_reducible assumption
    | (with_reducible refine List.Subset.trans ?_ hm); decide
    | with_reducible apply itemDone_touches
    | with_reducible apply setRun_touches
    | with_reducible apply Touches.ite
    | split
    | extract_lets
    | intro _
    | dsimp +zetaDelta only

theorem downTake_touches {m : List Part} {s0 s : State} (c : Cell) (e : Nat) (ph : Nat) (i : Nat) (l : List Byte) (crc : Nat) (slot : Nat) (hm : [.mem, .tx, .cmbs] ⊆ m) (h : Touches m s0 s) :
    Touches m s0 (downTake s c e ph i l crc slot) := by
  unfold downTake
  repeat' first
    | with_reducible assumption
    | (with_reducible refine List.Subset.trans ?_ hm); decide
    | with_reducible apply setRun_touches
    | with_reducible apply sramPut_touches
    | with_reducible apply writeData_touches
    | with_reducible apply itemDone_touches
    | with_reducible apply updRun_touches
    | with_reducible apply Touches.foldl
    | with_reducible apply Touches.ite
    | split
    | extract_lets
    | intro _
    | dsimp +zetaDelta only

theorem rootCounts_touches {m : List Part} {s0 s : State} (c : Cell) (e : Nat) (r : CRun) (hm : [.mem, .tx, .cmbs] ⊆ m) (h : Touches m s0 s) :
    Touches m s0 (rootCounts s c e r) := by
  unfold rootCounts
  repeat' first
    | with_reducible assumption
    | (with_reducible refine List.Subset.trans ?_ hm); decide
    | with_reducible apply downTake_touches
    | with_reducible apply Touches.foldl
    | with_reducible apply Touches.ite
    | split
    | extract_lets
    | intro _
    | dsimp +zetaDelta only

theorem rootMap_touches {m : List Part} {s0 s : State} (c : Cell) (e : Nat) (cut : Nat) (map : Nat) (hm : [.mem, .regs, .tx, .cmbs] ⊆ m) (h : Touches m s0 s) :
    Touches m s0 (rootMap s c e cut map) := by
  unfold rootMap
  repeat' first
    | with_reducible assumption
    | (with_reducible refine List.Subset.trans ?_ hm); decide
    | with_reducible apply wr_touches
    | with_reducible apply cntUp_touches
    | with_reducible apply updRun_touches
    | with_reducible apply downTake_touches
    | with_reducible apply Touches.foldl
    | with_reducible apply Touches.ite
    | split
    | extract_lets
    | intro _
    | dsimp +zetaDelta only

theorem phaseStep_touches {m : List Part} {s0 s : State} (c : Cell) (e : Nat) (hm : [.mem, .regs, .units, .tx, .cmbs, .tel, .freeCtr] ⊆ m) (h : Touches m s0 s) :
    Touches m s0 (phaseStep s c e) := by
  unfold phaseStep
  repeat' first
    | with_reducible assumption
    | (with_reducible refine List.Subset.trans ?_ hm); decide
    | with_reducible apply setRun_touches
    | with_reducible apply rootMap_touches
    | with_reducible apply rootCounts_touches
    | with_reducible apply updRun_touches
    | with_reducible apply abortHere_touches
    | with_reducible apply Touches.ite
    | split
    | extract_lets
    | intro _
    | dsimp +zetaDelta only

theorem sparseLast_touches {m : List Part} {s0 s : State} (c : Cell) (e : Nat) (r : CRun) (hm : [.mem] ⊆ m) (h : Touches m s0 s) :
    Touches m s0 (sparseLast s c e r) := by
  unfold sparseLast
  repeat' first
    | with_reducible assumption
    | (with_reducible refine List.Subset.trans ?_ hm); decide
    | with_reducible apply putPieces_touches
    | with_reducible apply sramPut_touches
    | with_reducible apply Touches.foldl
    | with_reducible apply Touches.ite
    | split
    | extract_lets
    | intro _
    | dsimp +zetaDelta only

theorem finishStep_touches {m : List Part} {s0 s : State} (c : Cell) (e : Nat) (hm : [.mem, .regs, .units, .cmbs, .tel, .freeCtr] ⊆ m) (h : Touches m s0 s) :
    Touches m s0 (finishStep s c e) := by
  unfold finishStep
  repeat' first
    | with_reducible assumption
    | (with_reducible refine List.Subset.trans ?_ hm); decide
    | with_reducible apply sparseLast_touches
    | with_reducible apply fillFree_touches
    | with_reducible apply goIdle_touches
    | with_reducible apply endColl_touches
    | with_reducible apply Touches.ite
    | split
    | extract_lets
    | intro _
    | dsimp +zetaDelta only

theorem cmIdleGroups_touches {m : List Part} {s0 s : State} (c : Cell) (hm : [.cmbs] ⊆ m) (h : Touches m s0 s) :
    Touches m s0 (cmIdleGroups s c) := by
  unfold cmIdleGroups
  repeat' first
    | with_reducible assumption
    | (with_reducible refine List.Subset.trans ?_ hm); decide
    | with_reducible apply setCmb_touches
    | with_reducible apply Touches.ite
    | split
    | extract_lets
    | intro _
    | dsimp +zetaDelta only

theorem cmSettle_touches {m : List Part} {s0 s : State} (c : Cell) (hm : [.mem, .regs, .units, .tx, .cmbs, .tel, .freeCtr] ⊆ m) (h : Touches m s0 s) :
    Touches m s0 (cmSettle s c) := by
  unfold cmSettle
  repeat' first
    | with_reducible assumption
    | (with_reducible refine List.Subset.trans ?_ hm); decide
    | with_reducible apply finishStep_touches
    | with_reducible apply phaseStep_touches
    | with_reducible apply cmIdleGroups_touches
    | with_reducible apply Touches.foldl
    | with_reducible apply Touches.ite
    | split
    | extract_lets
    | intro _
    | dsimp +zetaDelta only

theorem launchGrants_touches {m : List Part} {s0 s : State} (c : Cell) (e : Nat) (hm : [.tx, .cmbs] ⊆ m) (h : Touches m s0 s) :
    Touches m s0 (launchGrants s c e) := by
  unfold launchGrants
  repeat' first
    | with_reducible assumption
    | (with_reducible refine List.Subset.trans ?_ hm); decide
    | with_reducible apply grant_touches
    | with_reducible apply updRun_touches
    | with_reducible apply Touches.foldl
    | with_reducible apply Touches.ite
    | split
    | extract_lets
    | intro _
    | dsimp +zetaDelta only

theorem takeEarly_touches {m : List Part} {s0 s : State} (c : Cell) (e : Nat) (hm : [.mem, .regs, .units, .tx, .cmbs, .tel, .freeCtr] ⊆ m) (h : Touches m s0 s) :
    Touches m s0 (takeEarly s c e) := by
  unfold takeEarly
  repeat' first
    | with_reducible assumption
    | (with_reducible refine List.Subset.trans ?_ hm); decide
    | with_reducible apply setCent_touches
    | with_reducible apply abortHere_touches
    | with_reducible apply setRun_touches
    | with_reducible apply Touches.foldl
    | with_reducible apply Touches.ite
    | split
    | extract_lets
    | intro _
    | dsimp +zetaDelta only

theorem countRange_touches {m : List Part} {s0 s : State} (c : Cell) (d : BitVec 512) (m_ : Nat) (hm : [.regs] ⊆ m) (h : Touches m s0 s) :
    Touches m s0 (countRange s c d m_) := by
  unfold countRange
  repeat' first
    | with_reducible assumption
    | (with_reducible refine List.Subset.trans ?_ hm); decide
    | with_reducible apply countDrops_touches
    | with_reducible apply Touches.ite
    | split
    | extract_lets
    | intro _
    | dsimp +zetaDelta only

theorem launchLocal_touches {m : List Part} {s0 s : State} (c : Cell) (es : List Nat) (d : BitVec 512) (seq : Nat) (hm : [.regs, .tx, .cmbs] ⊆ m) (h : Touches m s0 s) :
    Touches m s0 (launchLocal s c es d seq) := by
  unfold launchLocal
  repeat' first
    | with_reducible assumption
    | (with_reducible refine List.Subset.trans ?_ hm); decide
    | with_reducible apply takeAborted_touches
    | with_reducible apply setCent_touches
    | with_reducible apply sendAborts_touches
    | with_reducible apply countAbort_touches
    | with_reducible apply Touches.foldl
    | with_reducible apply Touches.ite
    | split
    | extract_lets
    | intro _
    | dsimp +zetaDelta only

theorem launch_touches {m : List Part} {s0 s : State} (c : Cell) (id : Nat) (e : Nat) (es : List Nat) (d : BitVec 512) (hm : [.mem, .regs, .units, .tx, .cmbs, .tel, .freeCtr] ⊆ m) (h : Touches m s0 s) :
    Touches m s0 (launch s c id e es d) := by
  unfold launch
  repeat' first
    | with_reducible assumption
    | (with_reducible refine List.Subset.trans ?_ hm); decide
    | with_reducible apply setRun_touches
    | with_reducible apply updCtx_touches
    | with_reducible apply scrClean_touches
    | with_reducible apply countRange_touches
    | with_reducible apply launchGrants_touches
    | with_reducible apply cmSettle_touches
    | with_reducible apply takeEarly_touches
    | with_reducible apply Touches.foldl
    | with_reducible apply Touches.ite
    | split
    | extract_lets
    | intro _
    | dsimp +zetaDelta only

theorem runColl_touches {m : List Part} {s0 s : State} (c : Cell) (id : Nat) (x : Ctx) (hm : [.mem, .regs, .units, .tx, .cmbs, .tel, .freeCtr] ⊆ m) (h : Touches m s0 s) :
    Touches m s0 (runColl s c id x) := by
  unfold runColl
  repeat' first
    | with_reducible assumption
    | (with_reducible refine List.Subset.trans ?_ hm); decide
    | with_reducible apply endColl_touches
    | with_reducible apply takeAborted_touches
    | with_reducible apply launchLocal_touches
    | with_reducible apply launch_touches
    | with_reducible apply Touches.foldl
    | with_reducible apply Touches.ite
    | split
    | extract_lets
    | intro _
    | dsimp +zetaDelta only

theorem countTiles_touches {m : List Part} {s0 s : State} (c : Cell) (r : CRun) (i : Nat) (hm : [.regs] ⊆ m) (h : Touches m s0 s) :
    Touches m s0 (countTiles s c r i) := by
  unfold countTiles
  repeat' first
    | with_reducible assumption
    | (with_reducible refine List.Subset.trans ?_ hm); decide
    | with_reducible apply cntUp_touches
    | with_reducible apply Touches.ite
    | split
    | extract_lets
    | intro _
    | dsimp +zetaDelta only

theorem chunkRead_touches {m : List Part} {s0 s : State} (c : Cell) (e : Nat) (hm : [.mem, .regs, .units, .tx, .cmbs, .tel, .freeCtr] ⊆ m) (h : Touches m s0 s) :
    Touches m s0 (chunkRead s c e) := by
  unfold chunkRead
  repeat' first
    | with_reducible assumption
    | (with_reducible refine List.Subset.trans ?_ hm); decide
    | with_reducible apply cmSettle_touches
    | with_reducible apply downTake_touches
    | with_reducible apply scrWrote_touches
    | with_reducible apply setRun_touches
    | with_reducible apply countTiles_touches
    | with_reducible apply Touches.ite
    | split
    | extract_lets
    | intro _
    | dsimp +zetaDelta only

theorem noteCounts_touches {m : List Part} {s0 s : State} (c : Cell) (e : Nat) (r : CRun) (i : Nat) (hm : [.mem, .cmbs] ⊆ m) (h : Touches m s0 s) :
    Touches m s0 (noteCounts s c e r i) := by
  unfold noteCounts
  repeat' first
    | with_reducible assumption
    | (with_reducible refine List.Subset.trans ?_ hm); decide
    | with_reducible apply updRun_touches
    | with_reducible apply sramPut_touches
    | with_reducible apply Touches.foldl
    | with_reducible apply Touches.ite
    | split
    | extract_lets
    | intro _
    | dsimp +zetaDelta only

theorem noteMap_touches {m : List Part} {s0 s : State} (c : Cell) (e : Nat) (r : CRun) (i : Nat) (l : List Byte) (hm : [.mem, .cmbs] ⊆ m) (h : Touches m s0 s) :
    Touches m s0 (noteMap s c e r i l) := by
  unfold noteMap
  repeat' first
    | with_reducible assumption
    | (with_reducible refine List.Subset.trans ?_ hm); decide
    | with_reducible apply updRun_touches
    | with_reducible apply sramPut_touches
    | with_reducible apply Touches.foldl
    | with_reducible apply Touches.ite
    | split
    | extract_lets
    | intro _
    | dsimp +zetaDelta only

theorem freeInputs_touches {m : List Part} {s0 s : State} (c : Cell) (e : Nat) (r : CRun) (i : Nat) (hm : [.tx, .cmbs] ⊆ m) (h : Touches m s0 s) :
    Touches m s0 (freeInputs s c e r i) := by
  unfold freeInputs
  repeat' first
    | with_reducible assumption
    | (with_reducible refine List.Subset.trans ?_ hm); decide
    | with_reducible apply updRun_touches
    | with_reducible apply grant_touches
    | with_reducible apply Touches.foldl
    | with_reducible apply Touches.ite
    | split
    | extract_lets
    | intro _
    | dsimp +zetaDelta only

theorem placeResult_touches {m : List Part} {s0 s : State} (c : Cell) (e : Nat) (r : CRun) (i : Nat) (l : List Byte) (hm : [.mem, .tx, .cmbs] ⊆ m) (h : Touches m s0 s) :
    Touches m s0 (placeResult s c e r i l) := by
  unfold placeResult
  repeat' first
    | with_reducible assumption
    | (with_reducible refine List.Subset.trans ?_ hm); decide
    | with_reducible apply updRun_touches
    | with_reducible apply resultLeft_touches
    | with_reducible apply noteMap_touches
    | with_reducible apply writeData_touches
    | with_reducible apply downTake_touches
    | with_reducible apply Touches.ite
    | split
    | extract_lets
    | intro _
    | dsimp +zetaDelta only

theorem combineChunk_touches {m : List Part} {s0 s : State} (c : Cell) (e : Nat) (r : CRun) (i : Nat) (hm : [.mem, .regs, .tx, .cmbs, .tel] ⊆ m) (h : Touches m s0 s) :
    Touches m s0 (combineChunk s c e r i) := by
  unfold combineChunk
  repeat' first
    | with_reducible assumption
    | (with_reducible refine List.Subset.trans ?_ hm); decide
    | with_reducible apply setBits_touches
    | with_reducible apply cntUp_touches
    | with_reducible apply telNi_touches
    | with_reducible apply scrWrote_touches
    | with_reducible apply updRun_touches
    | with_reducible apply noteCounts_touches
    | with_reducible apply placeResult_touches
    | with_reducible apply freeInputs_touches
    | with_reducible apply Touches.ite
    | split
    | extract_lets
    | intro _
    | dsimp +zetaDelta only

theorem chunkCombine_touches {m : List Part} {s0 s : State} (c : Cell) (e : Nat) (ecc : Ecc) (hm : [.mem, .regs, .units, .tx, .cmbs, .tel, .freeCtr] ⊆ m) (h : Touches m s0 s) :
    Touches m s0 (chunkCombine s c e ecc) := by
  unfold chunkCombine
  repeat' first
    | with_reducible assumption
    | (with_reducible refine List.Subset.trans ?_ hm); decide
    | with_reducible apply setCmb_touches
    | with_reducible apply cmSettle_touches
    | with_reducible apply scratch_touches
    | with_reducible apply combineChunk_touches
    | with_reducible apply Touches.ite
    | split
    | extract_lets
    | intro _
    | dsimp +zetaDelta only

theorem finderPass_touches {m : List Part} {s0 s : State} (c : Cell) (e : Nat) (hm : [.mem, .regs, .units, .tx, .cmbs, .tel, .freeCtr] ⊆ m) (h : Touches m s0 s) :
    Touches m s0 (finderPass s c e) := by
  unfold finderPass
  repeat' first
    | with_reducible assumption
    | (with_reducible refine List.Subset.trans ?_ hm); decide
    | with_reducible apply cmSettle_touches
    | with_reducible apply updRun_touches
    | with_reducible apply rootMap_touches
    | with_reducible apply Touches.foldl
    | with_reducible apply Touches.ite
    | split
    | extract_lets
    | intro _
    | dsimp +zetaDelta only

theorem a2aWrites_touches {m : List Part} {s0 s : State} (c : Cell) (e : Nat) (hm : [.mem, .regs, .units, .tx, .cmbs, .tel, .freeCtr] ⊆ m) (h : Touches m s0 s) :
    Touches m s0 (a2aWrites s c e) := by
  unfold a2aWrites
  repeat' first
    | with_reducible assumption
    | (with_reducible refine List.Subset.trans ?_ hm); decide
    | with_reducible apply setRun_touches
    | with_reducible apply cntUp_touches
    | with_reducible apply setBits_touches
    | with_reducible apply cmSettle_touches
    | with_reducible apply updCtx_touches
    | with_reducible apply Touches.ite
    | split
    | extract_lets
    | intro _
    | dsimp +zetaDelta only

theorem collSweep_touches {m : List Part} {s0 s : State} (c : Cell) (hm : [.mem, .regs, .units, .tx, .cmbs, .tel, .freeCtr] ⊆ m) (h : Touches m s0 s) :
    Touches m s0 (collSweep s c) := by
  unfold collSweep
  repeat' first
    | with_reducible assumption
    | (with_reducible refine List.Subset.trans ?_ hm); decide
    | with_reducible apply cmSettle_touches
    | with_reducible apply abortHere_touches
    | with_reducible apply Touches.foldl
    | with_reducible apply Touches.ite
    | split
    | extract_lets
    | intro _
    | dsimp +zetaDelta only

theorem intoUpper_touches {m : List Part} {s0 s : State} (c : Cell) (e : Nat) (f : Nat) (g : CEdge → CEdge) (k : State → State) (hm : [.mem, .regs, .units, .tx, .cmbs, .tel, .freeCtr] ⊆ m) (h : Touches m s0 s) (hk : ∀ (t : State), Touches m s0 t → Touches m s0 (k t)) :
    Touches m s0 (intoUpper s c e f g k) := by
  unfold intoUpper
  repeat' first
    | with_reducible assumption
    | (with_reducible refine List.Subset.trans ?_ hm); decide
    | with_reducible apply intoChain_touches
    | with_reducible apply progress_touches
    | with_reducible apply updRun_touches
    | with_reducible apply hk
    | with_reducible apply Touches.ite
    | split
    | extract_lets
    | intro _
    | dsimp +zetaDelta only

theorem sendUp_touches {m : List Part} {s0 s : State} (c : Cell) (e : Nat) (r : CRun) (ecc : Ecc) (hm : [.mem, .regs, .units, .tx, .cmbs, .tel, .freeCtr] ⊆ m) (h : Touches m s0 s) :
    Touches m s0 (sendUp s c e r ecc) := by
  unfold sendUp
  repeat' first
    | with_reducible assumption
    | (with_reducible refine List.Subset.trans ?_ hm); decide
    | with_reducible apply setRun_touches
    | with_reducible apply intoUpper_touches
    | with_reducible apply cmQueue_touches
    | with_reducible apply scratch_touches
    | with_reducible apply resultLeft_touches
    | with_reducible apply scrWrote_touches
    | with_reducible apply queueData_touches
    | with_reducible apply Touches.ite
    | split
    | extract_lets
    | intro _
    | dsimp +zetaDelta only

theorem sendTok_touches {m : List Part} {s0 s : State} (c : Cell) (e : Nat) (r : CRun) (t : Nat) (p : Nat) (kind : Nat) (hm : [.mem, .regs, .units, .tx, .cmbs, .tel, .freeCtr] ⊆ m) (h : Touches m s0 s) :
    Touches m s0 (sendTok s c e r t p kind) := by
  unfold sendTok
  repeat' first
    | with_reducible assumption
    | (with_reducible refine List.Subset.trans ?_ hm); decide
    | with_reducible apply setRun_touches
    | with_reducible apply intoChain_touches
    | with_reducible apply progress_touches
    | with_reducible apply updRun_touches
    | with_reducible apply cmQueue_touches
    | with_reducible apply Touches.ite
    | split
    | extract_lets
    | intro _
    | dsimp +zetaDelta only

theorem sendItem_touches {m : List Part} {s0 s : State} (c : Cell) (e : Nat) (r : CRun) (t : Nat) (x : CItem) (hm : [.mem, .regs, .units, .tx, .cmbs, .tel, .freeCtr] ⊆ m) (h : Touches m s0 s) :
    Touches m s0 (sendItem s c e r t x) := by
  unfold sendItem
  repeat' first
    | with_reducible assumption
    | (with_reducible refine List.Subset.trans ?_ hm); decide
    | with_reducible apply setRun_touches
    | with_reducible apply intoChain_touches
    | with_reducible apply progress_touches
    | with_reducible apply updRun_touches
    | with_reducible apply downTake_touches
    | with_reducible apply scrWrote_touches
    | with_reducible apply queueData_touches
    | with_reducible apply itemFree_touches
    | with_reducible apply Touches.ite
    | split
    | extract_lets
    | intro _
    | dsimp +zetaDelta only

theorem sendDown_touches {m : List Part} {s0 s : State} (c : Cell) (e : Nat) (r : CRun) (t : Nat) (ecc : Ecc) (hm : [.mem, .regs, .units, .tx, .cmbs, .tel, .freeCtr] ⊆ m) (h : Touches m s0 s) :
    Touches m s0 (sendDown s c e r t ecc) := by
  unfold sendDown
  repeat' first
    | with_reducible assumption
    | (with_reducible refine List.Subset.trans ?_ hm); decide
    | with_reducible apply sendTok_touches
    | with_reducible apply scratch_touches
    | with_reducible apply sendItem_touches
    | with_reducible apply Touches.ite
    | split
    | extract_lets
    | intro _
    | dsimp +zetaDelta only

theorem chunkSend_touches {m : List Part} {s0 s : State} (c : Cell) (e : Nat) (edge : Edge) (ecc : Ecc) (hm : [.mem, .regs, .units, .tx, .cmbs, .tel, .freeCtr] ⊆ m) (h : Touches m s0 s) :
    Touches m s0 (chunkSend s c e edge ecc) := by
  unfold chunkSend
  repeat' first
    | with_reducible assumption
    | (with_reducible refine List.Subset.trans ?_ hm); decide
    | with_reducible apply cmSettle_touches
    | with_reducible apply sendUp_touches
    | with_reducible apply sendDown_touches
    | with_reducible apply Touches.ite
    | split
    | extract_lets
    | intro _
    | dsimp +zetaDelta only

theorem dropLate_touches {m : List Part} {s0 s : State} (c : Cell) (hm : [.regs] ⊆ m) (h : Touches m s0 s) :
    Touches m s0 (dropLate s c) := by
  unfold dropLate
  repeat' first
    | with_reducible assumption
    | (with_reducible refine List.Subset.trans ?_ hm); decide
    | with_reducible apply setBits_touches
    | with_reducible apply cntUp_touches
    | with_reducible apply Touches.ite
    | split
    | extract_lets
    | intro _
    | dsimp +zetaDelta only

theorem protocolErr_touches {m : List Part} {s0 s : State} (c : Cell) (e : Nat) (hm : [.mem, .regs, .units, .tx, .cmbs, .tel, .freeCtr] ⊆ m) (h : Touches m s0 s) :
    Touches m s0 (protocolErr s c e) := by
  unfold protocolErr
  repeat' first
    | with_reducible assumption
    | (with_reducible refine List.Subset.trans ?_ hm); decide
    | with_reducible apply abortHere_touches
    | with_reducible apply Touches.ite
    | split
    | extract_lets
    | intro _
    | dsimp +zetaDelta only

theorem dataLand_touches {m : List Part} {s0 s : State} (c : Cell) (e : Nat) (r : CRun) (k : Nat) (p : RxPkt) (ecc : Ecc) (hm : [.mem, .regs, .units, .tx, .cmbs, .tel, .freeCtr] ⊆ m) (h : Touches m s0 s) :
    Touches m s0 (dataLand s c e r k p ecc) := by
  unfold dataLand
  repeat' first
    | with_reducible assumption
    | (with_reducible refine List.Subset.trans ?_ hm); decide
    | with_reducible apply protocolErr_touches
    | with_reducible apply progress_touches
    | with_reducible apply scrWrote_touches
    | with_reducible apply setRun_touches
    | with_reducible apply abortHere_touches
    | with_reducible apply updRun_touches
    | with_reducible apply downTake_touches
    | with_reducible apply scratch_touches
    | with_reducible apply Touches.ite
    | split
    | extract_lets
    | intro _
    | dsimp +zetaDelta only

theorem currentChunk_touches {m : List Part} {s0 s : State} (c : Cell) (e : Nat) (r : CRun) (p : RxPkt) (ecc : Ecc) (hm : [.mem, .regs, .units, .tx, .cmbs, .tel, .freeCtr] ⊆ m) (h : Touches m s0 s) :
    Touches m s0 (currentChunk s c e r p ecc) := by
  unfold currentChunk
  repeat' first
    | with_reducible assumption
    | (with_reducible refine List.Subset.trans ?_ hm); decide
    | with_reducible apply abortInst_touches
    | with_reducible apply protocolErr_touches
    | with_reducible apply dataLand_touches
    | with_reducible apply progress_touches
    | with_reducible apply setRun_touches
    | with_reducible apply Touches.ite
    | split
    | extract_lets
    | intro _
    | dsimp +zetaDelta only

theorem chunkArrive.earlyTake_touches {m : List Part} {s0 s : State} (c : Cell) (e : Nat) (h_ : Payload) (seq : Nat) (src : Option Nat) (hm : [.tx, .cmbs] ⊆ m) (h : Touches m s0 s) :
    Touches m s0 (chunkArrive.earlyTake s c e h_ seq src) := by
  unfold chunkArrive.earlyTake
  repeat' first
    | with_reducible assumption
    | (with_reducible refine List.Subset.trans ?_ hm); decide
    | with_reducible apply earlyAbort_touches
    | with_reducible apply setCent_touches
    | with_reducible apply Touches.ite
    | split
    | extract_lets
    | intro _
    | dsimp +zetaDelta only

theorem chunkArrive_touches {m : List Part} {s0 s : State} (c : Cell) (p : RxPkt) (ecc : Ecc) (hm : [.mem, .regs, .units, .tx, .cmbs, .tel, .freeCtr] ⊆ m) (h : Touches m s0 s) :
    Touches m s0 (chunkArrive s c p ecc) := by
  unfold chunkArrive
  repeat' first
    | with_reducible assumption
    | (with_reducible refine List.Subset.trans ?_ hm); decide
    | with_reducible apply setBits_touches
    | with_reducible apply cntUp_touches
    | with_reducible apply abortHere_touches
    | with_reducible apply currentChunk_touches
    | with_reducible apply chunkArrive.earlyTake_touches
    | with_reducible apply dropLate_touches
    | with_reducible apply earlyAbort_touches
    | with_reducible apply countAbort_touches
    | with_reducible apply Touches.ite
    | split
    | extract_lets
    | intro _
    | dsimp +zetaDelta only

theorem reservedChunk_touches {m : List Part} {s0 s : State} (c : Cell) (p : RxPkt) (hm : [.mem, .regs, .units, .tx, .cmbs, .tel, .freeCtr] ⊆ m) (h : Touches m s0 s) :
    Touches m s0 (reservedChunk s c p) := by
  unfold reservedChunk
  repeat' first
    | with_reducible assumption
    | (with_reducible refine List.Subset.trans ?_ hm); decide
    | with_reducible apply setBits_touches
    | with_reducible apply protocolErr_touches
    | with_reducible apply Touches.ite
    | split
    | extract_lets
    | intro _
    | dsimp +zetaDelta only

theorem takeChunk_touches {m : List Part} {s0 s : State} (c : Cell) (kinds : List Nat) (ecc : Ecc) (hm : [.mem, .regs, .units, .tx, .cmbs, .tel, .freeCtr] ⊆ m) (h : Touches m s0 s) :
    Touches m s0 (takeChunk s c kinds ecc) := by
  unfold takeChunk
  repeat' first
    | with_reducible assumption
    | (with_reducible refine List.Subset.trans ?_ hm); decide
    | with_reducible apply setCmb_touches
    | with_reducible apply cntUp_touches
    | with_reducible apply cmSettle_touches
    | with_reducible apply reservedChunk_touches
    | with_reducible apply chunkArrive_touches
    | with_reducible apply Touches.ite
    | split
    | extract_lets
    | intro _
    | dsimp +zetaDelta only

theorem progressTimeout_touches {m : List Part} {s0 s : State} (c : Cell) (e : Nat) (hm : [.mem, .regs, .units, .tx, .cmbs, .tel, .freeCtr] ⊆ m) (h : Touches m s0 s) :
    Touches m s0 (progressTimeout s c e) := by
  unfold progressTimeout
  repeat' first
    | with_reducible assumption
    | (with_reducible refine List.Subset.trans ?_ hm); decide
    | with_reducible apply cmSettle_touches
    | with_reducible apply abortHere_touches
    | with_reducible apply Touches.ite
    | split
    | extract_lets
    | intro _
    | dsimp +zetaDelta only

theorem swAbort_touches {m : List Part} {s0 s : State} (c : Cell) (e : Nat) (hm : [.mem, .regs, .units, .tx, .cmbs, .tel, .freeCtr] ⊆ m) (h : Touches m s0 s) :
    Touches m s0 (swAbort s c e) := by
  unfold swAbort
  repeat' first
    | with_reducible assumption
    | (with_reducible refine List.Subset.trans ?_ hm); decide
    | with_reducible apply cmSettle_touches
    | with_reducible apply abortHere_touches
    | with_reducible apply Touches.ite
    | split
    | extract_lets
    | intro _
    | dsimp +zetaDelta only

theorem lostWafer_touches {m : List Part} {s0 s : State} (c : Cell) (wafer : Nat) (hm : [.mem, .regs, .units, .tx, .cmbs, .tel, .freeCtr] ⊆ m) (h : Touches m s0 s) :
    Touches m s0 (lostWafer s c wafer) := by
  unfold lostWafer
  repeat' first
    | with_reducible assumption
    | (with_reducible refine List.Subset.trans ?_ hm); decide
    | with_reducible apply cmSettle_touches
    | with_reducible apply abortHere_touches
    | with_reducible apply Touches.foldl
    | with_reducible apply Touches.ite
    | split
    | extract_lets
    | intro _
    | dsimp +zetaDelta only

theorem chunkNoPath_touches {m : List Part} {s0 s : State} (c : Cell) (z : TxPkt) (hm : [.mem, .regs, .units, .tx, .cmbs, .tel, .freeCtr] ⊆ m) (h : Touches m s0 s) :
    Touches m s0 (chunkNoPath s c z) := by
  unfold chunkNoPath
  repeat' first
    | with_reducible assumption
    | (with_reducible refine List.Subset.trans ?_ hm); decide
    | with_reducible apply abortHere_touches
    | with_reducible apply Touches.ite
    | split
    | extract_lets
    | intro _
    | dsimp +zetaDelta only

theorem cmbAfter_touches {m : List Part} {s0 s : State} {t : State} (c : Cell) (hm : [.mem, .regs, .units, .tx, .cmbs, .tel, .freeCtr] ⊆ m) (h : Touches m s0 s) (ht : Touches m s0 t) :
    Touches m s0 (cmbAfter s t c) := by
  unfold cmbAfter
  repeat' first
    | with_reducible assumption
    | (with_reducible refine List.Subset.trans ?_ hm); decide
    | with_reducible apply cmSettle_touches
    | with_reducible apply resultLeft_touches
    | with_reducible apply setRun_touches
    | with_reducible apply itemFree_touches
    | with_reducible apply ht
    | with_reducible apply Touches.ite
    | split
    | extract_lets
    | intro _
    | dsimp +zetaDelta only

end Sys2Proof.Machine
end

