-- ==== Sys2Proof/Laws/FrameFaults.lean ====
section
/-! SUPPORT. What each operation of Sys2Proof/Machine/Faults.lean may change: the parts of the state that it touches. -/

namespace Sys2Proof.Machine

theorem dropPins_touches {m : List Part} {s0 s : State}  (hm : [.flt] ⊆ m) (h : Touches m s0 s) :
    Touches m s0 (dropPins s) := by
  unfold dropPins
  repeat' first
    | with_reducible assumption
    | (with_reducible refine List.Subset.trans ?_ hm); decide
    | with_reducible apply Touches.ite
    | split
    | extract_lets
    | intro _
    | dsimp +zetaDelta only
    | with_reducible apply Touches.set_flt

theorem setStat_touches {m : List Part} {s0 s : State} (d : Nat) (cls : Nat) (hm : [.regs] ⊆ m) (h : Touches m s0 s) :
    Touches m s0 (setStat s d cls) := by
  unfold setStat
  repeat' first
    | with_reducible assumption
    | (with_reducible refine List.Subset.trans ?_ hm); decide
    | with_reducible apply setBits_touches
    | with_reducible apply Touches.ite
    | split
    | extract_lets
    | intro _
    | dsimp +zetaDelta only

theorem refreshStat_touches {m : List Part} {s0 s : State}  (hm : [.regs] ⊆ m) (h : Touches m s0 s) :
    Touches m s0 (refreshStat s) := by
  unfold refreshStat
  repeat' first
    | with_reducible assumption
    | (with_reducible refine List.Subset.trans ?_ hm); decide
    | with_reducible apply setStat_touches
    | with_reducible apply Touches.foldl
    | with_reducible apply Touches.ite
    | split
    | extract_lets
    | intro _
    | dsimp +zetaDelta only

theorem topTake_touches {m : List Part} {s0 s : State} (r : Report) (hm : [.regs, .flt] ⊆ m) (h : Touches m s0 s) :
    Touches m s0 (topTake s r) := by
  unfold topTake
  repeat' first
    | with_reducible assumption
    | (with_reducible refine List.Subset.trans ?_ hm); decide
    | with_reducible apply wr_touches
    | with_reducible apply setBits_touches
    | with_reducible apply Touches.ite
    | split
    | extract_lets
    | intro _
    | dsimp +zetaDelta only
    | with_reducible apply Touches.set_flt

theorem report_touches {m : List Part} {s0 s : State} (r : Report) (hm : [.regs, .flt] ⊆ m) (h : Touches m s0 s) :
    Touches m s0 (report s r) := by
  unfold report
  repeat' first
    | with_reducible assumption
    | (with_reducible refine List.Subset.trans ?_ hm); decide
    | with_reducible apply topTake_touches
    | with_reducible apply setBits_touches
    | with_reducible apply cntUp_touches
    | with_reducible apply Touches.ite
    | split
    | extract_lets
    | intro _
    | dsimp +zetaDelta only
    | with_reducible apply Touches.set_flt

theorem errorPinRise_touches {m : List Part} {s0 s : State} (d : Nat) (cell : Nat) (cls : Nat) (hm : [.regs, .flt] ⊆ m) (h : Touches m s0 s) :
    Touches m s0 (errorPinRise s d cell cls) := by
  unfold errorPinRise
  repeat' first
    | with_reducible assumption
    | (with_reducible refine List.Subset.trans ?_ hm); decide
    | with_reducible apply dropPins_touches
    | with_reducible apply report_touches
    | with_reducible apply setStat_touches
    | with_reducible apply Touches.ite
    | split
    | extract_lets
    | intro _
    | dsimp +zetaDelta only
    | with_reducible apply Touches.set_flt

theorem reportAccept_touches {m : List Part} {s0 s : State} (d : Nat) (hm : [.regs, .flt] ⊆ m) (h : Touches m s0 s) :
    Touches m s0 (reportAccept s d) := by
  unfold reportAccept
  repeat' first
    | with_reducible assumption
    | (with_reducible refine List.Subset.trans ?_ hm); decide
    | with_reducible apply topTake_touches
    | with_reducible apply Touches.ite
    | split
    | extract_lets
    | intro _
    | dsimp +zetaDelta only
    | with_reducible apply Touches.set_flt

theorem logWrite_touches {m : List Part} {s0 s : State}  (hm : [.regs, .flt] ⊆ m) (h : Touches m s0 s) :
    Touches m s0 (logWrite s) := by
  unfold logWrite
  repeat' first
    | with_reducible assumption
    | (with_reducible refine List.Subset.trans ?_ hm); decide
    | with_reducible apply cntUp_touches
    | with_reducible apply wr_touches
    | with_reducible apply Touches.ite
    | split
    | extract_lets
    | intro _
    | dsimp +zetaDelta only
    | with_reducible apply Touches.set_flt

theorem logRead_touches {m : List Part} {s0 s : State} (v : Word) (hm : [.regs] ⊆ m) (h : Touches m s0 s) :
    Touches m s0 (logRead s v) := by
  unfold logRead
  repeat' first
    | with_reducible assumption
    | (with_reducible refine List.Subset.trans ?_ hm); decide
    | with_reducible apply wr_touches
    | with_reducible apply setBits_touches
    | with_reducible apply Touches.ite
    | split
    | extract_lets
    | intro _
    | dsimp +zetaDelta only

theorem injectGo_touches {m : List Part} {s0 s : State}  (hm : [.regs, .flt] ⊆ m) (h : Touches m s0 s) :
    Touches m s0 (injectGo s) := by
  unfold injectGo
  repeat' first
    | with_reducible assumption
    | (with_reducible refine List.Subset.trans ?_ hm); decide
    | with_reducible apply setBits_touches
    | with_reducible apply Touches.ite
    | split
    | extract_lets
    | intro _
    | dsimp +zetaDelta only
    | with_reducible apply Touches.set_flt

theorem injDone_touches {m : List Part} {s0 s : State}  (hm : [.regs, .flt] ⊆ m) (h : Touches m s0 s) :
    Touches m s0 (injDone s) := by
  unfold injDone
  repeat' first
    | with_reducible assumption
    | (with_reducible refine List.Subset.trans ?_ hm); decide
    | with_reducible apply cntUp_touches
    | with_reducible apply Touches.ite
    | split
    | extract_lets
    | intro _
    | dsimp +zetaDelta only
    | with_reducible apply Touches.set_flt

theorem injLink_touches {m : List Part} {s0 s : State} (e : EndRef) (flips : BitVec 568) (hm : [.links] ⊆ m) (h : Touches m s0 s) :
    TouchesOpt m s0 (fun x => x) (injLink s e flips) := by
  unfold injLink
  repeat' first
    | with_reducible apply touchesOpt_map
    | with_reducible apply touchesOpt_none
    | with_reducible apply touchesOpt_some
    | with_reducible assumption
    | (with_reducible refine List.Subset.trans ?_ hm); decide
    | with_reducible apply updLink_touches
    | with_reducible apply Touches.ite
    | split
    | extract_lets
    | intro _
    | dsimp +zetaDelta only

theorem injLink_touches_eq {m : List Part} {s0 s s1 : State} (e : EndRef) (flips : BitVec 568) (he : injLink s e flips = some s1) (hm : [.links] ⊆ m) (h : Touches m s0 s) :
    Touches m s0 s1 :=
  injLink_touches e flips hm h  _ he

theorem injBuf_touches {m : List Part} {s0 s : State} (c : Cell) (p : Nat) (n : Nat) (hm : [.routers] ⊆ m) (h : Touches m s0 s) :
    TouchesOpt m s0 (fun x => x) (injBuf s c p n) := by
  unfold injBuf
  repeat' first
    | with_reducible apply touchesOpt_map
    | with_reducible apply touchesOpt_none
    | with_reducible apply touchesOpt_some
    | with_reducible assumption
    | (with_reducible refine List.Subset.trans ?_ hm); decide
    | with_reducible apply setVcIn_touches
    | with_reducible apply Touches.ite
    | split
    | extract_lets
    | intro _
    | dsimp +zetaDelta only

theorem injBuf_touches_eq {m : List Part} {s0 s s1 : State} (c : Cell) (p : Nat) (n : Nat) (he : injBuf s c p n = some s1) (hm : [.routers] ⊆ m) (h : Touches m s0 s) :
    Touches m s0 s1 :=
  injBuf_touches c p n hm h  _ he

theorem injLast_touches {m : List Part} {s0 s : State} (c : Cell) (n : Nat) (hm : [.units] ⊆ m) (h : Touches m s0 s) :
    TouchesOpt m s0 (fun x => x) (injLast s c n) := by
  unfold injLast
  repeat' first
    | with_reducible apply touchesOpt_map
    | with_reducible apply touchesOpt_none
    | with_reducible apply touchesOpt_some
    | with_reducible assumption
    | (with_reducible refine List.Subset.trans ?_ hm); decide
    | with_reducible apply updUnit_touches
    | with_reducible apply Touches.ite
    | split
    | extract_lets
    | intro _
    | dsimp +zetaDelta only

theorem injLast_touches_eq {m : List Part} {s0 s s1 : State} (c : Cell) (n : Nat) (he : injLast s c n = some s1) (hm : [.units] ⊆ m) (h : Touches m s0 s) :
    Touches m s0 s1 :=
  injLast_touches c n hm h  _ he

theorem injScratch_touches {m : List Part} {s0 s : State} (c : Cell) (n : Nat) (hm : [.cmbs] ⊆ m) (h : Touches m s0 s) :
    Touches m s0 (injScratch s c n) := by
  unfold injScratch
  repeat' first
    | with_reducible assumption
    | (with_reducible refine List.Subset.trans ?_ hm); decide
    | with_reducible apply setCmb_touches
    | with_reducible apply Touches.ite
    | split
    | extract_lets
    | intro _
    | dsimp +zetaDelta only

theorem injChunk_touches {m : List Part} {s0 s : State} (c : Cell) (hm : [.tx] ⊆ m) (h : Touches m s0 s) :
    TouchesOpt m s0 (fun x => x) (injChunk s c) := by
  unfold injChunk
  repeat' first
    | with_reducible apply touchesOpt_map
    | with_reducible apply touchesOpt_none
    | with_reducible apply touchesOpt_some
    | with_reducible assumption
    | (with_reducible refine List.Subset.trans ?_ hm); decide
    | with_reducible apply setTxEnd_touches
    | with_reducible apply Touches.ite
    | split
    | extract_lets
    | intro _
    | dsimp +zetaDelta only

theorem injChunk_touches_eq {m : List Part} {s0 s s1 : State} (c : Cell) (he : injChunk s c = some s1) (hm : [.tx] ⊆ m) (h : Touches m s0 s) :
    Touches m s0 s1 :=
  injChunk_touches c hm h  _ he

theorem injCw_touches {m : List Part} {s0 s : State} (tgt : Word) (hm : [.gws] ⊆ m) (h : Touches m s0 s) :
    TouchesOpt m s0 (fun x => x) (injCw s tgt) := by
  unfold injCw
  repeat' first
    | with_reducible apply touchesOpt_map
    | with_reducible apply touchesOpt_none
    | with_reducible apply touchesOpt_some
    | with_reducible assumption
    | (with_reducible refine List.Subset.trans ?_ hm); decide
    | with_reducible apply updOpt_touches
    | with_reducible apply Touches.ite
    | split
    | extract_lets
    | intro _
    | dsimp +zetaDelta only

theorem injCw_touches_eq {m : List Part} {s0 s s1 : State} (tgt : Word) (he : injCw s tgt = some s1) (hm : [.gws] ⊆ m) (h : Touches m s0 s) :
    Touches m s0 s1 :=
  injCw_touches tgt hm h  _ he

theorem injFire_touches {m : List Part} {s0 s : State}  (hm : [.regs, .links, .routers, .units, .tx, .cmbs, .gws, .flt] ⊆ m) (h : Touches m s0 s) :
    TouchesOpt m s0 (fun x => x) (injFire s) := by
  unfold injFire
  repeat' first
    | with_reducible apply touchesOpt_map
    | with_reducible apply touchesOpt_none
    | with_reducible apply touchesOpt_some
    | with_reducible assumption
    | (with_reducible refine List.Subset.trans ?_ hm); decide
    | with_reducible apply report_touches
    | with_reducible apply injScratch_touches
    | (with_reducible apply injLink_touches_eq); with_reducible assumption
    | (with_reducible apply injBuf_touches_eq); with_reducible assumption
    | (with_reducible apply injLast_touches_eq); with_reducible assumption
    | (with_reducible apply injChunk_touches_eq); with_reducible assumption
    | (with_reducible apply injCw_touches_eq); with_reducible assumption
    | with_reducible apply Touches.ite
    | split
    | extract_lets
    | intro _
    | dsimp +zetaDelta only

theorem injFire_touches_eq {m : List Part} {s0 s s1 : State}  (he : injFire s = some s1) (hm : [.regs, .links, .routers, .units, .tx, .cmbs, .gws, .flt] ⊆ m) (h : Touches m s0 s) :
    Touches m s0 s1 :=
  injFire_touches  hm h  _ he

theorem injectFire_touches {m : List Part} {s0 s : State}  (hm : [.regs, .links, .routers, .units, .tx, .cmbs, .gws, .flt] ⊆ m) (h : Touches m s0 s) :
    Touches m s0 (injectFire s) := by
  unfold injectFire
  repeat' first
    | with_reducible assumption
    | (with_reducible refine List.Subset.trans ?_ hm); decide
    | with_reducible apply injDone_touches
    | (with_reducible apply injFire_touches_eq); with_reducible assumption
    | with_reducible apply Touches.ite
    | split
    | extract_lets
    | intro _
    | dsimp +zetaDelta only

theorem snapshotGo_touches {m : List Part} {s0 s : State}  (hm : [.regs, .tel] ⊆ m) (h : Touches m s0 s) :
    Touches m s0 (snapshotGo s) := by
  unfold snapshotGo
  repeat' first
    | with_reducible assumption
    | (with_reducible refine List.Subset.trans ?_ hm); decide
    | with_reducible apply setBits_touches
    | with_reducible apply wr_touches
    | with_reducible apply Touches.ite
    | split
    | extract_lets
    | intro _
    | dsimp +zetaDelta only
    | with_reducible apply Touches.set_tel

theorem snapshotCopy_touches {m : List Part} {s0 s : State} (d : Nat) (hm : [.doms, .tel] ⊆ m) (h : Touches m s0 s) :
    Touches m s0 (snapshotCopy s d) := by
  unfold snapshotCopy
  repeat' first
    | with_reducible assumption
    | (with_reducible refine List.Subset.trans ?_ hm); decide
    | with_reducible apply snapTake_touches
    | with_reducible apply Touches.ite
    | split
    | extract_lets
    | intro _
    | dsimp +zetaDelta only

theorem snapshotBusyEnd_touches {m : List Part} {s0 s : State}  (hm : [.tel] ⊆ m) (h : Touches m s0 s) :
    Touches m s0 (snapshotBusyEnd s) := by
  unfold snapshotBusyEnd
  repeat' first
    | with_reducible assumption
    | (with_reducible refine List.Subset.trans ?_ hm); decide
    | with_reducible apply Touches.ite
    | split
    | extract_lets
    | intro _
    | dsimp +zetaDelta only
    | with_reducible apply Touches.set_tel

end Sys2Proof.Machine
end

