-- ==== Sys2Proof/Laws/FrameRouter.lean ====
section
/-! SUPPORT. What each operation of Sys2Proof/Machine/Router.lean may change: the parts of the state that it touches. -/

namespace Sys2Proof.Machine

theorem settle_touches {m : List Part} {s0 s : State} (c : Cell) (p : Fin 7) (v : Nat) (u : Cur) (z : List VcFlit) (hm : [.links, .routers] ⊆ m) (h : Touches m s0 s) :
    Touches m s0 (settle s c p v u z) := by
  induction z generalizing s u with
  | nil =>
    unfold settle
    repeat' first
      | with_reducible assumption
      | (with_reducible refine List.Subset.trans ?_ hm); decide
      | with_reducible apply setVcIn_touches
      | with_reducible apply oweCredit_touches
      | with_reducible apply residAdd_touches
      | with_reducible apply setRouter_touches
      | with_reducible apply Touches.ite
      | split
      | extract_lets
      | intro _
      | dsimp +zetaDelta only
  | cons f r ih =>
    unfold settle
    repeat' first
      | with_reducible apply ih
      | with_reducible assumption
      | (with_reducible refine List.Subset.trans ?_ hm); decide
      | with_reducible apply setVcIn_touches
      | with_reducible apply oweCredit_touches
      | with_reducible apply residAdd_touches
      | with_reducible apply setRouter_touches
      | with_reducible apply Touches.ite
      | split
      | extract_lets
      | intro _
      | dsimp +zetaDelta only

theorem settleVc_touches {m : List Part} {s0 s : State} (c : Cell) (p : Fin 7) (v : Nat) (hm : [.links, .routers] ⊆ m) (h : Touches m s0 s) :
    Touches m s0 (settleVc s c p v) := by
  unfold settleVc
  repeat' first
    | with_reducible assumption
    | (with_reducible refine List.Subset.trans ?_ hm); decide
    | with_reducible apply settle_touches
    | with_reducible apply Touches.ite
    | split
    | extract_lets
    | intro _
    | dsimp +zetaDelta only

theorem settleAll_touches {m : List Part} {s0 s : State} (c : Cell) (hm : [.links, .routers] ⊆ m) (h : Touches m s0 s) :
    Touches m s0 (settleAll s c) := by
  unfold settleAll
  repeat' first
    | with_reducible assumption
    | (with_reducible refine List.Subset.trans ?_ hm); decide
    | with_reducible apply settleVc_touches
    | with_reducible apply Touches.foldl
    | with_reducible apply Touches.ite
    | split
    | extract_lets
    | intro _
    | dsimp +zetaDelta only

theorem hwmIn_touches {m : List Part} {s0 s : State} (c : Cell) (p : Nat) (v : Nat) (hm : [.regs] ⊆ m) (h : Touches m s0 s) :
    Touches m s0 (hwmIn s c p v) := by
  unfold hwmIn
  repeat' first
    | with_reducible assumption
    | (with_reducible refine List.Subset.trans ?_ hm); decide
    | with_reducible apply maxUp_touches
    | with_reducible apply Touches.ite
    | split
    | extract_lets
    | intro _
    | dsimp +zetaDelta only

theorem bufWord_touches {m : List Part} {s0 s : State} (c : Cell) (p : Nat) (v : Nat) (y : VcIn) (hm : [.routers] ⊆ m) (h : Touches m s0 s) :
    Touches m s0 (bufWord s c p v y) := by
  unfold bufWord
  repeat' first
    | with_reducible assumption
    | (with_reducible refine List.Subset.trans ?_ hm); decide
    | with_reducible apply setRport_touches
    | with_reducible apply Touches.ite
    | split
    | extract_lets
    | intro _
    | dsimp +zetaDelta only

theorem routerTake_touches {m : List Part} {s0 s : State} (c : Cell) (p : Fin 7) (v : Nat) (ty : Nat) (pay : Payload) (hm : [.regs, .links, .routers] ⊆ m) (h : Touches m s0 s) :
    Touches m s0 (routerTake s c p v ty pay) := by
  unfold routerTake
  repeat' first
    | with_reducible assumption
    | (with_reducible refine List.Subset.trans ?_ hm); decide
    | with_reducible apply portErr_touches
    | with_reducible apply bufWord_touches
    | with_reducible apply settleVc_touches
    | with_reducible apply hwmIn_touches
    | with_reducible apply residAdd_touches
    | with_reducible apply oweCredit_touches
    | with_reducible apply Touches.ite
    | split
    | extract_lets
    | intro _
    | dsimp +zetaDelta only

theorem claimAll_touches {m : List Part} {s0 s : State} (c : Cell) (p : Nat) (v : Nat) (z : List Copy) (hm : [.routers] ⊆ m) (h : Touches m s0 s) :
    Touches m s0 (claimAll s c p v z) := by
  induction z generalizing s  with
  | nil =>
    unfold claimAll
    repeat' first
      | with_reducible assumption
      | (with_reducible refine List.Subset.trans ?_ hm); decide
      | with_reducible apply setRport_touches
      | with_reducible apply setVcIn_touches
      | with_reducible apply Touches.ite
      | split
      | extract_lets
      | intro _
      | dsimp +zetaDelta only
  | cons f r ih =>
    unfold claimAll
    repeat' first
      | with_reducible apply ih
      | with_reducible assumption
      | (with_reducible refine List.Subset.trans ?_ hm); decide
      | with_reducible apply setRport_touches
      | with_reducible apply setVcIn_touches
      | with_reducible apply Touches.ite
      | split
      | extract_lets
      | intro _
      | dsimp +zetaDelta only

theorem discardOff_touches {m : List Part} {s0 s : State} (c : Cell) (p : Nat) (v : Nat) (hm : [.regs, .routers] ⊆ m) (h : Touches m s0 s) :
    Touches m s0 (discardOff s c p v) := by
  unfold discardOff
  repeat' first
    | with_reducible assumption
    | (with_reducible refine List.Subset.trans ?_ hm); decide
    | with_reducible apply cntUp_touches
    | with_reducible apply setVcIn_touches
    | with_reducible apply Touches.ite
    | split
    | extract_lets
    | intro _
    | dsimp +zetaDelta only

theorem countEcc_touches {m : List Part} {s0 s : State} (c : Cell) (e : Ecc) (header : Bool) (hm : [.regs] ⊆ m) (h : Touches m s0 s) :
    Touches m s0 (countEcc s c e header) := by
  unfold countEcc
  repeat' first
    | with_reducible assumption
    | (with_reducible refine List.Subset.trans ?_ hm); decide
    | with_reducible apply setBits_touches
    | with_reducible apply cntUp_touches
    | with_reducible apply Touches.ite
    | split
    | extract_lets
    | intro _
    | dsimp +zetaDelta only

theorem routeHead_touches {m : List Part} {s0 s : State} (c : Cell) (p : Fin 7) (v : Nat) (hm : [.regs, .routers] ⊆ m) (h : Touches m s0 s) :
    Touches m s0 (routeHead s c p v) := by
  unfold routeHead
  repeat' first
    | with_reducible assumption
    | (with_reducible refine List.Subset.trans ?_ hm); decide
    | with_reducible apply countEcc_touches
    | with_reducible apply setVcIn_touches
    | with_reducible apply setBits_touches
    | with_reducible apply cntUp_touches
    | with_reducible apply Touches.ite
    | split
    | extract_lets
    | intro _
    | dsimp +zetaDelta only

theorem headerAllocate_touches {m : List Part} {s0 s : State} (c : Cell) (p : Fin 7) (v : Nat) (hm : [.regs, .links, .routers] ⊆ m) (h : Touches m s0 s) :
    Touches m s0 (headerAllocate s c p v) := by
  unfold headerAllocate
  repeat' first
    | with_reducible assumption
    | (with_reducible refine List.Subset.trans ?_ hm); decide
    | with_reducible apply discardOff_touches
    | with_reducible apply routeHead_touches
    | with_reducible apply claimAll_touches
    | with_reducible apply settleVc_touches
    | with_reducible apply Touches.ite
    | split
    | extract_lets
    | intro _
    | dsimp +zetaDelta only

theorem countGrant_touches {m : List Part} {s0 s : State} (c : Cell) (out : Nat) (f : VcFlit) (h_ : Payload) (hm : [.tel] ⊆ m) (h : Touches m s0 s) :
    Touches m s0 (countGrant s c out f h_) := by
  unfold countGrant
  repeat' first
    | with_reducible assumption
    | (with_reducible refine List.Subset.trans ?_ hm); decide
    | with_reducible apply telPort_touches
    | with_reducible apply Touches.ite
    | split
    | extract_lets
    | intro _
    | dsimp +zetaDelta only

theorem countOut_touches {m : List Part} {s0 s : State} (c : Cell) (out : Nat) (ep : Nat) (f : VcFlit) (hm : [.routers] ⊆ m) (h : Touches m s0 s) :
    Touches m s0 (countOut s c out ep f) := by
  unfold countOut
  repeat' first
    | with_reducible assumption
    | (with_reducible refine List.Subset.trans ?_ hm); decide
    | with_reducible apply residAdd_touches
    | with_reducible apply Touches.ite
    | split
    | extract_lets
    | intro _
    | dsimp +zetaDelta only

theorem loseHeader_touches {m : List Part} {s0 s : State} (c : Cell) (p : Fin 7) (v : Nat) (hm : [.regs, .links, .routers] ⊆ m) (h : Touches m s0 s) :
    Touches m s0 (loseHeader s c p v) := by
  unfold loseHeader
  repeat' first
    | with_reducible assumption
    | (with_reducible refine List.Subset.trans ?_ hm); decide
    | with_reducible apply settleVc_touches
    | with_reducible apply countEcc_touches
    | with_reducible apply setVcIn_touches
    | with_reducible apply Touches.ite
    | split
    | extract_lets
    | intro _
    | dsimp +zetaDelta only

theorem countStall_touches {m : List Part} {s0 s : State} (e : EndRef) (hm : [.tel] ⊆ m) (h : Touches m s0 s) :
    Touches m s0 (countStall s e) := by
  unfold countStall
  repeat' first
    | with_reducible assumption
    | (with_reducible refine List.Subset.trans ?_ hm); decide
    | with_reducible apply telPort_touches
    | with_reducible apply Touches.ite
    | split
    | extract_lets
    | intro _
    | dsimp +zetaDelta only

theorem sendGrant_touches {m : List Part} {s0 s : State} (c : Cell) (out : Fin 7) (n : Nom) (ecc : Ecc) (hm : [.regs, .links, .routers, .units, .tel, .freeCtr] ⊆ m) (h : Touches m s0 s) :
    Touches m s0 (sendGrant s c out n ecc) := by
  unfold sendGrant
  repeat' first
    | with_reducible assumption
    | (with_reducible refine List.Subset.trans ?_ hm); decide
    | with_reducible apply sendIdle_touches
    | with_reducible apply loseHeader_touches
    | with_reducible apply countStall_touches
    | with_reducible apply countEcc_touches
    | with_reducible apply useCredit_touches
    | with_reducible apply draw_touches
    | with_reducible apply emitSeq_touches
    | with_reducible apply countOut_touches
    | with_reducible apply countGrant_touches
    | with_reducible apply setVcIn_touches
    | with_reducible apply setRouter_touches
    | with_reducible apply settleVc_touches
    | with_reducible apply Touches.ite
    | split
    | extract_lets
    | intro _
    | dsimp +zetaDelta only

theorem noteNoms_touches {m : List Part} {s0 s : State} (c : Cell) (ns : List Nom) (hm : [.routers] ⊆ m) (h : Touches m s0 s) :
    Touches m s0 (noteNoms s c ns) := by
  unfold noteNoms
  repeat' first
    | with_reducible assumption
    | (with_reducible refine List.Subset.trans ?_ hm); decide
    | with_reducible apply setRport_touches
    | with_reducible apply Touches.foldl
    | with_reducible apply Touches.ite
    | split
    | extract_lets
    | intro _
    | dsimp +zetaDelta only

end Sys2Proof.Machine
end

