-- ==== Sys2Proof/Laws/FrameFlits.lean ====
section
/-! SUPPORT. What each operation of Sys2Proof/Machine/Flits.lean may change: the parts of the state that it touches. -/

namespace Sys2Proof.Machine

theorem popWire_touches {m : List Part} {s0 s : State} (e : EndRef) (hm : [.links] ⊆ m) (h : Touches m s0 s) :
    Touches m s0 (popWire s e) := by
  unfold popWire
  repeat' first
    | with_reducible assumption
    | (with_reducible refine List.Subset.trans ?_ hm); decide
    | with_reducible apply updLink_touches
    | with_reducible apply Touches.ite
    | split
    | extract_lets
    | intro _
    | dsimp +zetaDelta only

theorem countRxErr_touches {m : List Part} {s0 s : State} (e : EndRef) (hm : [.tel] ⊆ m) (h : Touches m s0 s) :
    Touches m s0 (countRxErr s e) := by
  unfold countRxErr
  repeat' first
    | with_reducible assumption
    | (with_reducible refine List.Subset.trans ?_ hm); decide
    | with_reducible apply telPort_touches
    | with_reducible apply Touches.ite
    | split
    | extract_lets
    | intro _
    | dsimp +zetaDelta only

theorem countCorr_touches {m : List Part} {s0 s : State} (e : EndRef) (hm : [.tel] ⊆ m) (h : Touches m s0 s) :
    Touches m s0 (countCorr s e) := by
  unfold countCorr
  repeat' first
    | with_reducible assumption
    | (with_reducible refine List.Subset.trans ?_ hm); decide
    | with_reducible apply telPort_touches
    | with_reducible apply Touches.ite
    | split
    | extract_lets
    | intro _
    | dsimp +zetaDelta only

theorem noteCorr_touches {m : List Part} {s0 s : State} (e : EndRef) (d : Decoded) (hm : [.regs, .tel] ⊆ m) (h : Touches m s0 s) :
    Touches m s0 (noteCorr s e d) := by
  unfold noteCorr
  repeat' first
    | with_reducible assumption
    | (with_reducible refine List.Subset.trans ?_ hm); decide
    | with_reducible apply portErr_touches
    | with_reducible apply countCorr_touches
    | with_reducible apply Touches.ite
    | split
    | extract_lets
    | intro _
    | dsimp +zetaDelta only

theorem flitError_touches {m : List Part} {s0 s : State} (e : EndRef) (bs : List Nat) (hm : [.regs, .links, .gws, .tel] ⊆ m) (h : Touches m s0 s) :
    Touches m s0 (flitError s e bs) := by
  unfold flitError
  repeat' first
    | with_reducible assumption
    | (with_reducible refine List.Subset.trans ?_ hm); decide
    | with_reducible apply rxError_touches
    | with_reducible apply countRxErr_touches
    | with_reducible apply portErr_touches
    | with_reducible apply Touches.foldl
    | with_reducible apply Touches.ite
    | split
    | extract_lets
    | intro _
    | dsimp +zetaDelta only

theorem acceptPacket_touches {m : List Part} {s0 s : State} (e : EndRef) (k : Ctl) (p : Payload) (hm : [.regs, .links, .routers, .units, .rx, .tx, .cmbs, .gws, .tel] ⊆ m) (h : Touches m s0 s) :
    Touches m s0 (acceptPacket s e k p) := by
  unfold acceptPacket
  repeat' first
    | with_reducible assumption
    | (with_reducible refine List.Subset.trans ?_ hm); decide
    | with_reducible apply routerTake_touches
    | with_reducible apply optFlush_touches
    | with_reducible apply unitTake_touches
    | with_reducible apply Touches.ite
    | split
    | extract_lets
    | intro _
    | dsimp +zetaDelta only

theorem handleFlit_touches {m : List Part} {s0 s : State} (e : EndRef) (w : Wire) (d : Decoded) (k : Ctl) (hm : [.regs, .links, .routers, .units, .rx, .tx, .cmbs, .gws, .tel] ⊆ m) (h : Touches m s0 s) :
    Touches m s0 (handleFlit s e w d k) := by
  unfold handleFlit
  repeat' first
    | with_reducible assumption
    | (with_reducible refine List.Subset.trans ?_ hm); decide
    | with_reducible apply flitError_touches
    | with_reducible apply backChannel_touches
    | with_reducible apply noteCorr_touches
    | with_reducible apply updLink_touches
    | with_reducible apply rxAccept_touches
    | with_reducible apply weltArrive_touches
    | with_reducible apply acceptPacket_touches
    | with_reducible apply Touches.ite
    | split
    | extract_lets
    | intro _
    | dsimp +zetaDelta only

theorem endUp_touches {m : List Part} {s0 s : State} (e : EndRef) (hm : [.regs, .links, .routers, .units, .rx, .tx, .gws] ⊆ m) (h : Touches m s0 s) :
    Touches m s0 (endUp s e) := by
  unfold endUp
  repeat' first
    | with_reducible assumption
    | (with_reducible refine List.Subset.trans ?_ hm); decide
    | with_reducible apply enterUp_touches
    | with_reducible apply settleAll_touches
    | with_reducible apply Touches.ite
    | split
    | extract_lets
    | intro _
    | dsimp +zetaDelta only

theorem flitReceive_touches {m : List Part} {s0 s : State} (e : EndRef) (flips : BitVec 568) (hm : [.regs, .links, .routers, .units, .rx, .tx, .cmbs, .gws, .tel] ⊆ m) (h : Touches m s0 s) :
    Touches m s0 (flitReceive s e flips) := by
  unfold flitReceive
  repeat' first
    | with_reducible assumption
    | (with_reducible refine List.Subset.trans ?_ hm); decide
    | with_reducible apply flitError_touches
    | with_reducible apply popWire_touches
    | with_reducible apply handleFlit_touches
    | with_reducible apply endUp_touches
    | with_reducible apply Touches.ite
    | split
    | extract_lets
    | intro _
    | dsimp +zetaDelta only

theorem weltFlitReceive_touches {m : List Part} {s0 s : State} (e : EndRef) (flips : BitVec 568) (hm : [.regs, .links, .routers, .units, .rx, .tx, .cmbs, .gws, .tel] ⊆ m) (h : Touches m s0 s) :
    Touches m s0 (weltFlitReceive s e flips) := by
  unfold weltFlitReceive
  repeat' first
    | with_reducible assumption
    | (with_reducible refine List.Subset.trans ?_ hm); decide
    | with_reducible apply handleFlit_touches
    | with_reducible apply endUp_touches
    | with_reducible apply popWire_touches
    | with_reducible apply Touches.ite
    | split
    | extract_lets
    | intro _
    | dsimp +zetaDelta only

theorem trainBad_touches {m : List Part} {s0 s : State} (e : EndRef) (hm : [.regs, .links] ⊆ m) (h : Touches m s0 s) :
    Touches m s0 (trainBad s e) := by
  unfold trainBad
  repeat' first
    | with_reducible assumption
    | (with_reducible refine List.Subset.trans ?_ hm); decide
    | with_reducible apply updLink_touches
    | with_reducible apply portErr_touches
    | with_reducible apply Touches.ite
    | split
    | extract_lets
    | intro _
    | dsimp +zetaDelta only

theorem trainLost_touches {m : List Part} {s0 s : State} (e : EndRef) (hm : [.regs, .links, .tel] ⊆ m) (h : Touches m s0 s) :
    Touches m s0 (trainLost s e) := by
  unfold trainLost
  repeat' first
    | with_reducible assumption
    | (with_reducible refine List.Subset.trans ?_ hm); decide
    | with_reducible apply trainBad_touches
    | with_reducible apply countRxErr_touches
    | with_reducible apply portErr_touches
    | with_reducible apply Touches.ite
    | split
    | extract_lets
    | intro _
    | dsimp +zetaDelta only

theorem trainGood_touches {m : List Part} {s0 s : State} (e : EndRef) (p : Payload) (hm : [.regs, .links, .routers, .units, .rx, .tx, .gws] ⊆ m) (h : Touches m s0 s) :
    Touches m s0 (trainGood s e p) := by
  unfold trainGood
  repeat' first
    | with_reducible assumption
    | (with_reducible refine List.Subset.trans ?_ hm); decide
    | with_reducible apply updLink_touches
    | with_reducible apply endUp_touches
    | with_reducible apply Touches.ite
    | split
    | extract_lets
    | intro _
    | dsimp +zetaDelta only

theorem trainTake_touches {m : List Part} {s0 s : State} (e : EndRef) (p : Payload) (hm : [.regs, .links, .routers, .units, .rx, .tx, .gws] ⊆ m) (h : Touches m s0 s) :
    Touches m s0 (trainTake s e p) := by
  unfold trainTake
  repeat' first
    | with_reducible assumption
    | (with_reducible refine List.Subset.trans ?_ hm); decide
    | with_reducible apply trainGood_touches
    | with_reducible apply trainBad_touches
    | with_reducible apply Touches.ite
    | split
    | extract_lets
    | intro _
    | dsimp +zetaDelta only

theorem trainStarts_touches {m : List Part} {s0 s : State} (e : EndRef) (d : Decoded) (k : Ctl) (hm : [.regs, .links, .routers, .units, .rx, .tx, .gws, .tel] ⊆ m) (h : Touches m s0 s) :
    Touches m s0 (trainStarts s e d k) := by
  unfold trainStarts
  repeat' first
    | with_reducible assumption
    | (with_reducible refine List.Subset.trans ?_ hm); decide
    | with_reducible apply backChannel_touches
    | with_reducible apply noteCorr_touches
    | with_reducible apply flitError_touches
    | with_reducible apply trainTake_touches
    | with_reducible apply beginTrain_touches
    | with_reducible apply Touches.ite
    | split
    | extract_lets
    | intro _
    | dsimp +zetaDelta only

theorem trainFlitReceive_touches {m : List Part} {s0 s : State} (e : EndRef) (flips : BitVec 568) (hm : [.regs, .links, .routers, .units, .rx, .tx, .gws, .tel] ⊆ m) (h : Touches m s0 s) :
    Touches m s0 (trainFlitReceive s e flips) := by
  unfold trainFlitReceive
  repeat' first
    | with_reducible assumption
    | (with_reducible refine List.Subset.trans ?_ hm); decide
    | with_reducible apply trainLost_touches
    | with_reducible apply popWire_touches
    | with_reducible apply backChannel_touches
    | with_reducible apply noteCorr_touches
    | with_reducible apply trainBad_touches
    | with_reducible apply countRxErr_touches
    | with_reducible apply trainTake_touches
    | with_reducible apply trainStarts_touches
    | with_reducible apply Touches.ite
    | split
    | extract_lets
    | intro _
    | dsimp +zetaDelta only

theorem nakTimeout_touches {m : List Part} {s0 s : State} (e : EndRef) (hm : [.regs, .links] ⊆ m) (h : Touches m s0 s) :
    Touches m s0 (nakTimeout s e) := by
  unfold nakTimeout
  repeat' first
    | with_reducible assumption
    | (with_reducible refine List.Subset.trans ?_ hm); decide
    | with_reducible apply portErr_touches
    | with_reducible apply setLink_touches
    | with_reducible apply Touches.ite
    | split
    | extract_lets
    | intro _
    | dsimp +zetaDelta only

theorem ackTimeout_touches {m : List Part} {s0 s : State} (e : EndRef) (hm : [.regs, .links, .units, .rx, .tx, .cmbs, .gws, .tel] ⊆ m) (h : Touches m s0 s) :
    Touches m s0 (ackTimeout s e) := by
  unfold ackTimeout
  repeat' first
    | with_reducible assumption
    | (with_reducible refine List.Subset.trans ?_ hm); decide
    | with_reducible apply updLink_touches
    | with_reducible apply startReplay_touches
    | with_reducible apply portErr_touches
    | with_reducible apply optStateLost_touches
    | with_reducible apply spoil_touches
    | with_reducible apply Touches.ite
    | split
    | extract_lets
    | intro _
    | dsimp +zetaDelta only

theorem countRetry_touches {m : List Part} {s0 s : State} (e : EndRef) (hm : [.tel] ⊆ m) (h : Touches m s0 s) :
    Touches m s0 (countRetry s e) := by
  unfold countRetry
  repeat' first
    | with_reducible assumption
    | (with_reducible refine List.Subset.trans ?_ hm); decide
    | with_reducible apply telPort_touches
    | with_reducible apply Touches.ite
    | split
    | extract_lets
    | intro _
    | dsimp +zetaDelta only

theorem noteOut_touches {m : List Part} {s0 s : State} (e : EndRef) (hm : [.routers] ⊆ m) (h : Touches m s0 s) :
    Touches m s0 (noteOut s e) := by
  unfold noteOut
  repeat' first
    | with_reducible assumption
    | (with_reducible refine List.Subset.trans ?_ hm); decide
    | with_reducible apply noteNoms_touches
    | with_reducible apply Touches.ite
    | split
    | extract_lets
    | intro _
    | dsimp +zetaDelta only

theorem noGrant_touches {m : List Part} {s0 s : State} (e : EndRef) (hm : [.routers, .tel] ⊆ m) (h : Touches m s0 s) :
    Touches m s0 (noGrant s e) := by
  unfold noGrant
  repeat' first
    | with_reducible assumption
    | (with_reducible refine List.Subset.trans ?_ hm); decide
    | with_reducible apply noteOut_touches
    | with_reducible apply countStall_touches
    | with_reducible apply Touches.ite
    | split
    | extract_lets
    | intro _
    | dsimp +zetaDelta only

theorem sendNew_touches {m : List Part} {s0 s : State} (e : EndRef) (ecc : Ecc) (hm : [.mem, .regs, .links, .routers, .units, .tx, .cmbs, .tel, .freeCtr] ⊆ m) (h : Touches m s0 s) :
    Touches m s0 (sendNew s e ecc) := by
  unfold sendNew
  repeat' first
    | with_reducible assumption
    | (with_reducible refine List.Subset.trans ?_ hm); decide
    | with_reducible apply sendGrant_touches
    | with_reducible apply setRport_touches
    | with_reducible apply noteNoms_touches
    | with_reducible apply sendIdle_touches
    | with_reducible apply countStall_touches
    | with_reducible apply cmbAfter_touches
    | (with_reducible apply unitSend_touches_eq); with_reducible assumption
    | with_reducible apply Touches.ite
    | split
    | extract_lets
    | intro _
    | dsimp +zetaDelta only

theorem flitSend_touches {m : List Part} {s0 s : State} (e : EndRef) (ecc : Ecc) (hm : [.mem, .regs, .links, .routers, .units, .tx, .cmbs, .gws, .tel, .freeCtr] ⊆ m) (h : Touches m s0 s) :
    Touches m s0 (flitSend s e ecc) := by
  unfold flitSend
  repeat' first
    | with_reducible assumption
    | (with_reducible refine List.Subset.trans ?_ hm); decide
    | with_reducible apply noGrant_touches
    | with_reducible apply cntUp_touches
    | with_reducible apply emitPlain_touches
    | with_reducible apply countRetry_touches
    | with_reducible apply emitReplay_touches
    | with_reducible apply noteOut_touches
    | with_reducible apply sendNew_touches
    | (with_reducible apply weltNext_touches_eq); with_reducible assumption
    | with_reducible apply Touches.ite
    | split
    | extract_lets
    | intro _
    | dsimp +zetaDelta only

theorem sendAny_touches {m : List Part} {s0 s : State} (e : EndRef) (ecc : Ecc) (hm : [.mem, .regs, .links, .routers, .units, .tx, .cmbs, .gws, .flt, .tel, .freeCtr] ⊆ m) (h : Touches m s0 s) :
    Touches m s0 (sendAny s e ecc) := by
  unfold sendAny
  repeat' first
    | with_reducible assumption
    | (with_reducible refine List.Subset.trans ?_ hm); decide
    | with_reducible apply optSend_touches
    | with_reducible apply flitSend_touches
    | with_reducible apply Touches.ite
    | split
    | extract_lets
    | intro _
    | dsimp +zetaDelta only

theorem weltFlitSend_touches {m : List Part} {s0 s : State} (e : EndRef) (hm : [.mem, .regs, .links, .routers, .units, .gws, .tel] ⊆ m) (h : Touches m s0 s) :
    Touches m s0 (weltFlitSend s e) := by
  unfold weltFlitSend
  repeat' first
    | with_reducible assumption
    | (with_reducible refine List.Subset.trans ?_ hm); decide
    | with_reducible apply countRetry_touches
    | with_reducible apply emitReplay_touches
    | with_reducible apply noGrant_touches
    | with_reducible apply emitSeq_touches
    | with_reducible apply telPort_touches
    | (with_reducible apply weltNext_touches_eq); with_reducible assumption
    | with_reducible apply Touches.ite
    | split
    | extract_lets
    | intro _
    | dsimp +zetaDelta only

theorem loseQueued_touches {m : List Part} {s0 s : State} (e : EndRef) (z : TxPkt) (miss : Bool) (hm : [.mem, .regs, .units, .tx, .cmbs, .tel, .freeCtr] ⊆ m) (h : Touches m s0 s) :
    Touches m s0 (loseQueued s e z miss) := by
  unfold loseQueued
  repeat' first
    | with_reducible assumption
    | (with_reducible refine List.Subset.trans ?_ hm); decide
    | with_reducible apply lossGone_touches
    | with_reducible apply noPath_touches
    | with_reducible apply pushResp_touches
    | with_reducible apply chunkNoPath_touches
    | with_reducible apply Touches.ite
    | split
    | extract_lets
    | intro _
    | dsimp +zetaDelta only

theorem startAll_touches {m : List Part} {s0 s : State} (e : EndRef) (hm : [.mem, .regs, .links, .units, .rx, .tx, .cmbs, .gws, .tel, .freeCtr] ⊆ m) (h : Touches m s0 s) :
    Touches m s0 (startAll s e) := by
  unfold startAll
  repeat' first
    | with_reducible assumption
    | (with_reducible refine List.Subset.trans ?_ hm); decide
    | with_reducible apply ownResp_touches
    | with_reducible apply weltStart_touches
    | with_reducible apply ownStep_touches
    | with_reducible apply takeAll_touches
    | with_reducible apply startClass_touches
    | with_reducible apply startRsp_touches
    | with_reducible apply startQueued_touches
    | with_reducible apply loseQueued_touches
    | with_reducible apply setTxEnd_touches
    | with_reducible apply cmSettle_touches
    | with_reducible apply Touches.foldl
    | with_reducible apply Touches.ite
    | split
    | extract_lets
    | intro _
    | dsimp +zetaDelta only

theorem sweepUnit_touches {m : List Part} {s0 s : State} (u : UnitRef) (hm : [.mem, .regs, .units, .tx, .cmbs, .tel, .freeCtr] ⊆ m) (h : Touches m s0 s) :
    Touches m s0 (sweepUnit s u) := by
  unfold sweepUnit
  repeat' first
    | with_reducible assumption
    | (with_reducible refine List.Subset.trans ?_ hm); decide
    | with_reducible apply collSweep_touches
    | with_reducible apply Touches.ite
    | split
    | extract_lets
    | intro _
    | dsimp +zetaDelta only

theorem packetInject_touches {m : List Part} {s0 s : State} (e : EndRef) (hm : [.mem, .regs, .links, .routers, .units, .rx, .tx, .cmbs, .gws, .tel, .freeCtr] ⊆ m) (h : Touches m s0 s) :
    Touches m s0 (packetInject s e) := by
  unfold packetInject
  repeat' first
    | with_reducible assumption
    | (with_reducible refine List.Subset.trans ?_ hm); decide
    | with_reducible apply startAll_touches
    | with_reducible apply flitSend_touches
    | with_reducible apply Touches.ite
    | split
    | extract_lets
    | intro _
    | dsimp +zetaDelta only

theorem portPeerDown_touches {m : List Part} {s0 s : State} (c : Cell) (p : Fin 7) (hm : [.links] ⊆ m) (h : Touches m s0 s) :
    Touches m s0 (portPeerDown s c p) := by
  unfold portPeerDown
  repeat' first
    | with_reducible assumption
    | (with_reducible refine List.Subset.trans ?_ hm); decide
    | with_reducible apply updLink_touches
    | with_reducible apply Touches.ite
    | split
    | extract_lets
    | intro _
    | dsimp +zetaDelta only

end Sys2Proof.Machine
end

