-- ==== Sys2Proof/Laws/FrameRequester.lean ====
section
/-! SUPPORT. What each operation of Sys2Proof/Machine/Requester.lean may change: the parts of the state that it touches. -/

namespace Sys2Proof.Machine

theorem freeEntry_touches {m : List Part} {s0 s : State} (u : UnitRef) (tag : Nat) (e : OutEnt) (hm : [.units] ⊆ m) (h : Touches m s0 s) :
    Touches m s0 (freeEntry s u tag e) := by
  unfold freeEntry
  repeat' first
    | with_reducible assumption
    | (with_reducible refine List.Subset.trans ?_ hm); decide
    | with_reducible apply updUnit_touches
    | with_reducible apply Touches.ite
    | split
    | extract_lets
    | intro _
    | dsimp +zetaDelta only

theorem lateRsp_touches {m : List Part} {s0 s : State} (u : UnitRef) (hm : [.regs] ⊆ m) (h : Touches m s0 s) :
    Touches m s0 (lateRsp s u) := by
  unfold lateRsp
  repeat' first
    | with_reducible assumption
    | (with_reducible refine List.Subset.trans ?_ hm); decide
    | with_reducible apply cntUp_touches
    | with_reducible apply Touches.ite
    | split
    | extract_lets
    | intro _
    | dsimp +zetaDelta only

theorem breakStream_touches {m : List Part} {s0 s : State} (u : UnitRef) (i : Nat) (hm : [.units] ⊆ m) (h : Touches m s0 s) :
    Touches m s0 (breakStream s u i) := by
  unfold breakStream
  repeat' first
    | with_reducible assumption
    | (with_reducible refine List.Subset.trans ?_ hm); decide
    | with_reducible apply updUnit_touches
    | with_reducible apply Touches.ite
    | split
    | extract_lets
    | intro _
    | dsimp +zetaDelta only

theorem streamAnswered_touches {m : List Part} {s0 s : State} (u : UnitRef) (i : Nat) (fence : Bool) (hm : [.units] ⊆ m) (h : Touches m s0 s) :
    Touches m s0 (streamAnswered s u i fence) := by
  unfold streamAnswered
  repeat' first
    | with_reducible assumption
    | (with_reducible refine List.Subset.trans ?_ hm); decide
    | with_reducible apply updUnit_touches
    | with_reducible apply Touches.ite
    | split
    | extract_lets
    | intro _
    | dsimp +zetaDelta only

theorem ctxAnswer_touches {m : List Part} {s0 s : State} (u : UnitRef) (e : OutEnt) (err : Option (Nat × Nat)) (hm : [.mem, .regs, .units, .tx, .tel] ⊆ m) (h : Touches m s0 s) :
    Touches m s0 (ctxAnswer s u e err) := by
  unfold ctxAnswer
  repeat' first
    | with_reducible assumption
    | (with_reducible refine List.Subset.trans ?_ hm); decide
    | with_reducible apply updCtx_touches
    | with_reducible apply ctxErr_touches
    | with_reducible apply settleCtx_touches
    | with_reducible apply Touches.ite
    | split
    | extract_lets
    | intro _
    | dsimp +zetaDelta only

theorem entryStream_touches {m : List Part} {s0 s : State} (u : UnitRef) (e : OutEnt) (broken : Bool) (hm : [.units] ⊆ m) (h : Touches m s0 s) :
    Touches m s0 (entryStream s u e broken) := by
  unfold entryStream
  repeat' first
    | with_reducible assumption
    | (with_reducible refine List.Subset.trans ?_ hm); decide
    | with_reducible apply streamAnswered_touches
    | with_reducible apply breakStream_touches
    | with_reducible apply Touches.ite
    | split
    | extract_lets
    | intro _
    | dsimp +zetaDelta only

theorem ackTake_touches {m : List Part} {s0 s : State} (u : UnitRef) (p : RxPkt) (tag : Nat) (e : OutEnt) (hm : [.mem, .regs, .units, .tx, .tel] ⊆ m) (h : Touches m s0 s) :
    Touches m s0 (ackTake s u p tag e) := by
  unfold ackTake
  repeat' first
    | with_reducible assumption
    | (with_reducible refine List.Subset.trans ?_ hm); decide
    | with_reducible apply ctxAnswer_touches
    | with_reducible apply entryStream_touches
    | with_reducible apply freeEntry_touches
    | with_reducible apply Touches.ite
    | split
    | extract_lets
    | intro _
    | dsimp +zetaDelta only

theorem placeRead_touches {m : List Part} {s0 s : State} (u : UnitRef) (off : Nat) (place : Option Nat) (bs : List Byte) (hm : [.mem, .tel] ⊆ m) (h : Touches m s0 s) :
    TouchesOpt m s0 (fun x => x) (placeRead s u off place bs) := by
  unfold placeRead
  repeat' first
    | with_reducible apply touchesOpt_map
    | with_reducible apply touchesOpt_none
    | with_reducible apply touchesOpt_some
    | with_reducible assumption
    | (with_reducible refine List.Subset.trans ?_ hm); decide
    | with_reducible apply memWrite_touches
    | with_reducible apply telTlp_touches
    | with_reducible apply Touches.ite
    | split
    | extract_lets
    | intro _
    | dsimp +zetaDelta only

theorem placeRead_touches_eq {m : List Part} {s0 s s1 : State} (u : UnitRef) (off : Nat) (place : Option Nat) (bs : List Byte) (he : placeRead s u off place bs = some s1) (hm : [.mem, .tel] ⊆ m) (h : Touches m s0 s) :
    Touches m s0 s1 :=
  placeRead_touches u off place bs hm h  _ he

theorem readMiss_touches {m : List Part} {s0 s : State} (u : UnitRef) (hm : [.regs] ⊆ m) (h : Touches m s0 s) :
    Touches m s0 (readMiss s u) := by
  unfold readMiss
  repeat' first
    | with_reducible assumption
    | (with_reducible refine List.Subset.trans ?_ hm); decide
    | with_reducible apply winMiss_touches
    | with_reducible apply Touches.ite
    | split
    | extract_lets
    | intro _
    | dsimp +zetaDelta only

theorem readDataTake_touches {m : List Part} {s0 s : State} (u : UnitRef) (p : RxPkt) (tag : Nat) (e : OutEnt) (hm : [.mem, .regs, .units, .tx, .tel] ⊆ m) (h : Touches m s0 s) :
    Touches m s0 (readDataTake s u p tag e) := by
  unfold readDataTake
  repeat' first
    | with_reducible assumption
    | (with_reducible refine List.Subset.trans ?_ hm); decide
    | with_reducible apply freeEntry_touches
    | with_reducible apply ctxAnswer_touches
    | with_reducible apply readMiss_touches
    | (with_reducible apply placeRead_touches_eq); with_reducible assumption
    | with_reducible apply Touches.ite
    | split
    | extract_lets
    | intro _
    | dsimp +zetaDelta only

theorem streamRspTake_touches {m : List Part} {s0 s : State} (u : UnitRef) (p : RxPkt) (tag : Nat) (e : OutEnt) (hm : [.mem, .regs, .units, .tx, .tel] ⊆ m) (h : Touches m s0 s) :
    Touches m s0 (streamRspTake s u p tag e) := by
  unfold streamRspTake
  repeat' first
    | with_reducible assumption
    | (with_reducible refine List.Subset.trans ?_ hm); decide
    | with_reducible apply freeEntry_touches
    | with_reducible apply updUnit_touches
    | with_reducible apply updCtx_touches
    | with_reducible apply ctxAnswer_touches
    | with_reducible apply Touches.ite
    | split
    | extract_lets
    | intro _
    | dsimp +zetaDelta only

theorem onRsp_touches {m : List Part} {s0 s : State} (u : UnitRef) (cmd : Nat) (f : State → RxPkt → Nat → OutEnt → State) (hm : [.regs, .units] ⊆ m) (h : Touches m s0 s) (hf : ∀ (t : State) (x1 : RxPkt) (x2 : Nat) (x3 : OutEnt), Touches m s0 t → Touches m s0 (f t x1 x2 x3)) :
    Touches m s0 (onRsp s u cmd f) := by
  unfold onRsp
  repeat' first
    | with_reducible assumption
    | (with_reducible refine List.Subset.trans ?_ hm); decide
    | with_reducible apply countMalformed_touches
    | with_reducible apply lateRsp_touches
    | with_reducible apply hf
    | (with_reducible apply takeCmd_touches_eq); with_reducible assumption
    | with_reducible apply Touches.ite
    | split
    | extract_lets
    | intro _
    | dsimp +zetaDelta only

theorem probeAnswer_touches {m : List Part} {s0 s : State} (o : OptId) (hm : [.regs, .links, .units, .rx, .tx, .cmbs, .gws, .flt, .tel] ⊆ m) (h : Touches m s0 s) :
    Touches m s0 (probeAnswer s o) := by
  unfold probeAnswer
  repeat' first
    | with_reducible assumption
    | (with_reducible refine List.Subset.trans ?_ hm); decide
    | with_reducible apply countMalformed_touches
    | with_reducible apply updOpt_touches
    | with_reducible apply optEval_touches
    | (with_reducible apply takeCmd_touches_eq); with_reducible assumption
    | with_reducible apply Touches.ite
    | split
    | extract_lets
    | intro _
    | dsimp +zetaDelta only

theorem entryLost_touches {m : List Part} {s0 s : State} (u : UnitRef) (tag : Nat) (e : OutEnt) (err : Nat × Nat) (hm : [.mem, .regs, .units, .tx, .tel] ⊆ m) (h : Touches m s0 s) :
    Touches m s0 (entryLost s u tag e err) := by
  unfold entryLost
  repeat' first
    | with_reducible assumption
    | (with_reducible refine List.Subset.trans ?_ hm); decide
    | with_reducible apply entryStream_touches
    | with_reducible apply freeEntry_touches
    | with_reducible apply updUnit_touches
    | with_reducible apply ctxAnswer_touches
    | with_reducible apply Touches.ite
    | split
    | extract_lets
    | intro _
    | dsimp +zetaDelta only

theorem responseTimeout_touches {m : List Part} {s0 s : State} (u : UnitRef) (tag : Nat) (hm : [.mem, .regs, .units, .tx, .tel] ⊆ m) (h : Touches m s0 s) :
    Touches m s0 (responseTimeout s u tag) := by
  unfold responseTimeout
  repeat' first
    | with_reducible assumption
    | (with_reducible refine List.Subset.trans ?_ hm); decide
    | with_reducible apply entryLost_touches
    | with_reducible apply Touches.ite
    | split
    | extract_lets
    | intro _
    | dsimp +zetaDelta only

theorem streamRelSend_touches {m : List Part} {s0 s : State} (c : Cell) (i : Nat) (hm : [.units] ⊆ m) (h : Touches m s0 s) :
    Touches m s0 (streamRelSend s c i) := by
  unfold streamRelSend
  repeat' first
    | with_reducible assumption
    | (with_reducible refine List.Subset.trans ?_ hm); decide
    | with_reducible apply updCtx_touches
    | with_reducible apply updUnit_touches
    | with_reducible apply Touches.ite
    | split
    | extract_lets
    | intro _
    | dsimp +zetaDelta only

end Sys2Proof.Machine
end

