-- ==== Sys2Proof/Laws/FrameSettings.lean ====
section
/-! SUPPORT. What each operation of Sys2Proof/Machine/Settings.lean may change: the parts of the state that it touches. -/

namespace Sys2Proof.Machine

theorem flushCtx_touches {m : List Part} {s0 s : State} (u : UnitRef) (id : Nat) (hm : [.mem, .regs, .units, .tx, .tel] ⊆ m) (h : Touches m s0 s) :
    Touches m s0 (flushCtx s u id) := by
  unfold flushCtx
  repeat' first
    | with_reducible assumption
    | (with_reducible refine List.Subset.trans ?_ hm); decide
    | with_reducible apply settleCtx_touches
    | with_reducible apply updCtx_touches
    | with_reducible apply failCtx_touches
    | with_reducible apply Touches.ite
    | split
    | extract_lets
    | intro _
    | dsimp +zetaDelta only

theorem flushRing_touches {m : List Part} {s0 s : State} (u : UnitRef) (r : Nat) (hm : [.mem, .regs, .units, .tx, .tel] ⊆ m) (h : Touches m s0 s) :
    Touches m s0 (flushRing s u r) := by
  unfold flushRing
  repeat' first
    | with_reducible assumption
    | (with_reducible refine List.Subset.trans ?_ hm); decide
    | with_reducible apply flushCtx_touches
    | with_reducible apply Touches.foldl
    | with_reducible apply Touches.ite
    | split
    | extract_lets
    | intro _
    | dsimp +zetaDelta only

theorem sqCfgErr_touches {m : List Part} {s0 s : State} (u : UnitRef) (r : Nat) (hm : [.regs] ⊆ m) (h : Touches m s0 s) :
    Touches m s0 (sqCfgErr s u r) := by
  unfold sqCfgErr
  repeat' first
    | with_reducible assumption
    | (with_reducible refine List.Subset.trans ?_ hm); decide
    | with_reducible apply setBits_touches
    | with_reducible apply Touches.ite
    | split
    | extract_lets
    | intro _
    | dsimp +zetaDelta only

theorem cqCfgErr_touches {m : List Part} {s0 s : State} (u : UnitRef) (r : Nat) (hm : [.regs] ⊆ m) (h : Touches m s0 s) :
    Touches m s0 (cqCfgErr s u r) := by
  unfold cqCfgErr
  repeat' first
    | with_reducible assumption
    | (with_reducible refine List.Subset.trans ?_ hm); decide
    | with_reducible apply setBits_touches
    | with_reducible apply Touches.ite
    | split
    | extract_lets
    | intro _
    | dsimp +zetaDelta only

theorem wrMask_touches {m : List Part} {s0 s : State} (k : Nat) (mask : Nat) (v : Word) (hm : [.regs] ⊆ m) (h : Touches m s0 s) :
    Touches m s0 (wrMask s k mask v) := by
  unfold wrMask
  repeat' first
    | with_reducible assumption
    | (with_reducible refine List.Subset.trans ?_ hm); decide
    | with_reducible apply wr_touches
    | with_reducible apply Touches.ite
    | split
    | extract_lets
    | intro _
    | dsimp +zetaDelta only

theorem sqCfg_touches {m : List Part} {s0 s : State} (u : UnitRef) (r : Nat) (v : Word) (hm : [.mem, .regs, .units, .tx, .tel] ⊆ m) (h : Touches m s0 s) :
    Touches m s0 (sqCfg s u r v) := by
  unfold sqCfg
  repeat' first
    | with_reducible assumption
    | (with_reducible refine List.Subset.trans ?_ hm); decide
    | with_reducible apply wrMask_touches
    | with_reducible apply wrF_touches
    | with_reducible apply setSq_touches
    | with_reducible apply sqCfgErr_touches
    | with_reducible apply ringSettle_touches
    | with_reducible apply flushRing_touches
    | with_reducible apply Touches.ite
    | split
    | extract_lets
    | intro _
    | dsimp +zetaDelta only

theorem cqCfg_touches {m : List Part} {s0 s : State} (u : UnitRef) (r : Nat) (v : Word) (hm : [.regs, .units] ⊆ m) (h : Touches m s0 s) :
    Touches m s0 (cqCfg s u r v) := by
  unfold cqCfg
  repeat' first
    | with_reducible assumption
    | (with_reducible refine List.Subset.trans ?_ hm); decide
    | with_reducible apply wrMask_touches
    | with_reducible apply wrF_touches
    | with_reducible apply setCq_touches
    | with_reducible apply cqCfgErr_touches
    | with_reducible apply ringSettle_touches
    | with_reducible apply Touches.ite
    | split
    | extract_lets
    | intro _
    | dsimp +zetaDelta only

theorem sqDoorbell_touches {m : List Part} {s0 s : State} (u : UnitRef) (r : Nat) (d : Word) (hm : [.regs, .units] ⊆ m) (h : Touches m s0 s) :
    Touches m s0 (sqDoorbell s u r d) := by
  unfold sqDoorbell
  repeat' first
    | with_reducible assumption
    | (with_reducible refine List.Subset.trans ?_ hm); decide
    | with_reducible apply setSq_touches
    | with_reducible apply setBits_touches
    | with_reducible apply Touches.ite
    | split
    | extract_lets
    | intro _
    | dsimp +zetaDelta only

theorem cqDoorbell_touches {m : List Part} {s0 s : State} (u : UnitRef) (r : Nat) (d : Word) (hm : [.regs, .units] ⊆ m) (h : Touches m s0 s) :
    Touches m s0 (cqDoorbell s u r d) := by
  unfold cqDoorbell
  repeat' first
    | with_reducible assumption
    | (with_reducible refine List.Subset.trans ?_ hm); decide
    | with_reducible apply setCq_touches
    | with_reducible apply setBits_touches
    | with_reducible apply Touches.ite
    | split
    | extract_lets
    | intro _
    | dsimp +zetaDelta only

theorem ringBaseWrite_touches {m : List Part} {s0 s : State} (u : UnitRef) (cq : Bool) (r : Nat) (k : Nat) (row : RegRow) (v : Word) (hm : [.regs] ⊆ m) (h : Touches m s0 s) :
    Touches m s0 (ringBaseWrite s u cq r k row v) := by
  unfold ringBaseWrite
  repeat' first
    | with_reducible assumption
    | (with_reducible refine List.Subset.trans ?_ hm); decide
    | with_reducible apply wrMask_touches
    | with_reducible apply cqCfgErr_touches
    | with_reducible apply sqCfgErr_touches
    | with_reducible apply Touches.ite
    | split
    | extract_lets
    | intro _
    | dsimp +zetaDelta only

theorem ringWrite_touches {m : List Part} {s0 s : State} (u : UnitRef) (x : Bool × Nat × Nat) (k : Nat) (row : RegRow) (v : Word) (hm : [.mem, .regs, .units, .tx, .tel] ⊆ m) (h : Touches m s0 s) :
    Touches m s0 (ringWrite s u x k row v) := by
  unfold ringWrite
  repeat' first
    | with_reducible assumption
    | (with_reducible refine List.Subset.trans ?_ hm); decide
    | with_reducible apply ringBaseWrite_touches
    | with_reducible apply cqCfg_touches
    | with_reducible apply sqCfg_touches
    | with_reducible apply cqDoorbell_touches
    | with_reducible apply sqDoorbell_touches
    | with_reducible apply wr_touches
    | with_reducible apply Touches.ite
    | split
    | extract_lets
    | intro _
    | dsimp +zetaDelta only

theorem ctxMaxClear_touches {m : List Part} {s0 s : State} (u : UnitRef) (hm : [.units] ⊆ m) (h : Touches m s0 s) :
    Touches m s0 (ctxMaxClear s u) := by
  unfold ctxMaxClear
  repeat' first
    | with_reducible assumption
    | (with_reducible refine List.Subset.trans ?_ hm); decide
    | with_reducible apply updUnit_touches
    | with_reducible apply Touches.ite
    | split
    | extract_lets
    | intro _
    | dsimp +zetaDelta only

theorem portRetrain_touches {m : List Part} {s0 s : State} (c : Cell) (p : Nat) (hm : [.links] ⊆ m) (h : Touches m s0 s) :
    Touches m s0 (portRetrain s c p) := by
  unfold portRetrain
  repeat' first
    | with_reducible assumption
    | (with_reducible refine List.Subset.trans ?_ hm); decide
    | with_reducible apply updLink_touches
    | with_reducible apply beginTrain_touches
    | with_reducible apply Touches.ite
    | split
    | extract_lets
    | intro _
    | dsimp +zetaDelta only

theorem hwmClear_touches {m : List Part} {s0 s : State} (c : Cell) (p : Nat) (hm : [.regs] ⊆ m) (h : Touches m s0 s) :
    Touches m s0 (hwmClear s c p) := by
  unfold hwmClear
  repeat' first
    | with_reducible assumption
    | (with_reducible refine List.Subset.trans ?_ hm); decide
    | with_reducible apply wr_touches
    | with_reducible apply Touches.ite
    | split
    | extract_lets
    | intro _
    | dsimp +zetaDelta only

theorem portEnable_touches {m : List Part} {s0 s : State} (c : Cell) (v : Nat) (hm : [.routers] ⊆ m) (h : Touches m s0 s) :
    Touches m s0 (portEnable s c v) := by
  unfold portEnable
  repeat' first
    | with_reducible assumption
    | (with_reducible refine List.Subset.trans ?_ hm); decide
    | with_reducible apply setRouter_touches
    | with_reducible apply Touches.ite
    | split
    | extract_lets
    | intro _
    | dsimp +zetaDelta only

theorem portDisableApply_touches {m : List Part} {s0 s : State} (c : Cell) (p : Nat) (hm : [.routers] ⊆ m) (h : Touches m s0 s) :
    Touches m s0 (portDisableApply s c p) := by
  unfold portDisableApply
  repeat' first
    | with_reducible assumption
    | (with_reducible refine List.Subset.trans ?_ hm); decide
    | with_reducible apply setRouter_touches
    | with_reducible apply Touches.ite
    | split
    | extract_lets
    | intro _
    | dsimp +zetaDelta only

theorem pathLoad_touches {m : List Part} {s0 s : State} (k : Nat) (err : Nat) (row : RegRow) (v : Word) (hm : [.regs] ⊆ m) (h : Touches m s0 s) :
    Touches m s0 (pathLoad s k err row v) := by
  unfold pathLoad
  repeat' first
    | with_reducible assumption
    | (with_reducible refine List.Subset.trans ?_ hm); decide
    | with_reducible apply wr_touches
    | with_reducible apply setBits_touches
    | with_reducible apply Touches.ite
    | split
    | extract_lets
    | intro _
    | dsimp +zetaDelta only

theorem epochSwitch_touches {m : List Part} {s0 s : State} (u : UnitRef) (hm : [.regs, .units] ⊆ m) (h : Touches m s0 s) :
    Touches m s0 (epochSwitch s u) := by
  unfold epochSwitch
  repeat' first
    | with_reducible assumption
    | (with_reducible refine List.Subset.trans ?_ hm); decide
    | with_reducible apply setBits_touches
    | with_reducible apply swapBanks_touches
    | with_reducible apply updUnit_touches
    | with_reducible apply Touches.ite
    | split
    | extract_lets
    | intro _
    | dsimp +zetaDelta only

theorem lastFlush_touches {m : List Part} {s0 s : State} (c : Cell) (hm : [.regs, .units] ⊆ m) (h : Touches m s0 s) :
    Touches m s0 (lastFlush s c) := by
  unfold lastFlush
  repeat' first
    | with_reducible assumption
    | (with_reducible refine List.Subset.trans ?_ hm); decide
    | with_reducible apply lastEcc_touches
    | with_reducible apply freeLast_touches
    | with_reducible apply Touches.foldl
    | with_reducible apply Touches.ite
    | split
    | extract_lets
    | intro _
    | dsimp +zetaDelta only

theorem niHwmClr_touches {m : List Part} {s0 s : State} (c : Cell) (v : Word) (hm : [.regs] ⊆ m) (h : Touches m s0 s) :
    Touches m s0 (niHwmClr s c v) := by
  unfold niHwmClr
  repeat' first
    | with_reducible assumption
    | (with_reducible refine List.Subset.trans ?_ hm); decide
    | with_reducible apply wr_touches
    | with_reducible apply Touches.foldl
    | with_reducible apply Touches.ite
    | split
    | extract_lets
    | intro _
    | dsimp +zetaDelta only

theorem offwLost_touches {m : List Part} {s0 s : State} (c : Cell) (mask : Nat) (hm : [.mem, .regs, .units, .tx, .cmbs, .tel, .freeCtr] ⊆ m) (h : Touches m s0 s) :
    Touches m s0 (offwLost s c mask) := by
  unfold offwLost
  repeat' first
    | with_reducible assumption
    | (with_reducible refine List.Subset.trans ?_ hm); decide
    | with_reducible apply entryLost_touches
    | with_reducible apply cntUp_touches
    | with_reducible apply sweepUnit_touches
    | with_reducible apply breakStream_touches
    | with_reducible apply Touches.foldl
    | with_reducible apply Touches.ite
    | split
    | extract_lets
    | intro _
    | dsimp +zetaDelta only

theorem cmbEntryWrite_touches {m : List Part} {s0 s : State} (c : Cell) (k : Nat) (off : Nat) (row : RegRow) (v : Word) (hm : [.regs] ⊆ m) (h : Touches m s0 s) :
    Touches m s0 (cmbEntryWrite s c k off row v) := by
  unfold cmbEntryWrite
  repeat' first
    | with_reducible assumption
    | (with_reducible refine List.Subset.trans ?_ hm); decide
    | with_reducible apply wr_touches
    | with_reducible apply setBits_touches
    | with_reducible apply wrF_touches
    | with_reducible apply Touches.ite
    | split
    | extract_lets
    | intro _
    | dsimp +zetaDelta only

theorem warmCtrl_touches {m : List Part} {s0 s : State} (w : WeltDom) (v : Word) (hm : [.regs, .gws, .warm] ⊆ m) (h : Touches m s0 s) :
    Touches m s0 (warmCtrl s w v) := by
  unfold warmCtrl
  repeat' first
    | with_reducible assumption
    | (with_reducible refine List.Subset.trans ?_ hm); decide
    | with_reducible apply wrF_touches
    | with_reducible apply updOpt_touches
    | with_reducible apply Touches.ite
    | split
    | extract_lets
    | intro _
    | dsimp +zetaDelta only
    | with_reducible apply Touches.set_warm

theorem mirrorReg_touches {m : List Part} {s0 s : State} (k : Nat) (hm : [.doms, .mirror] ⊆ m) (h : Touches m s0 s) :
    Touches m s0 (mirrorReg s k) :=
  h.trans ⟨fun p hp => by cases p <;> first | rfl | exact Nat.le_refl _ | exact absurd (hm (by decide)) hp, id, id⟩

theorem routerWrite_touches {m : List Part} {s0 s : State} (c : Cell) (blk : Nat) (off : Nat) (k : Nat) (row : RegRow) (v : Word) (hm : [.regs, .links, .routers] ⊆ m) (h : Touches m s0 s) :
    Touches m s0 (routerWrite s c blk off k row v) := by
  unfold routerWrite
  repeat' first
    | with_reducible assumption
    | (with_reducible refine List.Subset.trans ?_ hm); decide
    | with_reducible apply wr_touches
    | with_reducible apply portRetrain_touches
    | with_reducible apply hwmClear_touches
    | with_reducible apply portEnable_touches
    | with_reducible apply Touches.ite
    | split
    | extract_lets
    | intro _
    | dsimp +zetaDelta only

theorem niWriteReg_touches {m : List Part} {s0 s : State} (c : Cell) (off : Nat) (k : Nat) (row : RegRow) (v : Word) (hm : [.mem, .regs, .units, .tx, .cmbs, .tel, .freeCtr] ⊆ m) (h : Touches m s0 s) :
    Touches m s0 (niWriteReg s c off k row v) := by
  unfold niWriteReg
  repeat' first
    | with_reducible assumption
    | (with_reducible refine List.Subset.trans ?_ hm); decide
    | with_reducible apply wr_touches
    | with_reducible apply ringWrite_touches
    | with_reducible apply ctxMaxClear_touches
    | with_reducible apply epochSwitch_touches
    | with_reducible apply lastFlush_touches
    | with_reducible apply pathLoad_touches
    | with_reducible apply throttle_touches
    | with_reducible apply niHwmClr_touches
    | with_reducible apply offwLost_touches
    | with_reducible apply Touches.ite
    | split
    | extract_lets
    | intro _
    | dsimp +zetaDelta only

theorem cmbWriteReg_touches {m : List Part} {s0 s : State} (c : Cell) (off : Nat) (k : Nat) (row : RegRow) (v : Word) (hm : [.mem, .regs, .units, .tx, .cmbs, .tel, .freeCtr] ⊆ m) (h : Touches m s0 s) :
    Touches m s0 (cmbWriteReg s c off k row v) := by
  unfold cmbWriteReg
  repeat' first
    | with_reducible assumption
    | (with_reducible refine List.Subset.trans ?_ hm); decide
    | with_reducible apply wr_touches
    | with_reducible apply cmbEntryWrite_touches
    | with_reducible apply swAbort_touches
    | with_reducible apply lostWafer_touches
    | with_reducible apply Touches.ite
    | split
    | extract_lets
    | intro _
    | dsimp +zetaDelta only

theorem mailboxCommit_touches {m : List Part} {s0 s : State} (g : GwId) (m_ : Nat) (tag : Word) (hm : [.regs, .gws] ⊆ m) (h : Touches m s0 s) :
    Touches m s0 (mailboxCommit s g m_ tag) := by
  unfold mailboxCommit
  repeat' first
    | with_reducible assumption
    | (with_reducible refine List.Subset.trans ?_ hm); decide
    | with_reducible apply updGw_touches
    | with_reducible apply setBits_touches
    | with_reducible apply cntUp_touches
    | with_reducible apply Touches.ite
    | split
    | extract_lets
    | intro _
    | dsimp +zetaDelta only

theorem hostWriteReg_touches {m : List Part} {s0 s : State} (g : GwId) (off : Nat) (k : Nat) (row : RegRow) (v : Word) (hm : [.mem, .regs, .units, .tx, .gws, .tel] ⊆ m) (h : Touches m s0 s) :
    Touches m s0 (hostWriteReg s g off k row v) := by
  unfold hostWriteReg
  repeat' first
    | with_reducible assumption
    | (with_reducible refine List.Subset.trans ?_ hm); decide
    | with_reducible apply wr_touches
    | with_reducible apply ctxMaxClear_touches
    | with_reducible apply ringWrite_touches
    | with_reducible apply mailboxCommit_touches
    | with_reducible apply Touches.ite
    | split
    | extract_lets
    | intro _
    | dsimp +zetaDelta only

theorem optWriteReg_touches {m : List Part} {s0 s : State} (o : OptId) (off : Nat) (k : Nat) (row : RegRow) (v : Word) (hm : [.regs, .links, .units, .rx, .tx, .cmbs, .gws, .doms, .flt, .tel, .mirror] ⊆ m) (h : Touches m s0 s) :
    Touches m s0 (optWriteReg s o off k row v) := by
  unfold optWriteReg
  repeat' first
    | with_reducible assumption
    | (with_reducible refine List.Subset.trans ?_ hm); decide
    | with_reducible apply wr_touches
    | with_reducible apply optDisable_touches
    | with_reducible apply optRetrain_touches
    | with_reducible apply evalAll_touches
    | with_reducible apply mirrorReg_touches
    | with_reducible apply optExpect_touches
    | with_reducible apply Touches.ite
    | split
    | extract_lets
    | intro _
    | dsimp +zetaDelta only

theorem gwWriteReg_touches {m : List Part} {s0 s : State} (g : GwId) (blk : Nat) (off : Nat) (k : Nat) (row : RegRow) (v : Word) (hm : [.mem, .regs, .links, .units, .rx, .tx, .cmbs, .gws, .doms, .flt, .tel, .warm, .mirror] ⊆ m) (h : Touches m s0 s) :
    Touches m s0 (gwWriteReg s g blk off k row v) := by
  unfold gwWriteReg
  repeat' first
    | with_reducible assumption
    | (with_reducible refine List.Subset.trans ?_ hm); decide
    | with_reducible apply wr_touches
    | with_reducible apply epochSwitch_touches
    | with_reducible apply pathLoad_touches
    | with_reducible apply warmCtrl_touches
    | with_reducible apply mirrorReg_touches
    | with_reducible apply meterWrite_touches
    | with_reducible apply optWriteReg_touches
    | with_reducible apply hostWriteReg_touches
    | with_reducible apply Touches.ite
    | split
    | extract_lets
    | intro _
    | dsimp +zetaDelta only

theorem waferWrite_touches {m : List Part} {s0 s : State} (v : Word) (hm : [.regs, .doms, .mirror] ⊆ m) (h : Touches m s0 s) :
    Touches m s0 (waferWrite s v) := by
  unfold waferWrite
  repeat' first
    | with_reducible assumption
    | (with_reducible refine List.Subset.trans ?_ hm); decide
    | with_reducible apply wrF_touches
    | with_reducible apply mirrorReg_touches
    | with_reducible apply Touches.ite
    | split
    | extract_lets
    | intro _
    | dsimp +zetaDelta only

theorem optRelease_touches {m : List Part} {s0 s : State} (o : OptId) (hm : [.regs, .links, .units, .rx, .tx, .cmbs, .gws, .flt, .tel] ⊆ m) (h : Touches m s0 s) :
    Touches m s0 (optRelease s o) := by
  unfold optRelease
  repeat' first
    | with_reducible assumption
    | (with_reducible refine List.Subset.trans ?_ hm); decide
    | with_reducible apply optStop_touches
    | with_reducible apply laneTestStart_touches
    | with_reducible apply Touches.ite
    | split
    | extract_lets
    | intro _
    | dsimp +zetaDelta only

theorem optGo_touches {m : List Part} {s0 s : State}  (hm : [.regs, .links, .units, .rx, .tx, .cmbs, .gws, .flt, .tel, .boot] ⊆ m) (h : Touches m s0 s) :
    Touches m s0 (optGo s) := by
  unfold optGo
  repeat' first
    | with_reducible assumption
    | (with_reducible refine List.Subset.trans ?_ hm); decide
    | with_reducible apply optRelease_touches
    | with_reducible apply Touches.foldl
    | with_reducible apply Touches.ite
    | split
    | extract_lets
    | intro _
    | dsimp +zetaDelta only
    | with_reducible apply Touches.set_boot

theorem merCtrl_touches {m : List Part} {s0 s : State} (v : Word) (hm : [.regs, .mer] ⊆ m) (h : Touches m s0 s) :
    Touches m s0 (merCtrl s v) := by
  unfold merCtrl
  repeat' first
    | with_reducible assumption
    | (with_reducible refine List.Subset.trans ?_ hm); decide
    | with_reducible apply merSnap_touches
    | with_reducible apply wrMask_touches
    | with_reducible apply merHold_touches
    | with_reducible apply merSet_touches
    | with_reducible apply merStep_touches
    | with_reducible apply Touches.ite
    | split
    | extract_lets
    | intro _
    | dsimp +zetaDelta only

theorem secCtrl_touches {m : List Part} {s0 s : State} (p : Path) (healthy : Bool) (v : Word) (hm : [.regs, .flt, .sec, .tap, .freeCtr] ⊆ m) (h : Touches m s0 s) :
    Touches m s0 (secCtrl s p healthy v) := by
  unfold secCtrl
  repeat' first
    | with_reducible assumption
    | (with_reducible refine List.Subset.trans ?_ hm); decide
    | with_reducible apply wrMask_touches
    | with_reducible apply secRequest_touches
    | with_reducible apply secVerify_touches
    | with_reducible apply secRelock_touches
    | with_reducible apply Touches.ite
    | split
    | extract_lets
    | intro _
    | dsimp +zetaDelta only

theorem svcWriteReg_touches {m : List Part} {s0 s : State} (p : Path) (healthy : Bool) (blk : Nat) (off : Nat) (k : Nat) (row : RegRow) (v : Word) (hm : [.regs, .links, .units, .rx, .tx, .cmbs, .gws, .doms, .mer, .flt, .tel, .sec, .boot, .tap, .mirror, .freeCtr] ⊆ m) (h : Touches m s0 s) :
    Touches m s0 (svcWriteReg s p healthy blk off k row v) := by
  unfold svcWriteReg
  repeat' first
    | with_reducible assumption
    | (with_reducible refine List.Subset.trans ?_ hm); decide
    | rfl
    | with_reducible apply wr_touches
    | with_reducible apply waferWrite_touches
    | with_reducible apply optGo_touches
    | with_reducible apply merCtrl_touches
    | with_reducible apply merHold_touches
    | with_reducible apply tsqPop_touches
    | with_reducible apply logRead_touches
    | with_reducible apply injectGo_touches
    | with_reducible apply snapshotGo_touches
    | with_reducible apply secCtrl_touches
    | with_reducible apply updSec_touches
    | with_reducible apply Touches.ite
    | split
    | extract_lets
    | intro _
    | dsimp +zetaDelta only

theorem pwrCtrl_touches {m : List Part} {s0 s : State} (d : Nat) (v : Word) (hm : [.regs, .links, .routers, .units, .rx, .tx, .cmbs, .gws, .doms, .clks, .mer, .flt, .tel, .sec, .bar, .warm, .mirror] ⊆ m) (h : Touches m s0 s) :
    Touches m s0 (pwrCtrl s d v) := by
  unfold pwrCtrl
  repeat' first
    | with_reducible assumption
    | (with_reducible refine List.Subset.trans ?_ hm); decide
    | with_reducible apply powerGo_touches
    | with_reducible apply Touches.ite
    | split
    | extract_lets
    | intro _
    | dsimp +zetaDelta only

theorem aonWriteReg_touches {m : List Part} {s0 s : State} (blk : Nat) (off : Nat) (k : Nat) (row : RegRow) (v : Word) (hm : [.regs, .links, .routers, .units, .rx, .tx, .cmbs, .gws, .doms, .clks, .mer, .flt, .tel, .sec, .bar, .warm, .mirror] ⊆ m) (h : Touches m s0 s) :
    Touches m s0 (aonWriteReg s blk off k row v) := by
  unfold aonWriteReg
  repeat' first
    | with_reducible assumption
    | (with_reducible refine List.Subset.trans ?_ hm); decide
    | with_reducible apply wr_touches
    | with_reducible apply pwrCtrl_touches
    | with_reducible apply clkRelock_touches
    | with_reducible apply Touches.ite
    | split
    | extract_lets
    | intro _
    | dsimp +zetaDelta only

theorem blockWrite_touches {m : List Part} {s0 s : State} (p : Path) (healthy : Bool) (k : Nat) (row : RegRow) (v : Word) (hm : [.mem, .regs, .links, .routers, .units, .rx, .tx, .cmbs, .gws, .doms, .clks, .mer, .flt, .tel, .sec, .boot, .tap, .bar, .warm, .mirror, .freeCtr] ⊆ m) (h : Touches m s0 s) :
    Touches m s0 (blockWrite s p healthy k row v) := by
  unfold blockWrite
  repeat' first
    | with_reducible assumption
    | (with_reducible refine List.Subset.trans ?_ hm); decide
    | with_reducible apply warmCtrl_touches
    | with_reducible apply wr_touches
    | with_reducible apply niWriteReg_touches
    | with_reducible apply cmbWriteReg_touches
    | with_reducible apply routerWrite_touches
    | with_reducible apply gwWriteReg_touches
    | with_reducible apply svcWriteReg_touches
    | with_reducible apply aonWriteReg_touches
    | with_reducible apply Touches.ite
    | split
    | extract_lets
    | intro _
    | dsimp +zetaDelta only

theorem afterClear_touches {m : List Part} {s0 s : State} (k : Nat) (hm : [.regs, .flt] ⊆ m) (h : Touches m s0 s) :
    Touches m s0 (afterClear s k) := by
  unfold afterClear
  repeat' first
    | with_reducible assumption
    | (with_reducible refine List.Subset.trans ?_ hm); decide
    | with_reducible apply dropPins_touches
    | with_reducible apply refreshStat_touches
    | with_reducible apply Touches.ite
    | split
    | extract_lets
    | intro _
    | dsimp +zetaDelta only

theorem regWrite_touches {m : List Part} {s0 s : State} (p : Path) (healthy : Bool) (k : Nat) (v : Word) (hm : [.mem, .regs, .links, .routers, .units, .rx, .tx, .cmbs, .gws, .doms, .clks, .mer, .flt, .tel, .sec, .boot, .tap, .bar, .warm, .mirror, .freeCtr] ⊆ m) (h : Touches m s0 s) :
    Touches m s0 (regWrite s p healthy k v) := by
  unfold regWrite
  repeat' first
    | with_reducible assumption
    | (with_reducible refine List.Subset.trans ?_ hm); decide
    | with_reducible apply blockWrite_touches
    | with_reducible apply afterClear_touches
    | with_reducible apply refreshStat_touches
    | with_reducible apply Touches.ite
    | split
    | extract_lets
    | intro _
    | dsimp +zetaDelta only

end Sys2Proof.Machine
end

