-- ==== Sys2Proof/Laws/FrameAccess.lean ====
section
/-! SUPPORT. What each operation of Sys2Proof/Machine/Access.lean may change: the parts of the state that it touches. -/

namespace Sys2Proof.Machine

theorem answer_touches {m : List Part} {s0 s : State} (v : Via) (status cause : Nat) (data : Option Word)
    (hm : [.tap, .resp, .bar] ⊆ m) (h : Touches m s0 s) : Touches m s0 (answer s v status cause data) :=
  h.trans (by
    cases v <;> exact ⟨fun p hp => by cases p <;> first | rfl | exact Nat.le_refl _ | exact absurd (hm (by decide)) hp, id, id⟩)

theorem denyAcc_touches {m : List Part} {s0 s : State} (a : HeldAcc) (hm : [.regs, .tap, .resp, .bar] ⊆ m) (h : Touches m s0 s) :
    Touches m s0 (denyAcc s a) := by
  unfold denyAcc
  repeat' first
    | with_reducible assumption
    | (with_reducible refine List.Subset.trans ?_ hm); decide
    | with_reducible apply answer_touches
    | with_reducible apply secErr_touches
    | with_reducible apply cntUp_touches
    | with_reducible apply Touches.ite
    | split
    | extract_lets
    | intro _
    | dsimp +zetaDelta only

theorem cfgError_touches {m : List Part} {s0 s : State} (rank : Nat) (n : Nat) (k : Nat) (cause : Nat) (hm : [.regs, .errAt] ⊆ m) (h : Touches m s0 s) :
    Touches m s0 (cfgError s rank n k cause) := by
  unfold cfgError
  repeat' first
    | with_reducible assumption
    | (with_reducible refine List.Subset.trans ?_ hm); decide
    | with_reducible apply setBits_touches
    | with_reducible apply cntUp_touches
    | with_reducible apply wr_touches
    | with_reducible apply wrF_touches
    | with_reducible apply Touches.ite
    | split
    | extract_lets
    | intro _
    | dsimp +zetaDelta only
    | with_reducible apply Touches.set_errAt

theorem hostErr_touches {m : List Part} {s0 s : State} (h_ : Nat) (wrt : Bool) (hm : [.regs] ⊆ m) (h : Touches m s0 s) :
    Touches m s0 (hostErr s h_ wrt) := by
  unfold hostErr
  repeat' first
    | with_reducible assumption
    | (with_reducible refine List.Subset.trans ?_ hm); decide
    | with_reducible apply setBits_touches
    | with_reducible apply Touches.ite
    | split
    | extract_lets
    | intro _
    | dsimp +zetaDelta only

theorem errShow_touches {m : List Part} {s0 s : State} (a : HeldAcc) (cause : Nat) (hm : [.regs, .tap, .resp, .bar, .freeCtr] ⊆ m) (h : Touches m s0 s) :
    Touches m s0 (errShow s a cause) := by
  unfold errShow
  repeat' first
    | with_reducible assumption
    | (with_reducible refine List.Subset.trans ?_ hm); decide
    | with_reducible apply draw_touches
    | with_reducible apply answer_touches
    | with_reducible apply hostErr_touches
    | with_reducible apply Touches.ite
    | split
    | extract_lets
    | intro _
    | dsimp +zetaDelta only

theorem errAcc_touches {m : List Part} {s0 s : State} (a : HeldAcc) (cause : Nat) (hm : [.regs, .tap, .resp, .bar, .errAt, .freeCtr] ⊆ m) (h : Touches m s0 s) :
    Touches m s0 (errAcc s a cause) := by
  unfold errAcc
  repeat' first
    | with_reducible assumption
    | (with_reducible refine List.Subset.trans ?_ hm); decide
    | with_reducible apply errShow_touches
    | with_reducible apply cfgError_touches
    | with_reducible apply Touches.ite
    | split
    | extract_lets
    | intro _
    | dsimp +zetaDelta only

theorem effectAcc_touches {m : List Part} {s0 s : State} (a : HeldAcc) (hm : [.mem, .regs, .links, .routers, .units, .rx, .tx, .cmbs, .gws, .doms, .clks, .mer, .flt, .tel, .sec, .boot, .tap, .bar, .warm, .mirror, .freeCtr] ⊆ m) (h : Touches m s0 s) :
    Touches m s0 (effectAcc s a).2 := by
  unfold effectAcc
  repeat' first
    | with_reducible assumption
    | (with_reducible refine List.Subset.trans ?_ hm); decide
    | with_reducible apply regWrite_touches
    | with_reducible apply regRead_touches
    | (with_reducible apply regRead_touches_eq); with_reducible assumption
    | with_reducible apply Touches.ite
    | split
    | extract_lets
    | intro _
    | dsimp +zetaDelta only

theorem effectAcc_touches_eq {m : List Part} {s0 s s1 : State} {q} (a : HeldAcc) (he : effectAcc s a = (q, s1)) (hm : [.mem, .regs, .links, .routers, .units, .rx, .tx, .cmbs, .gws, .doms, .clks, .mer, .flt, .tel, .sec, .boot, .tap, .bar, .warm, .mirror, .freeCtr] ⊆ m) (h : Touches m s0 s) :
    Touches m s0 s1 := by
  have k := effectAcc_touches a hm h 
  rwa [he] at k

theorem fateNote_touches {m : List Part} {s0 s : State} (f : Fate) (hm : [.regs, .freeCtr] ⊆ m) (h : Touches m s0 s) :
    Touches m s0 (fateNote s f) := by
  unfold fateNote
  repeat' first
    | with_reducible assumption
    | (with_reducible refine List.Subset.trans ?_ hm); decide
    | with_reducible apply cntUp_touches
    | with_reducible apply draw_touches
    | with_reducible apply setBits_touches
    | with_reducible apply Touches.ite
    | split
    | extract_lets
    | intro _
    | dsimp +zetaDelta only

theorem withoutCopies_touches {m : List Part} {s0 s : State} (ds : List Nat) (f : State → State) (hm : [.doms] ⊆ m) (h : Touches m s0 s) (hf : ∀ (t : State), Touches m s0 t → Touches m s0 (f t)) :
    Touches m s0 (withoutCopies s ds f) := by
  unfold withoutCopies
  repeat' first
    | with_reducible assumption
    | (with_reducible refine List.Subset.trans ?_ hm); decide
    | with_reducible apply updDom_touches
    | with_reducible apply hf
    | with_reducible apply Touches.foldl
    | with_reducible apply Touches.ite
    | split
    | extract_lets
    | intro _
    | dsimp +zetaDelta only

theorem copyError_touches {m : List Part} {s0 s : State} (a : HeldAcc) (d : Nat) (cause : Nat) (hm : [.regs, .errAt] ⊆ m) (h : Touches m s0 s) :
    Touches m s0 (copyError s a d cause) := by
  unfold copyError
  repeat' first
    | with_reducible assumption
    | (with_reducible refine List.Subset.trans ?_ hm); decide
    | with_reducible apply cfgError_touches
    | with_reducible apply Touches.ite
    | split
    | extract_lets
    | intro _
    | dsimp +zetaDelta only

theorem serveCopy_touches {m : List Part} {s0 s : State} (a : HeldAcc) (ds : List Nat) (hm : [.mem, .regs, .links, .routers, .units, .rx, .tx, .cmbs, .gws, .doms, .clks, .mer, .flt, .tel, .sec, .boot, .tap, .resp, .bar, .warm, .mirror, .errAt, .freeCtr] ⊆ m) (h : Touches m s0 s) :
    Touches m s0 (serveCopy s a ds) := by
  unfold serveCopy
  repeat' first
    | with_reducible assumption
    | (with_reducible refine List.Subset.trans ?_ hm); decide
    | with_reducible apply answer_touches
    | with_reducible apply effectAcc_touches
    | with_reducible apply fateNote_touches
    | with_reducible apply copyError_touches
    | with_reducible apply errShow_touches
    | with_reducible apply withoutCopies_touches
    | with_reducible apply errAcc_touches
    | with_reducible apply Touches.foldl
    | (with_reducible apply effectAcc_touches_eq); with_reducible assumption
    | with_reducible apply Touches.ite
    | split
    | extract_lets
    | intro _
    | dsimp +zetaDelta only

theorem serveAcc_touches {m : List Part} {s0 s : State} (a : HeldAcc) (hm : [.mem, .regs, .links, .routers, .units, .rx, .tx, .cmbs, .gws, .doms, .clks, .mer, .flt, .tel, .sec, .boot, .tap, .resp, .bar, .warm, .mirror, .errAt, .freeCtr] ⊆ m) (h : Touches m s0 s) :
    Touches m s0 (serveAcc s a) := by
  unfold serveAcc
  repeat' first
    | with_reducible assumption
    | (with_reducible refine List.Subset.trans ?_ hm); decide
    | with_reducible apply serveCopy_touches
    | with_reducible apply effectAcc_touches
    | with_reducible apply fateNote_touches
    | with_reducible apply answer_touches
    | with_reducible apply errAcc_touches
    | (with_reducible apply effectAcc_touches_eq); with_reducible assumption
    | with_reducible apply Touches.ite
    | split
    | extract_lets
    | intro _
    | dsimp +zetaDelta only

theorem holdAcc_touches {m : List Part} {s0 s : State} (a : HeldAcc) (wake : Bool) (d : Nat)
    (hm : [.regs, .links, .doms, .tel, .tap, .held] ⊆ m) (h : Touches m s0 s) : Touches m s0 (holdAcc s a wake d) := by
  have h1 (t : State) (g : Touches [.tap, .held] s t) : Touches m s0 t :=
    h.trans (Touches.mono (List.Subset.trans (by decide) hm) g)
  have h2 : Touches [.tap, .held] s (match a.via with
      | .tapSec => { s with held := s.held ++ [a], tap := { s.tap with status := 1 } }
      | .tapCfg => { s with held := s.held ++ [a], tap := { s.tap with status := 1 } }
      | _ => { s with held := s.held ++ [a] }) := by
    split <;> exact ⟨fun p hp => by cases p <;> first | rfl | exact Nat.le_refl _ | exact absurd (by decide) hp, id, id⟩
  unfold holdAcc
  exact Touches.ite (fun _ => wakeDom_touches d 3 (List.Subset.trans (by decide) hm) (h1 _ h2)) (fun _ => h1 _ h2)

theorem pieceWrite_touches {m : List Part} {s0 s : State} (n : Nat) (k : Nat) (v : Word) (hm : [.mem, .regs, .links, .routers, .units, .rx, .tx, .cmbs, .gws, .doms, .clks, .mer, .flt, .tel, .sec, .boot, .tap, .bar, .warm, .mirror, .freeCtr] ⊆ m) (h : Touches m s0 s) :
    Touches m s0 (pieceWrite s n k v) := by
  unfold pieceWrite
  repeat' first
    | with_reducible assumption
    | (with_reducible refine List.Subset.trans ?_ hm); decide
    | with_reducible apply regWrite_touches
    | with_reducible apply Touches.foldl
    | with_reducible apply Touches.ite
    | split
    | extract_lets
    | intro _
    | dsimp +zetaDelta only

theorem pieceLost_touches {m : List Part} {s0 s : State} (a : HeldAcc) (n : Nat) (i : Nat) (cause : Nat) (hm : [.held] ⊆ m) (h : Touches m s0 s) :
    Touches m s0 (pieceLost s a n i cause) := by
  unfold pieceLost
  repeat' first
    | with_reducible assumption
    | (with_reducible refine List.Subset.trans ?_ hm); decide
    | with_reducible apply Touches.ite
    | split
    | extract_lets
    | intro _
    | dsimp +zetaDelta only
    | with_reducible apply Touches.set_held

theorem pieceStep_touches {m : List Part} {s0 s : State} (n : Nat) (i : Nat) (a : HeldAcc) (hm : [.mem, .regs, .links, .routers, .units, .rx, .tx, .cmbs, .gws, .doms, .clks, .mer, .flt, .tel, .sec, .boot, .tap, .held, .bar, .warm, .mirror, .freeCtr] ⊆ m) (h : Touches m s0 s) :
    Touches m s0 (pieceStep s n i a) := by
  unfold pieceStep
  repeat' first
    | with_reducible assumption
    | (with_reducible refine List.Subset.trans ?_ hm); decide
    | with_reducible apply fateNote_touches
    | with_reducible apply pieceWrite_touches
    | with_reducible apply pieceLost_touches
    | with_reducible apply holdAcc_touches
    | with_reducible apply Touches.ite
    | split
    | extract_lets
    | intro _
    | dsimp +zetaDelta only

theorem bcastDone_touches {m : List Part} {s0 s : State} (n : Nat) (i : Nat) (a : HeldAcc) (hm : [.regs, .tap, .held, .resp, .bar, .errAt, .freeCtr] ⊆ m) (h : Touches m s0 s) :
    Touches m s0 (bcastDone s n i a) := by
  unfold bcastDone
  repeat' first
    | with_reducible assumption
    | (with_reducible refine List.Subset.trans ?_ hm); decide
    | with_reducible apply answer_touches
    | with_reducible apply errAcc_touches
    | with_reducible apply setBits_touches
    | with_reducible apply wrF_touches
    | with_reducible apply Touches.ite
    | split
    | extract_lets
    | intro _
    | dsimp +zetaDelta only
    | with_reducible apply Touches.set_held

theorem bcastEnd_touches {m : List Part} {s0 s : State} (n : Nat) (i : Nat) (a : HeldAcc) (hm : [.regs, .tap, .held, .resp, .bar, .errAt, .freeCtr] ⊆ m) (h : Touches m s0 s) :
    Touches m s0 (bcastEnd s n i a) := by
  unfold bcastEnd
  repeat' first
    | with_reducible assumption
    | (with_reducible refine List.Subset.trans ?_ hm); decide
    | with_reducible apply bcastDone_touches
    | with_reducible apply Touches.ite
    | split
    | extract_lets
    | intro _
    | dsimp +zetaDelta only
    | with_reducible apply Touches.set_held

theorem bcast_touches {m : List Part} {s0 s : State} (a : HeldAcc) (hm : [.mem, .regs, .links, .routers, .units, .rx, .tx, .cmbs, .gws, .doms, .clks, .mer, .flt, .tel, .sec, .boot, .tap, .held, .resp, .bar, .warm, .mirror, .errAt, .freeCtr] ⊆ m) (h : Touches m s0 s) :
    Touches m s0 (bcast s a) := by
  unfold bcast
  repeat' first
    | with_reducible assumption
    | (with_reducible refine List.Subset.trans ?_ hm); decide
    | with_reducible apply pieceStep_touches
    | with_reducible apply bcastEnd_touches
    | with_reducible apply Touches.foldl
    | with_reducible apply Touches.ite
    | split
    | extract_lets
    | intro _
    | dsimp +zetaDelta only
    | with_reducible apply Touches.set_tap

theorem barReg_touches {m : List Part} {s0 s : State} (a : HeldAcc) (hm : [.tap, .resp, .bar] ⊆ m) (h : Touches m s0 s) :
    Touches m s0 (barReg s a) := by
  unfold barReg
  repeat' first
    | with_reducible assumption
    | (with_reducible refine List.Subset.trans ?_ hm); decide
    | with_reducible apply answer_touches
    | with_reducible apply Touches.ite
    | split
    | extract_lets
    | intro _
    | dsimp +zetaDelta only
    | with_reducible apply Touches.set_bar

theorem reachAcc_touches {m : List Part} {s0 s : State} (a : HeldAcc) (hm : [.mem, .regs, .links, .routers, .units, .rx, .tx, .cmbs, .gws, .doms, .clks, .mer, .flt, .tel, .sec, .boot, .tap, .held, .resp, .bar, .warm, .mirror, .errAt, .freeCtr] ⊆ m) (h : Touches m s0 s) :
    Touches m s0 (reachAcc s a) := by
  unfold reachAcc
  repeat' first
    | with_reducible assumption
    | (with_reducible refine List.Subset.trans ?_ hm); decide
    | with_reducible apply barReg_touches
    | with_reducible apply errAcc_touches
    | with_reducible apply bcast_touches
    | with_reducible apply serveAcc_touches
    | with_reducible apply holdAcc_touches
    | with_reducible apply Touches.ite
    | split
    | extract_lets
    | intro _
    | dsimp +zetaDelta only

theorem rootAcc_touches {m : List Part} {s0 s : State} (a : HeldAcc) (hm : [.mem, .regs, .links, .routers, .units, .rx, .tx, .cmbs, .gws, .doms, .clks, .mer, .flt, .tel, .sec, .boot, .tap, .held, .resp, .bar, .warm, .mirror, .errAt, .freeCtr] ⊆ m) (h : Touches m s0 s) :
    Touches m s0 (rootAcc s a) := by
  unfold rootAcc
  repeat' first
    | with_reducible assumption
    | (with_reducible refine List.Subset.trans ?_ hm); decide
    | with_reducible apply barReg_touches
    | with_reducible apply errAcc_touches
    | with_reducible apply denyAcc_touches
    | with_reducible apply holdAcc_touches
    | with_reducible apply reachAcc_touches
    | with_reducible apply Touches.ite
    | split
    | extract_lets
    | intro _
    | dsimp +zetaDelta only

theorem localAcc_touches {m : List Part} {s0 s : State} (c : Cell) (a : HeldAcc) (hm : [.mem, .regs, .links, .routers, .units, .rx, .tx, .cmbs, .gws, .doms, .clks, .mer, .flt, .tel, .sec, .boot, .tap, .held, .resp, .bar, .warm, .mirror, .errAt, .freeCtr] ⊆ m) (h : Touches m s0 s) :
    Touches m s0 (localAcc s c a) := by
  unfold localAcc
  repeat' first
    | with_reducible assumption
    | (with_reducible refine List.Subset.trans ?_ hm); decide
    | with_reducible apply errAcc_touches
    | with_reducible apply denyAcc_touches
    | with_reducible apply holdAcc_touches
    | with_reducible apply barReg_touches
    | with_reducible apply serveAcc_touches
    | with_reducible apply Touches.ite
    | split
    | extract_lets
    | intro _
    | dsimp +zetaDelta only

theorem access_touches {m : List Part} {s0 s : State} (a : HeldAcc) (hm : [.mem, .regs, .links, .routers, .units, .rx, .tx, .cmbs, .gws, .doms, .clks, .mer, .flt, .tel, .sec, .boot, .tap, .held, .resp, .bar, .warm, .mirror, .errAt, .freeCtr] ⊆ m) (h : Touches m s0 s) :
    Touches m s0 (access s a) := by
  unfold access
  repeat' first
    | with_reducible assumption
    | (with_reducible refine List.Subset.trans ?_ hm); decide
    | with_reducible apply localAcc_touches
    | with_reducible apply pieceStep_touches
    | with_reducible apply bcastEnd_touches
    | with_reducible apply rootAcc_touches
    | with_reducible apply Touches.ite
    | split
    | extract_lets
    | intro _
    | dsimp +zetaDelta only
    | with_reducible apply Touches.set_held

theorem retryHeld_touches {m : List Part} {s0 s : State}  (hm : [.mem, .regs, .links, .routers, .units, .rx, .tx, .cmbs, .gws, .doms, .clks, .mer, .flt, .tel, .sec, .boot, .tap, .held, .resp, .bar, .warm, .mirror, .errAt, .freeCtr] ⊆ m) (h : Touches m s0 s) :
    Touches m s0 (retryHeld s) := by
  unfold retryHeld
  repeat' first
    | with_reducible assumption
    | (with_reducible refine List.Subset.trans ?_ hm); decide
    | with_reducible apply access_touches
    | with_reducible apply Touches.foldl
    | with_reducible apply Touches.ite
    | split
    | extract_lets
    | intro _
    | dsimp +zetaDelta only
    | with_reducible apply Touches.set_held

theorem serveHeld_touches {m : List Part} {s0 s : State}  (hm : [.mem, .regs, .links, .routers, .units, .rx, .tx, .cmbs, .gws, .doms, .clks, .mer, .flt, .tel, .sec, .boot, .tap, .held, .resp, .bar, .warm, .mirror, .errAt, .freeCtr] ⊆ m) (h : Touches m s0 s) :
    Touches m s0 (serveHeld s) := by
  unfold serveHeld
  repeat' first
    | with_reducible assumption
    | (with_reducible refine List.Subset.trans ?_ hm); decide
    | with_reducible apply retryHeld_touches
    | with_reducible apply Touches.ite
    | split
    | extract_lets
    | intro _
    | dsimp +zetaDelta only

theorem request_touches {m : List Part} {s0 s : State} (a : HeldAcc) (hm : [.mem, .regs, .links, .routers, .units, .rx, .tx, .cmbs, .gws, .doms, .clks, .mer, .flt, .tel, .sec, .boot, .tap, .held, .resp, .bar, .warm, .mirror, .errAt, .freeCtr] ⊆ m) (h : Touches m s0 s) :
    Touches m s0 (request s a) := by
  unfold request
  repeat' first
    | with_reducible assumption
    | (with_reducible refine List.Subset.trans ?_ hm); decide
    | with_reducible apply serveHeld_touches
    | with_reducible apply access_touches
    | with_reducible apply Touches.ite
    | split
    | extract_lets
    | intro _
    | dsimp +zetaDelta only

theorem writeBy_touches {m : List Part} {s0 s : State} (p : Path) (k : Nat) (v : Word) (hm : [.mem, .regs, .links, .routers, .units, .rx, .tx, .cmbs, .gws, .doms, .clks, .mer, .flt, .tel, .sec, .boot, .tap, .held, .resp, .bar, .warm, .mirror, .errAt, .freeCtr] ⊆ m) (h : Touches m s0 s) :
    Touches m s0 (writeBy s p k v) := by
  unfold writeBy
  repeat' first
    | with_reducible assumption
    | (with_reducible refine List.Subset.trans ?_ hm); decide
    | with_reducible apply request_touches
    | with_reducible apply Touches.ite
    | split
    | extract_lets
    | intro _
    | dsimp +zetaDelta only

theorem readBy_touches {m : List Part} {s0 s : State} (p : Path) (k : Nat) (hm : [.mem, .regs, .links, .routers, .units, .rx, .tx, .cmbs, .gws, .doms, .clks, .mer, .flt, .tel, .sec, .boot, .tap, .held, .resp, .bar, .warm, .mirror, .errAt, .freeCtr] ⊆ m) (h : Touches m s0 s) :
    Touches m s0 (readBy s p k) := by
  unfold readBy
  repeat' first
    | with_reducible assumption
    | (with_reducible refine List.Subset.trans ?_ hm); decide
    | with_reducible apply request_touches
    | with_reducible apply Touches.ite
    | split
    | extract_lets
    | intro _
    | dsimp +zetaDelta only

theorem timeoutAcc_touches {m : List Part} {s0 s : State} (a : HeldAcc) (hit : Nat) (late : Bool) (hm : [.mem, .regs, .links, .routers, .units, .rx, .tx, .cmbs, .gws, .doms, .clks, .mer, .flt, .tel, .sec, .boot, .tap, .held, .resp, .bar, .warm, .mirror, .errAt, .freeCtr] ⊆ m) (h : Touches m s0 s) :
    Touches m s0 (timeoutAcc s a hit late) := by
  unfold timeoutAcc
  repeat' first
    | with_reducible assumption
    | (with_reducible refine List.Subset.trans ?_ hm); decide
    | with_reducible apply request_touches
    | with_reducible apply Touches.ite
    | split
    | extract_lets
    | intro _
    | dsimp +zetaDelta only

theorem networkAcc_touches {m : List Part} {s0 s : State} (a : HeldAcc) (hit : Nat) (fatal : Bool) (back : Bool) (hm : [.mem, .regs, .links, .routers, .units, .rx, .tx, .cmbs, .gws, .doms, .clks, .mer, .flt, .tel, .sec, .boot, .tap, .held, .resp, .bar, .warm, .mirror, .errAt, .freeCtr] ⊆ m) (h : Touches m s0 s) :
    Touches m s0 (networkAcc s a hit fatal back) := by
  unfold networkAcc
  repeat' first
    | with_reducible assumption
    | (with_reducible refine List.Subset.trans ?_ hm); decide
    | with_reducible apply request_touches
    | with_reducible apply Touches.ite
    | split
    | extract_lets
    | intro _
    | dsimp +zetaDelta only

end Sys2Proof.Machine
end

