-- ==== Sys2Proof/Laws/Keys.lean ====
section
/-! SUPPORT. Configuration addresses: the parts of an address as one number, the cell and the gateway port that an address
names, and the row that holds a register. -/

namespace Sys2Proof.Machine

/-! ## The parts of an address (R421) -/

theorem keyDom_regKey (d : Nat) {c b o : Nat} (hc : c < 2048) (hb : b < 32) (ho : o < 65536) : keyDom (regKey d c b o) = d := by
  unfold keyDom regKey; omega

theorem keyCell_regKey (d : Nat) {c b o : Nat} (hc : c < 2048) (hb : b < 32) (ho : o < 65536) :
    keyCell (regKey d c b o) = c := by
  unfold keyCell regKey; omega

theorem keyBlk_regKey (d c : Nat) {b o : Nat} (hb : b < 32) (ho : o < 65536) : keyBlk (regKey d c b o) = b := by
  unfold keyBlk regKey; omega

theorem keyOff_regKey (d c b : Nat) {o : Nat} (ho : o < 65536) : keyOff (regKey d c b o) = o := by
  unfold keyOff regKey; omega

/-! ## Cells and gateway ports (R16-R18, R297) -/

theorem cell_num_lt (c : Cell) : c.num < 1200 := by
  unfold Cell.num; omega

theorem cell_field_lt (c : Cell) : c.field < 48 := by
  have hx := c.x.isLt
  have hy := c.y.isLt
  unfold Cell.field fieldXY; omega

theorem cellOf_field_num (c : Cell) : cellOf c.field c.num = c := by
  obtain ⟨⟨x, hx⟩, ⟨y, hy⟩⟩ := c
  simp only [cellOf, mkCell, Cell.field, Cell.num, fieldXY, Fin.ofNat, Cell.mk.injEq, Fin.mk.injEq]
  omega

theorem gw_num_lt (g : GwId) : g.num < 256 := by
  cases g with
  | mem s i => have := s.isLt; have := i.isLt; simp only [GwId.num, GwId.idx, GwId.kind, GwId.side]; omega
  | opt s i => have := s.isLt; have := i.isLt; simp only [GwId.num, GwId.idx, GwId.kind, GwId.side]; omega
  | host s i => have := s.isLt; have := i.isLt; simp only [GwId.num, GwId.idx, GwId.kind, GwId.side]; omega

theorem gwOfNum_num (g : GwId) : gwOfNum g.num = some g := by
  cases g with
  | mem s i => revert s i; decide
  | opt s i => revert s i; decide
  | host s i => revert s i; decide

theorem gw_dom_ge (g : GwId) : 48 ≤ g.dom := by unfold GwId.dom; omega

theorem gw_dom_lt (g : GwId) : g.dom < 52 := by
  cases g with
  | mem s i => have := s.isLt; simp only [GwId.dom, GwId.side]; omega
  | opt s i => have := s.isLt; simp only [GwId.dom, GwId.side]; omega
  | host s i => have := s.isLt; simp only [GwId.dom, GwId.side]; omega

/-! ## Registers of a cell -/

section
variable (c : Cell) {b o : Nat} (hb : b < 32) (ho : o < 65536)
include hb ho

theorem keyDom_cellReg : keyDom (cellReg c b o) = c.field :=
  keyDom_regKey _ (Nat.lt_trans (cell_num_lt c) (by decide)) hb ho

theorem keyCell_cellReg : keyCell (cellReg c b o) = c.num :=
  keyCell_regKey _ (Nat.lt_trans (cell_num_lt c) (by decide)) hb ho

theorem keyBlk_cellReg : keyBlk (cellReg c b o) = b := keyBlk_regKey _ _ hb ho

theorem keyOff_cellReg : keyOff (cellReg c b o) = o := keyOff_regKey _ _ _ ho

end

/-- The rows of a block of a cell. -/
def cellBlockRows (b : Nat) : Option (List RegRow) :=
  match b with
  | 0 => some routerRows
  | 1 => some routeRows
  | 2 => some weltRows
  | 3 => some niRows
  | 4 => some cmbRows
  | 5 => some telCellRows
  | _ => none

theorem blockRows_cell (c : Cell) (b : Nat) : blockRows c.field c.num b = cellBlockRows b :=
  (if_pos (cell_field_lt c)).trans (if_pos (cell_num_lt c))

theorem rowOf_cellReg (c : Cell) {b o : Nat} (hb : b < 32) (ho : o < 65536) :
    rowOf (cellReg c b o) = (cellBlockRows b).bind (fun rows => findRow rows o) := by
  unfold rowOf
  rw [keyDom_cellReg c hb ho, keyCell_cellReg c hb ho, keyBlk_cellReg c hb ho, keyOff_cellReg c hb ho, blockRows_cell]
  cases cellBlockRows b <;> rfl

/-! ## Registers of a gateway port -/

section
variable (g : GwId) {b o : Nat} (hb : b < 32) (ho : o < 65536)
include hb ho

theorem keyDom_gwReg : keyDom (gwReg g b o) = g.dom := keyDom_regKey _ (Nat.lt_trans (gw_num_lt g) (by decide)) hb ho

theorem keyCell_gwReg : keyCell (gwReg g b o) = g.num := keyCell_regKey _ (Nat.lt_trans (gw_num_lt g) (by decide)) hb ho

theorem keyBlk_gwReg : keyBlk (gwReg g b o) = b := keyBlk_regKey _ _ hb ho

theorem keyOff_gwReg : keyOff (gwReg g b o) = o := keyOff_regKey _ _ _ ho

end

/-- The rows of a block of a gateway port of a kind. -/
def gwBlockRows (kind b : Nat) : Option (List RegRow) :=
  match b with
  | 0 => some gwRows
  | 1 => some (match kind with | 0 => memRows | 1 => optRows | _ => hostRows)
  | 5 => some telGwRows
  | _ => none

theorem blockRows_gw (g : GwId) (b : Nat) : blockRows g.dom g.num b = gwBlockRows g.kind b := by
  have h1 := gw_dom_ge g
  have h2 := gw_dom_lt g
  have h3 := gw_num_lt g
  have h4 : g.side = g.dom - 48 := by unfold GwId.dom; omega
  have h5 : ¬ g.dom < 48 := by omega
  refine (if_neg h5).trans ((if_pos h2).trans ?_)
  rw [gwOfNum_num]
  exact if_pos ⟨h3, h4⟩

theorem rowOf_gwReg (g : GwId) {b o : Nat} (hb : b < 32) (ho : o < 65536) :
    rowOf (gwReg g b o) = (gwBlockRows g.kind b).bind (fun rows => findRow rows o) := by
  unfold rowOf
  rw [keyDom_gwReg g hb ho, keyCell_gwReg g hb ho, keyBlk_gwReg g hb ho, keyOff_gwReg g hb ho, blockRows_gw]
  cases gwBlockRows g.kind b <;> rfl

/-! ## Registers of the service and always-on domains -/

theorem keyDom_svcReg {b o : Nat} (hb : b < 32) (ho : o < 65536) : keyDom (svcReg b o) = 52 := keyDom_regKey _ (by decide) hb ho
theorem keyCell_svcReg {b o : Nat} (hb : b < 32) (ho : o < 65536) : keyCell (svcReg b o) = 0 := keyCell_regKey _ (by decide) hb ho
theorem keyBlk_svcReg {b o : Nat} (hb : b < 32) (ho : o < 65536) : keyBlk (svcReg b o) = b := keyBlk_regKey _ _ hb ho
theorem keyOff_svcReg (b : Nat) {o : Nat} (ho : o < 65536) : keyOff (svcReg b o) = o := keyOff_regKey _ _ _ ho
theorem keyDom_aonReg {b o : Nat} (hb : b < 32) (ho : o < 65536) : keyDom (aonReg b o) = 53 := keyDom_regKey _ (by decide) hb ho
theorem keyCell_aonReg {b o : Nat} (hb : b < 32) (ho : o < 65536) : keyCell (aonReg b o) = 0 := keyCell_regKey _ (by decide) hb ho
theorem keyBlk_aonReg {b o : Nat} (hb : b < 32) (ho : o < 65536) : keyBlk (aonReg b o) = b := keyBlk_regKey _ _ hb ho
theorem keyOff_aonReg (b : Nat) {o : Nat} (ho : o < 65536) : keyOff (aonReg b o) = o := keyOff_regKey _ _ _ ho

/-! ## Different registers -/

theorem regKey_inj {d c b o d' c' b' o' : Nat} (hc : c < 2048) (hb : b < 32) (ho : o < 65536) (hc' : c' < 2048) (hb' : b' < 32)
    (ho' : o' < 65536) (h : regKey d c b o = regKey d' c' b' o') : d = d' ∧ c = c' ∧ b = b' ∧ o = o' := by
  unfold regKey at h; omega

theorem cellReg_ne (c : Cell) {b o b' o' : Nat} (hb : b < 32) (ho : o < 65536) (hb' : b' < 32) (ho' : o' < 65536)
    (h : b ≠ b' ∨ o ≠ o') : cellReg c b o ≠ cellReg c b' o' := by
  intro e
  have hc := Nat.lt_trans (cell_num_lt c) (show 1200 < 2048 by decide)
  have k := regKey_inj hc hb ho hc hb' ho' e
  omega

theorem gwReg_ne (g : GwId) {b o b' o' : Nat} (hb : b < 32) (ho : o < 65536) (hb' : b' < 32) (ho' : o' < 65536)
    (h : b ≠ b' ∨ o ≠ o') : gwReg g b o ≠ gwReg g b' o' := by
  intro e
  have hc := Nat.lt_trans (gw_num_lt g) (show 256 < 2048 by decide)
  have k := regKey_inj hc hb ho hc hb' ho' e
  omega

theorem svcReg_ne {b o b' o' : Nat} (hb : b < 32) (ho : o < 65536) (hb' : b' < 32) (ho' : o' < 65536)
    (h : b ≠ b' ∨ o ≠ o') : svcReg b o ≠ svcReg b' o' := by
  intro e
  have k := regKey_inj (by decide) hb ho (by decide) hb' ho' e
  omega

theorem aonReg_ne {b o b' o' : Nat} (hb : b < 32) (ho : o < 65536) (hb' : b' < 32) (ho' : o' < 65536)
    (h : b ≠ b' ∨ o ≠ o') : aonReg b o ≠ aonReg b' o' := by
  intro e
  have k := regKey_inj (by decide) hb ho (by decide) hb' ho' e
  omega

end Sys2Proof.Machine
end

