-- ==== Sys2Proof/Laws/State.lean ====
section
/-! SUPPORT. The fields of the state after each named update, and the named reads after the updates that leave them. -/

namespace Sys2Proof.Machine

/-! ## wr -/

@[simp] theorem wr_pending (s : State) (k : Nat) (v : Word) : (wr s k v).pending = s.pending := rfl
@[simp] theorem wr_mem (s : State) (k : Nat) (v : Word) : (wr s k v).mem = s.mem := rfl
@[simp] theorem wr_regs (s : State) (k : Nat) (v : Word) : (wr s k v).regs = s.regs.set k v := rfl
@[simp] theorem wr_links (s : State) (k : Nat) (v : Word) : (wr s k v).links = s.links := rfl
@[simp] theorem wr_routers (s : State) (k : Nat) (v : Word) : (wr s k v).routers = s.routers := rfl
@[simp] theorem wr_units (s : State) (k : Nat) (v : Word) : (wr s k v).units = s.units := rfl
@[simp] theorem wr_rx (s : State) (k : Nat) (v : Word) : (wr s k v).rx = s.rx := rfl
@[simp] theorem wr_tx (s : State) (k : Nat) (v : Word) : (wr s k v).tx = s.tx := rfl
@[simp] theorem wr_cmbs (s : State) (k : Nat) (v : Word) : (wr s k v).cmbs = s.cmbs := rfl
@[simp] theorem wr_gws (s : State) (k : Nat) (v : Word) : (wr s k v).gws = s.gws := rfl
@[simp] theorem wr_doms (s : State) (k : Nat) (v : Word) : (wr s k v).doms = s.doms := rfl
@[simp] theorem wr_clks (s : State) (k : Nat) (v : Word) : (wr s k v).clks = s.clks := rfl
@[simp] theorem wr_mer (s : State) (k : Nat) (v : Word) : (wr s k v).mer = s.mer := rfl
@[simp] theorem wr_flt (s : State) (k : Nat) (v : Word) : (wr s k v).flt = s.flt := rfl
@[simp] theorem wr_tel (s : State) (k : Nat) (v : Word) : (wr s k v).tel = s.tel := rfl
@[simp] theorem wr_sec (s : State) (k : Nat) (v : Word) : (wr s k v).sec = s.sec := rfl
@[simp] theorem wr_boot (s : State) (k : Nat) (v : Word) : (wr s k v).boot = s.boot := rfl
@[simp] theorem wr_tap (s : State) (k : Nat) (v : Word) : (wr s k v).tap = s.tap := rfl
@[simp] theorem wr_fuses (s : State) (k : Nat) (v : Word) : (wr s k v).fuses = s.fuses := rfl
@[simp] theorem wr_held (s : State) (k : Nat) (v : Word) : (wr s k v).held = s.held := rfl
@[simp] theorem wr_resp (s : State) (k : Nat) (v : Word) : (wr s k v).resp = s.resp := rfl
@[simp] theorem wr_bar (s : State) (k : Nat) (v : Word) : (wr s k v).bar = s.bar := rfl
@[simp] theorem wr_warm (s : State) (k : Nat) (v : Word) : (wr s k v).warm = s.warm := rfl
@[simp] theorem wr_mirror (s : State) (k : Nat) (v : Word) : (wr s k v).mirror = s.mirror := rfl
@[simp] theorem wr_errAt (s : State) (k : Nat) (v : Word) : (wr s k v).errAt = s.errAt := rfl
@[simp] theorem wr_wakePin (s : State) (k : Nat) (v : Word) : (wr s k v).wakePin = s.wakePin := rfl
@[simp] theorem wr_aclk (s : State) (k : Nat) (v : Word) : (wr s k v).aclk = s.aclk := rfl
@[simp] theorem wr_freeCtr (s : State) (k : Nat) (v : Word) : (wr s k v).freeCtr = s.freeCtr := rfl
@[simp] theorem link_wr (s : State) (k : Nat) (v : Word) (e' : EndRef) : link (wr s k v) e' = link s e' := rfl
@[simp] theorem router_wr (s : State) (k : Nat) (v : Word) (c' : Cell) : router (wr s k v) c' = router s c' := rfl
@[simp] theorem rport_wr (s : State) (k : Nat) (v : Word) (c' : Cell) (p' : Nat) : rport (wr s k v) c' p' = rport s c' p' := rfl
@[simp] theorem punit_wr (s : State) (k : Nat) (v : Word) (u' : UnitRef) : punit (wr s k v) u' = punit s u' := rfl
@[simp] theorem rxEnd_wr (s : State) (k : Nat) (v : Word) (e' : EndRef) : rxEnd (wr s k v) e' = rxEnd s e' := rfl
@[simp] theorem txEnd_wr (s : State) (k : Nat) (v : Word) (e' : EndRef) : txEnd (wr s k v) e' = txEnd s e' := rfl
@[simp] theorem gw_wr (s : State) (k : Nat) (v : Word) (g' : GwId) : gw (wr s k v) g' = gw s g' := rfl
@[simp] theorem opt_wr (s : State) (k : Nat) (v : Word) (o' : OptId) : opt (wr s k v) o' = opt s o' := rfl
@[simp] theorem dom_wr (s : State) (k : Nat) (v : Word) (d' : Nat) : dom (wr s k v) d' = dom s d' := rfl
@[simp] theorem clk_wr (s : State) (k : Nat) (v : Word) (k' : Nat) : clk (wr s k v) k' = clk s k' := rfl
@[simp] theorem cyc_wr (s : State) (k : Nat) (v : Word) (d' : Nat) : cyc (wr s k v) d' = cyc s d' := rfl
@[simp] theorem clocked_wr (s : State) (k : Nat) (v : Word) (d' : Nat) : clocked (wr s k v) d' = clocked s d' := rfl
@[simp] theorem memRead_wr (s : State) (k : Nat) (v : Word) (sp' off' n' : Nat) : memRead (wr s k v) sp' off' n' = memRead s sp' off' n' := rfl

/-! ## wrF -/

@[simp] theorem wrF_pending (s : State) (k lo len v : Nat) : (wrF s k lo len v).pending = s.pending := rfl
@[simp] theorem wrF_mem (s : State) (k lo len v : Nat) : (wrF s k lo len v).mem = s.mem := rfl
@[simp] theorem wrF_links (s : State) (k lo len v : Nat) : (wrF s k lo len v).links = s.links := rfl
@[simp] theorem wrF_routers (s : State) (k lo len v : Nat) : (wrF s k lo len v).routers = s.routers := rfl
@[simp] theorem wrF_units (s : State) (k lo len v : Nat) : (wrF s k lo len v).units = s.units := rfl
@[simp] theorem wrF_rx (s : State) (k lo len v : Nat) : (wrF s k lo len v).rx = s.rx := rfl
@[simp] theorem wrF_tx (s : State) (k lo len v : Nat) : (wrF s k lo len v).tx = s.tx := rfl
@[simp] theorem wrF_cmbs (s : State) (k lo len v : Nat) : (wrF s k lo len v).cmbs = s.cmbs := rfl
@[simp] theorem wrF_gws (s : State) (k lo len v : Nat) : (wrF s k lo len v).gws = s.gws := rfl
@[simp] theorem wrF_doms (s : State) (k lo len v : Nat) : (wrF s k lo len v).doms = s.doms := rfl
@[simp] theorem wrF_clks (s : State) (k lo len v : Nat) : (wrF s k lo len v).clks = s.clks := rfl
@[simp] theorem wrF_mer (s : State) (k lo len v : Nat) : (wrF s k lo len v).mer = s.mer := rfl
@[simp] theorem wrF_flt (s : State) (k lo len v : Nat) : (wrF s k lo len v).flt = s.flt := rfl
@[simp] theorem wrF_tel (s : State) (k lo len v : Nat) : (wrF s k lo len v).tel = s.tel := rfl
@[simp] theorem wrF_sec (s : State) (k lo len v : Nat) : (wrF s k lo len v).sec = s.sec := rfl
@[simp] theorem wrF_boot (s : State) (k lo len v : Nat) : (wrF s k lo len v).boot = s.boot := rfl
@[simp] theorem wrF_tap (s : State) (k lo len v : Nat) : (wrF s k lo len v).tap = s.tap := rfl
@[simp] theorem wrF_fuses (s : State) (k lo len v : Nat) : (wrF s k lo len v).fuses = s.fuses := rfl
@[simp] theorem wrF_held (s : State) (k lo len v : Nat) : (wrF s k lo len v).held = s.held := rfl
@[simp] theorem wrF_resp (s : State) (k lo len v : Nat) : (wrF s k lo len v).resp = s.resp := rfl
@[simp] theorem wrF_bar (s : State) (k lo len v : Nat) : (wrF s k lo len v).bar = s.bar := rfl
@[simp] theorem wrF_warm (s : State) (k lo len v : Nat) : (wrF s k lo len v).warm = s.warm := rfl
@[simp] theorem wrF_mirror (s : State) (k lo len v : Nat) : (wrF s k lo len v).mirror = s.mirror := rfl
@[simp] theorem wrF_errAt (s : State) (k lo len v : Nat) : (wrF s k lo len v).errAt = s.errAt := rfl
@[simp] theorem wrF_wakePin (s : State) (k lo len v : Nat) : (wrF s k lo len v).wakePin = s.wakePin := rfl
@[simp] theorem wrF_aclk (s : State) (k lo len v : Nat) : (wrF s k lo len v).aclk = s.aclk := rfl
@[simp] theorem wrF_freeCtr (s : State) (k lo len v : Nat) : (wrF s k lo len v).freeCtr = s.freeCtr := rfl
@[simp] theorem link_wrF (s : State) (k lo len v : Nat) (e' : EndRef) : link (wrF s k lo len v) e' = link s e' := rfl
@[simp] theorem router_wrF (s : State) (k lo len v : Nat) (c' : Cell) : router (wrF s k lo len v) c' = router s c' := rfl
@[simp] theorem rport_wrF (s : State) (k lo len v : Nat) (c' : Cell) (p' : Nat) : rport (wrF s k lo len v) c' p' = rport s c' p' := rfl
@[simp] theorem punit_wrF (s : State) (k lo len v : Nat) (u' : UnitRef) : punit (wrF s k lo len v) u' = punit s u' := rfl
@[simp] theorem rxEnd_wrF (s : State) (k lo len v : Nat) (e' : EndRef) : rxEnd (wrF s k lo len v) e' = rxEnd s e' := rfl
@[simp] theorem txEnd_wrF (s : State) (k lo len v : Nat) (e' : EndRef) : txEnd (wrF s k lo len v) e' = txEnd s e' := rfl
@[simp] theorem gw_wrF (s : State) (k lo len v : Nat) (g' : GwId) : gw (wrF s k lo len v) g' = gw s g' := rfl
@[simp] theorem opt_wrF (s : State) (k lo len v : Nat) (o' : OptId) : opt (wrF s k lo len v) o' = opt s o' := rfl
@[simp] theorem dom_wrF (s : State) (k lo len v : Nat) (d' : Nat) : dom (wrF s k lo len v) d' = dom s d' := rfl
@[simp] theorem clk_wrF (s : State) (k lo len v : Nat) (k' : Nat) : clk (wrF s k lo len v) k' = clk s k' := rfl
@[simp] theorem cyc_wrF (s : State) (k lo len v : Nat) (d' : Nat) : cyc (wrF s k lo len v) d' = cyc s d' := rfl
@[simp] theorem clocked_wrF (s : State) (k lo len v : Nat) (d' : Nat) : clocked (wrF s k lo len v) d' = clocked s d' := rfl
@[simp] theorem memRead_wrF (s : State) (k lo len v : Nat) (sp' off' n' : Nat) : memRead (wrF s k lo len v) sp' off' n' = memRead s sp' off' n' := rfl

/-! ## setBits -/

@[simp] theorem setBits_pending (s : State) (k m : Nat) : (setBits s k m).pending = s.pending := rfl
@[simp] theorem setBits_mem (s : State) (k m : Nat) : (setBits s k m).mem = s.mem := rfl
@[simp] theorem setBits_links (s : State) (k m : Nat) : (setBits s k m).links = s.links := rfl
@[simp] theorem setBits_routers (s : State) (k m : Nat) : (setBits s k m).routers = s.routers := rfl
@[simp] theorem setBits_units (s : State) (k m : Nat) : (setBits s k m).units = s.units := rfl
@[simp] theorem setBits_rx (s : State) (k m : Nat) : (setBits s k m).rx = s.rx := rfl
@[simp] theorem setBits_tx (s : State) (k m : Nat) : (setBits s k m).tx = s.tx := rfl
@[simp] theorem setBits_cmbs (s : State) (k m : Nat) : (setBits s k m).cmbs = s.cmbs := rfl
@[simp] theorem setBits_gws (s : State) (k m : Nat) : (setBits s k m).gws = s.gws := rfl
@[simp] theorem setBits_doms (s : State) (k m : Nat) : (setBits s k m).doms = s.doms := rfl
@[simp] theorem setBits_clks (s : State) (k m : Nat) : (setBits s k m).clks = s.clks := rfl
@[simp] theorem setBits_mer (s : State) (k m : Nat) : (setBits s k m).mer = s.mer := rfl
@[simp] theorem setBits_flt (s : State) (k m : Nat) : (setBits s k m).flt = s.flt := rfl
@[simp] theorem setBits_tel (s : State) (k m : Nat) : (setBits s k m).tel = s.tel := rfl
@[simp] theorem setBits_sec (s : State) (k m : Nat) : (setBits s k m).sec = s.sec := rfl
@[simp] theorem setBits_boot (s : State) (k m : Nat) : (setBits s k m).boot = s.boot := rfl
@[simp] theorem setBits_tap (s : State) (k m : Nat) : (setBits s k m).tap = s.tap := rfl
@[simp] theorem setBits_fuses (s : State) (k m : Nat) : (setBits s k m).fuses = s.fuses := rfl
@[simp] theorem setBits_held (s : State) (k m : Nat) : (setBits s k m).held = s.held := rfl
@[simp] theorem setBits_resp (s : State) (k m : Nat) : (setBits s k m).resp = s.resp := rfl
@[simp] theorem setBits_bar (s : State) (k m : Nat) : (setBits s k m).bar = s.bar := rfl
@[simp] theorem setBits_warm (s : State) (k m : Nat) : (setBits s k m).warm = s.warm := rfl
@[simp] theorem setBits_mirror (s : State) (k m : Nat) : (setBits s k m).mirror = s.mirror := rfl
@[simp] theorem setBits_errAt (s : State) (k m : Nat) : (setBits s k m).errAt = s.errAt := rfl
@[simp] theorem setBits_wakePin (s : State) (k m : Nat) : (setBits s k m).wakePin = s.wakePin := rfl
@[simp] theorem setBits_aclk (s : State) (k m : Nat) : (setBits s k m).aclk = s.aclk := rfl
@[simp] theorem setBits_freeCtr (s : State) (k m : Nat) : (setBits s k m).freeCtr = s.freeCtr := rfl
@[simp] theorem link_setBits (s : State) (k m : Nat) (e' : EndRef) : link (setBits s k m) e' = link s e' := rfl
@[simp] theorem router_setBits (s : State) (k m : Nat) (c' : Cell) : router (setBits s k m) c' = router s c' := rfl
@[simp] theorem rport_setBits (s : State) (k m : Nat) (c' : Cell) (p' : Nat) : rport (setBits s k m) c' p' = rport s c' p' := rfl
@[simp] theorem punit_setBits (s : State) (k m : Nat) (u' : UnitRef) : punit (setBits s k m) u' = punit s u' := rfl
@[simp] theorem rxEnd_setBits (s : State) (k m : Nat) (e' : EndRef) : rxEnd (setBits s k m) e' = rxEnd s e' := rfl
@[simp] theorem txEnd_setBits (s : State) (k m : Nat) (e' : EndRef) : txEnd (setBits s k m) e' = txEnd s e' := rfl
@[simp] theorem gw_setBits (s : State) (k m : Nat) (g' : GwId) : gw (setBits s k m) g' = gw s g' := rfl
@[simp] theorem opt_setBits (s : State) (k m : Nat) (o' : OptId) : opt (setBits s k m) o' = opt s o' := rfl
@[simp] theorem dom_setBits (s : State) (k m : Nat) (d' : Nat) : dom (setBits s k m) d' = dom s d' := rfl
@[simp] theorem clk_setBits (s : State) (k m : Nat) (k' : Nat) : clk (setBits s k m) k' = clk s k' := rfl
@[simp] theorem cyc_setBits (s : State) (k m : Nat) (d' : Nat) : cyc (setBits s k m) d' = cyc s d' := rfl
@[simp] theorem clocked_setBits (s : State) (k m : Nat) (d' : Nat) : clocked (setBits s k m) d' = clocked s d' := rfl
@[simp] theorem memRead_setBits (s : State) (k m : Nat) (sp' off' n' : Nat) : memRead (setBits s k m) sp' off' n' = memRead s sp' off' n' := rfl

/-! ## cntUp -/

@[simp] theorem cntUp_pending (s : State) (k lo len n : Nat) : (cntUp s k lo len n).pending = s.pending := rfl
@[simp] theorem cntUp_mem (s : State) (k lo len n : Nat) : (cntUp s k lo len n).mem = s.mem := rfl
@[simp] theorem cntUp_links (s : State) (k lo len n : Nat) : (cntUp s k lo len n).links = s.links := rfl
@[simp] theorem cntUp_routers (s : State) (k lo len n : Nat) : (cntUp s k lo len n).routers = s.routers := rfl
@[simp] theorem cntUp_units (s : State) (k lo len n : Nat) : (cntUp s k lo len n).units = s.units := rfl
@[simp] theorem cntUp_rx (s : State) (k lo len n : Nat) : (cntUp s k lo len n).rx = s.rx := rfl
@[simp] theorem cntUp_tx (s : State) (k lo len n : Nat) : (cntUp s k lo len n).tx = s.tx := rfl
@[simp] theorem cntUp_cmbs (s : State) (k lo len n : Nat) : (cntUp s k lo len n).cmbs = s.cmbs := rfl
@[simp] theorem cntUp_gws (s : State) (k lo len n : Nat) : (cntUp s k lo len n).gws = s.gws := rfl
@[simp] theorem cntUp_doms (s : State) (k lo len n : Nat) : (cntUp s k lo len n).doms = s.doms := rfl
@[simp] theorem cntUp_clks (s : State) (k lo len n : Nat) : (cntUp s k lo len n).clks = s.clks := rfl
@[simp] theorem cntUp_mer (s : State) (k lo len n : Nat) : (cntUp s k lo len n).mer = s.mer := rfl
@[simp] theorem cntUp_flt (s : State) (k lo len n : Nat) : (cntUp s k lo len n).flt = s.flt := rfl
@[simp] theorem cntUp_tel (s : State) (k lo len n : Nat) : (cntUp s k lo len n).tel = s.tel := rfl
@[simp] theorem cntUp_sec (s : State) (k lo len n : Nat) : (cntUp s k lo len n).sec = s.sec := rfl
@[simp] theorem cntUp_boot (s : State) (k lo len n : Nat) : (cntUp s k lo len n).boot = s.boot := rfl
@[simp] theorem cntUp_tap (s : State) (k lo len n : Nat) : (cntUp s k lo len n).tap = s.tap := rfl
@[simp] theorem cntUp_fuses (s : State) (k lo len n : Nat) : (cntUp s k lo len n).fuses = s.fuses := rfl
@[simp] theorem cntUp_held (s : State) (k lo len n : Nat) : (cntUp s k lo len n).held = s.held := rfl
@[simp] theorem cntUp_resp (s : State) (k lo len n : Nat) : (cntUp s k lo len n).resp = s.resp := rfl
@[simp] theorem cntUp_bar (s : State) (k lo len n : Nat) : (cntUp s k lo len n).bar = s.bar := rfl
@[simp] theorem cntUp_warm (s : State) (k lo len n : Nat) : (cntUp s k lo len n).warm = s.warm := rfl
@[simp] theorem cntUp_mirror (s : State) (k lo len n : Nat) : (cntUp s k lo len n).mirror = s.mirror := rfl
@[simp] theorem cntUp_errAt (s : State) (k lo len n : Nat) : (cntUp s k lo len n).errAt = s.errAt := rfl
@[simp] theorem cntUp_wakePin (s : State) (k lo len n : Nat) : (cntUp s k lo len n).wakePin = s.wakePin := rfl
@[simp] theorem cntUp_aclk (s : State) (k lo len n : Nat) : (cntUp s k lo len n).aclk = s.aclk := rfl
@[simp] theorem cntUp_freeCtr (s : State) (k lo len n : Nat) : (cntUp s k lo len n).freeCtr = s.freeCtr := rfl
@[simp] theorem link_cntUp (s : State) (k lo len n : Nat) (e' : EndRef) : link (cntUp s k lo len n) e' = link s e' := rfl
@[simp] theorem router_cntUp (s : State) (k lo len n : Nat) (c' : Cell) : router (cntUp s k lo len n) c' = router s c' := rfl
@[simp] theorem rport_cntUp (s : State) (k lo len n : Nat) (c' : Cell) (p' : Nat) : rport (cntUp s k lo len n) c' p' = rport s c' p' := rfl
@[simp] theorem punit_cntUp (s : State) (k lo len n : Nat) (u' : UnitRef) : punit (cntUp s k lo len n) u' = punit s u' := rfl
@[simp] theorem rxEnd_cntUp (s : State) (k lo len n : Nat) (e' : EndRef) : rxEnd (cntUp s k lo len n) e' = rxEnd s e' := rfl
@[simp] theorem txEnd_cntUp (s : State) (k lo len n : Nat) (e' : EndRef) : txEnd (cntUp s k lo len n) e' = txEnd s e' := rfl
@[simp] theorem gw_cntUp (s : State) (k lo len n : Nat) (g' : GwId) : gw (cntUp s k lo len n) g' = gw s g' := rfl
@[simp] theorem opt_cntUp (s : State) (k lo len n : Nat) (o' : OptId) : opt (cntUp s k lo len n) o' = opt s o' := rfl
@[simp] theorem dom_cntUp (s : State) (k lo len n : Nat) (d' : Nat) : dom (cntUp s k lo len n) d' = dom s d' := rfl
@[simp] theorem clk_cntUp (s : State) (k lo len n : Nat) (k' : Nat) : clk (cntUp s k lo len n) k' = clk s k' := rfl
@[simp] theorem cyc_cntUp (s : State) (k lo len n : Nat) (d' : Nat) : cyc (cntUp s k lo len n) d' = cyc s d' := rfl
@[simp] theorem clocked_cntUp (s : State) (k lo len n : Nat) (d' : Nat) : clocked (cntUp s k lo len n) d' = clocked s d' := rfl
@[simp] theorem memRead_cntUp (s : State) (k lo len n : Nat) (sp' off' n' : Nat) : memRead (cntUp s k lo len n) sp' off' n' = memRead s sp' off' n' := rfl

/-! ## maxUp -/

@[simp] theorem maxUp_pending (s : State) (k lo len v : Nat) : (maxUp s k lo len v).pending = s.pending := rfl
@[simp] theorem maxUp_mem (s : State) (k lo len v : Nat) : (maxUp s k lo len v).mem = s.mem := rfl
@[simp] theorem maxUp_links (s : State) (k lo len v : Nat) : (maxUp s k lo len v).links = s.links := rfl
@[simp] theorem maxUp_routers (s : State) (k lo len v : Nat) : (maxUp s k lo len v).routers = s.routers := rfl
@[simp] theorem maxUp_units (s : State) (k lo len v : Nat) : (maxUp s k lo len v).units = s.units := rfl
@[simp] theorem maxUp_rx (s : State) (k lo len v : Nat) : (maxUp s k lo len v).rx = s.rx := rfl
@[simp] theorem maxUp_tx (s : State) (k lo len v : Nat) : (maxUp s k lo len v).tx = s.tx := rfl
@[simp] theorem maxUp_cmbs (s : State) (k lo len v : Nat) : (maxUp s k lo len v).cmbs = s.cmbs := rfl
@[simp] theorem maxUp_gws (s : State) (k lo len v : Nat) : (maxUp s k lo len v).gws = s.gws := rfl
@[simp] theorem maxUp_doms (s : State) (k lo len v : Nat) : (maxUp s k lo len v).doms = s.doms := rfl
@[simp] theorem maxUp_clks (s : State) (k lo len v : Nat) : (maxUp s k lo len v).clks = s.clks := rfl
@[simp] theorem maxUp_mer (s : State) (k lo len v : Nat) : (maxUp s k lo len v).mer = s.mer := rfl
@[simp] theorem maxUp_flt (s : State) (k lo len v : Nat) : (maxUp s k lo len v).flt = s.flt := rfl
@[simp] theorem maxUp_tel (s : State) (k lo len v : Nat) : (maxUp s k lo len v).tel = s.tel := rfl
@[simp] theorem maxUp_sec (s : State) (k lo len v : Nat) : (maxUp s k lo len v).sec = s.sec := rfl
@[simp] theorem maxUp_boot (s : State) (k lo len v : Nat) : (maxUp s k lo len v).boot = s.boot := rfl
@[simp] theorem maxUp_tap (s : State) (k lo len v : Nat) : (maxUp s k lo len v).tap = s.tap := rfl
@[simp] theorem maxUp_fuses (s : State) (k lo len v : Nat) : (maxUp s k lo len v).fuses = s.fuses := rfl
@[simp] theorem maxUp_held (s : State) (k lo len v : Nat) : (maxUp s k lo len v).held = s.held := rfl
@[simp] theorem maxUp_resp (s : State) (k lo len v : Nat) : (maxUp s k lo len v).resp = s.resp := rfl
@[simp] theorem maxUp_bar (s : State) (k lo len v : Nat) : (maxUp s k lo len v).bar = s.bar := rfl
@[simp] theorem maxUp_warm (s : State) (k lo len v : Nat) : (maxUp s k lo len v).warm = s.warm := rfl
@[simp] theorem maxUp_mirror (s : State) (k lo len v : Nat) : (maxUp s k lo len v).mirror = s.mirror := rfl
@[simp] theorem maxUp_errAt (s : State) (k lo len v : Nat) : (maxUp s k lo len v).errAt = s.errAt := rfl
@[simp] theorem maxUp_wakePin (s : State) (k lo len v : Nat) : (maxUp s k lo len v).wakePin = s.wakePin := rfl
@[simp] theorem maxUp_aclk (s : State) (k lo len v : Nat) : (maxUp s k lo len v).aclk = s.aclk := rfl
@[simp] theorem maxUp_freeCtr (s : State) (k lo len v : Nat) : (maxUp s k lo len v).freeCtr = s.freeCtr := rfl
@[simp] theorem link_maxUp (s : State) (k lo len v : Nat) (e' : EndRef) : link (maxUp s k lo len v) e' = link s e' := rfl
@[simp] theorem router_maxUp (s : State) (k lo len v : Nat) (c' : Cell) : router (maxUp s k lo len v) c' = router s c' := rfl
@[simp] theorem rport_maxUp (s : State) (k lo len v : Nat) (c' : Cell) (p' : Nat) : rport (maxUp s k lo len v) c' p' = rport s c' p' := rfl
@[simp] theorem punit_maxUp (s : State) (k lo len v : Nat) (u' : UnitRef) : punit (maxUp s k lo len v) u' = punit s u' := rfl
@[simp] theorem rxEnd_maxUp (s : State) (k lo len v : Nat) (e' : EndRef) : rxEnd (maxUp s k lo len v) e' = rxEnd s e' := rfl
@[simp] theorem txEnd_maxUp (s : State) (k lo len v : Nat) (e' : EndRef) : txEnd (maxUp s k lo len v) e' = txEnd s e' := rfl
@[simp] theorem gw_maxUp (s : State) (k lo len v : Nat) (g' : GwId) : gw (maxUp s k lo len v) g' = gw s g' := rfl
@[simp] theorem opt_maxUp (s : State) (k lo len v : Nat) (o' : OptId) : opt (maxUp s k lo len v) o' = opt s o' := rfl
@[simp] theorem dom_maxUp (s : State) (k lo len v : Nat) (d' : Nat) : dom (maxUp s k lo len v) d' = dom s d' := rfl
@[simp] theorem clk_maxUp (s : State) (k lo len v : Nat) (k' : Nat) : clk (maxUp s k lo len v) k' = clk s k' := rfl
@[simp] theorem cyc_maxUp (s : State) (k lo len v : Nat) (d' : Nat) : cyc (maxUp s k lo len v) d' = cyc s d' := rfl
@[simp] theorem clocked_maxUp (s : State) (k lo len v : Nat) (d' : Nat) : clocked (maxUp s k lo len v) d' = clocked s d' := rfl
@[simp] theorem memRead_maxUp (s : State) (k lo len v : Nat) (sp' off' n' : Nat) : memRead (maxUp s k lo len v) sp' off' n' = memRead s sp' off' n' := rfl

/-! ## wrMask -/

@[simp] theorem wrMask_pending (s : State) (k mask : Nat) (v : Word) : (wrMask s k mask v).pending = s.pending := rfl
@[simp] theorem wrMask_mem (s : State) (k mask : Nat) (v : Word) : (wrMask s k mask v).mem = s.mem := rfl
@[simp] theorem wrMask_links (s : State) (k mask : Nat) (v : Word) : (wrMask s k mask v).links = s.links := rfl
@[simp] theorem wrMask_routers (s : State) (k mask : Nat) (v : Word) : (wrMask s k mask v).routers = s.routers := rfl
@[simp] theorem wrMask_units (s : State) (k mask : Nat) (v : Word) : (wrMask s k mask v).units = s.units := rfl
@[simp] theorem wrMask_rx (s : State) (k mask : Nat) (v : Word) : (wrMask s k mask v).rx = s.rx := rfl
@[simp] theorem wrMask_tx (s : State) (k mask : Nat) (v : Word) : (wrMask s k mask v).tx = s.tx := rfl
@[simp] theorem wrMask_cmbs (s : State) (k mask : Nat) (v : Word) : (wrMask s k mask v).cmbs = s.cmbs := rfl
@[simp] theorem wrMask_gws (s : State) (k mask : Nat) (v : Word) : (wrMask s k mask v).gws = s.gws := rfl
@[simp] theorem wrMask_doms (s : State) (k mask : Nat) (v : Word) : (wrMask s k mask v).doms = s.doms := rfl
@[simp] theorem wrMask_clks (s : State) (k mask : Nat) (v : Word) : (wrMask s k mask v).clks = s.clks := rfl
@[simp] theorem wrMask_mer (s : State) (k mask : Nat) (v : Word) : (wrMask s k mask v).mer = s.mer := rfl
@[simp] theorem wrMask_flt (s : State) (k mask : Nat) (v : Word) : (wrMask s k mask v).flt = s.flt := rfl
@[simp] theorem wrMask_tel (s : State) (k mask : Nat) (v : Word) : (wrMask s k mask v).tel = s.tel := rfl
@[simp] theorem wrMask_sec (s : State) (k mask : Nat) (v : Word) : (wrMask s k mask v).sec = s.sec := rfl
@[simp] theorem wrMask_boot (s : State) (k mask : Nat) (v : Word) : (wrMask s k mask v).boot = s.boot := rfl
@[simp] theorem wrMask_tap (s : State) (k mask : Nat) (v : Word) : (wrMask s k mask v).tap = s.tap := rfl
@[simp] theorem wrMask_fuses (s : State) (k mask : Nat) (v : Word) : (wrMask s k mask v).fuses = s.fuses := rfl
@[simp] theorem wrMask_held (s : State) (k mask : Nat) (v : Word) : (wrMask s k mask v).held = s.held := rfl
@[simp] theorem wrMask_resp (s : State) (k mask : Nat) (v : Word) : (wrMask s k mask v).resp = s.resp := rfl
@[simp] theorem wrMask_bar (s : State) (k mask : Nat) (v : Word) : (wrMask s k mask v).bar = s.bar := rfl
@[simp] theorem wrMask_warm (s : State) (k mask : Nat) (v : Word) : (wrMask s k mask v).warm = s.warm := rfl
@[simp] theorem wrMask_mirror (s : State) (k mask : Nat) (v : Word) : (wrMask s k mask v).mirror = s.mirror := rfl
@[simp] theorem wrMask_errAt (s : State) (k mask : Nat) (v : Word) : (wrMask s k mask v).errAt = s.errAt := rfl
@[simp] theorem wrMask_wakePin (s : State) (k mask : Nat) (v : Word) : (wrMask s k mask v).wakePin = s.wakePin := rfl
@[simp] theorem wrMask_aclk (s : State) (k mask : Nat) (v : Word) : (wrMask s k mask v).aclk = s.aclk := rfl
@[simp] theorem wrMask_freeCtr (s : State) (k mask : Nat) (v : Word) : (wrMask s k mask v).freeCtr = s.freeCtr := rfl
@[simp] theorem link_wrMask (s : State) (k mask : Nat) (v : Word) (e' : EndRef) : link (wrMask s k mask v) e' = link s e' := rfl
@[simp] theorem router_wrMask (s : State) (k mask : Nat) (v : Word) (c' : Cell) : router (wrMask s k mask v) c' = router s c' := rfl
@[simp] theorem rport_wrMask (s : State) (k mask : Nat) (v : Word) (c' : Cell) (p' : Nat) : rport (wrMask s k mask v) c' p' = rport s c' p' := rfl
@[simp] theorem punit_wrMask (s : State) (k mask : Nat) (v : Word) (u' : UnitRef) : punit (wrMask s k mask v) u' = punit s u' := rfl
@[simp] theorem rxEnd_wrMask (s : State) (k mask : Nat) (v : Word) (e' : EndRef) : rxEnd (wrMask s k mask v) e' = rxEnd s e' := rfl
@[simp] theorem txEnd_wrMask (s : State) (k mask : Nat) (v : Word) (e' : EndRef) : txEnd (wrMask s k mask v) e' = txEnd s e' := rfl
@[simp] theorem gw_wrMask (s : State) (k mask : Nat) (v : Word) (g' : GwId) : gw (wrMask s k mask v) g' = gw s g' := rfl
@[simp] theorem opt_wrMask (s : State) (k mask : Nat) (v : Word) (o' : OptId) : opt (wrMask s k mask v) o' = opt s o' := rfl
@[simp] theorem dom_wrMask (s : State) (k mask : Nat) (v : Word) (d' : Nat) : dom (wrMask s k mask v) d' = dom s d' := rfl
@[simp] theorem clk_wrMask (s : State) (k mask : Nat) (v : Word) (k' : Nat) : clk (wrMask s k mask v) k' = clk s k' := rfl
@[simp] theorem cyc_wrMask (s : State) (k mask : Nat) (v : Word) (d' : Nat) : cyc (wrMask s k mask v) d' = cyc s d' := rfl
@[simp] theorem clocked_wrMask (s : State) (k mask : Nat) (v : Word) (d' : Nat) : clocked (wrMask s k mask v) d' = clocked s d' := rfl
@[simp] theorem memRead_wrMask (s : State) (k mask : Nat) (v : Word) (sp' off' n' : Nat) : memRead (wrMask s k mask v) sp' off' n' = memRead s sp' off' n' := rfl

/-! ## memWrite -/

@[simp] theorem memWrite_pending (s : State) (space off : Nat) (l : List Byte) : (memWrite s space off l).pending = s.pending := rfl
@[simp] theorem memWrite_mem (s : State) (space off : Nat) (l : List Byte) : (memWrite s space off l).mem = memPuts s.mem (memAddr space off) l := rfl
@[simp] theorem memWrite_regs (s : State) (space off : Nat) (l : List Byte) : (memWrite s space off l).regs = s.regs := rfl
@[simp] theorem memWrite_links (s : State) (space off : Nat) (l : List Byte) : (memWrite s space off l).links = s.links := rfl
@[simp] theorem memWrite_routers (s : State) (space off : Nat) (l : List Byte) : (memWrite s space off l).routers = s.routers := rfl
@[simp] theorem memWrite_units (s : State) (space off : Nat) (l : List Byte) : (memWrite s space off l).units = s.units := rfl
@[simp] theorem memWrite_rx (s : State) (space off : Nat) (l : List Byte) : (memWrite s space off l).rx = s.rx := rfl
@[simp] theorem memWrite_tx (s : State) (space off : Nat) (l : List Byte) : (memWrite s space off l).tx = s.tx := rfl
@[simp] theorem memWrite_cmbs (s : State) (space off : Nat) (l : List Byte) : (memWrite s space off l).cmbs = s.cmbs := rfl
@[simp] theorem memWrite_gws (s : State) (space off : Nat) (l : List Byte) : (memWrite s space off l).gws = s.gws := rfl
@[simp] theorem memWrite_doms (s : State) (space off : Nat) (l : List Byte) : (memWrite s space off l).doms = s.doms := rfl
@[simp] theorem memWrite_clks (s : State) (space off : Nat) (l : List Byte) : (memWrite s space off l).clks = s.clks := rfl
@[simp] theorem memWrite_mer (s : State) (space off : Nat) (l : List Byte) : (memWrite s space off l).mer = s.mer := rfl
@[simp] theorem memWrite_flt (s : State) (space off : Nat) (l : List Byte) : (memWrite s space off l).flt = s.flt := rfl
@[simp] theorem memWrite_tel (s : State) (space off : Nat) (l : List Byte) : (memWrite s space off l).tel = s.tel := rfl
@[simp] theorem memWrite_sec (s : State) (space off : Nat) (l : List Byte) : (memWrite s space off l).sec = s.sec := rfl
@[simp] theorem memWrite_boot (s : State) (space off : Nat) (l : List Byte) : (memWrite s space off l).boot = s.boot := rfl
@[simp] theorem memWrite_tap (s : State) (space off : Nat) (l : List Byte) : (memWrite s space off l).tap = s.tap := rfl
@[simp] theorem memWrite_fuses (s : State) (space off : Nat) (l : List Byte) : (memWrite s space off l).fuses = s.fuses := rfl
@[simp] theorem memWrite_held (s : State) (space off : Nat) (l : List Byte) : (memWrite s space off l).held = s.held := rfl
@[simp] theorem memWrite_resp (s : State) (space off : Nat) (l : List Byte) : (memWrite s space off l).resp = s.resp := rfl
@[simp] theorem memWrite_bar (s : State) (space off : Nat) (l : List Byte) : (memWrite s space off l).bar = s.bar := rfl
@[simp] theorem memWrite_warm (s : State) (space off : Nat) (l : List Byte) : (memWrite s space off l).warm = s.warm := rfl
@[simp] theorem memWrite_mirror (s : State) (space off : Nat) (l : List Byte) : (memWrite s space off l).mirror = s.mirror := rfl
@[simp] theorem memWrite_errAt (s : State) (space off : Nat) (l : List Byte) : (memWrite s space off l).errAt = s.errAt := rfl
@[simp] theorem memWrite_wakePin (s : State) (space off : Nat) (l : List Byte) : (memWrite s space off l).wakePin = s.wakePin := rfl
@[simp] theorem memWrite_aclk (s : State) (space off : Nat) (l : List Byte) : (memWrite s space off l).aclk = s.aclk := rfl
@[simp] theorem memWrite_freeCtr (s : State) (space off : Nat) (l : List Byte) : (memWrite s space off l).freeCtr = s.freeCtr := rfl
@[simp] theorem rd_memWrite (s : State) (space off : Nat) (l : List Byte) (k' : Nat) : rd (memWrite s space off l) k' = rd s k' := rfl
@[simp] theorem rdF_memWrite (s : State) (space off : Nat) (l : List Byte) (k' lo' len' : Nat) : rdF (memWrite s space off l) k' lo' len' = rdF s k' lo' len' := rfl
@[simp] theorem link_memWrite (s : State) (space off : Nat) (l : List Byte) (e' : EndRef) : link (memWrite s space off l) e' = link s e' := rfl
@[simp] theorem router_memWrite (s : State) (space off : Nat) (l : List Byte) (c' : Cell) : router (memWrite s space off l) c' = router s c' := rfl
@[simp] theorem rport_memWrite (s : State) (space off : Nat) (l : List Byte) (c' : Cell) (p' : Nat) : rport (memWrite s space off l) c' p' = rport s c' p' := rfl
@[simp] theorem punit_memWrite (s : State) (space off : Nat) (l : List Byte) (u' : UnitRef) : punit (memWrite s space off l) u' = punit s u' := rfl
@[simp] theorem rxEnd_memWrite (s : State) (space off : Nat) (l : List Byte) (e' : EndRef) : rxEnd (memWrite s space off l) e' = rxEnd s e' := rfl
@[simp] theorem txEnd_memWrite (s : State) (space off : Nat) (l : List Byte) (e' : EndRef) : txEnd (memWrite s space off l) e' = txEnd s e' := rfl
@[simp] theorem gw_memWrite (s : State) (space off : Nat) (l : List Byte) (g' : GwId) : gw (memWrite s space off l) g' = gw s g' := rfl
@[simp] theorem opt_memWrite (s : State) (space off : Nat) (l : List Byte) (o' : OptId) : opt (memWrite s space off l) o' = opt s o' := rfl
@[simp] theorem dom_memWrite (s : State) (space off : Nat) (l : List Byte) (d' : Nat) : dom (memWrite s space off l) d' = dom s d' := rfl
@[simp] theorem clk_memWrite (s : State) (space off : Nat) (l : List Byte) (k' : Nat) : clk (memWrite s space off l) k' = clk s k' := rfl
@[simp] theorem cyc_memWrite (s : State) (space off : Nat) (l : List Byte) (d' : Nat) : cyc (memWrite s space off l) d' = cyc s d' := rfl
@[simp] theorem clocked_memWrite (s : State) (space off : Nat) (l : List Byte) (d' : Nat) : clocked (memWrite s space off l) d' = clocked s d' := rfl

/-! ## setLink -/

@[simp] theorem setLink_pending (s : State) (e : EndRef) (l : LinkEnd) : (setLink s e l).pending = s.pending := rfl
@[simp] theorem setLink_mem (s : State) (e : EndRef) (l : LinkEnd) : (setLink s e l).mem = s.mem := rfl
@[simp] theorem setLink_regs (s : State) (e : EndRef) (l : LinkEnd) : (setLink s e l).regs = s.regs := rfl
@[simp] theorem setLink_links (s : State) (e : EndRef) (l : LinkEnd) : (setLink s e l).links = s.links.set e.key l := rfl
@[simp] theorem setLink_routers (s : State) (e : EndRef) (l : LinkEnd) : (setLink s e l).routers = s.routers := rfl
@[simp] theorem setLink_units (s : State) (e : EndRef) (l : LinkEnd) : (setLink s e l).units = s.units := rfl
@[simp] theorem setLink_rx (s : State) (e : EndRef) (l : LinkEnd) : (setLink s e l).rx = s.rx := rfl
@[simp] theorem setLink_tx (s : State) (e : EndRef) (l : LinkEnd) : (setLink s e l).tx = s.tx := rfl
@[simp] theorem setLink_cmbs (s : State) (e : EndRef) (l : LinkEnd) : (setLink s e l).cmbs = s.cmbs := rfl
@[simp] theorem setLink_gws (s : State) (e : EndRef) (l : LinkEnd) : (setLink s e l).gws = s.gws := rfl
@[simp] theorem setLink_doms (s : State) (e : EndRef) (l : LinkEnd) : (setLink s e l).doms = s.doms := rfl
@[simp] theorem setLink_clks (s : State) (e : EndRef) (l : LinkEnd) : (setLink s e l).clks = s.clks := rfl
@[simp] theorem setLink_mer (s : State) (e : EndRef) (l : LinkEnd) : (setLink s e l).mer = s.mer := rfl
@[simp] theorem setLink_flt (s : State) (e : EndRef) (l : LinkEnd) : (setLink s e l).flt = s.flt := rfl
@[simp] theorem setLink_tel (s : State) (e : EndRef) (l : LinkEnd) : (setLink s e l).tel = s.tel := rfl
@[simp] theorem setLink_sec (s : State) (e : EndRef) (l : LinkEnd) : (setLink s e l).sec = s.sec := rfl
@[simp] theorem setLink_boot (s : State) (e : EndRef) (l : LinkEnd) : (setLink s e l).boot = s.boot := rfl
@[simp] theorem setLink_tap (s : State) (e : EndRef) (l : LinkEnd) : (setLink s e l).tap = s.tap := rfl
@[simp] theorem setLink_fuses (s : State) (e : EndRef) (l : LinkEnd) : (setLink s e l).fuses = s.fuses := rfl
@[simp] theorem setLink_held (s : State) (e : EndRef) (l : LinkEnd) : (setLink s e l).held = s.held := rfl
@[simp] theorem setLink_resp (s : State) (e : EndRef) (l : LinkEnd) : (setLink s e l).resp = s.resp := rfl
@[simp] theorem setLink_bar (s : State) (e : EndRef) (l : LinkEnd) : (setLink s e l).bar = s.bar := rfl
@[simp] theorem setLink_warm (s : State) (e : EndRef) (l : LinkEnd) : (setLink s e l).warm = s.warm := rfl
@[simp] theorem setLink_mirror (s : State) (e : EndRef) (l : LinkEnd) : (setLink s e l).mirror = s.mirror := rfl
@[simp] theorem setLink_errAt (s : State) (e : EndRef) (l : LinkEnd) : (setLink s e l).errAt = s.errAt := rfl
@[simp] theorem setLink_wakePin (s : State) (e : EndRef) (l : LinkEnd) : (setLink s e l).wakePin = s.wakePin := rfl
@[simp] theorem setLink_aclk (s : State) (e : EndRef) (l : LinkEnd) : (setLink s e l).aclk = s.aclk := rfl
@[simp] theorem setLink_freeCtr (s : State) (e : EndRef) (l : LinkEnd) : (setLink s e l).freeCtr = s.freeCtr := rfl
@[simp] theorem rd_setLink (s : State) (e : EndRef) (l : LinkEnd) (k' : Nat) : rd (setLink s e l) k' = rd s k' := rfl
@[simp] theorem rdF_setLink (s : State) (e : EndRef) (l : LinkEnd) (k' lo' len' : Nat) : rdF (setLink s e l) k' lo' len' = rdF s k' lo' len' := rfl
@[simp] theorem router_setLink (s : State) (e : EndRef) (l : LinkEnd) (c' : Cell) : router (setLink s e l) c' = router s c' := rfl
@[simp] theorem rport_setLink (s : State) (e : EndRef) (l : LinkEnd) (c' : Cell) (p' : Nat) : rport (setLink s e l) c' p' = rport s c' p' := rfl
@[simp] theorem punit_setLink (s : State) (e : EndRef) (l : LinkEnd) (u' : UnitRef) : punit (setLink s e l) u' = punit s u' := rfl
@[simp] theorem rxEnd_setLink (s : State) (e : EndRef) (l : LinkEnd) (e' : EndRef) : rxEnd (setLink s e l) e' = rxEnd s e' := rfl
@[simp] theorem txEnd_setLink (s : State) (e : EndRef) (l : LinkEnd) (e' : EndRef) : txEnd (setLink s e l) e' = txEnd s e' := rfl
@[simp] theorem gw_setLink (s : State) (e : EndRef) (l : LinkEnd) (g' : GwId) : gw (setLink s e l) g' = gw s g' := rfl
@[simp] theorem opt_setLink (s : State) (e : EndRef) (l : LinkEnd) (o' : OptId) : opt (setLink s e l) o' = opt s o' := rfl
@[simp] theorem dom_setLink (s : State) (e : EndRef) (l : LinkEnd) (d' : Nat) : dom (setLink s e l) d' = dom s d' := rfl
@[simp] theorem clk_setLink (s : State) (e : EndRef) (l : LinkEnd) (k' : Nat) : clk (setLink s e l) k' = clk s k' := rfl
@[simp] theorem cyc_setLink (s : State) (e : EndRef) (l : LinkEnd) (d' : Nat) : cyc (setLink s e l) d' = cyc s d' := rfl
@[simp] theorem clocked_setLink (s : State) (e : EndRef) (l : LinkEnd) (d' : Nat) : clocked (setLink s e l) d' = clocked s d' := rfl
@[simp] theorem memRead_setLink (s : State) (e : EndRef) (l : LinkEnd) (sp' off' n' : Nat) : memRead (setLink s e l) sp' off' n' = memRead s sp' off' n' := rfl

/-! ## updLink -/

@[simp] theorem updLink_pending (s : State) (e : EndRef) (f : LinkEnd → LinkEnd) : (updLink s e f).pending = s.pending := rfl
@[simp] theorem updLink_mem (s : State) (e : EndRef) (f : LinkEnd → LinkEnd) : (updLink s e f).mem = s.mem := rfl
@[simp] theorem updLink_regs (s : State) (e : EndRef) (f : LinkEnd → LinkEnd) : (updLink s e f).regs = s.regs := rfl
@[simp] theorem updLink_links (s : State) (e : EndRef) (f : LinkEnd → LinkEnd) : (updLink s e f).links = s.links.set e.key (f (link s e)) := rfl
@[simp] theorem updLink_routers (s : State) (e : EndRef) (f : LinkEnd → LinkEnd) : (updLink s e f).routers = s.routers := rfl
@[simp] theorem updLink_units (s : State) (e : EndRef) (f : LinkEnd → LinkEnd) : (updLink s e f).units = s.units := rfl
@[simp] theorem updLink_rx (s : State) (e : EndRef) (f : LinkEnd → LinkEnd) : (updLink s e f).rx = s.rx := rfl
@[simp] theorem updLink_tx (s : State) (e : EndRef) (f : LinkEnd → LinkEnd) : (updLink s e f).tx = s.tx := rfl
@[simp] theorem updLink_cmbs (s : State) (e : EndRef) (f : LinkEnd → LinkEnd) : (updLink s e f).cmbs = s.cmbs := rfl
@[simp] theorem updLink_gws (s : State) (e : EndRef) (f : LinkEnd → LinkEnd) : (updLink s e f).gws = s.gws := rfl
@[simp] theorem updLink_doms (s : State) (e : EndRef) (f : LinkEnd → LinkEnd) : (updLink s e f).doms = s.doms := rfl
@[simp] theorem updLink_clks (s : State) (e : EndRef) (f : LinkEnd → LinkEnd) : (updLink s e f).clks = s.clks := rfl
@[simp] theorem updLink_mer (s : State) (e : EndRef) (f : LinkEnd → LinkEnd) : (updLink s e f).mer = s.mer := rfl
@[simp] theorem updLink_flt (s : State) (e : EndRef) (f : LinkEnd → LinkEnd) : (updLink s e f).flt = s.flt := rfl
@[simp] theorem updLink_tel (s : State) (e : EndRef) (f : LinkEnd → LinkEnd) : (updLink s e f).tel = s.tel := rfl
@[simp] theorem updLink_sec (s : State) (e : EndRef) (f : LinkEnd → LinkEnd) : (updLink s e f).sec = s.sec := rfl
@[simp] theorem updLink_boot (s : State) (e : EndRef) (f : LinkEnd → LinkEnd) : (updLink s e f).boot = s.boot := rfl
@[simp] theorem updLink_tap (s : State) (e : EndRef) (f : LinkEnd → LinkEnd) : (updLink s e f).tap = s.tap := rfl
@[simp] theorem updLink_fuses (s : State) (e : EndRef) (f : LinkEnd → LinkEnd) : (updLink s e f).fuses = s.fuses := rfl
@[simp] theorem updLink_held (s : State) (e : EndRef) (f : LinkEnd → LinkEnd) : (updLink s e f).held = s.held := rfl
@[simp] theorem updLink_resp (s : State) (e : EndRef) (f : LinkEnd → LinkEnd) : (updLink s e f).resp = s.resp := rfl
@[simp] theorem updLink_bar (s : State) (e : EndRef) (f : LinkEnd → LinkEnd) : (updLink s e f).bar = s.bar := rfl
@[simp] theorem updLink_warm (s : State) (e : EndRef) (f : LinkEnd → LinkEnd) : (updLink s e f).warm = s.warm := rfl
@[simp] theorem updLink_mirror (s : State) (e : EndRef) (f : LinkEnd → LinkEnd) : (updLink s e f).mirror = s.mirror := rfl
@[simp] theorem updLink_errAt (s : State) (e : EndRef) (f : LinkEnd → LinkEnd) : (updLink s e f).errAt = s.errAt := rfl
@[simp] theorem updLink_wakePin (s : State) (e : EndRef) (f : LinkEnd → LinkEnd) : (updLink s e f).wakePin = s.wakePin := rfl
@[simp] theorem updLink_aclk (s : State) (e : EndRef) (f : LinkEnd → LinkEnd) : (updLink s e f).aclk = s.aclk := rfl
@[simp] theorem updLink_freeCtr (s : State) (e : EndRef) (f : LinkEnd → LinkEnd) : (updLink s e f).freeCtr = s.freeCtr := rfl
@[simp] theorem rd_updLink (s : State) (e : EndRef) (f : LinkEnd → LinkEnd) (k' : Nat) : rd (updLink s e f) k' = rd s k' := rfl
@[simp] theorem rdF_updLink (s : State) (e : EndRef) (f : LinkEnd → LinkEnd) (k' lo' len' : Nat) : rdF (updLink s e f) k' lo' len' = rdF s k' lo' len' := rfl
@[simp] theorem router_updLink (s : State) (e : EndRef) (f : LinkEnd → LinkEnd) (c' : Cell) : router (updLink s e f) c' = router s c' := rfl
@[simp] theorem rport_updLink (s : State) (e : EndRef) (f : LinkEnd → LinkEnd) (c' : Cell) (p' : Nat) : rport (updLink s e f) c' p' = rport s c' p' := rfl
@[simp] theorem punit_updLink (s : State) (e : EndRef) (f : LinkEnd → LinkEnd) (u' : UnitRef) : punit (updLink s e f) u' = punit s u' := rfl
@[simp] theorem rxEnd_updLink (s : State) (e : EndRef) (f : LinkEnd → LinkEnd) (e' : EndRef) : rxEnd (updLink s e f) e' = rxEnd s e' := rfl
@[simp] theorem txEnd_updLink (s : State) (e : EndRef) (f : LinkEnd → LinkEnd) (e' : EndRef) : txEnd (updLink s e f) e' = txEnd s e' := rfl
@[simp] theorem gw_updLink (s : State) (e : EndRef) (f : LinkEnd → LinkEnd) (g' : GwId) : gw (updLink s e f) g' = gw s g' := rfl
@[simp] theorem opt_updLink (s : State) (e : EndRef) (f : LinkEnd → LinkEnd) (o' : OptId) : opt (updLink s e f) o' = opt s o' := rfl
@[simp] theorem dom_updLink (s : State) (e : EndRef) (f : LinkEnd → LinkEnd) (d' : Nat) : dom (updLink s e f) d' = dom s d' := rfl
@[simp] theorem clk_updLink (s : State) (e : EndRef) (f : LinkEnd → LinkEnd) (k' : Nat) : clk (updLink s e f) k' = clk s k' := rfl
@[simp] theorem cyc_updLink (s : State) (e : EndRef) (f : LinkEnd → LinkEnd) (d' : Nat) : cyc (updLink s e f) d' = cyc s d' := rfl
@[simp] theorem clocked_updLink (s : State) (e : EndRef) (f : LinkEnd → LinkEnd) (d' : Nat) : clocked (updLink s e f) d' = clocked s d' := rfl
@[simp] theorem memRead_updLink (s : State) (e : EndRef) (f : LinkEnd → LinkEnd) (sp' off' n' : Nat) : memRead (updLink s e f) sp' off' n' = memRead s sp' off' n' := rfl

/-! ## setRouter -/

@[simp] theorem setRouter_pending (s : State) (c : Cell) (r : Router) : (setRouter s c r).pending = s.pending := rfl
@[simp] theorem setRouter_mem (s : State) (c : Cell) (r : Router) : (setRouter s c r).mem = s.mem := rfl
@[simp] theorem setRouter_regs (s : State) (c : Cell) (r : Router) : (setRouter s c r).regs = s.regs := rfl
@[simp] theorem setRouter_links (s : State) (c : Cell) (r : Router) : (setRouter s c r).links = s.links := rfl
@[simp] theorem setRouter_routers (s : State) (c : Cell) (r : Router) : (setRouter s c r).routers = s.routers.set c.key r := rfl
@[simp] theorem setRouter_units (s : State) (c : Cell) (r : Router) : (setRouter s c r).units = s.units := rfl
@[simp] theorem setRouter_rx (s : State) (c : Cell) (r : Router) : (setRouter s c r).rx = s.rx := rfl
@[simp] theorem setRouter_tx (s : State) (c : Cell) (r : Router) : (setRouter s c r).tx = s.tx := rfl
@[simp] theorem setRouter_cmbs (s : State) (c : Cell) (r : Router) : (setRouter s c r).cmbs = s.cmbs := rfl
@[simp] theorem setRouter_gws (s : State) (c : Cell) (r : Router) : (setRouter s c r).gws = s.gws := rfl
@[simp] theorem setRouter_doms (s : State) (c : Cell) (r : Router) : (setRouter s c r).doms = s.doms := rfl
@[simp] theorem setRouter_clks (s : State) (c : Cell) (r : Router) : (setRouter s c r).clks = s.clks := rfl
@[simp] theorem setRouter_mer (s : State) (c : Cell) (r : Router) : (setRouter s c r).mer = s.mer := rfl
@[simp] theorem setRouter_flt (s : State) (c : Cell) (r : Router) : (setRouter s c r).flt = s.flt := rfl
@[simp] theorem setRouter_tel (s : State) (c : Cell) (r : Router) : (setRouter s c r).tel = s.tel := rfl
@[simp] theorem setRouter_sec (s : State) (c : Cell) (r : Router) : (setRouter s c r).sec = s.sec := rfl
@[simp] theorem setRouter_boot (s : State) (c : Cell) (r : Router) : (setRouter s c r).boot = s.boot := rfl
@[simp] theorem setRouter_tap (s : State) (c : Cell) (r : Router) : (setRouter s c r).tap = s.tap := rfl
@[simp] theorem setRouter_fuses (s : State) (c : Cell) (r : Router) : (setRouter s c r).fuses = s.fuses := rfl
@[simp] theorem setRouter_held (s : State) (c : Cell) (r : Router) : (setRouter s c r).held = s.held := rfl
@[simp] theorem setRouter_resp (s : State) (c : Cell) (r : Router) : (setRouter s c r).resp = s.resp := rfl
@[simp] theorem setRouter_bar (s : State) (c : Cell) (r : Router) : (setRouter s c r).bar = s.bar := rfl
@[simp] theorem setRouter_warm (s : State) (c : Cell) (r : Router) : (setRouter s c r).warm = s.warm := rfl
@[simp] theorem setRouter_mirror (s : State) (c : Cell) (r : Router) : (setRouter s c r).mirror = s.mirror := rfl
@[simp] theorem setRouter_errAt (s : State) (c : Cell) (r : Router) : (setRouter s c r).errAt = s.errAt := rfl
@[simp] theorem setRouter_wakePin (s : State) (c : Cell) (r : Router) : (setRouter s c r).wakePin = s.wakePin := rfl
@[simp] theorem setRouter_aclk (s : State) (c : Cell) (r : Router) : (setRouter s c r).aclk = s.aclk := rfl
@[simp] theorem setRouter_freeCtr (s : State) (c : Cell) (r : Router) : (setRouter s c r).freeCtr = s.freeCtr := rfl
@[simp] theorem rd_setRouter (s : State) (c : Cell) (r : Router) (k' : Nat) : rd (setRouter s c r) k' = rd s k' := rfl
@[simp] theorem rdF_setRouter (s : State) (c : Cell) (r : Router) (k' lo' len' : Nat) : rdF (setRouter s c r) k' lo' len' = rdF s k' lo' len' := rfl
@[simp] theorem link_setRouter (s : State) (c : Cell) (r : Router) (e' : EndRef) : link (setRouter s c r) e' = link s e' := rfl
@[simp] theorem punit_setRouter (s : State) (c : Cell) (r : Router) (u' : UnitRef) : punit (setRouter s c r) u' = punit s u' := rfl
@[simp] theorem rxEnd_setRouter (s : State) (c : Cell) (r : Router) (e' : EndRef) : rxEnd (setRouter s c r) e' = rxEnd s e' := rfl
@[simp] theorem txEnd_setRouter (s : State) (c : Cell) (r : Router) (e' : EndRef) : txEnd (setRouter s c r) e' = txEnd s e' := rfl
@[simp] theorem gw_setRouter (s : State) (c : Cell) (r : Router) (g' : GwId) : gw (setRouter s c r) g' = gw s g' := rfl
@[simp] theorem opt_setRouter (s : State) (c : Cell) (r : Router) (o' : OptId) : opt (setRouter s c r) o' = opt s o' := rfl
@[simp] theorem dom_setRouter (s : State) (c : Cell) (r : Router) (d' : Nat) : dom (setRouter s c r) d' = dom s d' := rfl
@[simp] theorem clk_setRouter (s : State) (c : Cell) (r : Router) (k' : Nat) : clk (setRouter s c r) k' = clk s k' := rfl
@[simp] theorem cyc_setRouter (s : State) (c : Cell) (r : Router) (d' : Nat) : cyc (setRouter s c r) d' = cyc s d' := rfl
@[simp] theorem clocked_setRouter (s : State) (c : Cell) (r : Router) (d' : Nat) : clocked (setRouter s c r) d' = clocked s d' := rfl
@[simp] theorem memRead_setRouter (s : State) (c : Cell) (r : Router) (sp' off' n' : Nat) : memRead (setRouter s c r) sp' off' n' = memRead s sp' off' n' := rfl

/-! ## setRport -/

@[simp] theorem setRport_pending (s : State) (c : Cell) (p : Nat) (x : RPort) : (setRport s c p x).pending = s.pending := rfl
@[simp] theorem setRport_mem (s : State) (c : Cell) (p : Nat) (x : RPort) : (setRport s c p x).mem = s.mem := rfl
@[simp] theorem setRport_regs (s : State) (c : Cell) (p : Nat) (x : RPort) : (setRport s c p x).regs = s.regs := rfl
@[simp] theorem setRport_links (s : State) (c : Cell) (p : Nat) (x : RPort) : (setRport s c p x).links = s.links := rfl
@[simp] theorem setRport_routers (s : State) (c : Cell) (p : Nat) (x : RPort) : (setRport s c p x).routers = s.routers.set c.key ((router s c).setPort p x) := rfl
@[simp] theorem setRport_units (s : State) (c : Cell) (p : Nat) (x : RPort) : (setRport s c p x).units = s.units := rfl
@[simp] theorem setRport_rx (s : State) (c : Cell) (p : Nat) (x : RPort) : (setRport s c p x).rx = s.rx := rfl
@[simp] theorem setRport_tx (s : State) (c : Cell) (p : Nat) (x : RPort) : (setRport s c p x).tx = s.tx := rfl
@[simp] theorem setRport_cmbs (s : State) (c : Cell) (p : Nat) (x : RPort) : (setRport s c p x).cmbs = s.cmbs := rfl
@[simp] theorem setRport_gws (s : State) (c : Cell) (p : Nat) (x : RPort) : (setRport s c p x).gws = s.gws := rfl
@[simp] theorem setRport_doms (s : State) (c : Cell) (p : Nat) (x : RPort) : (setRport s c p x).doms = s.doms := rfl
@[simp] theorem setRport_clks (s : State) (c : Cell) (p : Nat) (x : RPort) : (setRport s c p x).clks = s.clks := rfl
@[simp] theorem setRport_mer (s : State) (c : Cell) (p : Nat) (x : RPort) : (setRport s c p x).mer = s.mer := rfl
@[simp] theorem setRport_flt (s : State) (c : Cell) (p : Nat) (x : RPort) : (setRport s c p x).flt = s.flt := rfl
@[simp] theorem setRport_tel (s : State) (c : Cell) (p : Nat) (x : RPort) : (setRport s c p x).tel = s.tel := rfl
@[simp] theorem setRport_sec (s : State) (c : Cell) (p : Nat) (x : RPort) : (setRport s c p x).sec = s.sec := rfl
@[simp] theorem setRport_boot (s : State) (c : Cell) (p : Nat) (x : RPort) : (setRport s c p x).boot = s.boot := rfl
@[simp] theorem setRport_tap (s : State) (c : Cell) (p : Nat) (x : RPort) : (setRport s c p x).tap = s.tap := rfl
@[simp] theorem setRport_fuses (s : State) (c : Cell) (p : Nat) (x : RPort) : (setRport s c p x).fuses = s.fuses := rfl
@[simp] theorem setRport_held (s : State) (c : Cell) (p : Nat) (x : RPort) : (setRport s c p x).held = s.held := rfl
@[simp] theorem setRport_resp (s : State) (c : Cell) (p : Nat) (x : RPort) : (setRport s c p x).resp = s.resp := rfl
@[simp] theorem setRport_bar (s : State) (c : Cell) (p : Nat) (x : RPort) : (setRport s c p x).bar = s.bar := rfl
@[simp] theorem setRport_warm (s : State) (c : Cell) (p : Nat) (x : RPort) : (setRport s c p x).warm = s.warm := rfl
@[simp] theorem setRport_mirror (s : State) (c : Cell) (p : Nat) (x : RPort) : (setRport s c p x).mirror = s.mirror := rfl
@[simp] theorem setRport_errAt (s : State) (c : Cell) (p : Nat) (x : RPort) : (setRport s c p x).errAt = s.errAt := rfl
@[simp] theorem setRport_wakePin (s : State) (c : Cell) (p : Nat) (x : RPort) : (setRport s c p x).wakePin = s.wakePin := rfl
@[simp] theorem setRport_aclk (s : State) (c : Cell) (p : Nat) (x : RPort) : (setRport s c p x).aclk = s.aclk := rfl
@[simp] theorem setRport_freeCtr (s : State) (c : Cell) (p : Nat) (x : RPort) : (setRport s c p x).freeCtr = s.freeCtr := rfl
@[simp] theorem rd_setRport (s : State) (c : Cell) (p : Nat) (x : RPort) (k' : Nat) : rd (setRport s c p x) k' = rd s k' := rfl
@[simp] theorem rdF_setRport (s : State) (c : Cell) (p : Nat) (x : RPort) (k' lo' len' : Nat) : rdF (setRport s c p x) k' lo' len' = rdF s k' lo' len' := rfl
@[simp] theorem link_setRport (s : State) (c : Cell) (p : Nat) (x : RPort) (e' : EndRef) : link (setRport s c p x) e' = link s e' := rfl
@[simp] theorem punit_setRport (s : State) (c : Cell) (p : Nat) (x : RPort) (u' : UnitRef) : punit (setRport s c p x) u' = punit s u' := rfl
@[simp] theorem rxEnd_setRport (s : State) (c : Cell) (p : Nat) (x : RPort) (e' : EndRef) : rxEnd (setRport s c p x) e' = rxEnd s e' := rfl
@[simp] theorem txEnd_setRport (s : State) (c : Cell) (p : Nat) (x : RPort) (e' : EndRef) : txEnd (setRport s c p x) e' = txEnd s e' := rfl
@[simp] theorem gw_setRport (s : State) (c : Cell) (p : Nat) (x : RPort) (g' : GwId) : gw (setRport s c p x) g' = gw s g' := rfl
@[simp] theorem opt_setRport (s : State) (c : Cell) (p : Nat) (x : RPort) (o' : OptId) : opt (setRport s c p x) o' = opt s o' := rfl
@[simp] theorem dom_setRport (s : State) (c : Cell) (p : Nat) (x : RPort) (d' : Nat) : dom (setRport s c p x) d' = dom s d' := rfl
@[simp] theorem clk_setRport (s : State) (c : Cell) (p : Nat) (x : RPort) (k' : Nat) : clk (setRport s c p x) k' = clk s k' := rfl
@[simp] theorem cyc_setRport (s : State) (c : Cell) (p : Nat) (x : RPort) (d' : Nat) : cyc (setRport s c p x) d' = cyc s d' := rfl
@[simp] theorem clocked_setRport (s : State) (c : Cell) (p : Nat) (x : RPort) (d' : Nat) : clocked (setRport s c p x) d' = clocked s d' := rfl
@[simp] theorem memRead_setRport (s : State) (c : Cell) (p : Nat) (x : RPort) (sp' off' n' : Nat) : memRead (setRport s c p x) sp' off' n' = memRead s sp' off' n' := rfl

/-! ## setVcIn -/

@[simp] theorem setVcIn_pending (s : State) (c : Cell) (p v : Nat) (y : VcIn) : (setVcIn s c p v y).pending = s.pending := rfl
@[simp] theorem setVcIn_mem (s : State) (c : Cell) (p v : Nat) (y : VcIn) : (setVcIn s c p v y).mem = s.mem := rfl
@[simp] theorem setVcIn_regs (s : State) (c : Cell) (p v : Nat) (y : VcIn) : (setVcIn s c p v y).regs = s.regs := rfl
@[simp] theorem setVcIn_links (s : State) (c : Cell) (p v : Nat) (y : VcIn) : (setVcIn s c p v y).links = s.links := rfl
@[simp] theorem setVcIn_routers (s : State) (c : Cell) (p v : Nat) (y : VcIn) : (setVcIn s c p v y).routers = s.routers.set c.key ((router s c).setPort p ((rport s c p).setVc v y)) := rfl
@[simp] theorem setVcIn_units (s : State) (c : Cell) (p v : Nat) (y : VcIn) : (setVcIn s c p v y).units = s.units := rfl
@[simp] theorem setVcIn_rx (s : State) (c : Cell) (p v : Nat) (y : VcIn) : (setVcIn s c p v y).rx = s.rx := rfl
@[simp] theorem setVcIn_tx (s : State) (c : Cell) (p v : Nat) (y : VcIn) : (setVcIn s c p v y).tx = s.tx := rfl
@[simp] theorem setVcIn_cmbs (s : State) (c : Cell) (p v : Nat) (y : VcIn) : (setVcIn s c p v y).cmbs = s.cmbs := rfl
@[simp] theorem setVcIn_gws (s : State) (c : Cell) (p v : Nat) (y : VcIn) : (setVcIn s c p v y).gws = s.gws := rfl
@[simp] theorem setVcIn_doms (s : State) (c : Cell) (p v : Nat) (y : VcIn) : (setVcIn s c p v y).doms = s.doms := rfl
@[simp] theorem setVcIn_clks (s : State) (c : Cell) (p v : Nat) (y : VcIn) : (setVcIn s c p v y).clks = s.clks := rfl
@[simp] theorem setVcIn_mer (s : State) (c : Cell) (p v : Nat) (y : VcIn) : (setVcIn s c p v y).mer = s.mer := rfl
@[simp] theorem setVcIn_flt (s : State) (c : Cell) (p v : Nat) (y : VcIn) : (setVcIn s c p v y).flt = s.flt := rfl
@[simp] theorem setVcIn_tel (s : State) (c : Cell) (p v : Nat) (y : VcIn) : (setVcIn s c p v y).tel = s.tel := rfl
@[simp] theorem setVcIn_sec (s : State) (c : Cell) (p v : Nat) (y : VcIn) : (setVcIn s c p v y).sec = s.sec := rfl
@[simp] theorem setVcIn_boot (s : State) (c : Cell) (p v : Nat) (y : VcIn) : (setVcIn s c p v y).boot = s.boot := rfl
@[simp] theorem setVcIn_tap (s : State) (c : Cell) (p v : Nat) (y : VcIn) : (setVcIn s c p v y).tap = s.tap := rfl
@[simp] theorem setVcIn_fuses (s : State) (c : Cell) (p v : Nat) (y : VcIn) : (setVcIn s c p v y).fuses = s.fuses := rfl
@[simp] theorem setVcIn_held (s : State) (c : Cell) (p v : Nat) (y : VcIn) : (setVcIn s c p v y).held = s.held := rfl
@[simp] theorem setVcIn_resp (s : State) (c : Cell) (p v : Nat) (y : VcIn) : (setVcIn s c p v y).resp = s.resp := rfl
@[simp] theorem setVcIn_bar (s : State) (c : Cell) (p v : Nat) (y : VcIn) : (setVcIn s c p v y).bar = s.bar := rfl
@[simp] theorem setVcIn_warm (s : State) (c : Cell) (p v : Nat) (y : VcIn) : (setVcIn s c p v y).warm = s.warm := rfl
@[simp] theorem setVcIn_mirror (s : State) (c : Cell) (p v : Nat) (y : VcIn) : (setVcIn s c p v y).mirror = s.mirror := rfl
@[simp] theorem setVcIn_errAt (s : State) (c : Cell) (p v : Nat) (y : VcIn) : (setVcIn s c p v y).errAt = s.errAt := rfl
@[simp] theorem setVcIn_wakePin (s : State) (c : Cell) (p v : Nat) (y : VcIn) : (setVcIn s c p v y).wakePin = s.wakePin := rfl
@[simp] theorem setVcIn_aclk (s : State) (c : Cell) (p v : Nat) (y : VcIn) : (setVcIn s c p v y).aclk = s.aclk := rfl
@[simp] theorem setVcIn_freeCtr (s : State) (c : Cell) (p v : Nat) (y : VcIn) : (setVcIn s c p v y).freeCtr = s.freeCtr := rfl
@[simp] theorem rd_setVcIn (s : State) (c : Cell) (p v : Nat) (y : VcIn) (k' : Nat) : rd (setVcIn s c p v y) k' = rd s k' := rfl
@[simp] theorem rdF_setVcIn (s : State) (c : Cell) (p v : Nat) (y : VcIn) (k' lo' len' : Nat) : rdF (setVcIn s c p v y) k' lo' len' = rdF s k' lo' len' := rfl
@[simp] theorem link_setVcIn (s : State) (c : Cell) (p v : Nat) (y : VcIn) (e' : EndRef) : link (setVcIn s c p v y) e' = link s e' := rfl
@[simp] theorem punit_setVcIn (s : State) (c : Cell) (p v : Nat) (y : VcIn) (u' : UnitRef) : punit (setVcIn s c p v y) u' = punit s u' := rfl
@[simp] theorem rxEnd_setVcIn (s : State) (c : Cell) (p v : Nat) (y : VcIn) (e' : EndRef) : rxEnd (setVcIn s c p v y) e' = rxEnd s e' := rfl
@[simp] theorem txEnd_setVcIn (s : State) (c : Cell) (p v : Nat) (y : VcIn) (e' : EndRef) : txEnd (setVcIn s c p v y) e' = txEnd s e' := rfl
@[simp] theorem gw_setVcIn (s : State) (c : Cell) (p v : Nat) (y : VcIn) (g' : GwId) : gw (setVcIn s c p v y) g' = gw s g' := rfl
@[simp] theorem opt_setVcIn (s : State) (c : Cell) (p v : Nat) (y : VcIn) (o' : OptId) : opt (setVcIn s c p v y) o' = opt s o' := rfl
@[simp] theorem dom_setVcIn (s : State) (c : Cell) (p v : Nat) (y : VcIn) (d' : Nat) : dom (setVcIn s c p v y) d' = dom s d' := rfl
@[simp] theorem clk_setVcIn (s : State) (c : Cell) (p v : Nat) (y : VcIn) (k' : Nat) : clk (setVcIn s c p v y) k' = clk s k' := rfl
@[simp] theorem cyc_setVcIn (s : State) (c : Cell) (p v : Nat) (y : VcIn) (d' : Nat) : cyc (setVcIn s c p v y) d' = cyc s d' := rfl
@[simp] theorem clocked_setVcIn (s : State) (c : Cell) (p v : Nat) (y : VcIn) (d' : Nat) : clocked (setVcIn s c p v y) d' = clocked s d' := rfl
@[simp] theorem memRead_setVcIn (s : State) (c : Cell) (p v : Nat) (y : VcIn) (sp' off' n' : Nat) : memRead (setVcIn s c p v y) sp' off' n' = memRead s sp' off' n' := rfl

/-! ## setUnit -/

@[simp] theorem setUnit_pending (s : State) (u : UnitRef) (x : PUnit) : (setUnit s u x).pending = s.pending := rfl
@[simp] theorem setUnit_mem (s : State) (u : UnitRef) (x : PUnit) : (setUnit s u x).mem = s.mem := rfl
@[simp] theorem setUnit_regs (s : State) (u : UnitRef) (x : PUnit) : (setUnit s u x).regs = s.regs := rfl
@[simp] theorem setUnit_links (s : State) (u : UnitRef) (x : PUnit) : (setUnit s u x).links = s.links := rfl
@[simp] theorem setUnit_routers (s : State) (u : UnitRef) (x : PUnit) : (setUnit s u x).routers = s.routers := rfl
@[simp] theorem setUnit_units (s : State) (u : UnitRef) (x : PUnit) : (setUnit s u x).units = s.units.set u.key x := rfl
@[simp] theorem setUnit_rx (s : State) (u : UnitRef) (x : PUnit) : (setUnit s u x).rx = s.rx := rfl
@[simp] theorem setUnit_tx (s : State) (u : UnitRef) (x : PUnit) : (setUnit s u x).tx = s.tx := rfl
@[simp] theorem setUnit_cmbs (s : State) (u : UnitRef) (x : PUnit) : (setUnit s u x).cmbs = s.cmbs := rfl
@[simp] theorem setUnit_gws (s : State) (u : UnitRef) (x : PUnit) : (setUnit s u x).gws = s.gws := rfl
@[simp] theorem setUnit_doms (s : State) (u : UnitRef) (x : PUnit) : (setUnit s u x).doms = s.doms := rfl
@[simp] theorem setUnit_clks (s : State) (u : UnitRef) (x : PUnit) : (setUnit s u x).clks = s.clks := rfl
@[simp] theorem setUnit_mer (s : State) (u : UnitRef) (x : PUnit) : (setUnit s u x).mer = s.mer := rfl
@[simp] theorem setUnit_flt (s : State) (u : UnitRef) (x : PUnit) : (setUnit s u x).flt = s.flt := rfl
@[simp] theorem setUnit_tel (s : State) (u : UnitRef) (x : PUnit) : (setUnit s u x).tel = s.tel := rfl
@[simp] theorem setUnit_sec (s : State) (u : UnitRef) (x : PUnit) : (setUnit s u x).sec = s.sec := rfl
@[simp] theorem setUnit_boot (s : State) (u : UnitRef) (x : PUnit) : (setUnit s u x).boot = s.boot := rfl
@[simp] theorem setUnit_tap (s : State) (u : UnitRef) (x : PUnit) : (setUnit s u x).tap = s.tap := rfl
@[simp] theorem setUnit_fuses (s : State) (u : UnitRef) (x : PUnit) : (setUnit s u x).fuses = s.fuses := rfl
@[simp] theorem setUnit_held (s : State) (u : UnitRef) (x : PUnit) : (setUnit s u x).held = s.held := rfl
@[simp] theorem setUnit_resp (s : State) (u : UnitRef) (x : PUnit) : (setUnit s u x).resp = s.resp := rfl
@[simp] theorem setUnit_bar (s : State) (u : UnitRef) (x : PUnit) : (setUnit s u x).bar = s.bar := rfl
@[simp] theorem setUnit_warm (s : State) (u : UnitRef) (x : PUnit) : (setUnit s u x).warm = s.warm := rfl
@[simp] theorem setUnit_mirror (s : State) (u : UnitRef) (x : PUnit) : (setUnit s u x).mirror = s.mirror := rfl
@[simp] theorem setUnit_errAt (s : State) (u : UnitRef) (x : PUnit) : (setUnit s u x).errAt = s.errAt := rfl
@[simp] theorem setUnit_wakePin (s : State) (u : UnitRef) (x : PUnit) : (setUnit s u x).wakePin = s.wakePin := rfl
@[simp] theorem setUnit_aclk (s : State) (u : UnitRef) (x : PUnit) : (setUnit s u x).aclk = s.aclk := rfl
@[simp] theorem setUnit_freeCtr (s : State) (u : UnitRef) (x : PUnit) : (setUnit s u x).freeCtr = s.freeCtr := rfl
@[simp] theorem rd_setUnit (s : State) (u : UnitRef) (x : PUnit) (k' : Nat) : rd (setUnit s u x) k' = rd s k' := rfl
@[simp] theorem rdF_setUnit (s : State) (u : UnitRef) (x : PUnit) (k' lo' len' : Nat) : rdF (setUnit s u x) k' lo' len' = rdF s k' lo' len' := rfl
@[simp] theorem link_setUnit (s : State) (u : UnitRef) (x : PUnit) (e' : EndRef) : link (setUnit s u x) e' = link s e' := rfl
@[simp] theorem router_setUnit (s : State) (u : UnitRef) (x : PUnit) (c' : Cell) : router (setUnit s u x) c' = router s c' := rfl
@[simp] theorem rport_setUnit (s : State) (u : UnitRef) (x : PUnit) (c' : Cell) (p' : Nat) : rport (setUnit s u x) c' p' = rport s c' p' := rfl
@[simp] theorem rxEnd_setUnit (s : State) (u : UnitRef) (x : PUnit) (e' : EndRef) : rxEnd (setUnit s u x) e' = rxEnd s e' := rfl
@[simp] theorem txEnd_setUnit (s : State) (u : UnitRef) (x : PUnit) (e' : EndRef) : txEnd (setUnit s u x) e' = txEnd s e' := rfl
@[simp] theorem gw_setUnit (s : State) (u : UnitRef) (x : PUnit) (g' : GwId) : gw (setUnit s u x) g' = gw s g' := rfl
@[simp] theorem opt_setUnit (s : State) (u : UnitRef) (x : PUnit) (o' : OptId) : opt (setUnit s u x) o' = opt s o' := rfl
@[simp] theorem dom_setUnit (s : State) (u : UnitRef) (x : PUnit) (d' : Nat) : dom (setUnit s u x) d' = dom s d' := rfl
@[simp] theorem clk_setUnit (s : State) (u : UnitRef) (x : PUnit) (k' : Nat) : clk (setUnit s u x) k' = clk s k' := rfl
@[simp] theorem cyc_setUnit (s : State) (u : UnitRef) (x : PUnit) (d' : Nat) : cyc (setUnit s u x) d' = cyc s d' := rfl
@[simp] theorem clocked_setUnit (s : State) (u : UnitRef) (x : PUnit) (d' : Nat) : clocked (setUnit s u x) d' = clocked s d' := rfl
@[simp] theorem memRead_setUnit (s : State) (u : UnitRef) (x : PUnit) (sp' off' n' : Nat) : memRead (setUnit s u x) sp' off' n' = memRead s sp' off' n' := rfl

/-! ## updUnit -/

@[simp] theorem updUnit_pending (s : State) (u : UnitRef) (f : PUnit → PUnit) : (updUnit s u f).pending = s.pending := rfl
@[simp] theorem updUnit_mem (s : State) (u : UnitRef) (f : PUnit → PUnit) : (updUnit s u f).mem = s.mem := rfl
@[simp] theorem updUnit_regs (s : State) (u : UnitRef) (f : PUnit → PUnit) : (updUnit s u f).regs = s.regs := rfl
@[simp] theorem updUnit_links (s : State) (u : UnitRef) (f : PUnit → PUnit) : (updUnit s u f).links = s.links := rfl
@[simp] theorem updUnit_routers (s : State) (u : UnitRef) (f : PUnit → PUnit) : (updUnit s u f).routers = s.routers := rfl
@[simp] theorem updUnit_units (s : State) (u : UnitRef) (f : PUnit → PUnit) : (updUnit s u f).units = s.units.set u.key (f (punit s u)) := rfl
@[simp] theorem updUnit_rx (s : State) (u : UnitRef) (f : PUnit → PUnit) : (updUnit s u f).rx = s.rx := rfl
@[simp] theorem updUnit_tx (s : State) (u : UnitRef) (f : PUnit → PUnit) : (updUnit s u f).tx = s.tx := rfl
@[simp] theorem updUnit_cmbs (s : State) (u : UnitRef) (f : PUnit → PUnit) : (updUnit s u f).cmbs = s.cmbs := rfl
@[simp] theorem updUnit_gws (s : State) (u : UnitRef) (f : PUnit → PUnit) : (updUnit s u f).gws = s.gws := rfl
@[simp] theorem updUnit_doms (s : State) (u : UnitRef) (f : PUnit → PUnit) : (updUnit s u f).doms = s.doms := rfl
@[simp] theorem updUnit_clks (s : State) (u : UnitRef) (f : PUnit → PUnit) : (updUnit s u f).clks = s.clks := rfl
@[simp] theorem updUnit_mer (s : State) (u : UnitRef) (f : PUnit → PUnit) : (updUnit s u f).mer = s.mer := rfl
@[simp] theorem updUnit_flt (s : State) (u : UnitRef) (f : PUnit → PUnit) : (updUnit s u f).flt = s.flt := rfl
@[simp] theorem updUnit_tel (s : State) (u : UnitRef) (f : PUnit → PUnit) : (updUnit s u f).tel = s.tel := rfl
@[simp] theorem updUnit_sec (s : State) (u : UnitRef) (f : PUnit → PUnit) : (updUnit s u f).sec = s.sec := rfl
@[simp] theorem updUnit_boot (s : State) (u : UnitRef) (f : PUnit → PUnit) : (updUnit s u f).boot = s.boot := rfl
@[simp] theorem updUnit_tap (s : State) (u : UnitRef) (f : PUnit → PUnit) : (updUnit s u f).tap = s.tap := rfl
@[simp] theorem updUnit_fuses (s : State) (u : UnitRef) (f : PUnit → PUnit) : (updUnit s u f).fuses = s.fuses := rfl
@[simp] theorem updUnit_held (s : State) (u : UnitRef) (f : PUnit → PUnit) : (updUnit s u f).held = s.held := rfl
@[simp] theorem updUnit_resp (s : State) (u : UnitRef) (f : PUnit → PUnit) : (updUnit s u f).resp = s.resp := rfl
@[simp] theorem updUnit_bar (s : State) (u : UnitRef) (f : PUnit → PUnit) : (updUnit s u f).bar = s.bar := rfl
@[simp] theorem updUnit_warm (s : State) (u : UnitRef) (f : PUnit → PUnit) : (updUnit s u f).warm = s.warm := rfl
@[simp] theorem updUnit_mirror (s : State) (u : UnitRef) (f : PUnit → PUnit) : (updUnit s u f).mirror = s.mirror := rfl
@[simp] theorem updUnit_errAt (s : State) (u : UnitRef) (f : PUnit → PUnit) : (updUnit s u f).errAt = s.errAt := rfl
@[simp] theorem updUnit_wakePin (s : State) (u : UnitRef) (f : PUnit → PUnit) : (updUnit s u f).wakePin = s.wakePin := rfl
@[simp] theorem updUnit_aclk (s : State) (u : UnitRef) (f : PUnit → PUnit) : (updUnit s u f).aclk = s.aclk := rfl
@[simp] theorem updUnit_freeCtr (s : State) (u : UnitRef) (f : PUnit → PUnit) : (updUnit s u f).freeCtr = s.freeCtr := rfl
@[simp] theorem rd_updUnit (s : State) (u : UnitRef) (f : PUnit → PUnit) (k' : Nat) : rd (updUnit s u f) k' = rd s k' := rfl
@[simp] theorem rdF_updUnit (s : State) (u : UnitRef) (f : PUnit → PUnit) (k' lo' len' : Nat) : rdF (updUnit s u f) k' lo' len' = rdF s k' lo' len' := rfl
@[simp] theorem link_updUnit (s : State) (u : UnitRef) (f : PUnit → PUnit) (e' : EndRef) : link (updUnit s u f) e' = link s e' := rfl
@[simp] theorem router_updUnit (s : State) (u : UnitRef) (f : PUnit → PUnit) (c' : Cell) : router (updUnit s u f) c' = router s c' := rfl
@[simp] theorem rport_updUnit (s : State) (u : UnitRef) (f : PUnit → PUnit) (c' : Cell) (p' : Nat) : rport (updUnit s u f) c' p' = rport s c' p' := rfl
@[simp] theorem rxEnd_updUnit (s : State) (u : UnitRef) (f : PUnit → PUnit) (e' : EndRef) : rxEnd (updUnit s u f) e' = rxEnd s e' := rfl
@[simp] theorem txEnd_updUnit (s : State) (u : UnitRef) (f : PUnit → PUnit) (e' : EndRef) : txEnd (updUnit s u f) e' = txEnd s e' := rfl
@[simp] theorem gw_updUnit (s : State) (u : UnitRef) (f : PUnit → PUnit) (g' : GwId) : gw (updUnit s u f) g' = gw s g' := rfl
@[simp] theorem opt_updUnit (s : State) (u : UnitRef) (f : PUnit → PUnit) (o' : OptId) : opt (updUnit s u f) o' = opt s o' := rfl
@[simp] theorem dom_updUnit (s : State) (u : UnitRef) (f : PUnit → PUnit) (d' : Nat) : dom (updUnit s u f) d' = dom s d' := rfl
@[simp] theorem clk_updUnit (s : State) (u : UnitRef) (f : PUnit → PUnit) (k' : Nat) : clk (updUnit s u f) k' = clk s k' := rfl
@[simp] theorem cyc_updUnit (s : State) (u : UnitRef) (f : PUnit → PUnit) (d' : Nat) : cyc (updUnit s u f) d' = cyc s d' := rfl
@[simp] theorem clocked_updUnit (s : State) (u : UnitRef) (f : PUnit → PUnit) (d' : Nat) : clocked (updUnit s u f) d' = clocked s d' := rfl
@[simp] theorem memRead_updUnit (s : State) (u : UnitRef) (f : PUnit → PUnit) (sp' off' n' : Nat) : memRead (updUnit s u f) sp' off' n' = memRead s sp' off' n' := rfl

/-! ## setRxEnd -/

@[simp] theorem setRxEnd_pending (s : State) (e : EndRef) (x : RxEnd) : (setRxEnd s e x).pending = s.pending := rfl
@[simp] theorem setRxEnd_mem (s : State) (e : EndRef) (x : RxEnd) : (setRxEnd s e x).mem = s.mem := rfl
@[simp] theorem setRxEnd_regs (s : State) (e : EndRef) (x : RxEnd) : (setRxEnd s e x).regs = s.regs := rfl
@[simp] theorem setRxEnd_links (s : State) (e : EndRef) (x : RxEnd) : (setRxEnd s e x).links = s.links := rfl
@[simp] theorem setRxEnd_routers (s : State) (e : EndRef) (x : RxEnd) : (setRxEnd s e x).routers = s.routers := rfl
@[simp] theorem setRxEnd_units (s : State) (e : EndRef) (x : RxEnd) : (setRxEnd s e x).units = s.units := rfl
@[simp] theorem setRxEnd_rx (s : State) (e : EndRef) (x : RxEnd) : (setRxEnd s e x).rx = s.rx.set e.key x := rfl
@[simp] theorem setRxEnd_tx (s : State) (e : EndRef) (x : RxEnd) : (setRxEnd s e x).tx = s.tx := rfl
@[simp] theorem setRxEnd_cmbs (s : State) (e : EndRef) (x : RxEnd) : (setRxEnd s e x).cmbs = s.cmbs := rfl
@[simp] theorem setRxEnd_gws (s : State) (e : EndRef) (x : RxEnd) : (setRxEnd s e x).gws = s.gws := rfl
@[simp] theorem setRxEnd_doms (s : State) (e : EndRef) (x : RxEnd) : (setRxEnd s e x).doms = s.doms := rfl
@[simp] theorem setRxEnd_clks (s : State) (e : EndRef) (x : RxEnd) : (setRxEnd s e x).clks = s.clks := rfl
@[simp] theorem setRxEnd_mer (s : State) (e : EndRef) (x : RxEnd) : (setRxEnd s e x).mer = s.mer := rfl
@[simp] theorem setRxEnd_flt (s : State) (e : EndRef) (x : RxEnd) : (setRxEnd s e x).flt = s.flt := rfl
@[simp] theorem setRxEnd_tel (s : State) (e : EndRef) (x : RxEnd) : (setRxEnd s e x).tel = s.tel := rfl
@[simp] theorem setRxEnd_sec (s : State) (e : EndRef) (x : RxEnd) : (setRxEnd s e x).sec = s.sec := rfl
@[simp] theorem setRxEnd_boot (s : State) (e : EndRef) (x : RxEnd) : (setRxEnd s e x).boot = s.boot := rfl
@[simp] theorem setRxEnd_tap (s : State) (e : EndRef) (x : RxEnd) : (setRxEnd s e x).tap = s.tap := rfl
@[simp] theorem setRxEnd_fuses (s : State) (e : EndRef) (x : RxEnd) : (setRxEnd s e x).fuses = s.fuses := rfl
@[simp] theorem setRxEnd_held (s : State) (e : EndRef) (x : RxEnd) : (setRxEnd s e x).held = s.held := rfl
@[simp] theorem setRxEnd_resp (s : State) (e : EndRef) (x : RxEnd) : (setRxEnd s e x).resp = s.resp := rfl
@[simp] theorem setRxEnd_bar (s : State) (e : EndRef) (x : RxEnd) : (setRxEnd s e x).bar = s.bar := rfl
@[simp] theorem setRxEnd_warm (s : State) (e : EndRef) (x : RxEnd) : (setRxEnd s e x).warm = s.warm := rfl
@[simp] theorem setRxEnd_mirror (s : State) (e : EndRef) (x : RxEnd) : (setRxEnd s e x).mirror = s.mirror := rfl
@[simp] theorem setRxEnd_errAt (s : State) (e : EndRef) (x : RxEnd) : (setRxEnd s e x).errAt = s.errAt := rfl
@[simp] theorem setRxEnd_wakePin (s : State) (e : EndRef) (x : RxEnd) : (setRxEnd s e x).wakePin = s.wakePin := rfl
@[simp] theorem setRxEnd_aclk (s : State) (e : EndRef) (x : RxEnd) : (setRxEnd s e x).aclk = s.aclk := rfl
@[simp] theorem setRxEnd_freeCtr (s : State) (e : EndRef) (x : RxEnd) : (setRxEnd s e x).freeCtr = s.freeCtr := rfl
@[simp] theorem rd_setRxEnd (s : State) (e : EndRef) (x : RxEnd) (k' : Nat) : rd (setRxEnd s e x) k' = rd s k' := rfl
@[simp] theorem rdF_setRxEnd (s : State) (e : EndRef) (x : RxEnd) (k' lo' len' : Nat) : rdF (setRxEnd s e x) k' lo' len' = rdF s k' lo' len' := rfl
@[simp] theorem link_setRxEnd (s : State) (e : EndRef) (x : RxEnd) (e' : EndRef) : link (setRxEnd s e x) e' = link s e' := rfl
@[simp] theorem router_setRxEnd (s : State) (e : EndRef) (x : RxEnd) (c' : Cell) : router (setRxEnd s e x) c' = router s c' := rfl
@[simp] theorem rport_setRxEnd (s : State) (e : EndRef) (x : RxEnd) (c' : Cell) (p' : Nat) : rport (setRxEnd s e x) c' p' = rport s c' p' := rfl
@[simp] theorem punit_setRxEnd (s : State) (e : EndRef) (x : RxEnd) (u' : UnitRef) : punit (setRxEnd s e x) u' = punit s u' := rfl
@[simp] theorem txEnd_setRxEnd (s : State) (e : EndRef) (x : RxEnd) (e' : EndRef) : txEnd (setRxEnd s e x) e' = txEnd s e' := rfl
@[simp] theorem gw_setRxEnd (s : State) (e : EndRef) (x : RxEnd) (g' : GwId) : gw (setRxEnd s e x) g' = gw s g' := rfl
@[simp] theorem opt_setRxEnd (s : State) (e : EndRef) (x : RxEnd) (o' : OptId) : opt (setRxEnd s e x) o' = opt s o' := rfl
@[simp] theorem dom_setRxEnd (s : State) (e : EndRef) (x : RxEnd) (d' : Nat) : dom (setRxEnd s e x) d' = dom s d' := rfl
@[simp] theorem clk_setRxEnd (s : State) (e : EndRef) (x : RxEnd) (k' : Nat) : clk (setRxEnd s e x) k' = clk s k' := rfl
@[simp] theorem cyc_setRxEnd (s : State) (e : EndRef) (x : RxEnd) (d' : Nat) : cyc (setRxEnd s e x) d' = cyc s d' := rfl
@[simp] theorem clocked_setRxEnd (s : State) (e : EndRef) (x : RxEnd) (d' : Nat) : clocked (setRxEnd s e x) d' = clocked s d' := rfl
@[simp] theorem memRead_setRxEnd (s : State) (e : EndRef) (x : RxEnd) (sp' off' n' : Nat) : memRead (setRxEnd s e x) sp' off' n' = memRead s sp' off' n' := rfl

/-! ## setTxEnd -/

@[simp] theorem setTxEnd_pending (s : State) (e : EndRef) (x : TxEnd) : (setTxEnd s e x).pending = s.pending := rfl
@[simp] theorem setTxEnd_mem (s : State) (e : EndRef) (x : TxEnd) : (setTxEnd s e x).mem = s.mem := rfl
@[simp] theorem setTxEnd_regs (s : State) (e : EndRef) (x : TxEnd) : (setTxEnd s e x).regs = s.regs := rfl
@[simp] theorem setTxEnd_links (s : State) (e : EndRef) (x : TxEnd) : (setTxEnd s e x).links = s.links := rfl
@[simp] theorem setTxEnd_routers (s : State) (e : EndRef) (x : TxEnd) : (setTxEnd s e x).routers = s.routers := rfl
@[simp] theorem setTxEnd_units (s : State) (e : EndRef) (x : TxEnd) : (setTxEnd s e x).units = s.units := rfl
@[simp] theorem setTxEnd_rx (s : State) (e : EndRef) (x : TxEnd) : (setTxEnd s e x).rx = s.rx := rfl
@[simp] theorem setTxEnd_tx (s : State) (e : EndRef) (x : TxEnd) : (setTxEnd s e x).tx = s.tx.set e.key x := rfl
@[simp] theorem setTxEnd_cmbs (s : State) (e : EndRef) (x : TxEnd) : (setTxEnd s e x).cmbs = s.cmbs := rfl
@[simp] theorem setTxEnd_gws (s : State) (e : EndRef) (x : TxEnd) : (setTxEnd s e x).gws = s.gws := rfl
@[simp] theorem setTxEnd_doms (s : State) (e : EndRef) (x : TxEnd) : (setTxEnd s e x).doms = s.doms := rfl
@[simp] theorem setTxEnd_clks (s : State) (e : EndRef) (x : TxEnd) : (setTxEnd s e x).clks = s.clks := rfl
@[simp] theorem setTxEnd_mer (s : State) (e : EndRef) (x : TxEnd) : (setTxEnd s e x).mer = s.mer := rfl
@[simp] theorem setTxEnd_flt (s : State) (e : EndRef) (x : TxEnd) : (setTxEnd s e x).flt = s.flt := rfl
@[simp] theorem setTxEnd_tel (s : State) (e : EndRef) (x : TxEnd) : (setTxEnd s e x).tel = s.tel := rfl
@[simp] theorem setTxEnd_sec (s : State) (e : EndRef) (x : TxEnd) : (setTxEnd s e x).sec = s.sec := rfl
@[simp] theorem setTxEnd_boot (s : State) (e : EndRef) (x : TxEnd) : (setTxEnd s e x).boot = s.boot := rfl
@[simp] theorem setTxEnd_tap (s : State) (e : EndRef) (x : TxEnd) : (setTxEnd s e x).tap = s.tap := rfl
@[simp] theorem setTxEnd_fuses (s : State) (e : EndRef) (x : TxEnd) : (setTxEnd s e x).fuses = s.fuses := rfl
@[simp] theorem setTxEnd_held (s : State) (e : EndRef) (x : TxEnd) : (setTxEnd s e x).held = s.held := rfl
@[simp] theorem setTxEnd_resp (s : State) (e : EndRef) (x : TxEnd) : (setTxEnd s e x).resp = s.resp := rfl
@[simp] theorem setTxEnd_bar (s : State) (e : EndRef) (x : TxEnd) : (setTxEnd s e x).bar = s.bar := rfl
@[simp] theorem setTxEnd_warm (s : State) (e : EndRef) (x : TxEnd) : (setTxEnd s e x).warm = s.warm := rfl
@[simp] theorem setTxEnd_mirror (s : State) (e : EndRef) (x : TxEnd) : (setTxEnd s e x).mirror = s.mirror := rfl
@[simp] theorem setTxEnd_errAt (s : State) (e : EndRef) (x : TxEnd) : (setTxEnd s e x).errAt = s.errAt := rfl
@[simp] theorem setTxEnd_wakePin (s : State) (e : EndRef) (x : TxEnd) : (setTxEnd s e x).wakePin = s.wakePin := rfl
@[simp] theorem setTxEnd_aclk (s : State) (e : EndRef) (x : TxEnd) : (setTxEnd s e x).aclk = s.aclk := rfl
@[simp] theorem setTxEnd_freeCtr (s : State) (e : EndRef) (x : TxEnd) : (setTxEnd s e x).freeCtr = s.freeCtr := rfl
@[simp] theorem rd_setTxEnd (s : State) (e : EndRef) (x : TxEnd) (k' : Nat) : rd (setTxEnd s e x) k' = rd s k' := rfl
@[simp] theorem rdF_setTxEnd (s : State) (e : EndRef) (x : TxEnd) (k' lo' len' : Nat) : rdF (setTxEnd s e x) k' lo' len' = rdF s k' lo' len' := rfl
@[simp] theorem link_setTxEnd (s : State) (e : EndRef) (x : TxEnd) (e' : EndRef) : link (setTxEnd s e x) e' = link s e' := rfl
@[simp] theorem router_setTxEnd (s : State) (e : EndRef) (x : TxEnd) (c' : Cell) : router (setTxEnd s e x) c' = router s c' := rfl
@[simp] theorem rport_setTxEnd (s : State) (e : EndRef) (x : TxEnd) (c' : Cell) (p' : Nat) : rport (setTxEnd s e x) c' p' = rport s c' p' := rfl
@[simp] theorem punit_setTxEnd (s : State) (e : EndRef) (x : TxEnd) (u' : UnitRef) : punit (setTxEnd s e x) u' = punit s u' := rfl
@[simp] theorem rxEnd_setTxEnd (s : State) (e : EndRef) (x : TxEnd) (e' : EndRef) : rxEnd (setTxEnd s e x) e' = rxEnd s e' := rfl
@[simp] theorem gw_setTxEnd (s : State) (e : EndRef) (x : TxEnd) (g' : GwId) : gw (setTxEnd s e x) g' = gw s g' := rfl
@[simp] theorem opt_setTxEnd (s : State) (e : EndRef) (x : TxEnd) (o' : OptId) : opt (setTxEnd s e x) o' = opt s o' := rfl
@[simp] theorem dom_setTxEnd (s : State) (e : EndRef) (x : TxEnd) (d' : Nat) : dom (setTxEnd s e x) d' = dom s d' := rfl
@[simp] theorem clk_setTxEnd (s : State) (e : EndRef) (x : TxEnd) (k' : Nat) : clk (setTxEnd s e x) k' = clk s k' := rfl
@[simp] theorem cyc_setTxEnd (s : State) (e : EndRef) (x : TxEnd) (d' : Nat) : cyc (setTxEnd s e x) d' = cyc s d' := rfl
@[simp] theorem clocked_setTxEnd (s : State) (e : EndRef) (x : TxEnd) (d' : Nat) : clocked (setTxEnd s e x) d' = clocked s d' := rfl
@[simp] theorem memRead_setTxEnd (s : State) (e : EndRef) (x : TxEnd) (sp' off' n' : Nat) : memRead (setTxEnd s e x) sp' off' n' = memRead s sp' off' n' := rfl

/-! ## setGw -/

@[simp] theorem setGw_pending (s : State) (g : GwId) (x : Gw) : (setGw s g x).pending = s.pending := rfl
@[simp] theorem setGw_mem (s : State) (g : GwId) (x : Gw) : (setGw s g x).mem = s.mem := rfl
@[simp] theorem setGw_regs (s : State) (g : GwId) (x : Gw) : (setGw s g x).regs = s.regs := rfl
@[simp] theorem setGw_links (s : State) (g : GwId) (x : Gw) : (setGw s g x).links = s.links := rfl
@[simp] theorem setGw_routers (s : State) (g : GwId) (x : Gw) : (setGw s g x).routers = s.routers := rfl
@[simp] theorem setGw_units (s : State) (g : GwId) (x : Gw) : (setGw s g x).units = s.units := rfl
@[simp] theorem setGw_rx (s : State) (g : GwId) (x : Gw) : (setGw s g x).rx = s.rx := rfl
@[simp] theorem setGw_tx (s : State) (g : GwId) (x : Gw) : (setGw s g x).tx = s.tx := rfl
@[simp] theorem setGw_cmbs (s : State) (g : GwId) (x : Gw) : (setGw s g x).cmbs = s.cmbs := rfl
@[simp] theorem setGw_gws (s : State) (g : GwId) (x : Gw) : (setGw s g x).gws = s.gws.set g.num x := rfl
@[simp] theorem setGw_doms (s : State) (g : GwId) (x : Gw) : (setGw s g x).doms = s.doms := rfl
@[simp] theorem setGw_clks (s : State) (g : GwId) (x : Gw) : (setGw s g x).clks = s.clks := rfl
@[simp] theorem setGw_mer (s : State) (g : GwId) (x : Gw) : (setGw s g x).mer = s.mer := rfl
@[simp] theorem setGw_flt (s : State) (g : GwId) (x : Gw) : (setGw s g x).flt = s.flt := rfl
@[simp] theorem setGw_tel (s : State) (g : GwId) (x : Gw) : (setGw s g x).tel = s.tel := rfl
@[simp] theorem setGw_sec (s : State) (g : GwId) (x : Gw) : (setGw s g x).sec = s.sec := rfl
@[simp] theorem setGw_boot (s : State) (g : GwId) (x : Gw) : (setGw s g x).boot = s.boot := rfl
@[simp] theorem setGw_tap (s : State) (g : GwId) (x : Gw) : (setGw s g x).tap = s.tap := rfl
@[simp] theorem setGw_fuses (s : State) (g : GwId) (x : Gw) : (setGw s g x).fuses = s.fuses := rfl
@[simp] theorem setGw_held (s : State) (g : GwId) (x : Gw) : (setGw s g x).held = s.held := rfl
@[simp] theorem setGw_resp (s : State) (g : GwId) (x : Gw) : (setGw s g x).resp = s.resp := rfl
@[simp] theorem setGw_bar (s : State) (g : GwId) (x : Gw) : (setGw s g x).bar = s.bar := rfl
@[simp] theorem setGw_warm (s : State) (g : GwId) (x : Gw) : (setGw s g x).warm = s.warm := rfl
@[simp] theorem setGw_mirror (s : State) (g : GwId) (x : Gw) : (setGw s g x).mirror = s.mirror := rfl
@[simp] theorem setGw_errAt (s : State) (g : GwId) (x : Gw) : (setGw s g x).errAt = s.errAt := rfl
@[simp] theorem setGw_wakePin (s : State) (g : GwId) (x : Gw) : (setGw s g x).wakePin = s.wakePin := rfl
@[simp] theorem setGw_aclk (s : State) (g : GwId) (x : Gw) : (setGw s g x).aclk = s.aclk := rfl
@[simp] theorem setGw_freeCtr (s : State) (g : GwId) (x : Gw) : (setGw s g x).freeCtr = s.freeCtr := rfl
@[simp] theorem rd_setGw (s : State) (g : GwId) (x : Gw) (k' : Nat) : rd (setGw s g x) k' = rd s k' := rfl
@[simp] theorem rdF_setGw (s : State) (g : GwId) (x : Gw) (k' lo' len' : Nat) : rdF (setGw s g x) k' lo' len' = rdF s k' lo' len' := rfl
@[simp] theorem link_setGw (s : State) (g : GwId) (x : Gw) (e' : EndRef) : link (setGw s g x) e' = link s e' := rfl
@[simp] theorem router_setGw (s : State) (g : GwId) (x : Gw) (c' : Cell) : router (setGw s g x) c' = router s c' := rfl
@[simp] theorem rport_setGw (s : State) (g : GwId) (x : Gw) (c' : Cell) (p' : Nat) : rport (setGw s g x) c' p' = rport s c' p' := rfl
@[simp] theorem punit_setGw (s : State) (g : GwId) (x : Gw) (u' : UnitRef) : punit (setGw s g x) u' = punit s u' := rfl
@[simp] theorem rxEnd_setGw (s : State) (g : GwId) (x : Gw) (e' : EndRef) : rxEnd (setGw s g x) e' = rxEnd s e' := rfl
@[simp] theorem txEnd_setGw (s : State) (g : GwId) (x : Gw) (e' : EndRef) : txEnd (setGw s g x) e' = txEnd s e' := rfl
@[simp] theorem dom_setGw (s : State) (g : GwId) (x : Gw) (d' : Nat) : dom (setGw s g x) d' = dom s d' := rfl
@[simp] theorem clk_setGw (s : State) (g : GwId) (x : Gw) (k' : Nat) : clk (setGw s g x) k' = clk s k' := rfl
@[simp] theorem cyc_setGw (s : State) (g : GwId) (x : Gw) (d' : Nat) : cyc (setGw s g x) d' = cyc s d' := rfl
@[simp] theorem clocked_setGw (s : State) (g : GwId) (x : Gw) (d' : Nat) : clocked (setGw s g x) d' = clocked s d' := rfl
@[simp] theorem memRead_setGw (s : State) (g : GwId) (x : Gw) (sp' off' n' : Nat) : memRead (setGw s g x) sp' off' n' = memRead s sp' off' n' := rfl

/-! ## updGw -/

@[simp] theorem updGw_pending (s : State) (g : GwId) (f : Gw → Gw) : (updGw s g f).pending = s.pending := rfl
@[simp] theorem updGw_mem (s : State) (g : GwId) (f : Gw → Gw) : (updGw s g f).mem = s.mem := rfl
@[simp] theorem updGw_regs (s : State) (g : GwId) (f : Gw → Gw) : (updGw s g f).regs = s.regs := rfl
@[simp] theorem updGw_links (s : State) (g : GwId) (f : Gw → Gw) : (updGw s g f).links = s.links := rfl
@[simp] theorem updGw_routers (s : State) (g : GwId) (f : Gw → Gw) : (updGw s g f).routers = s.routers := rfl
@[simp] theorem updGw_units (s : State) (g : GwId) (f : Gw → Gw) : (updGw s g f).units = s.units := rfl
@[simp] theorem updGw_rx (s : State) (g : GwId) (f : Gw → Gw) : (updGw s g f).rx = s.rx := rfl
@[simp] theorem updGw_tx (s : State) (g : GwId) (f : Gw → Gw) : (updGw s g f).tx = s.tx := rfl
@[simp] theorem updGw_cmbs (s : State) (g : GwId) (f : Gw → Gw) : (updGw s g f).cmbs = s.cmbs := rfl
@[simp] theorem updGw_gws (s : State) (g : GwId) (f : Gw → Gw) : (updGw s g f).gws = s.gws.set g.num (f (gw s g)) := rfl
@[simp] theorem updGw_doms (s : State) (g : GwId) (f : Gw → Gw) : (updGw s g f).doms = s.doms := rfl
@[simp] theorem updGw_clks (s : State) (g : GwId) (f : Gw → Gw) : (updGw s g f).clks = s.clks := rfl
@[simp] theorem updGw_mer (s : State) (g : GwId) (f : Gw → Gw) : (updGw s g f).mer = s.mer := rfl
@[simp] theorem updGw_flt (s : State) (g : GwId) (f : Gw → Gw) : (updGw s g f).flt = s.flt := rfl
@[simp] theorem updGw_tel (s : State) (g : GwId) (f : Gw → Gw) : (updGw s g f).tel = s.tel := rfl
@[simp] theorem updGw_sec (s : State) (g : GwId) (f : Gw → Gw) : (updGw s g f).sec = s.sec := rfl
@[simp] theorem updGw_boot (s : State) (g : GwId) (f : Gw → Gw) : (updGw s g f).boot = s.boot := rfl
@[simp] theorem updGw_tap (s : State) (g : GwId) (f : Gw → Gw) : (updGw s g f).tap = s.tap := rfl
@[simp] theorem updGw_fuses (s : State) (g : GwId) (f : Gw → Gw) : (updGw s g f).fuses = s.fuses := rfl
@[simp] theorem updGw_held (s : State) (g : GwId) (f : Gw → Gw) : (updGw s g f).held = s.held := rfl
@[simp] theorem updGw_resp (s : State) (g : GwId) (f : Gw → Gw) : (updGw s g f).resp = s.resp := rfl
@[simp] theorem updGw_bar (s : State) (g : GwId) (f : Gw → Gw) : (updGw s g f).bar = s.bar := rfl
@[simp] theorem updGw_warm (s : State) (g : GwId) (f : Gw → Gw) : (updGw s g f).warm = s.warm := rfl
@[simp] theorem updGw_mirror (s : State) (g : GwId) (f : Gw → Gw) : (updGw s g f).mirror = s.mirror := rfl
@[simp] theorem updGw_errAt (s : State) (g : GwId) (f : Gw → Gw) : (updGw s g f).errAt = s.errAt := rfl
@[simp] theorem updGw_wakePin (s : State) (g : GwId) (f : Gw → Gw) : (updGw s g f).wakePin = s.wakePin := rfl
@[simp] theorem updGw_aclk (s : State) (g : GwId) (f : Gw → Gw) : (updGw s g f).aclk = s.aclk := rfl
@[simp] theorem updGw_freeCtr (s : State) (g : GwId) (f : Gw → Gw) : (updGw s g f).freeCtr = s.freeCtr := rfl
@[simp] theorem rd_updGw (s : State) (g : GwId) (f : Gw → Gw) (k' : Nat) : rd (updGw s g f) k' = rd s k' := rfl
@[simp] theorem rdF_updGw (s : State) (g : GwId) (f : Gw → Gw) (k' lo' len' : Nat) : rdF (updGw s g f) k' lo' len' = rdF s k' lo' len' := rfl
@[simp] theorem link_updGw (s : State) (g : GwId) (f : Gw → Gw) (e' : EndRef) : link (updGw s g f) e' = link s e' := rfl
@[simp] theorem router_updGw (s : State) (g : GwId) (f : Gw → Gw) (c' : Cell) : router (updGw s g f) c' = router s c' := rfl
@[simp] theorem rport_updGw (s : State) (g : GwId) (f : Gw → Gw) (c' : Cell) (p' : Nat) : rport (updGw s g f) c' p' = rport s c' p' := rfl
@[simp] theorem punit_updGw (s : State) (g : GwId) (f : Gw → Gw) (u' : UnitRef) : punit (updGw s g f) u' = punit s u' := rfl
@[simp] theorem rxEnd_updGw (s : State) (g : GwId) (f : Gw → Gw) (e' : EndRef) : rxEnd (updGw s g f) e' = rxEnd s e' := rfl
@[simp] theorem txEnd_updGw (s : State) (g : GwId) (f : Gw → Gw) (e' : EndRef) : txEnd (updGw s g f) e' = txEnd s e' := rfl
@[simp] theorem dom_updGw (s : State) (g : GwId) (f : Gw → Gw) (d' : Nat) : dom (updGw s g f) d' = dom s d' := rfl
@[simp] theorem clk_updGw (s : State) (g : GwId) (f : Gw → Gw) (k' : Nat) : clk (updGw s g f) k' = clk s k' := rfl
@[simp] theorem cyc_updGw (s : State) (g : GwId) (f : Gw → Gw) (d' : Nat) : cyc (updGw s g f) d' = cyc s d' := rfl
@[simp] theorem clocked_updGw (s : State) (g : GwId) (f : Gw → Gw) (d' : Nat) : clocked (updGw s g f) d' = clocked s d' := rfl
@[simp] theorem memRead_updGw (s : State) (g : GwId) (f : Gw → Gw) (sp' off' n' : Nat) : memRead (updGw s g f) sp' off' n' = memRead s sp' off' n' := rfl

/-! ## setOpt -/

@[simp] theorem setOpt_pending (s : State) (o : OptId) (x : Opt) : (setOpt s o x).pending = s.pending := rfl
@[simp] theorem setOpt_mem (s : State) (o : OptId) (x : Opt) : (setOpt s o x).mem = s.mem := rfl
@[simp] theorem setOpt_regs (s : State) (o : OptId) (x : Opt) : (setOpt s o x).regs = s.regs := rfl
@[simp] theorem setOpt_links (s : State) (o : OptId) (x : Opt) : (setOpt s o x).links = s.links := rfl
@[simp] theorem setOpt_routers (s : State) (o : OptId) (x : Opt) : (setOpt s o x).routers = s.routers := rfl
@[simp] theorem setOpt_units (s : State) (o : OptId) (x : Opt) : (setOpt s o x).units = s.units := rfl
@[simp] theorem setOpt_rx (s : State) (o : OptId) (x : Opt) : (setOpt s o x).rx = s.rx := rfl
@[simp] theorem setOpt_tx (s : State) (o : OptId) (x : Opt) : (setOpt s o x).tx = s.tx := rfl
@[simp] theorem setOpt_cmbs (s : State) (o : OptId) (x : Opt) : (setOpt s o x).cmbs = s.cmbs := rfl
@[simp] theorem setOpt_gws (s : State) (o : OptId) (x : Opt) : (setOpt s o x).gws = s.gws.set o.gw.num { gw s o.gw with opt := x } := rfl
@[simp] theorem setOpt_doms (s : State) (o : OptId) (x : Opt) : (setOpt s o x).doms = s.doms := rfl
@[simp] theorem setOpt_clks (s : State) (o : OptId) (x : Opt) : (setOpt s o x).clks = s.clks := rfl
@[simp] theorem setOpt_mer (s : State) (o : OptId) (x : Opt) : (setOpt s o x).mer = s.mer := rfl
@[simp] theorem setOpt_flt (s : State) (o : OptId) (x : Opt) : (setOpt s o x).flt = s.flt := rfl
@[simp] theorem setOpt_tel (s : State) (o : OptId) (x : Opt) : (setOpt s o x).tel = s.tel := rfl
@[simp] theorem setOpt_sec (s : State) (o : OptId) (x : Opt) : (setOpt s o x).sec = s.sec := rfl
@[simp] theorem setOpt_boot (s : State) (o : OptId) (x : Opt) : (setOpt s o x).boot = s.boot := rfl
@[simp] theorem setOpt_tap (s : State) (o : OptId) (x : Opt) : (setOpt s o x).tap = s.tap := rfl
@[simp] theorem setOpt_fuses (s : State) (o : OptId) (x : Opt) : (setOpt s o x).fuses = s.fuses := rfl
@[simp] theorem setOpt_held (s : State) (o : OptId) (x : Opt) : (setOpt s o x).held = s.held := rfl
@[simp] theorem setOpt_resp (s : State) (o : OptId) (x : Opt) : (setOpt s o x).resp = s.resp := rfl
@[simp] theorem setOpt_bar (s : State) (o : OptId) (x : Opt) : (setOpt s o x).bar = s.bar := rfl
@[simp] theorem setOpt_warm (s : State) (o : OptId) (x : Opt) : (setOpt s o x).warm = s.warm := rfl
@[simp] theorem setOpt_mirror (s : State) (o : OptId) (x : Opt) : (setOpt s o x).mirror = s.mirror := rfl
@[simp] theorem setOpt_errAt (s : State) (o : OptId) (x : Opt) : (setOpt s o x).errAt = s.errAt := rfl
@[simp] theorem setOpt_wakePin (s : State) (o : OptId) (x : Opt) : (setOpt s o x).wakePin = s.wakePin := rfl
@[simp] theorem setOpt_aclk (s : State) (o : OptId) (x : Opt) : (setOpt s o x).aclk = s.aclk := rfl
@[simp] theorem setOpt_freeCtr (s : State) (o : OptId) (x : Opt) : (setOpt s o x).freeCtr = s.freeCtr := rfl
@[simp] theorem rd_setOpt (s : State) (o : OptId) (x : Opt) (k' : Nat) : rd (setOpt s o x) k' = rd s k' := rfl
@[simp] theorem rdF_setOpt (s : State) (o : OptId) (x : Opt) (k' lo' len' : Nat) : rdF (setOpt s o x) k' lo' len' = rdF s k' lo' len' := rfl
@[simp] theorem link_setOpt (s : State) (o : OptId) (x : Opt) (e' : EndRef) : link (setOpt s o x) e' = link s e' := rfl
@[simp] theorem router_setOpt (s : State) (o : OptId) (x : Opt) (c' : Cell) : router (setOpt s o x) c' = router s c' := rfl
@[simp] theorem rport_setOpt (s : State) (o : OptId) (x : Opt) (c' : Cell) (p' : Nat) : rport (setOpt s o x) c' p' = rport s c' p' := rfl
@[simp] theorem punit_setOpt (s : State) (o : OptId) (x : Opt) (u' : UnitRef) : punit (setOpt s o x) u' = punit s u' := rfl
@[simp] theorem rxEnd_setOpt (s : State) (o : OptId) (x : Opt) (e' : EndRef) : rxEnd (setOpt s o x) e' = rxEnd s e' := rfl
@[simp] theorem txEnd_setOpt (s : State) (o : OptId) (x : Opt) (e' : EndRef) : txEnd (setOpt s o x) e' = txEnd s e' := rfl
@[simp] theorem dom_setOpt (s : State) (o : OptId) (x : Opt) (d' : Nat) : dom (setOpt s o x) d' = dom s d' := rfl
@[simp] theorem clk_setOpt (s : State) (o : OptId) (x : Opt) (k' : Nat) : clk (setOpt s o x) k' = clk s k' := rfl
@[simp] theorem cyc_setOpt (s : State) (o : OptId) (x : Opt) (d' : Nat) : cyc (setOpt s o x) d' = cyc s d' := rfl
@[simp] theorem clocked_setOpt (s : State) (o : OptId) (x : Opt) (d' : Nat) : clocked (setOpt s o x) d' = clocked s d' := rfl
@[simp] theorem memRead_setOpt (s : State) (o : OptId) (x : Opt) (sp' off' n' : Nat) : memRead (setOpt s o x) sp' off' n' = memRead s sp' off' n' := rfl

/-! ## updOpt -/

@[simp] theorem updOpt_pending (s : State) (o : OptId) (f : Opt → Opt) : (updOpt s o f).pending = s.pending := rfl
@[simp] theorem updOpt_mem (s : State) (o : OptId) (f : Opt → Opt) : (updOpt s o f).mem = s.mem := rfl
@[simp] theorem updOpt_regs (s : State) (o : OptId) (f : Opt → Opt) : (updOpt s o f).regs = s.regs := rfl
@[simp] theorem updOpt_links (s : State) (o : OptId) (f : Opt → Opt) : (updOpt s o f).links = s.links := rfl
@[simp] theorem updOpt_routers (s : State) (o : OptId) (f : Opt → Opt) : (updOpt s o f).routers = s.routers := rfl
@[simp] theorem updOpt_units (s : State) (o : OptId) (f : Opt → Opt) : (updOpt s o f).units = s.units := rfl
@[simp] theorem updOpt_rx (s : State) (o : OptId) (f : Opt → Opt) : (updOpt s o f).rx = s.rx := rfl
@[simp] theorem updOpt_tx (s : State) (o : OptId) (f : Opt → Opt) : (updOpt s o f).tx = s.tx := rfl
@[simp] theorem updOpt_cmbs (s : State) (o : OptId) (f : Opt → Opt) : (updOpt s o f).cmbs = s.cmbs := rfl
@[simp] theorem updOpt_gws (s : State) (o : OptId) (f : Opt → Opt) : (updOpt s o f).gws = s.gws.set o.gw.num { gw s o.gw with opt := f (opt s o) } := rfl
@[simp] theorem updOpt_doms (s : State) (o : OptId) (f : Opt → Opt) : (updOpt s o f).doms = s.doms := rfl
@[simp] theorem updOpt_clks (s : State) (o : OptId) (f : Opt → Opt) : (updOpt s o f).clks = s.clks := rfl
@[simp] theorem updOpt_mer (s : State) (o : OptId) (f : Opt → Opt) : (updOpt s o f).mer = s.mer := rfl
@[simp] theorem updOpt_flt (s : State) (o : OptId) (f : Opt → Opt) : (updOpt s o f).flt = s.flt := rfl
@[simp] theorem updOpt_tel (s : State) (o : OptId) (f : Opt → Opt) : (updOpt s o f).tel = s.tel := rfl
@[simp] theorem updOpt_sec (s : State) (o : OptId) (f : Opt → Opt) : (updOpt s o f).sec = s.sec := rfl
@[simp] theorem updOpt_boot (s : State) (o : OptId) (f : Opt → Opt) : (updOpt s o f).boot = s.boot := rfl
@[simp] theorem updOpt_tap (s : State) (o : OptId) (f : Opt → Opt) : (updOpt s o f).tap = s.tap := rfl
@[simp] theorem updOpt_fuses (s : State) (o : OptId) (f : Opt → Opt) : (updOpt s o f).fuses = s.fuses := rfl
@[simp] theorem updOpt_held (s : State) (o : OptId) (f : Opt → Opt) : (updOpt s o f).held = s.held := rfl
@[simp] theorem updOpt_resp (s : State) (o : OptId) (f : Opt → Opt) : (updOpt s o f).resp = s.resp := rfl
@[simp] theorem updOpt_bar (s : State) (o : OptId) (f : Opt → Opt) : (updOpt s o f).bar = s.bar := rfl
@[simp] theorem updOpt_warm (s : State) (o : OptId) (f : Opt → Opt) : (updOpt s o f).warm = s.warm := rfl
@[simp] theorem updOpt_mirror (s : State) (o : OptId) (f : Opt → Opt) : (updOpt s o f).mirror = s.mirror := rfl
@[simp] theorem updOpt_errAt (s : State) (o : OptId) (f : Opt → Opt) : (updOpt s o f).errAt = s.errAt := rfl
@[simp] theorem updOpt_wakePin (s : State) (o : OptId) (f : Opt → Opt) : (updOpt s o f).wakePin = s.wakePin := rfl
@[simp] theorem updOpt_aclk (s : State) (o : OptId) (f : Opt → Opt) : (updOpt s o f).aclk = s.aclk := rfl
@[simp] theorem updOpt_freeCtr (s : State) (o : OptId) (f : Opt → Opt) : (updOpt s o f).freeCtr = s.freeCtr := rfl
@[simp] theorem rd_updOpt (s : State) (o : OptId) (f : Opt → Opt) (k' : Nat) : rd (updOpt s o f) k' = rd s k' := rfl
@[simp] theorem rdF_updOpt (s : State) (o : OptId) (f : Opt → Opt) (k' lo' len' : Nat) : rdF (updOpt s o f) k' lo' len' = rdF s k' lo' len' := rfl
@[simp] theorem link_updOpt (s : State) (o : OptId) (f : Opt → Opt) (e' : EndRef) : link (updOpt s o f) e' = link s e' := rfl
@[simp] theorem router_updOpt (s : State) (o : OptId) (f : Opt → Opt) (c' : Cell) : router (updOpt s o f) c' = router s c' := rfl
@[simp] theorem rport_updOpt (s : State) (o : OptId) (f : Opt → Opt) (c' : Cell) (p' : Nat) : rport (updOpt s o f) c' p' = rport s c' p' := rfl
@[simp] theorem punit_updOpt (s : State) (o : OptId) (f : Opt → Opt) (u' : UnitRef) : punit (updOpt s o f) u' = punit s u' := rfl
@[simp] theorem rxEnd_updOpt (s : State) (o : OptId) (f : Opt → Opt) (e' : EndRef) : rxEnd (updOpt s o f) e' = rxEnd s e' := rfl
@[simp] theorem txEnd_updOpt (s : State) (o : OptId) (f : Opt → Opt) (e' : EndRef) : txEnd (updOpt s o f) e' = txEnd s e' := rfl
@[simp] theorem dom_updOpt (s : State) (o : OptId) (f : Opt → Opt) (d' : Nat) : dom (updOpt s o f) d' = dom s d' := rfl
@[simp] theorem clk_updOpt (s : State) (o : OptId) (f : Opt → Opt) (k' : Nat) : clk (updOpt s o f) k' = clk s k' := rfl
@[simp] theorem cyc_updOpt (s : State) (o : OptId) (f : Opt → Opt) (d' : Nat) : cyc (updOpt s o f) d' = cyc s d' := rfl
@[simp] theorem clocked_updOpt (s : State) (o : OptId) (f : Opt → Opt) (d' : Nat) : clocked (updOpt s o f) d' = clocked s d' := rfl
@[simp] theorem memRead_updOpt (s : State) (o : OptId) (f : Opt → Opt) (sp' off' n' : Nat) : memRead (updOpt s o f) sp' off' n' = memRead s sp' off' n' := rfl

/-! ## setDom -/

@[simp] theorem setDom_pending (s : State) (d : Nat) (x : Dom) : (setDom s d x).pending = s.pending := rfl
@[simp] theorem setDom_mem (s : State) (d : Nat) (x : Dom) : (setDom s d x).mem = s.mem := rfl
@[simp] theorem setDom_regs (s : State) (d : Nat) (x : Dom) : (setDom s d x).regs = s.regs := rfl
@[simp] theorem setDom_links (s : State) (d : Nat) (x : Dom) : (setDom s d x).links = s.links := rfl
@[simp] theorem setDom_routers (s : State) (d : Nat) (x : Dom) : (setDom s d x).routers = s.routers := rfl
@[simp] theorem setDom_units (s : State) (d : Nat) (x : Dom) : (setDom s d x).units = s.units := rfl
@[simp] theorem setDom_rx (s : State) (d : Nat) (x : Dom) : (setDom s d x).rx = s.rx := rfl
@[simp] theorem setDom_tx (s : State) (d : Nat) (x : Dom) : (setDom s d x).tx = s.tx := rfl
@[simp] theorem setDom_cmbs (s : State) (d : Nat) (x : Dom) : (setDom s d x).cmbs = s.cmbs := rfl
@[simp] theorem setDom_gws (s : State) (d : Nat) (x : Dom) : (setDom s d x).gws = s.gws := rfl
@[simp] theorem setDom_doms (s : State) (d : Nat) (x : Dom) : (setDom s d x).doms = s.doms.set d x := rfl
@[simp] theorem setDom_clks (s : State) (d : Nat) (x : Dom) : (setDom s d x).clks = s.clks := rfl
@[simp] theorem setDom_mer (s : State) (d : Nat) (x : Dom) : (setDom s d x).mer = s.mer := rfl
@[simp] theorem setDom_flt (s : State) (d : Nat) (x : Dom) : (setDom s d x).flt = s.flt := rfl
@[simp] theorem setDom_tel (s : State) (d : Nat) (x : Dom) : (setDom s d x).tel = s.tel := rfl
@[simp] theorem setDom_sec (s : State) (d : Nat) (x : Dom) : (setDom s d x).sec = s.sec := rfl
@[simp] theorem setDom_boot (s : State) (d : Nat) (x : Dom) : (setDom s d x).boot = s.boot := rfl
@[simp] theorem setDom_tap (s : State) (d : Nat) (x : Dom) : (setDom s d x).tap = s.tap := rfl
@[simp] theorem setDom_fuses (s : State) (d : Nat) (x : Dom) : (setDom s d x).fuses = s.fuses := rfl
@[simp] theorem setDom_held (s : State) (d : Nat) (x : Dom) : (setDom s d x).held = s.held := rfl
@[simp] theorem setDom_resp (s : State) (d : Nat) (x : Dom) : (setDom s d x).resp = s.resp := rfl
@[simp] theorem setDom_bar (s : State) (d : Nat) (x : Dom) : (setDom s d x).bar = s.bar := rfl
@[simp] theorem setDom_warm (s : State) (d : Nat) (x : Dom) : (setDom s d x).warm = s.warm := rfl
@[simp] theorem setDom_mirror (s : State) (d : Nat) (x : Dom) : (setDom s d x).mirror = s.mirror := rfl
@[simp] theorem setDom_errAt (s : State) (d : Nat) (x : Dom) : (setDom s d x).errAt = s.errAt := rfl
@[simp] theorem setDom_wakePin (s : State) (d : Nat) (x : Dom) : (setDom s d x).wakePin = s.wakePin := rfl
@[simp] theorem setDom_aclk (s : State) (d : Nat) (x : Dom) : (setDom s d x).aclk = s.aclk := rfl
@[simp] theorem setDom_freeCtr (s : State) (d : Nat) (x : Dom) : (setDom s d x).freeCtr = s.freeCtr := rfl
@[simp] theorem rd_setDom (s : State) (d : Nat) (x : Dom) (k' : Nat) : rd (setDom s d x) k' = rd s k' := rfl
@[simp] theorem rdF_setDom (s : State) (d : Nat) (x : Dom) (k' lo' len' : Nat) : rdF (setDom s d x) k' lo' len' = rdF s k' lo' len' := rfl
@[simp] theorem link_setDom (s : State) (d : Nat) (x : Dom) (e' : EndRef) : link (setDom s d x) e' = link s e' := rfl
@[simp] theorem router_setDom (s : State) (d : Nat) (x : Dom) (c' : Cell) : router (setDom s d x) c' = router s c' := rfl
@[simp] theorem rport_setDom (s : State) (d : Nat) (x : Dom) (c' : Cell) (p' : Nat) : rport (setDom s d x) c' p' = rport s c' p' := rfl
@[simp] theorem punit_setDom (s : State) (d : Nat) (x : Dom) (u' : UnitRef) : punit (setDom s d x) u' = punit s u' := rfl
@[simp] theorem rxEnd_setDom (s : State) (d : Nat) (x : Dom) (e' : EndRef) : rxEnd (setDom s d x) e' = rxEnd s e' := rfl
@[simp] theorem txEnd_setDom (s : State) (d : Nat) (x : Dom) (e' : EndRef) : txEnd (setDom s d x) e' = txEnd s e' := rfl
@[simp] theorem gw_setDom (s : State) (d : Nat) (x : Dom) (g' : GwId) : gw (setDom s d x) g' = gw s g' := rfl
@[simp] theorem opt_setDom (s : State) (d : Nat) (x : Dom) (o' : OptId) : opt (setDom s d x) o' = opt s o' := rfl
@[simp] theorem clk_setDom (s : State) (d : Nat) (x : Dom) (k' : Nat) : clk (setDom s d x) k' = clk s k' := rfl
@[simp] theorem cyc_setDom (s : State) (d : Nat) (x : Dom) (d' : Nat) : cyc (setDom s d x) d' = cyc s d' := rfl
@[simp] theorem memRead_setDom (s : State) (d : Nat) (x : Dom) (sp' off' n' : Nat) : memRead (setDom s d x) sp' off' n' = memRead s sp' off' n' := rfl

/-! ## updDom -/

@[simp] theorem updDom_pending (s : State) (d : Nat) (f : Dom → Dom) : (updDom s d f).pending = s.pending := rfl
@[simp] theorem updDom_mem (s : State) (d : Nat) (f : Dom → Dom) : (updDom s d f).mem = s.mem := rfl
@[simp] theorem updDom_regs (s : State) (d : Nat) (f : Dom → Dom) : (updDom s d f).regs = s.regs := rfl
@[simp] theorem updDom_links (s : State) (d : Nat) (f : Dom → Dom) : (updDom s d f).links = s.links := rfl
@[simp] theorem updDom_routers (s : State) (d : Nat) (f : Dom → Dom) : (updDom s d f).routers = s.routers := rfl
@[simp] theorem updDom_units (s : State) (d : Nat) (f : Dom → Dom) : (updDom s d f).units = s.units := rfl
@[simp] theorem updDom_rx (s : State) (d : Nat) (f : Dom → Dom) : (updDom s d f).rx = s.rx := rfl
@[simp] theorem updDom_tx (s : State) (d : Nat) (f : Dom → Dom) : (updDom s d f).tx = s.tx := rfl
@[simp] theorem updDom_cmbs (s : State) (d : Nat) (f : Dom → Dom) : (updDom s d f).cmbs = s.cmbs := rfl
@[simp] theorem updDom_gws (s : State) (d : Nat) (f : Dom → Dom) : (updDom s d f).gws = s.gws := rfl
@[simp] theorem updDom_doms (s : State) (d : Nat) (f : Dom → Dom) : (updDom s d f).doms = s.doms.set d (f (dom s d)) := rfl
@[simp] theorem updDom_clks (s : State) (d : Nat) (f : Dom → Dom) : (updDom s d f).clks = s.clks := rfl
@[simp] theorem updDom_mer (s : State) (d : Nat) (f : Dom → Dom) : (updDom s d f).mer = s.mer := rfl
@[simp] theorem updDom_flt (s : State) (d : Nat) (f : Dom → Dom) : (updDom s d f).flt = s.flt := rfl
@[simp] theorem updDom_tel (s : State) (d : Nat) (f : Dom → Dom) : (updDom s d f).tel = s.tel := rfl
@[simp] theorem updDom_sec (s : State) (d : Nat) (f : Dom → Dom) : (updDom s d f).sec = s.sec := rfl
@[simp] theorem updDom_boot (s : State) (d : Nat) (f : Dom → Dom) : (updDom s d f).boot = s.boot := rfl
@[simp] theorem updDom_tap (s : State) (d : Nat) (f : Dom → Dom) : (updDom s d f).tap = s.tap := rfl
@[simp] theorem updDom_fuses (s : State) (d : Nat) (f : Dom → Dom) : (updDom s d f).fuses = s.fuses := rfl
@[simp] theorem updDom_held (s : State) (d : Nat) (f : Dom → Dom) : (updDom s d f).held = s.held := rfl
@[simp] theorem updDom_resp (s : State) (d : Nat) (f : Dom → Dom) : (updDom s d f).resp = s.resp := rfl
@[simp] theorem updDom_bar (s : State) (d : Nat) (f : Dom → Dom) : (updDom s d f).bar = s.bar := rfl
@[simp] theorem updDom_warm (s : State) (d : Nat) (f : Dom → Dom) : (updDom s d f).warm = s.warm := rfl
@[simp] theorem updDom_mirror (s : State) (d : Nat) (f : Dom → Dom) : (updDom s d f).mirror = s.mirror := rfl
@[simp] theorem updDom_errAt (s : State) (d : Nat) (f : Dom → Dom) : (updDom s d f).errAt = s.errAt := rfl
@[simp] theorem updDom_wakePin (s : State) (d : Nat) (f : Dom → Dom) : (updDom s d f).wakePin = s.wakePin := rfl
@[simp] theorem updDom_aclk (s : State) (d : Nat) (f : Dom → Dom) : (updDom s d f).aclk = s.aclk := rfl
@[simp] theorem updDom_freeCtr (s : State) (d : Nat) (f : Dom → Dom) : (updDom s d f).freeCtr = s.freeCtr := rfl
@[simp] theorem rd_updDom (s : State) (d : Nat) (f : Dom → Dom) (k' : Nat) : rd (updDom s d f) k' = rd s k' := rfl
@[simp] theorem rdF_updDom (s : State) (d : Nat) (f : Dom → Dom) (k' lo' len' : Nat) : rdF (updDom s d f) k' lo' len' = rdF s k' lo' len' := rfl
@[simp] theorem link_updDom (s : State) (d : Nat) (f : Dom → Dom) (e' : EndRef) : link (updDom s d f) e' = link s e' := rfl
@[simp] theorem router_updDom (s : State) (d : Nat) (f : Dom → Dom) (c' : Cell) : router (updDom s d f) c' = router s c' := rfl
@[simp] theorem rport_updDom (s : State) (d : Nat) (f : Dom → Dom) (c' : Cell) (p' : Nat) : rport (updDom s d f) c' p' = rport s c' p' := rfl
@[simp] theorem punit_updDom (s : State) (d : Nat) (f : Dom → Dom) (u' : UnitRef) : punit (updDom s d f) u' = punit s u' := rfl
@[simp] theorem rxEnd_updDom (s : State) (d : Nat) (f : Dom → Dom) (e' : EndRef) : rxEnd (updDom s d f) e' = rxEnd s e' := rfl
@[simp] theorem txEnd_updDom (s : State) (d : Nat) (f : Dom → Dom) (e' : EndRef) : txEnd (updDom s d f) e' = txEnd s e' := rfl
@[simp] theorem gw_updDom (s : State) (d : Nat) (f : Dom → Dom) (g' : GwId) : gw (updDom s d f) g' = gw s g' := rfl
@[simp] theorem opt_updDom (s : State) (d : Nat) (f : Dom → Dom) (o' : OptId) : opt (updDom s d f) o' = opt s o' := rfl
@[simp] theorem clk_updDom (s : State) (d : Nat) (f : Dom → Dom) (k' : Nat) : clk (updDom s d f) k' = clk s k' := rfl
@[simp] theorem cyc_updDom (s : State) (d : Nat) (f : Dom → Dom) (d' : Nat) : cyc (updDom s d f) d' = cyc s d' := rfl
@[simp] theorem memRead_updDom (s : State) (d : Nat) (f : Dom → Dom) (sp' off' n' : Nat) : memRead (updDom s d f) sp' off' n' = memRead s sp' off' n' := rfl

/-! ## setClk -/

@[simp] theorem setClk_pending (s : State) (k : Nat) (x : Clk) : (setClk s k x).pending = s.pending := rfl
@[simp] theorem setClk_mem (s : State) (k : Nat) (x : Clk) : (setClk s k x).mem = s.mem := rfl
@[simp] theorem setClk_regs (s : State) (k : Nat) (x : Clk) : (setClk s k x).regs = s.regs := rfl
@[simp] theorem setClk_links (s : State) (k : Nat) (x : Clk) : (setClk s k x).links = s.links := rfl
@[simp] theorem setClk_routers (s : State) (k : Nat) (x : Clk) : (setClk s k x).routers = s.routers := rfl
@[simp] theorem setClk_units (s : State) (k : Nat) (x : Clk) : (setClk s k x).units = s.units := rfl
@[simp] theorem setClk_rx (s : State) (k : Nat) (x : Clk) : (setClk s k x).rx = s.rx := rfl
@[simp] theorem setClk_tx (s : State) (k : Nat) (x : Clk) : (setClk s k x).tx = s.tx := rfl
@[simp] theorem setClk_cmbs (s : State) (k : Nat) (x : Clk) : (setClk s k x).cmbs = s.cmbs := rfl
@[simp] theorem setClk_gws (s : State) (k : Nat) (x : Clk) : (setClk s k x).gws = s.gws := rfl
@[simp] theorem setClk_doms (s : State) (k : Nat) (x : Clk) : (setClk s k x).doms = s.doms := rfl
@[simp] theorem setClk_clks (s : State) (k : Nat) (x : Clk) : (setClk s k x).clks = s.clks.set k x := rfl
@[simp] theorem setClk_mer (s : State) (k : Nat) (x : Clk) : (setClk s k x).mer = s.mer := rfl
@[simp] theorem setClk_flt (s : State) (k : Nat) (x : Clk) : (setClk s k x).flt = s.flt := rfl
@[simp] theorem setClk_tel (s : State) (k : Nat) (x : Clk) : (setClk s k x).tel = s.tel := rfl
@[simp] theorem setClk_sec (s : State) (k : Nat) (x : Clk) : (setClk s k x).sec = s.sec := rfl
@[simp] theorem setClk_boot (s : State) (k : Nat) (x : Clk) : (setClk s k x).boot = s.boot := rfl
@[simp] theorem setClk_tap (s : State) (k : Nat) (x : Clk) : (setClk s k x).tap = s.tap := rfl
@[simp] theorem setClk_fuses (s : State) (k : Nat) (x : Clk) : (setClk s k x).fuses = s.fuses := rfl
@[simp] theorem setClk_held (s : State) (k : Nat) (x : Clk) : (setClk s k x).held = s.held := rfl
@[simp] theorem setClk_resp (s : State) (k : Nat) (x : Clk) : (setClk s k x).resp = s.resp := rfl
@[simp] theorem setClk_bar (s : State) (k : Nat) (x : Clk) : (setClk s k x).bar = s.bar := rfl
@[simp] theorem setClk_warm (s : State) (k : Nat) (x : Clk) : (setClk s k x).warm = s.warm := rfl
@[simp] theorem setClk_mirror (s : State) (k : Nat) (x : Clk) : (setClk s k x).mirror = s.mirror := rfl
@[simp] theorem setClk_errAt (s : State) (k : Nat) (x : Clk) : (setClk s k x).errAt = s.errAt := rfl
@[simp] theorem setClk_wakePin (s : State) (k : Nat) (x : Clk) : (setClk s k x).wakePin = s.wakePin := rfl
@[simp] theorem setClk_aclk (s : State) (k : Nat) (x : Clk) : (setClk s k x).aclk = s.aclk := rfl
@[simp] theorem setClk_freeCtr (s : State) (k : Nat) (x : Clk) : (setClk s k x).freeCtr = s.freeCtr := rfl
@[simp] theorem rd_setClk (s : State) (k : Nat) (x : Clk) (k' : Nat) : rd (setClk s k x) k' = rd s k' := rfl
@[simp] theorem rdF_setClk (s : State) (k : Nat) (x : Clk) (k' lo' len' : Nat) : rdF (setClk s k x) k' lo' len' = rdF s k' lo' len' := rfl
@[simp] theorem link_setClk (s : State) (k : Nat) (x : Clk) (e' : EndRef) : link (setClk s k x) e' = link s e' := rfl
@[simp] theorem router_setClk (s : State) (k : Nat) (x : Clk) (c' : Cell) : router (setClk s k x) c' = router s c' := rfl
@[simp] theorem rport_setClk (s : State) (k : Nat) (x : Clk) (c' : Cell) (p' : Nat) : rport (setClk s k x) c' p' = rport s c' p' := rfl
@[simp] theorem punit_setClk (s : State) (k : Nat) (x : Clk) (u' : UnitRef) : punit (setClk s k x) u' = punit s u' := rfl
@[simp] theorem rxEnd_setClk (s : State) (k : Nat) (x : Clk) (e' : EndRef) : rxEnd (setClk s k x) e' = rxEnd s e' := rfl
@[simp] theorem txEnd_setClk (s : State) (k : Nat) (x : Clk) (e' : EndRef) : txEnd (setClk s k x) e' = txEnd s e' := rfl
@[simp] theorem gw_setClk (s : State) (k : Nat) (x : Clk) (g' : GwId) : gw (setClk s k x) g' = gw s g' := rfl
@[simp] theorem opt_setClk (s : State) (k : Nat) (x : Clk) (o' : OptId) : opt (setClk s k x) o' = opt s o' := rfl
@[simp] theorem dom_setClk (s : State) (k : Nat) (x : Clk) (d' : Nat) : dom (setClk s k x) d' = dom s d' := rfl
@[simp] theorem clocked_setClk (s : State) (k : Nat) (x : Clk) (d' : Nat) : clocked (setClk s k x) d' = clocked s d' := rfl
@[simp] theorem memRead_setClk (s : State) (k : Nat) (x : Clk) (sp' off' n' : Nat) : memRead (setClk s k x) sp' off' n' = memRead s sp' off' n' := rfl

/-! ## telAdd -/

@[simp] theorem telAdd_pending (s : State) (k n : Nat) : (telAdd s k n).pending = s.pending := rfl
@[simp] theorem telAdd_mem (s : State) (k n : Nat) : (telAdd s k n).mem = s.mem := rfl
@[simp] theorem telAdd_regs (s : State) (k n : Nat) : (telAdd s k n).regs = s.regs := rfl
@[simp] theorem telAdd_links (s : State) (k n : Nat) : (telAdd s k n).links = s.links := rfl
@[simp] theorem telAdd_routers (s : State) (k n : Nat) : (telAdd s k n).routers = s.routers := rfl
@[simp] theorem telAdd_units (s : State) (k n : Nat) : (telAdd s k n).units = s.units := rfl
@[simp] theorem telAdd_rx (s : State) (k n : Nat) : (telAdd s k n).rx = s.rx := rfl
@[simp] theorem telAdd_tx (s : State) (k n : Nat) : (telAdd s k n).tx = s.tx := rfl
@[simp] theorem telAdd_cmbs (s : State) (k n : Nat) : (telAdd s k n).cmbs = s.cmbs := rfl
@[simp] theorem telAdd_gws (s : State) (k n : Nat) : (telAdd s k n).gws = s.gws := rfl
@[simp] theorem telAdd_doms (s : State) (k n : Nat) : (telAdd s k n).doms = s.doms := rfl
@[simp] theorem telAdd_clks (s : State) (k n : Nat) : (telAdd s k n).clks = s.clks := rfl
@[simp] theorem telAdd_mer (s : State) (k n : Nat) : (telAdd s k n).mer = s.mer := rfl
@[simp] theorem telAdd_flt (s : State) (k n : Nat) : (telAdd s k n).flt = s.flt := rfl
@[simp] theorem telAdd_sec (s : State) (k n : Nat) : (telAdd s k n).sec = s.sec := rfl
@[simp] theorem telAdd_boot (s : State) (k n : Nat) : (telAdd s k n).boot = s.boot := rfl
@[simp] theorem telAdd_tap (s : State) (k n : Nat) : (telAdd s k n).tap = s.tap := rfl
@[simp] theorem telAdd_fuses (s : State) (k n : Nat) : (telAdd s k n).fuses = s.fuses := rfl
@[simp] theorem telAdd_held (s : State) (k n : Nat) : (telAdd s k n).held = s.held := rfl
@[simp] theorem telAdd_resp (s : State) (k n : Nat) : (telAdd s k n).resp = s.resp := rfl
@[simp] theorem telAdd_bar (s : State) (k n : Nat) : (telAdd s k n).bar = s.bar := rfl
@[simp] theorem telAdd_warm (s : State) (k n : Nat) : (telAdd s k n).warm = s.warm := rfl
@[simp] theorem telAdd_mirror (s : State) (k n : Nat) : (telAdd s k n).mirror = s.mirror := rfl
@[simp] theorem telAdd_errAt (s : State) (k n : Nat) : (telAdd s k n).errAt = s.errAt := rfl
@[simp] theorem telAdd_wakePin (s : State) (k n : Nat) : (telAdd s k n).wakePin = s.wakePin := rfl
@[simp] theorem telAdd_aclk (s : State) (k n : Nat) : (telAdd s k n).aclk = s.aclk := rfl
@[simp] theorem telAdd_freeCtr (s : State) (k n : Nat) : (telAdd s k n).freeCtr = s.freeCtr := rfl
@[simp] theorem rd_telAdd (s : State) (k n : Nat) (k' : Nat) : rd (telAdd s k n) k' = rd s k' := rfl
@[simp] theorem rdF_telAdd (s : State) (k n : Nat) (k' lo' len' : Nat) : rdF (telAdd s k n) k' lo' len' = rdF s k' lo' len' := rfl
@[simp] theorem link_telAdd (s : State) (k n : Nat) (e' : EndRef) : link (telAdd s k n) e' = link s e' := rfl
@[simp] theorem router_telAdd (s : State) (k n : Nat) (c' : Cell) : router (telAdd s k n) c' = router s c' := rfl
@[simp] theorem rport_telAdd (s : State) (k n : Nat) (c' : Cell) (p' : Nat) : rport (telAdd s k n) c' p' = rport s c' p' := rfl
@[simp] theorem punit_telAdd (s : State) (k n : Nat) (u' : UnitRef) : punit (telAdd s k n) u' = punit s u' := rfl
@[simp] theorem rxEnd_telAdd (s : State) (k n : Nat) (e' : EndRef) : rxEnd (telAdd s k n) e' = rxEnd s e' := rfl
@[simp] theorem txEnd_telAdd (s : State) (k n : Nat) (e' : EndRef) : txEnd (telAdd s k n) e' = txEnd s e' := rfl
@[simp] theorem gw_telAdd (s : State) (k n : Nat) (g' : GwId) : gw (telAdd s k n) g' = gw s g' := rfl
@[simp] theorem opt_telAdd (s : State) (k n : Nat) (o' : OptId) : opt (telAdd s k n) o' = opt s o' := rfl
@[simp] theorem dom_telAdd (s : State) (k n : Nat) (d' : Nat) : dom (telAdd s k n) d' = dom s d' := rfl
@[simp] theorem clk_telAdd (s : State) (k n : Nat) (k' : Nat) : clk (telAdd s k n) k' = clk s k' := rfl
@[simp] theorem cyc_telAdd (s : State) (k n : Nat) (d' : Nat) : cyc (telAdd s k n) d' = cyc s d' := rfl
@[simp] theorem clocked_telAdd (s : State) (k n : Nat) (d' : Nat) : clocked (telAdd s k n) d' = clocked s d' := rfl
@[simp] theorem memRead_telAdd (s : State) (k n : Nat) (sp' off' n' : Nat) : memRead (telAdd s k n) sp' off' n' = memRead s sp' off' n' := rfl

/-! ## updSec -/

@[simp] theorem updSec_pending (s : State) (f : Sec → Sec) : (updSec s f).pending = s.pending := rfl
@[simp] theorem updSec_mem (s : State) (f : Sec → Sec) : (updSec s f).mem = s.mem := rfl
@[simp] theorem updSec_regs (s : State) (f : Sec → Sec) : (updSec s f).regs = s.regs := rfl
@[simp] theorem updSec_links (s : State) (f : Sec → Sec) : (updSec s f).links = s.links := rfl
@[simp] theorem updSec_routers (s : State) (f : Sec → Sec) : (updSec s f).routers = s.routers := rfl
@[simp] theorem updSec_units (s : State) (f : Sec → Sec) : (updSec s f).units = s.units := rfl
@[simp] theorem updSec_rx (s : State) (f : Sec → Sec) : (updSec s f).rx = s.rx := rfl
@[simp] theorem updSec_tx (s : State) (f : Sec → Sec) : (updSec s f).tx = s.tx := rfl
@[simp] theorem updSec_cmbs (s : State) (f : Sec → Sec) : (updSec s f).cmbs = s.cmbs := rfl
@[simp] theorem updSec_gws (s : State) (f : Sec → Sec) : (updSec s f).gws = s.gws := rfl
@[simp] theorem updSec_doms (s : State) (f : Sec → Sec) : (updSec s f).doms = s.doms := rfl
@[simp] theorem updSec_clks (s : State) (f : Sec → Sec) : (updSec s f).clks = s.clks := rfl
@[simp] theorem updSec_mer (s : State) (f : Sec → Sec) : (updSec s f).mer = s.mer := rfl
@[simp] theorem updSec_flt (s : State) (f : Sec → Sec) : (updSec s f).flt = s.flt := rfl
@[simp] theorem updSec_tel (s : State) (f : Sec → Sec) : (updSec s f).tel = s.tel := rfl
@[simp] theorem updSec_sec (s : State) (f : Sec → Sec) : (updSec s f).sec = f s.sec := rfl
@[simp] theorem updSec_boot (s : State) (f : Sec → Sec) : (updSec s f).boot = s.boot := rfl
@[simp] theorem updSec_tap (s : State) (f : Sec → Sec) : (updSec s f).tap = s.tap := rfl
@[simp] theorem updSec_fuses (s : State) (f : Sec → Sec) : (updSec s f).fuses = s.fuses := rfl
@[simp] theorem updSec_held (s : State) (f : Sec → Sec) : (updSec s f).held = s.held := rfl
@[simp] theorem updSec_resp (s : State) (f : Sec → Sec) : (updSec s f).resp = s.resp := rfl
@[simp] theorem updSec_bar (s : State) (f : Sec → Sec) : (updSec s f).bar = s.bar := rfl
@[simp] theorem updSec_warm (s : State) (f : Sec → Sec) : (updSec s f).warm = s.warm := rfl
@[simp] theorem updSec_mirror (s : State) (f : Sec → Sec) : (updSec s f).mirror = s.mirror := rfl
@[simp] theorem updSec_errAt (s : State) (f : Sec → Sec) : (updSec s f).errAt = s.errAt := rfl
@[simp] theorem updSec_wakePin (s : State) (f : Sec → Sec) : (updSec s f).wakePin = s.wakePin := rfl
@[simp] theorem updSec_aclk (s : State) (f : Sec → Sec) : (updSec s f).aclk = s.aclk := rfl
@[simp] theorem updSec_freeCtr (s : State) (f : Sec → Sec) : (updSec s f).freeCtr = s.freeCtr := rfl
@[simp] theorem rd_updSec (s : State) (f : Sec → Sec) (k' : Nat) : rd (updSec s f) k' = rd s k' := rfl
@[simp] theorem rdF_updSec (s : State) (f : Sec → Sec) (k' lo' len' : Nat) : rdF (updSec s f) k' lo' len' = rdF s k' lo' len' := rfl
@[simp] theorem link_updSec (s : State) (f : Sec → Sec) (e' : EndRef) : link (updSec s f) e' = link s e' := rfl
@[simp] theorem router_updSec (s : State) (f : Sec → Sec) (c' : Cell) : router (updSec s f) c' = router s c' := rfl
@[simp] theorem rport_updSec (s : State) (f : Sec → Sec) (c' : Cell) (p' : Nat) : rport (updSec s f) c' p' = rport s c' p' := rfl
@[simp] theorem punit_updSec (s : State) (f : Sec → Sec) (u' : UnitRef) : punit (updSec s f) u' = punit s u' := rfl
@[simp] theorem rxEnd_updSec (s : State) (f : Sec → Sec) (e' : EndRef) : rxEnd (updSec s f) e' = rxEnd s e' := rfl
@[simp] theorem txEnd_updSec (s : State) (f : Sec → Sec) (e' : EndRef) : txEnd (updSec s f) e' = txEnd s e' := rfl
@[simp] theorem gw_updSec (s : State) (f : Sec → Sec) (g' : GwId) : gw (updSec s f) g' = gw s g' := rfl
@[simp] theorem opt_updSec (s : State) (f : Sec → Sec) (o' : OptId) : opt (updSec s f) o' = opt s o' := rfl
@[simp] theorem dom_updSec (s : State) (f : Sec → Sec) (d' : Nat) : dom (updSec s f) d' = dom s d' := rfl
@[simp] theorem clk_updSec (s : State) (f : Sec → Sec) (k' : Nat) : clk (updSec s f) k' = clk s k' := rfl
@[simp] theorem cyc_updSec (s : State) (f : Sec → Sec) (d' : Nat) : cyc (updSec s f) d' = cyc s d' := rfl
@[simp] theorem clocked_updSec (s : State) (f : Sec → Sec) (d' : Nat) : clocked (updSec s f) d' = clocked s d' := rfl
@[simp] theorem memRead_updSec (s : State) (f : Sec → Sec) (sp' off' n' : Nat) : memRead (updSec s f) sp' off' n' = memRead s sp' off' n' := rfl

/-! ## draw -/

@[simp] theorem draw_pending (s : State) : (draw s).pending = s.pending := rfl
@[simp] theorem draw_mem (s : State) : (draw s).mem = s.mem := rfl
@[simp] theorem draw_regs (s : State) : (draw s).regs = s.regs := rfl
@[simp] theorem draw_links (s : State) : (draw s).links = s.links := rfl
@[simp] theorem draw_routers (s : State) : (draw s).routers = s.routers := rfl
@[simp] theorem draw_units (s : State) : (draw s).units = s.units := rfl
@[simp] theorem draw_rx (s : State) : (draw s).rx = s.rx := rfl
@[simp] theorem draw_tx (s : State) : (draw s).tx = s.tx := rfl
@[simp] theorem draw_cmbs (s : State) : (draw s).cmbs = s.cmbs := rfl
@[simp] theorem draw_gws (s : State) : (draw s).gws = s.gws := rfl
@[simp] theorem draw_doms (s : State) : (draw s).doms = s.doms := rfl
@[simp] theorem draw_clks (s : State) : (draw s).clks = s.clks := rfl
@[simp] theorem draw_mer (s : State) : (draw s).mer = s.mer := rfl
@[simp] theorem draw_flt (s : State) : (draw s).flt = s.flt := rfl
@[simp] theorem draw_tel (s : State) : (draw s).tel = s.tel := rfl
@[simp] theorem draw_sec (s : State) : (draw s).sec = s.sec := rfl
@[simp] theorem draw_boot (s : State) : (draw s).boot = s.boot := rfl
@[simp] theorem draw_tap (s : State) : (draw s).tap = s.tap := rfl
@[simp] theorem draw_fuses (s : State) : (draw s).fuses = s.fuses := rfl
@[simp] theorem draw_held (s : State) : (draw s).held = s.held := rfl
@[simp] theorem draw_resp (s : State) : (draw s).resp = s.resp := rfl
@[simp] theorem draw_bar (s : State) : (draw s).bar = s.bar := rfl
@[simp] theorem draw_warm (s : State) : (draw s).warm = s.warm := rfl
@[simp] theorem draw_mirror (s : State) : (draw s).mirror = s.mirror := rfl
@[simp] theorem draw_errAt (s : State) : (draw s).errAt = s.errAt := rfl
@[simp] theorem draw_wakePin (s : State) : (draw s).wakePin = s.wakePin := rfl
@[simp] theorem draw_aclk (s : State) : (draw s).aclk = s.aclk := rfl
@[simp] theorem draw_freeCtr (s : State) : (draw s).freeCtr = s.freeCtr + 1 := rfl
@[simp] theorem rd_draw (s : State) (k' : Nat) : rd (draw s) k' = rd s k' := rfl
@[simp] theorem rdF_draw (s : State) (k' lo' len' : Nat) : rdF (draw s) k' lo' len' = rdF s k' lo' len' := rfl
@[simp] theorem link_draw (s : State) (e' : EndRef) : link (draw s) e' = link s e' := rfl
@[simp] theorem router_draw (s : State) (c' : Cell) : router (draw s) c' = router s c' := rfl
@[simp] theorem rport_draw (s : State) (c' : Cell) (p' : Nat) : rport (draw s) c' p' = rport s c' p' := rfl
@[simp] theorem punit_draw (s : State) (u' : UnitRef) : punit (draw s) u' = punit s u' := rfl
@[simp] theorem rxEnd_draw (s : State) (e' : EndRef) : rxEnd (draw s) e' = rxEnd s e' := rfl
@[simp] theorem txEnd_draw (s : State) (e' : EndRef) : txEnd (draw s) e' = txEnd s e' := rfl
@[simp] theorem gw_draw (s : State) (g' : GwId) : gw (draw s) g' = gw s g' := rfl
@[simp] theorem opt_draw (s : State) (o' : OptId) : opt (draw s) o' = opt s o' := rfl
@[simp] theorem dom_draw (s : State) (d' : Nat) : dom (draw s) d' = dom s d' := rfl
@[simp] theorem clk_draw (s : State) (k' : Nat) : clk (draw s) k' = clk s k' := rfl
@[simp] theorem cyc_draw (s : State) (d' : Nat) : cyc (draw s) d' = cyc s d' := rfl
@[simp] theorem clocked_draw (s : State) (d' : Nat) : clocked (draw s) d' = clocked s d' := rfl
@[simp] theorem memRead_draw (s : State) (sp' off' n' : Nat) : memRead (draw s) sp' off' n' = memRead s sp' off' n' := rfl
/-! ## A read of what was written -/

@[simp] theorem rd_wr_same (s : State) (k : Nat) (v : Word) : rd (wr s k v) k = v := FMap.get_set_same ..
theorem rd_wr_ne (s : State) {k j : Nat} (v : Word) (h : j ≠ k) : rd (wr s k v) j = rd s j := FMap.get_set_ne _ _ _ h
theorem wrF_eq (s : State) (k lo len v : Nat) : wrF s k lo len v = wr s k (put (rd s k) lo len v) := rfl
theorem setBits_eq (s : State) (k m : Nat) : setBits s k m = wr s k (rd s k ||| BitVec.ofNat 32 m) := rfl
theorem cntUp_eq (s : State) (k lo len n : Nat) :
    cntUp s k lo len n = wrF s k lo len (satAdd (2 ^ len - 1) (rdF s k lo len) n) := rfl
@[simp] theorem rd_wrF_same (s : State) (k lo len v : Nat) : rd (wrF s k lo len v) k = put (rd s k) lo len v := rd_wr_same ..
theorem rd_wrF_ne (s : State) {k j : Nat} (lo len v : Nat) (h : j ≠ k) : rd (wrF s k lo len v) j = rd s j := rd_wr_ne _ _ h
@[simp] theorem rd_setBits_same (s : State) (k m : Nat) : rd (setBits s k m) k = rd s k ||| BitVec.ofNat 32 m := rd_wr_same ..
theorem rd_setBits_ne (s : State) {k j : Nat} (m : Nat) (h : j ≠ k) : rd (setBits s k m) j = rd s j := rd_wr_ne _ _ h
theorem rd_cntUp_ne (s : State) {k j : Nat} (lo len n : Nat) (h : j ≠ k) : rd (cntUp s k lo len n) j = rd s j := rd_wr_ne _ _ h
theorem rd_maxUp_ne (s : State) {k j : Nat} (lo len n : Nat) (h : j ≠ k) : rd (maxUp s k lo len n) j = rd s j := rd_wr_ne _ _ h
theorem rd_wrMask_ne (s : State) {k j : Nat} (mask : Nat) (v : Word) (h : j ≠ k) : rd (wrMask s k mask v) j = rd s j := rd_wr_ne _ _ h
@[simp] theorem rd_wrMask_same (s : State) (k mask : Nat) (v : Word) :
    rd (wrMask s k mask v) k = (rd s k &&& ~~~(BitVec.ofNat 32 mask)) ||| (v &&& BitVec.ofNat 32 mask) := rd_wr_same ..
@[simp] theorem link_setLink_same (s : State) (e : EndRef) (l : LinkEnd) : link (setLink s e l) e = l := FMap.get_set_same ..
theorem link_setLink_ne (s : State) {e e' : EndRef} (l : LinkEnd) (h : e'.key ≠ e.key) : link (setLink s e l) e' = link s e' :=
  FMap.get_set_ne _ _ _ h
@[simp] theorem link_updLink_same (s : State) (e : EndRef) (f : LinkEnd → LinkEnd) : link (updLink s e f) e = f (link s e) :=
  FMap.get_set_same ..
theorem link_updLink_ne (s : State) {e e' : EndRef} (f : LinkEnd → LinkEnd) (h : e'.key ≠ e.key) :
    link (updLink s e f) e' = link s e' := FMap.get_set_ne _ _ _ h
@[simp] theorem router_setRouter_same (s : State) (c : Cell) (r : Router) : router (setRouter s c r) c = r := FMap.get_set_same ..
theorem router_setRouter_ne (s : State) {c c' : Cell} (r : Router) (h : c'.key ≠ c.key) :
    router (setRouter s c r) c' = router s c' := FMap.get_set_ne _ _ _ h
@[simp] theorem rport_setRport_same (s : State) (c : Cell) (p : Nat) (x : RPort) : rport (setRport s c p x) c p = x := by
  simp [rport, setRport, Router.port, Router.setPort]
@[simp] theorem punit_setUnit_same (s : State) (u : UnitRef) (x : PUnit) : punit (setUnit s u x) u = x := FMap.get_set_same ..
theorem punit_setUnit_ne (s : State) {u u' : UnitRef} (x : PUnit) (h : u'.key ≠ u.key) :
    punit (setUnit s u x) u' = punit s u' := FMap.get_set_ne _ _ _ h
@[simp] theorem punit_updUnit_same (s : State) (u : UnitRef) (f : PUnit → PUnit) : punit (updUnit s u f) u = f (punit s u) :=
  FMap.get_set_same ..
theorem punit_updUnit_ne (s : State) {u u' : UnitRef} (f : PUnit → PUnit) (h : u'.key ≠ u.key) :
    punit (updUnit s u f) u' = punit s u' := FMap.get_set_ne _ _ _ h
@[simp] theorem rxEnd_setRxEnd_same (s : State) (e : EndRef) (x : RxEnd) : rxEnd (setRxEnd s e x) e = x := FMap.get_set_same ..
@[simp] theorem txEnd_setTxEnd_same (s : State) (e : EndRef) (x : TxEnd) : txEnd (setTxEnd s e x) e = x := FMap.get_set_same ..
@[simp] theorem gw_setGw_same (s : State) (g : GwId) (x : Gw) : gw (setGw s g x) g = x := FMap.get_set_same ..
@[simp] theorem gw_updGw_same (s : State) (g : GwId) (f : Gw → Gw) : gw (updGw s g f) g = f (gw s g) := FMap.get_set_same ..
theorem gw_updGw_ne (s : State) {g g' : GwId} (f : Gw → Gw) (h : g'.num ≠ g.num) : gw (updGw s g f) g' = gw s g' :=
  FMap.get_set_ne _ _ _ h
@[simp] theorem opt_updOpt_same (s : State) (o : OptId) (f : Opt → Opt) : opt (updOpt s o f) o = f (opt s o) := by
  simp [opt, updOpt, setOpt]
@[simp] theorem dom_setDom_same (s : State) (d : Nat) (x : Dom) : dom (setDom s d x) d = x := FMap.get_set_same ..
@[simp] theorem dom_updDom_same (s : State) (d : Nat) (f : Dom → Dom) : dom (updDom s d f) d = f (dom s d) := FMap.get_set_same ..
theorem dom_updDom_ne (s : State) {d d' : Nat} (f : Dom → Dom) (h : d' ≠ d) : dom (updDom s d f) d' = dom s d' :=
  FMap.get_set_ne _ _ _ h
@[simp] theorem clk_setClk_same (s : State) (k : Nat) (x : Clk) : clk (setClk s k x) k = x := FMap.get_set_same ..
theorem clk_setClk_ne (s : State) {k k' : Nat} (x : Clk) (h : k' ≠ k) : clk (setClk s k x) k' = clk s k' :=
  FMap.get_set_ne _ _ _ h

end Sys2Proof.Machine
end

