-- ==== Sys2Proof/Laws/Access.lean ====
section
/-! SUPPORT. What a configuration access does that is served at once: the register's own effect, and the answer. -/

namespace Sys2Proof.Machine

/-! ## The answer of the management port -/

@[simp] theorem rd_answer (s : State) (v : Via) (st c : Nat) (d : Option Word) (k : Nat) : rd (answer s v st c d) k = rd s k := by
  cases v <;> rfl

theorem answer_mgmt_status (s : State) (g : Fin 32) (st c : Nat) (d : Option Word) :
    (respOf (answer s (.mgmt g) st c d) g.val).status = st := by
  simp [respOf, answer, viaNum]

theorem answer_mgmt_data (s : State) (g : Fin 32) (st c : Nat) (d : Option Word) :
    (respOf (answer s (.mgmt g) st c d) g.val).data = d.getD (respOf s g.val).data := by
  simp [respOf, answer, viaNum]

/-- An answer touches nothing but what a path has received. -/
theorem answer_touched (s : State) (v : Via) (st c : Nat) (d : Option Word) : Touches [.tap, .resp, .bar] s (answer s v st c d) :=
  answer_touches v st c d (List.Subset.refl _) (Touches.refl _ _)

/-! ## What the address and the views let pass -/

theorem keyDom_lt_of_rowOf {k : Nat} (h : (rowOf k).isSome = true) : keyDom k ≠ 56 := by
  intro e
  unfold rowOf blockRows at h
  rw [e] at h
  simp at h

theorem addrPasses_of_rowOf {a : HeldAcc} (h : (rowOf a.key).isSome = true) : addrPasses a = true := by
  have hd := keyDom_lt_of_rowOf h
  unfold addrPasses
  simp only [hd, if_false]
  unfold rowOf at h
  split at h
  · rename_i hs; rw [hs]; rfl
  · simp at h

theorem serveHeld_nil {s : State} (h : s.held = []) : serveHeld s = s := by
  unfold serveHeld; rw [if_pos h]

/-- The root passes an access of the management port on, where the service group serves. -/
theorem rootVerdict_mgmt {s : State} {g : Fin 32} {k : Nat} {wr : Bool} {v : Word} (h : (dom s 52).st = .run) (hh : s.held = []) :
    rootVerdict s (accOf (.mgmt g) k wr v) = .serve := by
  show (if alwaysOn s k = true then (if mgmtWaits s k = true then Verdict.hold false else Verdict.serve) else svcVerdict s _) = .serve
  have hm : mgmtWaits s k = false := by unfold mgmtWaits; rw [hh]; rfl
  rw [hm]
  split
  · rfl
  · simp [svcVerdict, h]

/-- The answer of an access that meets no disturbance. -/
theorem serveAcc_good {s : State} {a : HeldAcc} (h : a.fate = .good) :
    serveAcc s a = answer (effectAcc s a).2 a.via 0 0 (effectAcc s a).1 := by
  have hf (d : Nat) : fateIn a d = .good := by unfold fateIn; rw [h]; split <;> rfl
  have hid (l : List Nat) : l.foldl (fun (t : State) _ => t) s = s := by
    induction l with
    | nil => rfl
    | cons _ _ ih => exact ih
  unfold serveAcc
  split
  · rename_i hc
    have hw : a.wr = true := by unfold hitCopies at hc; cases e : a.wr <;> simp [e] at hc ⊢
    unfold serveCopy
    rw [h]
    simp only [hf, fateCause, fateNote, hid]
    simp [effectAcc, hw]
  · rw [hf]
    simp [fateCause, fateNote]

/-- An access of the management port that is served: the effect in the block, and OK. -/
theorem access_mgmt {s : State} {g : Fin 32} {k : Nat} {wr : Bool} {v : Word} (h : MgmtServes s k) (hk : k < barBase) :
    access s (accOf (.mgmt g) k wr v) =
      answer (effectAcc s (accOf (.mgmt g) k wr v)).2 (.mgmt g) 0 0 (effectAcc s (accOf (.mgmt g) k wr v)).1 := by
  obtain ⟨h1, h2, h3, h4⟩ := h
  have hd := keyDom_lt_of_rowOf h3
  have ha : addrPasses { accOf (.mgmt g) k wr v with ok := true } = true := addrPasses_of_rowOf h3
  have hb : ¬ barBase ≤ k := Nat.not_le.2 hk
  show rootAcc s (accOf (.mgmt g) k wr v) = _
  unfold rootAcc
  rw [rootVerdict_mgmt h1 h2]
  show (if Judged.passes = Judged.denied then _ else reachAcc s { accOf (.mgmt g) k wr v with ok := true }) = _
  rw [if_neg (by decide)]
  unfold reachAcc
  rw [if_neg (show ¬ barBase ≤ ({ accOf (.mgmt g) k wr v with ok := true } : HeldAcc).key from hb), ha,
    if_neg (by decide), if_neg (show ¬ keyDom ({ accOf (.mgmt g) k wr v with ok := true } : HeldAcc).key = 56 from hd)]
  show (match targetVerdict s k with
    | .serve => _
    | .hold w => _
    | .err c => _) = _
  rw [h4]
  exact serveAcc_good rfl

/-- A request of the management port is taken where nothing is held. -/
theorem request_mgmt {s : State} {g : Fin 32} {k : Nat} {wr : Bool} {v : Word} (h : MgmtServes s k) (hk : k < barBase)
    (hn : (answer (effectAcc s (accOf (.mgmt g) k wr v)).2 (.mgmt g) 0 0 (effectAcc s (accOf (.mgmt g) k wr v)).1).held = []) :
    request s (accOf (.mgmt g) k wr v) =
      answer (effectAcc s (accOf (.mgmt g) k wr v)).2 (.mgmt g) 0 0 (effectAcc s (accOf (.mgmt g) k wr v)).1 := by
  unfold request
  have hf : pathFull s (accOf (.mgmt g) k wr v).via = false := by
    show (s.held.any _) = false
    rw [h.2.1]; rfl
  rw [hf, if_neg (by decide), access_mgmt h hk, serveHeld_nil hn]

/-- A write by the management port that is served: the register's effect, and OK. -/
theorem writeBy_mgmt {s : State} {k : Nat} (g : Fin 32) (v : Word) (h : MgmtServes s k) (hk : k < barBase) :
    writeBy s (.mgmt g) k v = answer (regWrite s (.mgmt g) true k v) (.mgmt g) 0 0 none := by
  have hp : viaPath (.mgmt g) = .mgmt g := by
    simp [viaPath, viaNum, Fin.ofNat, Nat.mod_eq_of_lt g.isLt]
  have he : effectAcc s (accOf (.mgmt g) k true v) = (none, regWrite s (.mgmt g) true k v) := by
    show (none, regWrite s (viaPath (.mgmt g)) true k v) = _
    rw [hp]
  have hheld : (answer (regWrite s (.mgmt g) true k v) (.mgmt g) 0 0 none).held = [] := by
    have t := answer_touches (m := [.mem, .regs, .links, .routers, .units, .rx, .tx, .cmbs, .gws, .doms, .clks, .mer, .flt, .tel,
      .sec, .boot, .bar, .warm, .mirror, .freeCtr, .tap, .resp]) (.mgmt g) 0 0 none (by decide)
      (regWrite_touches (.mgmt g) true k v (by decide) (Touches.refl _ s))
    exact (t.stays .held (by decide)).trans h.2.1
  show request s (accOf (.mgmt g) k true v) = _
  rw [request_mgmt h hk (by rw [he]; exact hheld), he]

/-- A read by the management port that is served: the register's value, and what the read leaves. -/
theorem readBy_mgmt {s : State} {k : Nat} (g : Fin 32) (h : MgmtServes s k) (hk : k < barBase) :
    readBy s (.mgmt g) k = answer (regRead s false k).2 (.mgmt g) 0 0 (some (regRead s false k).1) := by
  have he : effectAcc s (accOf (.mgmt g) k false 0) = (some (regRead s false k).1, (regRead s false k).2) := rfl
  have hheld : (answer (regRead s false k).2 (.mgmt g) 0 0 (some (regRead s false k).1)).held = [] := by
    have t := answer_touches (m := [.regs, .units, .gws, .flt, .tap, .resp, .bar]) (.mgmt g) 0 0 (some (regRead s false k).1) (by decide)
      (regRead_touches false k (by decide) (Touches.refl _ s))
    exact (t.stays .held (by decide)).trans h.2.1
  show request s (accOf (.mgmt g) k false 0) = _
  rw [request_mgmt h hk (by rw [he]; exact hheld), he]

/-! ## The handler of a register -/

theorem regWrite_of_row {s : State} {p : Path} {hh : Bool} {k : Nat} {v : Word} {row : RegRow} (h : rowOf k = some row)
    (ha : absentPort k = false) :
    regWrite s p hh k v =
      if v &&& BitVec.ofNat 32 row.w1c ≠ 0 then afterClear (blockWrite s p hh k row v) k
      else if isSev k then refreshStat (blockWrite s p hh k row v) else blockWrite s p hh k row v := by
  unfold regWrite
  rw [h]
  simp [ha]

theorem absentPort_cell (c : Cell) {b o : Nat} (hb : b < 32) (ho : o < 65536) (h : b ≠ 0 ∨ o < 448 ∨ 480 ≤ o ∨ c.edge = true) :
    absentPort (cellReg c b o) = false := by
  unfold absentPort
  rw [keyDom_cellReg c hb ho, keyCell_cellReg c hb ho, keyBlk_cellReg c hb ho, keyOff_cellReg c hb ho, cellOf_field_num]
  rcases h with h | h | h | h
  · simp [h]
  · simp [Nat.not_le.2 h]
  · simp [Nat.not_lt.2 h]
  · simp [h]

theorem absentPort_gw (g : GwId) {b o : Nat} (hb : b < 32) (ho : o < 65536) : absentPort (gwReg g b o) = false := by
  unfold absentPort
  rw [keyDom_gwReg g hb ho]
  simp [Nat.not_lt.2 (gw_dom_ge g)]

theorem absentPort_svc {b o : Nat} (hb : b < 32) (ho : o < 65536) : absentPort (svcReg b o) = false := by
  unfold absentPort
  rw [keyDom_svcReg hb ho]
  rfl

theorem absentPort_aon {b o : Nat} (hb : b < 32) (ho : o < 65536) : absentPort (aonReg b o) = false := by
  unfold absentPort
  rw [keyDom_aonReg hb ho]
  rfl

section
variable (s : State) (p : Path) (hh : Bool) (row : RegRow) (v : Word)

theorem blockWrite_ni (c : Cell) {o : Nat} (ho : o < 65536) :
    blockWrite s p hh (cellReg c 3 o) row v = niWriteReg s c o (cellReg c 3 o) row v := by
  have hn : ¬ c.num = 2047 := fun e => absurd (cell_num_lt c) (by rw [e]; decide)
  unfold blockWrite
  rw [keyDom_cellReg c (by decide) ho, keyCell_cellReg c (by decide) ho, keyBlk_cellReg c (by decide) ho,
    keyOff_cellReg c (by decide) ho]
  simp only [cell_field_lt c, if_true, hn, if_false, cellOf_field_num]

theorem blockWrite_cmb (c : Cell) {o : Nat} (ho : o < 65536) :
    blockWrite s p hh (cellReg c 4 o) row v = cmbWriteReg s c o (cellReg c 4 o) row v := by
  have hn : ¬ c.num = 2047 := fun e => absurd (cell_num_lt c) (by rw [e]; decide)
  unfold blockWrite
  rw [keyDom_cellReg c (by decide) ho, keyCell_cellReg c (by decide) ho, keyBlk_cellReg c (by decide) ho,
    keyOff_cellReg c (by decide) ho]
  simp only [cell_field_lt c, if_true, hn, if_false, cellOf_field_num]

theorem blockWrite_router (c : Cell) {b o : Nat} (hb : b < 3) (ho : o < 65536) :
    blockWrite s p hh (cellReg c b o) row v = routerWrite s c b o (cellReg c b o) row v := by
  have hn : ¬ c.num = 2047 := fun e => absurd (cell_num_lt c) (by rw [e]; decide)
  have hb' : b < 32 := Nat.lt_trans hb (by decide)
  unfold blockWrite
  rw [keyDom_cellReg c hb' ho, keyCell_cellReg c hb' ho, keyBlk_cellReg c hb' ho, keyOff_cellReg c hb' ho]
  simp only [cell_field_lt c, if_true, hn, if_false, cellOf_field_num]
  match b, hb with
  | 0, _ => rfl
  | 1, _ => rfl
  | 2, _ => rfl

theorem blockWrite_gw (g : GwId) {b o : Nat} (hb : b < 32) (ho : o < 65536) :
    blockWrite s p hh (gwReg g b o) row v = gwWriteReg s g b o (gwReg g b o) row v := by
  unfold blockWrite
  rw [keyDom_gwReg g hb ho, keyCell_gwReg g hb ho, keyBlk_gwReg g hb ho, keyOff_gwReg g hb ho]
  simp only [Nat.not_lt.2 (gw_dom_ge g), if_false, gw_dom_lt g, if_true, gwOfNum_num]

theorem blockWrite_svc {b o : Nat} (hb : b < 32) (ho : o < 65536) :
    blockWrite s p hh (svcReg b o) row v = svcWriteReg s p hh b o (svcReg b o) row v := by
  unfold blockWrite
  rw [keyDom_svcReg hb ho, keyBlk_svcReg hb ho, keyOff_svcReg b ho]
  rfl

theorem blockWrite_aon {b o : Nat} (hb : b < 32) (ho : o < 65536) :
    blockWrite s p hh (aonReg b o) row v = aonWriteReg s b o (aonReg b o) row v := by
  unfold blockWrite
  rw [keyDom_aonReg hb ho, keyBlk_aonReg hb ho, keyOff_aonReg b ho]
  rfl

end

theorem cellReg_lt_bar (c : Cell) {b o : Nat} (hb : b < 32) (ho : o < 65536) : cellReg c b o < barBase := by
  have h1 := cell_field_lt c
  have h2 := cell_num_lt c
  unfold cellReg regKey barBase; omega

theorem gwReg_lt_bar (g : GwId) {b o : Nat} (hb : b < 32) (ho : o < 65536) : gwReg g b o < barBase := by
  have h1 := gw_dom_lt g
  have h2 := gw_num_lt g
  unfold gwReg regKey barBase; omega

theorem svcReg_lt_bar {b o : Nat} (hb : b < 32) (ho : o < 65536) : svcReg b o < barBase := by
  unfold svcReg regKey barBase; omega

theorem aonReg_lt_bar {b o : Nat} (hb : b < 32) (ho : o < 65536) : aonReg b o < barBase := by
  unfold aonReg regKey barBase; omega

end Sys2Proof.Machine
end

