-- ==== Sys2Proof/Laws/Bits.lean ====
section
/-! SUPPORT. Bits and fields of words: what a field reads after it was replaced, and what a plain write and a read with RC
bits leave of each bit. -/

namespace Sys2Proof.Machine

theorem bit_eq {n : Nat} (w : BitVec n) (i : Nat) : bit w i = w.getLsbD i := rfl

theorem testBit_bits {n : Nat} (w : BitVec n) (lo len i : Nat) :
    (bits w lo len).testBit i = (decide (i < len) && w.getLsbD (lo + i)) := by
  unfold bits
  rw [Nat.testBit_mod_two_pow, Nat.testBit_shiftRight, BitVec.getLsbD]

theorem bits_lt {n : Nat} (w : BitVec n) (lo len : Nat) : bits w lo len < 2 ^ len := Nat.mod_lt _ (Nat.two_pow_pos len)

theorem getLsbD_put {n : Nat} (w : BitVec n) (lo len v i : Nat) :
    (put w lo len v).getLsbD i =
      if lo ≤ i ∧ i < lo + len then decide (i < n) && v.testBit (i - lo) else w.getLsbD i := by
  unfold put
  simp only [BitVec.getLsbD_or, BitVec.getLsbD_and, BitVec.getLsbD_not, BitVec.getLsbD_ofNat, Nat.testBit_shiftLeft,
    Nat.testBit_two_pow_sub_one, Nat.testBit_mod_two_pow]
  by_cases h1 : lo ≤ i
  · by_cases h2 : i < lo + len
    · have h3 : i - lo < len := by omega
      simp only [h1, h2, h3, and_self, if_true, decide_true, Bool.true_and]
      by_cases h4 : i < n
      · simp [h4]
      · simp [h4]
    · have h3 : ¬ i - lo < len := by omega
      simp only [h1, h2, h3, and_false, if_false, decide_true, decide_false, Bool.and_false, Bool.false_and, Bool.or_false]
      by_cases h4 : i < n
      · simp [h4]
      · have : w.getLsbD i = false := BitVec.getLsbD_of_ge _ _ (Nat.le_of_not_lt h4)
        simp [this]
  · have h5 : ¬ (lo ≤ i ∧ i < lo + len) := fun h => h1 h.1
    simp only [h1, h5, if_false, decide_false, Bool.false_and, Bool.and_false, Bool.or_false]
    by_cases h4 : i < n
    · simp [h4]
    · have : w.getLsbD i = false := BitVec.getLsbD_of_ge _ _ (Nat.le_of_not_lt h4)
      simp [this]

/-- A field reads what was put into it. -/
theorem bits_put_same {n : Nat} (w : BitVec n) {lo len : Nat} (v : Nat) (h : lo + len ≤ n) :
    bits (put w lo len v) lo len = v % 2 ^ len := by
  apply Nat.eq_of_testBit_eq
  intro i
  rw [testBit_bits, getLsbD_put, Nat.testBit_mod_two_pow]
  by_cases hi : i < len
  · have h1 : lo ≤ lo + i ∧ lo + i < lo + len := by omega
    have h2 : lo + i < n := by omega
    simp only [h1, h2, and_self, if_true, decide_true, Bool.true_and, hi, Nat.add_sub_cancel_left]
  · simp [hi]

/-- Replacing a field leaves the fields beside it. -/
theorem bits_put_ne {n : Nat} (w : BitVec n) {lo len lo' len' : Nat} (v : Nat) (h : lo' + len' ≤ lo ∨ lo + len ≤ lo') :
    bits (put w lo len v) lo' len' = bits w lo' len' := by
  apply Nat.eq_of_testBit_eq
  intro i
  rw [testBit_bits, testBit_bits, getLsbD_put]
  by_cases hi : i < len'
  · have h1 : ¬ (lo ≤ lo' + i ∧ lo' + i < lo + len) := by omega
    rw [if_neg h1]
  · simp [hi]

theorem bit_put_ne {n : Nat} (w : BitVec n) {lo len i : Nat} (v : Nat) (h : i < lo ∨ lo + len ≤ i) :
    bit (put w lo len v) i = bit w i := by
  rw [bit_eq, bit_eq, getLsbD_put, if_neg (by omega)]

theorem bit_or {n : Nat} (w v : BitVec n) (i : Nat) : bit (w ||| v) i = (bit w i || bit v i) := by
  simp [bit_eq]

theorem bit_and {n : Nat} (w v : BitVec n) (i : Nat) : bit (w &&& v) i = (bit w i && bit v i) := by
  simp [bit_eq]

theorem bit_ofNat32 (m i : Nat) : bit (BitVec.ofNat 32 m) i = (decide (i < 32) && m.testBit i) := by
  rw [bit_eq, BitVec.getLsbD_ofNat]

/-- R12: each bit after a plain write. -/
theorem bit_plainWrite (r : RegRow) (old v : Word) {i : Nat} (hi : i < 32) :
    bit (plainWrite r old v) i =
      ((if r.rw.testBit i then bit v i else bit old i) && !(r.w1c.testBit i && bit v i)) := by
  unfold plainWrite
  simp only [bit_eq, BitVec.getLsbD_or, BitVec.getLsbD_and, BitVec.getLsbD_not, BitVec.getLsbD_ofNat, hi, decide_true,
    Bool.true_and]
  cases r.rw.testBit i <;> cases r.w1c.testBit i <;> simp

theorem plainWrite_ro (r : RegRow) (h1 : r.rw = 0) (h2 : r.w1c = 0) (old v : Word) : plainWrite r old v = old := by
  apply BitVec.eq_of_getLsbD_eq
  intro i hi
  have h := bit_plainWrite r old v hi
  simpa [h1, h2, bit_eq] using h

/-- R12: each bit after a read. -/
theorem bit_afterRead (r : RegRow) (old : Word) {i : Nat} (hi : i < 32) :
    bit (afterRead r old) i = (bit old i && !r.rc.testBit i) := by
  unfold afterRead
  simp only [bit_eq, BitVec.getLsbD_and, BitVec.getLsbD_not, BitVec.getLsbD_ofNat, hi, decide_true, Bool.true_and]

end Sys2Proof.Machine
end

