-- ==== Sys2Proof/Laws/FrameBoot.lean ====
section
/-! SUPPORT. What each operation of Sys2Proof/Machine/Boot.lean may change: the parts of the state that it touches. -/

namespace Sys2Proof.Machine

theorem wakeDone_touches {m : List Part} {s0 s : State} (d : Nat) (hm : [.regs, .links, .units, .rx, .tx, .cmbs, .gws, .doms, .flt, .tel] ⊆ m) (h : Touches m s0 s) :
    Touches m s0 (wakeDone s d) := by
  unfold wakeDone
  repeat' first
    | with_reducible assumption
    | (with_reducible refine List.Subset.trans ?_ hm); decide
    | with_reducible apply replayMirror_touches
    | with_reducible apply updDom_touches
    | with_reducible apply Touches.ite
    | split
    | extract_lets
    | intro _
    | dsimp +zetaDelta only

theorem resetExit_touches {m : List Part} {s0 s : State} (d : Nat) (hm : [.regs, .links, .units, .rx, .tx, .cmbs, .gws, .doms, .mer, .flt, .tel] ⊆ m) (h : Touches m s0 s) :
    Touches m s0 (resetExit s d) := by
  unfold resetExit
  repeat' first
    | with_reducible assumption
    | (with_reducible refine List.Subset.trans ?_ hm); decide
    | with_reducible apply dropPins_touches
    | with_reducible apply resetRun_touches
    | with_reducible apply Touches.ite
    | split
    | extract_lets
    | intro _
    | dsimp +zetaDelta only

theorem fuseLoad_touches {m : List Part} {s0 s : State}  (hm : [.doms, .boot] ⊆ m) (h : Touches m s0 s) :
    Touches m s0 (fuseLoad s) := by
  unfold fuseLoad
  repeat' first
    | with_reducible assumption
    | (with_reducible refine List.Subset.trans ?_ hm); decide
    | with_reducible apply updDom_touches
    | with_reducible apply Touches.foldl
    | with_reducible apply Touches.ite
    | split
    | extract_lets
    | intro _
    | dsimp +zetaDelta only
    | with_reducible apply Touches.set_boot

theorem bringUp_touches {m : List Part} {s0 s : State} (late : BitVec 53) (l : List Nat) (hm : [.regs, .links, .units, .rx, .tx, .cmbs, .gws, .doms, .mer, .flt, .tel, .boot] ⊆ m) (h : Touches m s0 s) :
    Touches m s0 (bringUp s late l) := by
  unfold bringUp
  repeat' first
    | with_reducible assumption
    | (with_reducible refine List.Subset.trans ?_ hm); decide
    | with_reducible apply resetRun_touches
    | with_reducible apply Touches.foldl
    | with_reducible apply Touches.ite
    | split
    | extract_lets
    | intro _
    | dsimp +zetaDelta only
    | with_reducible apply Touches.set_boot

theorem powerOn_touches {m : List Part} {s0 s : State} (late : BitVec 53) (hm : [.regs, .links, .units, .rx, .tx, .cmbs, .gws, .doms, .mer, .flt, .tel, .boot] ⊆ m) (h : Touches m s0 s) :
    Touches m s0 (powerOn s late) := by
  unfold powerOn
  repeat' first
    | with_reducible assumption
    | (with_reducible refine List.Subset.trans ?_ hm); decide
    | with_reducible apply fuseLoad_touches
    | with_reducible apply bringUp_touches
    | with_reducible apply Touches.ite
    | split
    | extract_lets
    | intro _
    | dsimp +zetaDelta only
    | with_reducible apply Touches.set_boot

theorem tapSec_touches {m : List Part} {s0 s : State} (dr : BitVec 40) (hm : [.mem, .regs, .links, .routers, .units, .rx, .tx, .cmbs, .gws, .doms, .clks, .mer, .flt, .tel, .sec, .boot, .tap, .held, .resp, .bar, .warm, .mirror, .errAt, .freeCtr] ⊆ m) (h : Touches m s0 s) :
    Touches m s0 (tapSec s dr) := by
  unfold tapSec
  repeat' first
    | with_reducible assumption
    | (with_reducible refine List.Subset.trans ?_ hm); decide
    | with_reducible apply request_touches
    | with_reducible apply Touches.ite
    | split
    | extract_lets
    | intro _
    | dsimp +zetaDelta only

theorem tapCfg_touches {m : List Part} {s0 s : State} (dr : BitVec 72) (hm : [.mem, .regs, .links, .routers, .units, .rx, .tx, .cmbs, .gws, .doms, .clks, .mer, .flt, .tel, .sec, .boot, .tap, .held, .resp, .bar, .warm, .mirror, .errAt, .freeCtr] ⊆ m) (h : Touches m s0 s) :
    Touches m s0 (tapCfg s dr) := by
  unfold tapCfg
  repeat' first
    | with_reducible assumption
    | (with_reducible refine List.Subset.trans ?_ hm); decide
    | with_reducible apply request_touches
    | with_reducible apply Touches.ite
    | split
    | extract_lets
    | intro _
    | dsimp +zetaDelta only

theorem tapScan_touches {m : List Part} {s0 s : State} (w : Nat) (dr : Nat) (hm : [.mem, .regs, .links, .routers, .units, .rx, .tx, .cmbs, .gws, .doms, .clks, .mer, .flt, .tel, .sec, .boot, .tap, .held, .resp, .bar, .warm, .mirror, .errAt, .freeCtr] ⊆ m) (h : Touches m s0 s) :
    Touches m s0 (tapScan s w dr) := by
  unfold tapScan
  repeat' first
    | with_reducible assumption
    | (with_reducible refine List.Subset.trans ?_ hm); decide
    | with_reducible apply tapSec_touches
    | with_reducible apply tapCfg_touches
    | with_reducible apply draw_touches
    | with_reducible apply Touches.ite
    | split
    | extract_lets
    | intro _
    | dsimp +zetaDelta only
    | with_reducible apply Touches.set_tap

end Sys2Proof.Machine
end

