-- ==== Sys2Proof/Laws/FrameHost.lean ====
section
/-! SUPPORT. What each operation of Sys2Proof/Machine/Host.lean may change: the parts of the state that it touches. -/

namespace Sys2Proof.Machine

theorem pcieLinkChange_touches {m : List Part} {s0 s : State} (h_ : Nat) (l : HostLink) (hm : [.mem, .regs, .units, .gws, .tel] ⊆ m) (h : Touches m s0 s) :
    Touches m s0 (pcieLinkChange s h_ l) := by
  unfold pcieLinkChange
  repeat' first
    | with_reducible assumption
    | (with_reducible refine List.Subset.trans ?_ hm); decide
    | with_reducible apply updGw_touches
    | with_reducible apply setBits_touches
    | with_reducible apply cplFlush_touches
    | with_reducible apply Touches.ite
    | split
    | extract_lets
    | intro _
    | dsimp +zetaDelta only

theorem flr_touches {m : List Part} {s0 s : State} (h_ : Nat) (hm : [.regs, .units, .tx, .gws] ⊆ m) (h : Touches m s0 s) :
    Touches m s0 (flr s h_) := by
  unfold flr
  repeat' first
    | with_reducible assumption
    | (with_reducible refine List.Subset.trans ?_ hm); decide
    | with_reducible apply updUnit_touches
    | with_reducible apply setTxEnd_touches
    | with_reducible apply setBits_touches
    | with_reducible apply updGw_touches
    | with_reducible apply Touches.foldl
    | with_reducible apply Touches.ite
    | split
    | extract_lets
    | intro _
    | dsimp +zetaDelta only
    | with_reducible apply Touches.set_regs

end Sys2Proof.Machine
end

