-- ==== Sys2Proof/Laws/FrameRows.lean ====
section
/-! SUPPORT. What each operation of Sys2Proof/Machine/Rows.lean may change: the parts of the state that it touches. -/

namespace Sys2Proof.Machine

theorem ringBy_touches {m : List Part} {s0 s : State} (p : Path) (u : UnitRef) (cq : Bool) (r : Nat) (i : Nat) (v : Word) (hm : [.mem, .regs, .links, .routers, .units, .rx, .tx, .cmbs, .gws, .doms, .clks, .mer, .flt, .tel, .sec, .boot, .tap, .held, .resp, .bar, .warm, .mirror, .errAt, .freeCtr] ⊆ m) (h : Touches m s0 s) :
    Touches m s0 (ringBy s p u cq r i v) := by
  unfold ringBy
  repeat' first
    | with_reducible assumption
    | (with_reducible refine List.Subset.trans ?_ hm); decide
    | with_reducible apply writeBy_touches
    | with_reducible apply Touches.ite
    | split
    | extract_lets
    | intro _
    | dsimp +zetaDelta only

end Sys2Proof.Machine
end

