-- ==== Sys2Proof/Laws/FrameShaper.lean ====
section
/-! SUPPORT. What each operation of Sys2Proof/Machine/Shaper.lean may change: the parts of the state that it touches. -/

namespace Sys2Proof.Machine

theorem refillQueue_touches {m : List Part} {s0 s : State} (c : Cell) (q : Nat) (hm : [.regs, .units] ⊆ m) (h : Touches m s0 s) :
    Touches m s0 (refillQueue s c q) := by
  unfold refillQueue
  repeat' first
    | with_reducible assumption
    | (with_reducible refine List.Subset.trans ?_ hm); decide
    | with_reducible apply updUnit_touches
    | with_reducible apply cntUp_touches
    | with_reducible apply Touches.ite
    | split
    | extract_lets
    | intro _
    | dsimp +zetaDelta only

theorem shaperRefill_touches {m : List Part} {s0 s : State} (f : Nat) (hm : [.regs, .units, .doms] ⊆ m) (h : Touches m s0 s) :
    Touches m s0 (shaperRefill s f) := by
  unfold shaperRefill
  repeat' first
    | with_reducible assumption
    | (with_reducible refine List.Subset.trans ?_ hm); decide
    | with_reducible apply refillQueue_touches
    | with_reducible apply updDom_touches
    | with_reducible apply Touches.foldl
    | with_reducible apply Touches.ite
    | split
    | extract_lets
    | intro _
    | dsimp +zetaDelta only

end Sys2Proof.Machine
end

