-- ==== Sys2Proof/WellFormed.lean ====
section
/-! DEFINITION. What an operand's type does not say: registers are 32 bits wide and aligned to 4 bytes (R8), a domain
is 0-53 (R421), and each command that names a unit by rule names one of the kind that the rule gives it. -/

namespace Sys2Proof

/-- R8, R421, R427: an address that a path can carry: aligned, in a domain that exists or in all fields (56). -/
def CfgAddr.wf (a : CfgAddr) : Bool := a.off.val % 4 == 0 && (decide (a.domain.val < 54) || decide (a.domain.val = 56))

/-- R65, R271: a link end that exists: a gateway's band side has as many attachment cells as its kind. -/
def EndRef.wf (e : EndRef) : Bool :=
  match e with
  | .gw (.mem _ _) _ => true
  | .gw (.opt _ _) j => decide (j.val < 2)
  | .gw (.host _ _) j => decide (j.val < 1)
  | _ => true

/-- R232: how many submission or completion rings a unit has: NIs and host ports run rings. -/
def UnitRef.rings (u : UnitRef) (cq : Bool) : Nat :=
  match u with
  | .ni _ => if cq then 4 else 16
  | .gw (.host _ _) => 64
  | _ => 0

/-- A unit that runs rings (R232, R277). -/
def UnitRef.ringed (u : UnitRef) : Bool := decide (0 < u.rings true)

/-- Whether a command's operands are such as its rule names. -/
def Instr.wf (i : Instr) : Bool :=
  match i with
  | .registerWrite _ a _ => a.wf
  | .rcFieldRead _ a => a.wf
  | .flitReceive e _ => e.wf
  | .nakTimeout e => e.wf
  | .ackTimeout e => e.wf
  | .flitSend e _ => e.wf
  | .trainFlitReceive e _ => e.wf
  | .packetInject e => e.wf
  | .weltFlitReceive e _ => e.wf
  | .weltFlitSend e => e.wf
  | .sqDoorbell _ u r _ => decide (r.val < u.rings false)
  | .cqDoorbell _ u r _ => decide (r.val < u.rings true)
  | .descriptorFetch u _ => u.ringed
  | .completionWriteFail u r => decide (r.val < u.rings true)
  | .nop u r => decide (r.val < u.rings false)
  | .copy u r => decide (r.val < u.rings false)
  | .signalDescriptor u r => decide (r.val < u.rings false)
  | .waitTime u r => decide (r.val < u.rings false)
  | .waitTimeReached u r => decide (r.val < u.rings false)
  | .ringEnable _ u cq r _ => decide (r.val < u.rings cq)
  | .ringDisable _ u cq r _ => decide (r.val < u.rings cq)
  | .ringAbort _ u r _ => decide (r.val < u.rings false)
  | .wakeConfig _ a _ _ => a.wf
  | .configTimeout _ a _ _ _ _ => a.wf
  | .configNetworkError _ a _ _ _ _ _ => a.wf
  | .broadcastWrite _ _ _ off _ => off.val % 4 == 0
  | .localPortAccess _ _ off _ => off.toNat % 4 == 0
  | .barAccess _ bar2 off _ _ _ _ => off.toNat % 4 == 0 && (bar2 || decide (off.toNat < 65536))
  | _ => true

end Sys2Proof
end

