-- ==== Sys2Proof/Laws/PerInstr.lean ====
section
/-! SUPPORT. What holds of every command as syntax, constructor by constructor. -/

namespace Sys2Proof.Laws.Addressed

/-- The configuration address that a command carries, for the commands that may carry any. -/
def addrOf (i : Instr) : Option CfgAddr :=
  match i with
  | .registerWrite _ a _ => some a
  | .rcFieldRead _ a => some a
  | .wakeConfig _ a _ _ => some a
  | .configTimeout _ a _ _ _ _ => some a
  | .configNetworkError _ a _ _ _ _ _ => some a
  | _ => none

/-- R8, R421: the address that a well-formed command carries is aligned and lies in a domain that exists, or in all fields. -/
def Statement (i : Instr) : Prop :=
  i.wf = true → ∀ a, addrOf i = some a → a.off.val % 4 = 0 ∧ (a.domain.val < 54 ∨ a.domain.val = 56)

/-- An address that passes its check is aligned and in a domain, or in all fields. -/
theorem of_wf {a : CfgAddr} (h : a.wf = true) : a.off.val % 4 = 0 ∧ (a.domain.val < 54 ∨ a.domain.val = 56) := by
  simpa [CfgAddr.wf] using h

theorem registerWrite (p : Path) (a : CfgAddr) (v : Word) : Statement (.registerWrite p a v) :=
  fun h _ e => of_wf (Option.some.inj e ▸ h)
theorem rcFieldRead (p : Path) (a : CfgAddr) : Statement (.rcFieldRead p a) := fun h _ e => of_wf (Option.some.inj e ▸ h)
theorem remapLookup (p : Path) (f : Fin 48) (v : Word) : Statement (.remapLookup p f v) := fun _ _ e => nomatch e
theorem waferIdWrite (p : Path) (v : Word) : Statement (.waferIdWrite p v) := fun _ _ e => nomatch e
theorem flitReceive (e : EndRef) (flips : BitVec 568) : Statement (.flitReceive e flips) := fun _ _ e => nomatch e
theorem nakTimeout (e : EndRef) : Statement (.nakTimeout e) := fun _ _ e => nomatch e
theorem ackTimeout (e : EndRef) : Statement (.ackTimeout e) := fun _ _ e => nomatch e
theorem headerAllocate (c : Cell) (p : Fin 7) (v : Fin 8) : Statement (.headerAllocate c p v) := fun _ _ e => nomatch e
theorem flitSend (e : EndRef) (ecc : Ecc) : Statement (.flitSend e ecc) := fun _ _ e => nomatch e
theorem portRetrain (p : Path) (c : Cell) (port : Fin 7) : Statement (.portRetrain p c port) := fun _ _ e => nomatch e
theorem portPeerDown (c : Cell) (port : Fin 7) : Statement (.portPeerDown c port) := fun _ _ e => nomatch e
theorem trainFlitReceive (e : EndRef) (flips : BitVec 568) : Statement (.trainFlitReceive e flips) := fun _ _ e => nomatch e
theorem packetInject (e : EndRef) : Statement (.packetInject e) := fun _ _ e => nomatch e
theorem write (t : UnitRef) (ecc : Ecc) : Statement (.write t ecc) := fun _ _ e => nomatch e
theorem readReq (t : UnitRef) : Statement (.readReq t) := fun _ _ e => nomatch e
theorem signal (t : UnitRef) (ecc : Ecc) : Statement (.signal t ecc) := fun _ _ e => nomatch e
theorem streamReq (t : UnitRef) (ecc : Ecc) : Statement (.streamReq t ecc) := fun _ _ e => nomatch e
theorem streamRel (t : UnitRef) (ecc : Ecc) : Statement (.streamRel t ecc) := fun _ _ e => nomatch e
theorem ack (t : UnitRef) : Statement (.ack t) := fun _ _ e => nomatch e
theorem readData (t : UnitRef) : Statement (.readData t) := fun _ _ e => nomatch e
theorem streamRsp (t : UnitRef) : Statement (.streamRsp t) := fun _ _ e => nomatch e
theorem responseTimeout (u : UnitRef) (tag : Fin 1024) : Statement (.responseTimeout u tag) := fun _ _ e => nomatch e
theorem quarantineEnd (u : UnitRef) (tag : Fin 1024) : Statement (.quarantineEnd u tag) := fun _ _ e => nomatch e
theorem streamRelSend (c : Cell) (s : Fin 64) : Statement (.streamRelSend c s) := fun _ _ e => nomatch e
theorem routePathWrite (p : Path) (u : UnitRef) (entry : Fin 64) (k : Fin 8) (w2 : Word) : Statement (.routePathWrite p u entry k w2) :=
  fun _ _ e => nomatch e
theorem epochSwitch (p : Path) (u : UnitRef) : Statement (.epochSwitch p u) := fun _ _ e => nomatch e
theorem cellEpochWrite (p : Path) (c : Cell) (v : Word) : Statement (.cellEpochWrite p c v) := fun _ _ e => nomatch e
theorem portEnableWrite (p : Path) (c : Cell) (v : Word) : Statement (.portEnableWrite p c v) := fun _ _ e => nomatch e
theorem portDisableApply (c : Cell) (port : Fin 7) : Statement (.portDisableApply c port) := fun _ _ e => nomatch e
theorem lastFlush (p : Path) (c : Cell) (v : Word) : Statement (.lastFlush p c v) := fun _ _ e => nomatch e
theorem weltFlitReceive (e : EndRef) (flips : BitVec 568) : Statement (.weltFlitReceive e flips) := fun _ _ e => nomatch e
theorem weltFlitSend (e : EndRef) : Statement (.weltFlitSend e) := fun _ _ e => nomatch e
theorem weltSwap (w : WeltDom) : Statement (.weltSwap w) := fun _ _ e => nomatch e
theorem warmArm (p : Path) (w : WeltDom) (v : Word) : Statement (.warmArm p w v) := fun _ _ e => nomatch e
theorem warmCancel (p : Path) (w : WeltDom) (v : Word) : Statement (.warmCancel p w v) := fun _ _ e => nomatch e
theorem circuitOpen (c : Cell) (q : Fin 16) : Statement (.circuitOpen c q) := fun _ _ e => nomatch e
theorem circuitOpenTime (c : Cell) (q : Fin 16) : Statement (.circuitOpenTime c q) := fun _ _ e => nomatch e
theorem circuitClose (c : Cell) (q : Fin 16) : Statement (.circuitClose c q) := fun _ _ e => nomatch e
theorem circuitCloseSend (c : Cell) (lidx : Fin 16) : Statement (.circuitCloseSend c lidx) := fun _ _ e => nomatch e
theorem circuit (t : UnitRef) : Statement (.circuit t) := fun _ _ e => nomatch e
theorem shaperRefill (f : Fin 48) : Statement (.shaperRefill f) := fun _ _ e => nomatch e
theorem meterUpdate (g : GwId) : Statement (.meterUpdate g) := fun _ _ e => nomatch e
theorem cellHwmClear (p : Path) (c : Cell) (port : Fin 7) : Statement (.cellHwmClear p c port) := fun _ _ e => nomatch e
theorem niHwmClr (p : Path) (c : Cell) (v : Word) : Statement (.niHwmClr p c v) := fun _ _ e => nomatch e
theorem cmbEntryLoad (p : Path) (c : Cell) (e : Fin 32) (w0 : Word) : Statement (.cmbEntryLoad p c e w0) := fun _ _ e => nomatch e
theorem coll (c : Cell) (q : Fin 16) : Statement (.coll c q) := fun _ _ e => nomatch e
theorem chunkRead (c : Cell) (e : Fin 32) : Statement (.chunkRead c e) := fun _ _ e => nomatch e
theorem dataChunk (c : Cell) (ecc : Ecc) : Statement (.dataChunk c ecc) := fun _ _ e => nomatch e
theorem creditChunk (c : Cell) : Statement (.creditChunk c) := fun _ _ e => nomatch e
theorem abortChunk (c : Cell) : Statement (.abortChunk c) := fun _ _ e => nomatch e
theorem tokenChunk (c : Cell) : Statement (.tokenChunk c) := fun _ _ e => nomatch e
theorem mapChunk (c : Cell) : Statement (.mapChunk c) := fun _ _ e => nomatch e
theorem chunkCombine (c : Cell) (e : Fin 32) (ecc : Ecc) : Statement (.chunkCombine c e ecc) := fun _ _ e => nomatch e
theorem chunkSend (c : Cell) (e : Fin 32) (edge : Edge) (ecc : Ecc) : Statement (.chunkSend c e edge ecc) :=
  fun _ _ e => nomatch e
theorem progressTimeout (c : Cell) (e : Fin 32) : Statement (.progressTimeout c e) := fun _ _ e => nomatch e
theorem cmbSwAbort (p : Path) (c : Cell) (v : Word) : Statement (.cmbSwAbort p c v) := fun _ _ e => nomatch e
theorem finderTopPass (c : Cell) (e : Fin 32) : Statement (.finderTopPass c e) := fun _ _ e => nomatch e
theorem alltoallvWrites (c : Cell) (e : Fin 32) : Statement (.alltoallvWrites c e) := fun _ _ e => nomatch e
theorem cmbLostWafer (p : Path) (c : Cell) (v : Word) : Statement (.cmbLostWafer p c v) := fun _ _ e => nomatch e
theorem copySparse (c : Cell) (q : Fin 16) : Statement (.copySparse c q) := fun _ _ e => nomatch e
theorem packedHeaderWrite (c : Cell) (q : Fin 16) : Statement (.packedHeaderWrite c q) := fun _ _ e => nomatch e
theorem sqDoorbell (p : Path) (u : UnitRef) (r : Fin 64) (d : Word) : Statement (.sqDoorbell p u r d) := fun _ _ e => nomatch e
theorem cqDoorbell (p : Path) (u : UnitRef) (r : Fin 64) (d : Word) : Statement (.cqDoorbell p u r d) := fun _ _ e => nomatch e
theorem descriptorFetch (u : UnitRef) (ok : Bool) : Statement (.descriptorFetch u ok) := fun _ _ e => nomatch e
theorem completionWriteFail (u : UnitRef) (r : Fin 64) : Statement (.completionWriteFail u r) := fun _ _ e => nomatch e
theorem nop (u : UnitRef) (r : Fin 64) : Statement (.nop u r) := fun _ _ e => nomatch e
theorem copy (u : UnitRef) (r : Fin 64) : Statement (.copy u r) := fun _ _ e => nomatch e
theorem fence (c : Cell) (q : Fin 16) : Statement (.fence c q) := fun _ _ e => nomatch e
theorem signalDescriptor (u : UnitRef) (r : Fin 64) : Statement (.signalDescriptor u r) := fun _ _ e => nomatch e
theorem streamOpen (c : Cell) (q : Fin 16) : Statement (.streamOpen c q) := fun _ _ e => nomatch e
theorem streamRelease (c : Cell) (q : Fin 16) : Statement (.streamRelease c q) := fun _ _ e => nomatch e
theorem waitTime (u : UnitRef) (r : Fin 64) : Statement (.waitTime u r) := fun _ _ e => nomatch e
theorem waitTimeReached (u : UnitRef) (r : Fin 64) : Statement (.waitTimeReached u r) := fun _ _ e => nomatch e
theorem ringEnable (p : Path) (u : UnitRef) (cq : Bool) (r : Fin 64) (v : Word) : Statement (.ringEnable p u cq r v) :=
  fun _ _ e => nomatch e
theorem ringDisable (p : Path) (u : UnitRef) (cq : Bool) (r : Fin 64) (v : Word) : Statement (.ringDisable p u cq r v) :=
  fun _ _ e => nomatch e
theorem ringAbort (p : Path) (u : UnitRef) (r : Fin 64) (v : Word) : Statement (.ringAbort p u r v) := fun _ _ e => nomatch e
theorem localPortAccess (c : Cell) (wr : Bool) (off : BitVec 16) (v : Word) : Statement (.localPortAccess c wr off v) :=
  fun _ _ e => nomatch e
theorem mailboxCommit (p : Path) (h : Fin 8) (m : Fin 16) (tag : Word) : Statement (.mailboxCommit p h m tag) :=
  fun _ _ e => nomatch e
theorem mailboxReceive (p : Path) (h : Fin 8) (m : Fin 16) : Statement (.mailboxReceive p h m) := fun _ _ e => nomatch e
theorem memSizeWrite (p : Path) (m : MemId) (v : Word) : Statement (.memSizeWrite p m v) := fun _ _ e => nomatch e
theorem memWriteCommit (m : MemId) (ok : Bool) (refused : BitVec 16) : Statement (.memWriteCommit m ok refused) :=
  fun _ _ e => nomatch e
theorem memReadDone (m : MemId) (ok : Bool) (refused : BitVec 16) : Statement (.memReadDone m ok refused) :=
  fun _ _ e => nomatch e
theorem hostWriteAccepted (h : Fin 8) : Statement (.hostWriteAccepted h) := fun _ _ e => nomatch e
theorem hostReadDone (h : Fin 8) (how : HostReadEnd) : Statement (.hostReadDone h how) := fun _ _ e => nomatch e
theorem barAccess (h : Fin 8) (bar2 : Bool) (off : BitVec 18) (wr : Bool) (full : Bool) (atomic : Bool) (v : Word) : Statement (.barAccess h bar2 off wr full atomic v) :=
  fun _ _ e => nomatch e
theorem pcieLinkChange (h : Fin 8) (up : Bool) (flit : Bool) (speed : Fin 3) (width : Fin 17) (bme : Bool) (mps : Fin 3) (mrrs : Fin 6) : Statement (.pcieLinkChange h up flit speed width bme mps mrrs) :=
  fun _ _ e => nomatch e
theorem functionLevelReset (h : Fin 8) : Statement (.functionLevelReset h) := fun _ _ e => nomatch e
theorem codewordReceive (o : OptId) (cw : Codeword) : Statement (.codewordReceive o cw) := fun _ _ e => nomatch e
theorem laneTestStart (o : OptId) (anyLock : Bool) : Statement (.laneTestStart o anyLock) := fun _ _ e => nomatch e
theorem laneFault (o : OptId) (lane : Fin 8) (lostLock : Bool) (anyLock : Bool) : Statement (.laneFault o lane lostLock anyLock) :=
  fun _ _ e => nomatch e
theorem optRetrain (p : Path) (o : OptId) (v : Word) : Statement (.optRetrain p o v) := fun _ _ e => nomatch e
theorem optDisable (p : Path) (o : OptId) (v : Word) : Statement (.optDisable p o v) := fun _ _ e => nomatch e
theorem optExpectWrite (p : Path) (o : OptId) (v : Word) : Statement (.optExpectWrite p o v) := fun _ _ e => nomatch e
theorem opticalIngress (o : OptId) : Statement (.opticalIngress o) := fun _ _ e => nomatch e
theorem admissionProbe (o : OptId) : Statement (.admissionProbe o) := fun _ _ e => nomatch e
theorem probeTimeout (o : OptId) : Statement (.probeTimeout o) := fun _ _ e => nomatch e
theorem discoveryTimeout (o : OptId) : Statement (.discoveryTimeout o) := fun _ _ e => nomatch e
theorem holdTimeout (o : OptId) : Statement (.holdTimeout o) := fun _ _ e => nomatch e
theorem niOffwLost (p : Path) (c : Cell) (v : Word) : Statement (.niOffwLost p c v) := fun _ _ e => nomatch e
theorem merAdjWrite (p : Path) (v : Word) : Statement (.merAdjWrite p v) := fun _ _ e => nomatch e
theorem merSet (p : Path) (v : Word) : Statement (.merSet p v) := fun _ _ e => nomatch e
theorem merStep (p : Path) (v : Word) : Statement (.merStep p v) := fun _ _ e => nomatch e
theorem merSnap (p : Path) (v : Word) : Statement (.merSnap p v) := fun _ _ e => nomatch e
theorem holdoverExpire : Statement (.holdoverExpire) := fun _ _ e => nomatch e
theorem mclkLost : Statement (.mclkLost) := fun _ _ e => nomatch e
theorem timestampCapture (src : Fin 3) (tag : Fin 16) : Statement (.timestampCapture src tag) := fun _ _ e => nomatch e
theorem tsqPop (p : Path) (v : Word) : Statement (.tsqPop p v) := fun _ _ e => nomatch e
theorem ppsOutPulse : Statement (.ppsOutPulse) := fun _ _ e => nomatch e
theorem ppsPulseEnd : Statement (.ppsPulseEnd) := fun _ _ e => nomatch e
theorem timePulse : Statement (.timePulse) := fun _ _ e => nomatch e
theorem pulseMissing (k : Fin 53) : Statement (.pulseMissing k) := fun _ _ e => nomatch e
theorem timeExchangeStart (o : OptId) : Statement (.timeExchangeStart o) := fun _ _ e => nomatch e
theorem timeReq (o : OptId) : Statement (.timeReq o) := fun _ _ e => nomatch e
theorem timeRsp (o : OptId) : Statement (.timeRsp o) := fun _ _ e => nomatch e
theorem exchangeTimeout (o : OptId) : Statement (.exchangeTimeout o) := fun _ _ e => nomatch e
theorem optTimeStatRead (p : Path) (o : OptId) : Statement (.optTimeStatRead p o) := fun _ _ e => nomatch e
theorem pllCoast (k : Fin 60) : Statement (.pllCoast k) := fun _ _ e => nomatch e
theorem clkRelock (p : Path) (k : Fin 60) (v : Word) : Statement (.clkRelock p k v) := fun _ _ e => nomatch e
theorem pllRelocked (k : Fin 60) : Statement (.pllRelocked k) := fun _ _ e => nomatch e
theorem powerDown (p : Path) (d : Fin 53) (v : Word) : Statement (.powerDown p d v) := fun _ _ e => nomatch e
theorem powerDeepen (p : Path) (d : Fin 53) (v : Word) : Statement (.powerDeepen p d v) := fun _ _ e => nomatch e
theorem powerUp (p : Path) (d : Fin 53) (v : Word) : Statement (.powerUp p d v) := fun _ _ e => nomatch e
theorem forceOff (p : Path) (d : Fin 53) (v : Word) : Statement (.forceOff p d v) := fun _ _ e => nomatch e
theorem quiesceEnd (d : Fin 53) : Statement (.quiesceEnd d) := fun _ _ e => nomatch e
theorem closeEnd (d : Fin 53) : Statement (.closeEnd d) := fun _ _ e => nomatch e
theorem gateEnd (d : Fin 53) : Statement (.gateEnd d) := fun _ _ e => nomatch e
theorem drainTimeout (d : Fin 53) : Statement (.drainTimeout d) := fun _ _ e => nomatch e
theorem wakePacket (d : Fin 53) : Statement (.wakePacket d) := fun _ _ e => nomatch e
theorem wakeConfig (p : Path) (a : CfgAddr) (wr : Bool) (v : Word) : Statement (.wakeConfig p a wr v) :=
  fun h _ e => of_wf (Option.some.inj e ▸ h)
theorem wakeIn (level : Bool) : Statement (.wakeIn level) := fun _ _ e => nomatch e
theorem wakeTimer : Statement (.wakeTimer) := fun _ _ e => nomatch e
theorem wakeDone (d : Fin 53) : Statement (.wakeDone d) := fun _ _ e => nomatch e
theorem errorPinRise (d : Fin 53) (cell : Fin 2048) (cls : Fin 64) : Statement (.errorPinRise d cell cls) :=
  fun _ _ e => nomatch e
theorem reportAccept (d : Fin 53) : Statement (.reportAccept d) := fun _ _ e => nomatch e
theorem logWrite : Statement (.logWrite) := fun _ _ e => nomatch e
theorem logReadCount (p : Path) (v : Word) : Statement (.logReadCount p v) := fun _ _ e => nomatch e
theorem logSlotRead (p : Path) (slot : Fin 64) : Statement (.logSlotRead p slot) := fun _ _ e => nomatch e
theorem faultInjectGo (p : Path) (v : Word) : Statement (.faultInjectGo p v) := fun _ _ e => nomatch e
theorem faultInjectFire : Statement (.faultInjectFire) := fun _ _ e => nomatch e
theorem snapshotGo (p : Path) (v : Word) : Statement (.snapshotGo p v) := fun _ _ e => nomatch e
theorem snapshotCopy (d : Fin 52) : Statement (.snapshotCopy d) := fun _ _ e => nomatch e
theorem snapshotBusyEnd : Statement (.snapshotBusyEnd) := fun _ _ e => nomatch e
theorem debugRequest (p : Path) (v : Word) (healthy : Bool) : Statement (.debugRequest p v healthy) := fun _ _ e => nomatch e
theorem challengeReady : Statement (.challengeReady) := fun _ _ e => nomatch e
theorem debugVerify (p : Path) (v : Word) : Statement (.debugVerify p v) := fun _ _ e => nomatch e
theorem verifyDone : Statement (.verifyDone) := fun _ _ e => nomatch e
theorem challengeExpire : Statement (.challengeExpire) := fun _ _ e => nomatch e
theorem lockoutEnd : Statement (.lockoutEnd) := fun _ _ e => nomatch e
theorem debugRelock (p : Path) (v : Word) : Statement (.debugRelock p v) := fun _ _ e => nomatch e
theorem hostGrantWrite (p : Path) (h : Fin 8) (v : Word) : Statement (.hostGrantWrite p h v) := fun _ _ e => nomatch e
theorem tapReset : Statement (.tapReset) := fun _ _ e => nomatch e
theorem tapIrUpdate (ir : BitVec 8) : Statement (.tapIrUpdate ir) := fun _ _ e => nomatch e
theorem tapSecAccess (dr : BitVec 40) : Statement (.tapSecAccess dr) := fun _ _ e => nomatch e
theorem tapCfgAccess (dr : BitVec 72) : Statement (.tapCfgAccess dr) := fun _ _ e => nomatch e
theorem powerOn (late : BitVec 53) : Statement (.powerOn late) := fun _ _ e => nomatch e
theorem optGo (p : Path) (v : Word) : Statement (.optGo p v) := fun _ _ e => nomatch e
theorem broadcastWrite (p : Path) (cell : Fin 2048) (block : Fin 32) (off : Fin 65536) (v : Word) : Statement (.broadcastWrite p cell block off v) :=
  fun _ _ e => nomatch e
theorem configTimeout (p : Path) (a : CfgAddr) (wr : Bool) (v : Word) (hit : BitVec 54) (late : Bool) : Statement (.configTimeout p a wr v hit late) :=
  fun h _ e => of_wf (Option.some.inj e ▸ h)
theorem configNetworkError (p : Path) (a : CfgAddr) (wr : Bool) (v : Word) (hit : BitVec 54) (fatal : Bool) (back : Bool) : Statement (.configNetworkError p a wr v hit fatal back) :=
  fun h _ e => of_wf (Option.some.inj e ▸ h)
theorem resetExit (d : Fin 53) : Statement (.resetExit d) := fun _ _ e => nomatch e
theorem pllReferenceReturn (k : Fin 60) : Statement (.pllReferenceReturn k) := fun _ _ e => nomatch e
theorem memStackReady (m : MemId) : Statement (.memStackReady m) := fun _ _ e => nomatch e
theorem clkMeasWindow (k : Fin 60) (cycles : BitVec 24) : Statement (.clkMeasWindow k cycles) := fun _ _ e => nomatch e

end Sys2Proof.Laws.Addressed
end

