-- ==== Sys2Proof/Tests/Slice0.lean ====
section
/-! SUPPORT. Tests: an ill-formed command that each check of `WellFormed` refuses; small tests of single steps, whose expected
results come from the examples and rules of the spec; and, for every statement with hypotheses, a concrete state and operands
that meet all of them together. -/

namespace Sys2Proof.Tests

open Sys2Proof Sys2Proof.Machine

-- One theorem after the other: the kernel evaluates most of them, and all at once they would need too many threads.
set_option Elab.async false

/-- Every domain in RUN, every register at its reset value. -/
def tRun : State :=
  { State.reset with doms := (List.range 53).map (fun d => (d, { Dom.init with st := .run })) }

/-- `tRun` with one domain in another state. -/
def tDom (d : Nat) (st : PwrSt) : State := updDom tRun d (fun x => { x with st := st })

/-- `tRun` with one register written. -/
def tReg (k : Nat) (v : Word) : State := wr tRun k v

/-- The cell (0, 0). -/
def c0 : Cell := ⟨0, 0⟩

/-- The cell (3, 4). -/
def c34 : Cell := ⟨3, 4⟩

/-- A register address of a domain's cell. -/
def at0 (d : Fin 64) (cell : Fin 2048) (block : Fin 32) (off : Fin 65536) : CfgAddr := ⟨d, cell, block, off⟩

/-! ## Well-formedness: what each check refuses -/

theorem test_wf_address : (Instr.registerWrite (.mgmt 0) ⟨0, 0, 0, 2⟩ 0).wf = false ∧ (Instr.registerWrite (.mgmt 0) ⟨54, 0, 0, 0⟩ 0).wf = false ∧
    (Instr.registerWrite (.mgmt 0) ⟨53, 0, 0, 4⟩ 0).wf = true ∧ (Instr.rcFieldRead (.mgmt 0) ⟨63, 0, 0, 0⟩).wf = false ∧
    (Instr.wakeConfig (.mgmt 0) ⟨0, 0, 0, 1⟩ true 0).wf = false ∧ (Instr.configTimeout (.mgmt 0) ⟨0, 0, 0, 3⟩ true 0 53 true).wf = false ∧
    (Instr.configNetworkError (.mgmt 0) ⟨60, 0, 0, 0⟩ true 0 53 true true).wf = false ∧
    (Instr.broadcastWrite (.mgmt 0) 0 0 6 0).wf = false := by decide

theorem test_wf_ends : (Instr.flitReceive (.gw (.opt 0 0) 2) 0).wf = false ∧ (Instr.flitReceive (.gw (.opt 0 0) 1) 0).wf = true ∧
    (Instr.nakTimeout (.gw (.host 0 0) 1)).wf = false ∧ (Instr.ackTimeout (.gw (.opt 3 15) 15)).wf = false ∧
    (Instr.flitSend (.gw (.host 0 1) 1) .ok).wf = false ∧ (Instr.trainFlitReceive (.gw (.opt 0 0) 7) 0).wf = false ∧
    (Instr.packetInject (.gw (.host 2 0) 5)).wf = false ∧ (Instr.weltFlitReceive (.gw (.opt 1 1) 2) 0).wf = false ∧
    (Instr.weltFlitSend (.gw (.host 1 1) 2)).wf = false := by decide

theorem test_wf_rings : (Instr.sqDoorbell (.mgmt 0) (.ni c0) 16 0).wf = false ∧ (Instr.sqDoorbell (.mgmt 0) (.ni c0) 15 0).wf = true ∧
    (Instr.cqDoorbell (.mgmt 0) (.ni c0) 4 0).wf = false ∧ (Instr.cqDoorbell (.mgmt 0) (.gw (.host 0 0)) 63 0).wf = true ∧
    (Instr.descriptorFetch (.gw (.mem 0 0)) true).wf = false ∧ (Instr.completionWriteFail (.ni c0) 4).wf = false ∧
    (Instr.nop (.gw (.opt 0 0)) 0).wf = false ∧ (Instr.copy (.ni c0) 16).wf = false ∧
    (Instr.signalDescriptor (.ni c0) 17).wf = false ∧ (Instr.waitTime (.ni c0) 16).wf = false ∧
    (Instr.waitTimeReached (.gw (.mem 1 1)) 0).wf = false ∧ (Instr.ringEnable (.mgmt 0) (.ni c0) true 4 0).wf = false ∧
    (Instr.ringDisable (.mgmt 0) (.ni c0) false 16 0).wf = false ∧ (Instr.ringAbort (.mgmt 0) (.ni c0) 63 0).wf = false := by decide

theorem test_wf_windows : (Instr.localPortAccess c0 true 3 0).wf = false ∧ (Instr.localPortAccess c0 true 0xFFFC 0).wf = true ∧
    (Instr.barAccess 0 false 2 true true false 0).wf = false ∧ (Instr.barAccess 0 false 65536 true true false 0).wf = false ∧
    (Instr.barAccess 0 true 65536 true true false 0).wf = true := by decide

/-! ## Witnesses: the queue, time and the forms -/

theorem witness_step : ({ State.reset with pending := [.powerOn 0, .tapReset] } : State).pending = .powerOn 0 :: [.tapReset] := rfl

theorem witness_idle : State.reset.pending = [] := rfl

theorem witness_memoryForm : Memory.wf ({ tRun with mem := [⟨5, 1⟩, ⟨9, 7⟩], pending := [.tapReset] } : State).mem = true ∧
    ∃ t, step { tRun with mem := [⟨5, 1⟩, ⟨9, 7⟩], pending := [.tapReset] } = .next t := ⟨by decide, _, rfl⟩

/-- The highest level of a SECURED wafer, and one command run from it. -/
theorem witness_debugBound :
    SecOk { tRun with sec := { Sec.init with level := 2, pend := 2 }, fuses := { Fuses.init with life := 1 }, pending := [.tapReset] } ∧
    ∃ t, step { tRun with sec := { Sec.init with level := 2, pend := 2 }, pending := [.tapReset] } = .next t :=
  ⟨⟨by decide +kernel, by decide +kernel⟩, _, rfl⟩

theorem witness_onlyVerifyDone : Instr.tapReset ≠ .verifyDone ∧ ∃ t, exec .tapReset tRun = .next t := ⟨by decide, _, rfl⟩

theorem witness_leaveQueue : ∃ t, exec .tapReset tRun = .next t := ⟨_, rfl⟩

theorem witness_leaveMemory : ∃ t, exec .logWrite tRun = .next t := ⟨_, rfl⟩

/-! ## Witnesses: registers -/

theorem exists_some {α : Type} {o : Option α} (h : o.isSome = true) : ∃ x, o = some x := Option.isSome_iff_exists.mp h

/-- R12's clauses at the ends of the router block, at CELL_PORT_ENA's neighbour, at an NI setting, a field's fence mask, a window of
a host port, a configuration register and a PLL's; the registers beside them start operations. -/
theorem witness_registerWriteBits :
    (∀ a, a ∈ [at0 (Fin.ofNat 64 c34.field) (Fin.ofNat 2048 c34.num) 0 4, at0 (Fin.ofNat 64 c34.field) (Fin.ofNat 2048 c34.num) 0 0x8FC,
        at0 0 0 1 0, at0 0 0 3 0x304, at0 0 0 4 0, at0 47 2047 2 8, at0 48 (Fin.ofNat 2048 (GwId.num (.host 0 0))) 1 0x810, at0 52 0 0 0x28, at0 53 0 1 0x100] →
      (rowOf a.key).isSome = true ∧ absentPort a.key = false ∧ startsNothing a.key = true ∧ targetVerdict tRun a.key = .serve) ∧
    (dom tRun 52).st = .run ∧ tRun.held = [] ∧
    (∀ a, a ∈ [at0 0 0 1 4, at0 0 0 3 0x300, at0 0 0 4 0x1000, at0 47 2047 2 12, at0 48 (Fin.ofNat 2048 (GwId.num (.host 0 0))) 1 0x1008, at0 52 0 0 0x10, at0 53 0 0 0x100] →
      startsNothing a.key = false) := by decide +kernel

/-- At CELL_DISC, whose bits are RC. -/
theorem witness_rcFieldReadBits : (at0 0 0 0 8).domain.val < 48 ∧ (∃ row, rowOf (at0 0 0 0 8).key = some row) ∧
    absentPort (at0 0 0 0 8).key = false ∧ MgmtServes (tReg (at0 0 0 0 8).key 0xFF) (at0 0 0 0 8).key ∧
    (∀ c i j, j < 8 → (at0 0 0 0 8).key = cellReg c 3 (0x5000 + 0x20 * i + 4 * j) → (lastOf tRun c i).bad = 0) :=
  ⟨by decide, exists_some (by decide +kernel), by decide +kernel, by unfold MgmtServes; decide +kernel, fun _ _ _ _ _ => rfl⟩

/-- The last word of NI_LAST_TABLE, in an entry with disturbed bits. -/
def tBadLast (n : Nat) : State :=
  updUnit tRun (.ni c0) (fun x => { x with last := [(511, { LastEnt.init with valid := true, bad := n })] })

theorem witness_lastTableRead : (at0 0 0 3 0x8FFC).key = cellReg c0 3 (0x5000 + 0x20 * 511 + 4 * 7) ∧ (511 : Nat) < 512 ∧
    (∃ row, rowOf (at0 0 0 3 0x8FFC).key = some row) ∧ absentPort (at0 0 0 3 0x8FFC).key = false ∧
    (∀ n, n = 1 ∨ n = 2 → MgmtServes (tBadLast n) (at0 0 0 3 0x8FFC).key ∧ (lastOf (tBadLast n) c0 511).bad = n) :=
  ⟨by decide +kernel, by decide, exists_some (by decide +kernel), by decide +kernel,
    by rintro n (rfl | rfl) <;> (unfold MgmtServes; decide +kernel)⟩

/-- The state of the two lookup tests: the fences of R26's example, in field 13. -/
def tLookup : State :=
  { tRun with
    boot := { tRun.boot with fused := true }
    fuses := { Fuses.init with cols := [(13, 2 ^ 20 + 2 ^ 33)], rows := [(13, 2 ^ 12 + 2 ^ 15)] } }

theorem witness_remapLookup : (dom tLookup 52).st = .run ∧ tLookup.held = [] ∧ tLookup.boot.fused = true := by decide +kernel

/-- No link is up after reset; one that is; LOCAL. -/
theorem witness_waferIdWrite :
    ((dom tRun 52).st = .run ∧ tRun.held = [] ∧ bit (7 : Word) 30 = false ∧ bits (7 : Word) 0 20 ≠ waferLocal ∧
      ∀ n, n < 64 → optUpNow tRun (optOf n) = false) ∧
    (∃ n, n < 64 ∧ optUpNow (updLink (updOpt tRun (optOf 63) (fun x => { x with st := .up })) (.optical (optOf 63))
      (fun x => { x with st := .up })) (optOf n) = true) :=
  ⟨⟨by decide +kernel, rfl, by decide, by decide, by decide +kernel⟩, 63, by decide, by decide +kernel⟩

theorem witness_cellSettings :
    MgmtServes tRun (cellReg c34 1 0) ∧ MgmtServes tRun (cellReg c34 1 4) ∧ MgmtServes tRun (portReg c34 0 0) ∧
    effSt tRun (.router c34 0) = some .train ∧ PortSt.train ≠ .down :=
  ⟨by unfold MgmtServes; decide +kernel, by unfold MgmtServes; decide +kernel, by unfold MgmtServes; decide +kernel,
    by decide +kernel, by decide⟩

theorem witness_marks : MgmtServes tRun (cellReg c0 0 0x410) ∧ MgmtServes tRun (cellReg c0 0 (0x410 + 24)) ∧
    MgmtServes tRun (cellReg c0 3 0xB014) :=
  ⟨by unfold MgmtServes; decide +kernel, by unfold MgmtServes; decide +kernel, by unfold MgmtServes; decide +kernel⟩

/-- The first path of the first entry of a cell, the last of the last entry of a gateway. -/
theorem witness_routePath :
    (∃ row, rowOf (unitReg (.ni c34) 0x1008 0 0x1008) = some row) ∧ MgmtServes tRun (unitReg (.ni c34) 0x1008 0 0x1008) ∧
    (∃ row, rowOf (unitReg (.gw (.host 3 1)) 0x2FF8 0 0x2FF8) = some row) ∧
      MgmtServes tRun (unitReg (.gw (.host 3 1)) 0x2FF8 0 0x2FF8) :=
  ⟨exists_some (by decide +kernel), by unfold MgmtServes; decide +kernel, exists_some (by decide +kernel),
    by unfold MgmtServes; decide +kernel⟩

/-- An outstanding entry of an earlier epoch, not yet answered. -/
def tOld : OutEnt := ⟨false, 0, 0, none, 0, 16, 0, none, false, none, 3, none, 0⟩

/-- With nothing outstanding, and with an entry of an earlier epoch. -/
theorem witness_epochSwitch :
    (MgmtServes tRun (unitReg (.ni c0) 0x804 0 4) ∧ oldOut tRun (.ni c0) = 0 ∧ FMap.rising tRun.regs = true) ∧
    (MgmtServes (updUnit tRun (.ni c0) (fun x => { x with out := [(0, tOld)] })) (unitReg (.ni c0) 0x804 0 4) ∧
      oldOut (updUnit tRun (.ni c0) (fun x => { x with out := [(0, tOld)] })) (.ni c0) ≠ 0) :=
  ⟨⟨by unfold MgmtServes; decide +kernel, by decide +kernel, by decide⟩, by unfold MgmtServes; decide +kernel, by decide +kernel⟩

/-- Two Last entries, one of which the filter may name, and one with two bits disturbed. -/
theorem witness_lastFlush :
    MgmtServes (updUnit tRun (.ni c0) (fun x => { x with
      last := [(0, { LastEnt.init with valid := true, x := 1 }), (511, { LastEnt.init with valid := true, bad := 2 })] })) (cellReg c0 3 0x820) ∧
    FMap.rising (punit (updUnit tRun (.ni c0) (fun x => { x with
      last := [(0, { LastEnt.init with valid := true, x := 1 }), (511, { LastEnt.init with valid := true, bad := 2 })] })) (.ni c0)).last = true :=
  ⟨by unfold MgmtServes; decide +kernel, by decide +kernel⟩

theorem witness_warm : MgmtServes tRun (warmBase (.field 47) + 12) ∧ MgmtServes tRun (warmBase (.gw ⟨3, 15⟩) + 12) ∧
    bit (1 : Word) 1 = false :=
  ⟨by unfold MgmtServes; decide +kernel, by unfold MgmtServes; decide +kernel, by decide⟩

/-- A unit's submission ring r that runs with indices as given, with 2^4 entries. -/
def tSq (u : UnitRef) (r : Nat) (pi ci : Word) : State :=
  updUnit (tReg (sqReg u r 2) 0x10004) u (fun x => { x with sq := [(r, ⟨.running, pi, ci⟩)] })

/-- A unit's completion ring r that runs with indices as given, with 2^4 entries. -/
def tCq (u : UnitRef) (r : Nat) (cpi cci : Word) : State :=
  updUnit (tReg (cqReg u r 2) 0x10004) u (fun x => { x with cq := [(r, ⟨.running, cpi, cci⟩)] })

/-- R234's bounds: PI itself and CI + 2^4 are in, the values beside them are not. -/
theorem witness_submissionDoorbell : (63 : Nat) < sqCount (.gw (.host 0 0)) ∧ (15 : Nat) < sqCount (.ni c0) ∧
    MgmtServes (tSq (.ni c0) 15 7 5) (sqReg (.ni c0) 15 3) ∧ MgmtServes tRun (sqReg (.gw (.host 0 0)) 63 3) ∧
    (sqOf (tSq (.ni c0) 15 7 5) (.ni c0) 15).st = .running ∧
    (∀ d : Word, d = 7 ∨ d = 21 → (((7 : Word) - 5).toNat ≤ (d - 5).toNat) ∧ (d - 5).toNat ≤
      2 ^ rdF (tSq (.ni c0) 15 7 5) (sqReg (.ni c0) 15 2) 0 5) ∧
    (∀ d : Word, d = 6 ∨ d = 22 → ¬ ((((7 : Word) - 5).toNat ≤ (d - 5).toNat) ∧ (d - 5).toNat ≤
      2 ^ rdF (tSq (.ni c0) 15 7 5) (sqReg (.ni c0) 15 2) 0 5)) :=
  ⟨by decide, by decide, by unfold MgmtServes; decide +kernel, by unfold MgmtServes; decide +kernel, by decide +kernel,
    by rintro d (rfl | rfl) <;> decide +kernel, by rintro d (rfl | rfl) <;> decide +kernel⟩

/-- R237's bounds: CPI is in, the value beyond is not. -/
theorem witness_completionDoorbell : (3 : Nat) < cqCount (.ni c0) ∧ MgmtServes (tCq (.ni c0) 3 9 4) (cqReg (.ni c0) 3 3) ∧
    ((9 : Word) - 4).toNat ≤ ((cqOf (tCq (.ni c0) 3 9 4) (.ni c0) 3).cpi - (cqOf (tCq (.ni c0) 3 9 4) (.ni c0) 3).cci).toNat ∧
    ¬ ((10 : Word) - 4).toNat ≤ ((cqOf (tCq (.ni c0) 3 9 4) (.ni c0) 3).cpi - (cqOf (tCq (.ni c0) 3 9 4) (.ni c0) 3).cci).toNat :=
  ⟨by decide, by unfold MgmtServes; decide +kernel, by decide +kernel, by decide +kernel⟩

/-- R261: a submission ring that names a completion ring which runs passes; one that names a stopped one does not. -/
theorem witness_ringEnable :
    MgmtServes (tCq (.ni c0) 1 0 0) (sqReg (.ni c0) 0 2) ∧ (sqOf (tCq (.ni c0) 1 0 0) (.ni c0) 0).st = .stopped ∧
    sqEnableOk (wrMask (tCq (.ni c0) 1 0 0) (sqReg (.ni c0) 0 2) 0x3F1F ((0x104 : Word) ||| 0x10000)) (.ni c0) 0 = true ∧
    sqEnableOk (wrMask (tCq (.ni c0) 1 0 0) (sqReg (.ni c0) 0 2) 0x3F1F ((0x204 : Word) ||| 0x10000)) (.ni c0) 0 = false ∧
    MgmtServes tRun (cqReg (.ni c0) 2 2) ∧ (cqOf tRun (.ni c0) 2).st = .stopped ∧
    cqEnableOk (wrMask tRun (cqReg (.ni c0) 2 2) 0x1F ((4 : Word) ||| 0x10000)) (.ni c0) 2 = true :=
  ⟨by unfold MgmtServes; decide +kernel, by decide +kernel, by decide +kernel, by decide +kernel,
    by unfold MgmtServes; decide +kernel, by decide +kernel, by decide +kernel⟩

theorem witness_ringDisable :
    MgmtServes (tSq (.ni c0) 15 7 5) (sqReg (.ni c0) 15 2) ∧ (sqOf (tSq (.ni c0) 15 7 5) (.ni c0) 15).st ≠ .stopped ∧
    MgmtServes (tCq (.ni c0) 0 0 0) (cqReg (.ni c0) 0 2) ∧ (cqOf (tCq (.ni c0) 0 0 0) (.ni c0) 0).st ≠ .stopped ∧
    cqNamed (tCq (.ni c0) 0 0 0) (.ni c0) 0 = false ∧
    cqNamed (wr (tCq (.ni c0) 0 0 0) (sqReg (.ni c0) 2 2) 0x10004) (.ni c0) 0 = true :=
  ⟨by unfold MgmtServes; decide +kernel, by decide +kernel, by unfold MgmtServes; decide +kernel, by decide +kernel,
    by decide +kernel, by decide +kernel⟩

/-- A descriptor context of ring 0 and completion ring 0, with a descriptor. -/
def tCtx (d : BitVec 512) : Ctx :=
  { ring := 0, cq := 0, desc := d, st := .fetched, todo := [], out := 0, issued := false, err := none, result := 0,
    late := false, unsync := false, aux := 0 }

/-- A unit whose completion ring 0 runs and whose only context, number 5, is the given one. -/
def tOne (u : UnitRef) (x : Ctx) : State :=
  updUnit (tCq u 0 0 0) u (fun y => { y with sq := [(0, ⟨.running, 1, 0⟩)], ctxs := [(5, x)] })

theorem witness_ringAbort : MgmtServes (tOne (.ni c0) { tCtx 7 with st := .waiting }) (sqReg (.ni c0) 0 2) ∧
    (sqOf (tOne (.ni c0) { tCtx 7 with st := .waiting }) (.ni c0) 0).st ≠ .stopped ∧
    (punit (tOne (.ni c0) { tCtx 7 with st := .waiting }) (.ni c0)).ctxs = [(5, { tCtx 7 with st := .waiting })] ∧
    dOp (tCtx 7).desc = 7 ∧ inFlight (tOne (.ni c0) { tCtx 7 with st := .waiting }) (.ni c0) 5 = false ∧
    (∀ y, y ∈ (punit (tOne (.ni c0) { tCtx 7 with st := .waiting }) (.ni c0)).streams → y.2.relPend ≠ some 5) ∧
    (cqOf (tOne (.ni c0) { tCtx 7 with st := .waiting }) (.ni c0) 0).st = .running ∧
    sqOwing (tOne (.ni c0) { tCtx 7 with st := .waiting }) (.ni c0) 0 = 0 :=
  ⟨by unfold MgmtServes; decide +kernel, by decide +kernel, by decide +kernel, by decide +kernel, by decide +kernel,
    by decide +kernel, by decide +kernel, by decide +kernel⟩

theorem witness_mailbox : MgmtServes tRun (gwReg (hostGw 7) 1 (0x2008 + 0x20 * 15)) ∧
    MgmtServes tRun (gwReg (hostGw 0) 1 0x200C) :=
  ⟨by unfold MgmtServes; decide +kernel, by unfold MgmtServes; decide +kernel⟩

/-! ## Witnesses: combine entries, windows, links, time and power -/

theorem witness_combineEntry :
    (∃ row, rowOf (cellReg c34 4 (0x1000 + 0x80 * 31)) = some row) ∧ MgmtServes tRun (cellReg c34 4 (0x1000 + 0x80 * 31)) :=
  ⟨exists_some (by decide +kernel), by unfold MgmtServes; decide +kernel⟩

/-- The last word of the last entry, in a cell that runs nothing; and a first word with VALID = 0. -/
theorem witness_combineWords :
    (at0 (Fin.ofNat 64 c34.field) (Fin.ofNat 2048 c34.num) 4 0x1FEC).key = cellReg c34 4 (0x1000 + 0x80 * 31 + 4 * 27) ∧
    (rowOf (cellReg c34 4 (0x1000 + 0x80 * 31 + 4 * 27))).isSome = true ∧ crun tRun c34 31 = none ∧ bit (0 : Word) 0 = false ∧
    targetVerdict tRun (cellReg c34 4 (0x1000 + 0x80 * 31 + 4 * 27)) = .serve := by decide +kernel

/-- Two outstanding entries, of which one was sent under off-wafer entry 3, which names every other wafer, and a stream to
another wafer. -/
def tOffw : State :=
  updUnit (tReg (cellReg c0 3 0xD11C) 0x80000000) (.ni c0) (fun x => { x with
    out := [(0, { tOld with epoch := 0, offw := some 3 }), (1023, { tOld with epoch := 0 })]
    streams := [(63, ⟨true, false, false, none, 7 * 65536, 0, 0, 0, 0, 0, 0⟩)] })

theorem witness_offWaferLoss : MgmtServes tOffw (cellReg c0 3 0xD200) ∧ (cmb tOffw c0).ents = [] ∧
    FMap.rising (punit tOffw (.ni c0)).out = true ∧ FMap.rising (punit tOffw (.ni c0)).streams = true ∧
    (∃ tag e, (punit tOffw (.ni c0)).out.find tag = some e ∧ e.quar = false ∧
      (e.offw.any (fun i => (bits (8 : Word) 0 16).testBit i)) = true) ∧
    (∃ y, (punit tOffw (.ni c0)).streams.find 63 = some y ∧ y.live = true ∧ isLocal tOffw c0.field (y.dest / 65536) = false ∧
      ∃ k, wmapFind tOffw (.ni c0) (y.dest / 65536) = some k ∧ (bits (8 : Word) 0 16).testBit k = true) :=
  ⟨by unfold MgmtServes; decide +kernel, by decide +kernel, by decide +kernel, by decide +kernel,
    ⟨0, _, rfl, by decide, by decide⟩, ⟨_, rfl, by decide, by decide +kernel, 3, by decide +kernel, by decide⟩⟩

theorem witness_hostGrant : MgmtServes tRun (secReg (0x80 + 4 * 7)) ∧
    MgmtServes { tRun with sec := { Sec.init with level := 2 } } (secReg 0x80) :=
  ⟨by unfold MgmtServes; decide +kernel, by unfold MgmtServes; decide +kernel⟩

theorem witness_memorySize : MgmtServes tRun (gwReg (MemId.mk 3 11).gw 1 0) := by unfold MgmtServes; decide +kernel

/-- The last offset of the block, where no register is; one of a U register and one of another; a doorbell at R234's two bounds. -/
theorem witness_localPort : (dom tRun c34.field).st = .run ∧ tRun.held = [] ∧ rowOf (cellReg c34 3 0xFFFC) = none ∧
    uReg (cellReg c34 3 8) = true ∧ (rowOf (sqReg (.ni c34) 15 2)).isSome = true ∧ uReg (sqReg (.ni c34) 15 2) = false ∧
    sqReg (.ni c34) 15 2 = cellReg c34 3 0x1E4 ∧ (dom (tSq (.ni c34) 15 7 5) c34.field).st = .run ∧
    (sqOf (tSq (.ni c34) 15 7 5) (.ni c34) 15).st = .running ∧
    (sqOf (tSq (.ni c34) 15 7 5) (.ni c34) 15).pi.toNat ≤ (7 : Word).toNat ∧
    (sqOf (tSq (.ni c34) 15 7 5) (.ni c34) 15).ci.toNat ≤ (sqOf (tSq (.ni c34) 15 7 5) (.ni c34) 15).pi.toNat ∧
    (21 : Word).toNat ≤ (sqOf (tSq (.ni c34) 15 7 5) (.ni c34) 15).ci.toNat +
      2 ^ rdF (tSq (.ni c34) 15 7 5) (sqReg (.ni c34) 15 2) 0 5 := by decide +kernel

/-- The last offset of BAR0, where no register is; one of a U register, one of another; both grants. -/
theorem witness_bar : (dom tRun 52).st = .run ∧ tRun.held = [] ∧ (65532 : BitVec 18).toNat < 65536 ∧
    (65532 : BitVec 18).toNat % 4 = 0 ∧ rowOf (hostBlock 7 + 65532) = none ∧ uReg (hostBlock 7 + 0x2000) = true ∧
    (rowOf (hostBlock 7)).isSome = true ∧ uReg (hostBlock 7) = false ∧ (dom tRun (hostGw 7).dom).st = .run ∧ effView tRun 7 = 0 ∧
    effView (tReg (secReg (0x80 + 4 * 7)) 1) 7 ≠ 0 ∧ (dom (tReg (secReg (0x80 + 4 * 7)) 1) 52).st = .run := by decide +kernel

/-- The doorbell of the port's last submission ring, at the bounds of R234. -/
theorem witness_barDoorbell :
    hostBlock 7 + (sqReg (.gw (hostGw 7)) 63 3 - hostBlock 7) = sqReg (.gw (hostGw 7)) 63 3 ∧ sqReg (.gw (hostGw 7)) 63 3 - hostBlock 7 < 65536 ∧
    (∀ s, s = tSq (.gw (hostGw 7)) 63 7 5 → (dom s 52).st = .run ∧ s.held = [] ∧ (dom s (hostGw 7).dom).st = .run ∧
      (sqOf s (.gw (hostGw 7)) 63).st = .running ∧ (sqOf s (.gw (hostGw 7)) 63).pi.toNat ≤ (7 : Word).toNat ∧
      (sqOf s (.gw (hostGw 7)) 63).ci.toNat ≤ (sqOf s (.gw (hostGw 7)) 63).pi.toNat ∧
      (21 : Word).toNat ≤ (sqOf s (.gw (hostGw 7)) 63).ci.toNat + 2 ^ rdF s (sqReg (.gw (hostGw 7)) 63 2) 0 5) := by
  refine ⟨by decide +kernel, by decide +kernel, ?_⟩
  rintro s rfl; decide +kernel

/-- A host with a grant, at level FULL, whose window names CELL_EPOCH's block of the cell (0, 0). -/
def tWin (grant : Word) : State :=
  { tReg (secReg (0x80 + 4 * 7)) grant with bar := [(7, (0x20000, 0))], sec := { Sec.init with level := 2 } }

theorem witness_barWindow : winKey2 0x20000 0 = cellReg c0 1 0 ∧ keyDom (cellReg c0 1 0) < 48 ∧ (rowOf (cellReg c0 1 0)).isSome = true ∧
    (∀ n, n = 1 ∨ n = 2 → ∀ s, s = tWin n → (dom s 52).st = .run ∧ s.held = [] ∧ (s.bar.get 7 (0, 0)).1 = 0x20000 ∧
      targetVerdict s (cellReg c0 1 0) = .serve ∧ lastTableRead s (cellReg c0 1 0) = s ∧ (dom s c0.field).st = .run ∧
      effView s 7 = n.toNat ∧ uReach s 7 (cellReg c0 1 0) = false) := by
  refine ⟨by decide +kernel, by decide +kernel, by decide +kernel, ?_⟩
  rintro n (rfl | rfl) s rfl <;> decide +kernel

/-- Link 15 of side 3, and the state in which its optical part is as given. -/
def o0 : OptId := ⟨3, 15⟩
def tOpt (x : Opt) : State := updOpt tRun o0 (fun _ => x)

/-- The links released (R434). -/
def tGo : Boot := { tRun.boot with optGo := true }

theorem witness_opticalRetrain :
    (∀ st, st = OptSt.down ∨ st = .train ∨ st = .laneTest ∨ st = .up →
      MgmtServes (tOpt { Opt.init with st := st }) (optReg o0 0) ∧ (opt (tOpt { Opt.init with st := st }) o0).st ≠ .disabled) ∧
    bit (1 : Word) 1 = false ∧ MgmtServes (tOpt { Opt.init with st := .disabled }) (optReg o0 0) ∧ bit (3 : Word) 1 = true ∧
    (opt (tOpt { Opt.init with st := .disabled }) o0).st = .disabled :=
  ⟨by rintro st (rfl | rfl | rfl | rfl) <;> (unfold MgmtServes; decide +kernel), by decide, by unfold MgmtServes; decide +kernel,
    by decide, by decide +kernel⟩

theorem witness_opticalDisable : MgmtServes tRun (optReg o0 0) ∧ bit (2 : Word) 1 = true ∧ (opt tRun o0).st ≠ .disabled ∧
    MgmtServes { tOpt { Opt.init with st := .disabled } with boot := tGo } (optReg o0 0) ∧ bit (0 : Word) 1 = false ∧ bit (0 : Word) 0 = false ∧
    (opt (tOpt { Opt.init with st := .disabled }) o0).st = .disabled ∧ tRun.boot.optGo = false ∧ tGo.optGo = true :=
  ⟨by unfold MgmtServes; decide +kernel, by decide, by decide +kernel, by unfold MgmtServes; decide +kernel, by decide, by decide,
    by decide +kernel, by decide +kernel⟩

theorem witness_opticalExpect : MgmtServes tRun (optReg o0 0x2C) := by unfold MgmtServes; decide +kernel

theorem witness_timeStatus : MgmtServes tRun (optReg o0 0x74) ∧ (opt tRun o0).result = none ∧
    MgmtServes (tOpt { Opt.init with result := some ⟨5, 7, true, false, false, 9⟩ }) (optReg o0 0x74) ∧
    (opt (tOpt { Opt.init with result := some ⟨5, 7, true, false, false, 9⟩ }) o0).result = some ⟨5, 7, true, false, false, 9⟩ :=
  ⟨by unfold MgmtServes; decide +kernel, by decide +kernel, by unfold MgmtServes; decide +kernel, by decide +kernel⟩

/-- The greatest nanosecond value that SET takes and the least it refuses; a STEP to zero and one below. -/
theorem witness_meridianRegisters : MgmtServes tRun (merReg 8) ∧ MgmtServes tRun (merReg 0) ∧ MgmtServes tRun (merReg 0x50) ∧
    bit (0 : Word) 1 = false ∧ bit (0 : Word) 2 = false ∧ bit (0 : Word) 3 = false ∧
    (rd (tReg (merReg 0x1C) 999999999) (merReg 0x1C)).toNat ≤ 999999999 ∧
    ¬ (rd (tReg (merReg 0x1C) 1000000000) (merReg 0x1C)).toNat ≤ 999999999 ∧
    MgmtServes (tReg (merReg 0x1C) 1000000000) (merReg 0) ∧
    0 ≤ (merAdd tRun.mer.cnt 1 tRun.mer.adj : Int) + (rd tRun (merReg 0xC)).toInt * 2 ^ 40 + ((rdF tRun (merReg 0x10) 0 16 * 2 ^ 24 : Nat) : Int) ∧
    ¬ 0 ≤ (merAdd tRun.mer.cnt 1 tRun.mer.adj : Int) + (rd (tReg (merReg 0xC) 0x80000000) (merReg 0xC)).toInt * 2 ^ 40 +
      ((rdF (tReg (merReg 0xC) 0x80000000) (merReg 0x10) 0 16 * 2 ^ 24 : Nat) : Int) :=
  ⟨by unfold MgmtServes; decide +kernel, by unfold MgmtServes; decide +kernel, by unfold MgmtServes; decide +kernel, by decide,
    by decide, by decide, by decide +kernel, by decide +kernel, by unfold MgmtServes; decide +kernel, by decide +kernel,
    by decide +kernel⟩

/-- A time that a SET of the same cycle has made pending; a capture of this cycle at the head of the queue, one of an earlier. -/
theorem witness_meridianPop :
    ({ tRun with mer := { Mer.init with jump := some 5 } } : State).mer.jump = some 5 ∧ tRun.mer.jump = none ∧ tRun.mer.queue = [] ∧
    (∀ n, n = 0 ∨ n = 1 → ∀ s : State, s = { tRun with mer := { Mer.init with queue := [⟨0, 3, 15, 9, true⟩] }, clks := [(54, { Clk.init with cyc := n })] } →
      MgmtServes s (merReg 0x50) ∧ s.mer.queue = ⟨0, 3, 15, 9, true⟩ :: [] ∧ (decide (0 = (clk s 54).cyc) = decide (n = 0))) := by
  refine ⟨rfl, by decide, by decide, ?_⟩
  rintro n (rfl | rfl) s rfl <;> (unfold MgmtServes; decide +kernel)

/-- A PLL with its reference, and one without. -/
theorem witness_clockRelock : MgmtServes tRun (clkReg 0 4) ∧ hasPll 0 = true ∧ (clk tRun 0).srcOk = true ∧
    (clk { tRun with clks := [(0, { Clk.init with srcOk := false })] } 0).srcOk = false ∧
    MgmtServes { tRun with clks := [(0, { Clk.init with srcOk := false })] } (clkReg 0 4) :=
  ⟨by unfold MgmtServes; decide +kernel, by decide +kernel, by decide +kernel, by decide +kernel, by unfold MgmtServes; decide +kernel⟩

/-- A GO to SLEEP without a reason against it, and one to a state that is not enabled or has a reason against it. -/
theorem witness_powerDown : MgmtServes tRun (pwrReg 3 0) ∧ (dom tRun 3).st = .run ∧ (dom tRun 3).wakeAt ≠ some tRun.aclk ∧
    (dom tRun 52).wakeAt ≠ some tRun.aclk ∧ bits (1 : Word) 0 2 ≠ 0 ∧
    ¬ (bits (1 : Word) 0 2 = 3 ∧ bit (1 : Word) 5 = true) ∧ goReason tRun 3 (targetOf (bits (1 : Word) 0 2)) = 0 ∧
    (dom tRun 52).st = .run ∧ MgmtServes tRun (pwrReg 52 0) ∧ bits (3 : Word) 0 2 ≠ 0 ∧
    goReason tRun 52 (targetOf (bits (3 : Word) 0 2)) ≠ 0 :=
  ⟨by unfold MgmtServes; decide +kernel, by decide +kernel, by decide +kernel, by decide +kernel, by decide, by decide, by decide +kernel, by decide +kernel,
    by unfold MgmtServes; decide +kernel, by decide, by decide +kernel⟩

theorem witness_powerMoves : MgmtServes (tDom 3 .sleep) (pwrReg 3 0) ∧ (dom (tDom 3 .sleep) 3).st = .sleep ∧
    bits (2 : Word) 0 2 = 2 ∧ MgmtServes (tDom 51 .deep) (pwrReg 51 0) ∧ (dom (tDom 51 .deep) 51).st = .deep ∧
    MgmtServes (tDom 0 .off) (pwrReg 0 0) ∧ (dom (tDom 0 .off) 0).st = .off ∧ (dom (tDom 3 .sleep) 3).wakeAt ≠ some (tDom 3 .sleep).aclk ∧
    (dom (tDom 51 .deep) 51).wakeAt ≠ some (tDom 51 .deep).aclk ∧ (dom (tDom 0 .off) 0).wakeAt ≠ some (tDom 0 .off).aclk :=
  ⟨by unfold MgmtServes; decide +kernel, by decide +kernel, by decide, by unfold MgmtServes; decide +kernel, by decide +kernel,
    by unfold MgmtServes; decide +kernel, by decide +kernel, by decide +kernel, by decide +kernel, by decide +kernel⟩

theorem witness_forceOff : MgmtServes tRun (pwrReg 51 0) ∧ (dom tRun 51).st = .run ∧ MgmtServes (tDom 0 .deep) (pwrReg 0 0) ∧
    (dom tRun 52).st = .run ∧ tRun.held = [] ∧ (dom tRun 52).wakeAt ≠ some tRun.aclk ∧
    (dom (tDom 0 .deep) 0).st = .deep ∧ (dom tRun 51).wakeAt ≠ some tRun.aclk ∧ (dom (tDom 0 .deep) 0).wakeAt ≠ some (tDom 0 .deep).aclk :=
  ⟨by unfold MgmtServes; decide +kernel, by decide +kernel, by unfold MgmtServes; decide +kernel, by decide +kernel,
    by decide +kernel, by decide +kernel, by decide +kernel, by decide +kernel, by decide +kernel⟩

theorem witness_configWakes : (dom (tDom 51 .sleep) 52).st = .run ∧ (tDom 51 .sleep).held = [] ∧ (at0 51 0 0 0x20).domain.val < 52 ∧
    (rowOf (gwReg (o0).gw 1 0)).isSome = true ∧ isRemap (gwReg (o0).gw 1 0) = false ∧
    (dom (tDom 51 .sleep) 51).st = .sleep ∧ (at0 51 (Fin.ofNat 2048 (o0).gw.num) 1 0).key = gwReg (o0).gw 1 0 := by decide +kernel

theorem witness_broadcast : (1199 : Fin 2048).val < 1200 ∧ (dom tRun 52).st = .run ∧ tRun.held = [] ∧
    (∀ f, f < 48 → bit (rd tRun (svcReg 0 (if f < 32 then 0x28 else 0x2C))) (f % 32) = true → (dom tRun f).st = .run) := by
  decide +kernel

theorem witness_configNetwork : MgmtServes tRun (at0 0 0 0 4).key ∧ (1 : BitVec 54).getLsbD (at0 0 0 0 4).domain.val = true ∧
    (at0 0 0 0 4).key ≠ svcReg 0 0x18 ∧ (at0 0 0 0 4).key ≠ svcReg 0 0x24 :=
  ⟨by unfold MgmtServes; decide +kernel, by decide, by decide +kernel, by decide +kernel⟩

/-- A read count at the write count, and one beyond. -/
theorem witness_log : MgmtServes tRun (fltReg 0x24) ∧ MgmtServes tRun (fltReg 0x1000) ∧ MgmtServes tRun (fltReg (0x1000 + 0x10 * 63)) ∧
    ((0 : Word) - rd tRun (fltReg 0x24)).toNat ≤ (rd tRun (fltReg 0x20) - rd tRun (fltReg 0x24)).toNat ∧
    ¬ ((1 : Word) - rd tRun (fltReg 0x24)).toNat ≤ (rd tRun (fltReg 0x20) - rd tRun (fltReg 0x24)).toNat :=
  ⟨by unfold MgmtServes; decide +kernel, by unfold MgmtServes; decide +kernel, by unfold MgmtServes; decide +kernel,
    by decide +kernel, by decide +kernel⟩

theorem witness_injectGo : MgmtServes tRun (fltReg 0x34) ∧ bit (0 : Word) 9 = false ∧
    MgmtServes { tRun with sec := { Sec.init with level := 3 } } (fltReg 0x34) ∧ MgmtServes tRun (snapReg 0) ∧
    bit (0 : Word) 2 = false ∧ MgmtServes { tRun with tel := { Tel.init with busy := true } } (snapReg 0) :=
  ⟨by unfold MgmtServes; decide +kernel, by decide, by unfold MgmtServes; decide +kernel, by unfold MgmtServes; decide +kernel,
    by decide, by unfold MgmtServes; decide +kernel⟩

/-- A request that passes every check, and one that fails each: of the level, of the highest level, of the lifecycle with a
password, of the entropy source. -/
theorem witness_debugRequest : MgmtServes tRun (secReg 4) ∧ bit (2 : Word) 5 = false ∧ bit (2 : Word) 7 = false ∧
    bits (2 : Word) 0 2 ≤ topLevel tRun ∧ ¬ bits (2 : Word) 0 2 ≤ tRun.sec.level ∧ tRun.fuses.keyOk = true ∧ bit (2 : Word) 6 = false ∧
    bits (0 : Word) 0 2 ≤ tRun.sec.level ∧ topLevel tRun < bits (3 : Word) 0 2 ∧ bit (0x42 : Word) 6 = true ∧ tRun.fuses.life ≠ 0 :=
  ⟨by unfold MgmtServes; decide +kernel, by decide, by decide, by decide +kernel, by decide +kernel, by decide, by decide,
    by decide +kernel, by decide +kernel, by decide, by decide⟩

theorem witness_debugVerify : MgmtServes { tRun with sec := { Sec.init with chal := true, owner := 0 } } (secReg 4) ∧
    MgmtServes { tRun with sec := { Sec.init with chal := true, owner := 1 } } (secReg 4) ∧
    bit (0x20 : Word) 4 = false ∧ bit (0x20 : Word) 7 = false ∧ bit (0x80 : Word) 4 = false ∧ bit (0x80 : Word) 5 = false :=
  ⟨by unfold MgmtServes; decide +kernel, by unfold MgmtServes; decide +kernel, by decide, by decide, by decide, by decide⟩

theorem witness_optGo : MgmtServes tRun (svcReg 0 0x10) ∧ tRun.boot.optGo = false :=
  ⟨by unfold MgmtServes; decide +kernel, by decide⟩

/-! ## Witnesses: power, clock and time events, faults, telemetry, security -/

/-- A field that drains, in a phase that began at ACLK cycle 100 of `now`. -/
def tDrain (d ph now tgt : Nat) (w : Nat) : State :=
  { updDom tRun d (fun x => { x with st := .draining, phase := ph, since := 100, target := targetOf tgt, wakePend := w }) with aclk := now }

/-- Both conditions of the two phases; the first and the last cycle of GATE, with a wake waiting and without; the limit of a
drain, which is 1 microsecond where DRAIN_TMO is 0. -/
theorem witness_drain : quiesced (tDrain 3 0 100 1 0) 3 = true ∧ drained (tDrain 3 1 100 1 0) 3 = true ∧
    (tDrain 3 1 100 1 0).held = [] ∧ (tDrain 3 2 228 1 0).held = [] ∧ (dom (tDrain 3 2 228 1 0) 3).st = .draining ∧
    (dom (tDrain 3 2 228 1 0) 3).phase = 2 ∧ (dom (tDrain 3 2 228 1 0) 3).since + 128 ≤ (tDrain 3 2 228 1 0).aclk ∧
    (dom (tDrain 3 2 228 1 0) 3).target = .sleep ∧ (dom (tDrain 3 2 228 2 4) 3).target = .deep ∧
    (dom (tDrain 3 2 228 2 4) 3).wakePend ≠ 0 ∧ (dom (tDrain 51 2 228 3 0) 51).target = .off ∧ (dom (tDrain 51 2 228 3 4) 51).wakePend ≠ 0 ∧
    (dom (tDrain 52 1 100 1 0) 52).wakeAt ≠ some (tDrain 52 1 100 1 0).aclk ∧ (dom (tDrain 52 1 100 1 0) 52).phase < 2 ∧
    (dom (tDrain 3 0 10000000 1 0) 3).phase < 2 ∧ (tDrain 3 0 10000000 1 0).held = [] ∧
    (dom (tDrain 3 0 10000000 1 0) 3).drainFrom + 100 * max 1 (rdF (tDrain 3 0 10000000 1 0) (aonReg 0 0) 0 20) <
      (tDrain 3 0 10000000 1 0).aclk := by decide +kernel

/-- The packet of field 1's cell (40, 0) that waits for field 0, which sleeps. -/
def tWaits : State :=
  let h : Copy := ⟨3, 2, none, 0, false, false, false⟩
  setRouter (tDom 0 .sleep) ⟨40, 0⟩
    ((Router.init).setPort 1 { RPort.init with vcs := { VcIn.init with cur := some ⟨[h], 0, 0⟩ } :: RPort.init.vcs.tail })

theorem witness_wakeSources : (dom (tDom 52 .sleep) 52).st = .sleep ∧ tRun.wakePin = false ∧
    bit (rd (tReg (aonReg 0 4) 0x80000000) (aonReg 0 4)) 31 = true ∧ rdF (tReg (aonReg 0 4) 0x80000000) (aonReg 0 4) 0 31 = 0 ∧
    ((dom tWaits 0).st = .sleep ∧ routerWaits tWaits 0 = true) := by decide +kernel

/-- A packet of a memory port of an edge band that waits for the field beside it, and one of an edge cell that waits for the band. -/
def tWaitsUnit : State :=
  let z : TxCur := ⟨⟨0, [], 0, 0, none, none, none, 0, false, none, .later, false⟩, false, []⟩
  { updUnit (tDom (endCell (.gw (.mem 0 0) 0)).field .sleep) (.gw (.mem 0 0)) (fun x => x) with
    tx := [((EndRef.gw (.mem 0 0) 0).key, { TxEnd.init with cur := [some z, none, none, none] })] }

def tWaitsBand : State :=
  let h : Copy := ⟨6, 2, none, 0, false, false, false⟩
  setRouter (tDom 48 .deep) (endCell (.gw (.mem 0 0) 0))
    ((Router.init).setPort 1 { RPort.init with vcs := { VcIn.init with cur := some ⟨[h], 0, 0⟩ } :: RPort.init.vcs.tail })

theorem witness_wakeBand : (dom tWaitsUnit (endCell (.gw (.mem 0 0) 0)).field).st = .sleep ∧
    tWaitsUnit.units.any (fun u => unitWaits tWaitsUnit (unitOfKey u.1) (endCell (.gw (.mem 0 0) 0)).field) = true ∧
    (dom tWaitsBand 48).st = .deep ∧ (48 : Nat) < 52 ∧ routerWaits tWaitsBand 48 = true := by decide +kernel

/-- A wake that is done, and a domain in RESET that bring-up lets into RUN. -/
theorem witness_enterRun : wakeReady { tDom 3 .waking with aclk := 1000000 } 3 = true ∧ ({ tDom 3 .waking with aclk := 1000000 } : State).held = [] ∧
    (dom State.reset 3).st = .reset ∧ (dom State.reset 3).remapBad = false := by decide +kernel

/-- Each step of bring-up; a domain that misses its bound, one whose remap is bad and one that is neither. -/
theorem witness_bringUp : ∀ n, n ≤ 5 → ({ State.reset with boot := { State.reset.boot with step := n } } : State).boot.step = n  := by
  decide

theorem witness_bringUpBad :
    (∃ bad : Nat → Prop, ∀ d, bad d ↔ ((1 : BitVec 53).getLsbD d = true ∨ (dom State.reset d).remapBad = true)) ∧
    (1 : BitVec 53).getLsbD 0 = true ∧
    (dom (updDom State.reset 3 (fun x => { x with remapBad := true })) 3).remapBad = true ∧
    ({ State.reset with boot := { State.reset.boot with step := 4, row := 7 } } : State).boot.row < 8 := by
  refine ⟨⟨_, fun _ => Iff.rfl⟩, ?_⟩
  decide +kernel

theorem witness_pll : (0 : Fin 60).val ≠ 54 ∧ hasPll 0 = true ∧ (clk tRun 0).srcOk = true ∧ (clk tRun 0).coast = false ∧
    (clk tRun 54).srcOk = true ∧ hasPll 54 = true ∧
    (clk { tRun with clks := [(0, { Clk.init with relocking := true, coast := true })] } 0).relocking = true ∧
    (0 : Fin 60).val ≠ 54 ∧ clkRun tRun 54 = true ∧
    (clk { tRun with clks := [(55, { Clk.init with cyc := 100000 })] } 54).measFrom + 100000 ≤
      (clk { tRun with clks := [(55, { Clk.init with cyc := 100000 })] } 55).cyc ∧
    (clk { tRun with clks := [(0, { Clk.init with coast := true })] } 0).coast = true ∧
    (clk { tRun with clks := [(54, { Clk.init with cyc := 1000000 })] } 0).measFrom + 1000000 ≤
      (clk { tRun with clks := [(54, { Clk.init with cyc := 1000000 })] } 54).cyc ∧
    clkRun { tRun with clks := [(54, { Clk.init with cyc := 1000000 })] } 54 = true := by decide +kernel

/-- The state of MCLK's counter at a value. -/
def tMclk (n : Nat) : State := { tRun with clks := [(54, { Clk.init with cyc := n })] }

/-- HOLDOVER's end; an event at the eighth cycle after its last and one at the seventh; a queue that is full. -/
theorem witness_time :
    (rdF (wr (tMclk 1000000) (merReg 0) 0x10001) (merReg 0) 16 16 ≠ 0 ∧ bit (rd (wr (tMclk 1000000) (merReg 0) 0x10001) (merReg 0)) 0 = true ∧
      clkRun (wr (tMclk 1000000) (merReg 0) 0x10001) 54 = true ∧
      (wr (tMclk 1000000) (merReg 0) 0x10001).mer.holdFrom + rdF (wr (tMclk 1000000) (merReg 0) 0x10001) (merReg 0) 16 16 * 1000000 ≤
        (clk (wr (tMclk 1000000) (merReg 0) 0x10001) 54).cyc) ∧
    (clkRun (tMclk 20) 54 = true ∧ (tMclk 20).mer.lastEv.length = 3 ∧ bit (rd (wr (tMclk 20) (merReg 0x40) 7) (merReg 0x40)) 2 = true ∧
      lget [none, none, some 12] 2 none = some 12 ∧ 12 + 8 ≤ (clk (tMclk 20) 54).cyc ∧ (clk (tMclk 20) 54).cyc < 13 + 8 ∧
      bit (rd (tMclk 20) (merReg 0x40)) 0 = false ∧
      (∀ y, y ∈ (List.replicate 16 (⟨19, 0, 0, 0, false⟩ : Capture)) → y.cyc ≠ 20 ∨ y.src ≤ 1)) := by decide +kernel

/-- A pulse due at time 0, one that is in its future, and one missed by a copy. -/
theorem witness_pulses : clkRun tRun 53 = true ∧ clkRun tRun 54 = true ∧ tRun.mer.pulseX * (1000 * 2 ^ 40) ≤ tRun.mer.cnt ∧
    timeRun tRun 0 = true ∧ timeRun (tDom 0 .sleep) 0 = false ∧ ({ tRun with mer := { Mer.init with ppsDue := true } } : State).mer.ppsDue = true ∧
    (timeRun (updDom tRun 52 (fun x => { x with ticks := 2001, mer := { MerCopy.init with pulses := 1 } })) 52 = true ∧
      1 ≤ (dom (updDom tRun 52 (fun x => { x with ticks := 2001, mer := { MerCopy.init with pulses := 1 } })) 52).mer.pulses ∧
      (dom (updDom tRun 52 (fun x => { x with ticks := 2001, mer := { MerCopy.init with pulses := 1 } })) 52).mer.at_ + 2 * perUs 52 <
        (dom (updDom tRun 52 (fun x => { x with ticks := 2001, mer := { MerCopy.init with pulses := 1 } })) 52).ticks) := by decide +kernel

/-- A pulse that arrives at once, and one that flies. -/
theorem witness_pulseFlight : pulseArrives tRun 0 (tRun.mer.cnt % (1000 * 2 ^ 40)) ≤ (dom tRun 0).ticks ∧
    (∀ s : State, s = { tRun with boot := { tRun.boot with fused := true }, fuses := { Fuses.init with fofs := [(0, 40 * 65536)] } } →
      ¬ pulseArrives s 0 (s.mer.cnt % (1000 * 2 ^ 40)) ≤ (dom s 0).ticks ∧ (dom s 0).mer.flight = []) := by
  refine ⟨by decide +kernel, ?_⟩
  rintro s rfl; decide +kernel

/-- Field 3's remap has failed, which its pin of class 0 tells. -/
def tPin : State := updDom tRun 3 (fun x => { x with remapBad := true })

theorem witness_errorPin : (3 : Fin 53).val < 52 ∧ clkRun tPin 57 = true ∧ pinLevel tPin 3 2047 0 = true ∧
    tPin.flt.seen.contains (3, 2047, 0) = false ∧ classPins 3 0 = [0] ∧ classPins 3 18 = [18, niSramPin] ∧ (tPin.flt.pend.get 3 []).length < 16 ∧ pinLevel tRun 3 2047 0 = false ∧
    ¬ (FMap.get [(3, List.replicate 16 (⟨3, 0, 0, false⟩ : Report))] 3 []).length < 16 := by decide +kernel

/-- A report at the head of a queue and one on its way to the log; a log that is full. -/
theorem witness_reports :
    (clkRun { tRun with flt := { Flt.init with pend := [(3, [⟨3, 2047, 0, false⟩])] } } 57 = true ∧
      ({ tRun with flt := { Flt.init with pend := [(3, [⟨3, 2047, 0, false⟩])] } } : State).flt.pend.find 3 = some [⟨3, 2047, 0, false⟩]) ∧
    (clkRun { tReg (fltReg 0x20) 64 with flt := { Flt.init with top := [⟨⟨52, 2047, 52, false⟩, 2, true, true⟩] } } 57 = true ∧
      (rd (tReg (fltReg 0x20) 64) (fltReg 0x20) - rd (tReg (fltReg 0x20) 64) (fltReg 0x24)).toNat = 64) := by decide +kernel

/-- An injection of TYPE 0 in collector 51, armed. -/
theorem witness_injection : tRun.flt.inj = false ∧
    (bits ({ tRun with flt := { Flt.init with inj := true, ctl := 3 } } : State).flt.ctl 0 3 ≠ 0 ∧
      injCount { tRun with flt := { Flt.init with inj := true, ctl := 3 } } 0 3 = Flt.init.mark) ∧
    (({ tRun with flt := { Flt.init with inj := true, tgt := 51 } } : State).flt.inj = true ∧
      clkRun { tRun with flt := { Flt.init with inj := true, tgt := 51 } } 57 = true ∧ bits (0 : Word) 0 3 = 0 ∧
      bits (51 : Word) 0 6 < 52 ∧
      (({ tRun with flt := { Flt.init with inj := true, tgt := 51 } } : State).flt.pend.get 51 []).length < 16) := by decide +kernel

/-- A domain that waits for its time to be valid, and one whose request came after the snapshot's time. -/
theorem witness_snapshot :
    [51, 64 + 3].find? (fun y => y % 64 == 51) = some 51 ∧ [51, 64 + 3].find? (fun y => y % 64 == 3) = some (64 + 3) ∧
    clocked tRun 51 = true ∧ clocked tRun 3 = true ∧ FMap.rising tRun.tel.live = true ∧ (dom tRun 51).mer.valid = false := by
  decide +kernel

theorem witness_challenge : ({ tRun with sec := { Sec.init with locked := true, lockLen := 10 } } : State).sec.locked = true := rfl

/-- A comparison that ends just now. -/
theorem witness_verify :
    ({ tRun with sec := { Sec.init with busy := .verify }, clks := [(56, { Clk.init with cyc := 64 })] } : State).held = [] ∧
    ({ tRun with sec := { Sec.init with busy := .verify } } : State).sec.busy = .verify ∧
    ({ tRun with sec := { Sec.init with busy := .verify } } : State).sec.busyAt + 64 ≤
      (clk { tRun with clks := [(56, { Clk.init with cyc := 64 })] } 56).cyc := by decide +kernel

/-- The state with a TAP instruction and a debug level. -/
def tTap (ir level : Nat) : State := { tRun with tap := { Tap.init with ir := ir }, sec := { Sec.init with level := level } }

theorem witness_testPort :
    ((tTap 0x11 0).tap.ir = 0x11 ∧ (tTap 0x11 0).tap.status < 4 ∧ (tTap 0x11 0).tap.status ≠ 1 ∧ (dom (tTap 0x11 0) 52).st = .run ∧
      (tTap 0x11 0).held = [] ∧ (tTap 0x11 0).sec.level = 0) ∧
    ((tTap 0x11 1).sec.level = 1 ∧ bit (BitVec.ofNat 72 (2 ^ 38)) 38 = true) ∧
    ((tTap 0x10 0).tap.ir = 0x10 ∧ bit (1 : BitVec 40) 6 = false ∧ (rowOf (secReg (4 * bits (1 : BitVec 40) 0 6))).isSome = true) ∧
    (tTap 1 0).tap.ir = 1 ∧ (tTap 3 3).tap.ir = 3 ∧ (tTap 3 3).sec.level = 3 := by decide +kernel

/-- CELL_EPOCH's register of the cell (0, 0), read at OBSERVE and written at FULL. -/
theorem witness_tapServes : ∀ n, n = 1 ∨ n = 2 →
    ∀ dr : BitVec 72, dr = BitVec.ofNat 72 (cellReg c0 1 0 + (if n = 1 then 0 else 2 ^ 38 + 3 * 2 ^ 39)) →
      (tTap 0x11 n).tap.ir = 0x11 ∧ (tTap 0x11 n).tap.status ≠ 1 ∧ (dom (tTap 0x11 n) 52).st = .run ∧ (tTap 0x11 n).held = [] ∧
      cellReg c0 1 0 = bits dr 0 38 ∧ keyDom (cellReg c0 1 0) < 48 ∧ (rowOf (cellReg c0 1 0)).isSome = true ∧
      targetVerdict (tTap 0x11 n) (cellReg c0 1 0) = .serve ∧ bit dr 38 = decide (n = 2) ∧ n = (tTap 0x11 n).sec.level ∧
      lastTableRead (tTap 0x11 n) (cellReg c0 1 0) = tTap 0x11 n := by
  rintro n (rfl | rfl) dr rfl <;> decide +kernel

/-! ## Witnesses: flits -/

/-- An end in UP with a flit on its wires. -/
def tFlit (e : EndRef) (p : Payload) (k : Ctl) : State :=
  updLink tRun e (fun x => { x with st := .up, wire := [⟨flitWires p k, 3⟩] })

/-- A CREDIT flit, a packet flit, a welt flit and a TRAIN flit. -/
def kCredit : Ctl := ⟨2, false, 0, 0, true, 5, 0, false⟩
def kPacket : Ctl := ⟨4, false, 2, 0, false, 0, 0, false⟩
def kWelt : Ctl := ⟨5, true, 0, 0, false, 0, 0, false⟩
def kTrain : Ctl := ⟨1, false, 0, 0, false, 0, 0, false⟩

/-- An expected CREDIT flit at an NI's end. -/
theorem witness_creditFlit : effSt (tFlit (.ni c34) 0 kCredit) (.ni c34) = some .up ∧
    InSequence (tFlit (.ni c34) 0 kCredit) (.ni c34) 0 ⟨flitWires 0 kCredit, 3⟩ (decodeFlit (flitWires 0 kCredit)) kCredit ∧
    kCredit.ty = 2 ∧ kCredit.w = false := by unfold InSequence; decide +kernel

/-- A router whose input (1, VC 2) lacks two data units of the packet that comes. -/
def tBehind : State :=
  setRouter (tFlit (.router c34 1) 7 kPacket) c34
    (Router.init.setPort 1 { RPort.init with vcs := lset RPort.init.vcs 2 { VcIn.init with left := some 2 } })

set_option maxRecDepth 100000 in
theorem witness_packetFlit : effSt tBehind (.router c34 1) = some .up ∧
    InSequence tBehind (.router c34 1) 0 ⟨flitWires 7 kPacket, 3⟩ (decodeFlit (flitWires 7 kPacket)) kPacket ∧
    kPacket.w = false ∧ kPacket.ty = 4 ∧ kPacket.vc < 8 ∧ (rport tBehind c34 1).vcs.length = 8 ∧
    (vcIn tBehind c34 1 2).cur = none ∧ (vcIn tBehind c34 1 2).left = some (0 + 2) := by unfold InSequence; decide +kernel

set_option maxRecDepth 100000 in
/-- A packet flit one of whose payload bits comes inverted, and one that is not expected. -/
theorem witness_badFlit :
    (effSt tBehind (.router c34 1) = some .up ∧
      arriving tBehind (.router c34 1) 1 = some (⟨flitWires 7 kPacket, 3⟩, decodeFlit (flitWires 7 kPacket ^^^ 1)) ∧
      (decodeFlit (flitWires 7 kPacket ^^^ 1)).ctl = some kPacket ∧ isSeq kPacket.ty = true ∧ kPacket.w = false ∧
      (decodeFlit (flitWires 7 kPacket ^^^ 1)).crcErr = true ∧
      ackPos (link tBehind (.router c34 1)) 64 kPacket.ack6 = some 0 ∧ kPacket.nak = false) ∧
    (decodeFlit (flitWires 7 { kPacket with seq6 := 63 })).ctl = some { kPacket with seq6 := 63 } ∧
    63 ≠ (link (tFlit (.router c34 1) 7 { kPacket with seq6 := 63 }) (.router c34 1)).rxExp % 64 := by decide +kernel

theorem witness_notOptical : ∀ o, EndRef.ni c34 ≠ .optical o := by intro o h; cases h

/-- An end in TRAIN with a TRAIN flit on its wires, after `n` good ones. -/
def tTrain (n : Nat) : State :=
  updLink tRun (.ni c34) (fun x => { x with good := n, wire := [⟨flitWires (trainPayload LinkEnd.init) kTrain, 0⟩] })

set_option maxRecDepth 100000 in
/-- The 63rd good TRAIN flit in a row, the 64th, and one in error. -/
theorem witness_trainFlits :
    (∀ n, n = 62 ∨ n = 63 → effSt (tTrain n) (.ni c34) = some .train ∧
      arriving (tTrain n) (.ni c34) 0 = some (⟨flitWires (trainPayload LinkEnd.init) kTrain, 0⟩, decodeFlit (flitWires (trainPayload LinkEnd.init) kTrain))) ∧
    (decodeFlit (flitWires (trainPayload LinkEnd.init) kTrain)).ctl = some kTrain ∧ kTrain.ty = 1 ∧
    ackPos (link (tTrain 62) (.ni c34)) 64 kTrain.ack6 = some 0 ∧
    (decodeFlit (flitWires (trainPayload LinkEnd.init) kTrain)).crcErr = false ∧
    trainFixed (decodeFlit (flitWires (trainPayload LinkEnd.init) kTrain)).payload = true ∧
    (link (tTrain 62) (.ni c34)).good < 63 ∧ (link (tTrain 62) (.ni c34)).ready = false ∧ 63 ≤ (link (tTrain 63) (.ni c34)).good ∧
    bit (decodeFlit (flitWires (trainPayload LinkEnd.init) kTrain)).payload 12 = false ∧ (link (tTrain 63) (.ni c34)).peerReady = false ∧
    (decodeFlit (flitWires (trainPayload LinkEnd.init) kTrain ^^^ 2 ^ 400)).ctl = some kTrain ∧
    (decodeFlit (flitWires (trainPayload LinkEnd.init) kTrain ^^^ 2 ^ 400)).crcErr = true := by
  refine ⟨?_, by decide +kernel⟩
  rintro n (rfl | rfl) <;> decide +kernel

/-- A replay entry of a CREDIT flit. -/
def tRep : Rep := ⟨0, 0, kCredit, none, none, 0⟩

theorem witness_retryTimers :
    ((link (updLink tRun (.ni c34) (fun x => { x with discard := true, nakEnd := some 0 })) (.ni c34)).nakEnd = some 0 ∧
      0 ≤ cyc (updLink tRun (.ni c34) (fun x => { x with discard := true, nakEnd := some 0 })) (EndRef.ni c34).dom ∧
      (link (updLink tRun (.ni c34) (fun x => { x with discard := true, nakEnd := some 0 })) (.ni c34)).discard = true) ∧
    (∀ n, n = 1 ∨ n = 15 →
      (link (updLink tRun (.ni c34) (fun x => { x with st := .up, ackDue := some 0, replay := [tRep], run := n, runFrom := some 0 })) (.ni c34)).ackDue =
        some 0 ∧
      (link (updLink tRun (.ni c34) (fun x => { x with st := .up, ackDue := some 0, replay := [tRep], run := n, runFrom := some 0 })) (.ni c34)).st.live =
        true ∧
      (link (updLink tRun (.ni c34) (fun x => { x with st := .up, ackDue := some 0, replay := [tRep], run := n, runFrom := some 0 })) (.ni c34)).tmoAt ≠
        some 0 ∧
      (link (updLink tRun (.ni c34) (fun x => { x with st := .up, ackDue := some 0, replay := [tRep], run := n, runFrom := some 0 })) (.ni c34)).replay ≠
        [] ∧
      decide (retryMax tRun (.ni c34) < n + 1) = decide (n = 15)) := by
  refine ⟨by decide +kernel, ?_⟩
  rintro n (rfl | rfl) <;> decide +kernel

/-- A far end that is clocked and one that is not; a clear that is pending with nothing resident. -/
theorem witness_portsDown : (EndRef.router c34 0).peer = some (.router (neighbour c34 0) 1) ∧ clocked tRun (EndRef.router (neighbour c34 0) 1).dom = true ∧
    (EndRef.router ⟨39, 0⟩ 3).peer = some (.router ⟨41, 0⟩ 2) ∧ clocked (tDom 1 .sleep) (EndRef.router ⟨41, 0⟩ 2).dom = false ∧
    (router (setRouter tRun c34 { Router.init with clr := 64 }) c34).clr.testBit 6 = true ∧
    drainOld (setRouter tRun c34 { Router.init with clr := 64 }) c34 6 = 0 := by decide +kernel

/-- What an end sends in TRAIN, in REPLAY, and in UP with a credit due. -/
theorem witness_flitSend :
    ((EndRef.ni c34).peer = some (.router c34 4) ∧ (EndRef.router c34 4).key ≠ (EndRef.ni c34).key ∧
      holdsBack tRun (.ni c34) = false ∧ slotOwner tRun (.ni c34) = none ∧ effSt tRun (.ni c34) = some .train) ∧
    (∀ s, s = updLink tRun (.ni c34) (fun x => { x with st := .replay, replay := [tRep], resend := 1 }) →
      holdsBack s (.ni c34) = false ∧ slotOwner s (.ni c34) = none ∧ effSt s (.ni c34) = some .replay ∧ (link s (.ni c34)).st = .replay ∧
      nextReplay (link s (.ni c34)) = some tRep ∧ tRep.welt = none) ∧
    (∀ s, s = updLink tRun (.ni c34) (fun x => { x with st := .up, crDue := [7], replay := List.replicate 31 tRep }) →
      holdsBack s (.ni c34) = false ∧ slotOwner s (.ni c34) = none ∧ effSt s (.ni c34) = some .up ∧ (link s (.ni c34)).resend = 0 ∧
      (link s (.ni c34)).replay.length < 32 ∧ unitGrant s (.ni c34) = none ∧ (link s (.ni c34)).crDue = 7 :: []) := by
  refine ⟨by decide +kernel, ?_, ?_⟩ <;> (rintro s rfl; decide +kernel)

/-- A router's output in UP that grants nothing, with a credit due. -/
theorem witness_routerCredit : ∀ s, s = updLink tRun (.router c34 0) (fun x => { x with st := .up, crDue := [7] }) →
    (EndRef.router c34 0).peer = some (.router (neighbour c34 0) 1) ∧ holdsBack s (.router c34 0) = false ∧
    slotOwner s (.router c34 0) = none ∧ effSt s (.router c34 0) = some .up ∧ (link s (.router c34 0)).replay.length < 32 ∧
    grantOf s c34 (0 : Fin 7).val (nomsFor s c34 (0 : Fin 7).val) = none ∧ (link s (.router c34 0)).crDue = 7 :: [] := by
  rintro s rfl; decide +kernel

/-- A packet flit at input (0, VC 2), whose packet holds VC 2 of output 1, which is UP. -/
def tGrant : State :=
  updLink (setRouter tRun c34 (Router.init.setPort 0
    { RPort.init with vcs := lset RPort.init.vcs 2 { VcIn.init with
        q := [⟨9, false, true, true, 0⟩], cur := some ⟨[⟨1, 2, some 2, 0, true, false, false⟩], 0, 0⟩ } })) (.router c34 1)
    (fun x => { x with st := .up, credits := [0, 0, 1, 0, 0, 0, 0, 0] })

theorem witness_routerGrant : (EndRef.router c34 1).peer = some (.router (neighbour c34 1) 0) ∧
    (EndRef.router (neighbour c34 1) 0).key ≠ (EndRef.router c34 1).key ∧ holdsBack tGrant (.router c34 1) = false ∧
    slotOwner tGrant (.router c34 1) = none ∧ effSt tGrant (.router c34 1) = some .up ∧ (link tGrant (.router c34 1)).resend = 0 ∧
    (link tGrant (.router c34 1)).replay.length < 32 ∧ (link tGrant (.router c34 1)).credits.length = 8 ∧
    (rport tGrant c34 1).holders.length = 8 ∧ (grantOf tGrant c34 1 (nomsFor tGrant c34 1)).map (fun y => y.1) = some ⟨0, 2, 1, 0, 2⟩ ∧
    (vcIn tGrant c34 0 2).q = ⟨9, false, true, true, 0⟩ :: [] ∧
    (vcIn tGrant c34 0 2).cur = some ⟨[⟨1, 2, some 2, 0, true, false, false⟩], 0, 0⟩ := by decide +kernel

/-- A unicast packet at input (0, VC 1) that wants VC 1 of output 2. -/
def tAlloc : State :=
  setRouter tRun c34 (Router.init.setPort 0
    { RPort.init with vcs := lset RPort.init.vcs 1 { VcIn.init with
        q := [⟨0, true, true, true, 0⟩], cur := some ⟨[⟨2, 1, none, 0, false, false, false⟩], 0, 0⟩ } })

theorem witness_allocate : clocked tAlloc c34.field = true ∧
    (vcIn tAlloc c34 0 1).cur = some ⟨[⟨2, 1, none, 0, false, false, false⟩], 0, 0⟩ ∧
    offCopy tAlloc c34 ⟨2, 1, none, 0, false, false, false⟩ = false ∧ claimant tAlloc c34 2 1 = some (0, 1) ∧
    (rport tAlloc c34 2).holders.length = 8 ∧ (rport tAlloc c34 0).vcs.length = 8 := by decide +kernel

/-- A memory port's packet of which one data unit is still to send. -/
def tInject : State :=
  let e := EndRef.gw (.mem 0 0) 0
  let z : TxCur := ⟨⟨0, [], 0, 0, none, none, none, 0, false, none, .later, false⟩, true, [9]⟩
  let s := updLink tRun e (fun x => { x with st := .up, credits := [1, 0, 0, 0, 0, 0, 0, 0] })
  { s with tx := [(e.key, { TxEnd.init with cur := [some z, none, none, none] })] }

theorem witness_inject : QuietSender tInject (.gw (.mem 0 0) 0) ∧ (punit tInject (endUnit (.gw (.mem 0 0) 0))).resp = [] ∧
    (txEnd tInject (.gw (.mem 0 0) 0)).cur =
      [some ⟨⟨0, [], 0, 0, none, none, none, 0, false, none, .later, false⟩, true, [9]⟩, none, none, none] :=
  ⟨⟨Or.inl ⟨_, _, rfl⟩, by decide +kernel, by decide +kernel, by decide +kernel, by decide +kernel, by decide +kernel⟩,
    by decide +kernel, by decide +kernel⟩

/-- A response that waits at a memory port for a cell to its east, to which path 0 leads. -/
def zResp : TxPkt := ⟨put (put 0 200 8 5) 192 8 239, [9], 0, 0, none, none, none, 0, false, none, .later, false⟩

def tResp : State :=
  let g := GwId.mem 0 0
  let s := wr (tReg (gwReg g 0 (0x3000 + 0x80 * 42)) 1) (gwReg g 0 (0x3000 + 0x80 * 42 + 8)) 0x90000000
  updUnit (updLink (updLink s (.router (attCell g 0) 2) (fun x => { x with st := .up })) (.gw g 0)
    (fun x => { x with st := .up, credits := [1, 0, 0, 0, 0, 0, 0, 0] })) (.gw g) (fun x => { x with resp := [zResp] })

/-- Whether the pick of a response's path answers one segment, and the header unit that enters L is no multicast. -/
def tPicks (s : State) (e : EndRef) (z : TxPkt) : Bool :=
  match choosePath s (endUnit e) (endCell e) 0 z.hdr (endCell e).x.val (endCell e).y.val none with
  | .ok r _ _ => decide (r.length = 1) && !hMcast (stampHdr s (endUnit e) (endCell e) (routedHdr s (endUnit e) z.hdr r))
  | _ => false

theorem witness_respond : QuietSender tResp (.gw (.mem 0 0) 0) ∧
    ((EndRef.gw (.mem 0 0) 0).peer.all (fun f => !holdsOut tResp f.dom)) = true ∧
    (0 < gwCount (GwId.mem 0 0).kind ∧ zResp.port = 0) ∧ (punit tResp (.gw (.mem 0 0))).resp = [zResp] ∧
    (txEnd tResp (.gw (.mem 0 0) 0)).cur = [none, none, none, none] ∧ tPicks tResp (.gw (.mem 0 0) 0) zResp = true :=
  ⟨⟨Or.inl ⟨_, _, rfl⟩, by decide +kernel, by decide +kernel, by decide +kernel, by decide +kernel, by decide +kernel⟩, by decide +kernel⟩

/-- A cell of that port. -/
def cN : Cell := attCell (.mem 0 0) 0

/-- The same response at its NI; and a data unit that an NI's end goes on with. -/
def tRespNi : State :=
  let s := wr (tReg (cellReg cN 3 (0x3000 + 0x80 * 42)) 1) (cellReg cN 3 (0x3000 + 0x80 * 42 + 8)) 0x90000000
  updUnit (updLink (updLink s (.router cN 2) (fun x => { x with st := .up })) (.ni cN)
    (fun x => { x with st := .up, credits := [1, 0, 0, 0, 0, 0, 0, 0] })) (.ni cN) (fun x => { x with resp := [zResp] })

def tMoreNi : State :=
  let e := EndRef.ni c34
  let z : TxCur := ⟨⟨0, [], 0, 0, none, none, none, 0, false, none, .later, false⟩, true, [9]⟩
  let s := updLink tRun e (fun x => { x with st := .up, credits := [1, 0, 0, 0, 0, 0, 0, 0] })
  { s with tx := [(e.key, { TxEnd.init with cur := [some z, none, none, none] })] }

theorem witness_niInjects : (QuietSender tRespNi (.ni cN) ∧ tPicks tRespNi (.ni cN) zResp = true ∧
      destCell tRespNi cN.field (hDest zResp.hdr) ≠ waferOf tRespNi cN.field * 65536 + cN.x.val * 256 + cN.y.val) ∧
    QuietSender tMoreNi (.ni c34) ∧
    (unitGrant tMoreNi (.ni c34)).map (fun y => y.1) = some 0 ∧ (txEnd tMoreNi (.ni c34)).cur.length = 4 ∧
    (lget (txEnd tMoreNi (.ni c34)).cur 0 none).map (fun y => y.left) = some [9] :=
  ⟨⟨⟨Or.inr ⟨cN, rfl, by decide +kernel⟩, by decide +kernel, by decide +kernel, by decide +kernel, by decide +kernel, by decide +kernel⟩,
      by decide +kernel, by decide +kernel⟩,
    ⟨Or.inr ⟨c34, rfl, by decide +kernel⟩, by decide +kernel, by decide +kernel, by decide +kernel, by decide +kernel, by decide +kernel⟩,
    by decide +kernel⟩

/-- An input map whose entry 3 names index 2. -/
def tWelt : State := wr (tFlit (.router c34 1) 7 kWelt) (winKey c34 1 3) 5

set_option maxRecDepth 100000 in
theorem witness_weltReceive : effSt tWelt (.router c34 1) = some .up ∧
    InSequence tWelt (.router c34 1) 0 ⟨flitWires 7 kWelt, 3⟩ (decodeFlit (flitWires 7 kWelt)) kWelt ∧ kWelt.w = true ∧
    4 ≤ kWelt.ty ∧ kWelt.ty ≤ 7 ∧ inName (rd tWelt (winKey c34 1 3)) = some 2 ∧
    deadWelt tWelt ((List.range 7).map (fun q => woutKey c34 q 0)) (16 * 1 + 2) = false ∧
    ((rport tWelt c34 1).welt.get 2 []).length < 2 := by unfold InSequence; decide +kernel

/-- An output whose present slot belongs to index 2 of input 1, where a flit waits. -/
def tSlot : State :=
  let s := setRouter tRun c34 (Router.init.setPort 1 { RPort.init with welt := [(2, [⟨7, true, true⟩])] })
  updLink (wr s (woutKey c34 0 (slotOf s c34.field)) 35) (.router c34 0)
    (fun x => { x with st := .up })

theorem witness_weltSend : effSt tSlot (.router c34 0) = some .up ∧ holdsBack tSlot (.router c34 0) = false ∧
    (EndRef.router c34 0).peer = some (.router (neighbour c34 0) 1) ∧
    (EndRef.router (neighbour c34 0) 1).key ≠ (EndRef.router c34 0).key ∧ (link tSlot (.router c34 0)).resend = 0 ∧
    (link tSlot (.router c34 0)).replay.length < 32 ∧ slotOwner tSlot (.router c34 0) = some (16 + 2) ∧
    (rport tSlot c34 ((16 + 2) / 16)).welt.get ((16 + 2) % 16) [] = ⟨7, true, true⟩ :: [] := by decide +kernel

/-- A field whose swap is armed for a time that has come, at its second frame start. -/
def tSwap : State :=
  { updDom (tReg (fieldReg 47 2 12) 0x100) 47 (fun x => { x with ticks := 64, mer := { MerCopy.init with valid := true, vis := 65536000 } }) with
    warm := [(fieldReg 47 2 12, (0, 5))] }

/-- A swap that is due, and domains with none. -/
theorem witness_weltSwap :
    (clocked tSwap (warmDom (.field 47)) = true ∧ swapDue tSwap (.field 47) = true) ∧
    clocked (tDom 0 .sleep) (warmDom (.field 0)) = false ∧ swapDue tRun (.field 0) = false ∧ swapDue tRun (.gw o0) = false ∧
    (opt tRun o0).behind = [] ∧ (∀ c : Cell, c.field = (0 : Fin 48).val → (router tRun c).wait = []) := by
  refine ⟨by decide +kernel, by decide +kernel, by decide +kernel, by decide +kernel, by decide +kernel, fun c _ => rfl⟩

/-- A swap of whose outputs one must wait, and a shadow table of which one entry breaks R120. -/
theorem witness_swapTables : FMap.rising tSwap.regs = true ∧ (cellOf 47 0).field = 47 ∧ (63 : Nat) < 64 ∧
    (∀ s, s = updLink tSwap (.router (cellOf 47 0) 0) (fun x => { x with replay := [{ tRep with welt := some 3 }] }) →
      clocked s 47 = true ∧ swapDue s (.field 47) = true ∧
      mustDefer s (.router (cellOf 47 0) 0) (cellReg (cellOf 47 0) 2 0x1000) 0 0 = true ∧
      mustDefer s (.router (cellOf 47 0) 1) (cellReg (cellOf 47 0) 2 0x1100) 1 0 = false) ∧
    63 ∈ badSlots (tabWords (wr tSwap (cellReg (cellOf 47 0) 2 (0x1000 + 4 * 63)) 15) (cellReg (cellOf 47 0) 2 0x1000)) 0 ∧
    tabWaits tRun o0 4 = false := by
  refine ⟨by decide +kernel, by decide +kernel, by decide, ?_, by decide +kernel, by decide +kernel⟩
  rintro s rfl; decide +kernel

theorem witness_refill :
    (∀ s, s = tReg (cellReg c34 3 (0xB100 + 0x10 * 15)) 0x80001000 →
      clocked s c34.field = true ∧ (dom s c34.field).refills ≤ (dom s c34.field).ticks / 256 ∧ FMap.rising s.regs = true ∧
      s.regs.find (cellReg c34 3 (0xB100 + 0x10 * 15)) = some 0x80001000) ∧
    (hasMeters (.opt 0 0) = true ∧ clocked tRun (GwId.opt 0 0).dom = true ∧ (gw tRun (.opt 0 0)).updates ≤ cyc tRun (gwClkDom (.opt 0 0)) / 256 ∧
      ((gw tRun (.opt 0 0)).meters.get 3 Meter.init).enable = false) ∧
    (∀ s, s = updGw (tReg (meterKey (.opt 0 0) 3 3) 1) (.opt 0 0) (fun x => { x with updates := 1, meters := [(3, ⟨true, 0, 0⟩)] }) →
      bit (rd s (meterKey (.opt 0 0) 3 3)) 0 = true ∧ ((gw s (.opt 0 0)).meters.get 3 Meter.init).enable = true ∧ (gw s (.opt 0 0)).updates ≠ 0) := by
  refine ⟨?_, by decide +kernel, ?_⟩
  · rintro s rfl; decide +kernel
  · rintro s rfl; decide +kernel

/-! ## Witnesses: requests at their targets and answers at their requesters -/

/-- A header unit with fields at bit positions. -/
def tHdr (l : List (Nat × Nat)) : Payload := BitVec.ofNat 512 (l.foldl (fun a x => a + x.2 * 2 ^ x.1) 0)

/-- A packet with a header unit and data units. -/
def tPkt (l : List (Nat × Nat)) (data : List Payload := []) : RxPkt := ⟨tHdr l, data, false, 0, none, 0, none⟩

/-- A state with one packet in a unit's hands. -/
def tIn (s : State) (u : UnitRef) (p : RxPkt) : State := updUnit s u (fun x => { x with inbox := [p] })

theorem taken_of {s : State} {u : UnitRef} {cmd : Nat} {p : RxPkt} (h1 : respRoom s u = true ∧ clocked s u.dom = true)
    (h2 : (takeCmd s u cmd).map (fun x => x.1) = some p) : Taken s u cmd p := by
  obtain ⟨y, h, rfl⟩ := Option.map_eq_some_iff.mp h2
  exact ⟨h1.1, h1.2, y.2, h⟩

/-- A WRITE of 16 inline bytes at an offset. -/
def tWrite (off : Nat) : RxPkt := tPkt [(4, 1), (14, 16), (152, off)]

/-- The last 16 bytes of the SRAM, and 16 that pass its end. -/
theorem witness_write :
    Taken (tIn tRun (.ni c34) (tWrite (Config.sramBytes - 16))) (.ni c34) 0 (tWrite (Config.sramBytes - 16)) ∧
    Taken (tIn tRun (.ni c34) (tWrite (Config.sramBytes - 15))) (.ni c34) 0 (tWrite (Config.sramBytes - 15)) ∧
    (∀ o, o = Config.sramBytes - 16 ∨ o = Config.sramBytes - 15 → malformed (tWrite o).hdr (tWrite o).welt = false ∧
      hCmd (tWrite o).hdr = 0 ∧ hMcast (tWrite o).hdr = false ∧ hStv (tWrite o).hdr = false ∧ hCspec (tWrite o).hdr = 0 ∧
      sramFits (tWrite o).hdr = decide (o = Config.sramBytes - 16)) := by
  refine ⟨taken_of (by decide +kernel) (by decide +kernel), taken_of (by decide +kernel) (by decide +kernel), ?_⟩
  rintro o (rfl | rfl) <;> decide +kernel

/-- A SIGNAL without bytes. -/
def tSignal : RxPkt := tPkt [(0, 4), (4, 1)]

/-- A notice's ring that runs with room, and one that does not run. -/
theorem witness_signal :
    Taken (tIn (tCq (.ni c34) 0 0 0) (.ni c34) tSignal) (.ni c34) 4 tSignal ∧ Taken (tIn tRun (.ni c34) tSignal) (.ni c34) 4 tSignal ∧
    malformed tSignal.hdr tSignal.welt = false ∧ hCmd tSignal.hdr = 4 ∧ hMcast tSignal.hdr = false ∧ hStv tSignal.hdr = false ∧
    hCspec tSignal.hdr = 0 ∧ hInlen tSignal.hdr = 0 ∧ sramFits tSignal.hdr = true ∧
    rdF (tCq (.ni c34) 0 0 0) (cellReg c34 3 0x304) (2 * hSq tSignal.hdr) 2 = 0 ∧ (cqOf (tCq (.ni c34) 0 0 0) (.ni c34) 0).st = .running ∧
    0 < cqFree (tCq (.ni c34) 0 0 0) (.ni c34) 0 ∧ (cqOf tRun (.ni c34) 0).st ≠ .running := by
  refine ⟨taken_of (by decide +kernel) (by decide +kernel), taken_of (by decide +kernel) (by decide +kernel), ?_⟩
  decide +kernel

/-- A SIGNAL of 8 bytes at an offset, whose ring runs. -/
def tSignal8 (off : Nat) : RxPkt := tPkt [(0, 4), (4, 1), (14, 8), (152, off), (384, 7)]

theorem witness_signalBytes : ∀ o, o = Config.sramBytes - 8 ∨ o = Config.sramBytes - 7 →
    Taken (tIn (tCq (.ni c34) 0 0 0) (.ni c34) (tSignal8 o)) (.ni c34) 4 (tSignal8 o) ∧
    malformed (tSignal8 o).hdr (tSignal8 o).welt = false ∧ (carried (tSignal8 o)).length = 8 ∧
    sramFits (tSignal8 o).hdr = decide (o = Config.sramBytes - 8) := by
  rintro o (rfl | rfl) <;> exact ⟨taken_of (by decide +kernel) (by decide +kernel), by decide +kernel⟩

/-- A WRITE of 8 bytes on the stream of entry 0, as packet or fence of generation 0 with a count. -/
def tStreamed (off fence count : Nat) : RxPkt :=
  tPkt [(4, 1), (14, 8), (152, off), (25, fence), (288, count), (313, 1), (384, 7)]

/-- A cell whose Last entry 0 is open with an arrival count and a fence held, whose unit has a packet in hand. -/
def tArrive (p : RxPkt) (n : Nat) (y : Option Held) : State :=
  tIn (updUnit tRun (.ni c34) (fun x => { x with last := [(0, { LastEnt.init with valid := true, cnt := [n, 0], held := y })] })) (.ni c34) p

/-- A fence held for one packet. -/
def tHeld : Held := ⟨0, 1, tStreamed 8 1 1⟩

/-- An unfenced packet; a fence in order, one that is early with none held and with one held; a packet that completes the held one;
a packet of no entry; a packet whose entry cannot be corrected. -/
theorem witness_streamArrivals :
    (∀ p, p ∈ [tStreamed 0 0 0, tStreamed 0 1 1, tSignal8 0] → malformed p.hdr p.welt = false ∧ hMcast p.hdr = false ∧ hCspec p.hdr = 0 ∧
      sramFits p.hdr = true ∧ hFgen p.hdr = 0) ∧
    (∀ p n y, (p = tStreamed 0 0 0 ∧ n = 65535 ∧ y = none) ∨ (p = tStreamed 0 1 1 ∧ n = 1 ∧ y = none) ∨
        (p = tStreamed 0 1 1 ∧ n = 0 ∧ (y = none ∨ y = some tHeld)) ∨ (p = tStreamed 0 0 0 ∧ n = 0 ∧ y = some tHeld) →
      Taken (tArrive p n y) (.ni c34) 0 p ∧ hStv p.hdr = true ∧ lastMatch (lastOf (tArrive p n y) c34 (hStag p.hdr)) p.hdr = true ∧
      eccOf .ok (lastOf (tArrive p n y) c34 (hStag p.hdr)).bad = .ok ∧ lget (lastOf (tArrive p n y) c34 (hStag p.hdr)).cnt 0 0 = n ∧
      (lastOf (tArrive p n y) c34 (hStag p.hdr)).held = y) ∧
    (hFence (tStreamed 0 1 1).hdr = true ∧ hScount (tStreamed 0 1 1).hdr = 1 ∧ hFence (tStreamed 0 0 0).hdr = false ∧
      hFgen (tStreamed 0 0 0).hdr = tHeld.gen ∧ (0 + 1) % 65536 = tHeld.scount ∧ hCmd tHeld.pkt.hdr = 0 ∧ hMcast tHeld.pkt.hdr = false ∧
      hCspec tHeld.pkt.hdr = 0 ∧ sramFits tHeld.pkt.hdr = true ∧
      (punit (tArrive (tStreamed 0 0 0) 0 (some tHeld)) (.ni c34)).resp.length + 2 ≤ 32) ∧
    (∀ p, p = tStreamed 0 0 0 ∨ p = tStreamed 0 1 0 → Taken (tIn tRun (.ni c34) p) (.ni c34) 0 p ∧
      lastMatch (lastOf (tIn tRun (.ni c34) p) c34 (hStag p.hdr)) p.hdr = false) ∧ eccOf .ue LastEnt.init.bad = .ue := by
  refine ⟨by decide +kernel, ?_, by decide +kernel, ?_, by decide +kernel⟩
  · rintro p n y (⟨rfl, rfl, rfl⟩ | ⟨rfl, rfl, rfl⟩ | ⟨rfl, rfl, rfl | rfl⟩ | ⟨rfl, rfl, rfl⟩) <;>
      exact ⟨taken_of (by decide +kernel) (by decide +kernel), by decide +kernel⟩
  · rintro p (rfl | rfl) <;> exact ⟨taken_of (by decide +kernel) (by decide +kernel), by decide +kernel⟩

/-- A READ_REQ of the most bytes, 2,048, at an offset. -/
def tRead (off : Nat) : RxPkt := tPkt [(0, 1), (4, 1), (14, 8), (152, off), (424, 2048)]

theorem witness_read :
    Taken (tIn tRun (.ni c34) (tRead (Config.sramBytes - 2048))) (.ni c34) 1 (tRead (Config.sramBytes - 2048)) ∧
    Taken (tIn tRun (.ni c34) (tRead (Config.sramBytes - 2047))) (.ni c34) 1 (tRead (Config.sramBytes - 2047)) ∧
    (∀ o, o = Config.sramBytes - 2048 ∨ o = Config.sramBytes - 2047 → malformed (tRead o).hdr (tRead o).welt = false ∧
      hCmd (tRead o).hdr = 1 ∧ decide (hOff (tRead o).hdr + hInl (tRead o).hdr 40 12 ≤ Config.sramBytes) = decide (o = Config.sramBytes - 2048)) := by
  refine ⟨taken_of (by decide +kernel) (by decide +kernel), taken_of (by decide +kernel) (by decide +kernel), ?_⟩
  rintro o (rfl | rfl) <;> decide +kernel

/-- A STREAM_REQ and a STREAM_REL; the release names entry 0. -/
def tSreq : RxPkt := tPkt [(0, 5), (4, 1)]
def tSrel : RxPkt := tPkt [(0, 7), (4, 1)]

/-- The state whose Last entries are given. -/
def tLast (l : FMap LastEnt) : State := updUnit tRun (.ni c34) (fun x => { x with last := l })

/-- A free entry, and none; an entry that the release matches, and one that is not open; a word that cannot be corrected. -/
theorem witness_lastEntries :
    (Taken (tIn tRun (.ni c34) tSreq) (.ni c34) 5 tSreq ∧ malformed tSreq.hdr tSreq.welt = false ∧ hCmd tSreq.hdr = 5 ∧
      (∀ x, x ∈ (punit (tIn tRun (.ni c34) tSreq) (.ni c34)).last → x.2.valid = true →
        ¬ (x.2.wafer = hSw tSreq.hdr ∧ x.2.x = hSx tSreq.hdr ∧ x.2.y = hSy tSreq.hdr ∧ x.2.q = hSq tSreq.hdr)) ∧
      (List.range 512).find? (fun j => !(lastOf (tIn tRun (.ni c34) tSreq) c34 j).valid) = some 0) ∧
    (∀ s, s = tIn (tLast ((List.range 512).map (fun j => (j, { LastEnt.init with valid := true, x := 1 })))) (.ni c34) tSreq →
      Taken s (.ni c34) 5 tSreq ∧ (∀ j, j < 512 → (lastOf s c34 j).valid = true) ∧
      (∀ x, x ∈ (punit s (.ni c34)).last → x.2.valid = true →
        ¬ (x.2.wafer = hSw tSreq.hdr ∧ x.2.x = hSx tSreq.hdr ∧ x.2.y = hSy tSreq.hdr ∧ x.2.q = hSq tSreq.hdr))) ∧
    (Taken (tIn (tLast [(0, { LastEnt.init with valid := true })]) (.ni c34) tSrel) (.ni c34) 7 tSrel ∧
      Taken (tIn tRun (.ni c34) tSrel) (.ni c34) 7 tSrel ∧ malformed tSrel.hdr tSrel.welt = false ∧ hCmd tSrel.hdr = 7 ∧
      lastMatch (lastOf (tIn (tLast [(0, { LastEnt.init with valid := true })]) (.ni c34) tSrel) c34 (hStag tSrel.hdr)) tSrel.hdr = true ∧
      lastMatch (lastOf (tIn tRun (.ni c34) tSrel) c34 (hStag tSrel.hdr)) tSrel.hdr = false ∧
      eccOf .ok LastEnt.init.bad ≠ .ue ∧ eccOf .ue LastEnt.init.bad = .ue) := by
  refine ⟨⟨taken_of (by decide +kernel) (by decide +kernel), by decide +kernel⟩, ?_,
    taken_of (by decide +kernel) (by decide +kernel), taken_of (by decide +kernel) (by decide +kernel), by decide +kernel⟩
  rintro s rfl
  exact ⟨taken_of (by decide +kernel) (by decide +kernel), by decide +kernel, by decide +kernel⟩

/-- A notice of an OPEN of receive index 0 and one of a CLOSE of index 15. -/
def tOpen : RxPkt := tPkt [(0, 9), (4, 1), (14, 8)]
def tClose : RxPkt := tPkt [(0, 9), (4, 1), (14, 8), (384, 1 + 4 * 15)]

theorem witness_circuitNotice :
    (Taken (tIn tRun (.ni c34) tOpen) (.ni c34) 9 tOpen ∧ malformed tOpen.hdr tOpen.welt = false ∧ hCmd tOpen.hdr = 9 ∧ hInl tOpen.hdr 0 2 < 2) ∧
    (Taken (tIn tRun (.ni c34) tClose) (.ni c34) 9 tClose ∧ malformed tClose.hdr tClose.welt = false ∧ hCmd tClose.hdr = 9 ∧
      hInl tClose.hdr 0 2 = 1) :=
  ⟨⟨taken_of (by decide +kernel) (by decide +kernel), by decide +kernel⟩, taken_of (by decide +kernel) (by decide +kernel), by decide +kernel⟩

/-- A gateway that holds requests. -/
def tReqs (g : GwId) (l : List MemReq) : State := updGw tRun g (fun x => { x with reqs := l })

/-- A READ_REQ at a memory port whose range was checked, and one that failed; a write and a read that wait. -/
theorem witness_memoryPort :
    Taken (tIn tRun (.gw (.mem 3 11)) { tRead 64 with place := some 64 }) (.gw (MemId.mk 3 11).gw) 1 { tRead 64 with place := some 64 } ∧
    Taken (tIn tRun (.gw (.mem 3 11)) (tRead 64)) (.gw (MemId.mk 3 11).gw) 1 (tRead 64) ∧ malformed (tRead 64).hdr false = false ∧
    (tRead 64).place = none ∧
    (gw (tReqs (.mem 3 11) [⟨tWrite 0, true, 0, 16⟩]) (MemId.mk 3 11).gw).reqs = ⟨tWrite 0, true, 0, 16⟩ :: [] ∧
    hCspec (tWrite 0).hdr = 0 ∧ hMcast (tWrite 0).hdr = false ∧ hInlBytes (tWrite 0).hdr ++ dataBytes (tWrite 0).hdr (tWrite 0).data ≠ [] ∧
    (gw (tReqs (.mem 3 11) [⟨tRead 0, false, 0, 2048⟩]) (MemId.mk 3 11).gw).reqs = ⟨tRead 0, false, 0, 2048⟩ :: [] :=
  ⟨taken_of (by decide +kernel) (by decide +kernel), taken_of (by decide +kernel) (by decide +kernel), by decide +kernel, rfl, rfl,
    by decide +kernel, by decide +kernel, by decide +kernel, rfl⟩

/-- WRITEs and READ_REQs at a memory port and at a host port with Bus Master Enable, with and without a place; and without the enable. -/
theorem witness_portsTake : ∀ g, g = .mem 0 0 ∨ g = .host 0 0 → ∀ b s, s = updGw tRun g (fun x => { x with link := { x.link with bme := b } }) →
    (∀ a, a = none ∨ a = some 64 → ∀ p, p = { tRead 64 with place := a } → Taken (tIn s (.gw g) p) (.gw g) 1 p ∧ p.place = a) ∧
    (∀ a, a = none ∨ a = some 0 → ∀ p, p = { tWrite 0 with place := a } → Taken (tIn s (.gw g) p) (.gw g) 0 p ∧ p.place = a) ∧
    malformed (tRead 64).hdr false = false ∧ malformed (tWrite 0).hdr false = false ∧ hMcast (tWrite 0).hdr = false ∧ hCspec (tWrite 0).hdr = 0 ∧
    (noMaster s g = true ↔ g = .host 0 0 ∧ b = false) := by
  rintro g (rfl | rfl) (_ | _) s rfl <;>
    refine ⟨?_, ?_, by decide +kernel, by decide +kernel, by decide +kernel, by decide +kernel, by decide +kernel⟩ <;>
    (rintro a (rfl | rfl) p rfl <;> exact ⟨taken_of (by decide +kernel) (by decide +kernel), rfl⟩)

/-- A packet of one byte of local memory. -/
def tPlan : Plan := ⟨0, 1, 0, .mem 0 1, 0, 0, 0, false, false, 0, 0, false, 1, 0, false, none⟩

/-- A write and a read that a host holds; a descriptor whose source is to be read, and no READ_REQ. -/
theorem witness_hostPort :
    (gw (tReqs (hostGw 7) [⟨tWrite 0, true, 0, 16⟩]) (hostGw 7)).reqs = ⟨tWrite 0, true, 0, 16⟩ :: [] ∧
    (gw (tReqs (hostGw 7) [⟨tRead 0, false, 0, 2048⟩]) (hostGw 7)).reqs = ⟨tRead 0, false, 0, 2048⟩ :: [] ∧
    (∀ q, q ∈ (gw tRun (hostGw 0)).reqs → q.wr = true) ∧
    sourceCtx (tOne (.gw (hostGw 0)) { tCtx 1 with st := .active, todo := [tPlan] }) (hostGw 0) = some 5 ∧
    (punit tRun (.gw (hostGw 7))).cpl = [] := by decide +kernel

/-- An outstanding entry of context 5 with a command, sent at cycle 0. -/
def tEnt (cmd : Nat) : OutEnt := ⟨false, 0, cmd, some 5, 0, 16, 0, none, false, none, 0, none, 0⟩

/-- The state of a descriptor that waits for the answer to its only request, number 1023. -/
def tLone (d : BitVec 512) (e : OutEnt) : State :=
  updUnit (tOne (.ni c34) { tCtx d with st := .active, out := 1 }) (.ni c34) (fun x => { x with out := [(1023, e)] })

/-- A request sent under off-wafer entry 15. -/
theorem witness_offWaferLone :
    (∀ e, e = { tEnt 0 with offw := some 15 } → MgmtServes (tLone 1 e) (cellReg c34 3 0xD200) ∧
      LoneRequest (tLone 1 e) c34 1023 5 e { tCtx 1 with st := .active, out := 1 } ∧ e.cmd ≤ 1) ∧
    dNocomp (tCtx 1).desc = false ∧ (bits (0x8000 : Word) 0 16).testBit 15 = true := by
  refine ⟨?_, by decide +kernel, by decide⟩
  rintro e rfl
  exact ⟨by unfold MgmtServes; decide +kernel, by constructor <;> decide +kernel, by decide⟩

/-- An ACK of tag 1023 whose check value is the kept one, and one whose is not. -/
theorem witness_ack :
    (∀ p, p = tPkt [(0, 3), (272, 1023)] ∨ p = tPkt [(0, 3), (272, 1023), (384, 1)] →
      Taken (tIn (tLone 1 (tEnt 0)) (.ni c34) p) (.ni c34) 3 p ∧
      LoneRequest (tIn (tLone 1 (tEnt 0)) (.ni c34) p) c34 1023 5 (tEnt 0) { tCtx 1 with st := .active, out := 1 } ∧
      malformed p.hdr p.welt = false ∧ hTag p.hdr = 1023 ∧ hInl p.hdr 32 4 = 0) ∧
    dNocomp (tCtx 1).desc = false ∧ answersCmd 3 (tEnt 0).cmd = true ∧ hInl (tPkt [(0, 3), (272, 1023)]).hdr 0 32 = (tEnt 0).crc ∧
    hInl (tPkt [(0, 3), (272, 1023), (384, 1)]).hdr 0 32 ≠ (tEnt 0).crc := by
  refine ⟨?_, by decide +kernel⟩
  rintro p (rfl | rfl)
  · exact ⟨taken_of (by decide +kernel) (by decide +kernel), by constructor <;> decide +kernel, by decide +kernel⟩
  · exact ⟨taken_of (by decide +kernel) (by decide +kernel), by constructor <;> decide +kernel, by decide +kernel⟩

/-- A READ_DATA of one byte with its check value. -/
def tData : RxPkt :=
  tPkt [(0, 2), (8, 1), (19, 1), (272, 1023), (384, crc32c (dataBytes (tHdr [(0, 2), (8, 1), (19, 1), (272, 1023)]) [9]))] [9]

theorem witness_readData : Taken (tIn (tLone 0x201 (tEnt 1)) (.ni c34) tData) (.ni c34) 2 tData ∧
    LoneRequest (tIn (tLone 0x201 (tEnt 1)) (.ni c34) tData) c34 1023 5 (tEnt 1) { tCtx 0x201 with st := .active, out := 1 } ∧
    malformed tData.hdr tData.welt = false ∧ hTag tData.hdr = 1023 ∧ hCspec tData.hdr = 0 ∧ dNocomp (tCtx 0x201).desc = true ∧
    (tEnt 1).cmd = 1 ∧ hInl tData.hdr 0 32 = crc32c (dataBytes tData.hdr tData.data) :=
  ⟨taken_of (by decide +kernel) (by decide +kernel), by constructor <;> decide +kernel, by decide +kernel⟩

/-- A source entry that waits for its answer. -/
def tSrc : SrcStream := ⟨false, false, false, none, 0, 0, 0, 0, 0, 0, 0⟩

/-- The answer to a STREAM_REQ and to a STREAM_REL. -/
theorem witness_streamResponse : ∀ n, n = 5 ∨ n = 7 →
    ∀ s, s = updUnit (tIn (tLone 9 (tEnt n)) (.ni c34) (tPkt [(0, 6), (272, 1023)])) (.ni c34) (fun x => { x with streams := [(0, tSrc)] }) →
      Taken s (.ni c34) 6 (tPkt [(0, 6), (272, 1023)]) ∧
      LoneRequest s c34 1023 5 (tEnt n) { tCtx 9 with st := .active, out := 1 } ∧
      malformed (tPkt [(0, 6), (272, 1023)]).hdr false = false ∧ hTag (tPkt [(0, 6), (272, 1023)]).hdr = 1023 ∧
      hInl (tPkt [(0, 6), (272, 1023)]).hdr 13 4 = 0 ∧ (tEnt n).cmd = n ∧ (punit s (.ni c34)).streams = [((tEnt n).place, tSrc)] := by
  rintro n (rfl | rfl) s rfl
  · exact ⟨taken_of (by decide +kernel) (by decide +kernel), by constructor <;> decide +kernel, by decide +kernel⟩
  · exact ⟨taken_of (by decide +kernel) (by decide +kernel), by constructor <;> decide +kernel, by decide +kernel⟩

/-- The last cycle before the response timeout, and the first after it. -/
def tLate (n : Nat) : State :=
  { tLone 1 (tEnt 0) with clks := [(c34.field, { Clk.init with cyc := rspTmo tRun (.ni c34) + n })] }

theorem witness_outstandingTimers :
    (∀ n, n = 0 ∨ n = 1 → LoneRequest (tLate n) c34 1023 5 (tEnt 0) { tCtx 1 with st := .active, out := 1 } ∧
      decide ((tEnt 0).since + rspTmo (tLate n) (.ni c34) < cyc (tLate n) c34.field) = decide (n = 1)) ∧
    (tEnt 0).cmd ≤ 1 ∧ dNocomp (tCtx 1).desc = false ∧ (punit (tLate 0) (.ni c34)).out.find 1023 = some (tEnt 0) ∧
    (∀ s, s = updUnit (tOne (.ni c34) (tCtx 9)) (.ni c34) (fun x => { x with streams := [(63, { tSrc with live := true, relPend := some 5 })] }) →
      (punit s (.ni c34)).streams.find 63 = some { tSrc with live := true, relPend := some 5 } ∧ ctxOf s (.ni c34) 5 = some (tCtx 9) ∧
      tSrc.unack = 0 ∧ tSrc.fout = false) := by
  refine ⟨?_, by decide +kernel, by decide +kernel, by decide +kernel, ?_⟩
  · rintro n (rfl | rfl) <;> exact ⟨by constructor <;> decide +kernel, by decide +kernel⟩
  · rintro s rfl; decide +kernel

/-! ## Witnesses: descriptors -/

/-- A descriptor with fields at bit positions. -/
def tDesc (l : List (Nat × Nat)) : BitVec 512 := BitVec.ofNat 512 (l.foldl (fun a x => a + x.2 * 2 ^ x.1) 0)

/-- The fabric address of a cell of this wafer, at an offset. -/
def tDest (x y off : Nat) : Nat := waferLocal * 2 ^ 56 + x * 2 ^ 48 + y * 2 ^ 40 + off

/-- A cell's NI with one descriptor of ring 0 to start. -/
def tD (d : BitVec 512) : State := tOne (.ni c34) (tCtx d)

theorem startable_of {s : State} {u : UnitRef} {r op id : Nat} {x : Ctx}
    (h : clocked s u.dom = true ∧ startable s u r op = some (id, x) ∧ ctxOf s u id = some x ∧ descCheck s u x.desc = none) :
    Startable s u r op id x := ⟨h.1, h.2.1, h.2.2.1, h.2.2.2⟩

theorem loneCtx_ni {s : State} {c : Cell} {id : Nat} {x : Ctx}
    (h : clocked s c.field = true ∧ (punit s (.ni c)).ctxs = [(id, x)] ∧ x.todo = [] ∧ x.out = 0 ∧ x.err = none ∧
      dNocomp x.desc = false ∧ inFlight s (.ni c) id = false ∧
      (∀ y, y ∈ (punit s (.ni c)).streams → y.2.relPend ≠ some id) ∧ (cqOf s (.ni c) x.cq).st = .running) :
    LoneCtx s (.ni c) id x :=
  ⟨h.1, h.2.1, h.2.2.1, h.2.2.2.1, h.2.2.2.2.1, h.2.2.2.2.2.1, h.2.2.2.2.2.2.1, h.2.2.2.2.2.2.2.1, h.2.2.2.2.2.2.2.2,
    fun _ h => nomatch h⟩

/-- A ring with one descriptor to fetch, whose opcode the memory holds. -/
def tFetch (op : Byte) : State :=
  { updUnit (tD 0) (.ni c34) (fun x => { x with ctxs := [] }) with mem := if op = 0 then [] else [⟨memAddr c34.key 0, op⟩] }

/-- A NOP to fetch, and a descriptor with the lowest reserved opcode; a completion ring that runs. -/
theorem witness_fetch :
    (∀ op, op = (0 : Byte) ∨ op = 10 → (dom (tFetch op) (UnitRef.ni c34).dom).st = .run ∧ (punit (tFetch op) (.ni c34)).ctxs = [] ∧
      rrPick (fetchReady (tFetch op) (.ni c34)) ((punit (tFetch op) (.ni c34)).fetchLast + 1) 16 = some 0 ∧
      inFlight (tFetch op) (.ni c34) (punit (tFetch op) (.ni c34)).nextId = false ∧
      (∀ y, y ∈ (punit (tFetch op) (.ni c34)).streams → y.2.relPend ≠ some (punit (tFetch op) (.ni c34)).nextId) ∧
      (cqOf (tFetch op) (.ni c34) (rdF (tFetch op) (sqReg (.ni c34) 0 2) 8 6)).st = .running) ∧
    noStart (.ni c34) (dOp (descAt (tFetch 0) (.ni c34) 0)) = false ∧ dOp (descAt (tFetch 10) (.ni c34) 0) = 10 ∧
    (3 : Nat) < cqCount (.ni c0) ∧ (cqOf (tCq (.ni c0) 3 0 0) (.ni c0) 3).st = .running := by
  refine ⟨?_, by decide +kernel⟩
  rintro op (rfl | rfl) <;> decide +kernel

/-- A domain's copy of time is VALID. -/
def tTimed (s : State) (d : Nat) : State := updDom s d (fun x => { x with mer := { x.mer with valid := true } })

/-- The address of the cell (1, 2), which is no cell of the tests. -/
def d12 : Nat := tDest 1 2 0

/-- A NOP at a cell and at a host port; a WAIT_TIME whose time is now; one that waits; a FENCE without a stream; a STREAM_OPEN of
a stream that is open; a COLL of a group without an entry. -/
theorem witness_descriptorsComplete :
    (LoneCtx (tD 0) (.ni c34) 5 (tCtx 0) ∧ Startable (tD 0) (.ni c34) 0 0 5 (tCtx 0)) ∧
    (∀ s, s = updGw (tOne (.gw (hostGw 0)) (tCtx 0)) (hostGw 0) (fun x => { x with link := ⟨true, true, 5, 16, true, 256, 512⟩ }) →
      LoneCtx s (.gw (hostGw 0)) 5 (tCtx 0) ∧ Startable s (.gw (hostGw 0)) 0 0 5 (tCtx 0)) ∧
    (LoneCtx (tTimed (tD 7) c34.field) (.ni c34) 5 (tCtx 7) ∧ Startable (tTimed (tD 7) c34.field) (.ni c34) 0 7 5 (tCtx 7) ∧
      timeReached (tTimed (tD 7) c34.field) (timeDom (.ni c34)) (waitUntil (tCtx 7).desc) = true) ∧
    (∀ x, x = { tCtx 7 with st := .waiting } → LoneCtx (tTimed (tOne (.ni c34) x) c34.field) (.ni c34) 5 x ∧
      waitingCtx (tTimed (tOne (.ni c34) x) c34.field) (.ni c34) 0 7 = some (5, x)) ∧
    (∀ d, d = tDesc [(0, 6), (64, d12)] → LoneCtx (tD d) (.ni c34) 5 (tCtx d) ∧ Startable (tD d) (.ni c34) 0 6 5 (tCtx d) ∧
      streamFor (tD d) (.ni c34) 0 (df d 64 76) = none) ∧
    (∀ d s y, d = tDesc [(0, 9), (64, d12)] → y = { tSrc with live := true, dest := 0x102 } →
      s = updUnit (tD d) (.ni c34) (fun x => { x with streams := [(63, y)] }) →
      LoneCtx s (.ni c34) 5 (tCtx d) ∧ Startable s (.ni c34) 0 9 5 (tCtx d) ∧ bit d 140 = false ∧
      streamFor s (.ni c34) 0 (df d 64 76) = some (63, y) ∧ y.broken = false) ∧
    (LoneCtx (tD 3) (.ni c34) 5 (tCtx 3) ∧ Startable (tD 3) (.ni c34) 0 3 5 (tCtx 3) ∧ (dom (tD 3) c34.field).st = .run ∧
      (∀ e, e < 32 → ¬ (cValid (tD 3) c34 e = true ∧ cGroup (tD 3) c34 e = kGroup (tCtx 3).desc ∧ cBase (tD 3) c34 e = true))) := by
  refine ⟨⟨loneCtx_ni (by decide +kernel), startable_of (by decide +kernel)⟩, ?_,
    ⟨loneCtx_ni (by decide +kernel), startable_of (by decide +kernel), by decide +kernel⟩, ?_, ?_, ?_,
    loneCtx_ni (by decide +kernel), startable_of (by decide +kernel), by decide +kernel⟩
  · rintro s rfl
    refine ⟨?_, startable_of (by decide +kernel)⟩
    constructor
    case carried => rintro g ⟨⟩; decide +kernel
    all_goals decide +kernel
  · rintro x rfl; exact ⟨loneCtx_ni (by decide +kernel), by decide +kernel⟩
  · rintro d rfl; exact ⟨loneCtx_ni (by decide +kernel), startable_of (by decide +kernel), by decide +kernel⟩
  · rintro d s y rfl rfl rfl; exact ⟨loneCtx_ni (by decide +kernel), startable_of (by decide +kernel), by decide +kernel⟩

/-- A PUT of 17 bytes, a multicast one of 1 byte, a GET of 4,096 and a PUT of 16. -/
def dPut : BitVec 512 := tDesc [(0, 1), (64, d12), (144, 17), (217, 3)]
def dMulti : BitVec 512 := tDesc [(0, 1), (64, tDest 0 0 0), (144, 1), (217, 3), (219, 1), (224, 1)]
def dGet : BitVec 512 := tDesc [(0, 1), (64, d12), (144, 4096), (216, 1), (217, 1)]
def dSmall : BitVec 512 := tDesc [(0, 1), (64, d12), (144, 16), (217, 1)]

theorem witness_copy :
    (∀ d, d = dPut ∨ d = dMulti ∨ d = dGet ∨ d = dSmall → Startable (tD d) (.ni c34) 0 1 5 (tCtx d)) ∧
    16 < df dPut 144 32 ∧ streamBroken (tD dPut) (.ni c34) 0 (df dPut 64 76) = false ∧ bit dMulti 219 = true ∧ bit dGet 216 = true ∧
    bit dSmall 216 = false ∧ bit dSmall 219 = false ∧ df dSmall 144 32 ≤ 16 ∧ streamBroken (tD dSmall) (.ni c34) 0 (df dSmall 64 76) = false ∧
    (∃ bs, localRead (tD dSmall) (.ni c34) (df dSmall 176 40) (df dSmall 144 32) = some bs) := by
  refine ⟨?_, by decide +kernel, by decide +kernel, by decide +kernel, by decide +kernel, by decide +kernel, by decide +kernel,
    by decide +kernel, by decide +kernel, _, rfl⟩
  rintro d (rfl | rfl | rfl | rfl) <;> exact startable_of (by decide +kernel)

/-- A descriptor of ring 0 with source entries. -/
def tStreams (d : BitVec 512) (l : FMap SrcStream) : State := updUnit (tD d) (.ni c34) (fun x => { x with streams := l })

/-- An open stream from queue 0 to the cell (1, 2). -/
def tLive : SrcStream := { tSrc with live := true, dest := 0x102 }

/-- A FENCE on a stream; a SIGNAL with a fence and one without; a STREAM_OPEN with the last of 64 entries free, and with none. -/
theorem witness_streamDescriptors :
    (∀ d, d = tDesc [(0, 6), (64, d12), (140, 8)] → Startable (tStreams d [(63, tLive)]) (.ni c34) 0 6 5 (tCtx d) ∧
      streamFor (tStreams d [(63, tLive)]) (.ni c34) 0 (df d 64 76) = some (63, tLive) ∧ tLive.broken = false) ∧
    (∀ d, d = tDesc [(0, 8), (64, d12), (208, 1)] → Startable (tStreams d [(0, tLive)]) (.ni c34) 0 8 5 (tCtx d) ∧
      (bit d 208 = true → (streamFor (tStreams d [(0, tLive)]) (.ni c34) 0 (df d 64 76)).isSome = true) ∧
      streamBroken (tStreams d [(0, tLive)]) (.ni c34) 0 (df d 64 76) = false) ∧
    (∀ d, d = tDesc [(0, 8), (64, d12)] → Startable (tD d) (.ni c34) 0 8 5 (tCtx d) ∧ bit d 208 = false ∧
      streamBroken (tD d) (.ni c34) 0 (df d 64 76) = false) ∧
    (∀ d n, d = tDesc [(0, 9), (64, d12)] → n = 63 ∨ n = 64 →
      Startable (tStreams d ((List.range n).map (fun i => (i, tSrc)))) (.ni c34) 0 9 5 (tCtx d) ∧ bit d 140 = false ∧
      streamFor (tStreams d ((List.range n).map (fun i => (i, tSrc)))) (.ni c34) 0 (df d 64 76) = none ∧
      (List.range 64).find? (fun j => ((punit (tStreams d ((List.range n).map (fun i => (i, tSrc)))) (.ni c34)).streams.find j).isNone) =
        (if n = 63 then some 63 else none) ∧
      LoneCtx (tStreams d ((List.range n).map (fun i => (i, tSrc)))) (.ni c34) 5 (tCtx d)) := by
  refine ⟨?_, ?_, ?_, ?_⟩
  · rintro d rfl; exact ⟨startable_of (by decide +kernel), by decide +kernel⟩
  · rintro d rfl; exact ⟨startable_of (by decide +kernel), by decide +kernel⟩
  · rintro d rfl; exact ⟨startable_of (by decide +kernel), by decide +kernel⟩
  · rintro d n rfl (rfl | rfl) <;>
      exact ⟨startable_of (by decide +kernel), by decide +kernel, by decide +kernel, by decide +kernel, loneCtx_ni (by decide +kernel)⟩

/-- An open welt of index 15. -/
def tWsrc : WeltSrc := ⟨false, 0, 0, 4095, 0x102, false, none⟩

/-- A time one nanosecond ahead; a welt to close; a stream to release. -/
theorem witness_wait :
    (∀ d, d = tDesc [(0, 7), (112, 1)] → Startable (tTimed (tD d) c34.field) (.ni c34) 0 7 5 (tCtx d) ∧
      timeReached (tTimed (tD d) c34.field) (timeDom (.ni c34)) (waitUntil d) = false) ∧
    (∀ d, d = tDesc [(0, 4), (64, d12), (208, 1)] → Startable (tTimed (tD d) c34.field) (.ni c34) 0 4 5 (tCtx d) ∧
      timeReached (tTimed (tD d) c34.field) c34.field (openAt d) = false) ∧
    (∀ d s, d = tDesc [(0, 5), (64, 4095)] → s = updUnit (tD d) (.ni c34) (fun x => { x with weltSrc := [(15, tWsrc)] }) →
      Startable s (.ni c34) 0 5 5 (tCtx d) ∧
      (punit s (.ni c34)).weltSrc.find? (fun v => !v.2.closing && v.2.wid == df d 64 12) = some (15, tWsrc)) ∧
    (∀ d, d = tDesc [(0, 9), (64, d12), (140, 1)] → Startable (tStreams d [(63, tLive)]) (.ni c34) 0 9 5 (tCtx d) ∧
      bit d 140 = true ∧ streamFor (tStreams d [(63, tLive)]) (.ni c34) 0 (df d 64 76) = some (63, tLive)) := by
  refine ⟨?_, ?_, ?_, ?_⟩
  · rintro d rfl; exact ⟨startable_of (by decide +kernel), by decide +kernel⟩
  · rintro d rfl; exact ⟨startable_of (by decide +kernel), by decide +kernel⟩
  · rintro d s rfl rfl; exact ⟨startable_of (by decide +kernel), by decide +kernel⟩
  · rintro d rfl; exact ⟨startable_of (by decide +kernel), by decide +kernel⟩

/-- A CIRCUIT_OPEN of welt index 15, whose time has come, and the state whose L input map names that index in slot 63. -/
def dOpen : BitVec 512 := tDesc [(0, 4), (64, d12), (152, 15)]
def tOpenAt (x : Ctx) (map : Word) : State := wr (tTimed (tOne (.ni c34) x) c34.field) (winKey c34 4 63) map

theorem witness_circuits :
    (Startable (tOpenAt (tCtx dOpen) 31) (.ni c34) 0 4 5 (tCtx dOpen) ∧ timeReached (tOpenAt (tCtx dOpen) 31) c34.field (openAt dOpen) = true ∧
      inName (rd (tOpenAt (tCtx dOpen) 31) (winKey c34 4 63)) = some (df dOpen 152 4) ∧
      (punit (tOpenAt (tCtx dOpen) 31) (.ni c34)).weltSrc = [] ∧ namesCell (df dOpen 64 76) = true ∧
      addrOk (tOpenAt (tCtx dOpen) 31) c34.field (df dOpen 64 76) 0 = true ∧
      destCell (tOpenAt (tCtx dOpen) 31) c34.field (df dOpen 64 76) ≠
        waferOf (tOpenAt (tCtx dOpen) 31) c34.field * 65536 + c34.x.val * 256 + c34.y.val) ∧
    (∀ x, x = { tCtx dOpen with st := .waiting } → (waitingCtx (tOpenAt x 31) (.ni c34) 0 4 = some (5, x) ∧
        ctxOf (tOpenAt x 31) (.ni c34) 5 = some x ∧ clocked (tOpenAt x 31) c34.field = true) ∧
      LoneCtx (tOpenAt x 0) (.ni c34) 5 x ∧ waitingCtx (tOpenAt x 0) (.ni c34) 0 4 = some (5, x) ∧
      timeReached (tOpenAt x 0) c34.field (openAt x.desc) = true ∧
      (∀ i, i < 64 → inName (rd (tOpenAt x 0) (winKey c34 4 i)) ≠ some (df x.desc 152 4))) ∧
    (∀ s b, s = updUnit (tOne (.ni c34) { tCtx 5 with st := .waiting }) (.ni c34) (fun x => { x with
        weltSrc := [(15, { tWsrc with closing := true, closeCtx := some 5, timedOut := b })]
        out := [(0, { tEnt 0 with welt := some 15, quar := true }), (1, { tEnt 0 with welt := some 14 })] }) →
      clocked s c34.field = true ∧ (punit s (.ni c34)).weltSrc.find 15 = some { tWsrc with closing := true, closeCtx := some 5, timedOut := b } ∧
      (punit s (.ni c34)).weltCur.find 15 = none ∧
      (∀ e, e ∈ (punit s (.ni c34)).out → e.2.quar = true ∨ e.2.welt ≠ some 15) ∧
      ctxOf s (.ni c34) 5 = some { tCtx 5 with st := .waiting }) := by
  refine ⟨⟨startable_of (by decide +kernel), by decide +kernel⟩, ?_, ?_⟩
  · rintro x rfl; exact ⟨by decide +kernel, loneCtx_ni (by decide +kernel), by decide +kernel, by decide +kernel, by decide +kernel⟩
  · rintro s b rfl; revert b; decide +kernel

/-- A tensor of 16 rows and columns of bytes in tiles of 8 by 8 at 0x2000, with its map at 0x1000, to the cell (1, 2), in a layout. -/
def dSparse (layout : Nat) : BitVec 512 :=
  tDesc [(0, 2), (64, d12), (140, 3), (144, 0x2000), (164, 0x1000), (188, layout), (224, 16), (240, 16), (256, 16), (272, 16)]

/-- The map has tiles 0 and 3, and one that there is not. -/
def tSparse (layout : Nat) : State := { tD (dSparse layout) with mem := [⟨memAddr c34.key 0x1000, 0x89⟩] }

theorem witness_sparse :
    (∀ k, k = 1 ∨ k = 2 → Startable (tSparse k) (.ni c34) 0 2 5 (tCtx (dSparse k)) ∧
      df (dSparse k) 164 20 + 8 * (copyGeo (dSparse k)).mw ≤ Config.sramBytes ∧ bit (dSparse k) 185 = false ∧
      sparseTarget (df (dSparse k) 64 76) = true ∧
      (∀ sc, sc = scanMap (tSparse k) c34 (copyGeo (dSparse k)) false 0x1000 0 →
        (∀ y, y ∈ sparseSources (dSparse k) sc → y.1 + y.2 ≤ Config.sramBytes) ∧
        (∀ y, y ∈ sparseDests (dSparse k) sc (goesDense (dSparse k) sc) → addrOk (tSparse k) c34.field y.1 y.2 = true) ∧
        overlapsOwn (tSparse k) c34 (dSparse k) sc (sparseDests (dSparse k) sc (goesDense (dSparse k) sc)) = false ∧
        streamBroken (tSparse k) (.ni c34) 0 (df (dSparse k) 64 76) = false ∧
        (df (dSparse k) 188 2 = 2 ∨ sparsePlans (tSparse k) c34 (dSparse k) sc (goesDense (dSparse k) sc) ≠ []))) ∧
    (∀ x, x = { tCtx (dSparse 2) with st := .waiting, aux := 1 + 4 * 2 } → waitingCtx (tOne (.ni c34) x) (.ni c34) 0 2 = some (5, x) ∧
      ctxOf (tOne (.ni c34) x) (.ni c34) 5 = some x ∧ clocked (tOne (.ni c34) x) c34.field = true ∧ x.todo = [] ∧ x.out = 0 ∧
      inFlight (tOne (.ni c34) x) (.ni c34) 5 = false ∧ x.aux = 1 + b2n false + 4 * 2) ∧
    (∀ s, s = { tStreams (dSparse 1) [(0, { tLive with broken := true })] with mem := (tSparse 1).mem } →
      LoneCtx s (.ni c34) 5 (tCtx (dSparse 1)) ∧ Startable s (.ni c34) 0 2 5 (tCtx (dSparse 1)) ∧
      streamBroken s (.ni c34) 0 (df (dSparse 1) 64 76) = true ∧
      (∀ sc, sc = scanMap s c34 (copyGeo (dSparse 1)) false 0x1000 0 →
        (∀ y, y ∈ sparseSources (dSparse 1) sc → y.1 + y.2 ≤ Config.sramBytes) ∧
        (∀ y, y ∈ sparseDests (dSparse 1) sc (goesDense (dSparse 1) sc) → addrOk s c34.field y.1 y.2 = true))) := by
  refine ⟨?_, ?_, ?_⟩
  · rintro k (rfl | rfl) <;> refine ⟨startable_of (by decide +kernel), by decide +kernel, by decide +kernel, by decide +kernel, ?_⟩ <;>
      (rintro sc rfl; decide +kernel)
  · rintro x rfl; decide +kernel
  · rintro s rfl
    refine ⟨loneCtx_ni (by decide +kernel), startable_of (by decide +kernel), by decide +kernel, ?_⟩
    rintro sc rfl; decide +kernel

/-! ## Witnesses: collectives -/

/-- A reduction of INT32 sums of `n` elements from 0x1000 to 0x2000. -/
def dReduce (n : Nat) : BitVec 512 := tDesc [(0, 3), (78, 5), (84, n), (108, 0x1000), (128, 0x2000)]

/-- Entry 31 of a cell with the flags of its first word: a base entry of group 0 and two members, with one child, slots 0 to 2 and
a window of 1. -/
def tEntry (s : State) (flags : Word) : State :=
  wr (wr (wr (wr (wr s (cwKey c34 31 0) (0x10000009 ||| flags)) (cwKey c34 31 1) 0x107) (cwKey c34 31 2) 0x201) (cwKey c34 31 7) 2)
    (cwKey c34 31 8) 0x605

/-- A COLL at an entry whose chain is itself. -/
theorem witness_collective :
    ∀ s, s = tEntry (tD (dReduce 1)) 0 →
      Startable s (.ni c34) 0 3 5 (tCtx (dReduce 1)) ∧ (dom s c34.field).st = .run ∧
      (List.range 32).find? (fun f => cValid s c34 f && cGroup s c34 f == kGroup (dReduce 1) && cBase s c34 f) = some 31 ∧
      (cent s c34 31).run = none ∧ (cent s c34 31).early = [] ∧ (cent s c34 31).abortOf ((cLast s c34 31 + 1) % 2 ^ 32) = none ∧ cNext s c34 31 = false ∧
      lowerOf s c34 31 = none ∧ cDmc s c34 31 = false ∧ cNch s c34 31 ≤ 6 ∧ cSlots s c34 31 &&& slotsUsed s c34 = 0 ∧
      (kOp (dReduce 1) = 3 ∨ kOp (dReduce 1) = 5 → cNch s c34 31 = 0 ∨ slotBudget s c34 31 + 1 ≤ popN (cSlots s c34 31) 6) ∧
      formatOk s c34 (dReduce 1) (cMembers s c34 31) (cRoot s c34 31) = true ∧
      (∀ b, b ∈ collBufs s c34 31 (dReduce 1) (cRoot s c34 31) → b.1 + b.2 ≤ Config.sramBytes) := by
  rintro s rfl; exact ⟨startable_of (by decide +kernel), by decide +kernel⟩

/-- The run of entry 31 at its start. -/
def tR (d : BitVec 512) : CRun := newRun (tEntry tRun 0) c34 31 d none false false

/-- The state in which entry 31 is in a run, with chunks that have arrived. -/
def tColl (s : State) (flags : Word) (r : CRun) (inbox : List RxPkt) : State :=
  setCmb (tEntry s flags) c34 { Cmb.init with inbox := inbox, ents := [(31, { CEnt.init with run := some r })] }

theorem loneRun_of {s : State} {c : Cell} {e : Nat} {r : CRun} {y : CEnt}
    (h : clocked s c.field = true ∧ (cmb s c).ents = [(e, y)] ∧ crun s c e = some r ∧ cNext s c e = false ∧ lowerOf s c e = none) :
    LoneRun s c e r := ⟨h.1, ⟨y, h.2.1⟩, h.2.2.1, h.2.2.2.1, h.2.2.2.2⟩

theorem lone_tColl (s : State) (flags : Word) (r : CRun) (l : List RxPkt)
    (h : clocked s c34.field = true ∧ cNext (tEntry s flags) c34 31 = false ∧ lowerOf (tEntry s flags) c34 31 = none) :
    LoneRun (tColl s flags r l) c34 31 r := by
  have hc : cmb (tColl s flags r l) c34 = { Cmb.init with inbox := l, ents := [(31, { CEnt.init with run := some r })] } :=
    FMap.get_set_same ..
  refine ⟨h.1, ⟨_, congrArg Cmb.ents hc⟩, ?_, h.2.1, h.2.2⟩
  show (FMap.get (cmb (tColl s flags r l) c34).ents 31 CEnt.init).run = some r
  rw [hc]; rfl

/-- A chunk of child 0 of entry 31 (of its parent where `dir` is 1). -/
def tChunk (dir kind : Nat) (g : CSig) (seq idx crc : Nat) (data : List Byte) : RxPkt :=
  ⟨(chunkPkt (chunkInl (tEntry tRun 0) c34 31 dir 0 kind 0 g seq idx crc) 0 data 0).hdr, dataUnits data, false, 0, none, 0, none⟩

/-- The signature of entry 31, and one of another OP. -/
def tSig (d : BitVec 512) : CSig := sigOf (tEntry tRun 0) c34 31 d 0
def tSig7 (d : BitVec 512) : CSig := { tSig d with op := 7 }

/-- Software, a lost wafer (that of the parent, and that of the child of a top root), the last cycle of TMO, and an ABORT. -/
theorem witness_instancesAbort :
    (MgmtServes (tColl tRun 0 (tR (dReduce 1)) []) (cellReg c34 4 0x20) ∧ MgmtServes (tColl tRun 0 (tR (dReduce 1)) []) (cellReg c34 4 0x50) ∧
      LoneRun (tColl tRun 0 (tR (dReduce 1)) []) c34 (bits (31 : Word) 0 5) (tR (dReduce 1)) ∧ bits (0 : Word) 0 20 ≠ waferLocal ∧
      cRoot (tColl tRun 0 (tR (dReduce 1)) []) c34 31 = false ∧ cw (tColl tRun 0 (tR (dReduce 1)) []) c34 31 3 0 20 = bits (0 : Word) 0 20) ∧
    (LoneRun (tColl tRun 16 (tR (dReduce 1)) []) c34 31 (tR (dReduce 1)) ∧ cRoot (tColl tRun 16 (tR (dReduce 1)) []) c34 31 = true ∧
      0 < cNch (tColl tRun 16 (tR (dReduce 1)) []) c34 31 ∧ cw (tColl tRun 16 (tR (dReduce 1)) []) c34 31 9 0 20 = bits (0 : Word) 0 20) ∧
    (∀ s, s = tColl { tRun with clks := [(c34.field, { Clk.init with cyc := (tR (dReduce 1)).tmo })] } 0 (tR (dReduce 1)) [] →
      LoneRun s c34 31 (tR (dReduce 1)) ∧ inMap (tR (dReduce 1)).desc (tR (dReduce 1)).ph = false ∧
      (tR (dReduce 1)).since + (tR (dReduce 1)).tmo ≤ cyc s c34.field) ∧
    (∀ p, p = tChunk 0 2 (tSig (dReduce 1)) 1 0x80 0x123 [] → Current (tColl tRun 0 (tR (dReduce 1)) [p]) c34 31 (tR (dReduce 1)) p [] ∧
      hInl p.hdr 12 3 = 2 ∧
      runDiff (tColl tRun 0 (tR (dReduce 1)) [p]) c34 31 (tR (dReduce 1)).desc (tR (dReduce 1)).ph 2 (hdrSig p.hdr) = none) := by
  refine ⟨⟨by unfold MgmtServes; decide +kernel, by unfold MgmtServes; decide +kernel, lone_tColl _ _ _ _ (by decide +kernel),
    by decide +kernel⟩, ⟨lone_tColl _ _ _ _ (by decide +kernel), by decide +kernel⟩, ?_, ?_⟩
  · rintro s rfl; exact ⟨lone_tColl _ _ _ _ (by decide +kernel), by decide +kernel⟩
  · rintro p rfl
    exact ⟨⟨by unfold NextChunk; decide +kernel, by decide +kernel, lone_tColl _ _ _ _ (by decide +kernel), by decide +kernel,
      by decide +kernel⟩, by decide +kernel⟩

/-- A differing OP in each kind of chunk; an instance 1 and 2^32 - 17 ahead, one 16 and 1 behind; a group without an entry. -/
theorem witness_chunksCompared :
    (∀ k, k = 0 ∨ k = 1 ∨ k = 2 ∨ k = 3 ∨ k = 4 → ∀ p, p = tChunk 0 k (tSig7 (dReduce 1)) 1 0 0 [] →
      Current (tColl tRun 0 (tR (dReduce 1)) [p]) c34 31 (tR (dReduce 1)) p [] ∧ hInl p.hdr 12 3 = k ∧
      runDiff (tColl tRun 0 (tR (dReduce 1)) [p]) c34 31 (tR (dReduce 1)).desc (tR (dReduce 1)).ph (hInl p.hdr 12 3) (hdrSig p.hdr) = some 1) ∧
    (∀ n, n = 2 ∨ n = 2 ^ 32 - 16 ∨ n = 2 ^ 32 - 15 ∨ n = 0 → ∀ p, p = tChunk 0 0 (tSig (dReduce 1)) n 0 0 [] →
      NextChunk (tColl tRun 0 (tR (dReduce 1)) [p]) c34 p [] ∧ LoneRun (tColl tRun 0 (tR (dReduce 1)) [p]) c34 31 (tR (dReduce 1)) ∧
      entryAt (tColl tRun 0 (tR (dReduce 1)) [p]) c34 (hInl p.hdr 0 8) (hInl p.hdr 8 2) = some 31 ∧ hInl p.hdr 12 3 = 0 ∧
      (tR (dReduce 1)).seq < 2 ^ 32 ∧ 1 ≤ (hInl p.hdr 56 32 + 2 ^ 32 - (tR (dReduce 1)).seq) % 2 ^ 32 ∧
      decide ((hInl p.hdr 56 32 + 2 ^ 32 - (tR (dReduce 1)).seq) % 2 ^ 32 < 2 ^ 32 - 16) = decide (n = 2 ∨ n = 2 ^ 32 - 16)) ∧
    (∀ p, p = tChunk 0 0 (tSig (dReduce 1)) 1 0 0 [] →
      NextChunk (setCmb tRun c34 { Cmb.init with inbox := [p] }) c34 p [] ∧
      entryAt (setCmb tRun c34 { Cmb.init with inbox := [p] }) c34 (hInl p.hdr 0 8) (hInl p.hdr 8 2) = none ∧ hInl p.hdr 12 3 = 0) := by
  refine ⟨?_, ?_, ?_⟩
  · rintro k (rfl | rfl | rfl | rfl | rfl) p rfl <;>
      exact ⟨⟨by unfold NextChunk; decide +kernel, by decide +kernel, lone_tColl _ _ _ _ (by decide +kernel), by decide +kernel,
        by decide +kernel⟩, by decide +kernel⟩
  · rintro n (rfl | rfl | rfl | rfl) p rfl <;>
      exact ⟨by unfold NextChunk; decide +kernel, lone_tColl _ _ _ _ (by decide +kernel), by decide +kernel⟩
  · rintro p rfl; exact ⟨by unfold NextChunk; decide +kernel, by decide +kernel⟩

/-- A sparse reduction of 16 rows and columns of bytes in tiles of 8 by 8, with the Finder and a share of a half. -/
def dTop : BitVec 512 := tDesc [(0, 3), (78, 3), (82, 1), (276, 2), (280, 16), (296, 16), (344, 32768)]

/-- A run whose edges are given. -/
def tEdges (d : BitVec 512) (l : FMap CEdge) : CRun := { tR d with edges := l }

/-- The DATA chunk of one element from child 0, with a check value. -/
def tWord (crc : Nat) : RxPkt := tChunk 0 0 (tSig (dReduce 1)) 1 0 crc [1, 0, 0, 0]

/-- A CREDIT and a TOKEN of child 0; a MAP of the parent; a DATA chunk that has a credit, with the right check value and a wrong
one, and one that has none. -/
theorem witness_chunksTaken :
    (∀ k, k = 1 ∨ k = 3 → ∀ p, p = tChunk 0 k (tSig (dReduce 1)) 1 1 1 [] →
      Current (tColl tRun 0 (tR (dReduce 1)) [p]) c34 31 (tR (dReduce 1)) p [] ∧ hInl p.hdr 12 3 = k ∧
      runDiff (tColl tRun 0 (tR (dReduce 1)) [p]) c34 31 (tR (dReduce 1)).desc (tR (dReduce 1)).ph (hInl p.hdr 12 3) (hdrSig p.hdr) = none ∧
      edgeOf (tColl tRun 0 (tR (dReduce 1)) [p]) c34 31 p.hdr = some 0) ∧
    (∀ p, p = tChunk 1 4 (tSig dTop) 1 2 4 [] →
      Current (tColl tRun 0 (tR dTop) [p]) c34 31 (tR dTop) p [] ∧ hInl p.hdr 12 3 = 4 ∧ kSparse (tR dTop).desc = true ∧
      runDiff (tColl tRun 0 (tR dTop) [p]) c34 31 (tR dTop).desc (tR dTop).ph (hInl p.hdr 12 3) (hdrSig p.hdr) = none ∧
      edgeOf (tColl tRun 0 (tR dTop) [p]) c34 31 p.hdr = some 7) ∧
    (∀ p n, p = tWord (crc32c [1, 0, 0, 0]) ∨ p = tWord 0 → n ≤ 1 → ∀ r, r = tEdges (dReduce 1) [(0, { CEdge.init with granted := n })] →
      Current (tColl tRun 0 r [p]) c34 31 r p [] ∧ hInl p.hdr 12 3 = 0 ∧
      runDiff (tColl tRun 0 r [p]) c34 31 r.desc r.ph (hInl p.hdr 12 3) (hdrSig p.hdr) = none ∧
      edgeOf (tColl tRun 0 r [p]) c34 31 p.hdr = some 0 ∧ hInl p.hdr 11 1 = 0 ∧
      hInl p.hdr 88 8 < nChunks (phFmt r.desc r.ph) (upElems (tColl tRun 0 r [p]) c34 31 r) ∧
      (r.edge 0).slots.find? (fun x => x.idx == hInl p.hdr 88 8) = none ∧ (r.edge 0).granted = n ∧
      (dataBytes p.hdr p.data).length = chunkLen (phFmt r.desc r.ph) (upElems (tColl tRun 0 r [p]) c34 31 r) (hInl p.hdr 88 8) ∧
      chunkLen (phFmt r.desc r.ph) (upElems (tColl tRun 0 r [p]) c34 31 r) (hInl p.hdr 88 8) ≤ 2048) ∧
    crc32c (dataBytes (tWord (crc32c [1, 0, 0, 0])).hdr (tWord (crc32c [1, 0, 0, 0])).data) = hInl (tWord (crc32c [1, 0, 0, 0])).hdr 96 32 ∧
    crc32c (dataBytes (tWord 0).hdr (tWord 0).data) ≠ hInl (tWord 0).hdr 96 32 := by
  refine ⟨?_, ?_, ?_, by decide +kernel, by decide +kernel⟩
  · rintro k (rfl | rfl) p rfl <;>
      exact ⟨⟨by unfold NextChunk; decide +kernel, by decide +kernel, lone_tColl _ _ _ _ (by decide +kernel), by decide +kernel,
        by decide +kernel⟩, by decide +kernel⟩
  · rintro p rfl
    exact ⟨⟨by unfold NextChunk; decide +kernel, by decide +kernel, lone_tColl _ _ _ _ (by decide +kernel), by decide +kernel,
      by decide +kernel⟩, by decide +kernel⟩
  · rintro p n (rfl | rfl) hn r rfl <;> (obtain rfl | rfl : n = 0 ∨ n = 1 := by omega) <;>
      exact ⟨⟨by unfold NextChunk; decide +kernel, by decide +kernel, lone_tColl _ _ _ _ (by decide +kernel), by decide +kernel,
        by decide +kernel⟩, by decide +kernel⟩

/-- A member with a chunk to read; an entry with its own chunk and that of its child. -/
theorem witness_chunksCombined :
    (∀ s, s = tColl tRun 0 (tR (dReduce 1025)) [] → clocked s c34.field = true ∧ crun s c34 31 = some (tR (dReduce 1025)) ∧
      kOp (dReduce 1025) ≤ 2 ∧ kSparse (dReduce 1025) = false ∧ cBase s c34 31 = true ∧ (tR (dReduce 1025)).own = none ∧
      slotOpen s c34 31 (tR (dReduce 1025)) = true ∧ (tR (dReduce 1025)).read < nChunks 5 1025) ∧
    (∀ r, r = { tEdges (dReduce 1) [(0, { CEdge.init with slots := [⟨0, some [1, 0, 0, 0], some [], 7⟩] })] with own := some (0, [2, 0, 0, 0]) } →
      ∀ s, s = tColl tRun 0 r [] → LoneRun s c34 31 r ∧ kOp r.desc ≤ 2 ∧ kSparse r.desc = false ∧ kFmt r.desc = 5 ∧
      r.next < nChunks 5 (kCount r.desc) ∧ inputsReady s c34 31 r r.next = true ∧ ownInput s c34 31 r r.next = some [2, 0, 0, 0] ∧
      (combinePick s c34 31).map (fun x => x.1) = some (cGroup s c34 31) ∧ kRed r.desc = 0 ∧ cRoot s c34 31 = false ∧ (cmb s c34).bad = [] ∧
      (∀ k, k < cNch s c34 31 → ((edgeChunk r k r.next).getD []).length = 4)) := by
  refine ⟨?_, ?_⟩
  · rintro s rfl; decide +kernel
  · rintro r rfl s rfl; exact ⟨lone_tColl _ _ _ _ (by decide +kernel), by decide +kernel⟩

/-- A result of one half to send up; a TOKEN that is due; a down chunk of two halves. -/
theorem witness_chunksSent :
    (∀ r, r = { tEdges (dReduce 1) [(0, { CEdge.init with passed := true }), (7, { CEdge.init with cred := 1 })] with res := [⟨0, [3, 0, 0, 0], 9⟩] } →
      ∀ s, s = tColl tRun 0 r [] → LoneRun s c34 31 r ∧ cRoot s c34 31 = false ∧ r.res = ⟨0, [3, 0, 0, 0], 9⟩ :: [] ∧
      gateOpen s c34 31 r = true ∧ 0 < (r.edge 7).cred ∧ (cmb s c34).bad = []) ∧
    (∀ r, r = { tEdges (dReduce 1) [(0, { CEdge.init with passed := true, tok := some 1, got := 1 }), (7, { CEdge.init with credSeen := true })] with
        next := 1, upSent := 1 } →
      ∀ s, s = tColl tRun 0 r [] → LoneRun s c34 31 r ∧ cRoot s c34 31 = false ∧ upTokDue s c34 31 r = true) ∧
    (∀ r, r = { tEdges (dReduce 1) [(0, { CEdge.init with cred := 1 })] with downs := [⟨0, 0, List.replicate 2049 1, 9, [0], 1, 0⟩] } →
      ∀ s, s = tColl tRun 0 r [] → LoneRun s c34 31 r ∧ cRoot s c34 31 = false ∧ downTokDue r 0 = none ∧
      r.downs.find? (fun y => y.todo.contains 0) = some ⟨0, 0, List.replicate 2049 1, 9, [0], 1, 0⟩ ∧ inCounts r.desc 0 = false ∧
      0 < (r.edge 0).cred ∧ (cmb s c34).bad = [] ∧ (∀ y, y ∈ r.downs → y = ⟨0, 0, List.replicate 2049 1, 9, [0], 1, 0⟩)) := by
  refine ⟨?_, ?_, ?_⟩ <;> (rintro r rfl s rfl; exact ⟨lone_tColl _ _ _ _ (by decide +kernel), by decide +kernel⟩)

/-- A combine unit about to send the last flit of a down chunk of entry 31 that has gone to all its targets. -/
theorem witness_chunkLeaves : ∀ x r z e s, x = ⟨0, 0, [], 9, [], 2, 1⟩ → r = { tR (dReduce 1) with downs := [x] } →
    z = ⟨{ chunkPkt (chunkInl (tEntry tRun 0) c34 31 1 0 0 0 (sigOf (tEntry tRun 0) c34 31 (dReduce 1) 0) r.seq 0 9) 0 [] (downMark 31 0) with
      ctx := none }, true, [9]⟩ → e = EndRef.cmb c34 →
    s = setTxEnd (updLink (tColl tRun 0 r []) e (fun y => { y with st := .up, credits := [0, 0, 0, 0, 1, 0, 0, 0] })) e
      { TxEnd.init with cur := [none, none, some z, none] } →
    LoneRun s c34 31 r ∧ effSt s e = some .up ∧ (link s e).resend = 0 ∧ (link s e).replay.length < 32 ∧ holdsBack s e = false ∧
    (txEnd s e).cur.length = 4 ∧ (unitGrant s e).map (fun y => y.1) = some 2 ∧ lget (txEnd s e).cur 2 none = some z ∧
    hInl z.pkt.hdr 56 32 = r.seq ∧ hInl z.pkt.hdr 88 8 = x.idx := by
  rintro x r z e s rfl rfl rfl rfl rfl
  exact ⟨loneRun_of (y := { CEnt.init with run := some { tR (dReduce 1) with downs := [⟨0, 0, [], 9, [], 2, 1⟩] } }) (by decide +kernel),
    by decide +kernel⟩

/-- A top root without children has counted the values of four tiles, of which two are equal. -/
theorem witness_finder :
    ∀ r, r = { tR dTop with hist := [(5, 1), (16, 2)], next := 1 } →
      ∀ s, s = wr { tColl tRun 16 r [] with mem := [⟨memAddr c34.key 0, 16⟩, ⟨memAddr c34.key 0 + 2, 16⟩, ⟨memAddr c34.key 0 + 3, 5⟩] }
          (cwKey c34 31 0) 0x19 →
      LoneRun s c34 31 r ∧ cRoot s c34 31 = true ∧ inMap r.desc r.ph = true ∧ kMode r.desc = 2 ∧ r.gotMap = none ∧
      upFormed s c34 31 r = true ∧ memRead s c34.key r.ws (kGeo r.desc).nt = [16, 0, 16, 5] ∧
      (∀ v, 0 < v → r.hist.get v 0 = (([16, 0, 16, 5] : List Byte).filter (fun b => b.toNat == v)).length) ∧
      (∀ b, b ∈ ([16, 0, 16, 5] : List Byte) → b.toNat ≤ 0x7C) := by
  rintro r rfl s rfl
  refine ⟨loneRun_of (y := { CEnt.init with run := some { tR dTop with hist := [(5, 1), (16, 2)], next := 1 } }) (by decide +kernel),
    by decide +kernel, by decide +kernel, by decide +kernel, by decide +kernel, by decide +kernel, by decide +kernel, ?_, by decide⟩
  intro v hv
  rcases Nat.lt_or_ge v 17 with h | h
  · exact (show ∀ w, w < 17 → 0 < w → FMap.get [(5, 1), (16, 2)] w 0 =
      (([16, 0, 16, 5] : List Byte).filter (fun b => b.toNat == w)).length by decide +kernel) v h hv
  · have h5 : (5 : Nat) ≠ v := by omega
    have h16 : (16 : Nat) ≠ v := by omega
    have h0 : (0 : Nat) ≠ v := by omega
    show FMap.get [(5, 1), (16, 2)] v 0 = _
    simp [FMap.get, FMap.find, h5, h16, h0]

/-- A member of ALLTOALLV whose counts phase has ended. -/
theorem witness_alltoallv :
    ∀ d r s, d = tDesc [(0, 3), (72, 6), (78, 5), (208, 4)] → r = { tR d with ph := 1, ctx := some 5 } → s = tColl (tD d) 0 r [] →
      LoneRun s c34 31 r ∧ kOp r.desc = 6 ∧ r.ph = 1 ∧ r.a2a = false ∧ r.ctx = some 5 ∧ ctxOf s (.ni c34) 5 = some (tCtx d) := by
  rintro d r s rfl rfl rfl; exact ⟨lone_tColl _ _ _ _ (by decide +kernel), by decide +kernel⟩

/-! ## Witnesses: optical links and time exchange -/

/-- Link 15 of side 3 with its optical part and its link end given, at a cycle of its clock. -/
def tLink (x : Opt) (st : PortSt) (n : Nat) : State :=
  { updLink (updOpt tRun o0 (fun _ => x)) (.optical o0) (fun l => { l with st := st }) with
    boot := tGo, clks := [(51, { Clk.init with cyc := n })] }

/-- A link that is UP. -/
def xUp : Opt := { Opt.init with st := .up, disc := 1, rxSet := 0xFF }

/-- A link that is DOWN with DISABLE clear; a lane that has lost lock, and one over UE_LIMIT. -/
theorem witness_laneTests :
    (clocked (tLink Opt.init .down 0) o0.gw.dom = true ∧ (tLink Opt.init .down 0).boot.optGo = true ∧ (opt (tLink Opt.init .down 0) o0).st = .down ∧
      bit (rd (tLink Opt.init .down 0) (optReg o0 0)) 1 = false) ∧
    (∀ s, s = tLink { xUp with ueRun := [0, 0, 0, 0, 0, 0, 0, 256] } .up 0 → clocked s o0.gw.dom = true ∧ optUpNow s o0 = true ∧
      (opt s o0).rxSet.testBit 7 = true ∧ rdF s (optReg o0 8) 8 8 < lget (opt s o0).ueRun 7 0) := by
  refine ⟨by decide +kernel, ?_⟩
  rintro s rfl; decide +kernel

/-- The message of a lane-test codeword of lane 7, and one of nine IDLE flits. -/
def mLane : BitVec 5140 := BitVec.ofNat 5140 (7 + laneFixed * 2 ^ 16)
def mIdle : BitVec 5140 :=
  BitVec.ofNat 5140 (((List.range 9).map (fun i => (flitWires 0 ⟨0, false, 0, 0, false, 0, 0, false⟩).toNat * 2 ^ (28 + 568 * i))).foldl (· + ·) 0)

/-- The 1,024th right codeword of a lane, and the 1,023rd; a link that is UP. -/
theorem witness_codewords :
    (bits mLane 0 3 = (7 : Fin 8).val ∧ bits mLane 16 5124 = laneFixed ∧ bits mLane 12 4 = 0) ∧
    (∀ n, n = 1022 ∨ n = 1023 → ∀ s, s = tLink { Opt.init with st := .laneTest, laneRun := [0, 0, 0, 0, 0, 0, 0, n] } .down 0 →
      clocked s o0.gw.dom = true ∧ (opt s o0).done = false ∧ (opt s o0).doneTx = 0 ∧ (opt s o0).st = .laneTest ∧
      (opt s o0).laneRun.length = 8 ∧ decide (1023 ≤ lget (opt s o0).laneRun 7 0) = decide (n = 1023) ∧
      (rdF s (optReg o0 8) 0 8).testBit 7 = false ∧ (opt s o0).rxgood.testBit 7 = false) ∧
    (∀ s, s = tLink xUp .up 0 → clocked s o0.gw.dom = true ∧ (opt s o0).st = .up ∧ (opt s o0).done = false ∧ (opt s o0).doneTx = 0 ∧
      (link s (.optical o0)).stale = none ∧ bit mIdle 27 = false ∧ ackPos (link s (.optical o0)) 4096 (bits mIdle 15 12) = some 0 ∧
      bit (rd s (warmBase (.gw o0) + 12)) 8 = false ∧ (opt s o0).behind.find 3 = none) ∧
    (∀ i, i < 9 → ∃ k, (decodeFlit (cwFlit mIdle i)).ctl = some k ∧ k.ty = 0 ∧ (decodeFlit (cwFlit mIdle i)).crcErr = false ∧
      (decodeFlit (cwFlit mIdle i)).bchUe = false) := by
  refine ⟨by decide +kernel, ?_, ?_, ?_⟩
  · rintro n (rfl | rfl) s rfl <;> decide +kernel
  · rintro s rfl; decide +kernel
  · have h : ∀ i, i < 9 → cwFlit mIdle i = flitWires 0 ⟨0, false, 0, 0, false, 0, 0, false⟩ := by decide +kernel
    have hd : decodeFlit (flitWires 0 ⟨0, false, 0, 0, false, 0, 0, false⟩) =
        ⟨some ⟨0, false, 0, 0, false, 0, 0, false⟩, false, 0, false, false, false⟩ := by decide +kernel
    intro i hi
    rw [h i hi, hd]
    exact ⟨_, rfl, rfl, rfl, rfl⟩

/-- A header flit on the last VC of the ingress, with DEST given. -/
def tIngress (dest : Nat) : State :=
  updLink (tLink { xUp with ingress := List.replicate 7 ⟨[], none⟩ ++ [⟨[⟨tHdr [(0, 1), (4, 1), (152, dest)], true, true, true, 0⟩], none⟩] } .up 0)
    (.gw o0.gw 0) (fun l => { l with credits := [1, 1, 1, 1, 1, 1, 1, 1] })

/-- A packet that names the port, one that names another, and one for wafer 5. -/
theorem witness_ingress :
    (∀ d, d = waferLocal * 2 ^ 56 + (0xF4 + 3) * 2 ^ 48 + 15 * 2 ^ 40 ∨ d = waferLocal * 2 ^ 56 + (0xF4 + 3) * 2 ^ 48 + 14 * 2 ^ 40 ∨ d = 5 * 2 ^ 56 →
      clocked (tIngress d) o0.gw.dom = true ∧ (opt (tIngress d) o0).ingress.length = 8 ∧
      (∀ w, w < 7 → (lget (opt (tIngress d) o0).ingress w ⟨[], none⟩).buf = []) ∧
      lget (opt (tIngress d) o0).ingress 7 ⟨[], none⟩ = ⟨⟨tHdr [(0, 1), (4, 1), (152, d)], true, true, true, 0⟩ :: [], none⟩ ∧
      (meterTake (tIngress d) o0.gw 1 0 1).2 = .forward ∧ hCmd (tHdr [(0, 1), (4, 1), (152, d)]) = 1 ∧ hNdu (tHdr [(0, 1), (4, 1), (152, d)]) = 0 ∧
      hCls (tHdr [(0, 1), (4, 1), (152, d)]) = 1 ∧ decide (hDw (tHdr [(0, 1), (4, 1), (152, d)]) = waferLocal) = decide (d ≠ 5 * 2 ^ 56)) ∧
    namesLink o0 (tHdr [(152, waferLocal * 2 ^ 56 + (0xF4 + 3) * 2 ^ 48 + 15 * 2 ^ 40)]) = true ∧
    namesLink o0 (tHdr [(152, waferLocal * 2 ^ 56 + (0xF4 + 3) * 2 ^ 48 + 14 * 2 ^ 40)]) = false ∧
    ingressCell (tIngress (5 * 2 ^ 56)) o0 1 = some 0 := by
  refine ⟨?_, by decide +kernel, by decide +kernel, by decide +kernel⟩
  rintro d (rfl | rfl | rfl) <;> decide +kernel

/-- A probe due at its interval; one without an answer for 1 ms; DISC_TMO that has passed; a lane test at the end of its time. -/
theorem witness_admission :
    (∀ s, s = tLink { xUp with probeAt := some 0 } .up 24000 → clocked s o0.gw.dom = true ∧ (opt s o0).disc = 1 ∧ optUpNow s o0 = true ∧
      (opt s o0).probe = false ∧ (opt s o0).probeAt = some 0 ∧ 0 + (if (opt s o0).admits then 240000 else 24000) ≤ optCyc s o0) ∧
    (∀ k, k = 5 ∨ k = 6 → ∀ s, s = tLink { xUp with probe := true, probeAt := some 0, outcome := k } .up 2400000 → (opt s o0).disc = 1 ∧
      (opt s o0).probe = true ∧ (opt s o0).probeAt = some 0 ∧ 0 + 2400000 ≤ optCyc s o0 ∧ (opt s o0).outcome = k ∧ (opt s o0).lost = false) ∧
    (∀ s, s = tLink Opt.init .down 240000000 → clocked s o0.gw.dom = true ∧ (opt s o0).waited = false ∧ (opt s o0).discBy ≤ optCyc s o0 ∧
      (opt s o0).disc = 0 ∧ (opt s o0).outcome ≠ 6) ∧
    (∀ s b, s = tLink { Opt.init with st := .laneTest, holdBy := 60, lost := b } .down 60 → clocked s o0.gw.dom = true ∧
      (opt s o0).st = .laneTest ∧ (opt s o0).held = false ∧ (opt s o0).holdBy ≤ optCyc s o0 ∧ (opt s o0).lost = b) := by
  refine ⟨?_, ?_, ?_, ?_⟩
  · rintro s rfl; decide +kernel
  · rintro k (rfl | rfl) s rfl <;> decide +kernel
  · rintro s rfl; decide +kernel
  · rintro s b rfl; revert b; decide +kernel

/-- A TIME packet, a RSP where `op` is 1, with t2 and t3, that arrived at t. -/
def tTime (op t2 t3 t : Nat) : RxPkt :=
  { tPkt [(0, 10), (4, 1), (14, 16), (384, op), (392, 7), (400, t2), (456, t3)] with port := linkPort, t := t }

/-- A link with an exchange in flight, and a TIME packet in its hands. -/
def tExch (x : Exch) (p : RxPkt) (n : Nat) : State := updUnit (tLink { xUp with exch := some x } .up n) (.gw o0.gw) (fun y => { y with inbox := [p] })

/-- The exchange 7, as it began at cycle 0. -/
def xch : Exch := ⟨7, 0, false, 0, true, false⟩

theorem takeTime_of {s : State} {b : Bool} {p : RxPkt} (h : (takeTime s o0 b).map (fun x => x.1) = some p) :
    ∃ s1, takeTime s o0 b = some (p, s1) := by
  obtain ⟨y, hy, rfl⟩ := Option.map_eq_some_iff.mp h
  exact ⟨y.2, hy⟩

/-- An exchange that may start; a REQ; a RSP that belongs to the exchange, with the greatest offset kept and the two nearest
beyond the range, one of another exchange and one of a spoiled one; an exchange at the end of its time. -/
theorem witness_timeExchange :
    (∀ s, s = wr (tLink xUp .up 24000) (optReg o0 0x60) 1 → clocked s o0.gw.dom = true ∧ bit (rd s (optReg o0 0x60)) 0 = true ∧
      (opt s o0).disc = 1 ∧ optState s o0 = 3 ∧ (opt s o0).exch = none ∧
      (∀ a, (opt s o0).exchAt = some a → a + max 10 (rdF s (optReg o0 0x60) 8 16) * 2400 ≤ optCyc s o0)) ∧
    ((∃ s1, takeTime (tExch xch (tTime 0 0 0 5) 0) o0 false = some (tTime 0 0 0 5, s1)) ∧ timeBad (tTime 0 0 0 5) = false) ∧
    (∀ d h, (d = 2 ^ 48 - 2 ∧ h = (2 : Int) ^ 47 - 1) ∨ (d = 2 ^ 48 ∧ h = 2 ^ 47) ∨ (d = 2 ^ 56 - 2 ^ 48 - 2 ∧ h = -2 ^ 47 - 1) →
      ∀ s, s = tExch xch (tTime 1 d 0 0) 0 → clocked s o0.gw.dom = true ∧ (∃ s1, takeTime s o0 true = some (tTime 1 d 0 0, s1)) ∧
        timeBad (tTime 1 d 0 0) = false ∧ (opt s o0).exch = some xch ∧ xch.spoiled = false ∧ hInl (tTime 1 d 0 0).hdr 8 8 = xch.xseq ∧
        toSigned 57 (ofSigned 57 (toSigned 56 (hInl (tTime 1 d 0 0).hdr 16 56 + 2 ^ 56 - xch.t1) -
          toSigned 56 ((tTime 1 d 0 0).t + 2 ^ 56 - hInl (tTime 1 d 0 0).hdr 72 56))) - toSigned 32 (rd s (optReg o0 0x64)).toNat = 2 * h) ∧
    (∀ x, x = { xch with xseq := 6 } ∨ x = { xch with spoiled := true } → ∀ s, s = tExch x (tTime 1 0 0 0) 240000 →
      clocked s o0.gw.dom = true ∧ (∃ s1, takeTime s o0 true = some (tTime 1 0 0 0, s1)) ∧ (opt s o0).exch = some x ∧
      (x.spoiled = true ∨ hInl (tTime 1 0 0 0).hdr 8 8 ≠ x.xseq) ∧ x.since + 240000 ≤ optCyc s o0) := by
  refine ⟨?_, ⟨takeTime_of (by decide +kernel), by decide +kernel⟩, ?_, ?_⟩
  · rintro s rfl
    exact ⟨by decide +kernel, by decide +kernel, by decide +kernel, by decide +kernel, by decide +kernel, fun a h => nomatch h⟩
  · rintro d h (⟨rfl, rfl⟩ | ⟨rfl, rfl⟩ | ⟨rfl, rfl⟩) s rfl <;>
      exact ⟨by decide +kernel, takeTime_of (by decide +kernel), by decide +kernel⟩
  · rintro x (rfl | rfl) s rfl <;> exact ⟨by decide +kernel, takeTime_of (by decide +kernel), by decide +kernel⟩

/-! ## Tests of single operations and steps against the examples of the spec -/

/-- R173: the check value of the ASCII bytes "123456789". -/
theorem test_crc32c : crc32c ([0x31, 0x32, 0x33, 0x34, 0x35, 0x36, 0x37, 0x38, 0x39] : List Byte) = 0xE3069283 := by decide +kernel

/-- 01_wafer_plan.md:146: ringpos(5) = 237 and ringpos(200) = 100. -/
theorem test_ringpos : ringpos 5 = 237 ∧ ringpos 200 = 100 := by decide

/-- R26's example: writing 0x0000_1419 to CELL_REMAP_LOOKUP_IN of field 13 reads 0x0000_161A. -/
theorem test_remapLookup : (match exec (.remapLookup (.mgmt 0) 13 0x1419) tLookup with
    | .next t => regValue t (fieldReg 13 0 0x14)
    | _ => 0) = 0x161A := by decide +kernel

/-- 03_packets_routes.md:129: E then S, N then E, W then S, N then S. -/
theorem test_pathOrder :
    (ctlLegal [⟨1, 1⟩, ⟨2, 1⟩] = true ∧ bulkLegal [⟨1, 1⟩, ⟨2, 1⟩] = true) ∧ (ctlLegal [⟨0, 1⟩, ⟨1, 1⟩] = true ∧ bulkLegal [⟨0, 1⟩, ⟨1, 1⟩] = false) ∧
    (ctlLegal [⟨3, 1⟩, ⟨2, 1⟩] = false ∧ bulkLegal [⟨3, 1⟩, ⟨2, 1⟩] = true) ∧
    (ctlLegal [⟨0, 1⟩, ⟨2, 1⟩] = false ∧ bulkLegal [⟨0, 1⟩, ⟨2, 1⟩] = false) := by decide

/-- R187's example: 1.0 and two children of 2^-8 give 1.0; the children first would give 1.0078125. -/
theorem test_bf16Sum : elemOp 1 0 (elemOp 1 0 0x3F80 0x3B80) 0x3B80 = 0x3F80 ∧ elemOp 1 0 0x3F80 (elemOp 1 0 0x3B80 0x3B80) = 0x3F81 := by
  decide +kernel

/-- 07_sparse_finder.md:264: 1.0 and two estimates of 0.125, in E5M2. -/
theorem test_finderSum : elemOp 4 0 (elemOp 4 0 0x3C 0x30) 0x30 = 0x3C := by decide +kernel

/-- R191's example: two blocks of scales 130 and 128. -/
theorem test_b8Sum : B8.sum ⟨[100, -3, 64, 127], 130⟩ ⟨[100, 5, -7, 127], 128⟩ = (⟨[62, -1, 31, 79], 131⟩, false) := by decide +kernel

/-- R183's example: elements 512 to 1,535 of FP32 meet chunks 0 and 1, not 2. -/
theorem test_gatherChunks : touches 0 0 (512, 1024) = true ∧ touches 0 1 (512, 1024) = true ∧ touches 0 2 (512, 1024) = false := by decide

/-- 05_flow_shaping.md:185: P1 finds 192 and 320 bytes and is green; a packet that finds the green bucket short is yellow, the
other one short red; a SIGNAL is not demoted. -/
theorem test_meter : meterColour ⟨true, 192 * 65536, 320 * 65536⟩ (64 * 65536) = 0 ∧ meterColour ⟨true, 64 * 65536 - 1, 64 * 65536⟩ (64 * 65536) = 1 ∧
    meterColour ⟨true, 64 * 65536, 64 * 65536 - 1⟩ (64 * 65536) = 2 ∧ meterAct 1 0 1 = (.demote, false) ∧ meterAct 1 4 1 = (.forward, true) := by
  decide

/-- 09_edge_gateways.md:47: port 5 of the S band lies at x = 104 to 119, y = 0. -/
theorem test_memoryCells : attCell (.mem 2 5) 0 = ⟨104, 0⟩ ∧ attCell (.mem 2 5) 15 = ⟨119, 0⟩ := by decide

/-- The NI of a cell with a NOP to start, and its completion ring of 16 entries at 0x9000 with CPI = CCI. -/
def tNop (cpi : Word) : State :=
  updUnit (wr (tD 0) (cqReg (.ni c34) 0 0) 0x9000) (.ni c34) (fun x => { x with cq := [(0, ⟨.running, cpi, cpi⟩)] })

/-- R236's example: the entry of count 0xFFFF_FFFE goes to 0x90E0 with PHASE 0, that of count 0 to 0x9000 with PHASE 1. -/
theorem test_phase :
    (∀ n a b, (n = (0xFFFFFFFE : Word) ∧ a = 0x90E0 ∧ b = (0 : Byte)) ∨ (n = 0 ∧ a = 0x9000 ∧ b = 0x80) →
      (match exec (.nop (.ni c34) 0) (tNop n) with
       | .next t => (cqOf t (.ni c34) 0).cpi == n + 1 && memGet t.mem (memAddr c34.key (a + 15)) == b
       | _ => false) = true) := by
  rintro n a b (⟨rfl, rfl, rfl⟩ | ⟨rfl, rfl, rfl⟩) <;> decide +kernel

/-- R234's example: with CI = 2, a doorbell of 0x13 makes 17 pending in a ring of 16 entries and sets DB_ERR. -/
theorem test_doorbell : (match exec (.sqDoorbell (.mgmt 0) (.ni c34) 2 0x13) (tSq (.ni c34) 2 2 2) with
    | .next t => bit (rd t (sqReg (.ni c34) 2 5)) 4
    | _ => false) = true := by decide +kernel

/-- R279: there is no address beyond BAR0's 64 KB. -/
theorem test_beyondBar0 : exec (.barAccess 0 false 65536 false true false 0) tRun = .fault .outsideBar := rfl

/-- R219: at an entry in a map phase a DATA chunk of a data phase differs in RED; R196: at one in a data phase a chunk of a map
phase differs first in FMT; R197: an ABORT of a neighbour still in the map phase is taken with its cause; R195: an ABORT of
another operation is compared like any chunk. -/
theorem test_abort_compared :
    runDiff (tEntry tRun 0) c34 31 dTop 0 0 (sigOf (tEntry tRun 0) c34 31 dTop 1) = some 3 ∧
    runDiff (tEntry tRun 0) c34 31 dTop 1 0 (sigOf (tEntry tRun 0) c34 31 dTop 0) = some 2 ∧
    runDiff (tEntry tRun 0) c34 31 dTop 1 2 (sigOf (tEntry tRun 0) c34 31 dTop 0) = none ∧
    runDiff (tEntry tRun 0) c34 31 dTop 1 2 (tSig7 dTop) = some 1 := by decide +kernel

end Sys2Proof.Tests
end

/-! # Reset, and what no command changes

`State.reset` field by field; and, for every command, that it leaves the queue, the fuses and ACLK. The frames of the
operations (Sys2Proof/Laws) are put together to one frame of `exec`, from which that follows. -/

namespace Sys2Proof.Machine

/-- Settles O3: every table of the reset state is empty, so that each read answers the unit's reset value. -/
theorem resetForm : Obligations.ResetForm :=
  ⟨fun _ => rfl, fun _ => rfl, rfl, rfl, rfl, Nat.zero_le _, Nat.zero_le _⟩

/-! ## The frame of every command -/

/-- The parts of the state that a command may change; VERIFY_DONE, beyond them, may raise the debug level (R409). -/
def commandParts : List Part :=
  [.mem, .regs, .links, .routers, .units, .rx, .tx, .cmbs, .gws, .doms, .clks, .mer, .flt, .tel, .sec, .boot, .tap, .held,
    .resp, .bar, .warm, .mirror, .errAt, .wakePin, .freeCtr]

/-- The next state of an outcome, if it has one, has changed in no more than a list of parts. -/
def Leaves (m : List Part) (s : State) (o : Host.Outcome State Fault Refusal) : Prop :=
  ∀ t, o = .next t → Touches m s t

theorem Leaves.next {m : List Part} {s t : State} (h : Touches m s t) : Leaves m s (.next t) :=
  fun _ e => Host.Outcome.next.inj e ▸ h

theorem Leaves.fault {m : List Part} {s : State} (f : Fault) : Leaves m s (.fault f) :=
  fun _ e => nomatch e

theorem Leaves.ite {m : List Part} {s : State} {c : Prop} [Decidable c] {a b : Host.Outcome State Fault Refusal}
    (ha : Leaves m s a) (hb : Leaves m s b) : Leaves m s (if c then a else b) := by
  split
  · exact ha
  · exact hb

theorem within {l m : List Part} (hm : commandParts ⊆ m) (h : l ⊆ commandParts := by decide) : l ⊆ m :=
  List.Subset.trans h hm

section
variable {m : List Part} {s : State} (hm : commandParts ⊆ m)
include hm

/-- An operation that every packet of a kind starts leaves what each of its runs leaves. -/
theorem onCmd_leaves (u : UnitRef) (cmd : Nat) {f : State → RxPkt → State}
    (hf : ∀ t p, Touches m s t → Touches m s (f t p)) : Leaves m s (.next (onCmd s u cmd f)) :=
  .next (onCmd_touches _ _ _ (within hm) (.refl m s) hf)

theorem execWrite_leaves (u : UnitRef) (ecc : Ecc) : Leaves m s (execWrite u ecc s) := by
  cases u with
  | ni c => exact onCmd_leaves hm _ _ fun _ _ h => niWrite_touches _ _ _ (within hm) h
  | gw g => exact onCmd_leaves hm _ _ fun _ _ h => gwWrite_touches _ _ (within hm) h

/-- R82: an operation that a unit starts for a request unless the request is malformed. -/
theorem unlessMalformed_touches {b : Bool} {t t' : State} (u : UnitRef) (p : RxPkt) (h : Touches m s t)
    (hf : Touches m s t') : Touches m s (if b then takeMalformed t u p else t') :=
  .ite (fun _ => takeMalformed_touches _ _ (within hm) h) fun _ => hf

theorem execReadReq_leaves (u : UnitRef) : Leaves m s (execReadReq u s) := by
  rcases u with c | ⟨sd, i⟩ | ⟨sd, i⟩ | ⟨sd, i⟩
  · exact onCmd_leaves hm _ _ fun _ _ h => unlessMalformed_touches hm _ _ h
      (.ite (fun _ => pushResp_touches _ _ (within hm) h)
        fun _ => pushResp_touches _ _ (within hm) (cntUp_touches _ _ _ _ (within hm) h))
  · exact onCmd_leaves hm _ _ fun _ _ h => unlessMalformed_touches hm _ _ h (gwRequest_touches _ _ _ (within hm) h)
  · exact onCmd_leaves hm _ _ fun _ _ h => optRead_touches _ _ (within hm) h
  · exact onCmd_leaves hm _ _ fun _ _ h => unlessMalformed_touches hm _ _ h (gwRequest_touches _ _ _ (within hm) h)

theorem execSignal_leaves (u : UnitRef) (ecc : Ecc) : Leaves m s (execSignal u ecc s) := by
  cases u with
  | ni c => exact onCmd_leaves hm _ _ fun _ _ h => niWrite_touches _ _ _ (within hm) h
  | gw g => exact onCmd_leaves hm _ _ fun _ _ h => takeMalformed_touches _ _ (within hm) h

theorem execStreamReq_leaves (u : UnitRef) (ecc : Ecc) : Leaves m s (execStreamReq u ecc s) := by
  cases u with
  | ni c => exact onCmd_leaves hm _ _ fun _ _ h => unlessMalformed_touches hm _ _ h (streamReq_touches _ _ _ (within hm) h)
  | gw g => exact onCmd_leaves hm _ _ fun _ _ h => takeMalformed_touches _ _ (within hm) h

theorem execStreamRel_leaves (u : UnitRef) (ecc : Ecc) : Leaves m s (execStreamRel u ecc s) := by
  cases u with
  | ni c => exact onCmd_leaves hm _ _ fun _ _ h => unlessMalformed_touches hm _ _ h (streamRel_touches _ _ _ (within hm) h)
  | gw g => exact onCmd_leaves hm _ _ fun _ _ h => takeMalformed_touches _ _ (within hm) h

theorem execCircuit_leaves (u : UnitRef) : Leaves m s (execCircuit u s) := by
  cases u with
  | ni c => exact onCmd_leaves hm _ _ fun _ _ h => unlessMalformed_touches hm _ _ h (circuitNotice_touches _ _ (within hm) h)
  | gw g => exact onCmd_leaves hm _ _ fun _ _ h => takeMalformed_touches _ _ (within hm) h

theorem execReadData_leaves (u : UnitRef) : Leaves m s (execReadData u s) := by
  have rsp : ∀ u, Leaves m s (.next (onRsp s u 2 (fun s p tag e => readDataTake s u p tag e))) := fun u =>
    .next (onRsp_touches _ _ _ (within hm) (.refl m s) fun _ _ _ _ h => readDataTake_touches _ _ _ _ (within hm) h)
  rcases u with c | ⟨sd, i⟩ | ⟨sd, i⟩ | ⟨sd, i⟩
  · exact rsp _
  · exact rsp _
  · exact .next (.ite (fun _ => probeAnswer_touches _ (within hm) (.refl m s)) fun _ => .refl m s)
  · exact rsp _

theorem execQuarantineEnd_leaves (u : UnitRef) (tag : Fin 1024) : Leaves m s (execQuarantineEnd u tag s) := by
  refine .next ?_
  split
  · exact .refl m s
  · exact .ite (fun _ => updUnit_touches _ _ (within hm) (.refl m s)) fun _ => .refl m s

theorem execHostWriteAccepted_leaves (h : Fin 8) : Leaves m s (execHostWriteAccepted h s) := by
  refine .next ?_
  split
  · exact .refl m s
  next hq =>
    exact pushResp_touches _ _ (within hm) (placeAll_touches _ _ (within hm)
      (takeReq_touches_eq _ _ hq (within hm) (.refl m s)))

theorem execBarAccess_leaves (h : Fin 8) (bar2 : Bool) (off : BitVec 18) (wr full atomic : Bool) (v : Word) :
    Leaves m s (execBarAccess h bar2 off wr full atomic v s) :=
  .ite (.fault _) (.ite (.next (answer_touches _ _ _ _ (within hm) (.refl m s)))
    (.ite (.next (.refl m s)) (.next (request_touches _ (within hm) (.refl m s)))))

/-- A descriptor's command leaves what the run of its opcode leaves. -/
theorem startOp_leaves (u : UnitRef) (r op : Nat) {run : State → Nat → Ctx → State}
    (hrun : ∀ t id x, Touches m s t → Touches m s (run t id x)) : Leaves m s (.next (startOp s u r op run)) :=
  .next (startOp_touches _ _ _ _ (within hm) (.refl m s) hrun)

/-- The accesses held until a domain runs, served after a change (R363, R366). -/
theorem serveHeld_leaves {t : State} (h : Touches m s t) : Leaves m s (.next (serveHeld t)) :=
  .next (serveHeld_touches (within hm) h)

/-- Everything but the parts listed stays, whatever the command. -/
theorem exec_leaves (c : Instr) (hv : c = .verifyDone → .levelRise ∈ m) : Leaves m s (exec c s) := by
  cases c with
  | registerWrite | remapLookup | waferIdWrite | portRetrain | routePathWrite | epochSwitch | cellEpochWrite
  | portEnableWrite | lastFlush | warmArm | warmCancel | cellHwmClear | niHwmClr | cmbEntryLoad | cmbSwAbort
  | cmbLostWafer | mailboxCommit | memSizeWrite | optRetrain | optDisable | optExpectWrite | niOffwLost | merAdjWrite
  | merSet | merStep | merSnap | tsqPop | clkRelock | powerDown | powerDeepen | powerUp | forceOff | logReadCount
  | faultInjectGo | snapshotGo | debugVerify | debugRelock | hostGrantWrite | optGo | broadcastWrite =>
    exact .next (writeBy_touches _ _ _ (within hm) (.refl m s))
  | rcFieldRead | mailboxReceive | optTimeStatRead | logSlotRead => exact .next (readBy_touches _ _ (within hm) (.refl m s))
  | sqDoorbell | cqDoorbell | ringEnable | ringDisable | ringAbort =>
    exact .next (ringBy_touches _ _ _ _ _ _ (within hm) (.refl m s))
  | localPortAccess | wakeConfig | debugRequest => exact .next (request_touches _ (within hm) (.refl m s))
  | dataChunk | creditChunk | abortChunk | tokenChunk | mapChunk =>
    exact .next (takeChunk_touches _ _ _ (within hm) (.refl m s))
  | tapSecAccess | tapCfgAccess => exact .next (tapScan_touches _ _ (within hm) (.refl m s))
  | flitReceive => exact .next (flitReceive_touches _ _ (within hm) (.refl m s))
  | nakTimeout => exact .next (nakTimeout_touches _ (within hm) (.refl m s))
  | ackTimeout => exact .next (ackTimeout_touches _ (within hm) (.refl m s))
  | headerAllocate => exact .next (headerAllocate_touches _ _ _ (within hm) (.refl m s))
  | flitSend => exact .next (sendAny_touches _ _ (within hm) (.refl m s))
  | portPeerDown => exact .next (portPeerDown_touches _ _ (within hm) (.refl m s))
  | trainFlitReceive => exact .next (trainFlitReceive_touches _ _ (within hm) (.refl m s))
  | streamRelSend => exact .next (streamRelSend_touches _ _ (within hm) (.refl m s))
  | portDisableApply => exact .next (portDisableApply_touches _ _ (within hm) (.refl m s))
  | weltFlitReceive => exact .next (weltFlitReceive_touches _ _ (within hm) (.refl m s))
  | weltFlitSend => exact .next (weltFlitSend_touches _ (within hm) (.refl m s))
  | weltSwap => exact .next (weltSwap_touches _ (within hm) (.refl m s))
  | circuitOpenTime => exact .next (circuitOpenTime_touches _ _ (within hm) (.refl m s))
  | circuitCloseSend => exact .next (circuitCloseSend_touches _ _ (within hm) (.refl m s))
  | shaperRefill => exact .next (shaperRefill_touches _ (within hm) (.refl m s))
  | meterUpdate => exact .next (meterUpdate_touches _ (within hm) (.refl m s))
  | chunkRead => exact .next (chunkRead_touches _ _ (within hm) (.refl m s))
  | chunkCombine => exact .next (chunkCombine_touches _ _ _ (within hm) (.refl m s))
  | chunkSend => exact .next (chunkSend_touches _ _ _ _ (within hm) (.refl m s))
  | progressTimeout => exact .next (progressTimeout_touches _ _ (within hm) (.refl m s))
  | finderTopPass => exact .next (finderPass_touches _ _ (within hm) (.refl m s))
  | alltoallvWrites => exact .next (a2aWrites_touches _ _ (within hm) (.refl m s))
  | packedHeaderWrite => exact .next (packedHeaderWrite_touches _ _ (within hm) (.refl m s))
  | descriptorFetch => exact .next (descriptorFetch_touches _ _ (within hm) (.refl m s))
  | completionWriteFail => exact .next (completionWriteFail_touches _ _ (within hm) (.refl m s))
  | waitTimeReached => exact .next (waitReached_touches _ _ (within hm) (.refl m s))
  | pcieLinkChange => exact .next (pcieLinkChange_touches _ _ (within hm) (.refl m s))
  | functionLevelReset => exact .next (flr_touches _ (within hm) (.refl m s))
  | codewordReceive => exact .next (codewordReceive_touches _ _ (within hm) (.refl m s))
  | laneTestStart => exact .next (laneTestStart_touches _ _ (within hm) (.refl m s))
  | laneFault => exact .next (laneFault_touches _ _ _ _ (within hm) (.refl m s))
  | opticalIngress => exact .next (opticalIngress_touches _ (within hm) (.refl m s))
  | admissionProbe => exact .next (admissionProbe_touches _ (within hm) (.refl m s))
  | probeTimeout => exact .next (probeTimeout_touches _ (within hm) (.refl m s))
  | discoveryTimeout => exact .next (discoveryTimeout_touches _ (within hm) (.refl m s))
  | holdTimeout => exact .next (holdTimeout_touches _ (within hm) (.refl m s))
  | holdoverExpire => exact .next (holdoverExpire_touches (within hm) (.refl m s))
  | mclkLost | pllCoast => exact .next (loseRef_touches _ (within hm) (.refl m s))
  | timestampCapture => exact .next (timestampCapture_touches _ _ (within hm) (.refl m s))
  | ppsOutPulse => exact .next (ppsOutPulse_touches (within hm) (.refl m s))
  | ppsPulseEnd => exact .next (ppsPulseEnd_touches (within hm) (.refl m s))
  | timePulse => exact .next (timePulse_touches (within hm) (.refl m s))
  | pulseMissing => exact .next (pulseMissing_touches _ (within hm) (.refl m s))
  | timeExchangeStart => exact .next (timeExchangeStart_touches _ (within hm) (.refl m s))
  | timeReq => exact .next (timeReq_touches _ (within hm) (.refl m s))
  | timeRsp => exact .next (timeRsp_touches _ (within hm) (.refl m s))
  | exchangeTimeout => exact .next (exchangeTimeout_touches _ (within hm) (.refl m s))
  | pllRelocked => exact .next (pllRelocked_touches _ (within hm) (.refl m s))
  | quiesceEnd => exact .next (quiesceEnd_touches _ (within hm) (.refl m s))
  | wakePacket => exact .next (wakePacket_touches _ (within hm) (.refl m s))
  | wakeIn => exact .next (wakeIn_touches _ (within hm) (.refl m s))
  | wakeTimer => exact .next (wakeTimer_touches (within hm) (.refl m s))
  | errorPinRise => exact .next (errorPinRise_touches _ _ _ (within hm) (.refl m s))
  | reportAccept => exact .next (reportAccept_touches _ (within hm) (.refl m s))
  | logWrite => exact .next (logWrite_touches (within hm) (.refl m s))
  | faultInjectFire => exact .next (injectFire_touches (within hm) (.refl m s))
  | snapshotCopy => exact .next (snapshotCopy_touches _ (within hm) (.refl m s))
  | snapshotBusyEnd => exact .next (snapshotBusyEnd_touches (within hm) (.refl m s))
  | challengeReady => exact .next (challengeReady_touches (within hm) (.refl m s))
  | challengeExpire => exact .next (challengeExpire_touches (within hm) (.refl m s))
  | lockoutEnd => exact .next (lockoutEnd_touches (within hm) (.refl m s))
  | powerOn => exact .next (powerOn_touches _ (within hm) (.refl m s))
  | clkMeasWindow => exact .next (clkMeasWindow_touches _ _ (within hm) (.refl m s))
  | write => exact execWrite_leaves hm _ _
  | readReq => exact execReadReq_leaves hm _
  | signal => exact execSignal_leaves hm _ _
  | streamReq => exact execStreamReq_leaves hm _ _
  | streamRel => exact execStreamRel_leaves hm _ _
  | circuit => exact execCircuit_leaves hm _
  | readData => exact execReadData_leaves hm _
  | quarantineEnd => exact execQuarantineEnd_leaves hm _ _
  | hostWriteAccepted => exact execHostWriteAccepted_leaves hm _
  | barAccess => exact execBarAccess_leaves hm _ _ _ _ _ _ _
  | streamRsp =>
    exact .next (onRsp_touches _ _ _ (within hm) (.refl m s) fun _ _ _ _ h => streamRspTake_touches _ _ _ _ (within hm) h)
  | ack =>
    exact .next (sweepUnit_touches _ (within hm)
      (onRsp_touches _ _ _ (within hm) (.refl m s) fun _ _ _ _ h => ackTake_touches _ _ _ _ (within hm) h))
  | packetInject => exact .next (sweepUnit_touches _ (within hm) (packetInject_touches _ (within hm) (.refl m s)))
  | responseTimeout => exact .next (sweepUnit_touches _ (within hm) (responseTimeout_touches _ _ (within hm) (.refl m s)))
  | circuitOpen => exact startOp_leaves hm _ _ _ fun _ _ _ h => runCircuitOpen_touches _ _ _ (within hm) h
  | circuitClose => exact startOp_leaves hm _ _ _ fun _ _ _ h => runCircuitClose_touches _ _ _ (within hm) h
  | copySparse => exact startOp_leaves hm _ _ _ fun _ _ _ h => runSparse_touches _ _ _ (within hm) h
  | nop => exact startOp_leaves hm _ _ _ fun _ _ _ h => runWith_touches _ _ _ (within hm) h
  | copy => exact startOp_leaves hm _ _ _ fun _ _ _ h => runCopy_touches _ _ _ (within hm) h
  | fence => exact startOp_leaves hm _ _ _ fun _ _ _ h => runFence_touches _ _ _ (within hm) h
  | signalDescriptor => exact startOp_leaves hm _ _ _ fun _ _ _ h => runSignal_touches _ _ _ (within hm) h
  | waitTime => exact startOp_leaves hm _ _ _ fun _ _ _ h => runWaitTime_touches _ _ _ (within hm) h
  | streamOpen =>
    exact .next (startStream_touches _ _ _ _ (within hm) (.refl m s) fun _ _ _ _ h => runStreamOpen_touches _ _ _ (within hm) h)
  | streamRelease =>
    exact .next (startStream_touches _ _ _ _ (within hm) (.refl m s) fun _ _ _ _ h => runStreamRelease_touches _ _ _ (within hm) h)
  | coll =>
    exact .next (.ite (fun _ => startOp_touches _ _ _ _ (within hm) (.refl m s) fun _ _ _ h => runColl_touches _ _ _ (within hm) h)
      fun _ => .refl m s)
  | memWriteCommit => exact .next (memCommit_touches _ _ (within hm) (countRefused_touches _ _ (within hm) (.refl m s)))
  | memReadDone =>
    exact .next (readDone_touches _ _ _ (within hm) (countRefused_touches _ _ (within hm) (.refl m s)) fun _ h =>
      setBits_touches _ _ (within hm) (cntUp_touches _ _ _ _ (within hm) h))
  | hostReadDone => exact .next (hostRead_touches _ _ (within hm) (.refl m s))
  | closeEnd => exact serveHeld_leaves hm (closeEnd_touches _ (within hm) (.refl m s))
  | gateEnd => exact serveHeld_leaves hm (gateEnd_touches _ (within hm) (.refl m s))
  | drainTimeout => exact serveHeld_leaves hm (drainTimeout_touches _ (within hm) (.refl m s))
  | wakeDone => exact serveHeld_leaves hm (wakeDone_touches _ (within hm) (.refl m s))
  | resetExit => exact serveHeld_leaves hm (resetExit_touches _ (within hm) (.refl m s))
  | verifyDone =>
    have hl : [.regs, .doms, .sec, .levelRise] ⊆ m := by simpa using ⟨hm (by decide), hm (by decide), hm (by decide), hv rfl⟩
    exact serveHeld_leaves hm (verifyDone_touches hl (.refl m s))
  | tapReset | tapIrUpdate => exact .next ((Touches.refl m s).set_tap _ (within hm))
  | configTimeout => exact .next (timeoutAcc_touches _ _ _ (within hm) (.refl m s))
  | configNetworkError => exact .next (networkAcc_touches _ _ _ _ (within hm) (.refl m s))
  | pllReferenceReturn => exact .next (.ite (fun _ => setClk_touches _ _ (within hm) (.refl m s)) fun _ => .refl m s)
  | memStackReady => exact .next (updGw_touches _ _ (within hm) (.refl m s))

end

/-- Settles O7: the queue, the fuses and ACLK are none of the parts that a command may change. -/
theorem commandsLeaveQueueFusesAndTime : Obligations.CommandsLeaveQueueFusesAndTime := by
  intro c s t h
  have frame : Touches (.levelRise :: commandParts) s t :=
    exec_leaves (List.subset_cons_self _ _) c (fun _ => List.mem_cons_self) t h
  exact ⟨frame.stays .pending (by decide), frame.stays .fuses (by decide), frame.stays .aclk (by decide)⟩

end Sys2Proof.Machine

/-! # Writes of plain registers (R12)

A write that starts nothing stores what the register's row lets software store: block by block, each handler comes down to
the plain write. -/

namespace Sys2Proof.Machine

/-! ## The rows of the register map -/

/-- The rows of every block (R440). -/
def mapBlocks : List (List RegRow) :=
  [remapRows, warmRows, routerRows, routeRows, weltRows, niRows, cmbRows, telCellRows, gwRows, memRows, hostRows, optRows,
    telGwRows, cfgRows, merRows, fltRows, telSnapRows, secRows, pwrRows, clkRows]

/-- The row found for an offset is one of the list's, and the offset is that of one of its registers. -/
theorem findRow_spec {l : List RegRow} {o : Nat} {r : RegRow} (h : findRow l o = some r) :
    r ∈ l ∧ r.base ≤ o ∧ (o - r.base) % r.stride = 0 ∧ (o - r.base) / r.stride < r.count := by
  induction l with
  | nil => cases h
  | cons x l ih =>
    unfold findRow at h
    split at h
    next hx => exact Option.some.inj h ▸ ⟨List.mem_cons_self, hx⟩
    · exact ⟨List.mem_cons_of_mem _ (ih h).1, (ih h).2⟩

theorem blockRows_mem {d c b : Nat} {l : List RegRow} (h : blockRows d c b = some l) : l ∈ mapBlocks := by
  have mem : ∀ m : List RegRow, m ∈ mapBlocks → some m = some l → l ∈ mapBlocks := fun m hm e => Option.some.inj e ▸ hm
  unfold blockRows at h
  repeat' split at h
  all_goals first
    | exact mem _ (by simp [mapBlocks]) h
    | cases h

/-- No bit of a register is both RW and W1C. -/
theorem rw_w1c_disjoint {k : Nat} {r : RegRow} (h : rowOf k = some r) (i : Nat) : (r.rw.testBit i && r.w1c.testBit i) = false := by
  have all : mapBlocks.all (fun l => l.all (fun r => r.rw &&& r.w1c == 0)) = true := by decide +kernel
  unfold rowOf at h
  split at h
  next rows hr =>
    have row := List.all_eq_true.1 (List.all_eq_true.1 all rows (blockRows_mem hr)) r (findRow_spec h).1
    rw [← Nat.testBit_and, beq_iff_eq.1 row, Nat.zero_testBit]
  · cases h

/-! ## The handlers -/

section
variable (s : State) (k : Nat) (row : RegRow) (v : Word)

theorem routerWrite_plain (c : Cell) {b off : Nat} (h1 : ¬ (b = 0 ∧ 0x100 ≤ off ∧ off < 0x1E0 ∧ off % 0x20 = 0))
    (h2 : ¬ (b = 0 ∧ 0x410 ≤ off ∧ off < 0x42C)) (h3 : ¬ (b = 1 ∧ off = 4)) :
    routerWrite s c b off k row v = wr s k (plainWrite row (rd s k) v) := by
  simp only [routerWrite, if_neg h1, if_neg h2, if_neg h3]

theorem niWriteReg_plain (c : Cell) {off : Nat} (h1 : 0x300 < off) (h2 : ¬ (0x1000 ≤ off ∧ off < 0x3000 ∧ off % 16 = 8))
    (h3 : List.contains [0x804, 0x820, 0xB000, 0xB004, 0xB014, 0xD200] off = false) :
    niWriteReg s c off k row v = wr s k (plainWrite row (rd s k) v) := by
  simp only [List.contains_cons, Bool.or_eq_false_iff, beq_eq_false_iff_ne] at h3
  obtain ⟨h804, h820, hB000, hB004, hB014, hD200, -⟩ := h3
  have h0 : ¬ off < 0x300 := by omega
  have h300 : ¬ off = 0x300 := by omega
  have hB : ¬ (off = 0xB000 ∨ off = 0xB004) := by omega
  simp only [niWriteReg, if_neg h0, if_neg h300, if_neg h804, if_neg h820, if_neg h2, if_neg hB, if_neg hB014, if_neg hD200]

theorem cmbWriteReg_plain (c : Cell) {off : Nat} (h1 : ¬ (0x1000 ≤ off ∧ off % 0x80 < 0x70)) (h2 : off ≠ 0x20)
    (h3 : off ≠ 0x50) : cmbWriteReg s c off k row v = wr s k (plainWrite row (rd s k) v) := by
  simp only [cmbWriteReg, if_neg h1, if_neg h2, if_neg h3]

theorem hostWriteReg_plain (g : GwId) {off : Nat} (h1 : off ≠ 0xF00) (h2 : ¬ (0x1000 ≤ off ∧ off < 0x2000))
    (h3 : ¬ (0x2000 ≤ off ∧ off % 0x20 = 8)) : hostWriteReg s g off k row v = wr s k (plainWrite row (rd s k) v) := by
  simp only [hostWriteReg, if_neg h1, if_neg h2, if_neg h3]

theorem optWriteReg_plain (o : OptId) {off : Nat} (h : List.contains [0, 0x24, 0x28, 0x2C] off = false) :
    optWriteReg s o off k row v = wr s k (plainWrite row (rd s k) v) := by
  simp only [List.contains_cons, Bool.or_eq_false_iff, beq_eq_false_iff_ne] at h
  obtain ⟨h0, h24, h28, h2C, -⟩ := h
  unfold optWriteReg
  split
  · exact absurd rfl h0
  · exact absurd rfl h24
  · exact absurd rfl h28
  · exact absurd rfl h2C
  · rfl

/-- R153: a register that is no meter's control word is no business of the meters. -/
theorem meterWrite_other {g : GwId} (h : (List.range 4).any (fun j => decide (1 ≤ j) && k == meterKey g j 3) = false) :
    meterWrite s g k v = s := by
  have none : (List.range 4).find? (fun j => 1 ≤ j && k == meterKey g j 3) = none := by
    rw [List.find?_eq_none]
    intro j hj
    simpa using List.any_eq_false.1 h j hj
  unfold meterWrite
  rw [none]

theorem gwWriteReg_common (g : GwId) {off : Nat} (h1 : off ≠ 4) (h2 : off ≠ 0x2C)
    (h3 : ¬ (0x1000 ≤ off ∧ off < 0x3000 ∧ off % 16 = 8)) :
    gwWriteReg s g 0 off k row v = wr s k (plainWrite row (rd s k) v) := by
  simp only [gwWriteReg, if_true, if_neg h1, if_neg h2, if_neg h3]

end

/-! ## The write -/

section
variable {s : State} {p : Path} {hh : Bool} {k : Nat} {v : Word} {row : RegRow} (hs : startsNothing k = true)
include hs

theorem blockWrite_plain_field (hd : keyDom k < 48) : blockWrite s p hh k row v = wr s k (plainWrite row (rd s k) v) := by
  unfold startsNothing at hs
  unfold blockWrite
  simp only [hd, if_true] at hs ⊢
  by_cases hc : keyCell k = 2047
  · simp only [hc, if_true] at hs ⊢
    exact if_neg (by simpa [← not_and_or] using hs)
  · simp only [hc, if_false] at hs ⊢
    split
    next hb =>
      simp only [hb, Bool.and_eq_true, Bool.not_eq_true'] at hs
      obtain ⟨⟨h1, h2⟩, h3⟩ := hs
      exact niWriteReg_plain _ _ _ _ _ (of_decide_eq_true h1) (by simpa [and_assoc] using h2) h3
    next hb =>
      simp only [hb] at hs
      simp only [Bool.not_and, Bool.and_eq_true, Bool.or_eq_true, Bool.not_eq_eq_eq_not, Bool.not_true,
        decide_eq_false_iff_not, not_le, not_lt, bne_iff_ne, ne_eq] at hs
      exact cmbWriteReg_plain _ _ _ _ _ (by omega) (by omega) (by omega)
    next h3 h4 =>
      split at hs
      next hb =>
        simp only [Bool.not_and, Bool.and_eq_true, Bool.or_eq_true, Bool.not_eq_eq_eq_not, Bool.not_true,
          decide_eq_false_iff_not, not_le, not_lt, beq_eq_false_iff_ne, ne_eq] at hs
        exact routerWrite_plain _ _ _ _ _ (by omega) (by omega) (by omega)
      next hb =>
        simp only [bne_iff_ne, ne_eq] at hs
        exact routerWrite_plain _ _ _ _ _ (by omega) (by omega) (by omega)
      next hb => exact absurd hb h3
      next hb => exact absurd hb h4
      next h0 h1 _ _ =>
        exact routerWrite_plain _ _ _ _ _ (fun e => h0 e.1) (fun e => h0 e.1) (fun e => h1 e.1)

theorem blockWrite_plain_band {g : GwId} (hd : 48 ≤ keyDom k) (hd' : keyDom k < 52) (hg : gwOfNum (keyCell k) = some g) :
    blockWrite s p hh k row v = wr s k (plainWrite row (rd s k) v) := by
  unfold startsNothing at hs
  unfold blockWrite
  simp only [Nat.not_lt.2 hd, if_false, hd', if_true, hg] at hs ⊢
  generalize keyBlk k = b at hs
  match b with
  | 0 =>
    simp only [Bool.not_and, Bool.and_eq_true, Bool.or_eq_true, Bool.not_eq_eq_eq_not, Bool.not_true,
      decide_eq_false_iff_not, not_le, not_lt, bne_iff_ne, beq_eq_false_iff_ne, ne_eq] at hs
    exact gwWriteReg_common _ _ _ _ _ (by omega) (by omega) (by omega)
  | 1 =>
    cases g with
    | mem sd i => exact if_neg (bne_iff_ne.1 hs)
    | opt sd i =>
      simp only [Bool.and_eq_true, Bool.not_eq_true'] at hs
      obtain ⟨hoff, hmeter⟩ := hs
      have store := optWriteReg_plain s k row v ⟨sd, i⟩ hoff
      exact (congrArg (meterWrite · (.opt sd i) k v) store).trans (meterWrite_other _ _ _ hmeter)
    | host sd i =>
      simp only [Bool.and_eq_true, Bool.not_eq_true', bne_iff_ne] at hs
      obtain ⟨⟨⟨hctx, hring⟩, hmbx⟩, hmeter⟩ := hs
      have store := hostWriteReg_plain s k row v (.host sd i) hctx (by simpa using hring) (by simpa using hmbx)
      exact (congrArg (meterWrite · (.host sd i) k v) store).trans (meterWrite_other _ _ _ hmeter)
  | b + 2 => rfl

theorem blockWrite_plain_service (hd : keyDom k = 52) :
    blockWrite s p hh k row v = wr s k (plainWrite row (rd s k) v) := by
  unfold startsNothing at hs
  unfold blockWrite
  simp only [hd, Nat.reduceLT, if_false, if_true] at hs ⊢
  generalize keyBlk k = b at hs
  unfold svcWriteReg
  match b with
  | 0 | 1 | 2 | 3 =>
    simp only [Bool.and_eq_true, bne_iff_ne, ne_eq, List.contains_eq_mem, List.mem_cons, List.not_mem_nil, or_false,
      Bool.decide_or, Bool.not_or, Bool.not_eq_eq_eq_not, Bool.not_true, decide_eq_false_iff_not] at hs
    simp [hs]
  | b + 4 =>
    simp only [Bool.not_and, Bool.and_eq_true, bne_iff_ne, ne_eq, Bool.or_eq_true, Bool.not_eq_eq_eq_not, Bool.not_true,
      decide_eq_false_iff_not, not_le, not_lt] at hs
    have hresp : ¬ (0x40 ≤ keyOff k ∧ keyOff k < 0x60) := by omega
    exact (if_neg hs.1).trans (if_neg hresp)

theorem blockWrite_plain_alwaysOn (hd : 53 ≤ keyDom k) :
    blockWrite s p hh k row v = wr s k (plainWrite row (rd s k) v) := by
  unfold startsNothing at hs
  unfold blockWrite
  have h1 : ¬ keyDom k < 48 := by omega
  have h2 : ¬ keyDom k < 52 := by omega
  have h3 : ¬ keyDom k = 52 := by omega
  simp only [h1, h2, h3, if_false] at hs ⊢
  unfold aonWriteReg
  split
  next hb =>
    simp [hb] at hs
    exact if_neg (by omega)
  next hb =>
    simp [hb] at hs
    exact if_neg (by omega)

theorem blockWrite_plain (h : rowOf k = some row) : blockWrite s p hh k row v = wr s k (plainWrite row (rd s k) v) := by
  unfold rowOf at h
  split at h
  next rows hr =>
    unfold blockRows at hr
    by_cases h1 : keyDom k < 48
    · exact blockWrite_plain_field hs h1
    by_cases h2 : keyDom k < 52
    · cases hg : gwOfNum (keyCell k) with
      | none => simp [h1, h2, hg] at hr
      | some g => exact blockWrite_plain_band hs (Nat.le_of_not_lt h1) h2 hg
    by_cases h3 : keyDom k = 52
    · exact blockWrite_plain_service hs h3
    · exact blockWrite_plain_alwaysOn hs (by omega)
  · cases h

/-- R375: of the fault unit's registers only those that hold neither severities nor status bits start nothing. -/
theorem faultReg_startsNothing (h : rowOf k = some row) (hf : keyDom k = 52 ∧ keyBlk k = 2) : isSev k = false ∧ row.w1c = 0 := by
  unfold startsNothing at hs
  simp only [hf.1, hf.2, Nat.reduceLT, if_false, if_true, h, Bool.and_eq_true, Bool.not_eq_true', Option.all_some, beq_iff_eq] at hs
  obtain ⟨⟨-, hsev⟩, hw1c⟩ := hs
  exact ⟨hsev, hw1c⟩

theorem isSev_of_startsNothing (h : rowOf k = some row) : isSev k = false := by
  by_cases hf : keyDom k = 52 ∧ keyBlk k = 2
  · exact (faultReg_startsNothing hs h hf).1
  · unfold isSev
    simp only [Bool.and_eq_false_iff, beq_eq_false_iff_ne]
    exact .inl (not_and_or.1 hf)

/-- A write that starts nothing stores the plain write; where it clears status bits, pins of the fault unit may fall
beside (R374). -/
theorem regWrite_plain (h : rowOf k = some row) (ha : absentPort k = false) :
    ∃ f, regWrite s p hh k v = { wr s k (plainWrite row (rd s k) v) with flt := f } := by
  rw [regWrite_of_row h ha, blockWrite_plain hs h, isSev_of_startsNothing hs h]
  by_cases hv : v &&& BitVec.ofNat 32 row.w1c = 0
  · exact ⟨_, (if_neg (not_not.2 hv)).trans (if_neg (by decide))⟩
  · refine ⟨_, (if_pos hv).trans (if_neg fun hf => hv ?_)⟩
    rw [(faultReg_startsNothing hs h hf).2]
    exact BitVec.and_zero

end

/-- Of what a path has received, an answer to the management port changes its tag's. -/
theorem answer_mgmt_touches (s : State) (g : Fin 32) (st c : Nat) (d : Option Word) :
    Touches [.resp] s (answer s (.mgmt g) st c d) :=
  (Touches.refl _ s).set_resp _ (List.Subset.refl _)

theorem cfgAddr_lt_bar (a : CfgAddr) : a.key < barBase := by
  have hd := a.domain.isLt
  have hc := a.cell.isLt
  have hb := a.block.isLt
  have ho := a.off.isLt
  unfold CfgAddr.key regKey barBase
  omega

/-- Settles O10: the write is served at once, and what it does to the register is the plain write of its row. -/
theorem registerWriteBits : Obligations.RegisterWriteBits := by
  intro g a v s row hrow habs hs hserve
  have hw := writeBy_mgmt g v hserve (cfgAddr_lt_bar a)
  obtain ⟨f, hf⟩ := regWrite_plain (s := s) (p := .mgmt g) (hh := true) (v := v) hs hrow habs
  rw [hf] at hw
  refine ⟨_, congrArg Host.Outcome.next hw, answer_mgmt_status .., fun i hi => ?_, fun k hk => ?_, ?_⟩
  · have store : rd { wr s a.key (plainWrite row (rd s a.key) v) with flt := f } a.key = plainWrite row (rd s a.key) v :=
      rd_wr_same ..
    rw [rd_answer, store, bit_plainWrite row _ _ hi]
    have hdis := rw_w1c_disjoint hrow i
    cases hrw : row.rw.testBit i with
    | false => rfl
    | true =>
      rw [hrw, Bool.true_and] at hdis
      simp [hdis]
  · rw [rd_answer]
    exact rd_wr_ne _ _ (fun e => hk (e ▸ List.mem_cons_self))
  · have hwr : Touches [.regs, .flt, .resp] s (wr s a.key (plainWrite row (rd s a.key) v)) :=
      wr_touches _ _ (by decide) (.refl _ s)
    exact (hwr.set_flt f (by decide)).trans ((answer_mgmt_touches ..).mono (by decide))

end Sys2Proof.Machine

/-! # Reads (R12, R383)

A read of a cell's register clears its RC bits; a read of NI_LAST_TABLE passes the word of the entry through SECDED first. -/

namespace Sys2Proof.Machine

/-! ## The cell and offset of a register number -/

theorem regKey_parts (k : Nat) : regKey (keyDom k) (keyCell k) (keyBlk k) (keyOff k) = k := by
  unfold regKey keyDom keyCell keyBlk keyOff
  omega

theorem keyBlk_lt (k : Nat) : keyBlk k < 32 := Nat.mod_lt _ (by decide)

theorem keyOff_lt (k : Nat) : keyOff k < 65536 := Nat.mod_lt _ (by decide)

theorem field_cellOf {d n : Nat} (hd : d < 48) (hn : n < 1200) : (cellOf d n).field = d := by
  simp only [cellOf, mkCell, Cell.field, fieldXY, Fin.ofNat]
  omega

theorem num_cellOf {d n : Nat} (hn : n < 1200) : (cellOf d n).num = n := by
  simp only [cellOf, mkCell, Cell.num, Fin.ofNat]
  omega

theorem cellReg_parts {k : Nat} (hd : keyDom k < 48) (hc : keyCell k < 1200) :
    cellReg (cellOf (keyDom k) (keyCell k)) (keyBlk k) (keyOff k) = k := by
  unfold cellReg
  rw [field_cellOf hd hc, num_cellOf hc, regKey_parts]

/-- R8: the registers of an NI lie at multiples of 4. -/
theorem niRow_aligned {o : Nat} {r : RegRow} (h : findRow niRows o = some r) : o % 4 = 0 := by
  have all : niRows.all (fun r => r.base % 4 == 0 && r.stride % 4 == 0) = true := by decide
  obtain ⟨hmem, hbase, hmod, -⟩ := findRow_spec h
  have hr := List.all_eq_true.1 all r hmem
  simp only [Bool.and_eq_true, beq_iff_eq] at hr
  have h4 : (o - r.base) % 4 = 0 := Nat.mod_eq_zero_of_dvd
    ((Nat.dvd_of_mod_eq_zero hr.2).trans (Nat.dvd_of_mod_eq_zero hmod))
  omega

/-- R399: a read clears nothing of NI_LAST_TABLE's registers. -/
theorem lastTableRow_rc {o : Nat} {r : RegRow} (h : findRow niRows o = some r) (h1 : 0x5000 ≤ o) (h2 : o < 0x9000) : r.rc = 0 := by
  have all : niRows.all (fun r => decide (0 < r.stride) &&
      (r.rc == 0 || decide (0x9000 ≤ r.base) || decide (r.base + r.count * r.stride ≤ 0x5000))) = true := by decide
  obtain ⟨hmem, hbase, -, hcount⟩ := findRow_spec h
  have hr := List.all_eq_true.1 all r hmem
  simp only [Bool.and_eq_true, Bool.or_eq_true, beq_iff_eq, decide_eq_true_eq] at hr
  have hend : o - r.base < r.count * r.stride := (Nat.div_lt_iff_lt_mul hr.1).1 hcount
  omega

/-! ## A count with its flag -/

/-- A count field after it has gone up. -/
theorem rdF_cntUp_same (s : State) (k : Nat) {lo len : Nat} (n : Nat) (h : lo + len ≤ 32) :
    rdF (cntUp s k lo len n) k lo len = satAdd (2 ^ len - 1) (rdF s k lo len) n := by
  have hpos := Nat.two_pow_pos len
  have hlt : satAdd (2 ^ len - 1) (rdF s k lo len) n < 2 ^ len :=
    Nat.lt_of_le_of_lt (Nat.min_le_left _ _) (Nat.sub_lt hpos Nat.one_pos)
  rw [cntUp_eq, rdF, rd_wrF_same, bits_put_same _ _ h, Nat.mod_eq_of_lt hlt]

/-- Setting a bit leaves the fields below it. -/
theorem rdF_setBits_below (s : State) (k : Nat) {lo len b : Nat} (h : lo + len ≤ b) :
    rdF (setBits s k (2 ^ b)) k lo len = rdF s k lo len := by
  unfold rdF
  rw [rd_setBits_same]
  refine Nat.eq_of_testBit_eq fun i => ?_
  rw [testBit_bits, testBit_bits]
  by_cases hi : i < len
  · have hb : b ≠ lo + i := by omega
    rw [BitVec.getLsbD_or, BitVec.getLsbD_ofNat, Nat.testBit_two_pow_of_ne hb, Bool.and_false, Bool.or_false]
  · simp [hi]

theorem bit_setBits (s : State) (k : Nat) {b : Nat} (h : b < 32) : bit (rd (setBits s k (2 ^ b)) k) b = true := by
  rw [rd_setBits_same, bit_or, bit_ofNat32]
  simp [h]

/-! ## The word of a Last entry through SECDED (R383) -/

section
variable {s : State} {c : Cell} {t : Nat}

theorem lastEcc_good (h : (lastOf s c t).bad = 0) : lastEcc s c t .ok = s := by
  have he : eccOf .ok (lastOf s c t).bad = .ok := by rw [h]; rfl
  unfold lastEcc
  rw [he]

theorem lastEcc_corrected (h : (lastOf s c t).bad = 1) :
    lastEcc s c t .ok = setBits (cntUp s (cellReg c 3 0xE000) 0 16 1) (cellReg c 3 0xE000) 0x1000000 := by
  have he : eccOf .ok (lastOf s c t).bad = .ce := by rw [h]; rfl
  unfold lastEcc
  rw [he]

/-- The state in which an uncorrectable Last entry has been freed (R383), which counts once in RESET if it was in use. -/
def lastFreed (s : State) (c : Cell) (t : Nat) : State :=
  putLast (if (lastOf s c t).valid then cntUp s (cellReg c 3 0x81C) 24 8 1 else s) c t
    { lastOf s c t with valid := false, held := none }

theorem lastEcc_uncorrectable (h : 2 ≤ (lastOf s c t).bad) :
    lastEcc s c t .ok = setBits (cntUp (lastFreed s c t) (cellReg c 3 0xE000) 16 8 1) (cellReg c 3 0xE000) 0x2000000 := by
  have he : eccOf .ok (lastOf s c t).bad = .ue := if_pos h
  unfold lastEcc
  rw [he]
  rfl

theorem rd_lastFreed_ne {k : Nat} (h : k ≠ cellReg c 3 0x81C) : rd (lastFreed s c t) k = rd s k := by
  unfold lastFreed putLast
  split
  · exact rd_cntUp_ne _ _ _ _ h
  · rfl

theorem rdF_lastFreed :
    rdF (lastFreed s c t) (cellReg c 3 0x81C) 24 8 = satAdd 255 (rdF s (cellReg c 3 0x81C) 24 8) (b2n (lastOf s c t).valid) := by
  unfold lastFreed putLast
  cases (lastOf s c t).valid with
  | true => exact rdF_cntUp_same _ _ _ (by decide)
  | false =>
    have hlt : rdF s (cellReg c 3 0x81C) 24 8 < 2 ^ 8 := bits_lt _ _ _
    exact (Nat.min_eq_right (Nat.le_of_lt_succ hlt)).symm

theorem lastOf_lastFreed :
    lastOf (lastFreed s c t) c t = { lastOf s c t with valid := false, held := none, bad := 0 } := by
  simp [lastFreed, putLast, lastOf]

theorem lastFreed_touches : Touches [.regs, .units] s (lastFreed s c t) :=
  putLast_touches _ _ _ (by decide) (.ite (fun _ => cntUp_touches _ _ _ _ (by decide) (.refl _ s)) fun _ => .refl _ s)

end

/-! ## A read -/

theorem regRead_field {s : State} {k : Nat} {row : RegRow} (hd : keyDom k < 48) (h : rowOf k = some row)
    (ha : absentPort k = false) :
    regRead s false k = (regValue (lastTableRead s k) k,
      if row.rc = 0 then lastTableRead s k else wr (lastTableRead s k) k (afterRead row (rd (lastTableRead s k) k))) := by
  have h1 : ¬ keyDom k = 52 := by omega
  have h2 : ¬ 48 ≤ keyDom k := by omega
  simp [regRead, logHold, readEffect, h, ha, h1, h2]

theorem lastTableRead_good {s : State} {k : Nat} {row : RegRow} (h : rowOf k = some row)
    (hgood : ∀ c i j, j < 8 → k = cellReg c 3 (0x5000 + 0x20 * i + 4 * j) → (lastOf s c i).bad = 0) :
    lastTableRead s k = s := by
  unfold lastTableRead
  split
  next hk =>
    obtain ⟨hd, hc, hb, hlo, hhi⟩ := hk
    have hkey := cellReg_parts hd hc
    rw [hb] at hkey
    have hrow : findRow niRows (keyOff k) = some row := by
      rw [← hkey, rowOf_cellReg _ (by decide) (keyOff_lt k)] at h
      exact h
    have h4 := niRow_aligned hrow
    have hoff : 0x5000 + 0x20 * ((keyOff k - 0x5000) / 0x20) + 4 * (keyOff k % 0x20 / 4) = keyOff k := by omega
    exact lastEcc_good (hgood _ _ (keyOff k % 0x20 / 4) (by omega) (by rw [hoff]; exact hkey.symm))
  · rfl

/-- A read of a cell's register (R12), where no word of NI_LAST_TABLE that it reads is disturbed. -/
theorem regRead_clears {s : State} {k : Nat} {row : RegRow} (hd : keyDom k < 48) (h : rowOf k = some row)
    (ha : absentPort k = false)
    (hgood : ∀ c i j, j < 8 → k = cellReg c 3 (0x5000 + 0x20 * i + 4 * j) → (lastOf s c i).bad = 0) :
    ∃ t, regRead s false k = (regValue s k, t) ∧ (∀ i, i < 32 → bit (rd t k) i = (bit (rd s k) i && !row.rc.testBit i)) ∧
      RegsBut [k] s t ∧ Touches [.regs] s t := by
  rw [regRead_field hd h ha, lastTableRead_good h hgood]
  by_cases hrc : row.rc = 0
  · rw [if_pos hrc]
    exact ⟨s, rfl, fun i _ => by simp [hrc], fun _ _ => rfl, .refl _ s⟩
  · rw [if_neg hrc]
    refine ⟨_, rfl, fun i hi => ?_, fun k' hk' => ?_, wr_touches _ _ (List.Subset.refl _) (.refl _ s)⟩
    · rw [rd_wr_same, bit_afterRead row _ hi]
    · exact rd_wr_ne _ _ (fun e => hk' (e ▸ List.mem_cons_self))

theorem regValue_congr {s t : State} {k : Nat} (hrd : rd t k = rd s k) (hlive : liveBits t k = liveBits s k) :
    regValue t k = regValue s k := by
  unfold regValue
  rw [hlive, hrd]

theorem liveBits_ni (s : State) (c : Cell) {o : Nat} (ho : o < 65536) : liveBits s (cellReg c 3 o) = niLive s c o := by
  have hn : ¬ c.num = 2047 := fun e => absurd (cell_num_lt c) (by omega)
  unfold liveBits
  rw [keyDom_cellReg c (by decide) ho, keyCell_cellReg c (by decide) ho, keyBlk_cellReg c (by decide) ho,
    keyOff_cellReg c (by decide) ho]
  simp only [cell_field_lt c, if_true, hn, if_false, cellOf_field_num]

/-! ## A read of NI_LAST_TABLE -/

section
variable {s : State} {c : Cell} {i j : Nat} {row : RegRow} (hi : i < 512) (hj : j < 8)
  (h : rowOf (cellReg c 3 (0x5000 + 0x20 * i + 4 * j)) = some row)
include hi hj

theorem lastTableRead_entry : lastTableRead s (cellReg c 3 (0x5000 + 0x20 * i + 4 * j)) = lastEcc s c i .ok := by
  have ho : 0x5000 + 0x20 * i + 4 * j < 65536 := by omega
  have hidx : (0x5000 + 0x20 * i + 4 * j - 0x5000) / 0x20 = i := by omega
  unfold lastTableRead
  rw [keyDom_cellReg c (by decide) ho, keyCell_cellReg c (by decide) ho, keyBlk_cellReg c (by decide) ho,
    keyOff_cellReg c (by decide) ho, cellOf_field_num, hidx]
  exact if_pos ⟨cell_field_lt c, cell_num_lt c, rfl, by omega, by omega⟩

/-- The registers of the table show their entry (R117). -/
theorem niLive_lastTable : niLive s c (0x5000 + 0x20 * i + 4 * j) = wordOf (lastBits (lastOf s c i)) j := by
  generalize ho : 0x5000 + 0x20 * i + 4 * j = o
  have hidx : (o - 0x5000) / 0x20 = i := by omega
  have hword : o % 0x20 / 4 = j := by omega
  unfold niLive
  rw [if_neg (by omega), if_neg (by omega), if_neg (by omega), if_neg (by omega), if_neg (by omega), if_neg (by omega),
    if_pos (by omega), hidx, hword]

theorem regValue_lastTable_congr {t : State}
    (hrd : rd t (cellReg c 3 (0x5000 + 0x20 * i + 4 * j)) = rd s (cellReg c 3 (0x5000 + 0x20 * i + 4 * j)))
    (hl : lastOf t c i = lastOf s c i) :
    regValue t (cellReg c 3 (0x5000 + 0x20 * i + 4 * j)) = regValue s (cellReg c 3 (0x5000 + 0x20 * i + 4 * j)) := by
  have hlive : liveBits t (cellReg c 3 (0x5000 + 0x20 * i + 4 * j)) = liveBits s (cellReg c 3 (0x5000 + 0x20 * i + 4 * j)) := by
    rw [liveBits_ni t c (by omega), liveBits_ni s c (by omega), niLive_lastTable hi hj, niLive_lastTable hi hj, hl]
  exact regValue_congr hrd hlive

include h

theorem regRead_lastTable :
    regRead s false (cellReg c 3 (0x5000 + 0x20 * i + 4 * j)) =
      (regValue (lastEcc s c i .ok) (cellReg c 3 (0x5000 + 0x20 * i + 4 * j)), lastEcc s c i .ok) := by
  have ho : 0x5000 + 0x20 * i + 4 * j < 65536 := by omega
  have hrow : findRow niRows (0x5000 + 0x20 * i + 4 * j) = some row := by
    rw [rowOf_cellReg _ (by decide) ho] at h
    exact h
  have hd : keyDom (cellReg c 3 (0x5000 + 0x20 * i + 4 * j)) < 48 := by
    rw [keyDom_cellReg c (by decide) ho]
    exact cell_field_lt c
  rw [regRead_field hd h (absentPort_cell c (by decide) ho (.inl (by decide))),
    if_pos (lastTableRow_rc hrow (by omega) (by omega)), lastTableRead_entry hi hj]

end

theorem respOf_answer_mgmt (s : State) (g : Fin 32) (w : Word) :
    respOf (answer s (.mgmt g) 0 0 (some w)) g.val = ⟨0, 0, w⟩ := by
  simp [respOf, answer, viaNum]

/-- What of a served read the answer adds. -/
theorem rcFieldRead_served {g : Fin 32} {a : CfgAddr} {s t : State} {w : Word} (hserve : MgmtServes s a.key)
    (hr : regRead s false a.key = (w, t)) :
    exec (.rcFieldRead (.mgmt g) a) s = .next (answer t (.mgmt g) 0 0 (some w)) := by
  have h := readBy_mgmt g hserve (cfgAddr_lt_bar a)
  rw [hr] at h
  exact congrArg Host.Outcome.next h

section
variable {g : Fin 32} {a : CfgAddr} {s : State} {row : RegRow} {c : Cell} {i j : Nat}
  (hserve : MgmtServes s a.key) (hrow : rowOf a.key = some row) (hi : i < 512) (hj : j < 8)
  (hkey : a.key = cellReg c 3 (0x5000 + 0x20 * i + 4 * j))
include hserve hrow hi hj hkey

/-- R383: a read of a word of NI_LAST_TABLE is answered from the state that SECDED leaves. -/
theorem rcFieldRead_lastTable :
    exec (.rcFieldRead (.mgmt g) a) s =
      .next (answer (lastEcc s c i .ok) (.mgmt g) 0 0 (some (regValue (lastEcc s c i .ok) a.key))) := by
  refine rcFieldRead_served hserve ?_
  rw [hkey] at hrow ⊢
  exact regRead_lastTable hi hj hrow

theorem rcFieldRead_corrected (hbad : (lastOf s c i).bad = 1) :
    ∃ t, exec (.rcFieldRead (.mgmt g) a) s = .next t ∧ respOf t g.val = ⟨0, 0, regValue s a.key⟩ ∧
      rdF t (cellReg c 3 0xE000) 0 16 = satAdd 65535 (rdF s (cellReg c 3 0xE000) 0 16) 1 ∧
      bit (rd t (cellReg c 3 0xE000)) 24 = true ∧ RegsBut [cellReg c 3 0xE000] s t ∧ Touches [.regs, .resp] s t := by
  have hne : a.key ≠ cellReg c 3 0xE000 := hkey ▸ cellReg_ne c (by decide) (by omega) (by decide) (by decide) (.inr (by omega))
  have hrd : ∀ k, k ≠ cellReg c 3 0xE000 → rd (lastEcc s c i .ok) k = rd s k := fun k hk => by
    rw [lastEcc_corrected hbad, rd_setBits_ne _ _ hk, rd_cntUp_ne _ _ _ _ hk]
  refine ⟨_, rcFieldRead_lastTable hserve hrow hi hj hkey, ?_, ?_, ?_, fun k hk => ?_, ?_⟩
  · have hval : regValue (lastEcc s c i .ok) a.key = regValue s a.key := by
      have hlast : lastOf (lastEcc s c i .ok) c i = lastOf s c i := by rw [lastEcc_corrected hbad]; rfl
      have h := hrd _ hne
      rw [hkey] at h ⊢
      exact regValue_lastTable_congr hi hj h hlast
    rw [respOf_answer_mgmt, hval]
  · rw [rdF, rd_answer, lastEcc_corrected hbad]
    exact (rdF_setBits_below _ _ (b := 24) (by decide)).trans (rdF_cntUp_same _ _ _ (by decide))
  · rw [rd_answer, lastEcc_corrected hbad]
    exact bit_setBits _ _ (b := 24) (by decide)
  · rw [rd_answer, hrd k (fun e => hk (e ▸ List.mem_cons_self))]
  · refine Touches.trans ?_ ((answer_mgmt_touches ..).mono (by decide))
    rw [lastEcc_corrected hbad]
    exact setBits_touches _ _ (by decide) (cntUp_touches _ _ _ _ (by decide) (.refl _ s))

theorem rcFieldRead_uncorrectable (hbad : 2 ≤ (lastOf s c i).bad) :
    ∃ t, exec (.rcFieldRead (.mgmt g) a) s = .next t ∧ respOf t g.val = ⟨0, 0, regValue t a.key⟩ ∧
      lastOf t c i = { lastOf s c i with valid := false, held := none, bad := 0 } ∧
      rdF t (cellReg c 3 0xE000) 16 8 = satAdd 255 (rdF s (cellReg c 3 0xE000) 16 8) 1 ∧
      bit (rd t (cellReg c 3 0xE000)) 25 = true ∧
      rdF t (cellReg c 3 0x81C) 24 8 = satAdd 255 (rdF s (cellReg c 3 0x81C) 24 8) (b2n (lastOf s c i).valid) ∧
      RegsBut [cellReg c 3 0xE000, cellReg c 3 0x81C] s t ∧ Touches [.regs, .units, .resp] s t := by
  have hE : cellReg c 3 0xE000 ≠ cellReg c 3 0x81C := cellReg_ne c (by decide) (by decide) (by decide) (by decide) (.inr (by decide))
  have hrd : ∀ k, k ≠ cellReg c 3 0xE000 → rd (lastEcc s c i .ok) k = rd (lastFreed s c i) k := fun k hk => by
    rw [lastEcc_uncorrectable hbad, rd_setBits_ne _ _ hk, rd_cntUp_ne _ _ _ _ hk]
  have hlast : lastOf (lastEcc s c i .ok) c i = lastOf (lastFreed s c i) c i := by rw [lastEcc_uncorrectable hbad]; rfl
  refine ⟨_, rcFieldRead_lastTable hserve hrow hi hj hkey, ?_, hlast.trans lastOf_lastFreed, ?_, ?_, ?_, fun k hk => ?_, ?_⟩
  · have hval : regValue (answer (lastEcc s c i .ok) (.mgmt g) 0 0 (some (regValue (lastEcc s c i .ok) a.key))) a.key =
        regValue (lastEcc s c i .ok) a.key := by
      rw [hkey]
      exact regValue_lastTable_congr hi hj (rd_answer ..) rfl
    rw [respOf_answer_mgmt, hval]
  · rw [rdF, rd_answer, lastEcc_uncorrectable hbad]
    refine (rdF_setBits_below _ _ (b := 25) (by decide)).trans ((rdF_cntUp_same _ _ _ (by decide)).trans ?_)
    rw [rdF, rd_lastFreed_ne hE]
    rfl
  · rw [rd_answer, lastEcc_uncorrectable hbad]
    exact bit_setBits _ _ (b := 25) (by decide)
  · rw [rdF, rd_answer, hrd _ hE.symm]
    exact rdF_lastFreed
  · simp only [List.mem_cons, List.not_mem_nil, or_false, not_or] at hk
    rw [rd_answer, hrd k hk.1, rd_lastFreed_ne hk.2]
  · refine Touches.trans ?_ ((answer_mgmt_touches ..).mono (by decide))
    rw [lastEcc_uncorrectable hbad]
    exact setBits_touches _ _ (by decide) (cntUp_touches _ _ _ _ (by decide) (lastFreed_touches.mono (by decide)))

end

/-- Settles O11: the register's own read, answered at once; and for NI_LAST_TABLE the three outcomes of SECDED. -/
theorem rcFieldReadBits : Obligations.RcFieldReadBits := by
  intro g a s row hd hrow habs hserve
  have hkd : keyDom a.key < 48 := by
    rw [CfgAddr.key, keyDom_regKey _ a.cell.isLt a.block.isLt a.off.isLt]
    exact hd
  refine ⟨fun hgood => ?_, fun c i j hi hj hkey => ⟨rcFieldRead_corrected hserve hrow hi hj hkey,
    rcFieldRead_uncorrectable hserve hrow hi hj hkey⟩⟩
  obtain ⟨t, hread, hbits, hregs, htouch⟩ := regRead_clears hkd hrow habs hgood
  refine ⟨_, rcFieldRead_served hserve hread, respOf_answer_mgmt .., fun n hn => ?_, fun k hk => ?_, ?_⟩
  · rw [rd_answer, hbits n hn]
  · rw [rd_answer, hregs k hk]
  · exact (htouch.mono (by decide)).trans ((answer_mgmt_touches ..).mono (by decide))

end Sys2Proof.Machine

/-! # Welt flits at a router (R121, R125, R126, R129)

A welt flit that arrives in sequence goes from the wires into the store that its slot names; the owner of a slot sends the
oldest flit of its store. -/

namespace Sys2Proof.Machine

/-! ## A router's ports -/

theorem rport_setRport_ne (s : State) (c : Cell) {p q : Nat} (x : RPort) (h : q ≠ p) :
    rport (setRport s c p x) c q = rport s c q := by
  simp only [rport, setRport, router_setRouter_same]
  exact FMap.get_set_ne _ _ _ h

theorem router_setRport_ne (s : State) {c b : Cell} (p : Nat) (x : RPort) (h : b.key ≠ c.key) :
    router (setRport s c p x) b = router s b :=
  router_setRouter_ne _ _ h

/-! ## The end that receives -/

/-- A flit accepted at an end with nothing to acknowledge: off the wires, and counted (R66). -/
def flitTaken (s : State) (e : EndRef) (k : Ctl) : State :=
  rxAccept (updLink (popWire s e) e (fun l => { l with stale := none })) e k

section
variable {s : State} {c : Cell} {p : Fin 7} {flips : BitVec 568} {w : Wire} {d : Decoded} {k : Ctl}

theorem weltFlitReceive_inSequence (hst : effSt s (.router c p) = some .up) (h : InSequence s (.router c p) flips w d k)
    (hw : k.w = true) (h4 : 4 ≤ k.ty) (h7 : k.ty ≤ 7) :
    weltFlitReceive s (.router c p) flips =
      weltArrive (flitTaken s (.router c p) k) (.router c p) w.slot ⟨d.payload, k.ty == 5 || k.ty == 7, k.ty == 6 || k.ty == 7⟩ := by
  obtain ⟨harr, hctl, hce, hbce, hbue, hcrc, hseq, hack, hnak⟩ := h
  have hsq : isSeq k.ty = true := by simp [isSeq, h4, h7]
  have hty2 : ¬ k.ty = 2 := by omega
  have hty3 : ¬ k.ty = 3 := by omega
  have hack' : ackPos (link (popWire s (.router c p)) (.router c p)) 64 k.ack6 = some 0 := by
    rw [popWire, link_updLink_same]
    exact hack
  have hback : backChannel (noteCorr (popWire s (.router c p)) (.router c p) d) (.router c p) k = popWire s (.router c p) := by
    simp [noteCorr, hce, hbce, backChannel, hack', ackN, hnak]
  have hin : (k.seq6 == (link (popWire s (.router c p)) (.router c p)).rxExp % 64) = true := by
    rw [popWire, link_updLink_same, beq_iff_eq]
    exact hseq
  simp [flitTaken, weltFlitReceive, hst, harr, hctl, hw, hsq, handleFlit, hty3, hty2, hback, hin, hcrc, hbue]

/-- R59, R66: taking a flit at a router's end changes link ends only. -/
theorem flitTaken_links (s : State) (c : Cell) (p : Fin 7) (k : Ctl) :
    flitTaken s (.router c p) k = { s with links := (flitTaken s (.router c p) k).links } := by
  unfold flitTaken rxAccept
  cases k.crv <;> rfl

theorem flitTaken_accepted (s : State) (c : Cell) (p : Fin 7) (k : Ctl) :
    Accepted s (flitTaken s (.router c p) k) (.router c p) := by
  unfold Accepted flitTaken rxAccept
  cases k.crv <;> simp [popWire, addCredit, throttled]

theorem flitTaken_touches (s : State) (c : Cell) (p : Fin 7) (k : Ctl) :
    Touches [.regs, .links, .routers] s (flitTaken s (.router c p) k) := by
  rw [flitTaken_links]
  exact Touches.set_links _ (by decide) (Touches.refl _ s)

/-- R126: a router stores a flit of a welt that its input map names and that a slot serves. -/
theorem weltArrive_stored {slot i : Nat} {f : WFlit} (hi : inName (rd s (winKey c p.val slot)) = some i)
    (hlive : deadWelt s ((List.range 7).map (fun q => woutKey c q 0)) (16 * p.val + i) = false)
    (hroom : ((rport s c p.val).welt.get i []).length < 2) :
    ∃ n, weltArrive s (.router c p) slot f =
      maxUp (setRport s c p.val { rport s c p.val with
        welt := (rport s c p.val).welt.set i ((rport s c p.val).welt.get i [] ++ [f]) }) (cellReg c 2 (0x10 + 4 * p.val)) 8 6 n := by
  have hadd : storeAdd (rport s c p.val).welt 32 i f =
      some ((rport s c p.val).welt.set i ((rport s c p.val).welt.get i [] ++ [f])) := if_pos (.inl hroom)
  simp only [weltArrive, hi, hlive, hadd]
  exact ⟨_, rfl⟩

end

/-! ## The end that sends -/

theorem noteNoms_welt (s : State) (c : Cell) (ns : List Nom) (q : Nat) :
    (rport (noteNoms s c ns) c q).welt = (rport s c q).welt := by
  unfold noteNoms
  induction ns generalizing s with
  | nil => rfl
  | cons n ns ih =>
    rw [List.foldl_cons, ih]
    split
    · rfl
    · by_cases hq : q = n.i
      · subst hq
        rw [rport_setRport_same]
      · rw [rport_setRport_ne _ _ _ hq]

theorem router_noteNoms_ne (s : State) {c b : Cell} (ns : List Nom) (h : b.key ≠ c.key) :
    router (noteNoms s c ns) b = router s b := by
  unfold noteNoms
  induction ns generalizing s with
  | nil => rfl
  | cons n ns ih =>
    rw [List.foldl_cons, ih]
    split
    · rfl
    · exact router_setRport_ne _ _ _ h

section
variable {m : List Part} {s t : State} (h : Touches m s t)
include h

theorem Touches.link_eq (hl : Part.links ∉ m) (e : EndRef) : link t e = link s e := by
  unfold link
  rw [show t.links = s.links from h.stays .links hl]

theorem Touches.router_eq (hr : Part.routers ∉ m) (c : Cell) : router t c = router s c := by
  unfold router
  rw [show t.routers = s.routers from h.stays .routers hr]

theorem Touches.rport_eq (hr : Part.routers ∉ m) (c : Cell) (p : Nat) : rport t c p = rport s c p := by
  unfold rport
  rw [h.router_eq hr]

end

section
variable (s : State) (c : Cell) (p : Fin 7)

theorem countStall_tel : Touches [.tel] s (countStall s (.router c p)) :=
  countStall_touches _ (List.Subset.refl _) (Touches.refl _ s)

/-- R63, R389: an output that grants nothing keeps every store of its router. -/
theorem noGrant_welt (q : Nat) : (rport (noGrant s (.router c p)) c q).welt = (rport s c q).welt := by
  simp only [noGrant, noteOut]
  rw [noteNoms_welt, (countStall_tel s c p).rport_eq (by decide)]

theorem router_noGrant_ne {b : Cell} (h : b.key ≠ c.key) : router (noGrant s (.router c p)) b = router s b := by
  simp only [noGrant, noteOut]
  rw [router_noteNoms_ne _ _ h, (countStall_tel s c p).router_eq (by decide)]

theorem link_noGrant (e f : EndRef) : link (noGrant s e) f = link s f :=
  (noGrant_touches (m := [.routers, .tel]) e (List.Subset.refl _) (Touches.refl _ s)).link_eq (by decide) f

theorem link_dcqMarks (e f : EndRef) : link (dcqMarks s e) f = link s f :=
  (dcqMarks_touches (m := [.regs]) e (List.Subset.refl _) (Touches.refl _ s)).link_eq (by decide) f

end

/-- R59, R65: the two ends of a link after one sends a new sequenced flit. -/
theorem emitSeq_link {s : State} {e f : EndRef} (x : Send) (hf : e.peer = some f) (hne : f.key ≠ e.key) :
    Emitted s (emitSeq s e x) e x.payload ∧ ∃ y, (link (emitSeq s e x) f).wire = (link s f).wire ++ [y] := by
  have hrx : (nakSent s e (link s e)).rxExp = (link s e).rxExp := by
    unfold nakSent
    split <;> rfl
  unfold Emitted emitSeq toWire
  simp only [hf, link_dcqMarks]
  rw [link_updLink_ne _ _ hne.symm, link_setLink_same, link_updLink_same, link_setLink_ne _ _ hne]
  exact ⟨⟨rfl, ⟨_, rfl, rfl, rfl⟩, hrx⟩, _, rfl⟩

theorem emitSeq_regsLinks (s : State) (e : EndRef) (x : Send) : Touches [.regs, .links] s (emitSeq s e x) :=
  emitSeq_touches _ _ (List.Subset.refl _) (Touches.refl _ s)

/-- The store of a welt once its oldest flit is gone. -/
def weltRest (x : RPort) (i : Nat) (l : List WFlit) : RPort :=
  { x with welt := if l.isEmpty then x.welt.erase i else x.welt.set i l }

theorem weltRest_get (x : RPort) (i : Nat) (l : List WFlit) : (weltRest x i l).welt.get i [] = l := by
  unfold weltRest
  cases l with
  | nil => simp [FMap.get, FMap.find_erase_same]
  | cons y l => simp

theorem storeTake_cons {w : FMap (List WFlit)} {i : Nat} {y : WFlit} {l : List WFlit} (h : w.get i [] = y :: l) :
    storeTake w i = some (y, if l.isEmpty then w.erase i else w.set i l) := by
  unfold storeTake
  rw [h]

/-- A flit of welt n as a sequenced flit. -/
def weltSend (n : Nat) (f : WFlit) : Send :=
  { payload := f.payload, ty := flitType f.head f.tail, w := true, vc := 0, welt := some n, tailEp := none, hdr := 0 }

theorem weltSend_payload (n : Nat) (y : WFlit) :
    (weltSend n y.forwarded).payload = if y.head then clearReserved y.payload else y.payload := by
  unfold WFlit.forwarded
  split <;> rfl

/-- R121, R125: what the owner of a slot of a router's output sends in it. -/
theorem weltFlitSend_owner {s : State} {c : Cell} {p : Fin 7} {n : Nat} {y : WFlit} {l : List WFlit}
    (hst : effSt s (.router c p) = some .up) (hb : holdsBack s (.router c p) = false) (hr : (link s (.router c p)).resend = 0)
    (hroom : (link s (.router c p)).replay.length < 32) (ho : slotOwner s (.router c p) = some n)
    (hy : (rport s c (n / 16)).welt.get (n % 16) [] = y :: l) :
    weltFlitSend s (.router c p) =
      telPort (emitSeq (noGrant (setRport s c (n / 16) (weltRest (rport s c (n / 16)) (n % 16) l)) (.router c p)) (.router c p)
        (weltSend n y.forwarded)) c p.val 3 1 := by
  have hnext : weltNext s (.router c p) =
      some (n, y.forwarded, setRport s c (n / 16) (weltRest (rport s c (n / 16)) (n % 16) l)) := by
    simp only [weltNext, ho, storeTake_cons hy]
    rfl
  have hrep : nextReplay (link s (.router c p)) = none := if_pos hr
  have hlen : ¬ 32 ≤ (link s (.router c p)).replay.length := by omega
  simp [weltFlitSend, hst, hb, hrep, hlen, hnext, PortSt.live, weltSend]

theorem weltFlitsPass : Claim.WeltFlitsPass := by
  refine ⟨fun c p flips s w d k i hst hin hw h4 h7 hi hlive hroom => ?_,
    fun c p f s n y l hst hb hf hne hr hroom ho hy => ?_⟩
  · have hT := flitTaken_links s c p k
    have hacc := flitTaken_accepted s c p k
    have htch := flitTaken_touches s c p k
    have heq := weltFlitReceive_inSequence hst hin hw h4 h7
    generalize flitTaken s (.router c p) k = T at hT hacc htch heq
    have hrp : rport T c p.val = rport s c p.val := by rw [hT]; rfl
    have hrd : ∀ n, rd T n = rd s n := fun n => by rw [hT]; rfl
    have hrt : ∀ b, router T b = router s b := fun b => by rw [hT]; rfl
    have hlive' : deadWelt T ((List.range 7).map (fun q => woutKey c q 0)) (16 * p.val + i) = false := by
      rw [hT]; exact hlive
    obtain ⟨n, hn⟩ := weltArrive_stored (f := ⟨d.payload, k.ty == 5 || k.ty == 7, k.ty == 6 || k.ty == 7⟩)
      ((hrd _).symm ▸ hi) hlive' (hrp.symm ▸ hroom)
    rw [hrp] at hn
    refine ⟨_, congrArg Host.Outcome.next (heq.trans hn), hacc, ?_, ?_, ?_, ?_, ?_, ?_⟩
    · rw [rport_maxUp, rport_setRport_same, FMap.get_set_same]
    · intro j hj
      rw [rport_maxUp, rport_setRport_same]
      exact FMap.get_set_ne _ _ _ hj
    · rw [rport_maxUp, rport_setRport_same]
    · intro b hb
      rw [router_maxUp, router_setRport_ne _ _ _ hb, hrt]
    · intro j hj
      rw [rd_maxUp_ne _ _ _ _ (by simpa using hj), rd_setRport, hrd]
    · exact maxUp_touches _ _ _ _ (by decide) (setRport_touches _ _ _ (by decide) htch)
  · have heq := weltFlitSend_owner hst hb hr hroom ho hy
    have hlink : ∀ g, link (noGrant (setRport s c (n / 16) (weltRest (rport s c (n / 16)) (n % 16) l)) (.router c p)) g = link s g :=
      fun g => link_noGrant _ _ g
    have hstore := noGrant_welt (setRport s c (n / 16) (weltRest (rport s c (n / 16)) (n % 16) l)) c p (n / 16)
    have hother : ∀ b : Cell, b.key ≠ c.key →
        router (noGrant (setRport s c (n / 16) (weltRest (rport s c (n / 16)) (n % 16) l)) (.router c p)) b = router s b :=
      fun b hb => (router_noGrant_ne _ c p hb).trans (router_setRport_ne _ _ _ hb)
    have htch : Touches [.regs, .links, .routers, .tel] s
        (noGrant (setRport s c (n / 16) (weltRest (rport s c (n / 16)) (n % 16) l)) (.router c p)) :=
      noGrant_touches _ (by decide) (setRport_touches _ _ _ (by decide) (Touches.refl _ s))
    rw [rport_setRport_same] at hstore
    generalize noGrant (setRport s c (n / 16) (weltRest (rport s c (n / 16)) (n % 16) l)) (.router c p) = T at *
    obtain ⟨hemit, x, hwire⟩ := emitSeq_link (s := T) (weltSend n y.forwarded) hf hne
    have hk := emitSeq_regsLinks T (.router c p) (weltSend n y.forwarded)
    simp only [Emitted, hlink, weltSend_payload] at hemit hwire
    refine ⟨_, congrArg Host.Outcome.next heq, hemit, ?_, ⟨x, hwire⟩, fun b hb => ?_, ?_⟩
    · refine (congrArg (fun z => z.welt.get (n % 16) []) (hk.rport_eq (by decide) c (n / 16))).trans ?_
      simp only [hstore, weltRest_get]
    · exact (hk.router_eq (by decide) b).trans (hother b hb)
    · exact telPort_touches _ _ _ _ (by decide) (emitSeq_touches _ _ (by decide) htch)

end Sys2Proof.Machine

/-! # The swap of a field's or a gateway's tables (R120, R131, R132, R295)

Each table of a swap has registers of its own, so what the swap of one table leaves is what the whole swap leaves. -/

namespace Sys2Proof.Machine

/-! ## States that agree on registers -/

/-- The registers that R names, and the links, are the same. -/
def Agree (R : Nat → Prop) (s t : State) : Prop := t.links = s.links ∧ ∀ j, R j → rd t j = rd s j

theorem Agree.refl (R : Nat → Prop) (s : State) : Agree R s s := ⟨rfl, fun _ _ => rfl⟩

theorem Agree.symm {R : Nat → Prop} {s t : State} (h : Agree R s t) : Agree R t s :=
  ⟨h.1.symm, fun j hj => (h.2 j hj).symm⟩

theorem Agree.trans {R : Nat → Prop} {s t u : State} (h : Agree R s t) (g : Agree R t u) : Agree R s u :=
  ⟨g.1.trans h.1, fun j hj => (g.2 j hj).trans (h.2 j hj)⟩

theorem Agree.mono {R Q : Nat → Prop} {s t : State} (hRQ : ∀ j, Q j → R j) (h : Agree R s t) : Agree Q s t :=
  ⟨h.1, fun j hj => h.2 j (hRQ j hj)⟩

theorem Agree.wr {R : Nat → Prop} {s t : State} (h : Agree R s t) {k : Nat} (v : Word) (hk : ¬ R k) : Agree R s (wr t k v) :=
  ⟨h.1, fun j hj => (rd_wr_ne _ _ (fun e : j = k => hk (e ▸ hj))).trans (h.2 j hj)⟩

theorem Agree.foldl {ι : Type} {f : State → ι → State} {R : Nat → Prop} {L : List ι}
    (hf : ∀ a ∈ L, ∀ s, Agree R s (f s a)) (s : State) : Agree R s (L.foldl f s) := by
  induction L generalizing s with
  | nil => exact Agree.refl R s
  | cons a L ih =>
    obtain ⟨ha, hL⟩ := List.forall_mem_cons.1 hf
    exact (ha s).trans (ih hL _)

/-- Steps that each do their own part, of registers that no other step changes, do all the parts. -/
theorem foldl_each {ι : Type} {f : State → ι → State} {R : ι → Nat → Prop} {P : ι → State → State → Prop} {L : List ι}
    (hf : ∀ a ∈ L, ∀ b ∈ L, a ≠ b → ∀ s, Agree (R b) s (f s a)) (hdo : ∀ a ∈ L, ∀ s, P a s (f s a))
    (hcongr : ∀ a s s' t t', Agree (R a) s s' → Agree (R a) t t' → P a s t → P a s' t') (hL : L.Nodup) (s : State) :
    ∀ a ∈ L, P a s (L.foldl f s) := by
  induction L generalizing s with
  | nil => exact fun a ha => nomatch ha
  | cons a L ih =>
    obtain ⟨ha, hN⟩ := List.nodup_cons.1 hL
    have hne : ∀ b ∈ L, a ≠ b := fun b hb e => ha (e ▸ hb)
    have hLa : ∀ b ∈ L, b ∈ a :: L := fun b hb => List.mem_cons_of_mem _ hb
    intro b hb
    rcases List.mem_cons.1 hb with rfl | hb
    · refine hcongr b s s (f s b) (L.foldl f (f s b)) (Agree.refl _ s) (Agree.foldl (fun d hd => ?_) _) (hdo b List.mem_cons_self s)
      exact hf d (hLa d hd) b List.mem_cons_self (hne d hd).symm
    · refine hcongr b _ s _ _ (hf a List.mem_cons_self b (hLa b hb) (hne b hb) s).symm (Agree.refl _ _) ?_
      exact ih (fun d hd e he => hf d (hLa d hd) e (hLa e he)) (fun d hd => hdo d (hLa d hd)) hN _ b hb

/-! ## The exchange of two tables -/

/-- A register lies in the table at k. -/
def InTab (k j : Nat) : Prop := k ≤ j ∧ j < k + 256

/-- A register lies in one of two tables. -/
def InTabs (sh ac j : Nat) : Prop := InTab sh j ∨ InTab ac j

theorem inTabs_shadow {sh ac i : Nat} (hi : i < 64) : InTabs sh ac (sh + 4 * i) := .inl (by unfold InTab; omega)

theorem inTabs_active {sh ac i : Nat} (hi : i < 64) : InTabs sh ac (ac + 4 * i) := .inr (by unfold InTab; omega)

/-- A table has taken its part of a swap: the banks have exchanged their contents, and of the new active entries those of
`bad` are disabled. -/
def Exchanged (bad : List Nat) (s t : State) (sh ac : Nat) : Prop :=
  ∀ i, i < 64 → rd t (ac + 4 * i) = (if i ∈ bad then rd s (sh + 4 * i) ||| 0x100 else rd s (sh + 4 * i)) ∧
    rd t (sh + 4 * i) &&& 0xFF = rd s (ac + 4 * i) &&& 0xFF

/-- A table has taken its part of a swap, or must wait and is as it was. -/
def TabTook (wait : Bool) (bad : List Nat) (s t : State) (sh ac : Nat) : Prop :=
  if wait = true then ∀ i, i < 64 → rd t (ac + 4 * i) = rd s (ac + 4 * i) ∧ rd t (sh + 4 * i) = rd s (sh + 4 * i)
  else Exchanged bad s t sh ac

section
variable {sh ac : Nat} {s s' t t' : State} (hs : Agree (InTabs sh ac) s s') (ht : Agree (InTabs sh ac) t t')
include hs

theorem tabWords_congr : tabWords s' sh = tabWords s sh := by
  refine List.map_congr_left fun i hi => hs.2 _ (inTabs_shadow (List.mem_range.1 hi))

theorem mustDefer_congr (e : EndRef) (own base : Nat) : mustDefer s' e sh own base = mustDefer s e sh own base := by
  unfold mustDefer link
  rw [hs.1, tabWords_congr hs]

include ht

theorem exchanged_congr {bad : List Nat} (h : Exchanged bad s t sh ac) : Exchanged bad s' t' sh ac := by
  intro i hi
  rw [ht.2 _ (inTabs_active hi), ht.2 _ (inTabs_shadow hi), hs.2 _ (inTabs_active hi), hs.2 _ (inTabs_shadow hi)]
  exact h i hi

theorem tabTook_congr {wait : Bool} {bad : List Nat} (h : TabTook wait bad s t sh ac) : TabTook wait bad s' t' sh ac := by
  unfold TabTook at h ⊢
  split
  next hw =>
    rw [if_pos hw] at h
    intro i hi
    rw [ht.2 _ (inTabs_active hi), ht.2 _ (inTabs_shadow hi), hs.2 _ (inTabs_active hi), hs.2 _ (inTabs_shadow hi)]
    exact h i hi
  next hw =>
    rw [if_neg hw] at h
    exact exchanged_congr hs ht h

end

theorem swapWords_links (s : State) (sh ac n : Nat) : (swapWords s sh ac n).links = s.links :=
  (swapWords_touches (m := [.regs]) sh ac n (List.Subset.refl _) (Touches.refl _ s)).stays .links (by decide)

theorem disableBad_links (s : State) (ac own : Nat) : (disableBad s ac own).1.links = s.links :=
  (disableBad_touches (m := [.regs]) ac own (List.Subset.refl _) (Touches.refl _ s)).stays .links (by decide)

/-- The step of an exchange at one word. -/
def swapWord (s : State) (sh ac : Nat) : State :=
  if rd s sh = rd s ac then s else wr (wr s ac (rd s sh)) sh (rd s ac &&& 0xFF)

theorem swapWords_succ (s : State) (sh ac n : Nat) :
    swapWords s sh ac (n + 1) = swapWords (swapWord s (sh + 4 * n) (ac + 4 * n)) sh ac n := rfl

theorem rd_swapWord_active (s : State) {sh ac : Nat} (h : ac ≠ sh) : rd (swapWord s sh ac) ac = rd s sh := by
  unfold swapWord
  split
  next he => exact he.symm
  next => rw [rd_wr_ne _ _ h, rd_wr_same]

theorem rd_swapWord_shadow (s : State) (sh ac : Nat) : rd (swapWord s sh ac) sh &&& 0xFF = rd s ac &&& 0xFF := by
  unfold swapWord
  split
  next he => rw [he]
  next => rw [rd_wr_same, BitVec.and_assoc, BitVec.and_self]

theorem rd_swapWord_ne (s : State) {sh ac j : Nat} (h1 : j ≠ sh) (h2 : j ≠ ac) : rd (swapWord s sh ac) j = rd s j := by
  unfold swapWord
  split
  · rfl
  · rw [rd_wr_ne _ _ h1, rd_wr_ne _ _ h2]

/-- What no word of an exchange is stays. -/
theorem rd_swapWords_ne (s : State) {sh ac n j : Nat} (h : ∀ i, i < n → j ≠ sh + 4 * i ∧ j ≠ ac + 4 * i) :
    rd (swapWords s sh ac n) j = rd s j := by
  induction n generalizing s with
  | zero => rfl
  | succ n ih =>
    rw [swapWords_succ, ih _ fun i hi => h i (Nat.lt_succ_of_lt hi)]
    exact rd_swapWord_ne s (h n n.lt_succ_self).1 (h n n.lt_succ_self).2

theorem rd_swapWords (s : State) {sh ac n : Nat} (hd : sh + 4 * n ≤ ac ∨ ac + 4 * n ≤ sh) {i : Nat} (hi : i < n) :
    rd (swapWords s sh ac n) (ac + 4 * i) = rd s (sh + 4 * i) ∧
      rd (swapWords s sh ac n) (sh + 4 * i) &&& 0xFF = rd s (ac + 4 * i) &&& 0xFF := by
  induction n generalizing s with
  | zero => exact absurd hi i.not_lt_zero
  | succ n ih =>
    rw [swapWords_succ]
    rcases Nat.lt_succ_iff_lt_or_eq.1 hi with hlt | rfl
    · rw [(ih _ (by omega) hlt).1, (ih _ (by omega) hlt).2, rd_swapWord_ne _ (by omega) (by omega),
        rd_swapWord_ne _ (by omega) (by omega)]
      exact ⟨rfl, rfl⟩
    · rw [rd_swapWords_ne _ fun j hj => ⟨by omega, by omega⟩, rd_swapWords_ne _ fun j hj => ⟨by omega, by omega⟩]
      exact ⟨rd_swapWord_active s (by omega), rd_swapWord_shadow ..⟩

theorem swapWords_agree (s : State) {sh ac : Nat} {R : Nat → Prop} (hR : ∀ j, R j → ¬ InTabs sh ac j) :
    Agree R s (swapWords s sh ac 64) := by
  refine ⟨swapWords_links .., fun j hj => rd_swapWords_ne s fun i hi => ⟨?_, ?_⟩⟩
  · exact fun e => hR j hj (e ▸ inTabs_shadow hi)
  · exact fun e => hR j hj (e ▸ inTabs_active hi)

theorem swapWords_exchanged (s : State) {sh ac : Nat} (hd : sh + 256 ≤ ac ∨ ac + 256 ≤ sh) :
    Exchanged [] s (swapWords s sh ac 64) sh ac := by
  intro i hi
  rw [if_neg List.not_mem_nil]
  exact rd_swapWords s hd hi

/-! ## The entries that break R120 -/

theorem badSlots_lt {tab : List Word} {own i : Nat} (h : i ∈ badSlots tab own) : i < 64 := by
  unfold badSlots at h
  dsimp only at h
  split at h
  · exact List.mem_range.1 (List.mem_filter.1 h).1
  · exact List.mem_range.1 (List.mem_filter.1 (List.mem_filter.1 h).1).1

/-- An entry that a disabled table holds. -/
theorem rd_disable (s : State) (ac : Nat) (l : List Nat) (i : Nat) :
    rd (l.foldl (fun t i => wr t (ac + 4 * i) (rd t (ac + 4 * i) ||| 0x100)) s) (ac + 4 * i) =
      if i ∈ l then rd s (ac + 4 * i) ||| 0x100 else rd s (ac + 4 * i) := by
  induction l generalizing s with
  | nil => rfl
  | cons a l ih =>
    rw [List.foldl_cons, ih]
    by_cases ha : i = a
    · subst ha
      rw [rd_wr_same, if_pos List.mem_cons_self, BitVec.or_assoc, BitVec.or_self, ite_self]
    · rw [rd_wr_ne _ _ (by omega)]
      simp [List.mem_cons, ha]

theorem rd_disable_ne (s : State) {ac j : Nat} {l : List Nat} (h : ∀ i ∈ l, j ≠ ac + 4 * i) :
    rd (l.foldl (fun t i => wr t (ac + 4 * i) (rd t (ac + 4 * i) ||| 0x100)) s) j = rd s j := by
  induction l generalizing s with
  | nil => rfl
  | cons a l ih =>
    obtain ⟨ha, hl⟩ := List.forall_mem_cons.1 h
    rw [List.foldl_cons, ih _ hl, rd_wr_ne _ _ ha]

theorem rd_disableBad (s : State) (ac own i : Nat) :
    rd (disableBad s ac own).1 (ac + 4 * i) =
      if i ∈ badSlots (tabWords s ac) own then rd s (ac + 4 * i) ||| 0x100 else rd s (ac + 4 * i) :=
  rd_disable ..

theorem disableBad_agree (s : State) {ac : Nat} (own : Nat) {R : Nat → Prop} (hR : ∀ j, R j → ¬ InTab ac j) :
    Agree R s (disableBad s ac own).1 := by
  refine ⟨disableBad_links .., fun j hj => rd_disable_ne s fun i hi e => hR j hj ?_⟩
  have := badSlots_lt hi
  unfold InTab
  omega

/-- R131: an output table's exchange, with the entries that break R120 disabled. -/
theorem disableBad_exchanged (s : State) {sh ac : Nat} (own : Nat) (hd : sh + 256 ≤ ac ∨ ac + 256 ≤ sh) :
    Exchanged (badSlots (tabWords s sh) own) s (disableBad (swapWords s sh ac 64) ac own).1 sh ac := by
  have hx := swapWords_exchanged s hd
  have htab : tabWords (swapWords s sh ac 64) ac = tabWords s sh :=
    List.map_congr_left fun i hi => ((hx i (List.mem_range.1 hi)).1).trans (if_neg List.not_mem_nil)
  intro i hi
  obtain ⟨h1, h2⟩ := hx i hi
  rw [if_neg List.not_mem_nil] at h1
  have hbad := rd_disableBad (swapWords s sh ac 64) ac own i
  rw [htab, h1] at hbad
  have hstay := (disableBad_agree (swapWords s sh ac 64) (ac := ac) own (R := InTab sh)
    (fun j hj hj' => by unfold InTab at hj hj'; omega)).2 (sh + 4 * i) (by unfold InTab; omega)
  rw [hbad, hstay]
  exact ⟨rfl, h2⟩

end Sys2Proof.Machine

/-! # The swap of a cell (R131, R132, R140) -/

namespace Sys2Proof.Machine

/-! ## The registers of a cell's tables -/

/-- The first register of a cell. -/
def cellBase (c : Cell) : Nat := (c.field * 2048 + c.num) * 2097152

theorem cellReg_at (c : Cell) (b o : Nat) : cellReg c b o = cellBase c + 65536 * b + o := by
  unfold cellReg regKey cellBase
  omega

/-- A register lies among those of a cell. -/
def CellSpan (c : Cell) (j : Nat) : Prop := cellBase c ≤ j ∧ j < cellBase c + 2097152

theorem cellSpan_unique {a b : Cell} {j : Nat} (ha : CellSpan a j) (hb : CellSpan b j) : a = b := by
  have h1 := cell_num_lt a
  have h2 := cell_num_lt b
  unfold CellSpan cellBase at ha hb
  have hf : a.field = b.field := by omega
  have hn : a.num = b.num := by omega
  rw [← cellOf_field_num a, hf, hn, cellOf_field_num]

theorem cellSpan_parts {c : Cell} {j : Nat} (h : CellSpan c j) : keyDom j = c.field ∧ keyCell j = c.num := by
  have hn := cell_num_lt c
  unfold CellSpan cellBase at h
  unfold keyDom keyCell
  omega

/-! ## One output's part (R131, R132) -/

/-- An output has taken its part of a swap or waits. -/
def OutTook (c : Cell) (p : Fin 7) (s t : State) : Prop :=
  TabTook (mustDefer s (.router c p) (cellReg c 2 (0x1000 + 0x100 * p.val)) p.val 0)
    (badSlots (tabWords s (cellReg c 2 (0x1000 + 0x100 * p.val))) p.val) s t
    (cellReg c 2 (0x1000 + 0x100 * p.val)) (cellReg c 2 (0x2000 + 0x100 * p.val))

/-- The registers of an output's tables. -/
def OutTabs (c : Cell) (p : Fin 7) : Nat → Prop :=
  InTabs (cellReg c 2 (0x1000 + 0x100 * p.val)) (cellReg c 2 (0x2000 + 0x100 * p.val))

theorem outTook_congr {c : Cell} {p : Fin 7} {s s' t t' : State} (hs : Agree (OutTabs c p) s s') (ht : Agree (OutTabs c p) t t')
    (h : OutTook c p s t) : OutTook c p s' t' := by
  unfold OutTook at h ⊢
  rw [mustDefer_congr hs, tabWords_congr hs]
  exact tabTook_congr hs ht h

theorem swapOut_took (s : State) (c : Cell) (p : Fin 7) : OutTook c p s (swapOut s c p) := by
  have hp := p.isLt
  unfold OutTook TabTook
  by_cases hd : mustDefer s (.router c p) (cellReg c 2 (0x1000 + 0x100 * p.val)) p.val 0 = true
  · rw [if_pos hd]
    have hR : ¬ OutTabs c p (cellReg c 2 0) := by
      simp only [OutTabs, InTabs, InTab, cellReg_at]
      omega
    have hk : Agree (OutTabs c p) s (swapOut s c p) := by
      simp only [swapOut, if_pos hd]
      exact Agree.wr ⟨rfl, fun _ _ => rfl⟩ _ hR
    exact fun i hi => ⟨hk.2 _ (inTabs_active hi), hk.2 _ (inTabs_shadow hi)⟩
  · rw [if_neg hd]
    have hx := disableBad_exchanged s (sh := cellReg c 2 (0x1000 + 0x100 * p.val)) (ac := cellReg c 2 (0x2000 + 0x100 * p.val))
      p.val (by simp only [cellReg_at]; omega)
    refine exchanged_congr (Agree.refl _ s) ?_ hx
    have hR : ¬ OutTabs c p (cellReg c 2 4) := by
      simp only [OutTabs, InTabs, InTab, cellReg_at]
      omega
    simp only [swapOut, if_neg hd]
    split
    · exact Agree.wr ⟨rfl, fun _ _ => rfl⟩ _ hR
    · exact ⟨rfl, fun _ _ => rfl⟩

/-- What an output's part of a swap leaves unchanged. -/
theorem swapOut_agree (s : State) (c : Cell) (p : Fin 7) {R : Nat → Prop} (hT : ∀ j, R j → ¬ OutTabs c p j)
    (h0 : ¬ R (cellReg c 2 0)) (h4 : ¬ R (cellReg c 2 4)) : Agree R s (swapOut s c p) := by
  unfold swapOut
  dsimp only
  split
  · exact Agree.wr ⟨rfl, fun _ _ => rfl⟩ _ h0
  · have hs := (swapWords_agree s hT).trans
      (disableBad_agree _ (ac := cellReg c 2 (0x2000 + 0x100 * p.val)) p.val fun j hj hj' => hT j hj (.inr hj'))
    split
    · exact Agree.wr hs _ h4
    · exact hs

/-! ## The swap of a cell -/

/-- The output tables of a cell swap in turn. -/
def swapOuts (s : State) (c : Cell) : State := (List.finRange 7).foldl (fun t p => swapOut t c p) s

/-- The input map of port p swaps. -/
def swapIn (s : State) (c : Cell) (p : Nat) : State :=
  swapWords s (cellReg c 2 (0x3000 + 0x100 * p)) (cellReg c 2 (0x4000 + 0x100 * p)) 64

/-- The input maps of a cell swap in turn. -/
def swapIns (s : State) (c : Cell) : State := (List.range 7).foldl (fun t p => swapIn t c p) s

theorem swapCell_eq (s : State) (c : Cell) :
    swapCell s c = swapWords (swapIns (swapOuts s c) c) (cellReg c 3 0xA400) (cellReg c 3 0xA500) 64 := rfl

theorem swapOuts_took (s : State) (c : Cell) (p : Fin 7) : OutTook c p s (swapOuts s c) := by
  refine foldl_each (R := OutTabs c) (P := OutTook c) ?_ (fun q _ t => swapOut_took t c q)
    (fun q _ _ _ _ => outTook_congr) (List.nodup_finRange 7) s p (List.mem_finRange p)
  intro a _ b _ hne t
  have hab : a.val ≠ b.val := fun e => hne (Fin.ext e)
  have ha := a.isLt
  have hb := b.isLt
  refine swapOut_agree t c a (fun j hj hj' => ?_) ?_ ?_ <;> simp only [OutTabs, InTabs, InTab, cellReg_at] at * <;> omega

theorem swapOuts_agree (s : State) (c : Cell) {R : Nat → Prop} (hR : ∀ j, R j → ¬ (cellReg c 2 0 ≤ j ∧ j < cellReg c 2 0x3000)) :
    Agree R s (swapOuts s c) := by
  refine Agree.foldl (fun p _ t => ?_) s
  have hp := p.isLt
  refine swapOut_agree t c p (fun j hj hj' => hR j hj ?_) (fun h => hR _ h ?_) (fun h => hR _ h ?_) <;>
    simp only [OutTabs, InTabs, InTab, cellReg_at] at * <;> omega

/-- The registers of the input map of port p. -/
def InMaps (c : Cell) (p : Nat) : Nat → Prop := InTabs (cellReg c 2 (0x3000 + 0x100 * p)) (cellReg c 2 (0x4000 + 0x100 * p))

theorem swapIns_exchanged (s : State) (c : Cell) {p : Nat} (hp : p < 7) :
    Exchanged [] s (swapIns s c) (cellReg c 2 (0x3000 + 0x100 * p)) (cellReg c 2 (0x4000 + 0x100 * p)) := by
  refine foldl_each (R := InMaps c)
    (P := fun q a b => Exchanged [] a b (cellReg c 2 (0x3000 + 0x100 * q)) (cellReg c 2 (0x4000 + 0x100 * q))) ?_ ?_
    (fun _ _ _ _ _ hs ht h => exchanged_congr hs ht h) List.nodup_range s p (List.mem_range.2 hp)
  · intro a ha b hb hne t
    have ha := List.mem_range.1 ha
    have hb := List.mem_range.1 hb
    refine swapWords_agree t fun j hj hj' => ?_
    simp only [InMaps, InTabs, InTab, cellReg_at] at *
    omega
  · intro a ha t
    have ha := List.mem_range.1 ha
    refine swapWords_exchanged t ?_
    simp only [cellReg_at]
    omega

theorem swapIns_agree (s : State) (c : Cell) {R : Nat → Prop}
    (hR : ∀ j, R j → ¬ (cellReg c 2 0x3000 ≤ j ∧ j < cellReg c 2 0x5000)) : Agree R s (swapIns s c) := by
  refine Agree.foldl (fun p hp t => swapWords_agree t fun j hj hj' => hR j hj ?_) s
  have hp := List.mem_range.1 hp
  simp only [InTabs, InTab, cellReg_at] at *
  omega

/-- The tables of a cell have taken their parts of a swap. -/
structure CellTook (c : Cell) (s t : State) : Prop where
  outs : ∀ p, OutTook c p s t
  ins : ∀ p, p < 7 → Exchanged [] s t (cellReg c 2 (0x3000 + 0x100 * p)) (cellReg c 2 (0x4000 + 0x100 * p))
  recv : Exchanged [] s t (cellReg c 3 0xA400) (cellReg c 3 0xA500)

theorem swapCell_agree (s : State) (c : Cell) {R : Nat → Prop} (hR : ∀ j, R j → ¬ CellSpan c j) : Agree R s (swapCell s c) := by
  rw [swapCell_eq]
  refine ((swapOuts_agree s c fun j hj hj' => hR j hj ?_).trans (swapIns_agree _ c fun j hj hj' => hR j hj ?_)).trans
    (swapWords_agree _ fun j hj hj' => hR j hj ?_) <;> simp only [CellSpan, InTabs, InTab, cellReg_at] at * <;> omega

theorem swapCell_took (s : State) (c : Cell) : CellTook c s (swapCell s c) := by
  rw [swapCell_eq]
  refine ⟨fun p => ?_, fun p hp => ?_, ?_⟩
  · have hp := p.isLt
    refine outTook_congr (Agree.refl _ s) ((swapIns_agree _ c fun j hj hj' => ?_).trans (swapWords_agree _ fun j hj hj' => ?_))
      (swapOuts_took s c p) <;> simp only [OutTabs, InTabs, InTab, cellReg_at] at * <;> omega
  · refine exchanged_congr (swapOuts_agree s c fun j hj hj' => ?_).symm (swapWords_agree _ fun j hj hj' => ?_)
      (swapIns_exchanged _ c hp) <;> simp only [InTabs, InTab, cellReg_at] at * <;> omega
  · refine exchanged_congr ((swapOuts_agree s c fun j hj hj' => ?_).trans (swapIns_agree _ c fun j hj hj' => ?_)).symm (Agree.refl _ _)
      (swapWords_exchanged _ ?_) <;> simp only [InTabs, InTab, cellReg_at] at * <;> omega

theorem cellTook_congr {c : Cell} {s s' t t' : State} (hs : Agree (CellSpan c) s s') (ht : Agree (CellSpan c) t t')
    (h : CellTook c s t) : CellTook c s' t' := by
  refine ⟨fun p => ?_, fun p hp => ?_, ?_⟩
  · have hp := p.isLt
    refine outTook_congr (hs.mono fun j hj => ?_) (ht.mono fun j hj => ?_) (h.outs p) <;>
      simp only [CellSpan, OutTabs, InTabs, InTab, cellReg_at] at * <;> omega
  · refine exchanged_congr (hs.mono fun j hj => ?_) (ht.mono fun j hj => ?_) (h.ins p hp) <;>
      simp only [CellSpan, InTabs, InTab, cellReg_at] at * <;> omega
  · refine exchanged_congr (hs.mono fun j hj => ?_) (ht.mono fun j hj => ?_) h.recv <;>
      simp only [CellSpan, InTabs, InTab, cellReg_at] at * <;> omega

end Sys2Proof.Machine

/-! # The swap of a field (R131, R140) -/

namespace Sys2Proof.Machine

/-! ## Cells with nothing but reset contents -/

theorem FMap.mem_of_find {α : Type} {m : FMap α} {a : Nat} {x : α} (h : FMap.find m a = some x) : (a, x) ∈ m := by
  induction m with
  | nil => cases h
  | cons e r ih =>
    unfold FMap.find at h
    split at h
    next hk => exact hk ▸ Option.some.inj h ▸ List.mem_cons_self
    · exact List.mem_cons_of_mem _ (ih h)

theorem nodup_eraseDups (l : List Nat) : l.eraseDups.Nodup := by
  generalize hn : l.length = n
  induction n using Nat.strong_induction_on generalizing l with
  | _ n ih =>
    cases l with
    | nil => exact List.nodup_nil
    | cons a l =>
      rw [List.eraseDups_cons, List.nodup_cons]
      refine ⟨fun h => ?_, ih _ ?_ _ rfl⟩
      · simpa using (List.mem_filter.1 (List.mem_eraseDups.1 h)).2
      · subst hn
        exact Nat.lt_succ_of_le (List.length_filter_le _ l)

/-- The numbers of the cells of a field that hold anything but reset contents. -/
def touchedNums (s : State) (f : Nat) : List Nat :=
  ((s.regs.filter (fun x => keyDom x.1 == f && keyCell x.1 < 1200)).map (fun x => keyCell x.1) ++
    (s.routers.filter (fun x => unitKeyDom x.1 == f)).map (fun x => (cellOfKey x.1).num)).eraseDups

theorem touchedCells_eq (s : State) (f : Nat) : touchedCells s f = (touchedNums s f).map (cellOf f) := rfl

theorem touchedNums_lt {s : State} {f n : Nat} (h : n ∈ touchedNums s f) : n < 1200 := by
  rcases List.mem_append.1 (List.mem_eraseDups.1 h) with h | h
  · obtain ⟨x, hx, rfl⟩ := List.mem_map.1 h
    have hx := (List.mem_filter.1 hx).2
    simp only [Bool.and_eq_true, decide_eq_true_eq] at hx
    exact hx.2
  · obtain ⟨x, -, rfl⟩ := List.mem_map.1 h
    exact cell_num_lt _

theorem touchedCells_field {s : State} {f : Nat} (hf : f < 48) {c : Cell} (h : c ∈ touchedCells s f) : c.field = f := by
  obtain ⟨n, hn, rfl⟩ := List.mem_map.1 h
  exact field_cellOf hf (touchedNums_lt hn)

theorem touchedCells_nodup (s : State) (f : Nat) : (touchedCells s f).Nodup := by
  refine List.Nodup.map_on (fun a ha b hb hab => ?_) (nodup_eraseDups _)
  rw [← num_cellOf (d := f) (touchedNums_lt ha), hab, num_cellOf (touchedNums_lt hb)]

/-- A cell that is not in the list has no register written. -/
theorem touchedCells_reset {s : State} {c : Cell} (h : c ∉ touchedCells s c.field) {j : Nat} (hj : CellSpan c j) :
    rd s j = resetOf j := by
  unfold rd FMap.get
  cases hx : s.regs.find j with
  | none => rfl
  | some v =>
    obtain ⟨hd, hc⟩ := cellSpan_parts hj
    refine absurd (List.mem_map.2 ⟨c.num, List.mem_eraseDups.2 (List.mem_append_left _ ?_), cellOf_field_num c⟩) h
    refine List.mem_map.2 ⟨(j, v), List.mem_filter.2 ⟨FMap.mem_of_find hx, ?_⟩, hc⟩
    have := cell_num_lt c
    simp [hd, hc, this]

/-- R11: a register resets to 0 where every row that can hold it does. -/
theorem resetOf_zero (c : Cell) {b o : Nat} {l : List RegRow} (hl : cellBlockRows b = some l) (hb : b < 32) (ho : o < 65536)
    (h : ∀ r, findRow l o = some r → r.reset = 0) : resetOf (cellReg c b o) = 0 := by
  unfold resetOf
  rw [rowOf_cellReg c hb ho, hl, Option.bind_some]
  cases hr : findRow l o with
  | none => rfl
  | some r => exact congrArg (BitVec.ofNat 32) (h r hr)

theorem weltRow_reset (c : Cell) {o : Nat} (ho : o < 65536) : resetOf (cellReg c 2 o) = 0 := by
  have all : weltRows.all (fun r => r.reset == 0) = true := by decide
  refine resetOf_zero c (l := weltRows) rfl (by decide) ho fun r hr => ?_
  exact beq_iff_eq.1 (List.all_eq_true.1 all r (findRow_spec hr).1)

theorem recvRow_reset (c : Cell) {o : Nat} (h1 : 0xA400 ≤ o) (h2 : o < 0xA600) : resetOf (cellReg c 3 o) = 0 := by
  have all : niRows.all (fun r => decide (0 < r.stride) &&
      (r.reset == 0 || decide (0xA600 ≤ r.base) || decide (r.base + r.count * r.stride ≤ 0xA400))) = true := by decide
  refine resetOf_zero c (l := niRows) rfl (by decide) (by omega) fun r hr => ?_
  obtain ⟨hmem, hbase, -, hcount⟩ := findRow_spec hr
  have h := List.all_eq_true.1 all r hmem
  simp only [Bool.and_eq_true, Bool.or_eq_true, beq_iff_eq, decide_eq_true_eq] at h
  have hend : o - r.base < r.count * r.stride := (Nat.div_lt_iff_lt_mul h.1).1 hcount
  omega

/-- A swap of empty tables leaves them. -/
theorem exchanged_empty {s : State} {sh ac : Nat} (h : ∀ j, InTabs sh ac j → rd s j = 0) : Exchanged [] s s sh ac := by
  intro i hi
  rw [h _ (inTabs_active hi), h _ (inTabs_shadow hi), if_neg List.not_mem_nil]
  exact ⟨rfl, rfl⟩

theorem badSlots_empty {s : State} {sh : Nat} (h : ∀ i, i < 64 → rd s (sh + 4 * i) = 0) (own : Nat) :
    badSlots (tabWords s sh) own = [] := by
  have htab : tabWords s sh = (List.range 64).map (fun _ => 0) := List.map_congr_left fun i hi => h i (List.mem_range.1 hi)
  have hown : (List.range 64).filter (fun i => bit (lget ((List.range 64).map (fun _ => (0 : Word))) i 0) 0) = [] := by decide
  simp only [badSlots, htab, hown]
  rfl

/-- A cell that holds nothing but reset contents is as a swap would leave it. -/
theorem cellTook_reset {s : State} {c : Cell} (h : c ∉ touchedCells s c.field) : CellTook c s s := by
  have hwelt : ∀ j, cellReg c 2 0 ≤ j → j < cellReg c 2 0x8000 → rd s j = 0 := by
    intro j h1 h2
    have hj : j = cellReg c 2 (j - cellReg c 2 0) := by
      simp only [cellReg_at] at *
      omega
    rw [touchedCells_reset h (by simp only [CellSpan, cellReg_at] at *; omega), hj]
    exact weltRow_reset c (by simp only [cellReg_at] at *; omega)
  have hrecv : ∀ j, cellReg c 3 0xA400 ≤ j → j < cellReg c 3 0xA600 → rd s j = 0 := by
    intro j h1 h2
    have hj : j = cellReg c 3 (j - cellReg c 3 0) := by
      simp only [cellReg_at] at *
      omega
    rw [touchedCells_reset h (by simp only [CellSpan, cellReg_at] at *; omega), hj]
    refine recvRow_reset c ?_ ?_ <;> simp only [cellReg_at] at * <;> omega
  refine ⟨fun p => ?_, fun p hp => exchanged_empty fun j hj => hwelt j ?_ ?_, exchanged_empty fun j hj => hrecv j ?_ ?_⟩
  · have hp := p.isLt
    unfold OutTook TabTook
    split
    · exact fun _ _ => ⟨rfl, rfl⟩
    · rw [badSlots_empty fun i hi => hwelt _ ?_ ?_]
      · refine exchanged_empty fun j hj => hwelt j ?_ ?_ <;> simp only [InTabs, InTab, cellReg_at] at * <;> omega
      · simp only [cellReg_at]; omega
      · simp only [cellReg_at]; omega
  all_goals
    simp only [InTabs, InTab, cellReg_at] at *
    omega

/-! ## The field -/

theorem swapCells_took (s : State) {f : Nat} {c : Cell} (hc : c.field = f) :
    CellTook c s ((touchedCells s f).foldl swapCell s) := by
  have hdis : ∀ a b : Cell, a ≠ b → ∀ t, Agree (CellSpan b) t (swapCell t a) :=
    fun a b hne t => swapCell_agree t a fun j hb ha => hne (cellSpan_unique ha hb)
  by_cases hm : c ∈ touchedCells s f
  · exact foldl_each (R := CellSpan) (P := CellTook) (fun a _ b _ hne t => hdis a b hne t) (fun a _ t => swapCell_took t a)
      (fun a _ _ _ _ => cellTook_congr) (touchedCells_nodup s f) s c hm
  · exact cellTook_congr (Agree.refl _ s) (Agree.foldl (fun a ha t => hdis a c (fun e => hm (e ▸ ha)) t) s)
      (cellTook_reset (hc.symm ▸ hm))

/-- What the swaps of cells leave unchanged. -/
theorem swapCells_agree (s : State) (L : List Cell) {R : Nat → Prop} (hR : ∀ c j, R j → ¬ CellSpan c j) :
    Agree R s (L.foldl swapCell s) :=
  Agree.foldl (fun c _ t => swapCell_agree t c (hR c)) s

end Sys2Proof.Machine

/-! # The swap of an optical gateway (R295, R297), and the swap of both -/

namespace Sys2Proof.Machine

/-! ## A gateway's tables -/

/-- The first register of a gateway port. -/
def gwBase (g : GwId) : Nat := (g.dom * 2048 + g.num) * 2097152

theorem gwReg_at (g : GwId) (b o : Nat) : gwReg g b o = gwBase g + 65536 * b + o := by
  unfold gwReg regKey gwBase
  omega

theorem wtabKey_at (g : GwId) (k i : Nat) : wtabKey g k i = gwBase g + 0x6000 + 0x100 * k + 4 * i := by
  unfold wtabKey
  rw [gwReg_at]
  omega

theorem wtabKey_entry (g : GwId) (k i : Nat) : wtabKey g k i = wtabKey g k 0 + 4 * i := by
  simp only [wtabKey_at]
  omega

/-- The tables keyed by the band's slots. -/
theorem mem_bandTables {k : Nat} (h : k ∈ [0, 1, 4, 5]) : k = 0 ∨ k = 1 ∨ k = 4 ∨ k = 5 := by simpa using h

/-- The registers of table k of a gateway. -/
def GwTabs (o : OptId) (k : Nat) : Nat → Prop := InTabs (gwReg o.gw 0 (0x5000 + 0x100 * k)) (wtabKey o.gw k 0)

/-- The entries of table k of a gateway that break R120, where it is a table of an output. -/
def gwBad (s : State) (o : OptId) (k : Nat) : List Nat :=
  if 4 ≤ k then badSlots (tabWords s (gwReg o.gw 0 (0x5000 + 0x100 * k))) (tabOwn k) else []

theorem mem_gwBad {s : State} {o : OptId} {k i : Nat} :
    i ∈ gwBad s o k ↔ 4 ≤ k ∧ i ∈ badSlots (tabWords s (gwReg o.gw 0 (0x5000 + 0x100 * k))) (tabOwn k) := by
  unfold gwBad
  split
  next h => exact (and_iff_right h).symm
  next h => simp [h]

/-- Table k of a gateway has taken its part of a swap or waits. -/
def GwTook (o : OptId) (k : Nat) (s t : State) : Prop :=
  TabTook (tabWaits s o k) (gwBad s o k) s t (gwReg o.gw 0 (0x5000 + 0x100 * k)) (wtabKey o.gw k 0)

theorem tabWaits_congr {o : OptId} {k : Nat} {s s' : State} (hs : Agree (GwTabs o k) s s') : tabWaits s' o k = tabWaits s o k := by
  unfold tabWaits
  split
  · exact mustDefer_congr hs _ _ _
  · exact mustDefer_congr hs _ _ _
  · exact mustDefer_congr hs _ _ _
  · rfl

theorem gwTook_congr {o : OptId} {k : Nat} {s s' t t' : State} (hs : Agree (GwTabs o k) s s') (ht : Agree (GwTabs o k) t t')
    (h : GwTook o k s t) : GwTook o k s' t' := by
  unfold GwTook gwBad at h ⊢
  rw [tabWaits_congr hs, tabWords_congr hs]
  exact tabTook_congr hs ht h

theorem swapTab_out (s : State) (o : OptId) {k : Nat} (hk : k = 2 ∨ k = 4 ∨ k = 5) {R : Nat → Prop} (hR : ¬ R (gwReg o.gw 0 0x10)) :
    Agree R (disableBad (swapWords s (gwReg o.gw 0 (0x5000 + 0x100 * k)) (wtabKey o.gw k 0) 64) (wtabKey o.gw k 0) (tabOwn k)).1
      (swapTab s o k) := by
  simp only [swapTab]
  rw [if_pos hk]
  split
  · exact Agree.wr (Agree.refl _ _) _ hR
  · exact Agree.refl _ _

theorem swapTab_in (s : State) (o : OptId) {k : Nat} (hk : ¬ (k = 2 ∨ k = 4 ∨ k = 5)) :
    swapTab s o k = swapWords s (gwReg o.gw 0 (0x5000 + 0x100 * k)) (wtabKey o.gw k 0) 64 :=
  if_neg hk

theorem swapTab_exchanged (s : State) (o : OptId) {k : Nat} (hk : k ∈ [0, 1, 4, 5]) :
    Exchanged (gwBad s o k) s (swapTab s o k) (gwReg o.gw 0 (0x5000 + 0x100 * k)) (wtabKey o.gw k 0) := by
  have hk4 := mem_bandTables hk
  have hd : gwReg o.gw 0 (0x5000 + 0x100 * k) + 256 ≤ wtabKey o.gw k 0 ∨
      wtabKey o.gw k 0 + 256 ≤ gwReg o.gw 0 (0x5000 + 0x100 * k) := by
    simp only [gwReg_at, wtabKey_at]
    omega
  unfold gwBad
  split
  next h4 =>
    refine exchanged_congr (Agree.refl _ s) (swapTab_out s o (by omega) ?_) (disableBad_exchanged s (tabOwn k) hd)
    simp only [InTabs, InTab, gwReg_at, wtabKey_at]
    omega
  next h4 =>
    rw [swapTab_in s o (by omega)]
    exact swapWords_exchanged s hd

theorem swapTab_agree (s : State) (o : OptId) (k : Nat) {R : Nat → Prop} (hT : ∀ j, R j → ¬ GwTabs o k j)
    (hR : ¬ R (gwReg o.gw 0 0x10)) : Agree R s (swapTab s o k) := by
  have hw := swapWords_agree s hT
  by_cases hk : k = 2 ∨ k = 4 ∨ k = 5
  · exact (hw.trans (disableBad_agree _ (tabOwn k) fun j hj hj' => hT j hj (.inr hj'))).trans (swapTab_out s o hk hR)
  · rw [swapTab_in s o hk]
    exact hw

theorem agree_updOpt (R : Nat → Prop) (s : State) (o : OptId) (f : Opt → Opt) : Agree R s (updOpt s o f) :=
  ⟨rfl, fun _ _ => rfl⟩

theorem tabStep_took (s : State) (o : OptId) (at' : Nat) {k : Nat} (hk : k ∈ [0, 1, 4, 5]) : GwTook o k s (tabStep s o at' k) := by
  unfold GwTook TabTook tabStep
  split
  · exact fun _ _ => ⟨rfl, rfl⟩
  · exact exchanged_congr (Agree.refl _ s) (agree_updOpt _ _ _ _) (swapTab_exchanged s o hk)

theorem tabStep_agree (s : State) (o : OptId) (at' k : Nat) {R : Nat → Prop} (hT : ∀ j, R j → ¬ GwTabs o k j)
    (hR : ¬ R (gwReg o.gw 0 0x10)) : Agree R s (tabStep s o at' k) := by
  unfold tabStep
  split
  · exact agree_updOpt _ _ _ _
  · exact (swapTab_agree s o k hT hR).trans (agree_updOpt _ _ _ _)

/-- The tables keyed by the band's slots swap in turn. -/
def gwTables (s : State) (o : OptId) (at' : Nat) : State := [0, 1, 4, 5].foldl (fun t k => tabStep t o at' k) s

theorem gwTables_took (s : State) (o : OptId) (at' : Nat) {k : Nat} (hk : k ∈ [0, 1, 4, 5]) : GwTook o k s (gwTables s o at') := by
  refine foldl_each (R := GwTabs o) (P := GwTook o) ?_ (fun a ha t => tabStep_took t o at' ha) (fun _ _ _ _ _ => gwTook_congr)
    (by decide) s k hk
  intro a ha b hb hne t
  have ha4 := mem_bandTables ha
  have hb4 := mem_bandTables hb
  refine tabStep_agree t o at' a (fun j hj hj' => ?_) ?_ <;> simp only [GwTabs, InTabs, InTab, gwReg_at, wtabKey_at] at * <;> omega

theorem gwTables_agree (s : State) (o : OptId) (at' : Nat) {R : Nat → Prop}
    (hR : ∀ j, R j → ¬ (gwReg o.gw 0 0x5000 ≤ j ∧ j < gwReg o.gw 0 0x7000)) (h10 : ¬ R (gwReg o.gw 0 0x10)) :
    Agree R s (gwTables s o at') := by
  refine Agree.foldl (fun k hk t => tabStep_agree t o at' k (fun j hj hj' => hR j hj ?_) h10) s
  have hk4 := mem_bandTables hk
  simp only [GwTabs, InTabs, InTab, gwReg_at, wtabKey_at] at *
  omega

/-! ## The armed swap is done (R140) -/

theorem swapDone_pending (s : State) (w : WeltDom) : bit (rd (swapDone s w) (warmBase w + 12)) 8 = false := by
  simp only [swapDone, rd_wr_same]
  rw [bit_put_ne _ _ (by omega), bit_eq, getLsbD_put, if_pos (by omega), Nat.zero_testBit, Bool.and_false]

theorem swapDone_swaps (s : State) (w : WeltDom) :
    rdF (swapDone s w) (warmBase w + 12) 16 8 = (rdF s (warmBase w + 12) 16 8 + 1) % 256 := by
  simp only [swapDone, rdF, rd_wr_same]
  exact bits_put_same _ _ (by decide)

theorem swapDone_agree (s : State) (w : WeltDom) {R : Nat → Prop} (hR : ¬ R (warmBase w + 12)) : Agree R s (swapDone s w) :=
  Agree.wr (Agree.refl _ s) _ hR

/-! ## WELT_SWAP -/

section
variable {s : State}

theorem weltSwap_unclocked {w : WeltDom} (h : clocked s (warmDom w) = false) : weltSwap s w = s := by
  simp [weltSwap, h]

theorem weltSwap_field {f : Fin 48} (hc : clocked s (warmDom (.field f)) = true) (hd : swapDue s (.field f) = true) :
    weltSwap s (.field f) = swapDone ((touchedCells s f.val).foldl swapCell s) (.field f) := by
  simp [weltSwap, hc, hd]

/-- R295: what becomes of the tables keyed by optical slots when the band swaps: those that have not swapped ahead are behind. -/
def bandSwapped (s : State) (o : OptId) : State :=
  updOpt s o (fun x => { x with ahead := [], behind := ([2, 3].filter (fun t => !x.ahead.contains t)).map (fun t => (t, 0)) })

theorem weltSwap_gw {o : OptId} (hc : clocked s (warmDom (.gw o)) = true) (hd : swapDue s (.gw o) = true) :
    weltSwap s (.gw o) = swapDone (gwTables (bandSwapped s o) o (frameStart s (warmDom (.gw o)))) (.gw o) := by
  simp [weltSwap, hc, hd, gwTables, bandSwapped]

theorem foldl_fixed_of_mem {ι : Type} {f : State → ι → State} {L : List ι} (h : ∀ a ∈ L, f s a = s) : L.foldl f s = s := by
  induction L with
  | nil => rfl
  | cons a L ih =>
    obtain ⟨ha, hL⟩ := List.forall_mem_cons.1 h
    rw [List.foldl_cons, ha, ih hL]

theorem weltSwap_field_idle {f : Fin 48} (hd : swapDue s (.field f) = false)
    (hw : ∀ c : Cell, c.field = f.val → (router s c).wait = []) : weltSwap s (.field f) = s := by
  have hno : ∀ c ∈ touchedCells s f.val, swapAgain s c = s := fun c hc => by
    simp [swapAgain, hw c (touchedCells_field f.isLt hc)]
  simp [weltSwap, hd, foldl_fixed_of_mem hno]

theorem weltSwap_gw_idle {o : OptId} (hd : swapDue s (.gw o) = false) (hb : (opt s o).behind = []) : weltSwap s (.gw o) = s := by
  simp [weltSwap, hd, hb]

end

/-- PENDING and SWAPS of the swap lie apart from the tables of a field's cells. -/
theorem fieldSwap_outside (f : Fin 48) (c : Cell) : ¬ CellSpan c (warmBase (.field f) + 12) := by
  have := cell_num_lt c
  simp only [CellSpan, cellBase, warmBase, fieldReg, regKey]
  omega

theorem weltSwap_field_took {s : State} {f : Fin 48} (hc : clocked s (warmDom (.field f)) = true)
    (hd : swapDue s (.field f) = true) {c : Cell} (hf : c.field = f.val) : CellTook c s (weltSwap s (.field f)) := by
  rw [weltSwap_field hc hd]
  exact cellTook_congr (Agree.refl _ s) (swapDone_agree _ _ (fieldSwap_outside f c)) (swapCells_took s hf)

theorem weltSwap_gw_took {s : State} {o : OptId} (hc : clocked s (warmDom (.gw o)) = true) (hd : swapDue s (.gw o) = true)
    {k : Nat} (hk : k ∈ [0, 1, 4, 5]) : GwTook o k s (weltSwap s (.gw o)) := by
  rw [weltSwap_gw hc hd]
  refine gwTook_congr (agree_updOpt _ s o _).symm (swapDone_agree _ _ ?_) (gwTables_took (bandSwapped s o) o _ hk)
  have hk4 := mem_bandTables hk
  simp only [GwTabs, InTabs, InTab, gwReg_at, wtabKey_at, warmBase]
  omega

/-- R140: a swap that is done is no longer pending, and is counted. -/
theorem weltSwap_counts {s : State} {w : WeltDom} (hc : clocked s (warmDom w) = true) (hd : swapDue s w = true) :
    bit (rd (weltSwap s w) (warmBase w + 12)) 8 = false ∧
      rdF (weltSwap s w) (warmBase w + 12) 16 8 = (rdF s (warmBase w + 12) 16 8 + 1) % 256 := by
  cases w with
  | field f =>
    have hk : Agree (· = warmBase (.field f) + 12) s ((touchedCells s f.val).foldl swapCell s) :=
      swapCells_agree s _ fun c j hj => hj ▸ fieldSwap_outside f c
    rw [weltSwap_field hc hd]
    refine ⟨swapDone_pending .., (swapDone_swaps ..).trans ?_⟩
    rw [rdF, hk.2 _ rfl, rdF]
  | gw o =>
    have hk : Agree (· = warmBase (.gw o) + 12) s (gwTables (bandSwapped s o) o (frameStart s (warmDom (.gw o)))) := by
      refine (agree_updOpt _ s o _).trans (gwTables_agree _ o _ (fun j hj => ?_) ?_)
      · simp only [gwReg_at, warmBase] at *
        omega
      · simp only [gwReg_at, warmBase]
        omega
    rw [weltSwap_gw hc hd]
    refine ⟨swapDone_pending .., (swapDone_swaps ..).trans ?_⟩
    rw [rdF, hk.2 _ rfl, rdF]

/-- A table of an output, entry by entry. -/
theorem TabTook.entry {wait : Bool} {bad : List Nat} {s t : State} {sh ac i : Nat} (h : TabTook wait bad s t sh ac) (hi : i < 64) :
    if wait = true then rd t (ac + 4 * i) = rd s (ac + 4 * i) ∧ rd t (sh + 4 * i) = rd s (sh + 4 * i)
    else rd t (ac + 4 * i) = (if i ∈ bad then rd s (sh + 4 * i) ||| 0x100 else rd s (sh + 4 * i)) ∧
      rd t (sh + 4 * i) &&& 0xFF = rd s (ac + 4 * i) &&& 0xFF := by
  unfold TabTook at h
  split
  next hw => exact (if_pos hw ▸ h) i hi
  next hw => exact (if_neg hw ▸ h) i hi

/-- A table that no rule of R120 limits, entry by entry. -/
theorem Exchanged.entry {s t : State} {sh ac i : Nat} (h : Exchanged [] s t sh ac) (hi : i < 64) :
    rd t (ac + 4 * i) = rd s (sh + 4 * i) ∧ rd t (sh + 4 * i) &&& 0xFF = rd s (ac + 4 * i) &&& 0xFF := by
  have hx := h i hi
  rwa [if_neg List.not_mem_nil] at hx

theorem cellReg_entry (c : Cell) (b o i : Nat) : cellReg c b (o + 4 * i) = cellReg c b o + 4 * i := by
  simp only [cellReg_at]
  omega

theorem weltSwapWhenDue : Claim.WeltSwapWhenDue := by
  intro w s
  refine ⟨fun hc hd => ?_, fun h => congrArg Host.Outcome.next (weltSwap_unclocked h), ?_, ?_⟩
  · obtain ⟨hpend, hswaps⟩ := weltSwap_counts hc hd
    refine ⟨_, rfl, hpend, hswaps, ?_, ?_, weltSwap_touches w (List.Subset.refl _) (Touches.refl _ s)⟩
    · rintro - f rfl c i hf hi
      obtain ⟨houts, hins, hrecv⟩ := weltSwap_field_took hc hd hf
      simp only [winKey, woutKey, cellReg_entry]
      refine ⟨fun p => ⟨((hins p.val p.isLt).entry hi).1, ((hins p.val p.isLt).entry hi).2, ?_⟩, hrecv.entry hi⟩
      rintro _ rfl
      exact (houts p).entry hi
    · rintro - o rfl k i hk hi sh rfl
      have h := (weltSwap_gw_took hc hd hk).entry hi
      simp only [mem_gwBad] at h
      rwa [wtabKey_entry]
  · rintro f rfl hd hw
    exact congrArg Host.Outcome.next (weltSwap_field_idle hd hw)
  · rintro o rfl hd hb
    exact congrArg Host.Outcome.next (weltSwap_gw_idle hd hb)

/-- Settles O37: a flit in sequence joins the store of its welt and the owner of a slot sends from it; the tables that a swap
exchanges have registers of their own, so each is left as its own exchange leaves it. -/
theorem welts : Obligations.Welts := ⟨weltFlitsPass, weltSwapWhenDue⟩

end Sys2Proof.Machine

/-! # Memory's canonical form

Whatever runs, whether a command or the passing of time, changes memory through writes of bytes alone, which keep its canonical form
(R35, R95): the frames of `exec` and of `tick` carry that. -/

namespace Sys2Proof.Machine

theorem exec_keepsMemoryForm {c : Instr} {s t : State} (hs : Memory.wf s.mem = true) (h : exec c s = .next t) :
    Memory.wf t.mem = true :=
  (exec_leaves (List.subset_cons_self .levelRise commandParts) c (fun _ => List.mem_cons_self) t h).memForm hs

theorem tick_keepsMemoryForm {s : State} (hs : Memory.wf s.mem = true) : Memory.wf (tick s).mem = true :=
  (tick_touches (List.Subset.refl _) (Touches.refl _ s)).memForm hs

/-- Settles O4: an idle step lets time pass, any other runs the front command on the state with the queue's rest, whose memory is
that of the state. -/
theorem stepKeepsMemoryForm : Obligations.StepKeepsMemoryForm := by
  intro s t hs h
  unfold step at h
  split at h
  next => exact Host.Outcome.next.inj h ▸ tick_keepsMemoryForm hs
  next c r _ => exact exec_keepsMemoryForm (s := { s with pending := r }) hs h

end Sys2Proof.Machine

/-! # Packed words, and writes that are served

The fields of a word that was written, or packed from several values; and what a write by the management port comes down to that is
served at once: what its block does with it, and the answer. -/

namespace Sys2Proof.Machine

/-! ## Fields of a written word -/

/-- R12: a field all of whose bits are RW takes the value written. -/
theorem bits_plainWrite (row : RegRow) (old v : Word) {lo len : Nat} (h : lo + len ≤ 32)
    (hrw : ∀ i, i < len → row.rw.testBit (lo + i) = true ∧ row.w1c.testBit (lo + i) = false) :
    bits (plainWrite row old v) lo len = bits v lo len := by
  refine Nat.eq_of_testBit_eq fun i => ?_
  rw [testBit_bits, testBit_bits]
  by_cases hi : i < len
  · have hb := bit_plainWrite row old v (i := lo + i) (by omega)
    simpa [hi, bit_eq, hrw i hi] using hb
  · simp [hi]

/-- Fields in rising order, none reaching into the next, the first at or above a bit. -/
def Laid : Nat → List (Nat × Nat × Nat) → Prop
  | _, [] => True
  | b, f :: l => b ≤ f.1 ∧ Laid (f.1 + f.2.1) l

theorem pack_eq_sum (l : List (Nat × Nat × Nat)) : pack l = (l.map fun f => f.2.2 % 2 ^ f.2.1 * 2 ^ f.1).sum := by
  rw [List.sum_eq_foldl, List.foldl_map]
  rfl

theorem pack_cons (f : Nat × Nat × Nat) (l : List (Nat × Nat × Nat)) :
    pack (f :: l) = f.2.2 % 2 ^ f.2.1 * 2 ^ f.1 + pack l := by
  rw [pack_eq_sum, pack_eq_sum, List.map_cons, List.sum_cons]

theorem pack_dvd {b : Nat} {l : List (Nat × Nat × Nat)} (h : Laid b l) : 2 ^ b ∣ pack l := by
  induction l generalizing b with
  | nil => exact Nat.dvd_zero _
  | cons f l ih =>
    rw [pack_cons]
    refine Nat.dvd_add (Dvd.dvd.mul_left (Nat.pow_dvd_pow 2 h.1) _) ((Nat.pow_dvd_pow 2 ?_).trans (ih h.2))
    exact h.1.trans (Nat.le_add_right _ _)

theorem Laid.le {b : Nat} {l : List (Nat × Nat × Nat)} (h : Laid b l) {f : Nat × Nat × Nat} (hf : f ∈ l) : b ≤ f.1 := by
  induction l generalizing b with
  | nil => cases hf
  | cons x l ih =>
    rcases List.mem_cons.1 hf with rfl | hf
    · exact h.1
    · exact h.1.trans ((Nat.le_add_right _ _).trans (ih h.2 hf))

/-- What lies below a field's first bit has no part in it. -/
theorem add_div_two_pow {y q m n : Nat} (hy : y < 2 ^ m) (h : m ≤ n) : (y + 2 ^ m * q) / 2 ^ n = 2 ^ m * q / 2 ^ n := by
  obtain ⟨e, rfl⟩ := Nat.exists_eq_add_of_le h
  rw [pow_add, ← Nat.div_div_eq_div_mul, ← Nat.div_div_eq_div_mul, Nat.add_mul_div_left _ _ (Nat.two_pow_pos m),
    Nat.div_eq_of_lt hy, Nat.zero_add, Nat.mul_div_cancel_left _ (Nat.two_pow_pos m)]

/-- A field of packed fields. -/
theorem pack_field {b : Nat} {l : List (Nat × Nat × Nat)} (h : Laid b l) {f : Nat × Nat × Nat} (hf : f ∈ l) :
    pack l / 2 ^ f.1 % 2 ^ f.2.1 = f.2.2 % 2 ^ f.2.1 := by
  induction l generalizing b with
  | nil => cases hf
  | cons x l ih =>
    obtain ⟨q, hq⟩ := pack_dvd h.2
    rcases List.mem_cons.1 hf with rfl | hf
    · rw [pack_cons, hq, pow_add, mul_assoc, mul_comm _ (2 ^ f.1), ← mul_add, Nat.mul_div_cancel_left _ (Nat.two_pow_pos _),
        Nat.add_mul_mod_self_left, Nat.mod_mod]
    · have hx : x.2.2 % 2 ^ x.2.1 * 2 ^ x.1 < 2 ^ (x.1 + x.2.1) := by
        rw [pow_add, mul_comm (2 ^ x.1)]
        exact Nat.mul_lt_mul_of_pos_right (Nat.mod_lt _ (Nat.two_pow_pos _)) (Nat.two_pow_pos _)
      rw [← ih h.2 hf, pack_cons, hq, add_div_two_pow hx (h.2.le hf)]

/-- A field of a word of packed fields. -/
theorem bits_pack {l : List (Nat × Nat × Nat)} (h : Laid 0 l) {lo len v : Nat} (hf : (lo, len, v) ∈ l) (h32 : lo + len ≤ 32) :
    bits (BitVec.ofNat 32 (pack l)) lo len = v % 2 ^ len := by
  rw [← pack_field h hf]
  refine Nat.eq_of_testBit_eq fun i => ?_
  rw [testBit_bits, BitVec.getLsbD_ofNat, Nat.testBit_mod_two_pow, Nat.testBit_div_two_pow]
  by_cases hi : i < len
  · have hlt : lo + i < 32 := by omega
    simp [hi, hlt, Nat.add_comm]
  · simp [hi]

/-- A bit of packed bits. -/
theorem testBit_pack {l : List (Nat × Nat × Nat)} (h : Laid 0 l) {i : Nat} {x : Bool} (hf : (i, 1, b2n x) ∈ l) :
    (pack l).testBit i = x := by
  have hb := pack_field h hf
  rw [Nat.testBit_eq_decide_div_mod_eq, show pack l / 2 ^ i % 2 = b2n x % 2 from hb]
  cases x <;> rfl

/-! ## Frames of registers -/

theorem RegsBut.refl (ks : List Nat) (s : State) : RegsBut ks s s := fun _ _ => rfl

theorem RegsBut.wr {ks : List Nat} {s t : State} (h : RegsBut ks s t) {k : Nat} (v : Word) (hk : k ∈ ks) : RegsBut ks s (wr t k v) :=
  fun j hj => (rd_wr_ne _ _ fun e : j = k => hj (e ▸ hk)).trans (h j hj)

theorem RegsBut.answer {ks : List Nat} {s t : State} (h : RegsBut ks s t) {v : Via} {st c : Nat} {d : Option Word} :
    RegsBut ks s (answer t v st c d) :=
  fun j hj => (rd_answer ..).trans (h j hj)

/-- A register stored again as it was: what a write leaves where the register keeps nothing that software stores. -/
def rewritten (s : State) (k : Nat) : State := wr s k (rd s k)

@[simp] theorem rd_rewritten (s : State) (k j : Nat) : rd (rewritten s k) j = rd s j := by
  by_cases h : j = k
  · rw [h]
    exact rd_wr_same ..
  · exact rd_wr_ne _ _ h

theorem rewritten_touches (s : State) (k : Nat) : Touches [.regs] s (rewritten s k) :=
  wr_touches _ _ (List.Subset.refl _) (.refl _ s)

theorem RegsBut.rewritten (ks : List Nat) (s : State) (k : Nat) : RegsBut ks s (rewritten s k) := fun j _ => rd_rewritten s k j

theorem Touches.answer {m : List Part} {s t : State} (h : Touches m s t) (hm : [Part.resp] ⊆ m) {g : Fin 32} {st c : Nat}
    {d : Option Word} : Touches m s (answer t (.mgmt g) st c d) :=
  h.trans ((answer_mgmt_touches t g st c d).mono hm)

/-! ## A write that is served -/

section
variable {s : State} {k : Nat} {row : RegRow} (g : Fin 32) (v : Word)

/-- A served write that clears no status and sets no severity is what its block makes of it, and OK. -/
theorem writeBy_block (h : MgmtServes s k) (hk : k < barBase) (hrow : rowOf k = some row) (ha : absentPort k = false)
    (hw : v &&& BitVec.ofNat 32 row.w1c = 0) (hf : keyDom k ≠ 52 ∨ keyBlk k ≠ 2) :
    writeBy s (.mgmt g) k v = answer (blockWrite s (.mgmt g) true k row v) (.mgmt g) 0 0 none := by
  have hsev : isSev k = false := by
    unfold isSev
    rcases hf with hf | hf <;> simp [hf]
  rw [writeBy_mgmt g v h hk, regWrite_of_row hrow ha, if_neg (not_not.2 hw), hsev, if_neg Bool.false_ne_true]

theorem writeBy_cell {c : Cell} {b o : Nat} (hb : b < 32) (ho : o < 65536) (h : MgmtServes s (cellReg c b o))
    (hrow : (cellBlockRows b).bind (fun rows => findRow rows o) = some row) (hw : row.w1c = 0)
    (ha : b ≠ 0 ∨ o < 448 ∨ 480 ≤ o ∨ c.edge = true) :
    writeBy s (.mgmt g) (cellReg c b o) v =
      answer (blockWrite s (.mgmt g) true (cellReg c b o) row v) (.mgmt g) 0 0 none := by
  refine writeBy_block g v h (cellReg_lt_bar c hb ho) ((rowOf_cellReg c hb ho).trans hrow) (absentPort_cell c hb ho ha) ?_ (.inl ?_)
  · rw [hw]
    exact BitVec.and_zero
  · rw [keyDom_cellReg c hb ho]
    have := cell_field_lt c
    omega

theorem writeBy_svc {b o : Nat} (hb : b < 32) (ho : o < 65536) (h : MgmtServes s (svcReg b o)) (hrow : rowOf (svcReg b o) = some row)
    (hw : v &&& BitVec.ofNat 32 row.w1c = 0) (hf : b ≠ 2) :
    writeBy s (.mgmt g) (svcReg b o) v =
      answer (svcWriteReg s (.mgmt g) true b o (svcReg b o) row v) (.mgmt g) 0 0 none := by
  rw [writeBy_block g v h (svcReg_lt_bar hb ho) hrow (absentPort_svc hb ho) hw (.inr (by rwa [keyBlk_svcReg hb ho])),
    blockWrite_svc _ _ _ _ _ hb ho]

end

end Sys2Proof.Machine

/-! # Settings (R26, R37, R70, R113, R118, R158, R162, R275, R403, R428)

For each setting: the row of its register, the state that its write leaves, and what that state shows of the value written. -/

namespace Sys2Proof.Machine

/-! ## The remap lookup (R26) -/

/-- A register that stores nothing of its own shows what the machine holds elsewhere. -/
theorem regValue_live {s : State} {k : Nat} (hrow : (rowOf k).isSome = true) (ha : absentPort k = false) (hm : storedMask k = 0) :
    regValue s k = BitVec.ofNat 32 (liveBits s k) := by
  obtain ⟨r, hr⟩ := Option.isSome_iff_exists.1 hrow
  unfold regValue
  rw [hr, ha, hm]
  simp

/-- A register of a field's remap block (R25). -/
structure InRemap (f o k : Nat) : Prop where
  field : f < 48
  domain : keyDom k = f
  cell : keyCell k = 2047
  blk : keyBlk k = 0
  off : keyOff k = o

theorem inRemap_fieldReg {f o : Nat} (hf : f < 48) (ho : o < 65536) : InRemap f o (fieldReg f 0 o) :=
  ⟨hf, keyDom_regKey _ (by decide) (by decide) ho, keyCell_regKey _ (by decide) (by decide) ho, keyBlk_regKey _ _ (by decide) ho,
    keyOff_regKey _ _ _ ho⟩

section
variable {f o k : Nat} (hk : InRemap f o k)
include hk

theorem InRemap.row : rowOf k = findRow remapRows o := by
  unfold rowOf blockRows
  simp only [hk.domain, hk.cell, hk.blk, hk.off, if_pos hk.field]
  rfl

theorem InRemap.absent : absentPort k = false := by simp [absentPort, hk.cell]

theorem InRemap.write (s : State) (p : Path) (hh : Bool) (row : RegRow) (v : Word) :
    blockWrite s p hh k row v = wr s k (plainWrite row (rd s k) v) := by
  simp [blockWrite, hk.domain, hk.cell, hk.blk, hk.field]

theorem InRemap.stored (ho : o ≠ 0x10) : storedMask k = 0 := by
  have hf := hk.field
  have h53 : f ≠ 53 := by omega
  simp [storedMask, liveOnly, hk.domain, hk.cell, hk.blk, hk.off, hf, h53, ho]

theorem InRemap.live (s : State) : liveBits s k = remapLive s f o := by
  simp [liveBits, hk.domain, hk.cell, hk.blk, hk.off, hk.field]

theorem InRemap.lt_bar : k < barBase := by
  have hd := hk.domain
  have hf := hk.field
  unfold keyDom at hd
  unfold barBase
  omega

/-- R25, R423: the always-on path reaches the remap block, whatever the state of its field. -/
theorem InRemap.serves {s : State} (hrun : (dom s 52).st = .run) (hheld : s.held = []) (hrow : (findRow remapRows o).isSome = true) :
    MgmtServes s k := by
  refine ⟨hrun, hheld, hk.row ▸ hrow, ?_⟩
  simp [targetVerdict, isRemap, hk.domain, hk.cell, hk.blk, hk.field]

end

theorem unfenced_lt {m len n i : Nat} (h : unfenced m len n = some i) : i < len :=
  List.mem_range.1 (List.mem_filter.1 (List.mem_of_getElem? h)).1

/-- R26: the lookup of a cell of the field: its column and row among the unfenced ones. -/
theorem remapLookup_found {s : State} {f ix iy c r : Nat} (hc : unfenced (colMask s f) 42 ix = some c)
    (hr : unfenced (rowMask s f) 32 iy = some r) (h : ix ≤ 39 ∧ iy ≤ 29) : remapLookup s f ix iy = c + 256 * r := by
  have hno : ¬ (39 < ix ∨ 29 < iy) := by omega
  have hc' := unfenced_lt hc
  have hr' := unfenced_lt hr
  simp only [remapLookup, if_neg hno, hc, hr, pack, List.foldl]
  omega

theorem remapLookup_outside {s : State} {f ix iy : Nat} (h : ¬ (ix ≤ 39 ∧ iy ≤ 29)) : remapLookup s f ix iy = 0x80000000 :=
  if_pos (by omega)

theorem remapLookup_missing {s : State} {f ix iy : Nat}
    (h : unfenced (colMask s f) 42 ix = none ∨ unfenced (rowMask s f) 32 iy = none) : remapLookup s f ix iy = 0x80000000 := by
  unfold remapLookup
  split
  · rfl
  · rcases h with h | h
    · rw [h]
    · rw [h]
      cases unfenced (colMask s f) 42 ix <;> rfl

/-- R25, R26: what CELL_REMAP_LOOKUP_OUT reads once the fuses have loaded. -/
theorem regValue_lookupOut {s : State} {f : Nat} (hf : f < 48) (h : s.boot.fused = true) :
    regValue s (fieldReg f 0 0x14) =
      BitVec.ofNat 32 (remapLookup s f (rdF s (fieldReg f 0 0x10) 0 6) (rdF s (fieldReg f 0 0x10) 8 5)) := by
  have hk := inRemap_fieldReg hf (o := 0x14) (by decide)
  have hrow : (rowOf (fieldReg f 0 0x14)).isSome = true := hk.row ▸ rfl
  rw [regValue_live hrow hk.absent (hk.stored (by decide)), hk.live, remapLive, h]
  rfl

/-- The row of CELL_REMAP_LOOKUP_IN (R25). -/
def lookupInRow : RegRow := ⟨0x10, 4, 1, 0, 0x1F3F, 0, 0, false⟩

theorem remapLookup_exec {s : State} {f : Fin 48} (g : Fin 32) (v : Word) (hrun : (dom s 52).st = .run) (hheld : s.held = []) :
    exec (.remapLookup (.mgmt g) f v) s =
      .next (answer (wr s (fieldReg f.val 0 0x10) (plainWrite lookupInRow (rd s (fieldReg f.val 0 0x10)) v)) (.mgmt g) 0 0 none) := by
  have hk := inRemap_fieldReg f.isLt (o := 0x10) (by decide)
  have hf := hk.field
  have hd : keyDom (fieldReg f.val 0 0x10) ≠ 52 := by
    rw [hk.domain]
    omega
  refine congrArg Host.Outcome.next ?_
  rw [writeBy_block g v (hk.serves hrun hheld rfl) hk.lt_bar (row := lookupInRow) hk.row hk.absent BitVec.and_zero (.inl hd), hk.write]

theorem remapLookupReadsUnfenced : Claim.RemapLookupReadsUnfenced := by
  intro g f v s hrun hheld hfused
  refine ⟨_, remapLookup_exec g v hrun hheld, answer_mgmt_status .., ?_, ((RegsBut.refl _ s).wr _ List.mem_cons_self).answer,
    (wr_touches _ _ (by decide) (.refl _ s)).answer (by decide)⟩
  have hx : ∀ old, bits (plainWrite lookupInRow old v) 0 6 = bits v 0 6 := fun old =>
    bits_plainWrite _ _ _ (by decide) (by decide)
  have hy : ∀ old, bits (plainWrite lookupInRow old v) 8 5 = bits v 8 5 := fun old =>
    bits_plainWrite _ _ _ (by decide) (by decide)
  rw [regValue_lookupOut f.isLt (by exact hfused)]
  simp only [rdF, rd_answer, rd_wr_same, hx, hy]
  show BitVec.ofNat 32 (remapLookup s f.val _ _) = _
  cases hc : unfenced (colMask s f.val) 42 (bits v 0 6) with
  | none =>
    rw [remapLookup_missing (.inl hc)]
    rfl
  | some c =>
    cases hr : unfenced (rowMask s f.val) 32 (bits v 8 5) with
    | none =>
      rw [remapLookup_missing (.inr hr)]
      rfl
    | some r =>
      by_cases hin : bits v 0 6 ≤ 39 ∧ bits v 8 5 ≤ 29
      · rw [remapLookup_found hc hr hin]
        exact (if_pos hin).symm
      · rw [remapLookup_outside hin]
        exact (if_neg hin).symm

/-! ## Mirrored registers: the wafer ID and memory sizes (R37, R275, R428) -/

theorem FMap.find_map {α : Type} (m : FMap α) (g : Nat × α → Nat × α) (hg : ∀ x, (g x).1 = x.1) (a : Nat) :
    FMap.find (m.map g) a = (FMap.find m a).map (fun v => (g (a, v)).2) := by
  induction m with
  | nil => rfl
  | cons e r ih =>
    obtain ⟨k, v⟩ := e
    have hk : g (k, v) = (k, (g (k, v)).2) := Prod.ext (hg _) rfl
    rw [List.map_cons, hk]
    by_cases h : k = a
    · subst h
      simp [FMap.find]
    · simpa [FMap.find, h] using ih

/-- R428: the domains in RUN take the register's value. -/
theorem dom_mirrorReg (s : State) (k d : Nat) :
    dom (mirrorReg s k) d =
      if d < 52 ∧ (dom s d).st = .run then { dom s d with copies := (dom s d).copies.set k (rd s k) } else dom s d := by
  unfold dom FMap.get
  simp only [mirrorReg]
  rw [FMap.find_map _ _ (fun x => by split <;> rfl)]
  cases FMap.find s.doms d with
  | none => simp [Dom.init]
  | some x =>
    simp only [Option.map_some, Option.getD_some]
    split <;> rfl

theorem copyOf_mirrorReg {s : State} (k : Nat) {d : Nat} (hd : d < 52) (hrun : (dom s d).st = .run) :
    copyOf (mirrorReg s k) d k = rd s k := by
  rw [copyOf, dom_mirrorReg, if_pos ⟨hd, hrun⟩]
  exact FMap.get_set_same ..

theorem rd_mirrorReg (s : State) (k j : Nat) : rd (mirrorReg s k) j = rd s j := rfl

/-- The row of CFG_WAFER_ID (R36). -/
def waferIdRow : RegRow := ⟨0, 4, 1, 0, 0xFFFFF, 0x40000000, 0, false⟩

section
variable {s : State} {v : Word}

/-- R36: a write that does not clear WR_ERR is served and answered. -/
theorem waferIdWrite_exec (g : Fin 32) (hrun : (dom s 52).st = .run) (hheld : s.held = []) (hbit : bit v 30 = false) :
    exec (.waferIdWrite (.mgmt g) v) s = .next (answer (waferWrite s v) (.mgmt g) 0 0 none) := by
  have hrow : rowOf (svcReg 0 0) = some waferIdRow := by decide +kernel
  have hserve : MgmtServes s (svcReg 0 0) := by
    refine ⟨hrun, hheld, hrow ▸ rfl, ?_⟩
    simp [targetVerdict, keyDom_svcReg]
  have hw : v &&& BitVec.ofNat 32 waferIdRow.w1c = 0 := by
    rw [show BitVec.ofNat 32 waferIdRow.w1c = BitVec.twoPow 32 30 from rfl, BitVec.and_twoPow, ← bit_eq, hbit]
    rfl
  exact congrArg Host.Outcome.next (writeBy_svc g v (by decide) (by decide) hserve hrow hw (by decide))

theorem waferWrite_taken (hbit : bit v 30 = false) (hl : bits v 0 20 ≠ waferLocal)
    (hup : ∀ n, n < 64 → optUpNow s (optOf n) = false) :
    waferWrite s v = mirrorReg (wrF s (svcReg 0 0) 0 20 (bits v 0 20)) (svcReg 0 0) := by
  have hno : ¬ (bits v 0 20 = waferLocal ∨ (List.range 64).any (fun n => optUpNow s (optOf n)) = true) := by
    simpa [hl] using hup
  simp only [waferWrite, hbit, Bool.false_eq_true, if_false, if_neg hno]

theorem waferWrite_refused (hbit : bit v 30 = false)
    (h : bits v 0 20 = waferLocal ∨ ∃ n, n < 64 ∧ optUpNow s (optOf n) = true) :
    waferWrite s v = wrF s (svcReg 0 0) 30 1 1 := by
  have hyes : bits v 0 20 = waferLocal ∨ (List.range 64).any (fun n => optUpNow s (optOf n)) = true := by
    simpa using h
  simp only [waferWrite, hbit, Bool.false_eq_true, if_false, if_pos hyes]

end

theorem waferIdWrite : Claim.WaferIdWrite := by
  intro g v s hrun hheld hbit
  refine ⟨fun hl hup => ?_, fun h => ?_⟩
  · have hexec := waferIdWrite_exec g hrun hheld hbit
    rw [waferWrite_taken hbit hl hup] at hexec
    have hval : bits (put (rd s (svcReg 0 0)) 0 20 (bits v 0 20)) 0 20 = bits v 0 20 :=
      (bits_put_same _ _ (by decide)).trans (Nat.mod_eq_of_lt (bits_lt v 0 20))
    refine ⟨_, hexec, answer_mgmt_status .., ?_, ?_, fun d hd hst => ?_, RegsBut.answer fun j hj => ?_, ?_⟩
    · rw [rdF, rd_answer, rd_mirrorReg, rd_wrF_same, hval]
    · rw [rd_answer, rd_mirrorReg, rd_wrF_same, bit_put_ne _ _ (by decide)]
    · show bits (copyOf (mirrorReg _ _) d _) 0 20 = _
      rw [copyOf_mirrorReg (s := wrF ..) _ hd hst, rd_wrF_same, hval]
    · exact rd_wrF_ne _ _ _ _ (List.ne_of_not_mem_cons hj)
    · exact (mirrorReg_touches _ (by decide) (wrF_touches _ _ _ _ (by decide) (.refl _ s))).answer (by decide)
  · have hexec := waferIdWrite_exec g hrun hheld hbit
    rw [waferWrite_refused hbit h] at hexec
    refine ⟨_, hexec, answer_mgmt_status .., ?_, ?_, RegsBut.answer fun j hj => rd_wrF_ne _ _ _ _ (List.ne_of_not_mem_cons hj), ?_⟩
    · rw [rdF, rd_answer, rd_wrF_same, bits_put_ne _ _ (by decide)]
      rfl
    · rw [rd_answer, rd_wrF_same, bit_eq, getLsbD_put]
      rfl
    · exact (wrF_touches _ _ _ _ (by decide) (.refl _ s)).answer (by decide)

/-- The row of MEM_CFG (R298). -/
def memCfgRow : RegRow := ⟨0, 4, 1, 0, 0x3FF, 0, 0, false⟩

theorem memSizeWrite_exec {s : State} {m : MemId} (g : Fin 32) (v : Word) (h : MgmtServes s (gwReg m.gw 1 0)) :
    exec (.memSizeWrite (.mgmt g) m v) s =
      .next (answer (mirrorReg (wr s (gwReg m.gw 1 0) (plainWrite memCfgRow (rd s (gwReg m.gw 1 0)) v)) (gwReg m.gw 1 0))
        (.mgmt g) 0 0 none) := by
  have hd : keyDom (gwReg m.gw 1 0) ≠ 52 := by
    rw [keyDom_gwReg _ (by decide) (by decide)]
    exact Nat.ne_of_lt (gw_dom_lt _)
  refine congrArg Host.Outcome.next ?_
  rw [writeBy_block g v h (gwReg_lt_bar _ (by decide) (by decide)) (row := memCfgRow) (rowOf_gwReg _ (by decide) (by decide))
    (absentPort_gw _ (by decide) (by decide)) BitVec.and_zero (.inl hd), blockWrite_gw _ _ _ _ _ _ (by decide) (by decide)]
  rfl

theorem memorySizeMirrored : Claim.MemorySizeMirrored := by
  intro g m v s h
  have hval : bits (plainWrite memCfgRow (rd s (gwReg m.gw 1 0)) v) 0 10 = bits v 0 10 :=
    bits_plainWrite _ _ _ (by decide) (by decide)
  refine ⟨_, memSizeWrite_exec g v h, answer_mgmt_status .., ?_, fun d hd hst => ?_, fun d hst => ?_, RegsBut.answer fun j hj => ?_, ?_⟩
  · rw [rdF, rd_answer, rd_mirrorReg, rd_wr_same, hval]
  · show bits (copyOf (mirrorReg _ _) d _) 0 10 = _
    rw [copyOf_mirrorReg (s := wr ..) _ hd hst, rd_wr_same, hval]
  · exact (dom_mirrorReg _ _ d).trans (if_neg fun e => hst e.2)
  · exact rd_wr_ne _ _ (List.ne_of_not_mem_cons hj)
  · exact (mirrorReg_touches _ (by decide) (wr_touches _ _ (by decide) (.refl _ s))).answer (by decide)

/-! ## Grants (R403) -/

/-- The row of SEC_HOST_GRANT (R420). -/
def grantRow : RegRow := ⟨0x80, 4, 8, 0, 7, 0, 0, false⟩

theorem rowOf_grant (h : Fin 8) : rowOf (secReg (0x80 + 4 * h.val)) = some grantRow := by
  revert h
  decide +kernel

theorem svcWriteReg_grant (s : State) (p : Path) (hh : Bool) (k : Nat) (row : RegRow) (v : Word) {o : Nat} (ho : 0x80 ≤ o) :
    svcWriteReg s p hh 4 o k row v = wr s k (plainWrite row (rd s k) v) := by
  have h4 : ¬ o = 4 := by omega
  have hresp : ¬ (0x40 ≤ o ∧ o < 0x60) := by omega
  exact (if_neg h4).trans (if_neg hresp)

theorem hostGrantWrite_exec {s : State} {h : Fin 8} (g : Fin 32) (v : Word) (hserve : MgmtServes s (secReg (0x80 + 4 * h.val))) :
    exec (.hostGrantWrite (.mgmt g) h v) s =
      .next (answer (wr s (secReg (0x80 + 4 * h.val)) (plainWrite grantRow (rd s (secReg (0x80 + 4 * h.val))) v)) (.mgmt g) 0 0 none) := by
  have hw := writeBy_svc g v (by decide) (by omega) hserve (rowOf_grant h) BitVec.and_zero (by decide)
  rw [svcWriteReg_grant _ _ _ _ _ _ (Nat.le_add_right _ _)] at hw
  exact congrArg Host.Outcome.next hw

/-- R403: the view that a grant gives at the debug level. -/
theorem effView_eq (s : State) (p : Nat) :
    effView s p = if rdF s (secReg (0x80 + 4 * p)) 0 2 = 1 then 1
      else if rdF s (secReg (0x80 + 4 * p)) 0 2 = 2 then (if 2 ≤ s.sec.level then 2 else 1) else 0 := by
  unfold effView
  split
  next h => rw [if_pos h]
  next h => rw [h, if_neg (show ¬ 2 = 1 by decide), if_pos rfl]
  next h1 h2 => rw [if_neg h1, if_neg h2]

theorem hostGrantTakesEffect : Claim.HostGrantTakesEffect := by
  intro g h v s hserve
  refine ⟨_, hostGrantWrite_exec g v hserve, answer_mgmt_status .., ?_, ?_, fun p hp hne => ?_,
    ((RegsBut.refl _ s).wr _ List.mem_cons_self).answer, (wr_touches _ _ (by decide) (.refl _ s)).answer (by decide)⟩
  · have hgrant : ∀ old, bits (plainWrite grantRow old v) 0 2 = bits v 0 2 := fun old =>
      bits_plainWrite _ _ _ (by decide) (by decide)
    rw [effView_eq]
    simp only [rdF, rd_answer, rd_wr_same, hgrant]
    rfl
  · rw [rdF, rd_answer, rd_wr_same, bits_plainWrite _ _ _ (by decide) (by decide)]
  · have hk : secReg (0x80 + 4 * p) ≠ secReg (0x80 + 4 * h.val) :=
      svcReg_ne (by decide) (by omega) (by decide) (by omega) (.inr (by omega))
    simp only [effView_eq, rdF, rd_answer, rd_wr_ne _ _ hk]
    rfl

/-! ## Routers: epoch, port enables, retraining and marks (R70, R113, R118, R158, R161) -/

section
variable {s : State} {c : Cell} (g : Fin 32)

/-- The row of CELL_EPOCH (R118). -/
def cellEpochRow : RegRow := ⟨0, 4, 1, 0, 3, 0, 0, false⟩

theorem cellEpochWrite_exec (v : Word) (h : MgmtServes s (cellReg c 1 0)) :
    exec (.cellEpochWrite (.mgmt g) c v) s =
      .next (answer (wr s (cellReg c 1 0) (plainWrite cellEpochRow (rd s (cellReg c 1 0)) v)) (.mgmt g) 0 0 none) := by
  refine congrArg Host.Outcome.next ?_
  rw [writeBy_cell g v (by decide) (by decide) h (row := cellEpochRow) rfl rfl (.inl (by decide)),
    blockWrite_router _ _ _ _ _ _ (by decide) (by decide)]
  rfl

theorem portEnableWrite_exec (v : Word) (h : MgmtServes s (cellReg c 1 4)) :
    exec (.portEnableWrite (.mgmt g) c v) s =
      .next (answer (portEnable (rewritten s (cellReg c 1 4)) c (bits v 0 7)) (.mgmt g) 0 0 none) := by
  refine congrArg Host.Outcome.next ?_
  rw [writeBy_cell g v (by decide) (by decide) h (row := ⟨4, 4, 1, 0, 0, 0, 0, false⟩) rfl rfl (.inl (by decide)),
    blockWrite_router _ _ _ _ _ _ (by decide) (by decide)]
  simp only [routerWrite, plainWrite_ro]
  rfl

theorem portRetrain_exec {p : Fin 7} (h : MgmtServes s (portReg c p.val 0)) (hp : p.val = 6 → c.edge = true) :
    exec (.portRetrain (.mgmt g) c p) s =
      .next (answer (portRetrain (rewritten s (portReg c p.val 0)) c p.val) (.mgmt g) 0 0 none) := by
  have hrow : ∀ q : Fin 7, findRow routerRows (0x100 + 0x20 * q.val + 0) = some ⟨0x100, 0x20, 7, 0, 0, 0, 0, false⟩ := by decide
  have ho : 0x100 + 0x20 * p.val + 0 < 65536 := by omega
  have ha : (0 : Nat) ≠ 0 ∨ 0x100 + 0x20 * p.val + 0 < 448 ∨ 480 ≤ 0x100 + 0x20 * p.val + 0 ∨ c.edge = true := by
    by_cases h6 : p.val = 6
    · exact .inr (.inr (.inr (hp h6)))
    · omega
  refine congrArg Host.Outcome.next ?_
  have hw := writeBy_cell g 1 (by decide) ho h (hrow p) rfl ha
  rw [blockWrite_router _ _ _ _ _ _ (by decide) ho] at hw
  have hsel : 0 = 0 ∧ 0x100 ≤ 0x100 + 0x20 * p.val + 0 ∧ 0x100 + 0x20 * p.val + 0 < 0x1E0 ∧ (0x100 + 0x20 * p.val + 0) % 0x20 = 0 := by
    omega
  have hport : (0x100 + 0x20 * p.val + 0 - 0x100) / 0x20 = p.val := by omega
  rw [routerWrite, if_pos hsel, hport, plainWrite_ro _ rfl rfl] at hw
  exact hw

theorem cellHwmClear_exec {p : Fin 7} (h : MgmtServes s (cellReg c 0 (0x410 + 4 * p.val))) :
    exec (.cellHwmClear (.mgmt g) c p) s =
      .next (answer (hwmClear (rewritten s (cellReg c 0 (0x410 + 4 * p.val))) c p.val) (.mgmt g) 0 0 none) := by
  have hrow : ∀ q : Fin 7, findRow routerRows (0x410 + 4 * q.val) = some ⟨0x410, 4, 7, 0, 0, 0, 0, false⟩ := by decide
  have ho : 0x410 + 4 * p.val < 65536 := by omega
  have hw := writeBy_cell g goBit (by decide) ho h (hrow p) rfl (.inr (.inr (.inl (by omega))))
  rw [blockWrite_router _ _ _ _ _ _ (by decide) ho] at hw
  have hnot : ¬ (0 = 0 ∧ 0x100 ≤ 0x410 + 4 * p.val ∧ 0x410 + 4 * p.val < 0x1E0 ∧ (0x410 + 4 * p.val) % 0x20 = 0) := by omega
  have hsel : 0 = 0 ∧ 0x410 ≤ 0x410 + 4 * p.val ∧ 0x410 + 4 * p.val < 0x42C := by omega
  have hport : (0x410 + 4 * p.val - 0x410) / 4 = p.val := by omega
  rw [routerWrite, if_neg hnot, if_pos hsel, hport, plainWrite_ro _ rfl rfl] at hw
  exact congrArg Host.Outcome.next hw

theorem niHwmClr_exec (v : Word) (h : MgmtServes s (cellReg c 3 0xB014)) :
    exec (.niHwmClr (.mgmt g) c v) s =
      .next (answer (niHwmClr (rewritten s (cellReg c 3 0xB014)) c v) (.mgmt g) 0 0 none) := by
  have hrow : findRow niRows 0xB014 = some ⟨0xB014, 4, 1, 0, 0, 0, 0, false⟩ := by decide
  refine congrArg Host.Outcome.next ?_
  rw [writeBy_cell g v (by decide) (by decide) h hrow rfl (.inl (by decide)), blockWrite_ni _ _ _ _ _ _ (by decide)]
  simp only [niWriteReg, plainWrite_ro]
  rfl

end

/-! ### What a port's enables become (R113) -/

theorem laid_bits (f : Nat → Bool) : Laid 0 ((List.range 7).map (fun p => (p, 1, b2n (f p)))) := by
  simp [Laid, List.range, List.range.loop]

theorem testBit_mask (f : Nat → Bool) {p : Nat} (hp : p < 7) :
    (pack ((List.range 7).map (fun p => (p, 1, b2n (f p))))).testBit p = f p :=
  testBit_pack (laid_bits f) (List.mem_map.2 ⟨p, List.mem_range.2 hp, rfl⟩)

section
variable (s : State) (c : Cell) (v : Nat)

theorem router_portEnable_ports : (router (portEnable s c v) c).ports = (router s c).ports := by
  simp [portEnable]

variable {s c v}

theorem router_portEnable_ena {p : Nat} (hp : p < 7) : (router (portEnable s c v) c).ena.testBit p =
    (v.testBit p || ((router s c).ena.testBit p && drainOld s c p != 0)) := by
  simp only [portEnable, router_setRouter_same]
  exact testBit_mask _ hp

theorem router_portEnable_clr {p : Nat} (hp : p < 7) : (router (portEnable s c v) c).clr.testBit p =
    (!v.testBit p && (router s c).ena.testBit p && drainOld s c p != 0) := by
  simp only [portEnable, router_setRouter_same]
  exact testBit_mask _ hp

end

/-! ### A link that starts training (R70) -/

theorem effSt_router_st {s : State} {c : Cell} {p : Fin 7} {x : PortSt} (h : effSt s (.router c p) = some x) :
    x = .down ∨ x = (link s (.router c p)).st := by
  unfold effSt at h
  dsimp only at h
  split at h
  · cases h
  · split at h
    · exact .inl (Option.some.inj h).symm
    · split at h
      · exact .inr (Option.some.inj h).symm
      · exact .inl (Option.some.inj h).symm

theorem effSt_present {s : State} {c : Cell} {p : Fin 7} {x : PortSt} (h : effSt s (.router c p) = some x) (hp : p.val = 6) :
    c.edge = true := by
  by_contra hc
  rw [Bool.not_eq_true] at hc
  have hn : effSt s (.router c p) = none := if_pos ⟨hp, hc⟩
  rw [hn] at h
  cases h

/-- R70: RETRAIN leaves a port that is not DOWN in TRAIN, with its counts begun again; no other link end changes. -/
theorem portRetrain_trains {s : State} {c : Cell} {p : Fin 7} {x : PortSt} (h : effSt s (.router c p) = some x) (hx : x ≠ .down) :
    ∃ f : LinkEnd → LinkEnd, portRetrain s c p.val = updLink s (.router c p) f ∧
      (f (link s (.router c p))).st = .train ∧ (f (link s (.router c p))).good = 0 ∧ (f (link s (.router c p))).ready = false := by
  have hp : Fin.ofNat 7 p.val = p := Fin.ext (Nat.mod_eq_of_lt p.isLt)
  unfold portRetrain
  rw [hp]
  simp only [h]
  cases x with
  | down => exact absurd rfl hx
  | train => exact ⟨_, rfl, ((effSt_router_st h).resolve_left hx).symm, rfl, rfl⟩
  | up | replay | fail => exact ⟨_, rfl, rfl, rfl, rfl⟩

theorem drainOld_rewritten (s : State) (c : Cell) (k p : Nat) : drainOld (rewritten s k) c p = drainOld s c p := by
  simp only [drainOld, rdF, rd_rewritten]
  rfl

theorem cellSettingsWrite : Claim.CellSettingsWrite := by
  refine fun g => ⟨fun c v s h => ?_, fun c v s h => ?_, fun c port st s h heff hst => ?_⟩
  · refine ⟨_, cellEpochWrite_exec g v h, answer_mgmt_status .., ?_, ((RegsBut.refl _ s).wr _ List.mem_cons_self).answer,
      (wr_touches _ _ (by decide) (.refl _ s)).answer (by decide)⟩
    rw [rdF, rd_answer, rd_wr_same, bits_plainWrite _ _ _ (by decide) (by decide)]
  · have hbit : ∀ p, p < 7 → (bits v 0 7).testBit p = bit v p := fun p hp => by
      rw [testBit_bits, bit_eq, Nat.zero_add]
      simp [hp]
    refine ⟨_, portEnableWrite_exec g v h, answer_mgmt_status .., fun p hp => ⟨?_, ?_⟩, router_portEnable_ports .., fun c' hc' =>
      router_setRouter_ne _ _ hc', RegsBut.answer fun j _ => ?_, ?_⟩
    · refine (router_portEnable_ena hp).trans ?_
      rw [drainOld_rewritten, hbit p hp]
      rfl
    · refine (router_portEnable_clr hp).trans ?_
      rw [drainOld_rewritten, hbit p hp]
      rfl
    · exact rd_rewritten s _ j
    · exact (portEnable_touches _ _ (by decide) ((rewritten_touches s _).mono (by decide))).answer (by decide)
  · have hexec := portRetrain_exec g h (effSt_present heff)
    have htouch : Touches [.regs, .links, .resp] s (portRetrain (rewritten s (portReg c port.val 0)) c port.val) :=
      portRetrain_touches _ _ (by decide) ((rewritten_touches s _).mono (by decide))
    obtain ⟨f, hf, hst', hgood, hready⟩ := portRetrain_trains (s := rewritten s (portReg c port.val 0)) (p := port) heff hst
    rw [hf] at hexec htouch
    have hlink := link_updLink_same (rewritten s (portReg c port.val 0)) (.router c port) f
    refine ⟨_, hexec, answer_mgmt_status .., (congrArg LinkEnd.st hlink).trans hst', (congrArg LinkEnd.good hlink).trans hgood,
      (congrArg LinkEnd.ready hlink).trans hready, fun e he => link_updLink_ne _ _ he, RegsBut.answer fun j _ => ?_,
      htouch.answer (by decide)⟩
    exact rd_rewritten s _ j

/-! ### Marks (R158, R161, R162) -/

theorem rd_hwmClear (s : State) (c : Cell) (p : Nat) {k : Nat} (hk : k < 4) :
    rdF (hwmClear s c p) (cellReg c 0 (0x410 + 4 * p)) (5 * k) 5 =
      (((vcIn s c p (2 * k)).q.filter (fun f => f.credit)).length +
        ((vcIn s c p (2 * k + 1)).q.filter (fun f => f.credit)).length) % 32 := by
  rw [hwmClear, rdF, rd_wr_same]
  refine bits_pack ?_ (List.mem_map.2 ⟨k, List.mem_range.2 hk, rfl⟩) (by omega)
  simp [Laid, List.range, List.range.loop]

/-- R162: NI_HWM_CLR's first bit: the marks of the Last table and of the outstanding entries. -/
def marksAgain (s : State) (c : Cell) (v : Word) : State :=
  if bit v 0 then
    wr s (cellReg c 3 0xB010) (BitVec.ofNat 32 (pack [(0, 10, lastOpen s c), (10, 10, lastHeld s c), (20, 11, outCount s (.ni c))]))
  else s

/-- R162: its bit 1 + k: the highest age k. -/
def ageAgain (c : Cell) (v : Word) (t : State) (k : Nat) : State :=
  if bit v (1 + k) then wr t (cellReg c 3 (0xB020 + 4 * k)) 0 else t

theorem niHwmClr_eq (s : State) (c : Cell) (v : Word) : niHwmClr s c v = (List.range 4).foldl (ageAgain c v) (marksAgain s c v) := rfl

section
variable (s : State) (c : Cell) (v : Word)

theorem rd_ageAgain (k j : Nat) :
    rd (ageAgain c v s k) j = if j = cellReg c 3 (0xB020 + 4 * k) ∧ bit v (1 + k) = true then 0 else rd s j := by
  unfold ageAgain
  split
  next h =>
    by_cases hj : j = cellReg c 3 (0xB020 + 4 * k)
    · rw [if_pos ⟨hj, h⟩, hj, rd_wr_same]
    · rw [if_neg fun e => hj e.1, rd_wr_ne _ _ hj]
  next h => rw [if_neg fun e => h e.2]

theorem ageReg_inj {i k : Nat} (hi : i < 4) (hk : k < 4) (h : cellReg c 3 (0xB020 + 4 * i) = cellReg c 3 (0xB020 + 4 * k)) :
    i = k := by
  by_contra hne
  exact cellReg_ne c (by decide) (by omega) (by decide) (by omega) (.inr (by omega)) h

/-- The highest ages are cleared one by one. -/
theorem rd_agesAgain (n j : Nat) :
    rd ((List.range n).foldl (ageAgain c v) s) j =
      if ∃ k, k < n ∧ j = cellReg c 3 (0xB020 + 4 * k) ∧ bit v (1 + k) = true then 0 else rd s j := by
  induction n with
  | zero => simp
  | succ n ih =>
    rw [List.range_succ, List.foldl_append, List.foldl_cons, List.foldl_nil, rd_ageAgain, ih]
    by_cases hlast : j = cellReg c 3 (0xB020 + 4 * n) ∧ bit v (1 + n) = true
    · rw [if_pos hlast, if_pos ⟨n, Nat.lt_succ_self n, hlast⟩]
    · rw [if_neg hlast]
      refine if_congr ⟨fun ⟨k, hk, hj⟩ => ⟨k, by omega, hj⟩, fun ⟨k, hk, hj⟩ => ⟨k, ?_, hj⟩⟩ rfl rfl
      have hne : k ≠ n := fun e => hlast (e ▸ hj)
      omega

theorem rd_marksAgain_ne {j : Nat} (h : j ≠ cellReg c 3 0xB010) : rd (marksAgain s c v) j = rd s j := by
  unfold marksAgain
  split
  · exact rd_wr_ne _ _ h
  · rfl

theorem rd_niHwmClr_age {k : Nat} (hk : k < 4) :
    rd (niHwmClr s c v) (cellReg c 3 (0xB020 + 4 * k)) = if bit v (1 + k) then 0 else rd s (cellReg c 3 (0xB020 + 4 * k)) := by
  have hne : cellReg c 3 (0xB020 + 4 * k) ≠ cellReg c 3 0xB010 :=
    cellReg_ne c (by decide) (by omega) (by decide) (by decide) (.inr (by omega))
  rw [niHwmClr_eq, rd_agesAgain, rd_marksAgain_ne _ _ _ hne]
  refine if_congr ⟨fun ⟨i, hi, hj, hb⟩ => ?_, fun h => ⟨k, hk, rfl, h⟩⟩ rfl rfl
  exact ageReg_inj c hk hi hj ▸ hb

theorem rd_niHwmClr_other {j : Nat} (h : ∀ k, k < 4 → j ≠ cellReg c 3 (0xB020 + 4 * k)) :
    rd (niHwmClr s c v) j = rd (marksAgain s c v) j := by
  rw [niHwmClr_eq, rd_agesAgain, if_neg fun ⟨k, hk, hj, _⟩ => h k hk hj]

theorem rd_niHwmClr_marks : rd (niHwmClr s c v) (cellReg c 3 0xB010) = rd (marksAgain s c v) (cellReg c 3 0xB010) :=
  rd_niHwmClr_other s c v fun k hk => cellReg_ne c (by decide) (by decide) (by decide) (by omega) (.inr (by omega))

end

theorem rdF_marksAgain {s : State} {c : Cell} {v : Word} (h : bit v 0 = true) {lo len n : Nat}
    (hf : (lo, len, n) ∈ [(0, 10, lastOpen s c), (10, 10, lastHeld s c), (20, 11, outCount s (.ni c))]) (h32 : lo + len ≤ 32) :
    rdF (marksAgain s c v) (cellReg c 3 0xB010) lo len = n % 2 ^ len := by
  rw [marksAgain, if_pos h, rdF, rd_wr_same]
  exact bits_pack (by simp [Laid]) hf h32

theorem highWaterMarksStartAgain : Claim.HighWaterMarksStartAgain := by
  refine fun g => ⟨fun c port s h => ?_, fun c v s h => ?_⟩
  · refine ⟨_, cellHwmClear_exec g h, answer_mgmt_status .., fun k hk => ?_,
      ((RegsBut.rewritten _ s _).wr _ List.mem_cons_self).answer,
      (hwmClear_touches _ _ (by decide) ((rewritten_touches s _).mono (by decide))).answer (by decide)⟩
    rw [rdF, rd_answer]
    exact rd_hwmClear _ c port.val hk
  · have htouch : Touches [.regs, .resp] s (niHwmClr (rewritten s (cellReg c 3 0xB014)) c v) :=
      niHwmClr_touches _ _ (by decide) ((rewritten_touches s _).mono (by decide))
    refine ⟨_, niHwmClr_exec g v h, answer_mgmt_status .., fun hv => ?_, fun hv => ?_, fun k hk => ?_, RegsBut.answer fun j hj => ?_,
      htouch.answer (by decide)⟩
    · simp only [rdF, rd_answer, rd_niHwmClr_marks]
      exact ⟨rdF_marksAgain hv (.head _) (by decide), rdF_marksAgain hv (.tail _ (.head _)) (by decide),
        rdF_marksAgain hv (.tail _ (.tail _ (.head _))) (by decide)⟩
    · rw [rd_answer, rd_niHwmClr_marks, marksAgain, hv, if_neg Bool.false_ne_true, rd_rewritten]
    · rw [rd_answer, rd_niHwmClr_age _ _ _ hk, rd_rewritten]
    · have hage : ∀ k, k < 4 → j ≠ cellReg c 3 (0xB020 + 4 * k) := fun k hk e => by
        refine hj (List.mem_cons_of_mem _ ?_)
        show j ∈ (List.range 4).map (fun k => cellReg c 3 (0xB020 + 4 * k))
        exact List.mem_map.2 ⟨k, List.mem_range.2 hk, e.symm⟩
      rw [rd_niHwmClr_other _ _ _ hage, rd_marksAgain_ne _ _ _ (List.ne_of_not_mem_cons hj), rd_rewritten]

/-- Settles O12: each write is served and answered, and what its block makes of it is read off the word written. -/
theorem settingsTakeEffect : Obligations.SettingsTakeEffect :=
  ⟨remapLookupReadsUnfenced, waferIdWrite, cellSettingsWrite, highWaterMarksStartAgain, hostGrantTakesEffect, memorySizeMirrored⟩

end Sys2Proof.Machine

/-! # Commands that leave memory (R66, R70, R291, R377)

None of the parts that these commands may change is memory: it stands in the frame of each of their operations. Only the welt sends of
an NI may complete a descriptor, whose entry lies in memory (R242). -/

namespace Sys2Proof.Machine

/-- The parts that a command of a link, of time, of faults or of telemetry may change. -/
def serviceParts : List Part :=
  [.regs, .links, .routers, .units, .rx, .tx, .cmbs, .gws, .doms, .clks, .mer, .flt, .tel, .sec, .freeCtr]

theorem withinService {l : List Part} (h : l ⊆ serviceParts := by decide) : l ⊆ serviceParts := h

/-- R121: a router or an optical gateway takes the welt flit that it sends from a store of its own. -/
theorem weltNext_leavesMemory {s s1 : State} {e : EndRef} {w : Nat} {f : WFlit} (he : ∀ c, e ≠ .ni c)
    (h : weltNext s e = some (w, f, s1)) : Touches [.routers, .gws] s s1 := by
  suffices hopt : TouchesOpt [.routers, .gws] s (fun x => x.2.2) (weltNext s e) from hopt _ h
  unfold weltNext
  split
  · exact touchesOpt_none
  · have refl := Touches.refl [.routers, .gws] s
    rcases e with ⟨c, p⟩ | c | c | ⟨⟨sd, i⟩ | ⟨sd, i⟩ | ⟨sd, i⟩, j⟩ | o
    · exact touchesOpt_map fun _ => setRport_touches _ _ _ (by decide) refl
    · exact absurd rfl (he c)
    · exact touchesOpt_none
    · exact touchesOpt_none
    · refine touchesOpt_map fun _ => ?_
      dsimp only
      exact updOpt_touches _ _ (by decide) refl
    · exact touchesOpt_none
    · exact touchesOpt_none

theorem weltFlitSend_leavesMemory {s : State} {e : EndRef} (he : ∀ c, e ≠ .ni c) :
    Touches serviceParts s (weltFlitSend s e) := by
  have refl := Touches.refl serviceParts s
  unfold weltFlitSend
  split
  · exact refl
  refine .ite (fun _ => refl) fun _ => ?_
  split
  · exact .ite (fun _ => countRetry_touches _ withinService
      (emitReplay_touches _ _ withinService (noGrant_touches _ withinService refl))) fun _ => refl
  refine .ite (fun _ => refl) fun _ => ?_
  split
  · exact refl
  next w f s1 hnext =>
    have hsent : ∀ x, Touches serviceParts s (emitSeq (noGrant s1 e) e x) := fun x =>
      emitSeq_touches _ _ withinService (noGrant_touches _ withinService ((weltNext_leavesMemory he hnext).mono withinService))
    dsimp only
    split
    · exact telPort_touches _ _ _ _ withinService (hsent _)
    · exact hsent _

/-- Settles O8: memory is none of the parts that these commands may change. -/
theorem linkAndServiceCommandsLeaveMemory : Obligations.LinkAndServiceCommandsLeaveMemory := by
  intro s t c h hc a
  suffices hl : Leaves serviceParts s (exec c s) from congrArg (memGet · a) ((hl t h).stays .mem (by decide))
  have refl := Touches.refl serviceParts s
  cases c with
  | flitReceive => exact .next (flitReceive_touches _ _ withinService refl)
  | nakTimeout => exact .next (nakTimeout_touches _ withinService refl)
  | ackTimeout => exact .next (ackTimeout_touches _ withinService refl)
  | headerAllocate => exact .next (headerAllocate_touches _ _ _ withinService refl)
  | portPeerDown => exact .next (portPeerDown_touches _ _ withinService refl)
  | trainFlitReceive => exact .next (trainFlitReceive_touches _ _ withinService refl)
  | weltFlitReceive => exact .next (weltFlitReceive_touches _ _ withinService refl)
  | weltFlitSend e => exact .next (weltFlitSend_leavesMemory fun c he => by subst he; exact hc)
  | weltSwap => exact .next (weltSwap_touches _ withinService refl)
  | portDisableApply => exact .next (portDisableApply_touches _ _ withinService refl)
  | shaperRefill => exact .next (shaperRefill_touches _ withinService refl)
  | meterUpdate => exact .next (meterUpdate_touches _ withinService refl)
  | codewordReceive => exact .next (codewordReceive_touches _ _ withinService refl)
  | laneTestStart => exact .next (laneTestStart_touches _ _ withinService refl)
  | laneFault => exact .next (laneFault_touches _ _ _ _ withinService refl)
  | opticalIngress => exact .next (opticalIngress_touches _ withinService refl)
  | holdoverExpire => exact .next (holdoverExpire_touches withinService refl)
  | mclkLost => exact .next (loseRef_touches _ withinService refl)
  | timestampCapture => exact .next (timestampCapture_touches _ _ withinService refl)
  | timePulse => exact .next (timePulse_touches withinService refl)
  | errorPinRise => exact .next (errorPinRise_touches _ _ _ withinService refl)
  | reportAccept => exact .next (reportAccept_touches _ withinService refl)
  | logWrite => exact .next (logWrite_touches withinService refl)
  | snapshotCopy => exact .next (snapshotCopy_touches _ withinService refl)
  | challengeReady => exact .next (challengeReady_touches withinService refl)
  | quiesceEnd => exact .next (quiesceEnd_touches _ withinService refl)
  | wakePacket => exact .next (wakePacket_touches _ withinService refl)
  | _ => exact absurd hc id

end Sys2Proof.Machine

/-! # A replayed flit at an optical end (R66, R341)

Where an optical end discards, the flit that it expects is the first of its peer's replay: it spoils a time exchange that waits for
its RSP, which is no part of the link or of a unit. -/

namespace Sys2Proof.Machine

/-- The end of an optical link. -/
def replayedEnd : EndRef := .optical ⟨0, 0⟩

/-- The CREDIT flit that the end expects (R59). -/
def replayedCtl : Ctl := { ty := 2, w := false, vc := 0, seq6 := 0, crv := true, crvc := 5, ack6 := 0, nak := false }

/-- The end discards, and that flit has come, while a time exchange waits for its RSP. -/
def replayDuringExchange : State :=
  updOpt (updLink State.reset replayedEnd (fun l => { l with st := .up, discard := true, wire := [⟨flitWires 0 replayedCtl, 0⟩] }))
    ⟨0, 0⟩ (fun x => { x with exch := some { xseq := 0, t1 := 0, unsync := false, since := 0, sent := true, spoiled := false } })

theorem replayDuringExchange_inSequence : effSt replayDuringExchange replayedEnd = some .up ∧
    InSequence replayDuringExchange replayedEnd 0 ⟨flitWires 0 replayedCtl, 0⟩ (decodeFlit (flitWires 0 replayedCtl)) replayedCtl := by
  unfold InSequence
  decide +kernel

theorem replayDuringExchange_spoils :
    (opt (flitReceive replayDuringExchange replayedEnd 0) ⟨0, 0⟩).exch ≠ (opt replayDuringExchange ⟨0, 0⟩).exch := by
  decide +kernel

/-- Refutes O34: its first clause holds an expected CREDIT flit to change no part but links and units, at every end; at an optical
end that discards it also spoils the time exchange under way (R341), which the gateway holds. -/
theorem not_flitsReceivedAndRetried : ¬ Obligations.FlitsReceivedAndRetried := by
  intro ⟨⟨hcredit, _, _⟩, _⟩
  obtain ⟨hup, hin⟩ := replayDuringExchange_inSequence
  obtain ⟨t, hexec, -, -, -, htouch⟩ := hcredit _ _ _ _ _ _ hup hin rfl rfl
  have ht : flitReceive replayDuringExchange replayedEnd 0 = t := Host.Outcome.next.inj hexec
  have hgws : t.gws = replayDuringExchange.gws := htouch.stays .gws (by decide)
  refine replayDuringExchange_spoils ?_
  rw [ht]
  simp only [opt, gw, hgws]

end Sys2Proof.Machine

/-! # Training, and ports that go down (R67, R69, R70, R113)

At an end in TRAIN a TRAIN flit first acknowledges what its back channel names, and then counts or starts the count again. -/

namespace Sys2Proof.Machine

/-! ## Link ends after operations that leave or acknowledge flits -/

section
variable (s : State) (e f : EndRef)

theorem link_portErr (b : Nat) : link (portErr s e b) f = link s f :=
  (portErr_touches (m := [.regs]) e b (List.Subset.refl _) (.refl _ s)).link_eq (by decide) f

theorem link_noteCorr (d : Decoded) : link (noteCorr s e d) f = link s f :=
  (noteCorr_touches (m := [.regs, .tel]) e d (List.Subset.refl _) (.refl _ s)).link_eq (by decide) f

theorem link_countRxErr : link (countRxErr s e) f = link s f :=
  (countRxErr_touches (m := [.tel]) e (List.Subset.refl _) (.refl _ s)).link_eq (by decide) f

theorem link_residDrop (l : List Rep) : link (residDrop s e l) f = link s f :=
  (residDrop_touches (m := [.routers]) e l (List.Subset.refl _) (.refl _ s)).link_eq (by decide) f

variable {s e f}

theorem link_popWire_ne (h : f.key ≠ e.key) : link (popWire s e) f = link s f := link_updLink_ne _ _ h

theorem link_ackN_ne (n : Nat) (h : f.key ≠ e.key) : link (ackN s e n) f = link s f := by
  unfold ackN
  split
  · rfl
  · rw [link_residDrop, link_setLink_ne _ _ h]

/-- R67: an acknowledgement of n flits at an end that does not replay takes them from the replay buffer, and changes nothing else but
where a replay stands and the timer. -/
theorem link_ackN {n : Nat} (h : (link s e).st ≠ .replay) : ∃ resend run runFrom ackDue, link (ackN s e n) e =
    { link s e with
      replay := (link s e).replay.drop n, resend := resend, run := run, runFrom := runFrom, ackDue := ackDue } := by
  unfold ackN
  split
  next hn => exact ⟨_, _, _, _, by rw [hn, List.drop_zero]⟩
  · rw [link_residDrop, link_setLink_same, if_neg fun hr => h hr.1]
    exact ⟨_, _, _, _, rfl⟩

/-- R67: where an end is neither UP nor in a replay, no NAK starts one. -/
theorem backChannel_notLive {k : Ctl} {n : Nat} (h : (link s e).st.live = false) (hn : ackPos (link s e) 64 k.ack6 = some n) :
    backChannel s e k = ackN s e n := by
  have hst : (link s e).st ≠ .replay := fun hr => by rw [hr] at h; exact absurd h (by decide)
  obtain ⟨_, _, _, _, hl⟩ := link_ackN (n := n) hst
  have hrep : startReplay (ackN s e n) e = ackN s e n := if_pos (.inr (by rw [hl, h]; decide))
  simp only [backChannel, hn, hrep, ite_self]

/-- The state that an end shows is DOWN or its own. -/
theorem effSt_st {x : PortSt} (h : effSt s e = some x) : x = .down ∨ x = (link s e).st := by
  have shown : ∀ {c : Prop} [Decidable c] {y : PortSt}, (if c then some y else some .down) = some x → x = .down ∨ x = y :=
    fun hc => by
      split at hc
      · exact .inr (Option.some.inj hc).symm
      · exact .inl (Option.some.inj hc).symm
  cases e with
  | router c p => exact effSt_router_st h
  | ni c => exact shown h
  | cmb c => exact shown h
  | gw g j =>
    unfold effSt at h
    dsimp only at h
    split at h
    · exact .inl (Option.some.inj h).symm
    · exact shown h
  | optical o => exact .inr (Option.some.inj h).symm

end

/-! ## TRAIN flits (R70) -/

/-- A TRAIN flit at an end in TRAIN, off the wires, and n flits acknowledged (R67). -/
def trainAcked (s : State) (e : EndRef) (d : Decoded) (n : Nat) : State := ackN (noteCorr (popWire s e) e d) e n

/-- R70: a link end after one more good TRAIN flit. -/
def trainCounted (p : Payload) (l : LinkEnd) : LinkEnd :=
  { l with
    good := l.good + 1, ready := l.ready || decide (64 ≤ l.good + 1), peerExp := some (bits p 0 12), peerFresh := l.peerFresh || bit p 13,
    peerReady := l.peerReady || bit p 12, peerFree := (List.range 8).map (fun v => bits p (16 + 4 * v) 4) }

section
variable {s : State} {e : EndRef} {d : Decoded} {n : Nat}

theorem trainAcked_touches : Touches [.regs, .links, .routers, .tel] s (trainAcked s e d n) :=
  ackN_touches _ _ (by decide) (noteCorr_touches _ _ (by decide) (popWire_touches _ (by decide) (.refl _ s)))

theorem link_trainAcked_ne {f : EndRef} (h : f.key ≠ e.key) : link (trainAcked s e d n) f = link s f := by
  rw [trainAcked, link_ackN_ne n h, link_noteCorr, link_popWire_ne h]

theorem link_trainAcked (h : (link s e).st = .train) : ∃ wire resend run runFrom ackDue, link (trainAcked s e d n) e =
    { link s e with
      wire := wire, replay := (link s e).replay.drop n, resend := resend, run := run, runFrom := runFrom, ackDue := ackDue } := by
  have hl : link (noteCorr (popWire s e) e d) e = { link s e with wire := (link s e).wire.tail } := by
    rw [link_noteCorr, popWire, link_updLink_same]
  have hst : (link (noteCorr (popWire s e) e d) e).st ≠ .replay := by rw [hl, h]; decide
  obtain ⟨resend, run, runFrom, ackDue, hack⟩ := link_ackN (n := n) hst
  rw [hl] at hack
  exact ⟨_, _, _, _, _, hack⟩

/-- R70: a TRAIN flit that decodes: it acknowledges, and then it counts or not. -/
theorem trainFlitReceive_inTrain {flips : BitVec 568} {w : Wire} {k : Ctl} (hst : effSt s e = some .train)
    (harr : arriving s e flips = some (w, d)) (hctl : d.ctl = some k) (hty : k.ty = 1)
    (hn : ackPos (link s e) 64 k.ack6 = some n) :
    trainFlitReceive s e flips =
      if d.crcErr then trainBad (countRxErr (trainAcked s e d n) e) e else trainTake (trainAcked s e d n) e d.payload := by
  have htrain : (link s e).st = .train := ((effSt_st hst).resolve_left (by decide)).symm
  have hl : link (noteCorr (popWire s e) e d) e = { link s e with wire := (link s e).wire.tail } := by
    rw [link_noteCorr, popWire, link_updLink_same]
  have hback : backChannel (noteCorr (popWire s e) e d) e k = trainAcked s e d n :=
    backChannel_notLive (by rw [hl, htrain]; rfl) (by rw [hl]; exact hn)
  simp [trainFlitReceive, hst, harr, hctl, hty, hback]

/-- R70: a good TRAIN flit that does not yet bring both ends to UP. -/
theorem trainTake_counts {p : Payload} (hp : trainFixed p = true)
    (h : (trainCounted p (link s e)).ready = false ∨ (trainCounted p (link s e)).peerReady = false) :
    trainTake s e p = updLink s e (trainCounted p) := by
  have hno : ¬ ((link (updLink s e (trainCounted p)) e).ready = true ∧ (link (updLink s e (trainCounted p)) e).peerReady = true) := by
    rw [link_updLink_same]
    rintro ⟨h1, h2⟩
    rcases h with h | h
    · exact absurd (h1.symm.trans h) (by decide)
    · exact absurd (h2.symm.trans h) (by decide)
  exact (if_pos hp).trans (if_neg hno)

/-- R70: a TRAIN flit in error starts the count again and changes nothing else of its end. -/
theorem link_trainBad : link (trainBad s e) e = { link s e with good := 0, ready := false } := by
  rw [trainBad, link_updLink_same, link_portErr]

theorem link_trainBad_ne {f : EndRef} (h : f.key ≠ e.key) : link (trainBad s e) f = link s f := by
  rw [trainBad, link_updLink_ne _ _ h, link_portErr]

end

theorem trainFlitsCount : Claim.TrainFlitsCount := by
  intro e flips s w d k hst harr hctl hty n hn
  have htrain : (link s e).st = .train := ((effSt_st hst).resolve_left (by decide)).symm
  have heq := trainFlitReceive_inTrain hst harr hctl hty hn
  obtain ⟨_, _, _, _, _, hl⟩ := link_trainAcked (d := d) (n := n) htrain
  have hne := fun (f : EndRef) (hf : f.key ≠ e.key) => link_trainAcked_ne (s := s) (d := d) (n := n) hf
  have htouch := trainAcked_touches (s := s) (e := e) (d := d) (n := n)
  generalize trainAcked s e d n = T at heq hl hne htouch
  have htouch' : Touches [.regs, .links, .routers, .tel] s (updLink T e (trainCounted d.payload)) :=
    updLink_touches _ _ (by decide) htouch
  have hne' : ∀ f : EndRef, f.key ≠ e.key → link (updLink T e (trainCounted d.payload)) f = link s f := fun f hf =>
    (link_updLink_ne _ _ hf).trans (hne f hf)
  refine ⟨fun hcrc hfix hgood hready => ?_, fun hcrc hfix hgood hbit hpeer => ?_, fun hbad => ?_⟩
  · have hr : (trainCounted d.payload (link T e)).ready = false := by simp [trainCounted, hl, hready]; omega
    rw [hcrc, if_neg Bool.false_ne_true, trainTake_counts hfix (.inl hr)] at heq
    refine ⟨_, congrArg Host.Outcome.next heq, ?_, ?_, ?_, ?_, ?_, ?_, hne', htouch'⟩ <;> rw [link_updLink_same]
    · simp [trainCounted, hl]
    · exact hr
    all_goals simp [trainCounted, hl]
  · have hp : (trainCounted d.payload (link T e)).peerReady = false := by simp [trainCounted, hl, hbit, hpeer]
    rw [hcrc, if_neg Bool.false_ne_true, trainTake_counts hfix (.inr hp)] at heq
    refine ⟨_, congrArg Host.Outcome.next heq, ?_, ?_, ?_, hne', htouch'⟩ <;> rw [link_updLink_same]
    · simp [trainCounted, hl]; omega
    all_goals simp [trainCounted, hl]
  · obtain ⟨U, hU, hlU, hbadT⟩ : ∃ U, Touches [.tel] T U ∧ (∀ f, link U f = link T f) ∧ trainFlitReceive s e flips = trainBad U e := by
      by_cases hcrc : d.crcErr = true
      · exact ⟨_, countRxErr_touches _ (List.Subset.refl _) (.refl _ T), link_countRxErr T e, heq.trans (if_pos hcrc)⟩
      · exact ⟨T, .refl _ T, fun _ => rfl, heq.trans ((if_neg hcrc).trans (if_neg (by simpa [hcrc] using hbad)))⟩
    refine ⟨_, congrArg Host.Outcome.next hbadT, ?_, ?_, ?_, ?_, fun f hf => ?_,
      trainBad_touches _ (by decide) (htouch.trans (hU.mono (by decide)))⟩
    iterate 4 rw [link_trainBad, hlU, hl]
    rw [link_trainBad_ne hf, hlU, hne f hf]

/-! ## Ports that go down (R69, R113) -/

theorem testBit_sub_two_pow {n p : Nat} (h : n.testBit p = true) (q : Nat) :
    (n - 2 ^ p).testBit q = (n.testBit q && decide (q ≠ p)) := by
  have hodd : n / 2 ^ p % 2 = 1 := by simpa [Nat.testBit_eq_decide_div_mod_eq] using h
  have hlow : n % 2 ^ p < 2 ^ p := Nat.mod_lt _ (Nat.two_pow_pos p)
  obtain ⟨a, ha⟩ : ∃ a, n / 2 ^ p = 2 * a + 1 := ⟨n / 2 ^ p / 2, by omega⟩
  have hn : n = 2 ^ p * (2 * a + 1) + n % 2 ^ p := by rw [← ha, Nat.div_add_mod]
  have hsub : n - 2 ^ p = 2 ^ p * (2 * a) + n % 2 ^ p := by
    rw [Nat.mul_add, Nat.mul_one] at hn
    omega
  rw [hsub, Nat.testBit_two_pow_mul_add _ hlow]
  conv_rhs => rw [hn, Nat.testBit_two_pow_mul_add _ hlow]
  split
  next hq => simp [Nat.ne_of_lt hq]
  next hq =>
    obtain ⟨j, rfl⟩ := Nat.exists_eq_add_of_le (Nat.le_of_not_lt hq)
    rw [Nat.add_sub_cancel_left]
    cases j with
    | zero => simp
    | succ j =>
      have hhalf : (2 * a + 1) / 2 = a := by omega
      simp [Nat.testBit_succ, hhalf]

/-- R113: a port's enable is cleared, if it was set. -/
theorem testBit_clear (n p q : Nat) : (n - n / 2 ^ p % 2 * 2 ^ p).testBit q = (n.testBit q && decide (q ≠ p)) := by
  cases h : n.testBit p with
  | true =>
    have hodd : n / 2 ^ p % 2 = 1 := by simpa [Nat.testBit_eq_decide_div_mod_eq] using h
    rw [hodd, Nat.one_mul, testBit_sub_two_pow h]
  | false =>
    have heven : n / 2 ^ p % 2 = 0 := by simpa [Nat.testBit_eq_decide_div_mod_eq] using h
    rw [heven, Nat.zero_mul, Nat.sub_zero]
    by_cases hq : q = p
    · simp [hq, h]
    · simp [hq]

theorem portPeerDown_eq {s : State} {c : Cell} {p : Fin 7} {f : EndRef} (hf : (EndRef.router c p).peer = some f) :
    portPeerDown s c p = if clocked s f.dom then s else
      updLink s (.router c p) (fun l => { l with st := .down, wire := [], resend := 0, ackDue := none, nakEnd := none }) := by
  simp only [portPeerDown, hf]

theorem portsGoDown : Claim.PortsGoDown := by
  refine ⟨fun c p f s hf => ⟨_, rfl, ?_, fun e he => ?_, portPeerDown_touches _ _ (List.Subset.refl _) (.refl _ s)⟩, fun c p s => ?_⟩
  · rw [portPeerDown_eq hf]
    split
    · rfl
    · rw [link_updLink_same]
  · rw [portPeerDown_eq hf]
    split
    · rfl
    · exact link_updLink_ne _ _ he
  · by_cases h : (router s c).clr.testBit p.val = true ∧ drainOld s c p.val = 0
    · refine ⟨_, congrArg Host.Outcome.next (if_pos h), ?_, ?_, fun b hb => router_setRouter_ne _ _ hb,
        setRouter_touches _ _ (List.Subset.refl _) (.refl _ s)⟩
      · rw [if_pos h, router_setRouter_same]
        exact fun q => ⟨testBit_clear _ _ _, testBit_sub_two_pow h.1 q⟩
      · rw [router_setRouter_same]
    · exact ⟨s, congrArg Host.Outcome.next (if_neg h), (if_neg h).mpr rfl, rfl, fun _ _ => rfl, .refl _ s⟩

/-- Settles O35: a TRAIN flit at an end in TRAIN, and the two ways in which a port ends. -/
theorem linksTrainAndGoDown : Obligations.LinksTrainAndGoDown := ⟨trainFlitsCount, portsGoDown⟩

end Sys2Proof.Machine

/-! # What an end puts on the wires (R50, R59, R65, R67)

The two ends of a link after the one sends a flit: what is on the wires, what the sender still holds of it, and which parts of the
state change. -/

namespace Sys2Proof.Machine

/-! ## The sender's end -/

theorem nakSent_eq (s : State) (e : EndRef) (l : LinkEnd) :
    ∃ nak nakEnd, nakSent s e l = { l with nak := nak, nakEnd := nakEnd } := by
  unfold nakSent
  split
  · exact ⟨_, _, rfl⟩
  · exact ⟨_, _, rfl⟩

section
variable {s : State} {e f : EndRef} (hf : e.peer = some f) (hne : f.key ≠ e.key)
include hf hne

/-- The flit lands on the wires toward the peer, and the sender's end is as its last update left it. -/
theorem link_toWire (l : LinkEnd) (p : Payload) (k : Ctl) : link (toWire (setLink s e l) e p k) e = l ∧
    (link (toWire (setLink s e l) e p k) f).wire = (link s f).wire ++ [⟨flitWires p k, slotOf s e.dom⟩] := by
  simp only [toWire, hf, link_dcqMarks, link_updLink_same]
  rw [link_updLink_ne _ _ hne.symm, link_setLink_same, link_setLink_ne _ _ hne]
  exact ⟨rfl, rfl⟩

/-- R50: an unsequenced flit changes nothing of its sender but for the NAK that it carries. -/
theorem link_emitPlain (ty : Nat) (p : Payload) : link (emitPlain s e ty p) e = nakSent s e (link s e) ∧
    ∃ x, (link (emitPlain s e ty p) f).wire = (link s f).wire ++ [x] ∧ ∃ k, x.flit = flitWires p k ∧ k.ty = ty := by
  obtain ⟨he, hw⟩ := link_toWire (s := s) hf hne (nakSent s e (link s e)) p (mkCtl (link s e) ty false 0 0 none)
  exact ⟨he, _, hw, _, rfl, rfl⟩

/-- R67: a flit that is sent again keeps its control but for the back channel, and its sender has one fewer to resend. -/
theorem link_emitReplay (r : Rep) :
    link (emitReplay s e r) e = { nakSent s e (link s e) with
      sent := (link s e).sent + 1, resend := (link s e).resend - 1,
      st := if (link s e).resend ≤ 1 ∧ (link s e).st = .replay then .up else (link s e).st } ∧
    ∃ x, (link (emitReplay s e r) f).wire = (link s f).wire ++ [x] ∧
      ∃ k, x.flit = flitWires r.payload k ∧ k.ty = r.ctl.ty ∧ k.seq6 = r.ctl.seq6 := by
  obtain ⟨he, hw⟩ := link_toWire (s := s) hf hne _ r.payload { r.ctl with ack6 := (link s e).rxExp % 64, nak := (link s e).nak }
  exact ⟨he, _, hw, _, rfl, rfl, rfl⟩

/-- R59: a new sequenced flit takes the oldest credit due, and none of its sender's credits. -/
theorem link_emitSeq (x : Send) :
    (link (emitSeq s e x) e).credits = (link s e).credits ∧ (link (emitSeq s e x) e).crDue = (link s e).crDue.tail ∧
    ∃ y, (link (emitSeq s e x) f).wire = (link s f).wire ++ [y] ∧ ∃ k, y.flit = flitWires x.payload k ∧ k.ty = x.ty ∧
      k.vc = x.vc ∧ k.crv = (link s e).crDue.head?.isSome ∧ k.crvc = (link s e).crDue.head?.getD 0 := by
  obtain ⟨he, hw⟩ := link_toWire (s := s) hf hne _ x.payload
    (mkCtl (link s e) x.ty x.w x.vc (link s e).txSeq (link s e).crDue.head?)
  obtain ⟨_, _, hnak⟩ := nakSent_eq s e (link s e)
  have hcred : (nakSent s e (link s e)).credits = (link s e).credits := by rw [hnak]
  exact ⟨(congrArg LinkEnd.credits he).trans hcred, congrArg LinkEnd.crDue he, _, hw, _, rfl, rfl, rfl, rfl, rfl⟩

end

/-! ## Credits -/

section
variable (s : State) (e : EndRef) (v : Nat)

theorem link_throttled (f : EndRef) : link (throttled s e) f = link s f :=
  (throttled_touches (m := [.units]) e (List.Subset.refl _) (.refl _ s)).link_eq (by decide) f

theorem link_useCredit : link (useCredit s e v) e =
    { link s e with credits := lset (link s e).credits v (lget (link s e).credits v 0 - 1) } := by
  rw [useCredit, link_throttled, link_updLink_same]

theorem link_useCredit_ne {f : EndRef} (h : f.key ≠ e.key) : link (useCredit s e v) f = link s f := by
  rw [useCredit, link_throttled, link_updLink_ne _ _ h]

end

theorem lget_lset_same {α : Type} {l : List α} {i : Nat} (x d : α) (h : i < l.length) : lget (lset l i x) i d = x := by
  simp [lget, lset, h]

theorem lget_lset_ne {α : Type} (l : List α) {i j : Nat} (x d : α) (h : j ≠ i) : lget (lset l i x) j d = lget l j d := by
  simp [lget, lset, List.getElem?_set_ne h.symm]

/-- A packet flit as a sequenced flit on a VC. -/
structure SentOn (s t : State) (e f : EndRef) (p : Payload) (ty vc : Nat) : Prop where
  wire : ∃ x, (link t f).wire = (link s f).wire ++ [x] ∧ ∃ k, x.flit = flitWires p k ∧ k.ty = ty ∧ k.vc = vc
  emitted : Emitted s t e p
  credit : lget (link t e).credits vc 0 = lget (link s e).credits vc 0 - 1

/-- R59, R65: an end spends a credit and sends a packet flit. -/
theorem emitSeq_useCredit {s : State} {e f : EndRef} (x : Send) (hf : e.peer = some f) (hne : f.key ≠ e.key)
    (hlen : (link s e).credits.length = 8) (hvc : x.vc < 8) :
    SentOn s (emitSeq (useCredit s e x.vc) e x) e f x.payload x.ty x.vc := by
  obtain ⟨hcred, -, y, hwire, k, hflit, hty, hkvc, -, -⟩ := link_emitSeq (s := useCredit s e x.vc) hf hne x
  obtain ⟨hemit, -⟩ := emitSeq_link (s := useCredit s e x.vc) x hf hne
  rw [link_useCredit_ne _ _ _ hne] at hwire
  rw [link_useCredit] at hcred
  simp only [Emitted, link_useCredit] at hemit
  refine ⟨⟨y, hwire, k, hflit, hty, hkvc⟩, hemit, ?_⟩
  rw [hcred]
  exact lget_lset_same _ _ (hlen ▸ hvc)

end Sys2Proof.Machine

/-! # A router's ports after its operations (R59, R62, R63, R64)

What the operations that follow a grant leave of a router: the packets at its inputs, the holders of its output VCs, and the credits
due, which are all that they change of link ends. -/

namespace Sys2Proof.Machine

/-! ## Ports and input VCs -/

theorem Router.port_setPort_same (r : Router) (p : Nat) (x : RPort) : (r.setPort p x).port p = x := FMap.get_set_same ..

theorem Router.port_setPort_ne (r : Router) {p q : Nat} (x : RPort) (h : q ≠ p) : (r.setPort p x).port q = r.port q :=
  FMap.get_set_ne _ _ _ h

theorem rport_setRouter (s : State) (c : Cell) (r : Router) (q : Nat) : rport (setRouter s c r) c q = r.port q := by
  rw [rport, router_setRouter_same]

/-- A function of a port's state that an update of one port leaves is left at every port of its router. -/
theorem rport_setRport_congr {α : Type} (g : RPort → α) (s : State) (c : Cell) (p : Nat) {x : RPort} (h : g x = g (rport s c p))
    (q : Nat) : g (rport (setRport s c p x) c q) = g (rport s c q) := by
  by_cases hq : q = p
  · rw [hq, rport_setRport_same, h]
  · rw [rport_setRport_ne _ _ _ hq]

section
variable (s : State) (c : Cell) (p v : Nat) (y : VcIn)

theorem holders_setVcIn (q : Nat) : (rport (setVcIn s c p v y) c q).holders = (rport s c q).holders :=
  rport_setRport_congr RPort.holders s c p (by exact rfl) q

theorem holders_residAdd (ep : Nat) (up : Bool) (q : Nat) : (rport (residAdd s c p ep up) c q).holders = (rport s c q).holders :=
  rport_setRport_congr RPort.holders s c p (by exact rfl) q

theorem vcIn_setVcIn_same (h : v < (rport s c p).vcs.length) : vcIn (setVcIn s c p v y) c p v = y := by
  rw [vcIn, setVcIn, rport_setRport_same]
  exact lget_lset_same y VcIn.init h

end

/-- R63: nominations move the round robins of the inputs alone. -/
theorem rport_noteNoms (s : State) (c : Cell) (ns : List Nom) (q : Nat) :
    ∃ m, rport (noteNoms s c ns) c q = { rport s c q with nomLast := m } := by
  unfold noteNoms
  induction ns generalizing s with
  | nil => exact ⟨_, rfl⟩
  | cons n ns ih =>
    obtain ⟨m, hm⟩ := ih (if n.cls = 0 then s else setRport s c n.i { rport s c n.i with nomLast := n.v })
    rw [List.foldl_cons, hm]
    by_cases hn : n.cls = 0
    · exact ⟨m, by rw [if_pos hn]⟩
    · by_cases hq : q = n.i
      · exact ⟨m, by rw [if_neg hn, hq, rport_setRport_same]⟩
      · exact ⟨m, by rw [if_neg hn, rport_setRport_ne _ _ _ hq]⟩

/-! ## Output VCs that are free (R62, R72) -/

/-- R62: no packet holds an output VC of a port. -/
def VcFree (r : Router) (q o : Nat) : Prop := lget (r.port q).holders o 0 = 0

theorem lget_lset_zero {l : List Nat} {o : Nat} (i : Nat) (h : i = o ∨ lget l o 0 = 0) : lget (lset l i 0) o 0 = 0 := by
  by_cases hi : i = o
  · subst hi
    by_cases hlen : i < l.length
    · exact lget_lset_same _ _ hlen
    · simp [lget, lset, hlen]
  · rw [lget_lset_ne _ _ _ (Ne.symm hi)]
    exact h.resolve_left hi

theorem vcFree_freeOvc {r : Router} {q o out ovc : Nat} (grp : Nat) (h : (out = q ∧ ovc = o) ∨ VcFree r q o) :
    VcFree (freeOvc r out ovc grp) q o := by
  unfold VcFree freeOvc
  by_cases hq : q = out
  · subst hq
    rw [Router.port_setPort_same, apply_ite RPort.holders]
    simp only [ite_self]
    exact lget_lset_zero _ (h.imp And.right id)
  · rw [Router.port_setPort_ne _ _ hq]
    exact h.resolve_left fun hc => hq hc.1.symm

theorem vcFree_freeVoid {q o : Nat} (grp : Nat) (l : List Copy) {r : Router} (h : VcFree r q o) : VcFree (freeVoid r grp l) q o := by
  unfold freeVoid
  induction l generalizing r with
  | nil => exact h
  | cons y l ih =>
    refine ih ?_
    dsimp only
    split
    · split
      · exact vcFree_freeOvc _ (.inr h)
      · exact h
    · exact h

/-! ## The index of a router's link end -/

theorem cellKey_inj {b c : Cell} (h : b.key = c.key) : b = c := by
  obtain ⟨⟨x, hx⟩, y, hy⟩ := b
  obtain ⟨⟨x', hx'⟩, y', hy'⟩ := c
  simp only [Cell.key] at h
  have hxx : x = x' := by omega
  have hyy : y = y' := by omega
  subst hxx hyy
  rfl

theorem cellKey_lt (c : Cell) : c.key < 57600 := by
  have hx := c.x.isLt
  have hy := c.y.isLt
  unfold Cell.key
  omega

/-- No other link end has the index of a router's. -/
theorem eq_router_of_key {c : Cell} {p : Fin 7} {e : EndRef} (h : e.key = (EndRef.router c p).key) : e = .router c p := by
  have hc := cellKey_lt c
  have hp := p.isLt
  cases e with
  | router b q =>
    simp only [EndRef.key] at h
    have hq := q.isLt
    rw [cellKey_inj (b := b) (c := c) (by omega), Fin.ext (a := q) (b := p) (by omega)]
  | ni b => simp only [EndRef.key] at h; omega
  | cmb b => simp only [EndRef.key] at h; omega
  | gw g j => simp only [EndRef.key] at h; omega
  | optical o => simp only [EndRef.key] at h; omega

/-! ## The release of entries (R59, R64) -/

/-- Nothing of a link end differs but the credits that it owes its peer. -/
def OnlyOwes (s t : State) : Prop := ∀ e, ∃ l, link t e = { link s e with crDue := l }

theorem OnlyOwes.of_touches {m : List Part} {s t : State} (h : Touches m s t) (hm : Part.links ∉ m := by decide) : OnlyOwes s t :=
  fun e => ⟨_, h.link_eq hm e⟩

theorem OnlyOwes.trans {s t u : State} (h : OnlyOwes s t) (g : OnlyOwes t u) : OnlyOwes s u := fun e => by
  obtain ⟨l, hl⟩ := h e
  obtain ⟨m, hm⟩ := g e
  exact ⟨m, by rw [hm, hl]⟩

theorem onlyOwes_oweCredit (s : State) (c : Cell) (p : Fin 7) (v : Nat) : OnlyOwes s (oweCredit s (.router c p) v) := fun e => by
  by_cases he : e.key = (EndRef.router c p).key
  · rw [eq_router_of_key he, oweCredit, link_updLink_same]
    exact ⟨_, rfl⟩
  · exact ⟨_, link_updLink_ne _ _ he⟩

/-- What the release of entries at an input VC leaves: links but for credits due, the other routers, and every output VC that is
free. -/
structure Released (c : Cell) (s t : State) : Prop where
  links : OnlyOwes s t
  others : ∀ b : Cell, b.key ≠ c.key → router t b = router s b
  free : ∀ q o, VcFree (router s c) q o → VcFree (router t c) q o

theorem Released.trans {c : Cell} {s t u : State} (h : Released c s t) (g : Released c t u) : Released c s u :=
  ⟨h.links.trans g.links, fun b hb => (g.others b hb).trans (h.others b hb), fun q o hq => g.free q o (h.free q o hq)⟩

section
variable (s : State) (c : Cell) (p : Fin 7) (v : Nat)

theorem released_oweCredit : Released c s (oweCredit s (.router c p) v) :=
  ⟨onlyOwes_oweCredit s c p v, fun _ _ => rfl, fun _ _ => id⟩

theorem released_setVcIn (y : VcIn) : Released c s (setVcIn s c p.val v y) := by
  refine ⟨.of_touches (setVcIn_touches (m := [.routers]) _ _ _ _ (List.Subset.refl _) (.refl _ s)),
    fun b hb => router_setRport_ne _ _ _ hb, fun q o hq => ?_⟩
  exact (congrArg (lget · o 0) (holders_setVcIn s c p.val v y q)).trans hq

theorem released_residAdd (ep : Nat) (up : Bool) : Released c s (residAdd s c p.val ep up) := by
  refine ⟨.of_touches (residAdd_touches (m := [.routers]) _ _ _ _ (List.Subset.refl _) (.refl _ s)),
    fun b hb => router_setRport_ne _ _ _ hb, fun q o hq => ?_⟩
  exact (congrArg (lget · o 0) (holders_residAdd s c p.val ep up q)).trans hq

theorem released_freeVoid (grp : Nat) (l : List Copy) : Released c s (setRouter s c (freeVoid (router s c) grp l)) := by
  refine ⟨.of_touches (setRouter_touches (m := [.routers]) _ _ (List.Subset.refl _) (.refl _ s)),
    fun b hb => router_setRouter_ne _ _ hb, fun q o hq => ?_⟩
  rw [router_setRouter_same]
  exact vcFree_freeVoid _ _ hq

theorem released_settle (u : Cur) (l : List VcFlit) : Released c s (settle s c p v u l) := by
  induction l generalizing s u with
  | nil => exact released_setVcIn ..
  | cons f l ih =>
    unfold settle
    split
    · have howe : Released c s (if f.credit then oweCredit s (.router c p) v else s) := by
        split
        · exact released_oweCredit ..
        · exact ⟨.of_touches (.refl [] s), fun _ _ => rfl, fun _ _ => id⟩
      dsimp only
      split
      · exact ((howe.trans (released_setVcIn ..)).trans (released_freeVoid ..)).trans (released_residAdd ..)
      · exact howe.trans (ih ..)
    · exact released_setVcIn ..

theorem released_settleVc : Released c s (settleVc s c p v) := by
  unfold settleVc
  dsimp only
  split
  · exact released_settle ..
  · exact ⟨.of_touches (.refl [] s), fun _ _ => rfl, fun _ _ => id⟩

end

end Sys2Proof.Machine

/-! # What an end that grants nothing sends (R50, R59, R67, R70)

TRAIN flits in TRAIN, the next flit to be resent in a replay, and in UP the credit that has been due longest. -/

namespace Sys2Proof.Machine

/-! ## The choice of FLIT_SEND -/

theorem exec_flitSend {e : EndRef} (ecc : Ecc) (s : State) (he : ∀ o, e ≠ .optical o) :
    exec (.flitSend e ecc) s = .next (flitSend s e ecc) := by
  cases e with
  | optical o => exact absurd rfl (he o)
  | router c p => rfl
  | ni c => rfl
  | cmb c => rfl
  | gw g j => rfl

section
variable {s : State} {e : EndRef} (ecc : Ecc) (hfree : holdsBack s e = false)
include hfree

theorem flitSend_train (hst : effSt s e = some .train) :
    flitSend s e ecc = emitPlain (noGrant s e) e 1 (trainPayload (link s e)) := by
  simp [flitSend, hst, hfree]

theorem flitSend_replay {r : Rep} (hst : effSt s e = some .replay) (hown : slotOwner s e = none)
    (hr : nextReplay (link s e) = some r) (hw : r.welt = none) :
    flitSend s e ecc = countRetry (emitReplay (if r.ofPacket then noteOut s e else noGrant s e) e r) e := by
  simp [flitSend, hst, hfree, hr, hw, hown]

/-- R63, R75, R121: an end in UP that is not held back, replays nothing and has room in its replay buffer sends something new in a slot
that no welt owns. -/
theorem flitSend_new (hst : effSt s e = some .up) (hown : slotOwner s e = none) (hres : (link s e).resend = 0)
    (hlen : (link s e).replay.length < 32) : flitSend s e ecc = sendNew s e ecc := by
  simp [flitSend, hst, hfree, nextReplay, hres, weltNext, hown, Nat.not_le.mpr hlen]

end

/-! ## Training and replay -/

section
variable {s : State} {e f : EndRef} {ecc : Ecc} (hf : e.peer = some f) (hne : f.key ≠ e.key) (hfree : holdsBack s e = false)
include hf hne hfree

theorem flitSend_train_sends (hst : effSt s e = some .train) :
    ∃ x, (link (flitSend s e ecc) f).wire = (link s f).wire ++ [x] ∧
      (∃ k, x.flit = flitWires (trainPayload (link s e)) k ∧ k.ty = 1) ∧ (link (flitSend s e ecc) e).txSeq = (link s e).txSeq ∧
      (link (flitSend s e ecc) e).replay = (link s e).replay ∧ Touches [.regs, .links, .routers, .tel] s (flitSend s e ecc) := by
  rw [flitSend_train ecc hfree hst]
  obtain ⟨he, x, hwire, hflit⟩ := link_emitPlain (s := noGrant s e) hf hne 1 (trainPayload (link s e))
  obtain ⟨nak, nakEnd, hnak⟩ := nakSent_eq (noGrant s e) e (link (noGrant s e) e)
  rw [hnak, link_noGrant] at he
  rw [link_noGrant] at hwire
  exact ⟨x, hwire, hflit, (congrArg LinkEnd.txSeq he :), (congrArg LinkEnd.replay he :),
    emitPlain_touches _ _ _ (by decide) (noGrant_touches _ (by decide) (.refl _ s))⟩

omit hf hne hfree in
theorem beforeReplay_touches (s : State) (e : EndRef) (r : Rep) :
    Touches [.routers, .tel] s (if r.ofPacket then noteOut s e else noGrant s e) :=
  .ite (fun _ => noteOut_touches _ (by decide) (.refl _ s)) fun _ => noGrant_touches _ (by decide) (.refl _ s)

theorem flitSend_replay_sends {r : Rep} (hst : effSt s e = some .replay) (hown : slotOwner s e = none)
    (hlink : (link s e).st = .replay) (hr : nextReplay (link s e) = some r) (hw : r.welt = none) :
    ∃ x, (link (flitSend s e ecc) f).wire = (link s f).wire ++ [x] ∧
      (∃ k, x.flit = flitWires r.payload k ∧ k.ty = r.ctl.ty ∧ k.seq6 = r.ctl.seq6) ∧
      (link (flitSend s e ecc) e).resend = (link s e).resend - 1 ∧
      (link (flitSend s e ecc) e).st = (if (link s e).resend ≤ 1 then .up else .replay) ∧
      (link (flitSend s e ecc) e).txSeq = (link s e).txSeq ∧ (link (flitSend s e ecc) e).replay = (link s e).replay ∧
      Touches [.regs, .links, .routers, .tel] s (flitSend s e ecc) := by
  rw [flitSend_replay ecc hfree hst hown hr hw]
  have hbefore := beforeReplay_touches s e r
  generalize (if r.ofPacket then noteOut s e else noGrant s e) = s1 at hbefore
  have hcount := countRetry_touches (m := [.tel]) e (List.Subset.refl _) (.refl _ (emitReplay s1 e r))
  obtain ⟨he, x, hwire, hflit⟩ := link_emitReplay (s := s1) hf hne r
  obtain ⟨nak, nakEnd, hnak⟩ := nakSent_eq s1 e (link s1 e)
  rw [hnak, hbefore.link_eq (by decide)] at he
  rw [hbefore.link_eq (by decide)] at hwire
  simp only [hcount.link_eq (by decide), he, hwire]
  refine ⟨x, rfl, hflit, trivial, by simp [hlink], trivial, trivial, ?_⟩
  exact countRetry_touches _ (by decide) (emitReplay_touches _ _ (by decide) (hbefore.mono (by decide)))

end

/-! ## Credits due -/

theorem sendNew_router_idle {s : State} {c : Cell} {p : Fin 7} (ecc : Ecc) (h : grantOf s c p.val (nomsFor s c p.val) = none) :
    sendNew s (.router c p) ecc = sendIdle (countStall s (.router c p)) (.router c p) := by
  simp only [sendNew, h]

theorem sendNew_unit_idle {s : State} {e : EndRef} (ecc : Ecc) (hc : ∀ c p, e ≠ .router c p) (h : unitGrant s e = none) :
    sendNew s e ecc = sendIdle s e := by
  have hsend : unitSend s e = none := by rw [unitSend, h]
  cases e with
  | router c p => exact absurd rfl (hc c p)
  | ni c => simp only [sendNew, hsend]
  | cmb c => simp only [sendNew, hsend]
  | gw g j => simp only [sendNew, hsend]
  | optical o => simp only [sendNew, hsend]

/-- R63, R389: an end that grants nothing counts a stall at most before it sends a credit or IDLE. -/
theorem sendNew_idle {s : State} {e : EndRef} (ecc : Ecc)
    (hrouter : ∀ c p, e = .router c p → grantOf s c p.val (nomsFor s c p.val) = none)
    (hunit : (∀ c p, e ≠ .router c p) → unitGrant s e = none) :
    ∃ s1, sendNew s e ecc = sendIdle s1 e ∧ Touches [.tel] s s1 := by
  by_cases h : ∃ c p, e = .router c p
  · obtain ⟨c, p, rfl⟩ := h
    exact ⟨_, sendNew_router_idle ecc (hrouter c p rfl), countStall_tel s c p⟩
  · have hc : ∀ c p, e ≠ .router c p := fun c p he => h ⟨c, p, he⟩
    exact ⟨s, sendNew_unit_idle ecc hc (hunit hc), .refl _ s⟩

/-- R59: the oldest credit due goes in a CREDIT flit, which takes a number. -/
theorem sendIdle_sends {s : State} {e f : EndRef} {v : Nat} {l : List Nat} (hf : e.peer = some f) (hne : f.key ≠ e.key)
    (hdue : (link s e).crDue = v :: l) :
    ∃ x, (link (sendIdle s e) f).wire = (link s f).wire ++ [x] ∧
      (∃ k, x.flit = flitWires 0 k ∧ k.ty = 2 ∧ k.crv = true ∧ k.crvc = v) ∧ (link (sendIdle s e) e).crDue = l ∧
      Emitted s (sendIdle s e) e 0 := by
  have heq : sendIdle s e = emitSeq s e { payload := 0, ty := 2, w := false, vc := 0, welt := none, tailEp := none, hdr := 0 } := by
    simp [sendIdle, hdue]
  rw [heq]
  obtain ⟨-, hcr, x, hwire, k, hflit, hty, -, hcrv, hcrvc⟩ := link_emitSeq (s := s) hf hne
    { payload := 0, ty := 2, w := false, vc := 0, welt := none, tailEp := none, hdr := 0 }
  obtain ⟨hemit, -⟩ := emitSeq_link (s := s)
    { payload := 0, ty := 2, w := false, vc := 0, welt := none, tailEp := none, hdr := 0 } hf hne
  rw [hdue] at hcr hcrv hcrvc
  exact ⟨x, hwire, ⟨k, hflit, hty, hcrv, hcrvc⟩, hcr, hemit⟩

end Sys2Proof.Machine

/-! # What a router's output grants (R63, R64)

The output sends the flit at the head of the input VC that it grants, on the output VC that the packet holds. -/

namespace Sys2Proof.Machine

/-! ## What was sent, in a state whose links differ by credits due at most -/

theorem SentOn.of_links {r s t : State} {e f : EndRef} {p : Payload} {ty vc : Nat} (h : SentOn s t e f p ty vc)
    (hl : ∀ e, link s e = link r e) : SentOn r t e f p ty vc := by
  obtain ⟨hwire, hemit, hcr⟩ := h
  simp only [Emitted, hl] at hwire hemit hcr
  exact ⟨hwire, hemit, hcr⟩

theorem SentOn.owes {s t u : State} {e f : EndRef} {p : Payload} {ty vc : Nat} (h : SentOn s t e f p ty vc) (g : OnlyOwes t u) :
    SentOn s u e f p ty vc := by
  obtain ⟨hwire, hemit, hcr⟩ := h
  obtain ⟨le, he⟩ := g e
  obtain ⟨lf, hf⟩ := g f
  constructor
  · rw [hf]
    exact hwire
  · simp only [Emitted, he]
    exact hemit
  · rw [he]
    exact hcr

/-! ## The grant -/

/-- The state from which an output sends what it grants: the inputs that nominated have rotated, and the arbitration has moved
on (R63). -/
def arbitrated (s : State) (c : Cell) (p : Fin 7) (x : RPort) : State :=
  let t := noteNoms s c (nomsFor s c p.val)
  setRport t c p.val { rport t c p.val with drr := x.drr, rspLast := x.rspLast }

theorem sendNew_grant {s : State} {c : Cell} {p : Fin 7} {n : Nom} {x : RPort} (ecc : Ecc)
    (h : grantOf s c p.val (nomsFor s c p.val) = some (n, x)) :
    sendNew s (.router c p) ecc = sendGrant (arbitrated s c p x) c p n ecc := by
  simp only [sendNew, h]
  rfl

theorem arbitrated_touches (s : State) (c : Cell) (p : Fin 7) (x : RPort) : Touches [.routers] s (arbitrated s c p x) :=
  setRport_touches _ _ _ (List.Subset.refl _) (noteNoms_touches _ _ (List.Subset.refl _) (.refl _ s))

theorem router_arbitrated_ne (s : State) {c b : Cell} (p : Fin 7) (x : RPort) (h : b.key ≠ c.key) :
    router (arbitrated s c p x) b = router s b := by
  rw [arbitrated, router_setRport_ne _ _ _ h, router_noteNoms_ne _ _ h]

theorem vcIn_arbitrated (s : State) (c : Cell) (p : Fin 7) (x : RPort) (i v : Nat) :
    vcIn (arbitrated s c p x) c i v = vcIn s c i v := by
  obtain ⟨m, hm⟩ := rport_noteNoms s c (nomsFor s c p.val) i
  simp only [vcIn, RPort.vc, arbitrated]
  rw [rport_setRport_congr RPort.vcs _ c p.val (by exact rfl), hm]

/-- R63: responses go before all other classes. -/
theorem grantOf_responseFirst {s : State} {c : Cell} {out : Nat} {ns : List Nom} {n m : Nom} {x : RPort}
    (h : grantOf s c out ns = some (n, x)) (hm : m ∈ ns) (hcls : m.cls = 0) : n.cls = 0 := by
  have hmem : m ∈ ns.filter (fun n => n.cls == 0) := List.mem_filter.mpr ⟨hm, by simp [hcls]⟩
  have hrsp : (ns.filter (fun n => n.cls == 0)).isEmpty = false := by
    rw [Bool.eq_false_iff]
    exact fun hempty => List.not_mem_nil (List.isEmpty_iff.mp hempty ▸ hmem)
  simp only [grantOf, hrsp, Bool.false_eq_true, if_false, Option.map_eq_some_iff] at h
  obtain ⟨k, hk, hn⟩ := h
  obtain rfl : k = n := congrArg Prod.fst hn
  unfold rrNom at hk
  split at hk
  · exact nomatch hk
  · have := (List.mem_filter.mp (List.mem_of_find?_eq_some hk)).2
    simpa using this

/-! ## The granted flit -/

/-- The sequenced flit that an output makes of the flit it grants (R50, R63). -/
def grantFlit (out : Fin 7) (n : Nom) (u : Cur) (y : Copy) (g : VcFlit) : Send :=
  { payload := if g.head then y.hdr else g.payload, ty := flitType g.head g.tail, w := false, vc := n.ovc, welt := none,
    tailEp := if g.tail ∧ out.val < 4 then some u.epoch else none, hdr := y.hdr }

/-- The copies of the packet after the output has sent its copy's flit (R64). -/
def copiesSent (out : Fin 7) (u : Cur) (g : VcFlit) : List Copy :=
  mapIf (fun w => w.out == out.val) (fun w => { w with sent := true, begun := true, ovc := if g.tail then none else w.ovc }) u.copies

/-- The flit that an output has sent is counted, and marked at its input VC. -/
def grantMarked (s : State) (c : Cell) (out : Fin 7) (n : Nom) (u : Cur) (y : Copy) (g : VcFlit) : State :=
  let t := countOut (countGrant s c out.val g y.hdr) c out.val u.epoch g
  setVcIn t c n.i n.v { vcIn t c n.i n.v with cur := some { u with copies := copiesSent out u g } }

/-- R62: the output VC of a packet whose tail has left is free. -/
def tailFreed (s : State) (c : Cell) (out : Fin 7) (n : Nom) (u : Cur) (g : VcFlit) : State :=
  if g.tail then setRouter s c (freeOvc (router s c) out.val n.ovc u.grp) else s

section
variable {s : State} {c : Cell} (out : Fin 7) (n : Nom) (u : Cur) (y : Copy) (g : VcFlit)

theorem sendGrant_eq {l : List VcFlit} (hq : (vcIn s c n.i n.v).q = g :: l) (hcur : (vcIn s c n.i n.v).cur = some u)
    (hy : u.copies.find? (fun z => z.out == out.val) = some y) (hbad : g.bad = 0) :
    sendGrant s c out n .ok = settleVc (tailFreed (grantMarked
      (emitSeq (useCredit s (.router c out) n.ovc) (.router c out) (grantFlit out n u y g)) c out n u y g) c out n u g)
      c (Fin.ofNat 7 n.i) n.v := by
  simp [sendGrant, hq, hcur, hy, hbad, eccOf, countEcc]
  rfl

theorem grantMarked_touches : Touches [.routers, .tel] s (grantMarked s c out n u y g) :=
  setVcIn_touches _ _ _ _ (by decide) (countOut_touches _ _ _ _ (by decide) (countGrant_touches _ _ _ _ (by decide) (.refl _ s)))

theorem router_countOut_ne (s : State) {b : Cell} (q ep : Nat) (h : b.key ≠ c.key) : router (countOut s c q ep g) b = router s b := by
  have hresid : ∀ s up, router (residAdd s c q ep up) b = router s b := fun s up => router_setRport_ne _ _ _ h
  unfold countOut
  dsimp only
  split
  · rw [hresid]
    split
    · exact hresid s true
    · rfl
  · split
    · exact hresid s true
    · rfl

theorem router_grantMarked_ne {b : Cell} (h : b.key ≠ c.key) : router (grantMarked s c out n u y g) b = router s b := by
  have hcount := countGrant_touches (m := [.tel]) c out.val g y.hdr (List.Subset.refl _) (.refl _ s)
  rw [grantMarked, setVcIn, router_setRport_ne _ _ _ h, router_countOut_ne _ _ _ _ h, hcount.router_eq (by decide)]

theorem tailFreed_touches : Touches [.routers] s (tailFreed s c out n u g) :=
  .ite (fun _ => setRouter_touches _ _ (List.Subset.refl _) (.refl _ s)) fun _ => .refl _ s

theorem router_tailFreed_ne {b : Cell} (h : b.key ≠ c.key) : router (tailFreed s c out n u g) b = router s b := by
  unfold tailFreed
  split
  · exact router_setRouter_ne _ _ h
  · rfl

theorem vcFree_tailFreed (ht : g.tail = true) : VcFree (router (tailFreed s c out n u g) c) out.val n.ovc := by
  rw [tailFreed, if_pos ht, router_setRouter_same]
  exact vcFree_freeOvc _ (.inl ⟨rfl, rfl⟩)

end

/-- R59, R62, R63: an output sends the flit that it grants on its output VC, spends a credit, and frees the output VC with a tail. -/
theorem sendGrant_sends {s : State} {c : Cell} {out : Fin 7} {f : EndRef} {n : Nom} {u : Cur} {y : Copy} {g : VcFlit} {l : List VcFlit}
    (hf : (EndRef.router c out).peer = some f) (hne : f.key ≠ (EndRef.router c out).key)
    (hlen : (link s (.router c out)).credits.length = 8) (hovc : n.ovc < 8) (hq : (vcIn s c n.i n.v).q = g :: l)
    (hcur : (vcIn s c n.i n.v).cur = some u) (hy : u.copies.find? (fun z => z.out == out.val) = some y) (hbad : g.bad = 0) :
    SentOn s (sendGrant s c out n .ok) (.router c out) f (if g.head then y.hdr else g.payload) (flitType g.head g.tail) n.ovc ∧
      (g.tail = true → VcFree (router (sendGrant s c out n .ok) c) out.val n.ovc) ∧
      (∀ b : Cell, b.key ≠ c.key → router (sendGrant s c out n .ok) b = router s b) := by
  rw [sendGrant_eq out n u y g hq hcur hy hbad]
  have hsent := emitSeq_useCredit (s := s) (grantFlit out n u y g) hf hne hlen hovc
  have hcredit := useCredit_touches (m := [.regs, .links, .units]) (.router c out) n.ovc (by decide) (.refl _ s)
  have hemit := emitSeq_touches (.router c out) (grantFlit out n u y g) (by decide) hcredit
  have hmark := grantMarked_touches out n u y g (s := emitSeq (useCredit s (.router c out) n.ovc) (.router c out) (grantFlit out n u y g)) (c := c)
  have hfree := hmark.trans ((tailFreed_touches out n u g (c := c)).mono (by decide))
  have hrel := released_settleVc (tailFreed (grantMarked
    (emitSeq (useCredit s (.router c out) n.ovc) (.router c out) (grantFlit out n u y g)) c out n u y g) c out n u g)
    c (Fin.ofNat 7 n.i) n.v
  refine ⟨(hsent.owes (.of_touches hfree)).owes hrel.links, fun ht => hrel.free _ _ (vcFree_tailFreed out n u g ht), fun b hb => ?_⟩
  rw [hrel.others b hb, router_tailFreed_ne _ _ _ _ hb, router_grantMarked_ne _ _ _ _ _ hb, hemit.router_eq (by decide)]

/-- R63: an output that grants sends as `sendGrant` says, from the state in which the arbitration has moved on. -/
theorem sendNew_grant_sends {s : State} {c : Cell} {p : Fin 7} {f : EndRef} {n : Nom} {x : RPort} {u : Cur} {y : Copy} {g : VcFlit}
    {l : List VcFlit} (hf : (EndRef.router c p).peer = some f) (hne : f.key ≠ (EndRef.router c p).key)
    (hlen : (link s (.router c p)).credits.length = 8) (hovc : n.ovc < 8)
    (hgrant : grantOf s c p.val (nomsFor s c p.val) = some (n, x)) (hq : (vcIn s c n.i n.v).q = g :: l)
    (hcur : (vcIn s c n.i n.v).cur = some u) (hy : u.copies.find? (fun z => z.out == p.val) = some y) (hbad : g.bad = 0) :
    SentOn s (sendNew s (.router c p) .ok) (.router c p) f (if g.head then y.hdr else g.payload) (flitType g.head g.tail) n.ovc ∧
      (g.tail = true → VcFree (router (sendNew s (.router c p) .ok) c) p.val n.ovc) ∧
      (∀ b : Cell, b.key ≠ c.key → router (sendNew s (.router c p) .ok) b = router s b) ∧
      Touches [.regs, .links, .routers, .units, .tel, .freeCtr] s (sendNew s (.router c p) .ok) := by
  rw [sendNew_grant .ok hgrant]
  have harb := arbitrated_touches s c p x
  have hlinks : ∀ e, link (arbitrated s c p x) e = link s e := harb.link_eq (by decide)
  rw [← vcIn_arbitrated s c p x] at hq hcur
  rw [← hlinks] at hlen
  obtain ⟨hsent, hfree, hothers⟩ := sendGrant_sends hf hne hlen hovc hq hcur hy hbad
  exact ⟨hsent.of_links hlinks, hfree, fun b hb => (hothers b hb).trans (router_arbitrated_ne s p x hb),
    sendGrant_touches _ _ _ _ (List.Subset.refl _) (harb.mono (by decide))⟩

end Sys2Proof.Machine

/-! # What the end of a unit sends (R65, R145)

The packet that holds a VC of the end of an NI, a gateway or a combine unit sends its next data unit. -/

namespace Sys2Proof.Machine

section
variable {m : List Part} {s t : State} (h : Touches m s t)
include h

theorem Touches.txEnd_eq (hm : Part.tx ∉ m := by decide) (e : EndRef) : txEnd t e = txEnd s e := by
  unfold txEnd
  rw [show t.tx = s.tx from h.stays .tx hm]

theorem Touches.punit_eq (hm : Part.units ∉ m := by decide) (u : UnitRef) : punit t u = punit s u := by
  unfold punit
  rw [show t.units = s.units from h.stays .units hm]

end

/-- A data unit as a sequenced flit on the VC of class `k`: the last is a tail (R50). -/
def dataFlit (k : Nat) (z : TxCur) (x : Payload) (l : List Payload) : Send :=
  { payload := x, ty := if l.isEmpty then 6 else 4, w := false, vc := 2 * k, welt := none, tailEp := none, hdr := z.pkt.hdr }

/-- What holds the VC of a packet once data units `l` are left of it (R145). -/
def leftOf (z : TxCur) (l : List Payload) : Option TxCur := if l.isEmpty then none else some { z with left := l }

theorem leftOf_eq (z : TxCur) (l : List Payload) : leftOf z l = if l = [] then none else some { z with left := l } := by
  simp [leftOf]

/-- A packet's flit leaves an end of a unit on the VC of class `k`, and `y` holds the VC from then on. -/
def unitSent (s : State) (e : EndRef) (k : Nat) (x : Send) (y : Option TxCur) : State :=
  let t := emitSeq (useCredit s e x.vc) e x
  setTxEnd t e { txEnd t e with cur := lset (txEnd t e).cur k y }

section
variable (s : State) (e : EndRef) (k : Nat) (x : Send) (y : Option TxCur)

theorem unitSent_touches : Touches [.regs, .links, .units, .tx] s (unitSent s e k x y) :=
  setTxEnd_touches _ _ (by decide) (emitSeq_touches _ _ (by decide) (useCredit_touches _ _ (by decide) (.refl _ s)))

theorem txEnd_unitSent : txEnd (unitSent s e k x y) e = { txEnd s e with cur := lset (txEnd s e).cur k y } := by
  have h := emitSeq_touches (m := [.regs, .links, .units]) e x (by decide)
    (useCredit_touches e x.vc (by decide) (.refl _ s))
  rw [unitSent, txEnd_setTxEnd_same, h.txEnd_eq]

end

/-- R59, R65: what a unit's end sends of a packet goes to its peer, and spends a credit. -/
theorem unitSent_sends {s : State} {e f : EndRef} (k : Nat) (x : Send) (y : Option TxCur) (hf : e.peer = some f)
    (hne : f.key ≠ e.key) (hlen : (link s e).credits.length = 8) (hvc : x.vc < 8) :
    SentOn s (unitSent s e k x y) e f x.payload x.ty x.vc :=
  (emitSeq_useCredit x hf hne hlen hvc).owes
    (.of_touches (setTxEnd_touches (m := [.tx]) _ _ (List.Subset.refl _) (.refl _ _)))

/-! ## A packet that goes on -/

/-- The end of a unit after the packet on the VC of class `k` has sent a data unit; the arbitration has moved on (R147). -/
def wentOn (s : State) (e : EndRef) (k : Nat) (d : Drr) (z : TxCur) (x : Payload) (l : List Payload) : State :=
  unitSent (setTxEnd s e { txEnd s e with drr := d }) e k (dataFlit k z x l) (leftOf z l)

section
variable {s : State} {e : EndRef} {k : Nat} {d : Drr} {z : TxCur} {x : Payload} {l : List Payload}

theorem unitSend_goesOn (hg : unitGrant s e = some (k, d)) (hz : lget (txEnd s e).cur k none = some z) (hb : z.begun = true)
    (hl : z.left = x :: l) (hctx : z.pkt.ctx = none) : unitSend s e = some (wentOn s e k d z x l) := by
  simp only [unitSend, hg, hz, sendCur, hb, hl, hctx, wentOn, unitSent, leftOf]
  cases l with
  | nil => rfl
  | cons a l => rfl

theorem wentOn_touches : Touches [.regs, .links, .units, .tx] s (wentOn s e k d z x l) :=
  (setTxEnd_touches _ _ (by decide) (.refl _ s)).trans (unitSent_touches ..)

theorem txEnd_wentOn :
    txEnd (wentOn s e k d z x l) e = { txEnd s e with drr := d, cur := lset (txEnd s e).cur k (leftOf z l) } := by
  rw [wentOn, txEnd_unitSent, txEnd_setTxEnd_same]

theorem wentOn_sends {f : EndRef} (hf : e.peer = some f) (hne : f.key ≠ e.key) (hlen : (link s e).credits.length = 8) (hk : k < 4) :
    SentOn s (wentOn s e k d z x l) e f x (if l = [] then 6 else 4) (2 * k) := by
  have h := unitSent_sends (s := setTxEnd s e { txEnd s e with drr := d }) k (dataFlit k z x l) (leftOf z l) hf hne hlen
    (show 2 * k < 8 by omega)
  have hty : (dataFlit k z x l).ty = if l = [] then 6 else 4 := by simp [dataFlit]
  rw [hty] at h
  exact h.of_links fun _ => rfl

/-- R175: a combine unit notes the last flit of a packet that an entry of its cell sent, and of no other. -/
theorem cmbAfter_eq (s t : State) (c : Cell)
    (h : ∀ z, lget (txEnd s (.cmb c)).cur 2 none = some z → lget (txEnd t (.cmb c)).cur 2 none = none → z.pkt.port = 0) :
    cmbAfter s t c = t := by
  unfold cmbAfter
  split
  next z hz ht => rw [if_pos (h z hz ht)]
  next => rfl

theorem sendNew_goesOn (ecc : Ecc) (hc : ∀ c p, e ≠ .router c p) (hg : unitGrant s e = some (k, d))
    (hz : lget (txEnd s e).cur k none = some z) (hb : z.begun = true) (hl : z.left = x :: l) (hctx : z.pkt.ctx = none)
    (hport : ∀ c, e = .cmb c → l = [] → z.pkt.port = 0) : sendNew s e ecc = wentOn s e k d z x l := by
  have hsend := unitSend_goesOn hg hz hb hl hctx
  cases e with
  | router c p => exact absurd rfl (hc c p)
  | ni c => simp only [sendNew, hsend]
  | gw g j => simp only [sendNew, hsend]
  | optical o => simp only [sendNew, hsend]
  | cmb c =>
    simp only [sendNew, hsend]
    refine cmbAfter_eq _ _ _ fun z' hz' ht => ?_
    rw [txEnd_wentOn] at ht
    by_cases hk : 2 = k
    · subst hk
      obtain rfl : z' = z := by simpa [hz'] using hz
      have hlen : 2 < (txEnd s (.cmb c)).cur.length := by
        by_contra hlong
        simp [lget, List.getElem?_eq_none (Nat.not_lt.mp hlong)] at hz
      simp only at ht
      rw [lget_lset_same _ _ hlen, leftOf_eq] at ht
      exact hport c rfl (by simpa using ht)
    · simp only at ht
      rw [lget_lset_ne _ _ _ hk, hz'] at ht
      exact nomatch ht

end

end Sys2Proof.Machine

/-! # FLIT_SEND (R50, R59, R63, R65, R67, R70, R145) -/

namespace Sys2Proof.Machine

theorem flitSendChooses : Claim.FlitSendChooses := by
  intro e f ecc s hopt hf hne hfree hown
  refine ⟨fun hst => ?_, fun r hst hlink hr hw => ?_, fun v l hst hres hlen hrouter hunit hdue => ?_,
    fun c p n x u y g l he hecc hst hres hlen hcr _ hovc _ hgrant hq hcur hy hbad => ?_,
    fun k d z x l hc hst hres hlen hcr hk hcurs hg hz hb hl hctx hport => ?_⟩
  · obtain ⟨x, h⟩ := flitSend_train_sends (ecc := ecc) hf hne hfree hst
    exact ⟨_, x, exec_flitSend ecc s hopt, h⟩
  · obtain ⟨x, h⟩ := flitSend_replay_sends (ecc := ecc) hf hne hfree hst hown hlink hr hw
    exact ⟨_, x, exec_flitSend ecc s hopt, h⟩
  · obtain ⟨s1, hsend, htel⟩ := sendNew_idle ecc hrouter hunit
    have hlinks := htel.link_eq (by decide)
    obtain ⟨x, hwire, hflit, hcrdue, hemit⟩ := sendIdle_sends (s := s1) hf hne (by rw [hlinks, hdue])
    simp only [Emitted, hlinks] at hwire hemit
    rw [exec_flitSend ecc s hopt, flitSend_new ecc hfree hst hown hres hlen, hsend]
    exact ⟨_, x, rfl, hwire, hflit, hcrdue, hemit, sendIdle_touches _ (by decide) (htel.mono (by decide))⟩
  · subst he hecc
    rw [exec_flitSend _ s hopt, flitSend_new _ hfree hst hown hres hlen]
    obtain ⟨⟨⟨z, hwire, hflit⟩, hemit, hcredit⟩, htail, hothers, htouch⟩ :=
      sendNew_grant_sends hf hne hcr hovc hgrant hq hcur hy hbad
    exact ⟨_, z, rfl, hwire, hflit, hemit, hcredit, htail, fun ⟨m, hm, hcls⟩ => grantOf_responseFirst hgrant hm hcls, hothers, htouch⟩
  · rw [exec_flitSend ecc s hopt, flitSend_new ecc hfree hst hown hres hlen, sendNew_goesOn ecc hc hg hz hb hl hctx fun _ _ => hport]
    obtain ⟨⟨w, hwire, hflit⟩, hemit, hcredit⟩ := wentOn_sends (d := d) (z := z) (x := x) (l := l) hf hne hcr hk
    refine ⟨_, w, rfl, hwire, hflit, hemit, hcredit, ?_, fun j hj => ?_, ?_, wentOn_touches⟩
    · rw [txEnd_wentOn, ← leftOf_eq]
      exact lget_lset_same _ _ (hcurs ▸ hk)
    · rw [txEnd_wentOn]
      exact lget_lset_ne _ _ _ hj
    · rw [txEnd_wentOn]

end Sys2Proof.Machine

/-! # HEADER_ALLOCATE (R62, R63)

A unicast packet that waits, and whose turn it is, takes the output VC that it waits for. -/

namespace Sys2Proof.Machine

theorem regsBut_of_touches {m : List Part} {s t : State} (h : Touches m s t) (hm : Part.regs ∉ m := by decide) : RegsBut [] s t :=
  fun k _ => by
    unfold rd
    rw [show t.regs = s.regs from h.stays .regs hm]

theorem routeHead_routed {s : State} {c : Cell} {p : Fin 7} {v : Nat} {u : Cur} (h : (vcIn s c p.val v).cur = some u) :
    routeHead s c p v = s := by
  simp only [routeHead, h]

theorem discardOff_none {s : State} {c : Cell} {p v : Nat} {u : Cur} (h : (vcIn s c p v).cur = some u)
    (hoff : u.copies.filter (offCopy s c) = []) : discardOff s c p v = s := by
  simp only [discardOff, h, hoff, List.length_nil, if_pos]

/-- R64: an input VC whose flit has a copy left to send keeps what it holds. -/
theorem settleVc_waits {s : State} {c : Cell} {p : Fin 7} {v : Nat} {u : Cur} (h : (vcIn s c p.val v).cur = some u)
    (hu : flitDone u = false) : settleVc s c p v = setVcIn s c p.val v (vcIn s c p.val v) := by
  have hsame : { vcIn s c p.val v with q := (vcIn s c p.val v).q, cur := some u } = vcIn s c p.val v := by rw [← h]
  simp only [settleVc, h]
  rw [← hsame]
  cases (vcIn s c p.val v).q with
  | nil => rfl
  | cons f r => simp only [settle, hu, Bool.false_eq_true, if_false]

theorem vcIn_setVcIn_self (s : State) (c : Cell) (p v : Nat) : vcIn (setVcIn s c p v (vcIn s c p v)) c p v = vcIn s c p v := by
  by_cases h : v < (rport s c p).vcs.length
  · exact vcIn_setVcIn_same s c p v _ h
  · simp [vcIn, setVcIn, RPort.setVc, RPort.vc, lget, lset, h]

/-- A packet's only copy once it has its output VC (R63). -/
def allocated (u : Cur) (y : Copy) : Cur := { u with copies := [{ y with ovc := some y.want }] }

/-- R62, R63: the output VC that a copy wants has a holder, and the rotation of the inputs remembers the winner. -/
def held (s : State) (c : Cell) (p v : Nat) (y : Copy) : State :=
  let x := rport s c y.out
  setRport s c y.out { x with holders := lset x.holders y.want (holderOf p v), ovcLast := lset x.ovcLast y.want p }

/-- R62, R63: the packet of an input VC has the output VC that its copy wants. -/
def vcClaimed (s : State) (c : Cell) (p v : Nat) (u : Cur) (y : Copy) : State :=
  setVcIn (held s c p v y) c p v { vcIn (held s c p v y) c p v with cur := some (allocated u y) }

section
variable {s : State} {c : Cell} {p v : Nat} {u : Cur} {y : Copy}

theorem vcIn_held (h : y.out ≠ p) : vcIn (held s c p v y) c p v = vcIn s c p v := by
  unfold vcIn held
  rw [rport_setRport_ne _ _ _ (Ne.symm h)]

theorem claimAll_one (hcur : (vcIn s c p v).cur = some u) (hu : u.copies = [y])
    (hclaim : claimant s c y.out y.want = some (p, v)) (hout : y.out ≠ p) :
    claimAll s c p v u.copies = vcClaimed s c p v u y := by
  have hmap : (vcIn (held s c p v y) c p v).cur.map
      (fun u => { u with copies := mapIf (fun w => w.out == y.out) (fun w => { w with ovc := some y.want }) u.copies }) =
      some (allocated u y) := by
    simp [vcIn_held hout, hcur, hu, mapIf, allocated]
  rw [hu]
  simp only [claimAll, if_pos hclaim]
  exact congrArg (fun z => setVcIn (held s c p v y) c p v { vcIn (held s c p v y) c p v with cur := z }) hmap

theorem vcClaimed_touches : Touches [.routers] s (vcClaimed s c p v u y) :=
  setVcIn_touches _ _ _ _ (List.Subset.refl _) (setRport_touches _ _ _ (List.Subset.refl _) (.refl _ s))

theorem vcClaimed_settled_touches (x : VcIn) : Touches [.routers] s (setVcIn (vcClaimed s c p v u y) c p v x) :=
  setVcIn_touches _ _ _ _ (List.Subset.refl _) vcClaimed_touches

theorem vcIn_vcClaimed (hout : y.out ≠ p) (hlen : v < (rport s c p).vcs.length) :
    vcIn (vcClaimed s c p v u y) c p v = { vcIn s c p v with cur := some (allocated u y) } := by
  have hport : rport (held s c p v y) c p = rport s c p := rport_setRport_ne _ _ _ hout.symm
  rw [vcClaimed, vcIn_setVcIn_same _ _ _ _ _ (hport ▸ hlen), vcIn_held hout]

theorem holders_vcClaimed :
    (rport (vcClaimed s c p v u y) c y.out).holders = lset (rport s c y.out).holders y.want (holderOf p v) := by
  rw [vcClaimed, holders_setVcIn, held, rport_setRport_same]

theorem router_vcClaimed_ne {b : Cell} (h : b.key ≠ c.key) : router (vcClaimed s c p v u y) b = router s b := by
  rw [vcClaimed, setVcIn, router_setRport_ne _ _ _ h, held, router_setRport_ne _ _ _ h]

end

theorem headerAllocate_claims {s : State} {c : Cell} {p : Fin 7} {v : Nat} {u : Cur} {y : Copy} (hclk : clocked s c.field = true)
    (hcur : (vcIn s c p.val v).cur = some u) (hu : u.copies = [y]) (hvoid : y.void = false) (hsent : y.sent = false)
    (hoff : offCopy s c y = false) (hclaim : claimant s c y.out y.want = some (p.val, v)) (hout : y.out ≠ p.val)
    (hlen : v < (rport s c p.val).vcs.length) :
    headerAllocate s c p v = setVcIn (vcClaimed s c p.val v u y) c p.val v (vcIn (vcClaimed s c p.val v u y) c p.val v) := by
  have hdisc : discardOff s c p.val v = s := discardOff_none hcur (by simp [hu, hoff])
  have hwaits := vcIn_vcClaimed (u := u) hout hlen
  have hdone : flitDone (allocated u y) = false := by simp [flitDone, allocated, hvoid, hsent]
  simp only [headerAllocate, if_pos hclk, routeHead_routed hcur, hdisc, hcur, claimAll_one hcur hu hclaim hout]
  exact settleVc_waits (congrArg VcIn.cur hwaits) hdone

end Sys2Proof.Machine

/-! # What a quiet end starts (R81, R145)

The end of an NI or of a gateway whose unit has no descriptor, no ingress packet and no arrival to go on with starts a response at
most, and its cell's collectives stand still. -/

namespace Sys2Proof.Machine

/-! ## The start of packets -/

/-- A unit without a descriptor, an ingress packet or an arrival. -/
structure Idle (s : State) (e : EndRef) : Prop where
  ctxs : (punit s (endUnit e)).ctxs = []
  queue : (txEnd s e).queue = []
  rx : ∀ c, e = .ni c → rxEnd s e = RxEnd.init

section
variable {s : State} {u : UnitRef} (h : (punit s u).ctxs = [])
include h

theorem headPlan_idle (q : Nat) : headPlan s u q = none := by
  simp [headPlan, h]

theorem queueReady_idle (k q : Nat) : queueReady s u k q = false := by
  simp only [queueReady, headPlan_idle h]

theorem startClass_idle (e : EndRef) (k : Nat) : startClass s u e k = s := by
  have hany : (List.range 64).any (fun q => queueReady s u k q && !startsNow s u e q) = false := by
    simp [queueReady_idle h]
  have hpick : rrPick (fun q => queueReady s u k q && startsNow s u e q) (lget (txEnd s e).qLast k 63 + 1) 64 = none := by
    simp [rrPick, queueReady_idle h]
  unfold startClass
  split
  · rfl
  · simp only [hany, hpick, Bool.false_eq_true, if_false]

end

theorem ownStep_idle {s : State} {c : Cell} (h : (punit s (.ni c)).ctxs = []) (q : Nat) : ownStep s c q = s := by
  simp only [ownStep, headPlan_idle h]

theorem weltStart_idle {s : State} {c : Cell} (h : (punit s (.ni c)).ctxs = []) (q : Nat) : weltStart s c q = s := by
  simp only [weltStart, headPlan_idle h]

theorem takeAll_init {s : State} {e : EndRef} (h : rxEnd s e = RxEnd.init) : takeAll s e = s := by
  refine List.foldl_fixed' (fun v => ?_) _
  have hbuf : (lget (rxEnd s e).vcs v ⟨[], none⟩).buf = [] := by
    rw [h]
    simp only [lget, RxEnd.init, List.getD_eq_getElem?_getD, List.getElem?_replicate]
    split
    · rfl
    · rfl
  simp [hbuf]

/-- R145: a quiet NI whose responses are for other cells starts a response at most. -/
theorem startAll_ni {s : State} {c : Cell} (hidle : Idle s (.ni c)) (hown : ownResp s c (punit s (.ni c)).resp = s)
    (hafter : Idle (startRsp s (.ni c) (.ni c)) (.ni c)) : startAll s (.ni c) = startRsp s (.ni c) (.ni c) := by
  have hstep : (List.range 16).foldl (fun t q => weltStart (ownStep t c q) c q) s = s :=
    List.foldl_fixed' (fun q => by rw [ownStep_idle hidle.ctxs, weltStart_idle hidle.ctxs]) _
  simp only [startAll, endUnit, hown, hstep]
  rw [startClass_idle (u := .ni c) hafter.ctxs, startClass_idle (u := .ni c) hafter.ctxs,
    startClass_idle (u := .ni c) hafter.ctxs, takeAll_init (hafter.rx c rfl)]

/-- R145, R364: a quiet gateway starts a response at most, and nothing toward an output that holds header units back. -/
theorem startAll_gw {s : State} {g : GwId} {j : Fin 16} (hafter : Idle (startRsp s (.gw g) (.gw g j)) (.gw g j)) :
    startAll s (.gw g j) = if j.val < gwCount g.kind ∧ ((EndRef.gw g j).peer.any (fun f => holdsOut s f.dom)) = false then
      startRsp s (.gw g) (.gw g j) else s := by
  simp only [startAll, endUnit]
  rw [startClass_idle (u := .gw g) hafter.ctxs, startClass_idle (u := .gw g) hafter.ctxs]
  generalize startRsp s (.gw g) (.gw g j) = t at hafter ⊢
  have hqueue : ∀ k, startQueued loseQueued t (.gw g j) k [] (txEnd t (.gw g j)).queue = t := fun k => by
    rw [hafter.queue]
    rfl
  split
  · exact List.foldl_fixed' (fun k => by rw [hqueue, ite_self]) _
  · rfl

/-! ## The sweep of collectives -/

theorem cmSettle_idle {s : State} {c : Cell} (h : (cmb s c).ents = []) : cmSettle s c = cmIdleGroups s c := by
  simp only [cmSettle, h, List.map_nil, List.foldl_nil]

theorem cmb_setCmb_same (s : State) (c : Cell) (x : Cmb) : cmb (setCmb s c x) c = x := FMap.get_set_same ..

theorem ents_cmIdleGroups (s : State) (c : Cell) : (cmb (cmIdleGroups s c) c).ents = (cmb s c).ents := by
  unfold cmIdleGroups
  dsimp only
  split
  · rfl
  · rw [cmb_setCmb_same]

/-- R185: the sweep of a combine unit that holds no entry settles its arbitration at most. -/
theorem collSweep_idle {s : State} {c : Cell} (h : (cmb s c).ents = []) : collSweep s c = cmIdleGroups s c := by
  have hrun : ∀ e, crun (cmIdleGroups s c) c e = none := fun e => by
    rw [crun, cent, ents_cmIdleGroups, h]
    rfl
  rw [collSweep, cmSettle_idle h]
  exact List.foldl_fixed' (fun e => by simp only [hrun]) _

theorem sweepUnit_idle {s : State} {u : UnitRef} (h : ∀ c, u = .ni c → (cmb s c).ents = []) : Touches [.cmbs] s (sweepUnit s u) := by
  cases u with
  | ni c =>
    rw [sweepUnit, collSweep_idle (h c rfl)]
    exact cmIdleGroups_touches _ (List.Subset.refl _) (.refl _ s)
  | gw g => exact .refl _ s

end Sys2Proof.Machine

/-! # PACKET_INJECT (R81, R94, R145)

The end of an NI or of a gateway sends a flit of the packet that holds its RSP VC, or of the response that takes it. -/

namespace Sys2Proof.Machine

/-! ## A quiet end that sends -/

section
variable {s : State} {e : EndRef}

theorem QuietSender.idle (h : QuietSender s e) : Idle s e := by
  obtain ⟨hkind, -, -, -, -, hctxs, hqueue⟩ := h
  refine ⟨hctxs, hqueue, fun c he => ?_⟩
  obtain ⟨g, j, rfl⟩ | ⟨b, rfl, hrx, -⟩ := hkind
  · exact nomatch he
  · exact hrx

theorem QuietSender.notRouter (h : QuietSender s e) (c : Cell) (p : Fin 7) : e ≠ .router c p := by
  obtain ⟨g, j, rfl⟩ | ⟨b, rfl, -⟩ := h.kind
  · exact fun he => nomatch he
  · exact fun he => nomatch he

/-- R55: an end that is UP has a peer, which is the end of a router. -/
theorem QuietSender.peer (h : QuietSender s e) : ∃ f, e.peer = some f ∧ f.key ≠ e.key := by
  have hrouter : ∀ (c : Cell) (p : Fin 7), (EndRef.router c p).key ≠ e.key := fun c p hk => h.notRouter c p (eq_router_of_key hk.symm)
  have hup := h.up
  obtain ⟨g, j, rfl⟩ | ⟨b, rfl, -⟩ := h.kind
  · have hpeer : (EndRef.gw g j).peer = if j.val < gwCount g.kind then some (.router (attCell g j.val) 6) else none := rfl
    split at hpeer
    · exact ⟨_, hpeer, hrouter _ 6⟩
    · simp [effSt, hpeer] at hup
  · exact ⟨_, rfl, hrouter b 4⟩

/-- R185: the sweep that follows what a quiet end sends changes the combine units at most, and nothing at a gateway. -/
theorem QuietSender.sweep (h : QuietSender s e) {m : List Part} {t : State} (ht : Touches m s t)
    (hm : Part.cmbs ∉ m := by decide) : Touches [.cmbs] t (sweepUnit t (endUnit e)) := by
  refine sweepUnit_idle fun c hc => ?_
  obtain ⟨g, j, rfl⟩ | ⟨b, rfl, -, hents⟩ := h.kind
  · exact nomatch hc
  · obtain rfl : b = c := UnitRef.ni.inj hc
    unfold cmb
    rw [show t.cmbs = s.cmbs from ht.stays .cmbs hm]
    exact hents

/-- R145, R147: a response that holds the RSP VC, and a credit, goes before every other class. -/
theorem unitGrant_response {z : TxCur} (hz : lget (txEnd s e).cur 0 none = some z) (hcr : 0 < lget (link s e).credits 0 0)
    (hreq : z.begun = true ∨ z.pkt.req.isNone = true) : unitGrant s e = some (0, (txEnd s e).drr) := by
  have hnom : (⟨0, 0, 0, z.pkt.grp, 0⟩ : Nom) ∈ unitNoms s e := by
    refine List.mem_filterMap.mpr ⟨0, by decide, ?_⟩
    rw [hz]
    exact if_pos ⟨hcr, hreq.imp_right .inl⟩
  have hany : (unitNoms s e).any (fun n => n.cls == 0) = true := List.any_eq_true.mpr ⟨_, hnom, rfl⟩
  simp only [unitGrant, hany, if_true]

/-- R145: an end whose starts leave `t` sends from `t` the flit that it grants there. -/
theorem packetInject_sends {t : State} {g : Nat × Drr} (hclk : clocked s e.dom = true) (hstart : startAll s e = t)
    (hup : effSt t e = some .up) (hfree : holdsBack t e = false ∧ slotOwner t e = none ∧ (link t e).resend = 0 ∧
      (link t e).replay.length < 32) (hgrant : unitGrant t e = some g) : packetInject s e = sendNew t e .ok := by
  obtain ⟨hback, hown, hres, hlen⟩ := hfree
  simp only [packetInject, if_pos hclk, hstart, hup, hgrant, PortSt.live, Option.isSome_some, and_self, if_true]
  exact flitSend_new .ok hback hup hown hres hlen

end

/-! ## A packet that goes on -/

theorem startRsp_holds {s : State} {u : UnitRef} {e : EndRef} {z : TxCur} (hz : lget (txEnd s e).cur 0 none = some z) :
    startRsp s u e = s := by
  simp [startRsp, hz]

theorem startAll_holds {s : State} {e : EndRef} {z : TxCur} (h : QuietSender s e) (hresp : (punit s (endUnit e)).resp = [])
    (hz : lget (txEnd s e).cur 0 none = some z) : startAll s e = s := by
  have hidle := h.idle
  obtain ⟨g, j, rfl⟩ | ⟨b, rfl, -⟩ := h.kind
  · rw [startAll_gw (by rwa [startRsp_holds hz]), startRsp_holds hz, ite_self]
  · have hown : ownResp s b (punit s (.ni b)).resp = s := by
      rw [show (punit s (.ni b)).resp = [] from hresp]
      rfl
    rw [startAll_ni hidle hown (by rwa [startRsp_holds hz]), startRsp_holds hz]

theorem units_wentOn_gw (s : State) (g : GwId) (j : Fin 16) (k : Nat) (d : Drr) (z : TxCur) (x : Payload) (l : List Payload) :
    (wentOn s (.gw g j) k d z x l).units = s.units :=
  (emitSeq_touches (m := [.regs, .links]) (.gw g j) (dataFlit k z x l) (by decide)
    (updLink_touches (s := setTxEnd s (.gw g j) { txEnd s (.gw g j) with drr := d }) (.gw g j) _ (by decide) (.refl _ _))).stays
    .units (by decide)

/-- R145: a quiet end whose packet holds the RSP VC sends the packet's next data unit. -/
theorem packetInject_goesOn {s : State} {e : EndRef} {z : TxCur} {d : Payload} {l : List Payload} (h : QuietSender s e)
    (hresp : (punit s (endUnit e)).resp = []) (hz : lget (txEnd s e).cur 0 none = some z) (hb : z.begun = true)
    (hl : z.left = d :: l) (hctx : z.pkt.ctx = none) : packetInject s e = wentOn s e 0 (txEnd s e).drr z d l := by
  have hgrant := unitGrant_response hz h.credit.2 (.inl hb)
  rw [packetInject_sends h.clock (startAll_holds h hresp hz) h.up h.free hgrant]
  refine sendNew_goesOn .ok h.notRouter hgrant hz hb hl hctx fun c he => ?_
  obtain ⟨g, j, rfl⟩ | ⟨b, rfl, -⟩ := h.kind
  · exact nomatch he
  · exact nomatch he

end Sys2Proof.Machine

/-! # A response that starts (R81, R94, R145) -/

namespace Sys2Proof.Machine

/-! ## The start -/

/-- A response with the route that its pick gave and the epoch (R81, R90). -/
def routedPkt (s : State) (u : UnitRef) (z : TxPkt) (r : List Seg) : TxPkt := { z with hdr := routedHdr s u z.hdr r }

/-- The only response of a unit has taken the VC of its class, and the pick has moved on (R94). -/
def respStarted (s : State) (u : UnitRef) (e : EndRef) (z : TxPkt) (r : List Seg) (sp : FMap (Nat × Nat)) : State :=
  takeVcCur (updUnit s u (fun y => { y with spray := sp, resp := [] })) e (routedPkt s u z r)

section
variable {s : State} {e : EndRef} {z : TxPkt} {r : List Seg} {sp : FMap (Nat × Nat)} {ow : Option Nat}

theorem startResp_only (hport : ∀ g j, e = .gw g j → z.port = j.val)
    (hpath : choosePath s (endUnit e) (endCell e) z.cls z.hdr (endCell e).x.val (endCell e).y.val z.via = .ok r sp ow) :
    startResp s (endUnit e) e [] [z] = respStarted s (endUnit e) e z r sp := by
  simp only [startResp]
  rw [if_neg]
  · rw [hpath]
    rfl
  · cases e with
    | gw g j => simp [hport g j rfl]
    | _ => exact Bool.false_ne_true

theorem startRsp_free (hcur : lget (txEnd s e).cur 0 none = none) (hcr : 0 < lget (link s e).credits 0 0)
    (hresp : (punit s (endUnit e)).resp = [z]) (hport : ∀ g j, e = .gw g j → z.port = j.val)
    (hpath : choosePath s (endUnit e) (endCell e) z.cls z.hdr (endCell e).x.val (endCell e).y.val z.via = .ok r sp ow) :
    startRsp s (endUnit e) e = respStarted s (endUnit e) e z r sp := by
  have hfree : ¬((lget (txEnd s e).cur 0 none).isSome ∨ lget (link s e).credits 0 0 = 0) := by
    rw [hcur]
    simp [Nat.ne_of_gt hcr]
  rw [startRsp, if_neg hfree, hresp, startResp_only hport hpath]

theorem respStarted_touches (u : UnitRef) : Touches [.units, .tx] s (respStarted s u e z r sp) :=
  takeVcCur_touches _ _ (by decide) (updUnit_touches _ _ (by decide) (.refl _ s))

theorem punit_respStarted (u : UnitRef) : punit (respStarted s u e z r sp) u = { punit s u with spray := sp, resp := [] } :=
  punit_updUnit_same s u fun y => { y with spray := sp, resp := [] }

theorem txEnd_respStarted (u : UnitRef) : txEnd (respStarted s u e z r sp) e =
    { txEnd s e with cur := lset (txEnd s e).cur z.cls (some ⟨routedPkt s u z r, false, z.data⟩) } :=
  txEnd_setTxEnd_same ..

theorem cur_respStarted (u : UnitRef) (hcur : (txEnd s e).cur = [none, none, none, none]) (hcls : z.cls = 0) :
    (txEnd (respStarted s u e z r sp) e).cur = [some ⟨routedPkt s u z r, false, z.data⟩, none, none, none] := by
  rw [txEnd_respStarted, hcur, hcls]
  rfl

theorem idle_respStarted (h : Idle s e) : Idle (respStarted s (endUnit e) e z r sp) e := by
  obtain ⟨hctxs, hqueue, hrx⟩ := h
  refine ⟨?_, ?_, hrx⟩
  · rw [punit_respStarted]
    exact hctxs
  · rw [txEnd_respStarted]
    exact hqueue

theorem startAll_free (h : QuietSender s e) (hout : ∀ f, e.peer = some f → holdsOut s f.dom = false)
    (hport : ∀ g j, e = .gw g j → j.val < gwCount g.kind ∧ z.port = j.val)
    (hdest : ∀ d, e = .ni d → destCell s d.field (hDest z.hdr) ≠ waferOf s d.field * 65536 + d.x.val * 256 + d.y.val)
    (hresp : (punit s (endUnit e)).resp = [z]) (hcur : lget (txEnd s e).cur 0 none = none)
    (hpath : choosePath s (endUnit e) (endCell e) z.cls z.hdr (endCell e).x.val (endCell e).y.val z.via = .ok r sp ow) :
    startAll s e = respStarted s (endUnit e) e z r sp := by
  have hstart := startRsp_free hcur h.credit.2 hresp (fun g j he => (hport g j he).2) hpath
  have hafter : Idle (startRsp s (endUnit e) e) e := by
    rw [hstart]
    exact idle_respStarted h.idle
  obtain ⟨g, j, rfl⟩ | ⟨b, rfl, -⟩ := h.kind
  · have hopen : (EndRef.gw g j).peer.any (fun f => holdsOut s f.dom) = false := by
      cases hpeer : (EndRef.gw g j).peer with
      | none => rfl
      | some f => exact hout f hpeer
    rw [startAll_gw hafter, if_pos ⟨(hport g j rfl).1, hopen⟩]
    exact hstart
  · have hown : ownResp s b (punit s (.ni b)).resp = s := by
      rw [show (punit s (.ni b)).resp = [z] from hresp]
      simp only [ownResp, if_neg (hdest b rfl)]
    rw [startAll_ni h.idle hown hafter]
    exact hstart

end

/-! ## The header unit -/

/-- A header unit as a sequenced flit on the RSP VC: a tail where no data units follow (R50). -/
def headFlit (h : Payload) (l : List Payload) : Send :=
  { payload := h, ty := if l.isEmpty then 7 else 5, w := false, vc := 0, welt := none, tailEp := none, hdr := h }

/-- What holds the VC of a packet once its header unit has gone (R145). -/
def behindHead (z : TxPkt) (h : Payload) : Option TxCur :=
  if z.data.isEmpty then none else some ⟨{ z with hdr := h }, true, z.data⟩

theorem behindHead_eq (z : TxPkt) (h : Payload) :
    behindHead z h = if z.data = [] then none else some ⟨{ z with hdr := h }, true, z.data⟩ := by
  simp [behindHead]

/-- A response of a unit itself: it asks for nothing, and comes of no queue and no descriptor. -/
structure PlainResponse (z : TxPkt) : Prop where
  cls : z.cls = 0
  raw : z.raw = false
  req : z.req = none
  q : z.q = none
  ctx : z.ctx = none

/-- R81: a plain response enters L with its stamps alone. -/
theorem enter_response {s : State} {u : UnitRef} {c : Cell} {z : TxPkt} (hz : PlainResponse z) :
    enter s u c z true = some (stampHdr s u c z.hdr, s) := by
  simp [enter, hz.raw, hz.req, hz.q]

theorem punit_useCredit (s : State) (e : EndRef) (v : Nat) :
    (punit (useCredit s e v) (endUnit e)).resp = (punit s (endUnit e)).resp ∧
    (punit (useCredit s e v) (endUnit e)).spray = (punit s (endUnit e)).spray := by
  cases e with
  | ni c =>
    simp only [useCredit, throttled, throttle, endUnit, punit_updUnit_same]
    exact ⟨rfl, rfl⟩
  | router c p => exact ⟨rfl, rfl⟩
  | cmb c => exact ⟨rfl, rfl⟩
  | gw g j => exact ⟨rfl, rfl⟩
  | optical o => exact ⟨rfl, rfl⟩

/-- The end of a unit after a response's header unit has left it and is counted (R389). -/
def headSent (s : State) (e : EndRef) (d : Drr) (z : TxPkt) (h : Payload) : State :=
  countInj (unitSent (setTxEnd s e { txEnd s e with drr := d }) e 0 (headFlit h z.data) (behindHead z h)) e 0 (hLen h)

section
variable {s : State} {e : EndRef} {d : Drr} {z : TxPkt} {h : Payload}

theorem headSent_counted : Touches [.tel]
    (unitSent (setTxEnd s e { txEnd s e with drr := d }) e 0 (headFlit h z.data) (behindHead z h)) (headSent s e d z h) :=
  countInj_touches _ _ _ (List.Subset.refl _) (.refl _ _)

theorem headSent_touches : Touches [.regs, .links, .units, .tx, .tel] s (headSent s e d z h) :=
  (setTxEnd_touches _ _ (by decide) (.refl _ s)).trans (((unitSent_touches ..).mono (by decide)).trans (headSent_counted.mono (by decide)))

theorem cur_headSent : (txEnd (headSent s e d z h) e).cur = lset (txEnd s e).cur 0 (behindHead z h) := by
  rw [headSent_counted.txEnd_eq, txEnd_unitSent, txEnd_setTxEnd_same]

/-- R143: what is sent may pause classes of its unit, and leaves its responses and picks. -/
theorem punit_headSent : (punit (headSent s e d z h) (endUnit e)).resp = (punit s (endUnit e)).resp ∧
    (punit (headSent s e d z h) (endUnit e)).spray = (punit s (endUnit e)).spray := by
  have hsent : ∀ (s : State) x y, punit (unitSent s e 0 x y) (endUnit e) = punit (useCredit s e x.vc) (endUnit e) := fun s x y =>
    (setTxEnd_touches (m := [.regs, .links, .tx]) _ _ (by decide) (emitSeq_touches _ _ (by decide) (.refl _ _))).punit_eq (by decide) _
  rw [headSent_counted.punit_eq, hsent]
  obtain ⟨hresp, hspray⟩ := punit_useCredit (setTxEnd s e { txEnd s e with drr := d }) e (headFlit h z.data).vc
  exact ⟨hresp, hspray⟩

theorem headSent_sends {f : EndRef} (hf : e.peer = some f) (hne : f.key ≠ e.key) (hlen : (link s e).credits.length = 8) :
    SentOn s (headSent s e d z h) e f h (headFlit h z.data).ty 0 := by
  have h0 := unitSent_sends (s := setTxEnd s e { txEnd s e with drr := d }) 0 (headFlit h z.data) (behindHead z h) hf hne hlen
    (show 0 < 8 by decide)
  exact (h0.of_links (r := s) fun _ => rfl).owes (.of_touches headSent_counted)

theorem sendCur_response (hz : PlainResponse z)
    (hh : h = stampHdr s (endUnit e) (endCell e) z.hdr) (hmc : hMcast h = false) :
    sendCur (setTxEnd s e { txEnd s e with drr := d }) e 0 ⟨z, false, z.data⟩ = headSent s e d z h := by
  have henter : enter (setTxEnd s e { txEnd s e with drr := d }) (endUnit e) (endCell e) z true =
      some (h, setTxEnd s e { txEnd s e with drr := d }) := by
    rw [enter_response hz, hh]
    rfl
  simp only [sendCur, henter, countSent, hz.ctx, headSent, unitSent, behindHead, headFlit]
  cases z.data with
  | nil =>
    cases e with
    | ni c =>
      simp only [hmc, Bool.false_and, Bool.false_eq_true, if_false]
      rfl
    | _ => rfl
  | cons a l =>
    cases e with
    | ni c =>
      simp only [hmc, Bool.false_and, Bool.false_eq_true, if_false]
      rfl
    | _ => rfl

end

/-! ## The start and the header unit together -/

/-- The end of a unit after its only response has taken the RSP VC and has sent its header unit. -/
def respSent (s : State) (e : EndRef) (z : TxPkt) (r : List Seg) (sp : FMap (Nat × Nat)) (h : Payload) : State :=
  headSent (respStarted s (endUnit e) e z r sp) e (txEnd (respStarted s (endUnit e) e z r sp) e).drr (routedPkt s (endUnit e) z r) h

section
variable {s : State} {e : EndRef} {z : TxPkt} {r : List Seg} {sp : FMap (Nat × Nat)} {h : Payload}

theorem respSent_touches : Touches [.regs, .links, .units, .tx, .tel] s (respSent s e z r sp h) :=
  ((respStarted_touches _).mono (by decide)).trans headSent_touches

theorem respSent_sends {f : EndRef} (hf : e.peer = some f) (hne : f.key ≠ e.key) (hlen : (link s e).credits.length = 8) :
    SentOn s (respSent s e z r sp h) e f h (headFlit h z.data).ty 0 :=
  (headSent_sends (s := respStarted s (endUnit e) e z r sp) hf hne hlen).of_links (r := s) fun _ => rfl

theorem cur_respSent (hcur : (txEnd s e).cur = [none, none, none, none]) (hcls : z.cls = 0) :
    (txEnd (respSent s e z r sp h) e).cur = [behindHead z h, none, none, none] := by
  rw [respSent, cur_headSent, cur_respStarted _ hcur hcls]
  rfl

theorem punit_respSent : (punit (respSent s e z r sp h) (endUnit e)).resp = [] ∧
    (punit (respSent s e z r sp h) (endUnit e)).spray = sp := by
  obtain ⟨hresp, hspray⟩ := punit_headSent (s := respStarted s (endUnit e) e z r sp) (e := e)
    (d := (txEnd (respStarted s (endUnit e) e z r sp) e).drr) (z := routedPkt s (endUnit e) z r) (h := h)
  rw [punit_respStarted] at hresp hspray
  exact ⟨hresp, hspray⟩

/-- R81, R145: a quiet end whose unit has a response starts it and sends its header unit. -/
theorem packetInject_responds (hs : QuietSender s e) (hstart : startAll s e = respStarted s (endUnit e) e z r sp)
    (hcur : (txEnd s e).cur = [none, none, none, none]) (hz : PlainResponse z)
    (hh : h = stampHdr s (endUnit e) (endCell e) (routedHdr s (endUnit e) z.hdr r)) (hmc : hMcast h = false) :
    packetInject s e = respSent s e z r sp h := by
  have hlget : lget (txEnd (respStarted s (endUnit e) e z r sp) e).cur 0 none = some ⟨routedPkt s (endUnit e) z r, false, z.data⟩ := by
    rw [cur_respStarted _ hcur hz.cls]
    rfl
  have hgrant := unitGrant_response hlget hs.credit.2 (.inr (by simp [routedPkt, hz.req]))
  have hsend : unitSend (respStarted s (endUnit e) e z r sp) e = some (respSent s e z r sp h) := by
    have hcurs := sendCur_response (s := respStarted s (endUnit e) e z r sp) (d := (txEnd (respStarted s (endUnit e) e z r sp) e).drr)
      (z := routedPkt s (endUnit e) z r) ⟨hz.cls, hz.raw, hz.req, hz.q, hz.ctx⟩ hh hmc
    simp only [unitSend, hgrant, hlget]
    exact congrArg some hcurs
  rw [packetInject_sends hs.clock hstart hs.up hs.free hgrant]
  obtain ⟨g, j, rfl⟩ | ⟨b, rfl, -⟩ := hs.kind
  · simp only [sendNew, hsend]
  · simp only [sendNew, hsend]

end

end Sys2Proof.Machine

/-! # What an end allocates, injects and sends -/

namespace Sys2Proof.Machine

/-- R81: a header unit goes with the time and the cell of its entry into L. -/
theorem bits_stampHdr (s : State) (u : UnitRef) (c : Cell) (h : Payload) :
    bits (stampHdr s u c h) 40 32 = (dom s (timeDom u)).mer.vis / 65536 % 2 ^ 32 ∧
      bits (stampHdr s u c h) 248 8 = c.x.val ∧ bits (stampHdr s u c h) 256 8 = c.y.val := by
  have hx := c.x.isLt
  have hy := c.y.isLt
  simp only [stampHdr, hSet, List.foldl_cons, List.foldl_nil]
  refine ⟨?_, ?_, ?_⟩
  · rw [bits_put_ne _ _ (by decide), bits_put_ne _ _ (by decide), bits_put_ne _ _ (by decide), bits_put_same _ _ (by decide)]
    exact Nat.mod_mod _ _
  · rw [bits_put_ne _ _ (by decide), bits_put_same _ _ (by decide)]
    omega
  · rw [bits_put_same _ _ (by decide)]
    omega

theorem allocationAndInjection : Claim.AllocationAndInjection := by
  refine ⟨fun c p v s u y hclk hcur hu hvoid hsent hoff hwant hclaim hout hhold hvcs => ?_,
    fun e s z d l h hresp hcur hb hl hctx => ?_,
    fun e s z r sp ow u c h hs hu hc hout hport hdest hresp hcur hcls hraw hreq hq hctx hpath hh hmc => ?_⟩
  · have hv : v.val < (rport s c p.val).vcs.length := by
      rw [hvcs]
      exact v.isLt
    have hvc := (vcIn_setVcIn_self (vcClaimed s c p.val v.val u y) c p.val v.val).trans (vcIn_vcClaimed hout hv)
    have htouch := vcClaimed_settled_touches (s := s) (c := c) (p := p.val) (v := v.val) (u := u) (y := y)
      (vcIn (vcClaimed s c p.val v.val u y) c p.val v.val)
    refine ⟨_, congrArg Host.Outcome.next (headerAllocate_claims hclk hcur hu hvoid hsent hoff hclaim hout hv), ?_, fun w hw => ?_,
      (congrArg VcIn.cur hvc :), (congrArg VcIn.q hvc :), fun b hb => ?_, regsBut_of_touches htouch, htouch.mono (by decide)⟩
    · rw [holders_setVcIn, holders_vcClaimed]
      exact lget_lset_same _ _ (hhold ▸ hwant)
    · rw [holders_setVcIn, holders_vcClaimed]
      exact lget_lset_ne _ _ _ hw
    · rw [setVcIn, router_setRport_ne _ _ _ hb, router_vcClaimed_ne hb]
  · obtain ⟨f, hf, hne⟩ := h.peer
    have hwent := wentOn_touches (s := s) (e := e) (k := 0) (d := (txEnd s e).drr) (z := z) (x := d) (l := l)
    have hsweep := h.sweep hwent
    obtain ⟨-, hemit, hcredit⟩ := (wentOn_sends hf hne h.credit.1 (show 0 < 4 by decide)).owes (.of_touches hsweep)
    have hinject := packetInject_goesOn h hresp (by rw [hcur]; rfl) hb hl hctx
    refine ⟨_, congrArg (fun t => Host.Outcome.next (sweepUnit t (endUnit e))) hinject, hemit, ?_, hcredit, ?_,
      (hwent.mono (by decide)).trans (hsweep.mono (by decide))⟩
    · rw [hsweep.txEnd_eq, txEnd_wentOn, hcur, leftOf_eq]
      split
      · rfl
      · rfl
    · rintro g j rfl
      exact ⟨units_wentOn_gw .., hwent.stays .cmbs (by decide)⟩
  · subst hu hc
    obtain ⟨f, hf, hne⟩ := hs.peer
    have hstart := startAll_free hs hout hport hdest hresp (by rw [hcur]; rfl) (hcls ▸ hpath)
    have hinject := packetInject_responds hs hstart hcur ⟨hcls, hraw, hreq, hq, hctx⟩ hh hmc
    have htouch := respSent_touches (s := s) (e := e) (z := z) (r := r) (sp := sp) (h := h)
    have hsweep := hs.sweep htouch
    obtain ⟨-, hemit, hcredit⟩ := (respSent_sends hf hne hs.credit.1).owes (.of_touches hsweep)
    obtain ⟨hnone, hspray⟩ := punit_respSent (s := s) (e := e) (z := z) (r := r) (sp := sp) (h := h)
    obtain ⟨htime, hx, hy⟩ := bits_stampHdr s (endUnit e) (endCell e) (routedHdr s (endUnit e) z.hdr r)
    rw [← hh] at htime hx hy
    refine ⟨_, congrArg (fun t => Host.Outcome.next (sweepUnit t (endUnit e))) hinject, hemit, htime, hx, hy, ?_, ?_, ?_, hcredit, ?_,
      (htouch.mono (by decide)).trans (hsweep.mono (by decide))⟩
    · rw [hsweep.txEnd_eq, cur_respSent hcur hcls, behindHead_eq]
      split
      · rfl
      · rfl
    · rw [hsweep.punit_eq, hnone]
    · rw [hsweep.punit_eq, hspray]
    · rintro g j rfl
      exact htouch.stays .cmbs (by decide)

/-- Settles O36: what FLIT_SEND sends in each state of an end, what HEADER_ALLOCATE gives, and what PACKET_INJECT starts and sends. -/
theorem flitsSent : Obligations.FlitsSent := ⟨flitSendChooses, allocationAndInjection⟩

end Sys2Proof.Machine

/-! # Completion rings that an NI does not have (R103, R232, R317)

A context of the model names its completion ring by a natural number, and the statements about one context do not hold it to the
rings that an NI has (R232). The registers of a number past the last ring are other registers of the cell's block, which the
command that ends the descriptor may write before the ring's entry is. No descriptor that is fetched names such a ring. -/

namespace Sys2Proof.Machine

section
open Sys2Proof.Tests

/-! ## The loss of an off-wafer link (R317) -/

/-- A completion ring of the cell whose number no descriptor can name (R232): its BASE register's address is NI_OFFW_LOST's. -/
def lossRing : Nat := 1664

/-- A descriptor that sent its only request under off-wafer entry 15 and names that ring. -/
def lossCtx : Ctx := { tCtx 1 with cq := lossRing, st := .active, out := 1 }

/-- The request's outstanding entry. -/
def lossEnt : OutEnt := { tEnt 0 with offw := some 15 }

/-- The state in which that request waits for its answer, and the ring runs. -/
def lossMovesRing : State :=
  updUnit (tLone 1 lossEnt) (.ni c34) (fun p => { p with ctxs := [(5, lossCtx)], cq := [(lossRing, ⟨.running, 0, 0⟩)] })

theorem lossMovesRing_serves : MgmtServes lossMovesRing (cellReg c34 3 0xD200) := by
  unfold MgmtServes
  decide +kernel

theorem lossMovesRing_lone : LoneRequest lossMovesRing c34 1023 5 lossEnt lossCtx := by
  constructor <;> decide +kernel

/-- The state after the loss of every link of off-wafer entry 15. -/
def lossMovedRing : State := writeBy lossMovesRing (.mgmt 0) (cellReg c34 3 0xD200) (0x8000 ||| goBit)

/-- The last byte of the entry, which holds its PHASE, is not at the ring's old base. -/
theorem lossMovedRing_unwritten : memGet lossMovedRing.mem (entryAddr lossMovesRing (.ni c34) lossCtx.cq + 15) = 0 := by
  decide +kernel

/-- Refutes O45: NI_OFFW_LOST's write moves the ring's BASE before the descriptor's entry is written, where the statement
takes a context that names a completion ring the NI does not have. -/
theorem not_outstandingEntriesEnd : ¬ Obligations.OutstandingEntriesEnd := by
  intro h
  obtain ⟨_, hloss⟩ := h
  obtain ⟨t, hexec, _, _, _, ⟨⟨_, _, hbytes⟩, _⟩, _⟩ := (hloss 0).2 c34 0x8000 _ _ _ 15 _ _ lossMovesRing_serves
    lossMovesRing_lone (by decide) (by decide +kernel) rfl (by decide)
  have ht : lossMovedRing = t := Host.Outcome.next.inj hexec
  have hbyte := hbytes 15 (by decide)
  rw [← ht, lossMovedRing_unwritten] at hbyte
  exact absurd hbyte (by decide +kernel)

/-! ## A COPY_SPARSE on a BROKEN stream (R103) -/

/-- A completion ring of the cell whose number no descriptor can name (R232): its CFG register's address is the drop count's. -/
def dropRing : Nat := 1520

/-- A COPY_SPARSE, unpacked and not in the dense form, that names that ring. -/
def dropCtx : Ctx := { tCtx (dSparse 1) with cq := dropRing }

/-- The descriptor's stream is BROKEN, its map has a tile that there is not, and the ring's CPI is 1. -/
def dropMovesEntry : State :=
  { updUnit (tStreams (dSparse 1) [(0, { tLive with broken := true })]) (.ni c34) (fun p =>
      { p with ctxs := [(5, dropCtx)], cq := [(dropRing, ⟨.running, 1, 1⟩)] }) with mem := (tSparse 1).mem }

theorem dropMovesEntry_lone : LoneCtx dropMovesEntry (.ni c34) 5 dropCtx :=
  loneCtx_ni (by decide +kernel)

theorem dropMovesEntry_startable : Startable dropMovesEntry (.ni c34) (0 : Fin 16).val 2 5 dropCtx :=
  startable_of (by decide +kernel)

/-- What that map says (R207). -/
def dropScan : Scan := scanMap dropMovesEntry c34 (copyGeo dropCtx.desc) (bit dropCtx.desc 185) (df dropCtx.desc 164 20) (df dropCtx.desc 192 24)

theorem dropMovesEntry_passes :
    df dropCtx.desc 164 20 + (if bit dropCtx.desc 185 then 4 * df dropCtx.desc 192 24 else 8 * (copyGeo dropCtx.desc).mw) ≤ Config.sramBytes ∧
    sparseTarget (df dropCtx.desc 64 76) = true ∧ (∀ y, y ∈ sparseSources dropCtx.desc dropScan → y.1 + y.2 ≤ Config.sramBytes) ∧
    (∀ y, y ∈ sparseDests dropCtx.desc dropScan (goesDense dropCtx.desc dropScan) → addrOk dropMovesEntry c34.field y.1 y.2 = true) ∧
    streamBroken dropMovesEntry (.ni c34) dropCtx.ring (df dropCtx.desc 64 76) = true := by
  decide +kernel

/-- The state after the descriptor has failed. -/
def dropMovedEntry : State := startOp dropMovesEntry (.ni c34) (0 : Fin 16).val 2 (fun t id x => runSparse t c34 id x)

/-- The byte that would hold the entry's status is not where the ring of one entry has it. -/
theorem dropMovedEntry_unwritten : memGet dropMovedEntry.mem (entryAddr dropMovesEntry (.ni c34) dropCtx.cq + 4) = 0 := by
  decide +kernel

/-- Refutes O51: the count of dropped tiles is raised before the descriptor's entry is written, where the second clause takes
a context that names a completion ring the NI does not have, whose CFG register is that count. -/
theorem not_sparseCopies : ¬ Obligations.SparseCopies := by
  intro h
  obtain ⟨_, hbroken, _⟩ := h
  obtain ⟨hmap, htarget, hsources, hdests, hstream⟩ := dropMovesEntry_passes
  obtain ⟨t, hexec, ⟨⟨_, _, hbytes⟩, _⟩, _⟩ := hbroken c34 0 _ _ _ _ _ _ dropMovesEntry_lone dropMovesEntry_startable rfl
    hmap rfl rfl htarget hsources hdests hstream
  have ht : dropMovedEntry = t := Host.Outcome.next.inj hexec
  have hbyte := hbytes 4 (by decide)
  rw [← ht, dropMovedEntry_unwritten] at hbyte
  exact absurd hbyte (by decide +kernel)

end

end Sys2Proof.Machine

/-! # Responses and what they tell (R82, R84, R96, R110, R274)

The fields of the header that a response's list of fields gives, and the place in which a target keeps a response it has built. -/

namespace Sys2Proof.Machine

/-! ## Fields that a header's list gives -/

theorem hf_put_same (h : Payload) {lo len : Nat} (v : Nat) (hn : lo + len ≤ 512) : hf (put h lo len v) lo len = v % 2 ^ len :=
  bits_put_same h v hn

theorem hf_put_ne (h : Payload) {lo len lo' len' : Nat} (v : Nat) (hn : lo' + len' ≤ lo ∨ lo + len ≤ lo') :
    hf (put h lo len v) lo' len' = hf h lo' len' :=
  bits_put_ne h v hn

theorem hf_hSet_apart {l : List (Nat × Nat × Nat)} {lo len : Nat} (h : Payload)
    (hl : ∀ f, f ∈ l → lo + len ≤ f.1 ∨ f.1 + f.2.1 ≤ lo) : hf (hSet h l) lo len = hf h lo len := by
  induction l generalizing h with
  | nil => rfl
  | cons f l ih =>
    have htail : ∀ x, x ∈ l → lo + len ≤ x.1 ∨ x.1 + x.2.1 ≤ lo := fun x hx => hl x (List.mem_cons_of_mem _ hx)
    exact (ih _ htail).trans (hf_put_ne _ _ (hl f List.mem_cons_self))

theorem hSet_append (h : Payload) (l l' : List (Nat × Nat × Nat)) : hSet h (l ++ l') = hSet (hSet h l) l' :=
  List.foldl_append

/-! ## Where a response goes (R82, R274) -/

theorem replyAddr_congr {s t : State} (hdoms : t.doms = s.doms)
    (hout : ∀ a b, (punit t (.gw (.host a b))).out = (punit s (.gw (.host a b))).out) (h : Payload) (off : Nat) :
    replyAddr t h off = replyAddr s h off := by
  have hmark : hostMark t h = hostMark s h := by
    simp only [hostMark, hout, isLocal, waferOf, copyOf, dom, hdoms] <;> rfl
  simp only [replyAddr, hmark]

/-- A reply's address is a place named by 36 bits, and an offset. -/
theorem replyAddr_form (s : State) (h : Payload) : ∃ n, n < 2 ^ 36 ∧ ∀ off, replyAddr s h off = n * 2 ^ 40 + off := by
  have hw : hSw h < 2 ^ 20 := bits_lt _ _ _
  have hx : hSx h < 2 ^ 8 := bits_lt _ _ _
  have hy : hSy h < 2 ^ 8 := bits_lt _ _ _
  have hcell : ∃ n, n < 2 ^ 36 ∧ ∀ off, hSw h * 2 ^ 56 + hSx h * 2 ^ 48 + hSy h * 2 ^ 40 + off = n * 2 ^ 40 + off :=
    ⟨hSw h * 2 ^ 16 + hSx h * 2 ^ 8 + hSy h, by omega, fun off => by omega⟩
  have hport (g : GwId) : g.side < 4 ∧ g.idx < 16 := by
    cases g with
    | mem a b => exact ⟨a.isLt, Nat.lt_of_lt_of_le b.isLt (by decide)⟩
    | opt a b => exact ⟨a.isLt, b.isLt⟩
    | host a b => exact ⟨a.isLt, Nat.lt_of_lt_of_le b.isLt (by decide)⟩
  unfold replyAddr
  dsimp only
  by_cases hm : hostMark s h = true
  · simp only [if_pos hm]
    cases hg : gAt (mkCell (hSx h) (hSy h)) with
    | none => exact hcell
    | some a =>
      obtain ⟨hs, hi⟩ := hport a.1
      exact ⟨hSw h * 2 ^ 16 + (0xF8 + a.1.side) * 2 ^ 8 + a.1.idx, by omega, fun off => by dsimp only; omega⟩
  · simpa only [if_neg hm] using hcell

/-! ## The fields of a response (R82, R84, R96) -/

/-- The fields of a response that its command adds leave CMD, NDU, LASTB, DEST and TAG. -/
def BesideReply (l : List (Nat × Nat × Nat)) : Prop :=
  ∀ f, f ∈ l → (36 ≤ f.1 ∧ f.1 + f.2.1 ≤ 152) ∨ 288 ≤ f.1

section
variable {s : State} {h : Payload} {cmd off port : Nat} {l : List (Nat × Nat × Nat)} {data : List Byte}

theorem hf_response_own {lo len : Nat} (hl : BesideReply l) (hf0 : lo + len ≤ 36 ∨ (152 ≤ lo ∧ lo + len ≤ 288)) :
    hf (response s h cmd off l data port).hdr lo len =
      hf (hSet 0 [(0, 4, cmd), (8, 6, nduOf data.length), (19, 6, lastbOf data.length), (152, 76, replyAddr s h off),
        (272, 16, hTag h)]) lo len := by
  rw [response, hSet_append]
  refine hf_hSet_apart _ (fun f hf => ?_)
  have := hl f hf
  omega

theorem hCmd_response (hl : BesideReply l) (hc : cmd < 16) : hCmd (response s h cmd off l data port).hdr = cmd := by
  have hfirst : hf (hSet (put 0 0 4 cmd) [(8, 6, nduOf data.length), (19, 6, lastbOf data.length), (152, 76, replyAddr s h off),
      (272, 16, hTag h)]) 0 4 = cmd % 2 ^ 4 :=
    (hf_hSet_apart _ (by simp)).trans (hf_put_same _ _ (by decide))
  exact (hf_response_own hl (by decide)).trans (hfirst.trans (Nat.mod_eq_of_lt hc))

theorem hTag_response (hl : BesideReply l) : hTag (response s h cmd off l data port).hdr = hTag h := by
  rw [hTag, hf_response_own hl (by decide)]
  exact (hf_put_same (lo := 272) (len := 16) _ _ (by decide)).trans (Nat.mod_eq_of_lt (bits_lt _ _ _))

theorem hDest_response (hl : BesideReply l) (ho : off < 2 ^ 40) :
    hDest (response s h cmd off l data port).hdr / 2 ^ 40 = replyAddr s h 0 / 2 ^ 40 := by
  obtain ⟨n, hn, haddr⟩ := replyAddr_form s h
  have hfield : hDest (response s h cmd off l data port).hdr = replyAddr s h off % 2 ^ 76 := by
    rw [hDest, hf_response_own hl (by decide)]
    exact (hf_put_ne (lo := 272) (len := 16) _ _ (by decide)).trans (hf_put_same (lo := 152) (len := 76) _ _ (by decide))
  rw [hfield, haddr, haddr]
  omega

/-- A field that a response's command adds. -/
theorem hf_response_added {l₁ l₂ : List (Nat × Nat × Nat)} {lo len v : Nat} (hn : lo + len ≤ 512)
    (hl : ∀ f, f ∈ l₂ → lo + len ≤ f.1 ∨ f.1 + f.2.1 ≤ lo) :
    hf (response s h cmd off (l₁ ++ (lo, len, v) :: l₂) data port).hdr lo len = v % 2 ^ len := by
  rw [response, hSet_append, hSet_append]
  exact (hf_hSet_apart _ hl).trans (hf_put_same _ _ hn)

end

section
variable (s : State) (h : Payload) (st crc port : Nat)

theorem ackPkt_crc : hInl (ackPkt s h st crc port).hdr 0 32 = crc % 2 ^ 32 :=
  hf_response_added (l₁ := []) (by decide) (by simp)

theorem ackPkt_status : hInl (ackPkt s h st crc port).hdr 32 4 = st % 2 ^ 4 :=
  hf_response_added (l₁ := [(384, 32, crc)]) (by decide) (by simp)

theorem readDataPkt_status (data : List Byte) : hCspec (readDataPkt s h st crc data port).hdr = st % 2 ^ 4 :=
  hf_response_added (l₁ := []) (by decide) (by simp)

theorem readDataPkt_crc (data : List Byte) : hInl (readDataPkt s h st crc data port).hdr 0 32 = crc % 2 ^ 32 :=
  hf_response_added (l₁ := [(36, 4, st)]) (by decide) (by simp)

theorem streamRspPkt_stag (stag sinst : Nat) : hInl (streamRspPkt s h st stag sinst port).hdr 0 9 = stag % 2 ^ 9 :=
  hf_response_added (l₁ := []) (by decide) (by simp)

theorem streamRspPkt_sinst (stag sinst : Nat) : hInl (streamRspPkt s h st stag sinst port).hdr 9 4 = sinst % 2 ^ 4 :=
  hf_response_added (l₁ := [(384, 9, stag)]) (by decide) (by simp)

theorem streamRspPkt_status (stag sinst : Nat) : hInl (streamRspPkt s h st stag sinst port).hdr 13 4 = st % 2 ^ 4 :=
  hf_response_added (l₁ := [(384, 9, stag), (393, 4, sinst)]) (by decide) (by simp)

end

/-! ## A response that a unit keeps (R110) -/

/-- A state whose responses go where another's do: the domains, and the requests of the host ports, are the same. -/
def SameReplies (s t : State) : Prop :=
  t.doms = s.doms ∧ ∀ a b, (punit t (.gw (.host a b))).out = (punit s (.gw (.host a b))).out

section
variable {s s' s1 : State} {u : UnitRef} {h : Payload} {port : Nat} {data : List Byte}

@[simp] theorem resp_pushResp (s : State) (u : UnitRef) (z : TxPkt) : (punit (pushResp s u z) u).resp = (punit s u).resp ++ [z] := by
  simp [pushResp]

variable (hresp : (punit s1 u).resp = (punit s u).resp) (hs : SameReplies s s')
include hresp hs

/-- A unit that keeps one response more has responded, if the response was built where replies go as in the first state. -/
theorem responded_response {cmd off : Nat} {l : List (Nat × Nat × Nat)} (hl : BesideReply l) (hc : cmd < 16) (ho : off < 2 ^ 40) :
    Responded s (pushResp s1 u (response s' h cmd off l data port)) u h cmd (response s' h cmd off l data port) := by
  obtain ⟨hdoms, hout⟩ := hs
  refine ⟨by rw [resp_pushResp, hresp], hCmd_response hl hc, hTag_response hl, ?_⟩
  rw [hDest_response hl ho, replyAddr_congr hdoms hout]

theorem responded_ackPkt {st crc : Nat} : Responded s (pushResp s1 u (ackPkt s' h st crc port)) u h 3 (ackPkt s' h st crc port) :=
  responded_response hresp hs (by simp [BesideReply]) (by decide) (by decide)

theorem responded_streamRspPkt {st stag sinst : Nat} :
    Responded s (pushResp s1 u (streamRspPkt s' h st stag sinst port)) u h 6 (streamRspPkt s' h st stag sinst port) :=
  responded_response hresp hs (by simp [BesideReply]) (by decide) (by decide)

theorem responded_readDataPkt {st crc : Nat} :
    Responded s (pushResp s1 u (readDataPkt s' h st crc data port)) u h 2 (readDataPkt s' h st crc data port) :=
  responded_response hresp hs (by simp [BesideReply]) (by decide) (bits_lt _ _ _)

end

end Sys2Proof.Machine

/-! # What a request leaves at its target (R82, R98-R104, R110)

A command on packets takes the first of its kind; its operations on Last, on responses and on counts leave everything else. -/

namespace Sys2Proof.Machine

/-! ## Registers that stay -/

theorem RegsBut.trans {ks : List Nat} {s t v : State} (h : RegsBut ks s t) (h' : RegsBut ks t v) : RegsBut ks s v :=
  fun k hk => (h' k hk).trans (h k hk)

theorem RegsBut.mono {ks ks' : List Nat} {s t : State} (h : RegsBut ks s t) (hks : ks ⊆ ks') : RegsBut ks' s t :=
  fun k hk => h k fun hk' => hk (hks hk')

theorem RegsBut.cntUp {ks : List Nat} {k : Nat} (s : State) (lo len n : Nat) (hk : k ∈ ks) : RegsBut ks s (cntUp s k lo len n) :=
  fun _ hj => rd_cntUp_ne _ _ _ _ fun he => hj (he ▸ hk)

theorem RegsBut.setBits {ks : List Nat} {k : Nat} (s : State) (b : Nat) (hk : k ∈ ks) : RegsBut ks s (setBits s k b) :=
  fun _ hj => rd_setBits_ne _ _ fun he => hj (he ▸ hk)

theorem RegsBut.maxUp {ks : List Nat} {k : Nat} (s : State) (lo len v : Nat) (hk : k ∈ ks) : RegsBut ks s (maxUp s k lo len v) :=
  fun _ hj => rd_maxUp_ne _ _ _ _ fun he => hj (he ▸ hk)

/-! ## What Last, the waiting packets and the responses of an NI leave -/

theorem gw_key_ne_ni (g : GwId) (c : Cell) : (UnitRef.gw g).key ≠ (UnitRef.ni c).key := by
  have hx := c.x.isLt
  have hy := c.y.isLt
  simp only [UnitRef.key, Cell.key]
  omega

/-- Only the Last entries of a cell, its NI's waiting packets and responses, and the registers listed may differ. -/
structure TargetOnly (c : Cell) (ks : List Nat) (s t : State) : Prop where
  mem : t.mem = s.mem
  regs : RegsBut ks s t
  doms : t.doms = s.doms
  unit : ∃ l w i r, punit t (.ni c) = { punit s (.ni c) with last := l, lastWr := w, inbox := i, resp := r }
  others : ∀ u, u.key ≠ (UnitRef.ni c).key → punit t u = punit s u

namespace TargetOnly
variable {c : Cell} {ks : List Nat} {s t v : State}

theorem refl (c : Cell) (ks : List Nat) (s : State) : TargetOnly c ks s s :=
  ⟨rfl, .refl ks s, rfl, ⟨_, _, _, _, rfl⟩, fun _ _ => rfl⟩

theorem trans (h : TargetOnly c ks s t) (h' : TargetOnly c ks t v) : TargetOnly c ks s v := by
  obtain ⟨_, _, _, _, hunit⟩ := h.unit
  obtain ⟨_, _, _, _, hunit'⟩ := h'.unit
  exact ⟨h'.mem.trans h.mem, h.regs.trans h'.regs, h'.doms.trans h.doms, ⟨_, _, _, _, by rw [hunit', hunit]⟩,
    fun u hu => (h'.others u hu).trans (h.others u hu)⟩

theorem mono {ks' : List Nat} (h : TargetOnly c ks s t) (hks : ks ⊆ ks') : TargetOnly c ks' s t :=
  ⟨h.mem, h.regs.mono hks, h.doms, h.unit, h.others⟩

theorem sameReplies (h : TargetOnly c ks s t) : SameReplies s t :=
  ⟨h.doms, fun a b => congrArg PUnit.out (h.others _ (gw_key_ne_ni (.host a b) c))⟩

/-- An update of the cell's unit in those fields. -/
theorem updUnit (s : State) {f : PUnit → PUnit} (hf : ∀ x, ∃ l w i r, f x = { x with last := l, lastWr := w, inbox := i, resp := r }) :
    TargetOnly c ks s (updUnit s (.ni c) f) :=
  ⟨rfl, fun _ _ => rfl, rfl, by rw [punit_updUnit_same]; exact hf _, fun _ hu => punit_updUnit_ne _ _ hu⟩

theorem cntUp {k : Nat} (s : State) (lo len n : Nat) (hk : k ∈ ks) : TargetOnly c ks s (cntUp s k lo len n) :=
  ⟨by simp, .cntUp s lo len n hk, by simp, ⟨_, _, _, _, punit_cntUp ..⟩, fun _ _ => punit_cntUp ..⟩

theorem setBits {k : Nat} (s : State) (b : Nat) (hk : k ∈ ks) : TargetOnly c ks s (setBits s k b) :=
  ⟨by simp, .setBits s b hk, by simp, ⟨_, _, _, _, punit_setBits ..⟩, fun _ _ => punit_setBits ..⟩

theorem maxUp {k : Nat} (s : State) (lo len b : Nat) (hk : k ∈ ks) : TargetOnly c ks s (maxUp s k lo len b) :=
  ⟨by simp, .maxUp s lo len b hk, by simp, ⟨_, _, _, _, punit_maxUp ..⟩, fun _ _ => punit_maxUp ..⟩

theorem pushResp (s : State) (z : TxPkt) : TargetOnly c ks s (pushResp s (.ni c) z) := updUnit s fun _ => ⟨_, _, _, _, rfl⟩

theorem putLast (s : State) (j : Nat) (x : LastEnt) : TargetOnly c ks s (putLast s c j x) := updUnit s fun _ => ⟨_, _, _, _, rfl⟩

theorem setLast (s : State) (j : Nat) (x : LastEnt) (hk : cellReg c 3 0xB010 ∈ ks) : TargetOnly c ks s (setLast s c j x) :=
  ((putLast s j x).trans (maxUp _ _ _ _ hk)).trans (maxUp _ _ _ _ hk)

theorem freeLast (s : State) (j : Nat) (hk : cellReg c 3 0x81C ∈ ks) : TargetOnly c ks s (freeLast s c j) := by
  unfold Machine.freeLast
  dsimp only
  split
  · exact (cntUp s _ _ _ hk).trans (putLast _ _ _)
  · exact putLast _ _ _

/-- R383: what a read of a Last entry through SECDED may change; only an entry in use counts in RESET. -/
theorem lastEcc (s : State) (j : Nat) (ecc : Ecc) (hk : cellReg c 3 0xE000 ∈ ks)
    (hk' : (lastOf s c j).valid = true → cellReg c 3 0x81C ∈ ks) : TargetOnly c ks s (lastEcc s c j ecc) := by
  unfold Machine.lastEcc
  split
  · exact refl c ks s
  · exact (cntUp s _ _ _ hk).trans (setBits _ _ hk)
  · refine TargetOnly.trans ?_ ((cntUp _ _ _ _ hk).trans (setBits _ _ hk))
    split
    case isTrue hv => exact (cntUp s _ _ _ (hk' hv)).trans (putLast _ _ _)
    case isFalse => exact putLast _ _ _

end TargetOnly

/-! ## Last entries and responses after each operation -/

section
variable {s : State} {c : Cell} {i j : Nat}

theorem lastOf_congr {t : State} (h : punit t (.ni c) = punit s (.ni c)) (j : Nat) : lastOf t c j = lastOf s c j := by
  unfold lastOf
  rw [h]

@[simp] theorem lastOf_cntUp (k lo len n : Nat) : lastOf (cntUp s k lo len n) c j = lastOf s c j := lastOf_congr (punit_cntUp ..) j
@[simp] theorem lastOf_setBits (k b : Nat) : lastOf (setBits s k b) c j = lastOf s c j := lastOf_congr (punit_setBits ..) j
@[simp] theorem lastOf_maxUp (k lo len v : Nat) : lastOf (maxUp s k lo len v) c j = lastOf s c j := lastOf_congr (punit_maxUp ..) j
@[simp] theorem lastOf_pushResp (z : TxPkt) : lastOf (pushResp s (.ni c) z) c j = lastOf s c j := by simp [lastOf, pushResp]

variable {x : LastEnt}

@[simp] theorem lastOf_putLast_same : lastOf (putLast s c i x) c i = { x with bad := 0 } := by simp [lastOf, putLast]
theorem lastOf_putLast_ne (h : j ≠ i) : lastOf (putLast s c i x) c j = lastOf s c j := by
  simp [lastOf, putLast, FMap.get_set_ne _ _ _ h]
@[simp] theorem resp_putLast : (punit (putLast s c i x) (.ni c)).resp = (punit s (.ni c)).resp := by simp [putLast]

@[simp] theorem lastOf_setLast_same : lastOf (setLast s c i x) c i = { x with bad := 0 } := by simp [setLast]
theorem lastOf_setLast_ne (h : j ≠ i) : lastOf (setLast s c i x) c j = lastOf s c j := by simp [setLast, lastOf_putLast_ne h]
@[simp] theorem resp_setLast : (punit (setLast s c i x) (.ni c)).resp = (punit s (.ni c)).resp := by simp [setLast]

theorem lastOf_freeLast_same : lastOf (freeLast s c i) c i = { lastOf s c i with valid := false, held := none, bad := 0 } := by
  simp [freeLast]
theorem lastOf_freeLast_ne (h : j ≠ i) : lastOf (freeLast s c i) c j = lastOf s c j := by
  unfold freeLast
  rw [lastOf_putLast_ne h]
  split
  · exact lastOf_cntUp ..
  · rfl
@[simp] theorem resp_freeLast : (punit (freeLast s c i) (.ni c)).resp = (punit s (.ni c)).resp := by
  unfold freeLast
  rw [resp_putLast]
  split
  · rw [punit_cntUp]
  · rfl

variable {ecc : Ecc}

theorem lastOf_lastEcc_ne (h : j ≠ i) : lastOf (lastEcc s c i ecc) c j = lastOf s c j := by
  unfold lastEcc
  split
  · rfl
  · simp
  · dsimp only
    rw [lastOf_setBits, lastOf_cntUp, lastOf_putLast_ne h]
    split
    · exact lastOf_cntUp ..
    · rfl

theorem lastOf_lastEcc_kept (h : eccOf ecc (lastOf s c i).bad ≠ .ue) : lastOf (lastEcc s c i ecc) c i = lastOf s c i := by
  unfold lastEcc
  split
  · rfl
  · simp
  · exact absurd ‹_› h

theorem lastOf_lastEcc_freed (h : eccOf ecc (lastOf s c i).bad = .ue) :
    lastOf (lastEcc s c i ecc) c i = { lastOf s c i with valid := false, held := none, bad := 0 } := by
  unfold lastEcc
  rw [h]
  simp

@[simp] theorem resp_lastEcc : (punit (lastEcc s c i ecc) (.ni c)).resp = (punit s (.ni c)).resp := by
  unfold lastEcc
  split
  · rfl
  · simp
  · dsimp only
    rw [punit_setBits, punit_cntUp, resp_putLast]
    split
    · rw [punit_cntUp]
    · rfl

/-- R383: an entry found uncorrectable leaves its flag. -/
theorem bit_lastEcc_freed (h : eccOf ecc (lastOf s c i).bad = .ue) : bit (rd (lastEcc s c i ecc) (cellReg c 3 0xE000)) 25 = true := by
  unfold lastEcc
  rw [h]
  exact bit_setBits _ _ (b := 25) (by decide)

end

/-! ## The packet that a command takes (R110) -/

/-- A unit with other packets in its inbox. -/
def withInbox (s : State) (u : UnitRef) (l : List RxPkt) : State := updUnit s u (fun y => { y with inbox := l })

section
variable {s : State} {u : UnitRef} {l : List RxPkt}

@[simp] theorem resp_withInbox : (punit (withInbox s u l) u).resp = (punit s u).resp := by simp [withInbox]
@[simp] theorem mem_withInbox : (withInbox s u l).mem = s.mem := rfl
@[simp] theorem rd_withInbox (k : Nat) : rd (withInbox s u l) k = rd s k := rfl
@[simp] theorem rdF_withInbox (k lo len : Nat) : rdF (withInbox s u l) k lo len = rdF s k lo len := rfl
@[simp] theorem lastOf_withInbox {c : Cell} (j : Nat) : lastOf (withInbox s (.ni c) l) c j = lastOf s c j := by
  simp [lastOf, withInbox]

theorem withInbox_touches {m : List Part} (hm : [.units] ⊆ m) : Touches m s (withInbox s u l) :=
  updUnit_touches _ _ hm (.refl m s)

theorem TargetOnly.withInbox {c : Cell} {ks : List Nat} (s : State) (l : List RxPkt) : TargetOnly c ks s (withInbox s (.ni c) l) :=
  .updUnit s fun _ => ⟨_, _, _, _, rfl⟩

variable {cmd : Nat} {p : RxPkt}

/-- The packet that is taken leaves the inbox. -/
theorem takeCmd_of_taken (h : Taken s u cmd p) : ∃ l, takeCmd s u cmd = some (p, withInbox s u l) := by
  obtain ⟨-, -, s1, htake⟩ := h
  obtain ⟨⟨q, l⟩, -, heq⟩ := Option.map_eq_some_iff.1 htake
  obtain ⟨rfl, rfl⟩ := Prod.mk.inj heq
  exact ⟨l, htake⟩

/-- A command on packets does with the packet it takes what its operation does, where the responses fit. -/
theorem onCmd_of_taken (h : Taken s u cmd p) :
    ∃ l, ∀ f, respFits (f (withInbox s u l) p) u = true → onCmd s u cmd f = f (withInbox s u l) p := by
  obtain ⟨l, htake⟩ := takeCmd_of_taken h
  obtain ⟨hroom, hclock, -⟩ := h
  refine ⟨l, fun f hfits => ?_⟩
  unfold onCmd
  rw [if_pos (by rw [hroom, hclock]; rfl), htake]
  exact if_pos hfits

theorem respFits_of_le {t : State} (hroom : respRoom s u = true) (h : (punit t u).resp.length ≤ (punit s u).resp.length + 1) :
    respFits t u = true := by
  cases u with
  | gw g => rfl
  | ni c =>
    have hlt : (punit s (.ni c)).resp.length < 32 := of_decide_eq_true hroom
    exact decide_eq_true (by omega)

end

end Sys2Proof.Machine

/-! # Stream requests at Last (R98, R99, R102, R383)

A request of a source without an entry takes the first free one; a release frees the entry that its stream holds. -/

namespace Sys2Proof.Machine

section
variable {c : Cell} {p : RxPkt} {ecc : Ecc} {s s1 : State}

/-! ## STREAM_REQ (R98, R99) -/

theorem lastOwned_none (h : ∀ x, x ∈ (punit s (.ni c)).last → x.2.valid = true →
    ¬ (x.2.wafer = hSw p.hdr ∧ x.2.x = hSx p.hdr ∧ x.2.y = hSy p.hdr ∧ x.2.q = hSq p.hdr)) : lastOwned s c p.hdr = none := by
  refine List.find?_eq_none.2 fun x hx hsame => ?_
  simp only [Bool.and_eq_true, beq_iff_eq] at hsame
  obtain ⟨⟨⟨⟨hv, hw⟩, hsx⟩, hsy⟩, hq⟩ := hsame
  exact h x hx hv ⟨hw, hsx, hsy, hq⟩

/-- The entry that a STREAM_REQ opens in a free one. -/
def openedLast (x : LastEnt) (h : Payload) : LastEnt :=
  { x with valid := true, inst := (x.inst + 1) % 16, wafer := hSw h, x := hSx h, y := hSy h, q := hSq h, cnt := [0, 0], held := none,
           bad := 0 }

theorem inst_lastEcc (i : Nat) : (lastOf (lastEcc s c i ecc) c i).inst = (lastOf s c i).inst := by
  by_cases h : eccOf ecc (lastOf s c i).bad = .ue
  · rw [lastOf_lastEcc_freed h]
  · rw [lastOf_lastEcc_kept h]

/-- R98: with an entry free the request opens the first one. -/
theorem lastOpenNew_some {i : Nat} (hi : (List.range 512).find? (fun j => !(lastOf s c j).valid) = some i) :
    lastOpenNew s c p ecc = pushResp (setLast (lastEcc s c i ecc) c i (openedLast (lastOf s c i) p.hdr)) (.ni c)
      (streamRspPkt (lastEcc s c i ecc) p.hdr 0 i (((lastOf s c i).inst + 1) % 16) p.port) := by
  unfold lastOpenNew
  dsimp only
  rw [hi]
  dsimp only
  rw [inst_lastEcc]
  rfl

/-- R99: with none free it is answered FULL. -/
theorem lastOpenNew_none (hi : (List.range 512).find? (fun j => !(lastOf s c j).valid) = none) :
    lastOpenNew s c p ecc = pushResp (cntUp s (cellReg c 3 0x818) 20 8 1) (.ni c) (streamRspPkt s p.hdr 4 0 0 p.port) := by
  unfold lastOpenNew
  dsimp only
  rw [hi]

theorem streamReq_of_stranger (h : lastOwned s c p.hdr = none) : streamReq s c p ecc = lastOpenNew s c p ecc := by
  unfold streamReq
  rw [h]

theorem streamReq_exec (ht : Taken s (.ni c) 5 p) (hgood : malformed p.hdr p.welt = false)
    (hstranger : ∀ x, x ∈ (punit s (.ni c)).last → x.2.valid = true →
      ¬ (x.2.wafer = hSw p.hdr ∧ x.2.x = hSx p.hdr ∧ x.2.y = hSy p.hdr ∧ x.2.q = hSq p.hdr)) :
    ∃ l, respFits (lastOpenNew (withInbox s (.ni c) l) c p ecc) (.ni c) = true →
      exec (.streamReq (.ni c) ecc) s = .next (lastOpenNew (withInbox s (.ni c) l) c p ecc) := by
  obtain ⟨l, hrun⟩ := onCmd_of_taken ht
  have hown : lastOwned (withInbox s (.ni c) l) c p.hdr = none :=
    lastOwned_none (s := withInbox s (.ni c) l) (by rw [withInbox, punit_updUnit_same]; exact hstranger)
  have hf := hrun (fun s p => if malformed p.hdr p.welt then takeMalformed s (.ni c) p else streamReq s c p ecc)
  simp only [hgood, Bool.false_eq_true, if_false, streamReq_of_stranger hown] at hf
  exact ⟨l, fun hfits => congrArg Host.Outcome.next (hf hfits)⟩

/-- R98, R383: a request of a source without an entry, where one is free. -/
theorem streamReq_opens {i : Nat} (ht : Taken s (.ni c) 5 p) (hgood : malformed p.hdr p.welt = false)
    (hstranger : ∀ x, x ∈ (punit s (.ni c)).last → x.2.valid = true →
      ¬ (x.2.wafer = hSw p.hdr ∧ x.2.x = hSx p.hdr ∧ x.2.y = hSy p.hdr ∧ x.2.q = hSq p.hdr))
    (hi : (List.range 512).find? (fun j => !(lastOf s c j).valid) = some i) :
    ∃ t z, exec (.streamReq (.ni c) ecc) s = .next t ∧ Responded s t (.ni c) p.hdr 6 z ∧
      lastOf t c i = openedLast (lastOf s c i) p.hdr ∧ (∀ j, j ≠ i → lastOf t c j = lastOf s c j) ∧
      (hInl z.hdr 0 9 = i ∧ hInl z.hdr 9 4 = ((lastOf s c i).inst + 1) % 16 ∧ hInl z.hdr 13 4 = 0) ∧
      RegsBut [cellReg c 3 0x818, cellReg c 3 0xB010, cellReg c 3 0xE000] s t ∧ Touches [.regs, .units] s t := by
  obtain ⟨l, hexec⟩ := streamReq_exec (ecc := ecc) ht hgood hstranger
  have hi' : (List.range 512).find? (fun j => !(lastOf (withInbox s (.ni c) l) c j).valid) = some i := by
    simpa only [lastOf_withInbox] using hi
  have hlt : i < 512 := List.mem_range.1 (List.mem_of_find?_eq_some hi)
  have hfree : (lastOf s c i).valid = false := by simpa using List.find?_some hi
  rw [lastOpenNew_some hi'] at hexec
  have hread : TargetOnly c [cellReg c 3 0x818, cellReg c 3 0xB010, cellReg c 3 0xE000] s (lastEcc (withInbox s (.ni c) l) c i ecc) :=
    (TargetOnly.withInbox s l).trans (.lastEcc _ i ecc (by simp) (by simp [hfree]))
  refine ⟨_, _, hexec (respFits_of_le ht.1 (by simp)), responded_streamRspPkt (by simp) hread.sameReplies, ?_, fun j hj => ?_, ⟨?_, ?_, ?_⟩,
    ((hread.trans (.setLast _ i _ (by simp))).trans (.pushResp _ _)).regs, ?_⟩
  · rw [lastOf_pushResp, lastOf_setLast_same, lastOf_withInbox]
    rfl
  · rw [lastOf_pushResp, lastOf_setLast_ne hj, lastOf_lastEcc_ne hj, lastOf_withInbox]
  · exact (streamRspPkt_stag ..).trans (Nat.mod_eq_of_lt hlt)
  · rw [streamRspPkt_sinst, lastOf_withInbox]
    exact Nat.mod_mod _ _
  · rw [streamRspPkt_status]
    rfl
  · exact pushResp_touches _ _ (by decide) (setLast_touches _ _ _ (by decide)
      (lastEcc_touches _ _ _ (by decide) (withInbox_touches (by decide))))

/-- R99: a request where none is free. -/
theorem streamReq_full (ht : Taken s (.ni c) 5 p) (hgood : malformed p.hdr p.welt = false)
    (hstranger : ∀ x, x ∈ (punit s (.ni c)).last → x.2.valid = true →
      ¬ (x.2.wafer = hSw p.hdr ∧ x.2.x = hSx p.hdr ∧ x.2.y = hSy p.hdr ∧ x.2.q = hSq p.hdr))
    (hi : (List.range 512).find? (fun j => !(lastOf s c j).valid) = none) :
    ∃ t z, exec (.streamReq (.ni c) ecc) s = .next t ∧ Responded s t (.ni c) p.hdr 6 z ∧
      (punit t (.ni c)).last = (punit s (.ni c)).last ∧ hInl z.hdr 13 4 = 4 ∧
      RegsBut [cellReg c 3 0x818, cellReg c 3 0xB010, cellReg c 3 0xE000] s t ∧ Touches [.regs, .units] s t := by
  obtain ⟨l, hexec⟩ := streamReq_exec (ecc := ecc) ht hgood hstranger
  have hi' : (List.range 512).find? (fun j => !(lastOf (withInbox s (.ni c) l) c j).valid) = none := by
    simpa only [lastOf_withInbox] using hi
  rw [lastOpenNew_none hi'] at hexec
  have hinbox : TargetOnly c [cellReg c 3 0x818, cellReg c 3 0xB010, cellReg c 3 0xE000] s (withInbox s (.ni c) l) := .withInbox s l
  refine ⟨_, _, hexec (respFits_of_le ht.1 (by simp)), responded_streamRspPkt (by simp) hinbox.sameReplies, by simp [pushResp, withInbox],
    (streamRspPkt_status ..).trans rfl, ((hinbox.trans (.cntUp _ _ _ _ (by simp))).trans (.pushResp _ _)).regs, ?_⟩
  exact pushResp_touches _ _ (by decide) (cntUp_touches _ _ _ _ (by decide) (withInbox_touches (by decide)))

/-! ## STREAM_REL (R102) -/

/-- R102: a release of the stream that an entry holds frees it; of another it is answered STREAM. -/
theorem streamRel_eq (s : State) : streamRel s c p ecc =
    if lastMatch (lastOf (lastEcc s c (hStag p.hdr) ecc) c (hStag p.hdr)) p.hdr then
      pushResp (freeLast (lastEcc s c (hStag p.hdr) ecc) c (hStag p.hdr)) (.ni c)
        (streamRspPkt s p.hdr 0 (hStag p.hdr) (hSinst p.hdr) p.port)
    else pushResp (cntUp (lastEcc s c (hStag p.hdr) ecc) (cellReg c 3 0x81C) 8 8 1) (.ni c)
      (streamRspPkt s p.hdr 3 (hStag p.hdr) (hSinst p.hdr) p.port) := rfl

theorem streamRel_exec (ht : Taken s (.ni c) 7 p) (hgood : malformed p.hdr p.welt = false) :
    ∃ l, respFits (streamRel (withInbox s (.ni c) l) c p ecc) (.ni c) = true →
      exec (.streamRel (.ni c) ecc) s = .next (streamRel (withInbox s (.ni c) l) c p ecc) := by
  obtain ⟨l, hrun⟩ := onCmd_of_taken ht
  have hf := hrun (fun s p => if malformed p.hdr p.welt then takeMalformed s (.ni c) p else streamRel s c p ecc)
  simp only [hgood, Bool.false_eq_true, if_false] at hf
  exact ⟨l, fun hfits => congrArg Host.Outcome.next (hf hfits)⟩

/-- R102, R383: the release of the stream that an entry holds, or of another. -/
theorem streamRel_taken (ht : Taken s (.ni c) 7 p) (hgood : malformed p.hdr p.welt = false) :
    ∃ t z, exec (.streamRel (.ni c) ecc) s = .next t ∧ Responded s t (.ni c) p.hdr 6 z ∧
      (eccOf ecc (lastOf s c (hStag p.hdr)).bad ≠ .ue →
        if lastMatch (lastOf s c (hStag p.hdr)) p.hdr then
          lastOf t c (hStag p.hdr) = { lastOf s c (hStag p.hdr) with valid := false, held := none, bad := 0 } ∧ hInl z.hdr 13 4 = 0
        else lastOf t c (hStag p.hdr) = lastOf s c (hStag p.hdr) ∧ hInl z.hdr 13 4 = 3) ∧
      (eccOf ecc (lastOf s c (hStag p.hdr)).bad = .ue →
        (lastOf t c (hStag p.hdr)).valid = false ∧ hInl z.hdr 13 4 = 3 ∧ bit (rd t (cellReg c 3 0xE000)) 25 = true) ∧
      (∀ j, j ≠ hStag p.hdr → lastOf t c j = lastOf s c j) ∧ RegsBut [cellReg c 3 0x81C, cellReg c 3 0xE000] s t ∧
      Touches [.regs, .units] s t := by
  obtain ⟨l, hexec⟩ := streamRel_exec (ecc := ecc) ht hgood
  have hinbox : TargetOnly c [cellReg c 3 0x81C, cellReg c 3 0xE000] s (withInbox s (.ni c) l) := .withInbox s l
  have hread : TargetOnly c [cellReg c 3 0x81C, cellReg c 3 0xE000] s (lastEcc (withInbox s (.ni c) l) c (hStag p.hdr) ecc) :=
    hinbox.trans (.lastEcc _ _ ecc (by simp) (by simp))
  have htouch : Touches [.regs, .units] s (lastEcc (withInbox s (.ni c) l) c (hStag p.hdr) ecc) :=
    lastEcc_touches _ _ _ (by decide) (withInbox_touches (by decide))
  have hother (j : Nat) (hj : j ≠ hStag p.hdr) : lastOf (lastEcc (withInbox s (.ni c) l) c (hStag p.hdr) ecc) c j = lastOf s c j := by
    rw [lastOf_lastEcc_ne hj, lastOf_withInbox]
  rw [streamRel_eq] at hexec
  by_cases hm : lastMatch (lastOf (lastEcc (withInbox s (.ni c) l) c (hStag p.hdr) ecc) c (hStag p.hdr)) p.hdr = true
  · have hkept : eccOf ecc (lastOf s c (hStag p.hdr)).bad ≠ .ue := fun hue => by
      rw [lastOf_lastEcc_freed (by rwa [lastOf_withInbox])] at hm
      exact Bool.false_ne_true hm
    have hsame : lastOf (lastEcc (withInbox s (.ni c) l) c (hStag p.hdr) ecc) c (hStag p.hdr) = lastOf s c (hStag p.hdr) := by
      rw [lastOf_lastEcc_kept (by rwa [lastOf_withInbox]), lastOf_withInbox]
    rw [if_pos hm] at hexec
    rw [hsame] at hm
    refine ⟨_, _, hexec (respFits_of_le ht.1 (by simp)), responded_streamRspPkt (by simp) hinbox.sameReplies, fun _ => ?_,
      fun hue => absurd hue hkept, fun j hj => ?_, ((hread.trans (.freeLast _ _ (by simp))).trans (.pushResp _ _)).regs,
      pushResp_touches _ _ (by decide) (freeLast_touches _ _ (by decide) htouch)⟩
    · rw [if_pos hm, lastOf_pushResp, lastOf_freeLast_same, hsame]
      exact ⟨rfl, streamRspPkt_status ..⟩
    · rw [lastOf_pushResp, lastOf_freeLast_ne hj, hother j hj]
  · rw [if_neg hm] at hexec
    refine ⟨_, _, hexec (respFits_of_le ht.1 (by simp)), responded_streamRspPkt (by simp) hinbox.sameReplies, fun hkept => ?_,
      fun hue => ⟨?_, streamRspPkt_status .., ?_⟩, fun j hj => ?_, ((hread.trans (.cntUp _ _ _ _ (by simp))).trans (.pushResp _ _)).regs,
      pushResp_touches _ _ (by decide) (cntUp_touches _ _ _ _ (by decide) htouch)⟩
    · have hsame : lastOf (lastEcc (withInbox s (.ni c) l) c (hStag p.hdr) ecc) c (hStag p.hdr) = lastOf s c (hStag p.hdr) := by
        rw [lastOf_lastEcc_kept (by rwa [lastOf_withInbox]), lastOf_withInbox]
      rw [if_neg (by rwa [← hsame]), lastOf_pushResp, lastOf_cntUp, hsame]
      exact ⟨rfl, streamRspPkt_status ..⟩
    · rw [lastOf_pushResp, lastOf_cntUp, lastOf_lastEcc_freed (by rwa [lastOf_withInbox])]
    · have hne : cellReg c 3 0xE000 ≠ cellReg c 3 0x81C := cellReg_ne c (by decide) (by decide) (by decide) (by decide) (.inr (by decide))
      have hstays : rd (pushResp (cntUp (lastEcc (withInbox s (.ni c) l) c (hStag p.hdr) ecc) (cellReg c 3 0x81C) 8 8 1) (.ni c)
          (streamRspPkt (withInbox s (.ni c) l) p.hdr 3 (hStag p.hdr) (hSinst p.hdr) p.port)) (cellReg c 3 0xE000) =
          rd (lastEcc (withInbox s (.ni c) l) c (hStag p.hdr) ecc) (cellReg c 3 0xE000) := rd_cntUp_ne _ _ _ _ hne
      rw [hstays, bit_lastEcc_freed (by rwa [lastOf_withInbox])]
    · rw [lastOf_pushResp, lastOf_cntUp, hother j hj]

end

/-- Settles O41: what STREAM_REQ and STREAM_REL do to the entries of Last. -/
theorem lastEntriesOpenAndClose : Obligations.LastEntriesOpenAndClose := by
  refine ⟨fun c ecc p s ht hgood _ hstranger => ?_, fun c ecc p s ht hgood _ => streamRel_taken ht hgood⟩
  cases hi : (List.range 512).find? (fun j => !(lastOf s c j).valid) with
  | some i =>
    obtain ⟨t, z, hexec, hresp, hopen, hother, hz, hregs, htouch⟩ := streamReq_opens (ecc := ecc) ht hgood hstranger hi
    refine ⟨t, z, hexec, hresp, fun j hj => ?_, fun hall => ?_, hregs, htouch⟩
    · obtain rfl := Option.some.inj hj
      exact ⟨hopen, hother, hz⟩
    · have hfree := List.find?_some hi
      rw [hall i (List.mem_range.1 (List.mem_of_find?_eq_some hi))] at hfree
      exact absurd hfree Bool.false_ne_true
  | none =>
    obtain ⟨t, z, hexec, hresp, hlast, hz, hregs, htouch⟩ := streamReq_full (ecc := ecc) ht hgood hstranger hi
    exact ⟨t, z, hexec, hresp, fun _ hj => (nomatch hj), fun _ => ⟨hlast, hz⟩, hregs, htouch⟩

end Sys2Proof.Machine

/-! # Completions at an NI (R236, R241, R242, R258)

A descriptor with nothing left to send completes when everything it sent has been answered: its entry is written at CPI, and its
context is free. -/

namespace Sys2Proof.Machine

/-! ## Bytes in memory -/

theorem placed_of_memPuts {s t : State} {a : Nat} {l : List Byte} (h : t.mem = memPuts s.mem a l) : Placed s t a l := by
  refine ⟨fun i hi => ?_, fun b hb => ?_⟩
  · rw [h, memGet_memPuts_in _ _ _ hi, List.getD_eq_getElem _ _ hi]
  · rw [h, memGet_memPuts_out _ _ _ hb]

/-! ## A completion ring's entry (R236) -/

theorem length_bytesOf (n v : Nat) : (bytesOf n v).length = n := by
  induction n generalizing v with
  | zero => rfl
  | succ n ih => rw [bytesOf, List.length_cons, ih]

theorem getElem_bytesOf {n : Nat} (v i : Nat) (h : i < (bytesOf n v).length) : (bytesOf n v)[i] = BitVec.ofNat 8 (v / 256 ^ i) := by
  induction n generalizing v i with
  | zero => exact absurd h (Nat.not_lt_zero i)
  | succ n ih =>
    cases i with
    | zero => simp [bytesOf]
    | succ i =>
      simp only [bytesOf, List.getElem_cons_succ]
      rw [ih, Nat.div_div_eq_div_mul, Nat.pow_succ, Nat.mul_comm]

section
variable {s t : State} {c : Cell} {r : Nat} {ent : BitVec 128}

/-- R236: an entry's bytes at CPI, with its PHASE, and CPI advanced. -/
theorem cqWrite_ni (h : (cqOf s (.ni c) r).st ≠ .error) : cqWrite s (.ni c) r ent =
    setCq (memWrite s (unitSpace (.ni c)) (ringBase s (.ni c) (cqReg (.ni c) r 0) (cqReg (.ni c) r 1) +
        16 * ((cqOf s (.ni c) r).cpi.toNat % 2 ^ rdF s (cqReg (.ni c) r 2) 0 5))
      (bytesOf 16 (put ent 127 1 (1 - (cqOf s (.ni c) r).cpi.toNat / 2 ^ rdF s (cqReg (.ni c) r 2) 0 5 % 2)).toNat)) (.ni c) r
      { cqOf s (.ni c) r with cpi := (cqOf s (.ni c) r).cpi + 1 } := by
  unfold cqWrite
  exact if_neg h

@[simp] theorem cqOf_setCq_same (s : State) (u : UnitRef) (r : Nat) (x : CqRing) : cqOf (setCq s u r x) u r = x := by
  simp [cqOf, setCq]

theorem cqWrite_posted (h : (cqOf s (.ni c) r).st ≠ .error) : Posted s (cqWrite s (.ni c) r ent) (.ni c) r ent := by
  have hmem : (cqWrite s (.ni c) r ent).mem = memPuts s.mem (entryAddr s (.ni c) r)
      (bytesOf 16 (put ent 127 1 (1 - (cqOf s (.ni c) r).cpi.toNat / 2 ^ rdF s (cqReg (.ni c) r 2) 0 5 % 2)).toNat) := by
    rw [cqWrite_ni h]
    rfl
  refine ⟨⟨?_, ?_, fun i hi => ?_⟩, fun a ha => ?_⟩
  · rw [cqWrite_ni h, cqOf_setCq_same]
  · rw [cqWrite_ni h, cqOf_setCq_same]
  · rw [hmem, memGet_memPuts_in _ _ _ (by rw [length_bytesOf]; exact hi), getElem_bytesOf]
  · rw [hmem, memGet_memPuts_out _ _ _ (by rw [length_bytesOf]; exact ha)]

theorem cqWrite_unit (h : (cqOf s (.ni c) r).st ≠ .error) :
    ∃ q, punit (cqWrite s (.ni c) r ent) (.ni c) = { punit s (.ni c) with cq := q } := by
  rw [cqWrite_ni h, setCq, punit_updUnit_same, punit_memWrite]
  exact ⟨_, rfl⟩

theorem cqWrite_regs (h : (cqOf s (.ni c) r).st ≠ .error) : (cqWrite s (.ni c) r ent).regs = s.regs := by
  rw [cqWrite_ni h]
  rfl

/-- What is posted from a state is posted from one with the same memory, ring and ring registers. -/
theorem Posted.of_same {s' : State} (h : Posted s' t (.ni c) r ent) (hmem : s'.mem = s.mem) (hcq : cqOf s' (.ni c) r = cqOf s (.ni c) r)
    (hregs : ∀ i, i < 3 → rd s' (cqReg (.ni c) r i) = rd s (cqReg (.ni c) r i)) : Posted s t (.ni c) r ent := by
  have hbase : ringBase s' (.ni c) (cqReg (.ni c) r 0) (cqReg (.ni c) r 1) = ringBase s (.ni c) (cqReg (.ni c) r 0) (cqReg (.ni c) r 1) := by
    simp only [ringBase, hregs 0 (by decide)]
  have hlog : rdF s' (cqReg (.ni c) r 2) 0 5 = rdF s (cqReg (.ni c) r 2) 0 5 := by simp only [rdF, hregs 2 (by decide)]
  have haddr : entryAddr s' (.ni c) r = entryAddr s (.ni c) r := by simp only [entryAddr, hbase, hlog, hcq]
  unfold Posted Entered at h ⊢
  rwa [hcq, hlog, haddr, hmem] at h

/-- What is posted stays so in a state with the same memory and ring. -/
theorem Posted.to_same {t' : State} (h : Posted s t (.ni c) r ent) (hmem : t'.mem = t.mem)
    (hcq : cqOf t' (.ni c) r = cqOf t (.ni c) r) : Posted s t' (.ni c) r ent := by
  unfold Posted Entered at h ⊢
  rwa [hcq, hmem]

end

/-! ## Rings settle (R262) -/

section
variable {s : State} {u : UnitRef}

theorem cqOf_ringSettle {r : Nat} (h : (cqOf s u r).st ≠ .stopping) : cqOf (ringSettle s u) u r = cqOf s u r := by
  have hfind := FMap.find_map (punit s u).cq (fun x => (x.1, if x.2.st = .stopping ∧ cqRsv s u x.1 = 0 then { x.2 with st := .stopped } else x.2))
    (fun _ => rfl) r
  unfold cqOf FMap.get at h ⊢
  rw [ringSettle, punit_updUnit_same]
  dsimp only
  rw [hfind]
  cases hr : (punit s u).cq.find r with
  | none => rfl
  | some y =>
    rw [hr] at h
    have hne : y.st ≠ .stopping := h
    simp [hne]

theorem ringSettle_unit : ∃ q k, punit (ringSettle s u) u = { punit s u with sq := q, cq := k } := by
  rw [ringSettle, punit_updUnit_same]
  exact ⟨_, _, rfl⟩

theorem ringSettle_cpi : (punit (ringSettle s u) u).cq.map (fun y => y.2.cpi) = (punit s u).cq.map (fun y => y.2.cpi) := by
  rw [ringSettle, punit_updUnit_same]
  simp only [List.map_map]
  refine List.map_congr_left fun y _ => ?_
  simp only [Function.comp]
  split <;> rfl

end

/-! ## A descriptor completes (R242, R258) -/

section
variable {s : State} {c : Cell} {id : Nat} {x : Ctx}

theorem ctxOf_only {u : UnitRef} (h : (punit s u).ctxs = [(id, x)]) : ctxOf s u id = some x := by
  simp [ctxOf, h, FMap.find]

theorem cqOf_telNi (s : State) (c : Cell) (i n : Nat) (u : UnitRef) (r : Nat) : cqOf (telNi s c i n) u r = cqOf s u r := by
  unfold cqOf telNi
  rw [punit_telAdd]

/-- The unit's context is free again. -/
def freeCtx (s : State) (u : UnitRef) (id : Nat) : State := updUnit s u (fun p => { p with ctxs := p.ctxs.erase id })

theorem punit_freeCtx {u : UnitRef} (h : (punit s u).ctxs = [(id, x)]) : punit (freeCtx s u id) u = { punit s u with ctxs := [] } := by
  simp [freeCtx, h, FMap.erase]

theorem finish_ni (h : (punit s (.ni c)).ctxs = [(id, x)]) : finish s (.ni c) id =
    ringSettle (telNi (if dNocomp x.desc && x.err.isNone then freeCtx s (.ni c) id
      else cqWrite (freeCtx s (.ni c) id) (.ni c) x.cq (cplEntry x)) c 11 1) (.ni c) := by
  unfold finish
  rw [ctxOf_only h]
  rfl

/-- R242: a descriptor whose entry is due completes: the entry is written, and its context is free. -/
theorem finish_reports (h : (punit s (.ni c)).ctxs = [(id, x)]) (hrun : (cqOf s (.ni c) x.cq).st = .running)
    (hreport : (dNocomp x.desc && x.err.isNone) = false) :
    Posted s (finish s (.ni c) id) (.ni c) x.cq (cplEntry x) ∧ (finish s (.ni c) id).regs = s.regs ∧
      ∃ q k, punit (finish s (.ni c) id) (.ni c) = { punit s (.ni c) with ctxs := [], sq := q, cq := k } := by
  have hcq : cqOf (freeCtx s (.ni c) id) (.ni c) x.cq = cqOf s (.ni c) x.cq := by simp only [cqOf, punit_freeCtx h]
  have hok : (cqOf (freeCtx s (.ni c) id) (.ni c) x.cq).st ≠ .error := by rw [hcq, hrun]; decide
  have hpost := cqWrite_posted (ent := cplEntry x) hok
  have hcqw : cqOf (cqWrite (freeCtx s (.ni c) id) (.ni c) x.cq (cplEntry x)) (.ni c) x.cq =
      { cqOf s (.ni c) x.cq with cpi := (cqOf s (.ni c) x.cq).cpi + 1 } := by
    rw [cqWrite_ni hok, cqOf_setCq_same, hcq]
  obtain ⟨k, hunit⟩ := cqWrite_unit (ent := cplEntry x) hok
  rw [punit_freeCtx h] at hunit
  rw [finish_ni h, hreport, if_neg Bool.false_ne_true]
  have hpost' : Posted s (cqWrite (freeCtx s (.ni c) id) (.ni c) x.cq (cplEntry x)) (.ni c) x.cq (cplEntry x) :=
    hpost.of_same rfl hcq fun _ _ => rfl
  have hmem : (ringSettle (telNi (cqWrite (freeCtx s (.ni c) id) (.ni c) x.cq (cplEntry x)) c 11 1) (.ni c)).mem =
      (cqWrite (freeCtx s (.ni c) id) (.ni c) x.cq (cplEntry x)).mem := by rw [ringSettle, updUnit_mem, telNi, telAdd_mem]
  have hregs : (ringSettle (telNi (cqWrite (freeCtx s (.ni c) id) (.ni c) x.cq (cplEntry x)) c 11 1) (.ni c)).regs = s.regs := by
    rw [ringSettle, updUnit_regs, telNi, telAdd_regs, cqWrite_regs hok]
    rfl
  refine ⟨hpost'.to_same hmem ?_, hregs, ?_⟩
  · have hne : (cqOf (telNi (cqWrite (freeCtx s (.ni c) id) (.ni c) x.cq (cplEntry x)) c 11 1) (.ni c) x.cq).st ≠ .stopping := by
      rw [cqOf_telNi, hcqw]
      show (cqOf s (.ni c) x.cq).st ≠ .stopping
      rw [hrun]
      decide
    exact (cqOf_ringSettle hne).trans (cqOf_telNi ..)
  · obtain ⟨q, k', hsettle⟩ := ringSettle_unit (s := telNi (cqWrite (freeCtx s (.ni c) id) (.ni c) x.cq (cplEntry x)) c 11 1) (u := .ni c)
    rw [telNi, punit_telAdd, hunit] at hsettle
    exact ⟨q, k', hsettle⟩

/-- R242: a descriptor that completed OK with NOCOMP leaves no entry. -/
theorem finish_silent (h : (punit s (.ni c)).ctxs = [(id, x)]) (hsilent : (dNocomp x.desc && x.err.isNone) = true) :
    (finish s (.ni c) id).mem = s.mem ∧ (finish s (.ni c) id).regs = s.regs ∧
      (punit (finish s (.ni c) id) (.ni c)).cq.map (fun y => y.2.cpi) = (punit s (.ni c)).cq.map (fun y => y.2.cpi) ∧
      ∃ q k, punit (finish s (.ni c) id) (.ni c) = { punit s (.ni c) with ctxs := [], sq := q, cq := k } := by
  rw [finish_ni h, hsilent, if_pos rfl]
  refine ⟨rfl, rfl, ringSettle_cpi.trans ?_, ?_⟩
  · rw [telNi, punit_telAdd, punit_freeCtx h]
  · obtain ⟨q, k, hsettle⟩ := ringSettle_unit (s := telNi (freeCtx s (.ni c) id) c 11 1) (u := .ni c)
    rw [telNi, punit_telAdd, punit_freeCtx h] at hsettle
    exact ⟨q, k, hsettle⟩

end

/-! ## Contexts that settle, and errors that complete them (R241, R242) -/

section
variable {s : State} {u : UnitRef} {id : Nat} {x : Ctx}

theorem updCtx_some (h : ctxOf s u id = some x) (f : Ctx → Ctx) : updCtx s u id f = setCtx s u id (f x) := by
  unfold updCtx
  rw [h]

@[simp] theorem ctxOf_setCtx_same (s : State) (u : UnitRef) (id : Nat) (x : Ctx) : ctxOf (setCtx s u id x) u id = some x := by
  rw [ctxOf, setCtx, punit_updUnit_same]
  exact FMap.find_set_same _ _ _

theorem ctxs_setCtx {y : Ctx} (h : (punit s u).ctxs = [(id, x)]) : (punit (setCtx s u id y) u).ctxs = [(id, y)] := by
  simp [setCtx, h, FMap.set]

theorem inFlight_congr {t : State} (htx : t.tx = s.tx) (hw : (punit t u).weltCur = (punit s u).weltCur) :
    inFlight t u id = inFlight s u id := by
  simp only [inFlight, txEnd, htx, hw]

theorem inFlight_setCtx (s : State) (u : UnitRef) (i id : Nat) (x : Ctx) : inFlight (setCtx s u i x) u id = inFlight s u id :=
  inFlight_congr rfl (by simp [setCtx])

/-- R242: a running descriptor with nothing to send and nothing unanswered completes. -/
theorem settleCtx_done (h : ctxOf s u id = some x) (hst : x.st = .active) (htodo : x.todo = []) (hout : x.out = 0)
    (hstill : inFlight s u id = false) : settleCtx s u id = finish s u id := by
  unfold settleCtx
  rw [h]
  dsimp only
  rw [if_pos ⟨hst, htodo, hstill⟩, if_pos hout]

/-- A descriptor with packets left to send stays. -/
theorem settleCtx_sends (h : ctxOf s u id = some x) (htodo : x.todo ≠ []) : settleCtx s u id = s := by
  unfold settleCtx
  rw [h]
  exact if_neg fun hx => htodo hx.2.1

/-- R241: a descriptor that has packets to send runs. -/
theorem runWith_sends {l : List Plan} (h : ctxOf s u id = some x) (hl : l ≠ []) :
    runWith s u id l = setCtx s u id { x with st := .active, todo := l } := by
  unfold runWith
  rw [updCtx_some h]
  exact settleCtx_sends (ctxOf_setCtx_same ..) hl

/-- Nothing of the descriptor is on its way out. -/
theorem not_mem_of_still (hstill : inFlight s u id = false) {e : EndRef} (he : e ∈ unitEnds u) {z : TxCur}
    (hz : some z ∈ (txEnd s e).cur) : z.pkt.ctx ≠ some id := by
  intro hctx
  simp only [inFlight, Bool.or_eq_false_iff, List.any_eq_false] at hstill
  exact hstill.1 e he (List.any_eq_true.2 ⟨some z, hz, by simp [hctx]⟩)

theorem reserved_nil (h : ctxOf s u id = some x) (htodo : x.todo = []) (hstill : inFlight s u id = false) : reserved s u id = [] := by
  unfold reserved
  rw [h]
  simp only [htodo, List.filterMap_nil, List.nil_append, List.flatMap_eq_nil_iff, List.filterMap_eq_nil_iff]
  intro e he y hy
  cases y with
  | none => rfl
  | some z => simp [not_mem_of_still hstill he hy]

theorem giveUpStreams_nil (h : ctxOf s u id = some x) (htodo : x.todo = []) (hstill : inFlight s u id = false)
    (hrel : ∀ y, y ∈ (punit s u).streams → y.2.relPend ≠ some id) : giveUpStreams s u id = s := by
  have hany : (punit s u).streams.any (fun y => y.2.relPend == some id) = false := by simpa [List.any_eq_false] using hrel
  unfold giveUpStreams
  rw [reserved_nil h htodo hstill, hany]
  rfl

/-- R242: what an error makes of a context that has nothing under way and does not wait for a collective. -/
def erred (x : Ctx) (st detail : Nat) : Ctx := { x with err := some (x.err.getD (st, detail)), todo := [], st := .active }

/-- A fold whose steps leave its start gives it. -/
theorem foldl_stays {α β : Type} {f : α → β → α} {a : α} {l : List β} (h : ∀ b, b ∈ l → f a b = a) : l.foldl f a = a := by
  induction l with
  | nil => rfl
  | cons b l ih =>
    rw [List.foldl_cons, h b List.mem_cons_self]
    exact ih fun d hd => h d (List.mem_cons_of_mem _ hd)

theorem ctxErr_quiet (h : ctxOf s u id = some x) (htodo : x.todo = []) (hstill : inFlight s u id = false)
    (hrel : ∀ y, y ∈ (punit s u).streams → y.2.relPend ≠ some id) (hcoll : ¬ (dOp x.desc = 3 ∧ x.st = .waiting)) (st detail : Nat) :
    ctxErr s u id st detail = setCtx s u id (erred x st detail) := by
  have hset : updCtx (giveUpStreams s u id) u id (fun y =>
      if dOp y.desc = 3 ∧ y.st = .waiting then { y with err := some (y.err.getD (9, 0x70)), todo := [] }
      else { y with err := some (y.err.getD (st, detail)), todo := [], st := .active }) = setCtx s u id (erred x st detail) := by
    rw [giveUpStreams_nil h htodo hstill hrel, updCtx_some h, if_neg hcoll]
    rfl
  have hstill' : inFlight (setCtx s u id (erred x st detail)) u id = false := by
    rw [inFlight_setCtx]
    exact hstill
  have hwelt : (punit (setCtx s u id (erred x st detail)) u).weltCur.any (fun y => y.2.pkt.ctx == some id && !y.2.begun) = false := by
    simp only [inFlight, Bool.or_eq_false_iff, List.any_eq_false] at hstill'
    refine List.any_eq_false.2 fun y hy hmine => hstill'.2 y hy ?_
    exact (Bool.and_eq_true_iff.1 hmine).1
  unfold ctxErr
  rw [hset]
  dsimp only
  rw [hwelt, if_neg Bool.false_ne_true]
  refine foldl_stays fun e he => if_neg fun hany => ?_
  obtain ⟨z, hz, hmine⟩ := List.any_eq_true.1 hany
  cases z with
  | none => exact Bool.false_ne_true hmine
  | some w => exact not_mem_of_still hstill' he hz (beq_iff_eq.1 (Bool.and_eq_true_iff.1 hmine).1)

/-- R242: a descriptor that fails with nothing under way completes at once. -/
theorem failCtx_quiet (h : ctxOf s u id = some x) (htodo : x.todo = []) (hout : x.out = 0) (hstill : inFlight s u id = false)
    (hrel : ∀ y, y ∈ (punit s u).streams → y.2.relPend ≠ some id) (hcoll : ¬ (dOp x.desc = 3 ∧ x.st = .waiting)) (st detail : Nat) :
    failCtx s u id st detail = finish (setCtx s u id (erred x st detail)) u id := by
  unfold failCtx
  rw [ctxErr_quiet h htodo hstill hrel hcoll]
  refine settleCtx_done (ctxOf_setCtx_same ..) rfl rfl hout ?_
  rw [inFlight_setCtx]
  exact hstill

theorem cplEntry_erred (hgood : x.err = none) (st detail : Nat) :
    cplEntry (erred x st detail) = cplEntry { x with err := some (st, detail) } := by
  unfold cplEntry erred
  rw [hgood]
  rfl

/-- R242, R258: the only context of an NI, with nothing under way, that fails: its entry reports the error. -/
theorem failCtx_lone {c : Cell} (h : (punit s (.ni c)).ctxs = [(id, x)]) (htodo : x.todo = []) (hout : x.out = 0) (hgood : x.err = none)
    (hstill : inFlight s (.ni c) id = false) (hrel : ∀ y, y ∈ (punit s (.ni c)).streams → y.2.relPend ≠ some id)
    (hcoll : ¬ (dOp x.desc = 3 ∧ x.st = .waiting)) (hring : (cqOf s (.ni c) x.cq).st = .running) (st detail : Nat) :
    Posted s (failCtx s (.ni c) id st detail) (.ni c) x.cq (cplEntry { x with err := some (st, detail) }) ∧
      (failCtx s (.ni c) id st detail).regs = s.regs ∧ Touches [.mem, .regs, .units, .tel] s (failCtx s (.ni c) id st detail) ∧
      ∃ q k, punit (failCtx s (.ni c) id st detail) (.ni c) = { punit s (.ni c) with ctxs := [], sq := q, cq := k } := by
  have hunit : punit (setCtx s (.ni c) id (erred x st detail)) (.ni c) = { punit s (.ni c) with ctxs := [(id, erred x st detail)] } := by
    simp [setCtx, h, FMap.set]
  have hcq : cqOf (setCtx s (.ni c) id (erred x st detail)) (.ni c) x.cq = cqOf s (.ni c) x.cq := by simp only [cqOf, hunit]
  obtain ⟨hpost, hregs, q, k, hfin⟩ := finish_reports (x := erred x st detail) (ctxs_setCtx h) ((congrArg CqRing.st hcq).trans hring)
    (by simp [erred])
  rw [failCtx_quiet (ctxOf_only h) htodo hout hstill hrel hcoll, ← cplEntry_erred hgood]
  refine ⟨hpost.of_same rfl hcq fun _ _ => rfl, hregs,
    finish_touches _ _ (by decide) (setCtx_touches _ _ _ (by decide) (.refl _ s)), q, k, ?_⟩
  rw [hfin, hunit]

end

end Sys2Proof.Machine

/-! # Descriptors that send one packet, and descriptors that wait (R98, R102, R133, R135, R252-R256) -/

namespace Sys2Proof.Machine

/-! ## A descriptor that may start (R240, R246) -/

section
variable {s : State} {u : UnitRef} {r op id : Nat} {x : Ctx}

/-- A descriptor that passes its checks is run. -/
theorem startOp_of_startable (h : Startable s u r op id x) (run : State → Nat → Ctx → State) :
    startOp s u r op run = run s id x := by
  unfold startOp
  rw [if_pos h.clock, h.oldest]
  dsimp only
  rw [h.passes]

theorem startable_dOp (h : Startable s u r op id x) : dOp x.desc = op := by
  have hx := List.find?_some h.oldest
  simp only [Bool.and_eq_true, beq_iff_eq] at hx
  exact hx.1.2

/-- A context that takes packets to send keeps everything else of its unit. -/
theorem setCtx_sends (h : ctxOf s u id = some x) {l : List Plan} (hl : l ≠ []) :
    ctxOf (runWith s u id l) u id = some { x with st := .active, todo := l } ∧ Touches [.units] s (runWith s u id l) := by
  rw [runWith_sends h hl]
  exact ⟨ctxOf_setCtx_same .., setCtx_touches _ _ _ (by decide) (.refl _ s)⟩

/-- A context that waits keeps everything else of its unit. -/
theorem updCtx_waits (h : ctxOf s u id = some x) : ctxOf (updCtx s u id (fun z => { z with st := .waiting })) u id =
    some { x with st := .waiting } ∧ Touches [.units] s (updCtx s u id (fun z => { z with st := .waiting })) := by
  rw [updCtx_some h]
  exact ⟨ctxOf_setCtx_same .., setCtx_touches _ _ _ (by decide) (.refl _ s)⟩

end

/-! ## FENCE, SIGNAL and STREAM_OPEN (R98, R252-R254) -/

section
variable {s : State} {c : Cell} {q : Fin 16} {id i : Nat} {x : Ctx} {y : SrcStream}

/-- The fenced WRITE of a FENCE (R253). -/
def fencePlan (d : BitVec 512) : Plan :=
  { inlinePlan 0 1 (df d 64 76) (df d 144 64) (df d 140 4) 0 with fence := true, onStream := true }

theorem fence_exec (h : Startable s (.ni c) q.val 6 id x) (hs : streamFor s (.ni c) x.ring (df x.desc 64 76) = some (i, y))
    (hb : y.broken = false) : exec (.fence c q) s = .next (runWith s (.ni c) id [fencePlan x.desc]) := by
  refine congrArg Host.Outcome.next ((startOp_of_startable h _).trans ?_)
  unfold runFence
  dsimp only
  rw [hs]
  dsimp only
  rw [hb]
  rfl

/-- The packet of a SIGNAL (R254). -/
def signalPlan (d : BitVec 512) : Plan :=
  { inlinePlan 4 1 (df d 64 76) (df d 144 64) (df d 140 4) 0 with fence := bit d 208, onStream := true }

theorem signalDescriptor_exec {u : UnitRef} {r : Fin 64} (h : Startable s u r.val 8 id x)
    (hs : bit x.desc 208 = true → (streamFor s u x.ring (df x.desc 64 76)).isSome = true)
    (hb : streamBroken s u x.ring (df x.desc 64 76) = false) :
    exec (.signalDescriptor u r) s = .next (runWith s u id [signalPlan x.desc]) := by
  refine congrArg Host.Outcome.next ((startOp_of_startable h _).trans ?_)
  have hfence : (bit x.desc 208 && (streamFor s u x.ring (df x.desc 64 76)).isNone) = false := by
    cases hf : bit x.desc 208 with
    | false => rfl
    | true =>
      have := hs hf
      cases hc : streamFor s u x.ring (df x.desc 64 76) <;> simp_all
  unfold runSignal
  dsimp only
  rw [hfence, hb]
  rfl

theorem streamOpen_exec (h : Startable s (.ni c) q.val 9 id x) (hrel : bit x.desc 140 = false) :
    exec (.streamOpen c q) s = .next (runStreamOpen s (.ni c) id x) := by
  refine congrArg Host.Outcome.next ?_
  unfold startStream
  dsimp only
  rw [h.oldest]
  dsimp only
  rw [if_pos hrel, startOp_of_startable h]

theorem streamRelease_exec (h : Startable s (.ni c) q.val 9 id x) (hrel : bit x.desc 140 = true) :
    exec (.streamRelease c q) s = .next (runStreamRelease s (.ni c) id x) := by
  refine congrArg Host.Outcome.next ?_
  unfold startStream
  dsimp only
  rw [h.oldest]
  dsimp only
  rw [if_pos hrel, startOp_of_startable h]

/-- The STREAM_REQ that reserves a source entry (R98). -/
def reqPlan (dc i : Nat) : Plan := { inlinePlan 5 1 (cellAddr dc) 0 0 0 with src := .mem i 0 }

/-- The entry that it reserves. -/
def reservedStream (dc ring : Nat) : SrcStream :=
  { live := false, broken := false, fout := false, relPend := none, dest := dc, q := ring, stag := 0, sinst := 0, sgen := 0, sent := 0,
    unack := 0 }

/-- The state with a source entry in use. -/
def putStream (s : State) (u : UnitRef) (i : Nat) (y : SrcStream) : State :=
  updUnit s u (fun p => { p with streams := p.streams.set i y })

/-- R98: a STREAM_OPEN without a stream takes the first free source entry. -/
theorem runStreamOpen_free {u : UnitRef} (hs : streamFor s u x.ring (df x.desc 64 76) = none)
    (hi : (List.range 64).find? (fun j => ((punit s u).streams.find j).isNone) = some i) :
    runStreamOpen s u id x = runWith (putStream s u i (reservedStream (destCell s u.dom (df x.desc 64 76)) x.ring)) u id
      [reqPlan (destCell s u.dom (df x.desc 64 76)) i] := by
  unfold runStreamOpen
  dsimp only
  rw [hs]
  dsimp only
  rw [hi]
  rfl

/-- R99: with none free it completes with STREAM and FULL. -/
theorem runStreamOpen_full (hs : streamFor s (.ni c) x.ring (df x.desc 64 76) = none)
    (hi : ∀ i, i < 64 → ((punit s (.ni c)).streams.find i).isSome = true) :
    runStreamOpen s (.ni c) id x = failCtx (cntUp s (cellReg c 3 0x814) 8 8 1) (.ni c) id 7 1 := by
  have hnone : (List.range 64).find? (fun j => ((punit s (.ni c)).streams.find j).isNone) = none := by
    refine List.find?_eq_none.2 fun j hj hfree => ?_
    have hused := hi j (List.mem_range.1 hj)
    rw [Option.isNone_iff_eq_none.1 hfree] at hused
    exact Bool.false_ne_true hused
  unfold runStreamOpen
  dsimp only
  rw [hs]
  dsimp only
  rw [hnone]

theorem ctxOf_putStream (s : State) (u : UnitRef) (j id : Nat) (y : SrcStream) : ctxOf (putStream s u j y) u id = ctxOf s u id := by
  simp [ctxOf, putStream]

theorem streams_setCtx (s : State) (u : UnitRef) (id : Nat) (x : Ctx) : (punit (setCtx s u id x) u).streams = (punit s u).streams := by
  simp [setCtx]

theorem streams_putStream (s : State) (u : UnitRef) (i : Nat) (y : SrcStream) :
    (punit (putStream s u i y) u).streams = (punit s u).streams.set i y := by
  simp [putStream]

/-- The STREAM_OPEN refusals count is no register of a completion ring, whatever the ring's number. -/
theorem cqReg_ne_streamFull (c : Cell) (r : Nat) {i : Nat} (hi : i < 3) : cqReg (.ni c) r i ≠ cellReg c 3 0x814 := by
  have hlow : (if i = 0 then 0 else 4 * (i - 1)) ≤ 4 := by
    split
    · decide
    · omega
  unfold cqReg
  simp only [cellReg, regKey]
  omega

/-- R99, R242: a STREAM_OPEN that finds no source entry free completes with STREAM and FULL, which is counted. -/
theorem streamOpen_full {t : State} (h : LoneCtx s (.ni c) id x) (hop : dOp x.desc = 9)
    (ht : t = failCtx (cntUp s (cellReg c 3 0x814) 8 8 1) (.ni c) id 7 1) :
    Completed s t (.ni c) { x with err := some (7, 1) } ∧
      rdF t (cellReg c 3 0x814) 8 8 = satAdd 255 (rdF s (cellReg c 3 0x814) 8 8) 1 ∧
      (punit t (.ni c)).streams = (punit s (.ni c)).streams ∧ (punit t (.ni c)).resp = (punit s (.ni c)).resp ∧
      RegsBut [cellReg c 3 0x814] s t ∧ Touches [.mem, .regs, .units, .tel] s t := by
  have hsame : punit (cntUp s (cellReg c 3 0x814) 8 8 1) (.ni c) = punit s (.ni c) := punit_cntUp ..
  have hcq : cqOf (cntUp s (cellReg c 3 0x814) 8 8 1) (.ni c) x.cq = cqOf s (.ni c) x.cq := by simp only [cqOf, hsame]
  have hstill : inFlight (cntUp s (cellReg c 3 0x814) 8 8 1) (.ni c) id = false :=
    (inFlight_congr (cntUp_tx ..) (by rw [hsame])).trans h.still
  obtain ⟨hpost, hregs, htouch, q, k, hunit⟩ := failCtx_lone (by rw [hsame, h.ctxs]) h.unsent h.answered h.good hstill
    (by rw [hsame]; exact h.noRelease) (by simp [hop]) (by rw [hcq]; exact h.ring) 7 1
  rw [← ht] at hpost hregs hunit htouch
  have hrd (j : Nat) : rd t j = rd (cntUp s (cellReg c 3 0x814) 8 8 1) j := by
    unfold rd
    rw [hregs]
  rw [hsame] at hunit
  refine ⟨⟨?_, by rw [hunit]⟩, ?_, by rw [hunit], by rw [hunit], fun j hj => ?_,
    (cntUp_touches _ _ _ _ (by decide) (.refl _ s)).trans htouch⟩
  · exact hpost.of_same rfl hcq fun i hi => rd_cntUp_ne _ _ _ _ (cqReg_ne_streamFull c _ hi)
  · rw [rdF, hrd]
    exact rdF_cntUp_same _ _ _ (by decide)
  · rw [hrd]
    exact rd_cntUp_ne _ _ _ _ (List.ne_of_not_mem_cons hj)

end

/-- R98, R252-R254: FENCE, SIGNAL and STREAM_OPEN. -/
theorem streamDescriptorsSend : Claim.StreamDescriptorsSend := by
  refine ⟨fun c q s id i x y h hs hb => ?_, fun u r s id x h hs hb => ?_, fun c q s id x h hrel hs => ⟨fun i hi => ?_, fun hi hlone => ?_⟩⟩
  · obtain ⟨hctx, htouch⟩ := setCtx_sends (l := [fencePlan x.desc]) h.held (List.cons_ne_nil _ _)
    exact ⟨_, fencePlan x.desc, fence_exec h hs hb, hctx, rfl, rfl, rfl, rfl, rfl, rfl, rfl, htouch⟩
  · obtain ⟨hctx, htouch⟩ := setCtx_sends (l := [signalPlan x.desc]) h.held (List.cons_ne_nil _ _)
    exact ⟨_, signalPlan x.desc, signalDescriptor_exec h hs hb, hctx, rfl, rfl, rfl, rfl, rfl, rfl, rfl, htouch⟩
  · have hexec := streamOpen_exec h hrel
    rw [runStreamOpen_free hs hi] at hexec
    generalize hdc : destCell s (UnitRef.ni c).dom (df x.desc 64 76) = dc at hexec
    have hheld := (ctxOf_putStream s (.ni c) i id (reservedStream dc x.ring)).trans h.held
    obtain ⟨hctx, htouch⟩ := setCtx_sends (l := [reqPlan dc i]) hheld (List.cons_ne_nil _ _)
    have hstreams : (punit (runWith (putStream s (.ni c) i (reservedStream dc x.ring)) (.ni c) id [reqPlan dc i]) (.ni c)).streams =
        (punit s (.ni c)).streams.set i (reservedStream dc x.ring) := by
      rw [runWith_sends hheld (List.cons_ne_nil _ _), streams_setCtx, streams_putStream]
    refine ⟨_, reqPlan dc i, reservedStream dc x.ring, hexec, hctx, rfl, congrArg cellAddr hdc.symm, ?_, hdc.symm, rfl, rfl, fun j hj => ?_,
      (updUnit_touches _ _ (by decide) (.refl _ s)).trans htouch⟩
    · rw [hstreams]
      exact FMap.find_set_same _ _ _
    · rw [hstreams]
      exact FMap.find_set_ne _ _ hj
  · have hexec := streamOpen_exec h hrel
    rw [runStreamOpen_full hs hi] at hexec
    exact ⟨_, hexec, streamOpen_full hlone (startable_dOp h) rfl⟩

/-! ## Descriptors that wait (R102, R133, R135, R256) -/

section
variable {s : State} {c : Cell} {q : Fin 16} {id i : Nat} {x : Ctx}

theorem waitTime_exec {u : UnitRef} {r : Fin 64} (h : Startable s u r.val 7 id x)
    (ht : timeReached s (timeDom u) (waitUntil x.desc) = false) :
    exec (.waitTime u r) s = .next (updCtx s u id (fun z => { z with st := .waiting })) := by
  refine congrArg Host.Outcome.next ((startOp_of_startable h _).trans ?_)
  unfold runWaitTime
  rw [ht]
  rfl

theorem circuitOpen_exec (h : Startable s (.ni c) q.val 4 id x) (ht : timeReached s c.field (openAt x.desc) = false) :
    exec (.circuitOpen c q) s = .next (updCtx s (.ni c) id (fun z => { z with st := .waiting })) := by
  refine congrArg Host.Outcome.next ((startOp_of_startable h _).trans ?_)
  unfold runCircuitOpen
  rw [ht]
  rfl

/-- The state with a welt's source context stored. -/
def putWelt (s : State) (u : UnitRef) (l : Nat) (w : WeltSrc) : State :=
  updUnit s u (fun p => { p with weltSrc := p.weltSrc.set l w })

theorem circuitClose_exec {l : Nat} {w : WeltSrc} (h : Startable s (.ni c) q.val 5 id x)
    (hw : (punit s (.ni c)).weltSrc.find? (fun v => !v.2.closing && v.2.wid == df x.desc 64 12) = some (l, w)) :
    exec (.circuitClose c q) s = .next (updCtx (putWelt s (.ni c) l { w with closing := true, closeCtx := some id }) (.ni c) id
      (fun z => { z with st := .waiting })) := by
  refine congrArg Host.Outcome.next ((startOp_of_startable h _).trans ?_)
  unfold runCircuitClose
  dsimp only
  rw [hw]
  rfl

theorem runStreamRelease_found {y : SrcStream} (hs : streamFor s (.ni c) x.ring (df x.desc 64 76) = some (i, y)) :
    runStreamRelease s (.ni c) id x = updCtx (putStream s (.ni c) i { y with relPend := some id }) (.ni c) id
      (fun z => { z with st := .waiting }) := by
  unfold runStreamRelease
  rw [hs]
  rfl

end

/-- R102, R133, R135, R256: what a descriptor waits for. -/
theorem descriptorsWait : Claim.DescriptorsWait := by
  refine ⟨fun u r s id x h ht => ?_, fun c q s id x h ht => ?_, fun c q s id l x w h hw => ?_, fun c q s id i x y h hrel hs => ?_⟩
  · exact ⟨_, waitTime_exec h ht, updCtx_waits h.held⟩
  · obtain ⟨hctx, htouch⟩ := updCtx_waits h.held
    refine ⟨_, circuitOpen_exec h ht, hctx, ?_, htouch⟩
    rw [updCtx_some h.held]
    simp [setCtx]
  · have hheld : ctxOf (putWelt s (.ni c) l { w with closing := true, closeCtx := some id }) (.ni c) id = some x := by
      rw [← h.held]
      simp [ctxOf, putWelt]
    obtain ⟨hctx, htouch⟩ := updCtx_waits hheld
    have hwelts : (punit (updCtx (putWelt s (.ni c) l { w with closing := true, closeCtx := some id }) (.ni c) id
        (fun z => { z with st := .waiting })) (.ni c)).weltSrc =
        (punit s (.ni c)).weltSrc.set l { w with closing := true, closeCtx := some id } := by
      rw [updCtx_some hheld]
      simp [setCtx, putWelt]
    refine ⟨_, circuitClose_exec h hw, hctx, ?_, fun j hj => ?_, (updUnit_touches _ _ (by decide) (.refl _ s)).trans htouch⟩
    · rw [hwelts]
      exact FMap.find_set_same _ _ _
    · rw [hwelts]
      exact FMap.find_set_ne _ _ hj
  · have hheld : ctxOf (putStream s (.ni c) i { y with relPend := some id }) (.ni c) id = some x :=
      (ctxOf_putStream ..).trans h.held
    obtain ⟨hctx, htouch⟩ := updCtx_waits hheld
    have hexec := streamRelease_exec h hrel
    rw [runStreamRelease_found hs] at hexec
    refine ⟨_, hexec, hctx, ?_, (updUnit_touches _ _ (by decide) (.refl _ s)).trans htouch⟩
    rw [updCtx_some hheld, streams_setCtx, streams_putStream]
    exact FMap.find_set_same _ _ _

/-- Settles O49: FENCE, SIGNAL and STREAM_OPEN, and what descriptors wait for. -/
theorem descriptorsSendOrWait : Obligations.DescriptorsSendOrWait := ⟨streamDescriptorsSend, descriptorsWait⟩

end Sys2Proof.Machine

/-! # Answers at an NI whose only descriptor waits for them (R95-R99, R102, R242) -/

namespace Sys2Proof.Machine

/-! ## The sweep of a unit with nothing to settle (R200) -/

theorem sweepUnit_quiet {s : State} {c : Cell} (h : (cmb s c).ents = []) (hd : (cmb s c).drr.gdef = []) : sweepUnit s (.ni c) = s := by
  rw [sweepUnit, collSweep_idle h]
  have hsame (gs : List Nat) : (cmb s c).drr.only gs = (cmb s c).drr := by
    generalize (cmb s c).drr = d at hd
    obtain ⟨cur, dfc, last, gcur, gdef⟩ := d
    obtain rfl := hd
    rfl
  exact if_pos (hsame _)

/-! ## The answer that the only request waits for (R96, R97) -/

/-- The state in which a response has been taken from the inbox and the entry it answers is quarantined. -/
def answeredBy (s : State) (c : Cell) (l : List RxPkt) (tag : Nat) (e : OutEnt) : State :=
  freeEntry (withInbox s (.ni c) l) (.ni c) tag e

section
variable {s : State} {c : Cell} {tag id : Nat} {e : OutEnt} {x : Ctx} {p : RxPkt} {l : List RxPkt} {cmd : Nat}

theorem punit_answeredBy (h : LoneRequest s c tag id e x) : punit (answeredBy s c l tag e) (.ni c) =
    { punit s (.ni c) with inbox := l, out := [(tag, { e with quar := true, since := cyc s c.field })] } := by
  simp only [answeredBy, freeEntry, withInbox, punit_updUnit_same, h.entry, FMap.set, lt_self_iff_false, if_true, if_false]
  rfl

theorem answeredBy_touches : Touches [.units] s (answeredBy s c l tag e) :=
  freeEntry_touches _ _ _ (List.Subset.refl _) (withInbox_touches (List.Subset.refl _))

/-- R109: the response that is taken answers the only request. -/
theorem onRsp_of_taken (ht : Taken s (.ni c) cmd p) (h : LoneRequest s c tag id e x) (hgood : malformed p.hdr p.welt = false)
    (htag : hTag p.hdr = tag) (hans : answersCmd cmd e.cmd = true) :
    ∃ l, ∀ f, onRsp s (.ni c) cmd f = f (withInbox s (.ni c) l) p tag e := by
  obtain ⟨l, htake⟩ := takeCmd_of_taken ht
  have hfind : answered (withInbox s (.ni c) l) (.ni c) cmd p.hdr = some (tag, e) := by
    simp [answered, withInbox, h.entry, htag, FMap.find, h.live, hans]
  refine ⟨l, fun f => ?_⟩
  unfold onRsp
  rw [if_pos ht.2.1, htake]
  dsimp only
  rw [hgood, if_neg (by simp [takesRsp]), hfind]

/-! ## The descriptor that the answer completes (R242) -/

end

/-- The only descriptor of an NI waits for the answer of one request, and has nothing under way. -/
structure AwaitsOne (s : State) (c : Cell) (id : Nat) (e : OutEnt) (x : Ctx) : Prop where
  ofCtx : e.ctx = some id
  ctxs : (punit s (.ni c)).ctxs = [(id, x)]
  active : x.st = .active
  sent : x.todo = []
  one : x.out = 1
  good : x.err = none
  noColl : dOp x.desc ≠ 3
  still : inFlight s (.ni c) id = false
  noRelease : ∀ y, y ∈ (punit s (.ni c)).streams → y.2.relPend ≠ some id
  ring : (cqOf s (.ni c) x.cq).st = .running

section
variable {s : State} {c : Cell} {id : Nat} {e : OutEnt} {x : Ctx}

theorem LoneRequest.awaitsOne {t : State} {tag : Nat} (h : LoneRequest s c tag id e x) (htx : t.tx = s.tx)
    {l : List RxPkt} {o : FMap OutEnt} (hunit : punit t (.ni c) = { punit s (.ni c) with inbox := l, out := o }) : AwaitsOne t c id e x :=
  ⟨h.ofCtx, by rw [hunit]; exact h.ctxs, h.active, h.sent, h.one, h.good, h.noColl,
    (inFlight_congr htx (by rw [hunit])).trans h.still, by rw [hunit]; exact h.noRelease, by rw [cqOf, hunit]; exact h.ring⟩

/-- R242: the answer of its last request completes the descriptor: its entry is written unless NOCOMP asks for none. -/
theorem ctxAnswer_ok (h : AwaitsOne s c id e x) :
    (ctxAnswer s (.ni c) e none).regs = s.regs ∧
      (∃ q k, punit (ctxAnswer s (.ni c) e none) (.ni c) = { punit s (.ni c) with ctxs := [], sq := q, cq := k }) ∧
      (dNocomp x.desc = false → Posted s (ctxAnswer s (.ni c) e none) (.ni c) x.cq (cplEntry { x with result := x.result + e.len })) ∧
      (dNocomp x.desc = true → (ctxAnswer s (.ni c) e none).mem = s.mem ∧
        (punit (ctxAnswer s (.ni c) e none) (.ni c)).cq.map (fun y => y.2.cpi) = (punit s (.ni c)).cq.map (fun y => y.2.cpi)) := by
  have hupd : updCtx s (.ni c) id (fun y => { y with
      out := y.out - 1, result := if (none : Option (Nat × Nat)).isNone ∧ dOp y.desc ≠ 3 then y.result + e.len else y.result }) =
      setCtx s (.ni c) id { x with out := 0, result := x.result + e.len } := by
    rw [updCtx_some (ctxOf_only h.ctxs), if_pos ⟨rfl, h.noColl⟩, h.one]
  have hdone : ctxAnswer s (.ni c) e none = finish (setCtx s (.ni c) id { x with out := 0, result := x.result + e.len }) (.ni c) id := by
    unfold ctxAnswer
    rw [h.ofCtx]
    dsimp only
    rw [hupd]
    exact settleCtx_done (ctxOf_setCtx_same ..) h.active h.sent rfl ((inFlight_setCtx ..).trans h.still)
  have hunit (y : Ctx) : punit (setCtx s (.ni c) id y) (.ni c) = { punit s (.ni c) with ctxs := [(id, y)] } := by
    simp [setCtx, h.ctxs, FMap.set]
  have hcq (y : Ctx) : cqOf (setCtx s (.ni c) id y) (.ni c) x.cq = cqOf s (.ni c) x.cq := by simp only [cqOf, hunit]
  rw [hdone]
  cases hno : dNocomp x.desc with
  | false =>
    obtain ⟨hpost, hregs, q, k, hfin⟩ := finish_reports (x := { x with out := 0, result := x.result + e.len }) (ctxs_setCtx h.ctxs)
      ((congrArg CqRing.st (hcq _)).trans h.ring) (by rw [hno]; rfl)
    refine ⟨hregs, ⟨q, k, by rw [hfin, hunit]⟩, fun _ => hpost.of_same rfl (hcq _) fun _ _ => rfl, fun hn => absurd hn (by decide)⟩
  | true =>
    obtain ⟨hmem, hregs, hcpi, q, k, hfin⟩ := finish_silent (x := { x with out := 0, result := x.result + e.len }) (ctxs_setCtx h.ctxs)
      (by rw [hno, h.good]; rfl)
    refine ⟨hregs, ⟨q, k, by rw [hfin, hunit]⟩, fun hn => absurd hn (by decide), fun _ => ⟨hmem, hcpi.trans ?_⟩⟩
    rw [hunit]

/-- R242: an error in the answer completes it with that error. -/
theorem ctxAnswer_error (h : AwaitsOne s c id e x) (st detail : Nat) :
    (ctxAnswer s (.ni c) e (some (st, detail))).regs = s.regs ∧
      (∃ q k, punit (ctxAnswer s (.ni c) e (some (st, detail))) (.ni c) = { punit s (.ni c) with ctxs := [], sq := q, cq := k }) ∧
      Posted s (ctxAnswer s (.ni c) e (some (st, detail))) (.ni c) x.cq (cplEntry { x with err := some (st, detail) }) := by
  have hupd : updCtx s (.ni c) id (fun y => { y with
      out := y.out - 1, result := if (some (st, detail)).isNone ∧ dOp y.desc ≠ 3 then y.result + e.len else y.result }) =
      setCtx s (.ni c) id { x with out := 0 } := by
    rw [updCtx_some (ctxOf_only h.ctxs), if_neg (fun hn => Bool.false_ne_true hn.1), h.one]
  have hfail : ctxAnswer s (.ni c) e (some (st, detail)) = failCtx (setCtx s (.ni c) id { x with out := 0 }) (.ni c) id st detail := by
    unfold ctxAnswer
    rw [h.ofCtx]
    dsimp only
    rw [hupd]
    rfl
  have hunit (y : Ctx) : punit (setCtx s (.ni c) id y) (.ni c) = { punit s (.ni c) with ctxs := [(id, y)] } := by
    simp [setCtx, h.ctxs, FMap.set]
  have hcq (y : Ctx) : cqOf (setCtx s (.ni c) id y) (.ni c) x.cq = cqOf s (.ni c) x.cq := by simp only [cqOf, hunit]
  obtain ⟨hpost, hregs, -, q, k, hfin⟩ := failCtx_lone (x := { x with out := 0 }) (ctxs_setCtx h.ctxs) h.sent rfl h.good
    ((inFlight_setCtx ..).trans h.still) (by rw [hunit]; exact h.noRelease) (fun hn => h.noColl hn.1)
    ((congrArg CqRing.st (hcq _)).trans h.ring) st detail
  rw [hfail]
  exact ⟨hregs, ⟨q, k, by rw [hfin, hunit]⟩, hpost.of_same rfl (hcq _) fun _ _ => rfl⟩

end

/-- Registers that are stored alike. -/
theorem regsBut_of_eq {s t : State} (h : t.regs = s.regs) (ks : List Nat) : RegsBut ks s t := fun k _ => by
  unfold rd
  rw [h]

/-! ## ACK (R96, R97) -/

theorem ackTake_ok {s : State} {u : UnitRef} {p : RxPkt} {tag : Nat} {e : OutEnt} (hs : e.stream = none) (hst : hInl p.hdr 32 4 = 0) :
    ackTake s u p tag e = ctxAnswer (freeEntry s u tag e) u e (if hInl p.hdr 0 32 = e.crc then none else some (6, 0)) := by
  unfold ackTake entryStream
  dsimp only
  rw [hs, if_pos hst]

/-- R96, R97, R242: the ACK of a descriptor's last request. -/
theorem ackCompletes : Claim.AckCompletes := by
  intro c p s tag id e x ht h hgood htag hst hno hans
  obtain ⟨l, hrun⟩ := onRsp_of_taken ht h hgood htag hans
  have hrsp := hrun (fun s p tag e => ackTake s (.ni c) p tag e)
  rw [ackTake_ok h.noStream hst] at hrsp
  have hunit := punit_answeredBy (l := l) h
  have hawaits := h.awaitsOne (t := answeredBy s c l tag e) rfl hunit
  have htouch : Touches [.mem, .regs, .units, .tx, .tel] s (ctxAnswer (answeredBy s c l tag e) (.ni c) e
      (if hInl p.hdr 0 32 = e.crc then none else some (6, 0))) :=
    ctxAnswer_touches _ _ _ (List.Subset.refl _) (answeredBy_touches.mono (by decide))
  have hcmb : cmb (ctxAnswer (answeredBy s c l tag e) (.ni c) e (if hInl p.hdr 0 32 = e.crc then none else some (6, 0))) c = cmb s c := by
    unfold cmb
    rw [show _ = s.cmbs from htouch.stays .cmbs (by decide)]
  have hexec : exec (.ack (.ni c)) s = .next (ctxAnswer (answeredBy s c l tag e) (.ni c) e
      (if hInl p.hdr 0 32 = e.crc then none else some (6, 0))) := by
    refine congrArg Host.Outcome.next ((congrArg (sweepUnit · (.ni c)) hrsp).trans (sweepUnit_quiet ?_ ?_))
    · exact (congrArg Cmb.ents hcmb).trans h.noCmb
    · exact (congrArg (fun y => y.drr.gdef) hcmb).trans h.noDeficit
  refine ⟨_, hexec, ?_⟩
  by_cases hcrc : hInl p.hdr 0 32 = e.crc
  · rw [if_pos hcrc] at htouch ⊢
    obtain ⟨hregs, ⟨q, k, hfin⟩, hpost, -⟩ := ctxAnswer_ok hawaits
    rw [hunit] at hfin
    rw [hfin, if_pos hcrc]
    exact ⟨rfl, rfl, (hpost hno).of_same rfl (by rw [cqOf, hunit, cqOf]) fun _ _ => rfl, regsBut_of_eq hregs _, htouch⟩
  · rw [if_neg hcrc] at htouch ⊢
    obtain ⟨hregs, ⟨q, k, hfin⟩, hpost⟩ := ctxAnswer_error hawaits 6 0
    rw [hunit] at hfin
    rw [hfin, if_neg hcrc]
    exact ⟨rfl, rfl, hpost.of_same rfl (by rw [cqOf, hunit, cqOf]) fun _ _ => rfl, regsBut_of_eq hregs _, htouch⟩

/-! ## READ_DATA (R95, R97) -/

theorem readDataTake_ok {s : State} {c : Cell} {p : RxPkt} {tag : Nat} {e : OutEnt} (hst : hCspec p.hdr = 0)
    (hcrc : hInl p.hdr 0 32 = crc32c (dataBytes p.hdr p.data)) :
    readDataTake s (.ni c) p tag e =
      ctxAnswer (memWrite (freeEntry s (.ni c) tag e) (unitSpace (.ni c)) (hOff p.hdr) (dataBytes p.hdr p.data)) (.ni c) e none := by
  unfold readDataTake
  dsimp only [placeRead]
  rw [if_neg (not_not.2 hst), if_pos hcrc]

/-- R95, R97, R242: the READ_DATA of a NOCOMP descriptor's last request. -/
theorem readDataPlaced : Claim.ReadDataPlaced := by
  intro c p s tag id e x ht h hgood htag hst hno hcmd hcrc
  obtain ⟨l, hrun⟩ := onRsp_of_taken ht h hgood htag (by rw [hcmd]; rfl)
  have hexec := hrun (fun s p tag e => readDataTake s (.ni c) p tag e)
  rw [readDataTake_ok hst hcrc] at hexec
  have hunit : punit (memWrite (answeredBy s c l tag e) (unitSpace (.ni c)) (hOff p.hdr) (dataBytes p.hdr p.data)) (.ni c) =
      { punit s (.ni c) with inbox := l, out := [(tag, { e with quar := true, since := cyc s c.field })] } :=
    (punit_memWrite ..).trans (punit_answeredBy h)
  have hawaits := h.awaitsOne (t := memWrite (answeredBy s c l tag e) (unitSpace (.ni c)) (hOff p.hdr) (dataBytes p.hdr p.data)) rfl hunit
  obtain ⟨hregs, ⟨q, k, hfin⟩, -, hsilent⟩ := ctxAnswer_ok hawaits
  obtain ⟨hmem, hcpi⟩ := hsilent hno
  refine ⟨_, congrArg Host.Outcome.next hexec, (congrArg PUnit.ctxs hfin).trans rfl, placed_of_memPuts hmem,
    (congrArg PUnit.out hfin).trans (congrArg PUnit.out hunit), hcpi.trans (by rw [hunit]), regsBut_of_eq hregs _,
    ctxAnswer_touches _ _ _ (List.Subset.refl _) (memWrite_touches _ _ _ (by decide) (answeredBy_touches.mono (by decide)))⟩

/-! ## STREAM_RSP (R98, R99, R102) -/

section
variable {s : State} {c : Cell} {tag id : Nat} {e : OutEnt} {x : Ctx} {y : SrcStream} {p : RxPkt}

/-- R98: the source entry that a grant opens. -/
def openedStream (y : SrcStream) (h : Payload) : SrcStream :=
  { y with live := true, broken := false, sent := 0, sgen := 0, stag := hInl h 0 9, sinst := hInl h 9 4 }

/-- A STREAM_RSP has been taken from the inbox, its entry is quarantined, and the source entries are as given. -/
def streamAnsweredBy (s : State) (c : Cell) (l : List RxPkt) (tag : Nat) (e : OutEnt) (m : FMap SrcStream) : State :=
  updUnit (answeredBy s c l tag e) (.ni c) (fun q => { q with streams := m })

theorem punit_streamAnsweredBy {l : List RxPkt} (h : LoneRequest s c tag id e x) (m : FMap SrcStream) :
    punit (streamAnsweredBy s c l tag e m) (.ni c) =
      { punit s (.ni c) with inbox := l, out := [(tag, { e with quar := true, since := cyc s c.field })], streams := m } := by
  rw [streamAnsweredBy, punit_updUnit_same, punit_answeredBy h]

theorem streamAnsweredBy_touches {l : List RxPkt} {m : FMap SrcStream} : Touches [.units] s (streamAnsweredBy s c l tag e m) :=
  updUnit_touches _ _ (List.Subset.refl _) answeredBy_touches

theorem streamAnsweredBy_awaitsOne {l : List RxPkt} (h : LoneRequest s c tag id e x) {m : FMap SrcStream}
    (hm : ∀ z, z ∈ m → z.2.relPend ≠ some id) : AwaitsOne (streamAnsweredBy s c l tag e m) c id e x :=
  ⟨h.ofCtx, by rw [punit_streamAnsweredBy h]; exact h.ctxs, h.active, h.sent, h.one, h.good, h.noColl,
    (inFlight_congr (s := s) (t := streamAnsweredBy s c l tag e m) rfl (by rw [punit_streamAnsweredBy h])).trans h.still, by rw [punit_streamAnsweredBy h]; exact hm,
    by rw [cqOf, punit_streamAnsweredBy h]; exact h.ring⟩

/-- A descriptor that awaits one answer does so with another RESULT. -/
theorem AwaitsOne.setResult (h : AwaitsOne s c id e x) (v : Nat) :
    AwaitsOne (setCtx s (.ni c) id { x with result := v }) c id e { x with result := v } :=
  ⟨h.ofCtx, ctxs_setCtx h.ctxs, h.active, h.sent, h.one, h.good, h.noColl, (inFlight_setCtx ..).trans h.still,
    by rw [streams_setCtx]; exact h.noRelease, (congrArg CqRing.st (by simp [cqOf, setCtx])).trans h.ring⟩

/-- An update that gives the unit its source entries. -/
theorem updUnit_answeredBy {l : List RxPkt} {m : FMap SrcStream} {f : PUnit → PUnit}
    (hf : f (punit (answeredBy s c l tag e) (.ni c)) = { punit (answeredBy s c l tag e) (.ni c) with streams := m }) :
    updUnit (freeEntry (withInbox s (.ni c) l) (.ni c) tag e) (.ni c) f = streamAnsweredBy s c l tag e m :=
  congrArg (setUnit (answeredBy s c l tag e) (.ni c)) hf

/-- R98: the answer of a STREAM_REQ opens the entry that it reserved. -/
theorem streamRspTake_grant {l : List RxPkt} (h : LoneRequest s c tag id e x) (hcmd : e.cmd = 5) (hst : hInl p.hdr 13 4 = 0)
    (hs : (punit s (.ni c)).streams = [(e.place, y)]) :
    streamRspTake (withInbox s (.ni c) l) (.ni c) p tag e =
      ctxAnswer (setCtx (streamAnsweredBy s c l tag e [(e.place, openedStream y p.hdr)]) (.ni c) id
        { x with result := hInl p.hdr 0 13 }) (.ni c) e none := by
  have hctx : ctxOf (streamAnsweredBy s c l tag e [(e.place, openedStream y p.hdr)]) (.ni c) id = some x :=
    ctxOf_only (by rw [punit_streamAnsweredBy h]; exact h.ctxs)
  unfold streamRspTake
  dsimp only
  rw [if_pos hcmd, if_pos hst, h.ofCtx]
  dsimp only
  rw [updUnit_answeredBy (m := [(e.place, openedStream y p.hdr)]), updCtx_some hctx]
  rw [punit_answeredBy h]
  simp [hs, FMap.find, FMap.set, openedStream]

/-- R102: the answer of a STREAM_REL frees the entry. -/
theorem streamRspTake_release {l : List RxPkt} (h : LoneRequest s c tag id e x) (hcmd : e.cmd = 7) (hst : hInl p.hdr 13 4 = 0)
    (hs : (punit s (.ni c)).streams = [(e.place, y)]) :
    streamRspTake (withInbox s (.ni c) l) (.ni c) p tag e = ctxAnswer (streamAnsweredBy s c l tag e []) (.ni c) e none := by
  unfold streamRspTake
  dsimp only
  rw [if_neg (by rw [hcmd]; decide), if_pos hst, updUnit_answeredBy (m := [])]
  rw [punit_answeredBy h]
  simp [hs, FMap.erase]

end

/-- R98, R99, R102: a STREAM_RSP with status OK. -/
theorem streamResponseTaken : Claim.StreamResponseTaken := by
  intro c p s tag id e x y ht h hgood htag hst hcmd hs
  obtain ⟨l, hrun⟩ := onRsp_of_taken ht h hgood htag (by rcases hcmd with hcmd | hcmd <;> rw [hcmd] <;> rfl)
  have hexec := hrun (fun s p tag e => streamRspTake s (.ni c) p tag e)
  rcases hcmd with hcmd | hcmd
  · rw [streamRspTake_grant h hcmd hst hs] at hexec
    have hrel : ∀ z, z ∈ [(e.place, openedStream y p.hdr)] → z.2.relPend ≠ some id := fun z hz => by
      obtain rfl := List.mem_singleton.1 hz
      exact h.noRelease (e.place, y) (by rw [hs]; exact List.mem_singleton_self _)
    obtain ⟨hregs, ⟨q, k, hfin⟩, -⟩ := ctxAnswer_ok ((streamAnsweredBy_awaitsOne (l := l) h hrel).setResult (hInl p.hdr 0 13))
    refine ⟨_, congrArg Host.Outcome.next hexec, congrArg PUnit.ctxs hfin, ?_, regsBut_of_eq hregs _, ?_⟩
    · rw [hfin, if_pos hcmd, ← openedStream]
      show (punit (setCtx _ _ _ _) _).streams = _
      rw [streams_setCtx, punit_streamAnsweredBy h]
    · exact ctxAnswer_touches _ _ _ (List.Subset.refl _) (setCtx_touches _ _ _ (by decide) (streamAnsweredBy_touches.mono (by decide)))
  · rw [streamRspTake_release h hcmd hst hs] at hexec
    obtain ⟨hregs, ⟨q, k, hfin⟩, -⟩ := ctxAnswer_ok (streamAnsweredBy_awaitsOne (l := l) h (m := []) (fun z hz => by simp at hz))
    refine ⟨_, congrArg Host.Outcome.next hexec, congrArg PUnit.ctxs hfin, ?_, regsBut_of_eq hregs _,
      ctxAnswer_touches _ _ _ (List.Subset.refl _) (streamAnsweredBy_touches.mono (by decide))⟩
    rw [hfin, if_neg (by rw [hcmd]; decide), punit_streamAnsweredBy h]

/-- Settles O44: ACK, READ_DATA and STREAM_RSP end the requests that they answer. -/
theorem responsesTaken : Obligations.ResponsesTaken := ⟨ackCompletes, readDataPlaced, streamResponseTaken⟩

end Sys2Proof.Machine

/-! # Paths, epochs and the flush of Last (R91, R104, R111, R383) -/

namespace Sys2Proof.Machine

/-! ## Writes of a unit's registers -/

section
variable {s : State} {u : UnitRef} {row : RegRow} (g : Fin 32) (v : Word)

/-- The rows of the block that holds a unit's path and epoch registers. -/
def unitRows (u : UnitRef) : List RegRow :=
  match u with
  | .ni _ => niRows
  | .gw _ => gwRows

/-- A write of a register of a unit's block by what its block makes of it. -/
def unitWrite (s : State) (u : UnitRef) (n g : Nat) (row : RegRow) (v : Word) : State :=
  match u with
  | .ni c => niWriteReg s c n (unitReg u n 0 g) row v
  | .gw w => gwWriteReg s w 0 g (unitReg u n 0 g) row v

/-- The place of a register in the unit's own map. -/
def unitOff (u : UnitRef) (n g : Nat) : Nat :=
  match u with
  | .ni _ => n
  | .gw _ => g

theorem rowOf_unitReg {n o : Nat} (hn : n < 65536) (ho : o < 65536) :
    rowOf (unitReg u n 0 o) = findRow (unitRows u) (unitOff u n o) := by
  cases u with
  | ni c => exact rowOf_cellReg c (by decide) hn
  | gw w => exact rowOf_gwReg w (by decide) ho

theorem unitReg_ne {n o n' o' : Nat} (hn : n < 65536) (ho : o < 65536) (hn' : n' < 65536) (ho' : o' < 65536) (h : n ≠ n') (h' : o ≠ o') :
    unitReg u n 0 o ≠ unitReg u n' 0 o' := by
  cases u with
  | ni c => exact cellReg_ne c (by decide) hn (by decide) hn' (.inr h)
  | gw w => exact gwReg_ne w (by decide) ho (by decide) ho' (.inr h')

theorem writeBy_unit {n o : Nat} (hn : n < 65536) (ho : o < 65536) (h : MgmtServes s (unitReg u n 0 o))
    (hrow : findRow (unitRows u) (unitOff u n o) = some row) (hw : v &&& BitVec.ofNat 32 row.w1c = 0) :
    writeBy s (.mgmt g) (unitReg u n 0 o) v = answer (unitWrite s u n o row v) (.mgmt g) 0 0 none := by
  rw [← rowOf_unitReg hn ho] at hrow
  cases u with
  | ni c =>
    have hdom : keyDom (cellReg c 3 n) ≠ 52 := by
      have hlt := cell_field_lt c
      rw [keyDom_cellReg c (by decide) hn]
      omega
    exact (writeBy_block g v h (cellReg_lt_bar c (by decide) hn) hrow (absentPort_cell c (by decide) hn (.inl (by decide))) hw (.inl hdom)).trans
      (congrArg (fun t => answer t (.mgmt g) 0 0 none) (blockWrite_ni _ _ _ _ _ _ hn))
  | gw w =>
    have hdom : keyDom (gwReg w 0 o) ≠ 52 := by
      have hlt := gw_dom_lt w
      rw [keyDom_gwReg w (by decide) ho]
      omega
    exact (writeBy_block g v h (gwReg_lt_bar w (by decide) ho) hrow (absentPort_gw w (by decide) ho) hw (.inl hdom)).trans
      (congrArg (fun t => answer t (.mgmt g) 0 0 none) (blockWrite_gw _ _ _ _ _ _ (by decide) ho))

end

/-! ## A path's word with VALID (R91) -/

/-- The rows of the words that hold VALID: it is written as given, and nothing in them is cleared by ones. -/
theorem pathRow {u : UnitRef} {row : RegRow} {m : Nat} (h : findRow (unitRows u) (0x1008 + 0x10 * m) = some row) (hm : m < 512) :
    row.w1c = 0 ∧ row.rw.testBit 31 = true := by
  have all : ∀ rows, rows ∈ [niRows, gwRows] → rows.all (fun r => decide (0 < r.stride) &&
      (decide (0x3000 ≤ r.base) || decide (r.base + r.count * r.stride ≤ 0x1000) || (r.stride == 16 && r.base % 16 != 8) ||
        (r.w1c == 0 && r.rw.testBit 31))) = true := by decide
  obtain ⟨hmem, hbase, hstep, hcount⟩ := findRow_spec h
  have hr := List.all_eq_true.1 (all (unitRows u) (by cases u <;> simp [unitRows])) row hmem
  simp only [Bool.and_eq_true, Bool.or_eq_true, beq_iff_eq, bne_iff_ne, decide_eq_true_eq] at hr
  obtain ⟨hpos, ((hhigh | hlow) | ⟨hstride, hne⟩) | hgood⟩ := hr
  · omega
  · have := (Nat.div_lt_iff_lt_mul hpos).1 hcount
    omega
  · rw [hstride] at hstep
    omega
  · exact hgood

section
variable {s : State} {u : UnitRef} {row : RegRow} (g : Fin 32)

theorem routePathWrite_exec {entry : Fin 64} {k : Fin 8} {w2 : Word} {a : Nat}
    (ha : a = unitReg u (0x1008 + 0x80 * entry.val + 0x10 * k.val) 0 (0x1008 + 0x80 * entry.val + 0x10 * k.val))
    (hrow : rowOf a = some row) (h : MgmtServes s a) :
    exec (.routePathWrite (.mgmt g) u entry k w2) s =
      .next (answer (pathLoad s a (unitReg u 0x808 0 8) row (w2 ||| goBit)) (.mgmt g) 0 0 none) := by
  have ho : 0x1008 + 0x80 * entry.val + 0x10 * k.val < 65536 := by omega
  subst ha
  rw [rowOf_unitReg ho ho] at hrow
  have hplain : (w2 ||| goBit) &&& BitVec.ofNat 32 row.w1c = 0 := by
    have hoff : unitOff u (0x1008 + 0x80 * entry.val + 0x10 * k.val) (0x1008 + 0x80 * entry.val + 0x10 * k.val) =
        0x1008 + 0x10 * (8 * entry.val + k.val) := by cases u <;> simp only [unitOff] <;> omega
    rw [hoff] at hrow
    rw [(pathRow hrow (by omega)).1]
    exact BitVec.and_zero
  refine congrArg Host.Outcome.next ((writeBy_unit g _ ho ho h hrow hplain).trans ?_)
  generalize hoff : 0x1008 + 0x80 * entry.val + 0x10 * k.val = o at *
  have hpath : 0x1000 ≤ o ∧ o < 0x3000 ∧ o % 16 = 8 := by omega
  cases u with
  | ni c =>
    simp only [unitWrite, niWriteReg]
    rw [if_neg (by omega), if_neg (by omega), if_neg (by omega), if_neg (by omega), if_pos hpath]
    rfl
  | gw w =>
    simp only [unitWrite, gwWriteReg, if_true]
    rw [if_neg (by omega), if_pos hpath]
    rfl

theorem bit_put_b2n {n : Nat} (w : BitVec n) {i : Nat} (b : Bool) (h : i < n) : bit (put w i 1 (b2n b)) i = b := by
  rw [bit_eq, getLsbD_put, if_pos ⟨Nat.le_refl i, Nat.lt_succ_self i⟩, Nat.sub_self]
  cases b <;> simp [b2n, h]

theorem bit_put_zero {n : Nat} (w : BitVec n) {lo len i : Nat} (h : lo ≤ i ∧ i < lo + len) : bit (put w lo len 0) i = false := by
  rw [bit_eq, getLsbD_put, if_pos h]
  simp

/-- R91: a legal path keeps VALID, with the classes that the check allows. -/
theorem pathLoad_legal {a err : Nat} {v w : Word} (hv : bit v 31 = true) (hw : w = put (plainWrite row (rd s a) v) 28 2 0)
    (hc : (pathCheck (rd s (a - 8)) (rd s (a - 4)) w).1 = true) :
    pathLoad s a err row v = wr s a (put (put w 28 1 (b2n (pathCheck (rd s (a - 8)) (rd s (a - 4)) w).2.1)) 29 1
      (b2n (pathCheck (rd s (a - 8)) (rd s (a - 4)) w).2.2)) := by
  subst hw
  unfold pathLoad
  dsimp only
  rw [if_pos hv, if_pos hc]

/-- R91: an illegal one loses VALID, and LOAD_ERR is set. -/
theorem pathLoad_illegal {a err : Nat} {v w : Word} (hv : bit v 31 = true) (hw : w = put (plainWrite row (rd s a) v) 28 2 0)
    (hc : (pathCheck (rd s (a - 8)) (rd s (a - 4)) w).1 = false) :
    pathLoad s a err row v = setBits (wr s a (put w 31 1 0)) err 1 := by
  subst hw
  unfold pathLoad
  dsimp only
  rw [if_pos hv, if_neg (by rw [hc]; exact Bool.false_ne_true)]

end

/-- R91: a path written with VALID = 1 is checked. -/
theorem routePathChecked : Claim.RoutePathChecked := by
  intro g u entry k w2 s row a err ha herr hrow h
  have hexec := routePathWrite_exec (w2 := w2) g ha hrow h
  rw [← herr] at hexec
  have hne : err ≠ a := by
    rw [ha, herr]
    exact unitReg_ne (by decide) (by decide) (by omega) (by omega) (by omega) (by omega)
  have hgo : bit (w2 ||| goBit) 31 = true := by
    rw [bit_or, show bit goBit 31 = true by decide, Bool.or_true]
  have hvalid : bit (put (plainWrite row (rd s a) (w2 ||| goBit)) 28 2 0) 31 = true := by
    have hkeep : row.w1c = 0 ∧ row.rw.testBit 31 = true := by
      rw [ha, rowOf_unitReg (by omega) (by omega)] at hrow
      refine pathRow (m := 8 * entry.val + k.val) (u := u) (hrow ▸ congrArg _ ?_) (by omega)
      cases u <;> simp only [unitOff] <;> omega
    rw [bit_put_ne _ _ (by decide), bit_plainWrite _ _ _ (by decide), hkeep.1, hkeep.2, hgo]
    rfl
  generalize hw : put (plainWrite row (rd s a) (w2 ||| goBit)) 28 2 0 = w at *
  refine ⟨_, hexec, answer_mgmt_status .., ?_, RegsBut.answer fun j hj => ?_,
    (pathLoad_touches _ _ _ _ (List.Subset.refl _) (.refl _ s)).mono (by decide) |>.answer (by decide)⟩
  · rintro x rfl
    simp only [rd_answer]
    cases hc : (pathCheck (rd s (a - 8)) (rd s (a - 4)) w).1 with
    | true =>
      rw [pathLoad_legal hgo hw.symm hc, rd_wr_same, rd_wr_ne _ _ hne]
      refine ⟨?_, ?_, ?_, (Bool.or_false _).symm⟩
      · rw [bit_put_ne _ _ (by decide), bit_put_ne _ _ (by decide), hvalid]
      · rw [bit_put_ne _ _ (by decide), bit_put_b2n _ _ (by decide), Bool.true_and]
      · rw [bit_put_b2n _ _ (by decide), Bool.true_and]
    | false =>
      rw [pathLoad_illegal hgo hw.symm hc, rd_setBits_ne _ _ hne.symm, rd_wr_same, rd_setBits_same, rd_wr_ne _ _ hne]
      refine ⟨bit_put_zero _ (by decide), ?_, ?_, ?_⟩
      · rw [bit_put_ne _ _ (by decide), ← hw, bit_put_zero _ (by decide), Bool.false_and]
      · rw [bit_put_ne _ _ (by decide), ← hw, bit_put_zero _ (by decide), Bool.false_and]
      · rw [bit_or, bit_ofNat32]
        rfl
  · have hja := List.ne_of_not_mem_cons hj
    have hjerr := List.ne_of_not_mem_cons (List.not_mem_of_not_mem_cons hj)
    cases hc : (pathCheck (rd s (a - 8)) (rd s (a - 4)) w).1 with
    | true => rw [pathLoad_legal hgo hw.symm hc, rd_wr_ne _ _ hja]
    | false => rw [pathLoad_illegal hgo hw.symm hc, rd_setBits_ne _ _ hjerr, rd_wr_ne _ _ hja]

/-! ## An epoch switch (R111) -/

section
variable {α : Type}

theorem FMap.find_keep (m : FMap α) (p : Nat → Bool) (a : Nat) : (m.keep p).find a = if p a then m.find a else none := by
  induction m with
  | nil => simp [FMap.keep, FMap.find]
  | cons e r ih =>
    obtain ⟨k, v⟩ := e
    have hstep : (FMap.keep ((k, v) :: r) p) = if p k then (k, v) :: FMap.keep r p else FMap.keep r p := by
      simp only [FMap.keep, List.filter_cons]
    rw [hstep]
    by_cases hk : k = a
    · subst hk
      cases hp : p k <;> simp [FMap.find, ih, hp]
    · cases hp : p k <;> simp [FMap.find, ih, hk]

/-- What a key reads that a fold of updates moved entries to: the entry moved there, or what stood there. -/
theorem FMap.find_foldl_set {l : FMap α} (hl : l.rising = true) (m : FMap α) (f : Nat → Nat) {a : Nat}
    (hf : ∀ x, x ∈ l → f x.1 = f a → x.1 = a) :
    (l.foldl (fun m x => m.set (f x.1) x.2) m).find (f a) = (l.find a).or (m.find (f a)) := by
  induction l generalizing m with
  | nil => rfl
  | cons e r ih =>
    obtain ⟨k, v⟩ := e
    obtain ⟨hlow, hr⟩ := (FMap.rising_cons k v r).1 hl
    rw [List.foldl_cons, ih hr _ fun x hx => hf x (List.mem_cons_of_mem _ hx)]
    by_cases hk : k = a
    · subst hk
      have hnone : FMap.find r k = none := by
        cases hr : FMap.find r k with
        | none => rfl
        | some y => exact absurd (hlow _ (FMap.mem_of_find hr)) (Nat.lt_irrefl k)
      rw [hnone, FMap.find_set_same]
      simp [FMap.find]
    · rw [FMap.find_set_ne _ _ fun he => hk (hf (k, v) List.mem_cons_self he.symm)]
      simp [FMap.find, hk]

end

/-- Where the smaller pair of a unit's banks begins. -/
def smallBank (u : UnitRef) : Nat :=
  match u with
  | .ni _ => 0xD000
  | .gw _ => 0x7000

/-- The four ranges that change places in pairs, and the registers that stay. -/
theorem swapOff_cases (u : UnitRef) (off : Nat) :
    (0x1000 ≤ off ∧ off < 0x3000 ∧ swapOff u off = off + 0x2000) ∨ (0x3000 ≤ off ∧ off < 0x5000 ∧ swapOff u off = off - 0x2000) ∨
    (smallBank u ≤ off ∧ off < smallBank u + 0x100 ∧ swapOff u off = off + 0x100) ∨
    (smallBank u + 0x100 ≤ off ∧ off < smallBank u + 0x200 ∧ swapOff u off = off - 0x100) ∨
    ((off < 0x1000 ∨ 0x5000 ≤ off) ∧ (off < smallBank u ∨ smallBank u + 0x200 ≤ off) ∧ swapOff u off = off) := by
  have hdef : swapOff u off = if 0x1000 ≤ off ∧ off < 0x3000 then off + 0x2000 else if 0x3000 ≤ off ∧ off < 0x5000 then off - 0x2000
      else if smallBank u ≤ off ∧ off < smallBank u + 0x100 then off + 0x100
      else if smallBank u + 0x100 ≤ off ∧ off < smallBank u + 0x200 then off - 0x100 else off := by cases u <;> rfl
  rw [hdef]
  split_ifs <;> omega

theorem smallBank_range (u : UnitRef) : 0x5000 ≤ smallBank u ∧ smallBank u ≤ 0xD000 := by cases u <;> simp [smallBank]

theorem swapOff_swapOff (u : UnitRef) (off : Nat) : swapOff u (swapOff u off) = off := by
  have hlow := smallBank_range u
  have hto := swapOff_cases u off
  have hback := swapOff_cases u (swapOff u off)
  omega

theorem swapOff_lt (u : UnitRef) {off : Nat} (h : off < 65536) : swapOff u off < 65536 := by
  have hlow := smallBank_range u
  have hto := swapOff_cases u off
  omega

/-- The keys of a unit's registers that change places. -/
def moves (u : UnitRef) (base k : Nat) : Bool := decide (base ≤ k) && decide (k < base + 65536) && swapOff u (k - base) != k - base

theorem moves_iff {u : UnitRef} {base k : Nat} :
    moves u base k = true ↔ base ≤ k ∧ k < base + 65536 ∧ swapOff u (k - base) ≠ k - base := by
  simp [moves, and_assoc]

/-- R111: after the banks have changed places, each register of a bank reads at its other place. -/
theorem swapBanks_find {s : State} {u : UnitRef} (hs : FMap.rising s.regs = true) {off : Nat} (ho : off < 65536) (hm : swapOff u off ≠ off) :
    (swapBanks s u).regs.find (unitReg u 0 0 0 + swapOff u off) = s.regs.find (unitReg u 0 0 0 + off) := by
  have hregs : (swapBanks s u).regs = (s.regs.keep (moves u (unitReg u 0 0 0))).foldl
      (fun m x => m.set (unitReg u 0 0 0 + swapOff u (x.1 - unitReg u 0 0 0)) x.2) (s.regs.keep fun k => !moves u (unitReg u 0 0 0) k) := rfl
  rw [hregs]
  generalize unitReg u 0 0 0 = base
  have hlt := swapOff_lt u ho
  have hback := swapOff_swapOff u off
  have hfrom : moves u base (base + off) = true := moves_iff.2 ⟨by omega, by omega, by rwa [Nat.add_sub_cancel_left]⟩
  have hto : moves u base (base + swapOff u off) = true :=
    moves_iff.2 ⟨by omega, by omega, by rw [Nat.add_sub_cancel_left, hback]; exact hm.symm⟩
  have hinj : ∀ x, x ∈ s.regs.keep (moves u base) → base + swapOff u (x.1 - base) = base + swapOff u (base + off - base) →
      x.1 = base + off := by
    intro x hx he
    obtain ⟨hlow, -, -⟩ := moves_iff.1 (List.mem_filter.1 hx).2
    have hsame := congrArg (swapOff u) (Nat.add_left_cancel he)
    rw [swapOff_swapOff, swapOff_swapOff] at hsame
    omega
  have hfold := FMap.find_foldl_set (l := s.regs.keep (moves u base)) (FMap.rising_filter _ hs) (s.regs.keep fun k => !moves u base k)
    (fun k => base + swapOff u (k - base)) hinj
  rw [Nat.add_sub_cancel_left] at hfold
  refine hfold.trans ?_
  rw [FMap.find_keep, FMap.find_keep, hfrom, hto]
  simp

/-- A write of a register without RW bits, with no one where a bit is cleared by ones. -/
theorem plainWrite_keeps {r : RegRow} {v : Word} (hrw : r.rw = 0) (hw : v &&& BitVec.ofNat 32 r.w1c = 0) (old : Word) :
    plainWrite r old v = old := by
  unfold plainWrite
  dsimp only
  rw [hw, hrw]
  refine BitVec.eq_of_getLsbD_eq fun i hi => ?_
  simp only [BitVec.getLsbD_or, BitVec.getLsbD_and, BitVec.getLsbD_not, BitVec.getLsbD_ofNat, Nat.zero_testBit, hi]
  simp

section
variable {s : State} {u : UnitRef} (g : Fin 32)

/-- The row of EPOCH (R111). -/
def epochRow (u : UnitRef) : RegRow := ⟨unitOff u 0x804 4, 4, 1, 0, 0, 0x100, 0, false⟩

theorem epochRow_w1c : (0x10 : Word) &&& BitVec.ofNat 32 (epochRow u).w1c = 0 :=
  (by decide : (0x10 : Word) &&& BitVec.ofNat 32 0x100 = 0)

theorem unitWrite_epoch : unitWrite s u 0x804 4 (epochRow u) 0x10 = epochSwitch (rewritten s (unitReg u 0x804 0 4)) u := by
  have hkeep : plainWrite (epochRow u) (rd s (unitReg u 0x804 0 4)) 0x10 = rd s (unitReg u 0x804 0 4) := plainWrite_keeps rfl epochRow_w1c _
  cases u with
  | ni c =>
    unfold unitWrite niWriteReg
    dsimp only
    rw [hkeep]
    rfl
  | gw w =>
    unfold unitWrite gwWriteReg
    dsimp only
    rw [hkeep]
    rfl

theorem epochSwitch_exec (h : MgmtServes s (unitReg u 0x804 0 4)) :
    exec (.epochSwitch (.mgmt g) u) s =
      .next (answer (epochSwitch (rewritten s (unitReg u 0x804 0 4)) u) (.mgmt g) 0 0 none) := by
  have hrow : findRow (unitRows u) (unitOff u 0x804 4) = some (epochRow u) := by
    cases u with
    | ni c => exact (by decide : findRow niRows 0x804 = some ⟨0x804, 4, 1, 0, 0, 0x100, 0, false⟩)
    | gw w => exact (by decide : findRow gwRows 4 = some ⟨4, 4, 1, 0, 0, 0x100, 0, false⟩)
  refine congrArg Host.Outcome.next ((writeBy_unit g 0x10 (by decide) (by decide) h hrow epochRow_w1c).trans ?_)
  rw [unitWrite_epoch]

/-- The state in which a unit has the next epoch, and its banks have not yet changed places. -/
def nextEpoch (s : State) (u : UnitRef) : State := updUnit s u (fun p => { p with epoch := (p.epoch + 1) % 4, spray := [] })

theorem epochSwitch_free (h : oldOut s u = 0) : epochSwitch s u = swapBanks (nextEpoch s u) u := if_neg (not_not.2 h)

theorem epochSwitch_held (h : oldOut s u ≠ 0) : epochSwitch s u = setBits s (unitReg u 0x804 0 4) 0x100 := if_pos h

theorem punit_swapBanks (s : State) (u v : UnitRef) : punit (swapBanks s u) v = punit s v := rfl

theorem oldOut_rewritten (s : State) (k : Nat) (u : UnitRef) : oldOut (rewritten s k) u = oldOut s u := rfl

theorem find_rewritten {k j : Nat} (h : j ≠ k) : (rewritten s k).regs.find j = s.regs.find j := FMap.find_set_ne _ _ h

/-- R111: with nothing old outstanding the banks' registers change places. -/
theorem epochSwitch_find (hfree : oldOut s u = 0) (hs : FMap.rising s.regs = true) {off : Nat} (ho : off < 65536)
    (hm : swapOff u off ≠ off) : (epochSwitch (rewritten s (unitReg u 0x804 0 4)) u).regs.find (unitReg u 0 0 0 + swapOff u off) =
      s.regs.find (unitReg u 0 0 0 + off) := by
  have hkey : unitReg u 0x804 0 4 = unitReg u 0 0 0 + unitOff u 0x804 4 := by cases u <;> simp only [unitReg, unitOff, cellReg, gwReg, regKey, Nat.add_zero]
  have hstays : swapOff u (unitOff u 0x804 4) = unitOff u 0x804 4 := by cases u <;> rfl
  rw [epochSwitch_free ((oldOut_rewritten ..).trans hfree), swapBanks_find (FMap.rising_set _ _ hs) ho hm]
  refine find_rewritten fun he => hm ?_
  rw [hkey] at he
  rw [Nat.add_left_cancel he, hstays]

end

theorem punit_answer_mgmt (s : State) (g : Fin 32) (st c : Nat) (d : Option Word) (u : UnitRef) :
    punit (answer s (.mgmt g) st c d) u = punit s u := rfl

/-- R111: EPOCH.SWITCH. -/
theorem epochSwitches : Claim.EpochSwitches := by
  intro g u s h
  refine ⟨_, epochSwitch_exec g h, answer_mgmt_status .., fun hfree => ?_, fun hheld => ?_, fun v hv => ?_,
    (epochSwitch_touches u (by decide) ((rewritten_touches s _).mono (by decide))).answer (by decide)⟩
  · have hunit : punit (epochSwitch (rewritten s (unitReg u 0x804 0 4)) u) u = { punit s u with epoch := ((punit s u).epoch + 1) % 4, spray := [] } := by
      rw [epochSwitch_free ((oldOut_rewritten ..).trans hfree), punit_swapBanks, nextEpoch, punit_updUnit_same]
      rfl
    rw [punit_answer_mgmt, hunit]
    exact ⟨rfl, rfl, rfl, fun hs off ho hm => epochSwitch_find hfree hs ho hm⟩
  · rw [epochSwitch_held ((oldOut_rewritten ..).trans_ne hheld), rd_answer]
    exact ⟨rfl, bit_setBits _ _ (b := 8) (by decide)⟩
  · rw [punit_answer_mgmt]
    by_cases hfree : oldOut s u = 0
    · rw [epochSwitch_free ((oldOut_rewritten ..).trans hfree), punit_swapBanks]
      exact punit_updUnit_ne _ _ hv
    · rw [epochSwitch_held ((oldOut_rewritten ..).trans_ne hfree)]
      rfl

/-! ## The flush of Last (R104, R383) -/

section
variable {s : State} {c : Cell} {i j : Nat}

/-- R104: whether a flush's filter names an entry's source. -/
def flushHit (f : Word) (wafer : Nat) (x : LastEnt) : Bool :=
  x.valid && (!bit f 16 || (x.x == bits f 0 8 && x.y == bits f 8 8)) && (!bit f 17 || x.wafer == wafer)

/-- What a flush makes of an entry: one that the filter names, or that is uncorrectable, is freed. -/
def flushed (f : Word) (wafer : Nat) (x : LastEnt) : LastEnt :=
  if decide (2 ≤ x.bad) || flushHit f wafer x then { x with valid := false, held := none, bad := 0 } else x

/-- The flush of one entry, which is read through SECDED. -/
def flushOne (f : Word) (wafer : Nat) (c : Cell) (t : State) (i : Nat) : State :=
  if flushHit f wafer (lastOf (lastEcc t c i .ok) c i) then freeLast (lastEcc t c i .ok) c i else lastEcc t c i .ok

theorem lastFlush_eq (s : State) (c : Cell) : lastFlush s c =
    ((punit s (.ni c)).last.map (fun x => x.1)).foldl (flushOne (rd s (cellReg c 3 0x820)) (rdF s (cellReg c 3 0x824) 0 20) c) s := rfl

variable (f : Word) (wafer : Nat)

theorem valid_flushed (x : LastEnt) : (flushed f wafer x).valid = (x.valid && !decide (2 ≤ x.bad) &&
    !((!bit f 16 || (x.x == bits f 0 8 && x.y == bits f 8 8)) && (!bit f 17 || x.wafer == wafer))) := by
  have hfreed : (flushed f wafer x).valid = (x.valid && !(decide (2 ≤ x.bad) || flushHit f wafer x)) := by
    unfold flushed
    cases decide (2 ≤ x.bad) || flushHit f wafer x <;> simp
  rw [hfreed, flushHit]
  cases x.valid <;> simp

theorem flushed_flushed (x : LastEnt) : flushed f wafer (flushed f wafer x) = flushed f wafer x := by
  by_cases h : (decide (2 ≤ x.bad) || flushHit f wafer x) = true
  · have hx : flushed f wafer x = { x with valid := false, held := none, bad := 0 } := if_pos h
    rw [hx]
    exact if_neg (by simp [flushHit])
  · have hx : flushed f wafer x = x := if_neg h
    rw [hx, hx]

theorem eccOf_ok_ue {bad : Nat} : eccOf .ok bad = .ue ↔ 2 ≤ bad := by
  unfold eccOf
  split_ifs <;> simp_all

theorem lastOf_flushOne_same : lastOf (flushOne f wafer c s i) c i = flushed f wafer (lastOf s c i) := by
  unfold flushOne
  by_cases hbad : 2 ≤ (lastOf s c i).bad
  · rw [lastOf_lastEcc_freed (eccOf_ok_ue.2 hbad), if_neg (by simp [flushHit]), lastOf_lastEcc_freed (eccOf_ok_ue.2 hbad), flushed,
      if_pos (by simp [hbad])]
  · have hkept := lastOf_lastEcc_kept (s := s) (c := c) (i := i) (ecc := .ok) fun h => hbad (eccOf_ok_ue.1 h)
    rw [hkept, flushed, decide_eq_false hbad, Bool.false_or]
    by_cases hhit : flushHit f wafer (lastOf s c i) = true
    · rw [if_pos hhit, if_pos hhit, lastOf_freeLast_same, hkept]
    · rw [if_neg hhit, if_neg hhit, hkept]

theorem lastOf_flushOne_ne (h : j ≠ i) : lastOf (flushOne f wafer c s i) c j = lastOf s c j := by
  unfold flushOne
  split
  · rw [lastOf_freeLast_ne h, lastOf_lastEcc_ne h]
  · exact lastOf_lastEcc_ne h

theorem lastOf_flushAll (l : List Nat) : ∀ s : State, lastOf (l.foldl (flushOne f wafer c) s) c j =
    if j ∈ l then flushed f wafer (lastOf s c j) else lastOf s c j := by
  induction l with
  | nil => exact fun _ => rfl
  | cons i l ih =>
    intro s
    rw [List.foldl_cons, ih]
    by_cases hij : j = i
    · subst hij
      rw [lastOf_flushOne_same, flushed_flushed, ite_self, if_pos List.mem_cons_self]
    · rw [lastOf_flushOne_ne _ _ hij]
      simp [hij]

theorem flushOne_only (s : State) (i : Nat) : TargetOnly c [cellReg c 3 0x81C, cellReg c 3 0xE000] s (flushOne f wafer c s i) := by
  have hread : TargetOnly c [cellReg c 3 0x81C, cellReg c 3 0xE000] s (lastEcc s c i .ok) := .lastEcc _ _ _ (by simp) (by simp)
  unfold flushOne
  split
  · exact hread.trans (.freeLast _ _ (by simp))
  · exact hread

theorem flushAll_only (l : List Nat) : ∀ s : State, TargetOnly c [cellReg c 3 0x81C, cellReg c 3 0xE000] s (l.foldl (flushOne f wafer c) s) := by
  induction l with
  | nil => exact fun s => .refl _ _ s
  | cons i l ih => exact fun s => (flushOne_only f wafer s i).trans (ih _)

end

/-- The row of NI_LAST_FLUSH (R104). -/
def flushRow : RegRow := ⟨0x820, 4, 1, 0, 0x3FFFF, 0, 0, false⟩

theorem lastFlush_exec {s : State} {c : Cell} {v : Word} (g : Fin 32) (h : MgmtServes s (cellReg c 3 0x820)) :
    exec (.lastFlush (.mgmt g) c v) s =
      .next (answer (lastFlush (wr s (cellReg c 3 0x820) (plainWrite flushRow (rd s (cellReg c 3 0x820)) (v ||| goBit))) c) (.mgmt g) 0 0 none) := by
  have hrow : findRow niRows 0x820 = some flushRow := by decide
  have hgo : bit (v ||| goBit) 31 = true := by
    rw [bit_or, show bit goBit 31 = true by decide, Bool.or_true]
  refine congrArg Host.Outcome.next ((writeBy_unit (u := .ni c) (n := 0x820) (o := 0) g _ (by decide) (by decide) h hrow BitVec.and_zero).trans ?_)
  unfold unitWrite niWriteReg
  dsimp only
  rw [hgo]
  rfl

/-- The filter that a flush stores is the one written. -/
theorem bit_flushRow (old v : Word) {i : Nat} (h : i < 18) : bit (plainWrite flushRow old (v ||| goBit)) i = bit v i := by
  have hrw : flushRow.rw.testBit i = true := by
    rw [show flushRow.rw = 2 ^ 18 - 1 from rfl, Nat.testBit_two_pow_sub_one, decide_eq_true h]
  have hgo : bit goBit i = false := by
    rw [show goBit = BitVec.ofNat 32 (2 ^ 31) by decide, bit_ofNat32, Nat.testBit_two_pow_of_ne (by omega), Bool.and_false]
  rw [bit_plainWrite _ _ _ (by omega), hrw, bit_or, hgo, show flushRow.w1c = 0 from rfl, Nat.zero_testBit]
  simp

theorem bits_flushRow (old v : Word) {lo len : Nat} (h : lo + len ≤ 18) :
    bits (plainWrite flushRow old (v ||| goBit)) lo len = bits v lo len := by
  refine Nat.eq_of_testBit_eq fun i => ?_
  rw [testBit_bits, testBit_bits]
  by_cases hi : i < len
  · rw [← bit_eq, ← bit_eq, bit_flushRow _ _ (by omega)]
  · simp [hi]

/-- An entry that Last does not list is not in use. -/
theorem lastOf_unlisted {s : State} {c : Cell} {i : Nat} (h : i ∉ (punit s (.ni c)).last.map (fun x => x.1)) :
    (lastOf s c i).valid = false := by
  have hnone : (punit s (.ni c)).last.find i = none := by
    cases hf : (punit s (.ni c)).last.find i with
    | none => rfl
    | some x => exact absurd (List.mem_map.2 ⟨_, FMap.mem_of_find hf, rfl⟩) h
  rw [lastOf, FMap.get, hnone]
  rfl

/-- R104, R383: NI_LAST_FLUSH.GO. -/
theorem lastFlushFrees : Claim.LastFlushFrees := by
  intro g c v s h _
  have hne : cellReg c 3 0x824 ≠ cellReg c 3 0x820 := cellReg_ne c (by decide) (by decide) (by decide) (by decide) (.inr (by decide))
  have hexec := lastFlush_exec (v := v) g h
  rw [lastFlush_eq, rd_wr_same] at hexec
  generalize hword : plainWrite flushRow (rd s (cellReg c 3 0x820)) (v ||| goBit) = f at hexec
  have hwafer : rdF (wr s (cellReg c 3 0x820) f) (cellReg c 3 0x824) 0 20 = rdF s (cellReg c 3 0x824) 0 20 := by
    rw [rdF, rd_wr_ne _ _ hne, rdF]
  rw [hwafer, punit_wr] at hexec
  have htouch := lastFlush_touches (m := [.regs, .units, .resp]) c (by decide) (wr_touches (cellReg c 3 0x820) f (by decide) (.refl _ s))
  rw [lastFlush_eq, rd_wr_same, hwafer, punit_wr] at htouch
  have honly := flushAll_only (c := c) f (rdF s (cellReg c 3 0x824) 0 20) ((punit s (.ni c)).last.map (fun x => x.1)) (wr s (cellReg c 3 0x820) f)
  obtain ⟨_, _, _, _, hunit⟩ := honly.unit
  rw [punit_wr] at hunit
  refine ⟨_, hexec, answer_mgmt_status .., fun i => ?_, by rw [punit_answer_mgmt, hunit], fun u hu => (honly.others u hu).trans (punit_wr ..),
    RegsBut.answer (RegsBut.trans ?_ (honly.regs.mono (by simp))), htouch.answer (by decide)⟩
  · have hlast : lastOf (wr s (cellReg c 3 0x820) f) c i = lastOf s c i := lastOf_congr (punit_wr ..) i
    have hflush := lastOf_flushAll (c := c) (j := i) f (rdF s (cellReg c 3 0x824) 0 20) ((punit s (.ni c)).last.map (fun x => x.1))
      (wr s (cellReg c 3 0x820) f)
    rw [hlast] at hflush
    rw [lastOf_congr (punit_answer_mgmt ..), hflush]
    have hf : ∀ k, k < 18 → bit f k = bit v k := fun k hk => hword ▸ bit_flushRow _ _ hk
    have hfx : bits f 0 8 = bits v 0 8 := hword ▸ bits_flushRow _ _ (by decide)
    have hfy : bits f 8 8 = bits v 8 8 := hword ▸ bits_flushRow _ _ (by decide)
    by_cases hi : i ∈ (punit s (.ni c)).last.map (fun x => x.1)
    · rw [if_pos hi, valid_flushed, hf 16 (by decide), hf 17 (by decide), hfx, hfy]
    · rw [if_neg hi, lastOf_unlisted hi]
      rfl
  · exact fun k hk => rd_wr_ne _ _ (List.ne_of_not_mem_cons hk)

/-- Settles O13: paths as they are written, epoch switches, and the flush of Last. -/
theorem routesEpochsAndLast : Obligations.RoutesEpochsAndLast := ⟨routePathChecked, epochSwitches, lastFlushFrees⟩

end Sys2Proof.Machine

/-! # Requests at memory and host ports (R84, R275-R277, R280, R281, R285, R298, R299)

A port keeps the requests that its check gave a place and refuses the others; a memory port commits and answers the oldest. -/

namespace Sys2Proof.Machine

/-! ## What stays where only packet units, counts or draws change -/

theorem SameReplies.of_units {s t : State} (hd : t.doms = s.doms) (hu : t.units = s.units) : SameReplies s t :=
  ⟨hd, fun a b => by unfold punit; rw [hu]⟩

theorem SameReplies.withInbox (s : State) (u : UnitRef) (l : List RxPkt) : SameReplies s (withInbox s u l) := by
  refine ⟨rfl, fun a b => ?_⟩
  by_cases h : (UnitRef.gw (.host a b)).key = u.key
  · have hsame (t : State) : punit t (.gw (.host a b)) = punit t u := by unfold punit; rw [h]
    rw [hsame, hsame, Machine.withInbox, punit_updUnit_same]
  · rw [Machine.withInbox, punit_updUnit_ne _ _ h]

theorem rdF_setBits_above (s : State) (k : Nat) {lo len b : Nat} (h : b < lo) : rdF (setBits s k (2 ^ b)) k lo len = rdF s k lo len := by
  unfold rdF
  rw [rd_setBits_same]
  refine Nat.eq_of_testBit_eq fun i => ?_
  rw [testBit_bits, testBit_bits, BitVec.getLsbD_or, BitVec.getLsbD_ofNat, Nat.testBit_two_pow_of_ne (by omega), Bool.and_false,
    Bool.or_false]

theorem countReq_tel (s : State) (g : GwId) (wr : Bool) (off len : Nat) : ∃ x, countReq s g wr off len = { s with tel := x } := by
  cases g <;> cases wr <;> exact ⟨_, rfl⟩

theorem countRefused_tel (s : State) (g : GwId) (n : Nat) : ∃ x, countRefused s g n = { s with tel := x } := by
  unfold countRefused
  split
  · exact ⟨_, rfl⟩
  · exact ⟨_, rfl⟩

/-! ## Requests come to a port (R275, R280, R285) -/

section
variable {g : GwId} {ecc : Ecc} {p : RxPkt} {s : State} {i : Instr} {w : Bool}

/-- A request's command at a memory or host port, and whether it writes. -/
def PortRequest (g : GwId) (ecc : Ecc) (h : Payload) (i : Instr) (w : Bool) : Prop :=
  (i = .readReq (.gw g) ∧ w = false ∧ hCmd h = 1) ∨
    (i = .write (.gw g) ecc ∧ w = true ∧ hCmd h = 0 ∧ hMcast h = false ∧ ((∃ a b, g = .host a b) → hCspec h = 0))

theorem gwWrite_request (hport : ∀ a b, g ≠ .opt a b) (hgood : malformed p.hdr false = false) (hcmd : hCmd p.hdr = 0)
    (hm : hMcast p.hdr = false) (hcs : (∃ a b, g = .host a b) → hCspec p.hdr = 0) : gwWrite s g p = gwRequest s g p true := by
  cases g with
  | mem a b => simp [gwWrite, hgood, hcmd, hm]
  | host a b => simp [gwWrite, hgood, hcmd, hm, hcs ⟨a, b, rfl⟩]
  | opt a b => exact absurd rfl (hport a b)

/-- A well-formed request that a port takes is checked there. -/
theorem gwRequest_exec (hi : PortRequest g ecc p.hdr i w) (hport : ∀ a b, g ≠ .opt a b) (ht : Taken s (.gw g) (hCmd p.hdr) p)
    (hgood : malformed p.hdr false = false) : ∃ l, exec i s = .next (gwRequest (withInbox s (.gw g) l) g p w) := by
  obtain ⟨l, hrun⟩ := onCmd_of_taken ht
  refine ⟨l, ?_⟩
  rcases hi with ⟨rfl, rfl, hcmd⟩ | ⟨rfl, rfl, hcmd, hm, hcs⟩
  · have hread := hrun (fun s p => if malformed p.hdr false then takeMalformed s (.gw g) p else gwRequest s g p false) rfl
    rw [hcmd, hgood, if_neg Bool.false_ne_true] at hread
    rw [← hread]
    cases g with
    | opt a b => exact absurd rfl (hport a b)
    | mem a b => rfl
    | host a b => rfl
  · have hwrite := hrun (fun s p => gwWrite s g p) rfl
    rw [hcmd, gwWrite_request hport hgood hcmd hm hcs] at hwrite
    exact congrArg Host.Outcome.next hwrite

theorem noMaster_withInbox (u : UnitRef) (l : List RxPkt) : noMaster (withInbox s u l) g = noMaster s g := by
  cases g <;> rfl

/-- R275, R280: a request with a place enters. -/
theorem gwRequest_enters {a : Nat} (hmaster : noMaster s g = false) (hplace : p.place = some a) (l : List RxPkt) :
    (gw (gwRequest (withInbox s (.gw g) l) g p w) g).reqs =
        (gw s g).reqs ++ [⟨p, w, a, if w then extent p.hdr else hInl p.hdr 40 12⟩] ∧
      (punit (gwRequest (withInbox s (.gw g) l) g p w) (.gw g)).resp = (punit s (.gw g)).resp ∧
      RegsBut [] s (gwRequest (withInbox s (.gw g) l) g p w) ∧
      Touches [.units, .gws, .tel] s (gwRequest (withInbox s (.gw g) l) g p w) := by
  obtain ⟨x, hcount⟩ := countReq_tel (withInbox s (.gw g) l) g w a (if w then extent p.hdr else hInl p.hdr 40 12)
  have heq : gwRequest (withInbox s (.gw g) l) g p w =
      updGw (countReq (withInbox s (.gw g) l) g w a (if w then extent p.hdr else hInl p.hdr 40 12)) g
        (fun y => { y with reqs := y.reqs ++ [⟨p, w, a, if w then extent p.hdr else hInl p.hdr 40 12⟩] }) := by
    unfold gwRequest
    rw [noMaster_withInbox, hmaster, hplace]
    rfl
  have htouch := updGw_touches g (fun y => { y with reqs := y.reqs ++ [⟨p, w, a, if w then extent p.hdr else hInl p.hdr 40 12⟩] })
    (m := [.units, .gws, .tel]) (by decide) (countReq_touches g w a (if w then extent p.hdr else hInl p.hdr 40 12) (by decide)
      (withInbox_touches (s := s) (u := .gw g) (l := l) (by decide)))
  rw [heq]
  refine ⟨?_, ?_, fun k _ => ?_, htouch⟩
  · rw [gw_updGw_same, hcount]
    rfl
  · rw [punit_updGw, hcount]
    exact resp_withInbox
  · rw [rd_updGw, hcount]
    rfl

/-- R84: the answer that refuses a request. -/
def refusedPkt (s : State) (p : RxPkt) (w : Bool) : TxPkt :=
  if w then ackPkt s p.hdr 1 0 p.port else readDataPkt s p.hdr 1 0 [] p.port

/-- A multicast READ_REQ is malformed (R83). -/
theorem unicast_of_readReq (hcmd : hCmd p.hdr = 1) (hgood : malformed p.hdr false = false) : hMcast p.hdr = false := by
  by_contra hm
  have hm' : hMcast p.hdr = true := by simpa using hm
  have hbad : malformed p.hdr false = true := by
    by_cases hcls : hCls p.hdr = 1
    · simp [malformed, hm', hcls]
    · simp [malformed, hcmd, hcls]
  exact absurd hgood (by rw [hbad]; decide)

theorem gwRefuse_eq (hi : PortRequest g ecc p.hdr i w) (hgood : malformed p.hdr false = false) (s : State) :
    gwRefuse s g p = pushResp s (.gw g) (refusedPkt s p w) := by
  rcases hi with ⟨-, rfl, hcmd⟩ | ⟨-, rfl, hcmd, hm, -⟩
  · simp [gwRefuse, refusal, unicast_of_readReq hcmd hgood, hcmd, refusedPkt, pushOpt]
  · simp [gwRefuse, refusal, hm, hcmd, refusedPkt, pushOpt]

theorem refusedPkt_status (s : State) :
    if w then hInl (refusedPkt s p w).hdr 32 4 = 1 else hCspec (refusedPkt s p w).hdr = 1 ∧ (refusedPkt s p w).data = [] := by
  cases w with
  | true => exact ackPkt_status ..
  | false => exact ⟨readDataPkt_status .., rfl⟩

/-- R84: a port that refuses answers so. -/
theorem responded_refusedPkt {s s' : State} (hresp : (punit s' (.gw g)).resp = (punit s (.gw g)).resp) (hs : SameReplies s s') :
    Responded s (pushResp s' (.gw g) (refusedPkt s' p w)) (.gw g) p.hdr (if w then 3 else 2) (refusedPkt s' p w) := by
  cases w with
  | true => exact responded_ackPkt hresp hs
  | false => exact responded_readDataPkt hresp hs

/-- R299: what a refused request flags. -/
def refusing (s : State) (g : GwId) : State := if noMaster s g then s else winMiss s g

theorem gwRequest_refused (hi : PortRequest g ecc p.hdr i w) (hgood : malformed p.hdr false = false)
    (hrefuse : noMaster s g = true ∨ p.place = none) : gwRequest s g p w = pushResp (refusing s g) (.gw g) (refusedPkt (refusing s g) p w) := by
  unfold gwRequest refusing
  cases hm : noMaster s g with
  | true => exact gwRefuse_eq hi hgood _
  | false =>
    rw [hrefuse.resolve_left (by rw [hm]; decide)]
    exact gwRefuse_eq hi hgood _

theorem winMiss_units (s : State) (g : GwId) : (winMiss s g).doms = s.doms ∧ (winMiss s g).units = s.units := by
  cases g with
  | host a b => exact ⟨setBits_doms .., setBits_units ..⟩
  | mem a b => exact ⟨rfl, rfl⟩
  | opt a b => exact ⟨rfl, rfl⟩

theorem refusing_units (s : State) (g : GwId) : (refusing s g).doms = s.doms ∧ (refusing s g).units = s.units := by
  unfold refusing
  split
  · exact ⟨rfl, rfl⟩
  · exact winMiss_units s g

theorem refusing_regs (s : State) (g : GwId) :
    RegsBut (if noMaster s g = true ∨ (∀ a b, g ≠ .host a b) then [] else [gwReg g 1 4]) s (refusing s g) := by
  unfold refusing
  cases hm : noMaster s g with
  | true => exact .refl _ s
  | false =>
    cases g with
    | host a b =>
      rw [if_neg (by simp)]
      exact .setBits s 8 (by simp)
    | mem a b => exact .refl _ s
    | opt a b => exact .refl _ s

theorem refusing_flag (hm : noMaster s g = false) (hhost : ∃ a b, g = .host a b) : bit (rd (refusing s g) (gwReg g 1 4)) 3 = true := by
  obtain ⟨a, b, rfl⟩ := hhost
  unfold refusing
  rw [hm]
  exact bit_setBits _ _ (b := 3) (by decide)

/-- R84, R285, R299: a request without a place, or where Bus Master Enable is clear, is answered ADDR. -/
theorem gwRequest_refuses (hi : PortRequest g ecc p.hdr i w) (hgood : malformed p.hdr false = false)
    (hrefuse : noMaster s g = true ∨ p.place = none) (l : List RxPkt) :
    ∃ z, Responded s (gwRequest (withInbox s (.gw g) l) g p w) (.gw g) p.hdr (if w then 3 else 2) z ∧
      (if w then hInl z.hdr 32 4 = 1 else hCspec z.hdr = 1 ∧ z.data = []) ∧
      (noMaster s g = false → (∃ a b, g = .host a b) →
        bit (rd (gwRequest (withInbox s (.gw g) l) g p w) (gwReg g 1 4)) 3 = true) ∧
      RegsBut (if noMaster s g = true ∨ (∀ a b, g ≠ .host a b) then [] else [gwReg g 1 4]) s
        (gwRequest (withInbox s (.gw g) l) g p w) ∧
      Touches [.regs, .units] s (gwRequest (withInbox s (.gw g) l) g p w) := by
  have hmaster := noMaster_withInbox (s := s) (g := g) (.gw g) l
  obtain ⟨hdoms, hunits⟩ := refusing_units (withInbox s (.gw g) l) g
  have hflag := refusing_flag (s := withInbox s (.gw g) l) (g := g)
  have hregs := refusing_regs (withInbox s (.gw g) l) g
  have htouch : Touches [.regs, .units] s (refusing (withInbox s (.gw g) l) g) := by
    have hinbox : Touches [.regs, .units] s (withInbox s (.gw g) l) := withInbox_touches (by decide)
    unfold refusing
    split
    · exact hinbox
    · exact winMiss_touches _ (by decide) hinbox
  rw [hmaster] at hflag hregs
  rw [gwRequest_refused hi hgood (hmaster ▸ hrefuse)]
  generalize refusing (withInbox s (.gw g) l) g = s' at *
  have hreplies : SameReplies s s' := by
    obtain ⟨hd, ho⟩ := SameReplies.withInbox s (.gw g) l
    obtain ⟨hd', ho'⟩ := SameReplies.of_units hdoms hunits
    exact ⟨hd'.trans hd, fun a b => (ho' a b).trans (ho a b)⟩
  have hresp : (punit s' (.gw g)).resp = (punit s (.gw g)).resp := by
    rw [← resp_withInbox (s := s) (u := .gw g) (l := l)]
    unfold punit
    rw [hunits]
  exact ⟨_, responded_refusedPkt hresp hreplies, refusedPkt_status s', hflag, hregs,
    pushResp_touches _ _ (by decide) htouch⟩

end

/-- R84, R275, R280, R281, R285, R299: what a port does with a request that comes to it. -/
theorem portsTakeRequests : Sys2Proof.Claim.PortsTakeRequests := by
  intro g ecc p s i w hi hport ht hgood
  obtain ⟨l, hexec⟩ := gwRequest_exec hi hport ht hgood
  refine ⟨fun a hmaster hplace => ⟨_, hexec, gwRequest_enters hmaster hplace l⟩, fun hrefuse => ?_⟩
  obtain ⟨z, hrest⟩ := gwRequest_refuses hi hgood hrefuse l
  exact ⟨_, z, hexec, hrest⟩

/-! ## A memory port commits and answers (R276, R277) -/

section
variable {s s' : State} {g : GwId} {q : MemReq} {l : List MemReq}

/-- The oldest request leaves its port. -/
def dropReq (s : State) (g : GwId) (l : List MemReq) : State := updGw s g (fun y => { y with reqs := l })

theorem takeReq_head {wr : Bool} (h : (gw s g).reqs = q :: l) (hw : q.wr = wr) : takeReq s g wr = some (q, dropReq s g l) := by
  simp [takeReq, h, takeFirst, hw, dropReq]

theorem gw_dropReq : (gw (dropReq s g l) g).reqs = l := by rw [dropReq, gw_updGw_same]

/-- R79: a WRITE of plain form is one piece. -/
theorem pieces_plain {p : RxPkt} (hcs : hCspec p.hdr = 0) (hm : hMcast p.hdr = false) : pieces p = [(hOff p.hdr, carried p)] := by
  simp [pieces, hcs, hm, carried]

theorem placedCrc_plain {p : RxPkt} (hcs : hCspec p.hdr = 0) (hm : hMcast p.hdr = false) :
    placedCrc p = if carried p = [] then 0 else crc32c (carried p) := by
  simp [placedCrc, pieces_plain hcs hm]

theorem placedAt_plain (hcs : hCspec q.pkt.hdr = 0) (hm : hMcast q.pkt.hdr = false) : placedAt q = [(q.off, carried q.pkt)] := by
  simp [placedAt, pieces_plain hcs hm]

theorem memCommit_ok (h : (gw s g).reqs = q :: l) (hw : q.wr = true) (hcs : hCspec q.pkt.hdr = 0) (hm : hMcast q.pkt.hdr = false) :
    memCommit s g true = pushResp (memWrite (dropReq s g l) (UnitRef.gw g).key q.off (carried q.pkt)) (.gw g)
      (ackPkt s q.pkt.hdr 0 (placedCrc q.pkt) q.pkt.port) := by
  unfold memCommit
  rw [takeReq_head h hw]
  dsimp only
  rw [placedAt_plain hcs hm]
  rfl

/-- R276: the oldest write is in memory and acknowledged. -/
theorem memCommit_commits (h : (gw s g).reqs = q :: l) (hw : q.wr = true) (hcs : hCspec q.pkt.hdr = 0) (hm : hMcast q.pkt.hdr = false) :
    ∃ z, (gw (memCommit s g true) g).reqs = l ∧ Placed s (memCommit s g true) (memAddr (UnitRef.gw g).key q.off) (carried q.pkt) ∧
      Responded s (memCommit s g true) (.gw g) q.pkt.hdr 3 z ∧ hInl z.hdr 32 4 = 0 ∧
      hInl z.hdr 0 32 = (if carried q.pkt = [] then 0 else crc32c (carried q.pkt) % 2 ^ 32) ∧ RegsBut [] s (memCommit s g true) ∧
      Touches [.mem, .units, .gws, .tel] s (memCommit s g true) := by
  rw [memCommit_ok h hw hcs hm]
  refine ⟨_, gw_dropReq (s := s), placed_of_memPuts rfl, responded_ackPkt rfl (.of_units rfl rfl), ackPkt_status .., ?_, .refl _ s, ?_⟩
  · rw [ackPkt_crc, placedCrc_plain hcs hm]
    split
    · rfl
    · rfl
  · exact pushResp_touches _ _ (by decide) (memWrite_touches _ _ _ (by decide) (updGw_touches _ _ (by decide) (.refl _ s)))

theorem length_freeBytes (n len : Nat) : (freeBytes n len).length = len := by simp [freeBytes]

/-- R277: a failed write, counted and flagged; free values lie in its range. -/
def failedWrite (s : State) (g : GwId) (off : Nat) (bs : List Byte) : State :=
  memWrite (draw (setBits (cntUp s (gwReg g 1 8) 24 8 1) (gwReg g 1 8) 2)) (UnitRef.gw g).key off bs

theorem memCommit_failed (h : (gw s g).reqs = q :: l) (hw : q.wr = true) (hcs : hCspec q.pkt.hdr = 0) (hm : hMcast q.pkt.hdr = false) :
    memCommit s g false = pushResp (failedWrite (dropReq s g l) g q.off (freeBytes s.freeCtr (carried q.pkt).length)) (.gw g)
      (ackPkt s q.pkt.hdr 0 (placedCrc q.pkt ^^^ 0xFFFFFFFF) q.pkt.port) := by
  unfold memCommit
  rw [takeReq_head h hw]
  dsimp only
  rw [placedAt_plain hcs hm]
  rfl

/-- R277: the oldest write, failed, is acknowledged with the complement of its check value. -/
theorem memCommit_fails (h : (gw s g).reqs = q :: l) (hw : q.wr = true) (hcs : hCspec q.pkt.hdr = 0) (hm : hMcast q.pkt.hdr = false)
    (hne : carried q.pkt ≠ []) :
    ∃ z, (gw (memCommit s g false) g).reqs = l ∧
      (∀ b, b < memAddr (UnitRef.gw g).key q.off ∨ memAddr (UnitRef.gw g).key q.off + (carried q.pkt).length ≤ b →
        memGet (memCommit s g false).mem b = memGet s.mem b) ∧
      Responded s (memCommit s g false) (.gw g) q.pkt.hdr 3 z ∧ hInl z.hdr 32 4 = 0 ∧
      hInl z.hdr 0 32 = (crc32c (carried q.pkt) ^^^ 0xFFFFFFFF) % 2 ^ 32 ∧ bit (rd (memCommit s g false) (gwReg g 1 8)) 1 = true ∧
      rdF (memCommit s g false) (gwReg g 1 8) 24 8 = satAdd 255 (rdF s (gwReg g 1 8) 24 8) 1 ∧
      RegsBut [gwReg g 1 8] s (memCommit s g false) ∧
      Touches [.mem, .regs, .units, .gws, .tel, .freeCtr] s (memCommit s g false) := by
  have hmem : (memCommit s g false).mem =
      memPuts s.mem (memAddr (UnitRef.gw g).key q.off) (freeBytes s.freeCtr (carried q.pkt).length) := by
    rw [memCommit_failed h hw hcs hm]
    rfl
  refine ⟨ackPkt s q.pkt.hdr 0 (placedCrc q.pkt ^^^ 0xFFFFFFFF) q.pkt.port, ?_, fun b hb => ?_, ?_, ackPkt_status .., ?_, ?_, ?_, ?_, ?_⟩
  · rw [memCommit_failed h hw hcs hm]
    exact gw_dropReq (s := s)
  · rw [hmem, memGet_memPuts_out _ _ _ (by rw [length_freeBytes]; exact hb)]
  · rw [memCommit_failed h hw hcs hm]
    exact responded_ackPkt rfl (.of_units rfl rfl)
  · rw [ackPkt_crc, placedCrc_plain hcs hm, if_neg hne]
  · rw [memCommit_failed h hw hcs hm]
    exact bit_setBits (cntUp (dropReq s g l) (gwReg g 1 8) 24 8 1) _ (b := 1) (by decide)
  · rw [memCommit_failed h hw hcs hm]
    exact (rdF_setBits_above (cntUp (dropReq s g l) (gwReg g 1 8) 24 8 1) _ (b := 1) (by decide)).trans
      (rdF_cntUp_same _ _ _ (by decide))
  · rw [memCommit_failed h hw hcs hm]
    exact (RegsBut.cntUp (dropReq s g l) 24 8 1 List.mem_cons_self).trans (.setBits _ 2 List.mem_cons_self)
  · rw [memCommit_failed h hw hcs hm]
    exact pushResp_touches _ _ (by decide) (memWrite_touches _ _ _ (by decide) (draw_touches (by decide)
      (setBits_touches _ _ (by decide) (cntUp_touches _ _ _ _ (by decide) (updGw_touches _ _ (by decide) (.refl _ s))))))

/-- R276: the oldest read is answered with its bytes. -/
theorem readDone_answers (h : (gw s g).reqs = q :: l) (hw : q.wr = false) (fail : State → State) :
    ∃ z, (gw (readDone s g true fail) g).reqs = l ∧ Responded s (readDone s g true fail) (.gw g) q.pkt.hdr 2 z ∧ hCspec z.hdr = 0 ∧
      z.data = dataUnits (memRead s (UnitRef.gw g).key q.off q.len) ∧
      hInl z.hdr 0 32 = crc32c (memRead s (UnitRef.gw g).key q.off q.len) % 2 ^ 32 ∧ RegsBut [] s (readDone s g true fail) ∧
      Touches [.units, .gws, .tel] s (readDone s g true fail) := by
  have heq : readDone s g true fail = pushResp (dropReq s g l) (.gw g) (readDataPkt s q.pkt.hdr 0
      (crc32c (memRead s (UnitRef.gw g).key q.off q.len)) (memRead s (UnitRef.gw g).key q.off q.len) q.pkt.port) := by
    unfold readDone
    rw [takeReq_head h hw]
    rfl
  rw [heq]
  exact ⟨_, gw_dropReq (s := s), responded_readDataPkt rfl (.of_units rfl rfl), readDataPkt_status .., rfl, readDataPkt_crc .., .refl _ s,
    pushResp_touches _ _ (by decide) (updGw_touches _ _ (by decide) (.refl _ s))⟩

/-- R277: a failed read at a port, counted and flagged. -/
def failedRead (g : GwId) (s : State) : State := setBits (cntUp s (gwReg g 1 8) 16 8 1) (gwReg g 1 8) 1

/-- R277: the oldest read, failed, is answered with free values and the complement of their check value. -/
theorem readDone_fails (h : (gw s g).reqs = q :: l) (hw : q.wr = false) :
    ∃ z bs, (gw (readDone s g false (failedRead g)) g).reqs = l ∧
      Responded s (readDone s g false (failedRead g)) (.gw g) q.pkt.hdr 2 z ∧ hCspec z.hdr = 0 ∧ bs.length = q.len ∧
      z.data = dataUnits bs ∧ hInl z.hdr 0 32 = (crc32c bs ^^^ 0xFFFFFFFF) % 2 ^ 32 ∧
      bit (rd (readDone s g false (failedRead g)) (gwReg g 1 8)) 0 = true ∧
      rdF (readDone s g false (failedRead g)) (gwReg g 1 8) 16 8 = satAdd 255 (rdF s (gwReg g 1 8) 16 8) 1 ∧
      RegsBut [gwReg g 1 8] s (readDone s g false (failedRead g)) ∧
      Touches [.regs, .units, .gws, .tel, .freeCtr] s (readDone s g false (failedRead g)) := by
  have heq : readDone s g false (failedRead g) = pushResp (draw (failedRead g (dropReq s g l))) (.gw g) (readDataPkt s q.pkt.hdr 0
      (crc32c (freeBytes s.freeCtr q.len) ^^^ 0xFFFFFFFF) (freeBytes s.freeCtr q.len) q.pkt.port) := by
    unfold readDone
    rw [takeReq_head h hw]
    rfl
  rw [heq]
  refine ⟨_, _, gw_dropReq (s := s), responded_readDataPkt rfl (.of_units rfl rfl), readDataPkt_status .., length_freeBytes .., rfl,
    readDataPkt_crc .., ?_, ?_, ?_, ?_⟩
  · exact bit_setBits (cntUp (dropReq s g l) (gwReg g 1 8) 16 8 1) _ (b := 0) (by decide)
  · exact (rdF_setBits_above (cntUp (dropReq s g l) (gwReg g 1 8) 16 8 1) _ (b := 0) (by decide)).trans
      (rdF_cntUp_same _ _ _ (by decide))
  · exact (RegsBut.cntUp (dropReq s g l) 16 8 1 List.mem_cons_self).trans (.setBits _ 1 List.mem_cons_self)
  · exact pushResp_touches _ _ (by decide) (draw_touches (by decide)
      (setBits_touches _ _ (by decide) (cntUp_touches _ _ _ _ (by decide) (updGw_touches _ _ (by decide) (.refl _ s)))))

end

/-! ## The port's commands (R276, R277, R298) -/

/-- R276, R277: a memory port's commits and answers, whatever telemetry counts first. -/
theorem memoryPortServes_claim : Sys2Proof.Claim.MemoryPortServes := by
  refine ⟨fun m n q l s h hw hcs hm => ?_, fun m n q l s h hw hcs hm hne => ?_, fun m n q l s h hw => ?_, fun m n q l s h hw => ?_,
    fun m s => ⟨_, rfl, gw_updGw_same .., fun g hg => gw_updGw_ne _ _ hg, updGw_touches _ _ (by decide) (.refl _ s)⟩⟩
  all_goals
    obtain ⟨x, hcount⟩ := countRefused_tel s m.gw n.toNat
    have htel {ps : List Part} (hp : [.tel] ⊆ ps) : Touches ps s (countRefused s m.gw n.toNat) := countRefused_touches _ _ hp (.refl ps s)
    rw [hcount] at htel
  · obtain ⟨z, hreqs, hplaced, hz, hst, hcrc, hregs, htouch⟩ := memCommit_commits (s := { s with tel := x }) h hw hcs hm
    exact ⟨_, z, congrArg (fun v => Host.Outcome.next (memCommit v m.gw true)) hcount, hreqs, hplaced, hz, hst, hcrc, hregs,
      (htel (by decide)).trans htouch⟩
  · obtain ⟨z, hreqs, hbeside, hz, hst, hcrc, hflag, hcnt, hregs, htouch⟩ := memCommit_fails (s := { s with tel := x }) h hw hcs hm hne
    exact ⟨_, z, congrArg (fun v => Host.Outcome.next (memCommit v m.gw false)) hcount, hreqs, hbeside, hz, hst, hcrc, hflag, hcnt, hregs,
      (htel (by decide)).trans htouch⟩
  · obtain ⟨z, hreqs, hz, hst, hdata, hcrc, hregs, htouch⟩ := readDone_answers (s := { s with tel := x }) h hw (failedRead m.gw)
    exact ⟨_, z, congrArg (fun v => Host.Outcome.next (readDone v m.gw true (failedRead m.gw))) hcount, hreqs, hz, hst, hdata, hcrc, hregs,
      (htel (by decide)).trans htouch⟩
  · obtain ⟨z, bs, hreqs, hz, hst, hlen, hdata, hcrc, hflag, hcnt, hregs, htouch⟩ := readDone_fails (s := { s with tel := x }) h hw
    exact ⟨_, z, bs, congrArg (fun v => Host.Outcome.next (readDone v m.gw false (failedRead m.gw))) hcount, hreqs, hz, hst, hlen, hdata,
      hcrc, hflag, hcnt, hregs, (htel (by decide)).trans htouch⟩

/-- Settles O42: each request of a port by the branch of its check, and each end of the oldest by its outcome. -/
theorem memoryPortServes : Obligations.MemoryPortServes := ⟨portsTakeRequests, memoryPortServes_claim⟩

end Sys2Proof.Machine

/-! # A packet lands in a cell (R79, R95, R255, R258)

The bytes of a WRITE or SIGNAL of plain form, and the notice of a SIGNAL; what is read in Last before or stored there after, landing
neither sees nor loses. -/

namespace Sys2Proof.Machine

/-! ## Bytes over bytes -/

theorem memGet_memPuts (m : List Host.Cell) (a : Nat) (l : List Byte) (b : Nat) :
    memGet (memPuts m a l) b = if a ≤ b ∧ b < a + l.length then l.getD (b - a) 0 else memGet m b := by
  split
  case isTrue h =>
    obtain ⟨i, rfl⟩ := Nat.exists_eq_add_of_le h.1
    have hi : i < l.length := by omega
    rw [memGet_memPuts_in _ _ _ hi, Nat.add_sub_cancel_left, List.getD_eq_getElem _ _ hi]
  case isFalse h => exact memGet_memPuts_out _ _ _ (by omega)

/-! ## A packet's bytes and notice -/

/-- R95, R255: the bytes of a packet are placed, and a SIGNAL's notice is written. -/
def land (s : State) (c : Cell) (p : RxPkt) : State :=
  if hCmd p.hdr = 4 then notice (placeAll s (unitSpace (.ni c)) (pieces p)) c p.hdr else placeAll s (unitSpace (.ni c)) (pieces p)

section
variable {s t : State} {c : Cell} {p : RxPkt}

/-- A notice is entered where its ring runs and has an entry free. -/
theorem notice_enters (h : (cqOf s (.ni c) (noticeRing s c p.hdr)).st = .running ∧ 0 < cqFree s (.ni c) (noticeRing s c p.hdr)) :
    notice s c p.hdr = cqWrite s (.ni c) (noticeRing s c p.hdr) (noticeEntry p.hdr) := if_pos h

/-- Else it is dropped. -/
theorem notice_drops (h : ¬ ((cqOf s (.ni c) (noticeRing s c p.hdr)).st = .running ∧ 0 < cqFree s (.ni c) (noticeRing s c p.hdr))) :
    notice s c p.hdr = setBits (cntUp s (cqReg (.ni c) (noticeRing s c p.hdr) 5) 24 8 1) (cqReg (.ni c) (noticeRing s c p.hdr) 5) 0x80 :=
  if_neg h

/-- What a landing packet leaves of a cell: all but memory, the completion rings, and the drop count of one. -/
structure LandOnly (c : Cell) (r : Nat) (s t : State) : Prop where
  regs : RegsBut [cqReg (.ni c) r 5] s t
  doms : t.doms = s.doms
  unit : ∃ q, punit t (.ni c) = { punit s (.ni c) with cq := q }
  others : ∀ u, u.key ≠ (UnitRef.ni c).key → punit t u = punit s u
  touches : Touches [.mem, .regs, .units] s t

theorem LandOnly.memWrite (s : State) (r off : Nat) (l : List Byte) : LandOnly c r s (memWrite s c.key off l) :=
  ⟨.refl _ s, rfl, ⟨_, rfl⟩, fun _ _ => rfl, memWrite_touches _ _ _ (by decide) (.refl _ s)⟩

theorem LandOnly.trans {r : Nat} {v : State} (h : LandOnly c r s t) (h' : LandOnly c r t v) : LandOnly c r s v := by
  obtain ⟨_, hunit⟩ := h.unit
  obtain ⟨_, hunit'⟩ := h'.unit
  exact ⟨h.regs.trans h'.regs, h'.doms.trans h.doms, ⟨_, by rw [hunit', hunit]⟩, fun u hu => (h'.others u hu).trans (h.others u hu),
    h.touches.trans h'.touches⟩

theorem LandOnly.notice (s : State) (p : RxPkt) : LandOnly c (noticeRing s c p.hdr) s (notice s c p.hdr) := by
  by_cases h : (cqOf s (.ni c) (noticeRing s c p.hdr)).st = .running ∧ 0 < cqFree s (.ni c) (noticeRing s c p.hdr)
  · have hok : (cqOf s (.ni c) (noticeRing s c p.hdr)).st ≠ .error := by rw [h.1]; decide
    have hunit := cqWrite_unit (ent := noticeEntry p.hdr) hok
    rw [notice_enters h]
    rw [cqWrite_ni hok] at hunit ⊢
    exact ⟨.refl _ s, rfl, hunit, fun u hu => punit_updUnit_ne _ _ hu,
      setCq_touches _ _ _ (by decide) (memWrite_touches _ _ _ (by decide) (.refl _ s))⟩
  · rw [notice_drops h]
    exact ⟨(RegsBut.cntUp s 24 8 1 List.mem_cons_self).trans (.setBits _ _ List.mem_cons_self), by simp, ⟨_, by rw [punit_setBits, punit_cntUp]⟩,
      fun u _ => by rw [punit_setBits, punit_cntUp], setBits_touches _ _ (by decide) (cntUp_touches _ _ _ _ (by decide) (.refl _ s))⟩

variable (hcs : hCspec p.hdr = 0) (hm : hMcast p.hdr = false)

section
include hcs hm

/-- R79: where a packet of plain form places its bytes. -/
theorem placeAll_plain (s : State) : placeAll s (unitSpace (.ni c)) (pieces p) = memWrite s c.key (hOff p.hdr) (carried p) := by
  rw [pieces_plain hcs hm]
  rfl

theorem land_write (hcmd : hCmd p.hdr = 0) (s : State) : land s c p = memWrite s c.key (hOff p.hdr) (carried p) := by
  rw [land, if_neg (by rw [hcmd]; decide), placeAll_plain hcs hm]

theorem land_signal (hcmd : hCmd p.hdr = 4) (s : State) : land s c p = notice (memWrite s c.key (hOff p.hdr) (carried p)) c p.hdr := by
  rw [land, if_pos hcmd, placeAll_plain hcs hm]

theorem land_only (hcmd : hCmd p.hdr = 0 ∨ hCmd p.hdr = 4) (s : State) : LandOnly c (noticeRing s c p.hdr) s (land s c p) := by
  rcases hcmd with hcmd | hcmd
  · rw [land_write hcs hm hcmd]
    exact .memWrite s _ _ _
  · rw [land_signal hcs hm hcmd]
    exact (LandOnly.memWrite s (noticeRing s c p.hdr) _ _).trans (.notice (memWrite s c.key (hOff p.hdr) (carried p)) p)

/-- R95, R255, R258: such a packet has landed. -/
theorem landed_land (ks : List Nat) (s : State) : Landed s (land s c p) c p ks := by
  refine ⟨fun hcmd => ?_, fun hcmd => ?_⟩
  · rw [land_write hcs hm hcmd]
    exact ⟨placed_of_memPuts rfl, .refl ks s⟩
  · rw [land_signal hcs hm hcmd]
    split
    case isTrue hroom =>
      have hok : (cqOf (memWrite s c.key (hOff p.hdr) (carried p)) (.ni c) (noticeRing s c p.hdr)).st ≠ .error := by
        show (cqOf s (.ni c) (noticeRing s c p.hdr)).st ≠ .error
        rw [hroom.1]
        decide
      obtain ⟨hentered, hbeside⟩ := cqWrite_posted (ent := noticeEntry p.hdr) hok
      rw [notice_enters (s := memWrite s c.key (hOff p.hdr) (carried p)) hroom]
      exact ⟨hentered, fun a ha => (hbeside a ha).trans (memGet_memPuts ..), fun k _ => congrArg (FMap.get · k _) (cqWrite_regs hok)⟩
    case isFalse hroom =>
      rw [notice_drops (s := memWrite s c.key (hOff p.hdr) (carried p)) hroom]
      refine ⟨placed_of_memPuts (by rw [setBits_mem, cntUp_mem]; rfl), bit_setBits _ _ (b := 7) (by decide), ?_,
        (RegsBut.cntUp (memWrite s c.key (hOff p.hdr) (carried p)) 24 8 1 List.mem_cons_self).trans (.setBits _ _ List.mem_cons_self)⟩
      exact (rdF_setBits_above _ _ (b := 7) (by decide)).trans (rdF_cntUp_same (memWrite s c.key (hOff p.hdr) (carried p)) _ _ (by decide))

end

/-! ## What a landed packet is beside Last (R101, R158, R383) -/

/-- The registers that an arrival counts in, beside a ring's. -/
def arrivalRegs (c : Cell) : List Nat := [cellReg c 3 0x81C, cellReg c 3 0xB010, cellReg c 3 0xE000]

theorem not_mem_arrivalRegs {o : Nat} (ho : o < 0x81C) : cellReg c 3 o ∉ arrivalRegs c := by
  have hne {o' : Nat} (h : o < o') (h' : o' < 65536) : cellReg c 3 o ≠ cellReg c 3 o' :=
    cellReg_ne c (by decide) (by omega) (by decide) h' (.inr (by omega))
  simp [arrivalRegs, hne ho (by decide), hne (Nat.lt_trans ho (by decide : 0x81C < 0xB010)) (by decide),
    hne (Nat.lt_trans ho (by decide : 0x81C < 0xE000)) (by decide)]

theorem cqReg_not_mem_arrivalRegs {r i : Nat} (hr : r < 4) (hi : i < 6) : cqReg (.ni c) r i ∉ arrivalRegs c := by
  refine not_mem_arrivalRegs ?_
  split
  · omega
  · omega

theorem noticeRing_lt (s : State) (c : Cell) (h : Payload) : noticeRing s c h < 4 := bits_lt _ _ _

/-- The unit's rings and descriptors are as in another state, and so are the registers that notices read. -/
structure SameRings (c : Cell) (s s' : State) : Prop where
  cq : (punit s' (.ni c)).cq = (punit s (.ni c)).cq
  ctxs : (punit s' (.ni c)).ctxs = (punit s (.ni c)).ctxs
  cpl : (punit s' (.ni c)).cpl = (punit s (.ni c)).cpl
  queues : rd s' (cellReg c 3 0x304) = rd s (cellReg c 3 0x304)
  rings : ∀ r i, r < 4 → i < 6 → rd s' (cqReg (.ni c) r i) = rd s (cqReg (.ni c) r i)

theorem TargetOnly.sameRings (h : TargetOnly c (arrivalRegs c) s t) : SameRings c s t := by
  obtain ⟨_, _, _, _, hunit⟩ := h.unit
  exact ⟨by rw [hunit], by rw [hunit], by rw [hunit], h.regs _ (not_mem_arrivalRegs (by decide)),
    fun _ _ hr hi => h.regs _ (cqReg_not_mem_arrivalRegs hr hi)⟩

section
variable {s' t' : State}

/-- A packet that landed from a state after Last was read landed from the state before. -/
theorem TargetOnly.landed_of (h : TargetOnly c (arrivalRegs c) s s') (hl : Landed s' t c p (arrivalRegs c)) :
    Landed s t c p (arrivalRegs c) := by
  obtain ⟨hcq, hctxs, hcpl, hqueues, hrings⟩ := h.sameRings
  have hr : noticeRing s c p.hdr < 4 := noticeRing_lt ..
  have hring : noticeRing s' c p.hdr = noticeRing s c p.hdr := by simp only [noticeRing, rdF, hqueues]
  have hof : cqOf s' (.ni c) (noticeRing s c p.hdr) = cqOf s (.ni c) (noticeRing s c p.hdr) := by simp only [cqOf, hcq]
  have hlog : rdF s' (cqReg (.ni c) (noticeRing s c p.hdr) 2) 0 5 = rdF s (cqReg (.ni c) (noticeRing s c p.hdr) 2) 0 5 := by
    simp only [rdF, hrings _ 2 hr (by decide)]
  have hfree : cqFree s' (.ni c) (noticeRing s c p.hdr) = cqFree s (.ni c) (noticeRing s c p.hdr) := by
    simp only [cqFree, cqLog, cqRsv, hlog, hof, hctxs, hcpl]
  have haddr : entryAddr s' (.ni c) (noticeRing s c p.hdr) = entryAddr s (.ni c) (noticeRing s c p.hdr) := by
    simp only [entryAddr, ringBase, hrings _ 0 hr (by decide), hlog, hof]
  have hcnt : rdF s' (cqReg (.ni c) (noticeRing s c p.hdr) 5) 24 8 = rdF s (cqReg (.ni c) (noticeRing s c p.hdr) 5) 24 8 := by
    simp only [rdF, hrings _ 5 hr (by decide)]
  unfold Landed Entered Placed at hl ⊢
  rw [hring, hof, hfree, haddr, hlog, hcnt, h.mem] at hl
  refine ⟨fun hcmd => ?_, fun hcmd => ?_⟩
  · obtain ⟨hplaced, hregs⟩ := hl.1 hcmd
    exact ⟨hplaced, h.regs.trans hregs⟩
  · have hsig := hl.2 hcmd
    split at hsig
    case isTrue hroom =>
      obtain ⟨hentered, hbeside, hregs⟩ := hsig
      rw [if_pos hroom]
      exact ⟨hentered, hbeside, h.regs.trans hregs⟩
    case isFalse hroom =>
      obtain ⟨hplaced, hflag, hdrop, hregs⟩ := hsig
      rw [if_neg hroom]
      exact ⟨hplaced, hflag, hdrop, (h.regs.mono (List.subset_cons_self ..)).trans hregs⟩

/-- A packet that has landed stays so when Last is stored and responses are built. -/
theorem TargetOnly.landed_to (h : TargetOnly c (arrivalRegs c) t t') (hl : Landed s t c p (arrivalRegs c)) :
    Landed s t' c p (arrivalRegs c) := by
  obtain ⟨hcq, -, -, -, hrings⟩ := h.sameRings
  have hr : noticeRing s c p.hdr < 4 := noticeRing_lt ..
  have hof : cqOf t' (.ni c) (noticeRing s c p.hdr) = cqOf t (.ni c) (noticeRing s c p.hdr) := by simp only [cqOf, hcq]
  unfold Landed Entered Placed at hl ⊢
  rw [hof, h.mem]
  refine ⟨fun hcmd => ?_, fun hcmd => ?_⟩
  · obtain ⟨hplaced, hregs⟩ := hl.1 hcmd
    exact ⟨hplaced, hregs.trans h.regs⟩
  · have hsig := hl.2 hcmd
    split at hsig
    case isTrue hroom =>
      obtain ⟨hentered, hbeside, hregs⟩ := hsig
      rw [if_pos hroom]
      exact ⟨hentered, hbeside, hregs.trans h.regs⟩
    case isFalse hroom =>
      obtain ⟨hplaced, hflag, hdrop, hregs⟩ := hsig
      rw [if_neg hroom, rdF, hrings _ 5 hr (by decide)]
      exact ⟨hplaced, hflag, hdrop, hregs.trans (h.regs.mono (List.subset_cons_self ..))⟩

end

end

end Sys2Proof.Machine

/-! # WRITE and SIGNAL at a cell (R82, R84, R95, R100, R101, R255, R258, R383) -/

namespace Sys2Proof.Machine

/-! ## A packet is placed, or refused with ADDR (R84, R95) -/

/-- A packet of plain form that a cell places: WRITE or SIGNAL. -/
structure PlainPacket (p : RxPkt) : Prop where
  cmd : hCmd p.hdr = 0 ∨ hCmd p.hdr = 4
  plain : hCspec p.hdr = 0
  unicast : hMcast p.hdr = false

theorem SameReplies.trans {s t v : State} (h : SameReplies s t) (h' : SameReplies t v) : SameReplies s v :=
  ⟨h'.1.trans h.1, fun a b => (h'.2 a b).trans (h.2 a b)⟩

section
variable {s s' t t' : State} {c : Cell} {p : RxPkt} {z : TxPkt} {r : Nat}

theorem LandOnly.resp (h : LandOnly c r s t) : (punit t (.ni c)).resp = (punit s (.ni c)).resp := by
  obtain ⟨_, hunit⟩ := h.unit
  rw [hunit]

theorem LandOnly.lastOf (h : LandOnly c r s t) (j : Nat) : lastOf t c j = lastOf s c j := by
  obtain ⟨_, hunit⟩ := h.unit
  unfold Machine.lastOf
  rw [hunit]

theorem LandOnly.rd_cell (h : LandOnly c r s t) (hr : r < 4) {o : Nat} (ho : 0x300 ≤ o) (ho' : o < 65536) :
    rd t (cellReg c 3 o) = rd s (cellReg c 3 o) := by
  refine h.regs _ fun hmem => ?_
  have hne : cellReg c 3 o ≠ cellReg c 3 (0x200 + 0x20 * r + 16) := cellReg_ne c (by decide) ho' (by decide) (by omega) (.inr (by omega))
  exact hne (List.mem_singleton.1 hmem)

theorem Responded.of_same {u : UnitRef} {h : Payload} {cmd : Nat} (hz : Responded s' t u h cmd z)
    (hresp : (punit s' u).resp = (punit s u).resp) (hs : SameReplies s s') : Responded s t u h cmd z := by
  obtain ⟨hr, hc, ht, hd⟩ := hz
  exact ⟨hr.trans (by rw [hresp]), hc, ht, hd.trans (by rw [replyAddr_congr hs.1 hs.2])⟩

theorem Responded.to_same {u : UnitRef} {h : Payload} {cmd : Nat} (hz : Responded s t u h cmd z)
    (hresp : (punit t' u).resp = (punit t u).resp) : Responded s t' u h cmd z := by
  obtain ⟨hr, hrest⟩ := hz
  exact ⟨hresp.trans hr, hrest⟩

theorem responded_ack_over {st crc : Nat} (hresp : (punit t (.ni c)).resp = (punit s (.ni c)).resp) :
    Responded s (pushResp t (.ni c) (ackPkt s p.hdr st crc p.port)) (.ni c) p.hdr 3 (ackPkt s p.hdr st crc p.port) :=
  responded_ackPkt hresp ⟨rfl, fun _ _ => rfl⟩

theorem placeChecked_fits (hfit : sramFits p.hdr = true) (s : State) :
    placeChecked s c p = pushResp (land s c p) (.ni c) (ackPkt s p.hdr 0 (placedCrc p) p.port) := if_pos hfit

theorem placeChecked_beyond (hfit : sramFits p.hdr = false) (s : State) :
    placeChecked s c p = nackPkt (cntUp s (cellReg c 3 0x81C) 16 8 1) c p 1 := if_neg (by rw [hfit]; decide)

/-- R84: a refusal is counted and answered, and leaves memory. -/
theorem responded_nack (s : State) (lo len st : Nat) :
    Responded s (nackPkt (cntUp s (cellReg c 3 0x81C) lo len 1) c p st) (.ni c) p.hdr 3
      (ackPkt (cntUp s (cellReg c 3 0x81C) lo len 1) p.hdr st 0 p.port) :=
  responded_ackPkt (by rw [punit_cntUp]) (.of_units (by simp) (by simp))

theorem nack_only (s : State) (lo len st : Nat) :
    TargetOnly c [cellReg c 3 0x81C] s (nackPkt (cntUp s (cellReg c 3 0x81C) lo len 1) c p st) :=
  (TargetOnly.cntUp s lo len 1 List.mem_cons_self).trans (.pushResp _ _)

theorem nack_touches (s : State) (lo len st : Nat) : Touches [.regs, .units] s (nackPkt (cntUp s (cellReg c 3 0x81C) lo len 1) c p st) :=
  nackPkt_touches _ _ _ (by decide) (cntUp_touches _ _ _ _ (by decide) (.refl _ s))

/-- What a packet that a cell has checked and answered leaves: it has landed with OK, or is refused with ADDR. -/
structure Checked (c : Cell) (p : RxPkt) (s t : State) (z : TxPkt) : Prop where
  responded : Responded s t (.ni c) p.hdr 3 z
  fits : sramFits p.hdr = true → Landed s t c p (arrivalRegs c) ∧ hInl z.hdr 32 4 = 0
  beyond : sramFits p.hdr = false → t.mem = s.mem ∧ hInl z.hdr 32 4 = 1 ∧ RegsBut (arrivalRegs c) s t
  last : ∀ j, lastOf t c j = lastOf s c j
  touches : Touches [.mem, .regs, .units] s t

theorem placeChecked_checked (h : PlainPacket p) (s : State) : ∃ z, Checked c p s (placeChecked s c p) z := by
  obtain ⟨hcmd, hcs, hm⟩ := h
  have hland := land_only (c := c) hcs hm hcmd s
  cases hfit : sramFits p.hdr with
  | true =>
    rw [placeChecked_fits hfit]
    refine ⟨_, responded_ack_over hland.resp, fun _ => ⟨?_, ackPkt_status ..⟩, fun hno => absurd hfit (by rw [hno]; decide), fun j => ?_, ?_⟩
    · exact TargetOnly.landed_to (.pushResp _ _) (landed_land hcs hm (arrivalRegs c) s)
    · rw [lastOf_pushResp, hland.lastOf]
    · exact pushResp_touches _ _ (by decide) hland.touches
  | false =>
    rw [placeChecked_beyond hfit]
    have honly := (nack_only (c := c) (p := p) s 16 8 1).mono (ks' := arrivalRegs c) (by simp [arrivalRegs])
    refine ⟨_, responded_nack s 16 8 1, fun hyes => absurd hfit (by rw [hyes]; decide), fun _ => ⟨honly.mem, ackPkt_status .., honly.regs⟩,
      fun j => ?_, (nack_touches s 16 8 1).mono (by decide)⟩
    rw [nackPkt, lastOf_pushResp, lastOf_cntUp]

end

/-! ## A WRITE without a stream (R82, R84, R95) -/

/-- R82, R84, R95: a WRITE that belongs to no stream. -/
theorem writePlacesAndAcks_claim : Sys2Proof.Claim.WritePlacesAndAcks := by
  intro c ecc p s ht hgood hcmd hm hstv hcs
  obtain ⟨l, hrun⟩ := onCmd_of_taken ht
  have hexec (hfits : respFits (placeChecked (withInbox s (.ni c) l) c p) (.ni c) = true) :
      exec (.write (.ni c) ecc) s = .next (placeChecked (withInbox s (.ni c) l) c p) := by
    have hni : niWrite (withInbox s (.ni c) l) c p ecc = placeChecked (withInbox s (.ni c) l) c p := by
      simp [niWrite, hgood, hcmd, strayCmd, hm, hstv]
    have hnext := hrun (fun s p => niWrite s c p ecc)
    rw [hni] at hnext
    exact congrArg Host.Outcome.next (hnext hfits)
  have hreplies := SameReplies.withInbox s (.ni c) l
  have hinbox {m : List Part} (hp : [.units] ⊆ m) : Touches m s (withInbox s (.ni c) l) := withInbox_touches hp
  refine ⟨fun hfit => ?_, fun hfit => ?_⟩
  · rw [placeChecked_fits hfit, land_write hcs hm hcmd] at hexec
    refine ⟨_, _, hexec (respFits_of_le ht.1 (by simp)), placed_of_memPuts rfl, responded_ackPkt (by simp) hreplies, ackPkt_status ..,
      fun hne => ?_, .refl _ s, pushResp_touches _ _ (by decide) (memWrite_touches _ _ _ (by decide) (hinbox (by decide)))⟩
    rw [ackPkt_crc, placedCrc_plain hcs hm, if_neg (show carried p ≠ [] from hne)]
    rfl
  · rw [placeChecked_beyond hfit] at hexec
    have honly := nack_only (c := c) (p := p) (withInbox s (.ni c) l) 16 8 1
    have hz := (responded_nack (c := c) (p := p) (withInbox s (.ni c) l) 16 8 1).of_same resp_withInbox hreplies
    refine ⟨_, _, hexec (respFits_of_le ht.1 (by rw [hz.1]; simp)), honly.mem, hz, ackPkt_status .., rdF_cntUp_same _ _ _ (by decide),
      honly.regs, (hinbox (by decide)).trans (nack_touches _ 16 8 1)⟩

/-! ## A packet on a stream (R100, R101, R383) -/

/-- A well-formed unicast WRITE or SIGNAL of plain form on a stream, that a command takes. -/
structure OnStream (i : Instr) (c : Cell) (ecc : Ecc) (p : RxPkt) (s : State) : Prop where
  request : (i = .write (.ni c) ecc ∧ hCmd p.hdr = 0) ∨ (i = .signal (.ni c) ecc ∧ hCmd p.hdr = 4)
  taken : Taken s (.ni c) (hCmd p.hdr) p
  good : malformed p.hdr p.welt = false
  unicast : hMcast p.hdr = false
  stream : hStv p.hdr = true
  plain : hCspec p.hdr = 0

/-- The state in which a packet has been taken and the Last entry of its stream has been read. -/
def lookedUp (s : State) (c : Cell) (ecc : Ecc) (p : RxPkt) (l : List RxPkt) : State :=
  lastEcc (withInbox s (.ni c) l) c (hStag p.hdr) ecc

section
variable {i : Instr} {c : Cell} {ecc : Ecc} {p : RxPkt} {s : State} {l : List RxPkt}

theorem OnStream.plainPacket (h : OnStream i c ecc p s) : PlainPacket p :=
  ⟨h.request.imp And.right And.right, h.plain, h.unicast⟩

theorem lookedUp_only : TargetOnly c (arrivalRegs c) s (lookedUp s c ecc p l) :=
  (TargetOnly.withInbox s l).trans (.lastEcc _ _ ecc (by simp [arrivalRegs]) (by simp [arrivalRegs]))

theorem lookedUp_touches : Touches [.regs, .units] s (lookedUp s c ecc p l) :=
  lastEcc_touches _ _ _ (by decide) (withInbox_touches (by decide))

theorem resp_lookedUp : (punit (lookedUp s c ecc p l) (.ni c)).resp = (punit s (.ni c)).resp := resp_lastEcc.trans resp_withInbox

theorem lastOf_lookedUp_ne {j : Nat} (hj : j ≠ hStag p.hdr) : lastOf (lookedUp s c ecc p l) c j = lastOf s c j := by
  rw [lookedUp, lastOf_lastEcc_ne hj, lastOf_withInbox]

theorem lastOf_lookedUp_kept (h : eccOf ecc (lastOf s c (hStag p.hdr)).bad ≠ .ue) :
    lastOf (lookedUp s c ecc p l) c (hStag p.hdr) = lastOf s c (hStag p.hdr) := by
  rw [lookedUp, lastOf_lastEcc_kept (by rwa [lastOf_withInbox]), lastOf_withInbox]

theorem lastOf_lookedUp_freed (h : eccOf ecc (lastOf s c (hStag p.hdr)).bad = .ue) :
    (lastOf (lookedUp s c ecc p l) c (hStag p.hdr)).valid = false := by
  rw [lookedUp, lastOf_lastEcc_freed (by rwa [lastOf_withInbox])]

/-- R84, R101: what the packet does depends on the entry as it was read. -/
theorem niWrite_onStream (h : OnStream i c ecc p s) : niWrite (withInbox s (.ni c) l) c p ecc =
    if lastMatch (lastOf (lookedUp s c ecc p l) c (hStag p.hdr)) p.hdr then lastArrival (lookedUp s c ecc p l) c (hStag p.hdr) p
    else strangeArrival (lookedUp s c ecc p l) c p := by
  have hrow : (malformed p.hdr p.welt || strayCmd (.ni c) (hCmd p.hdr)) = false := by
    rw [h.good]
    rcases h.request with ⟨-, hcmd⟩ | ⟨-, hcmd⟩
    · rw [hcmd]
      rfl
    · rw [hcmd]
      rfl
  unfold niWrite
  rw [hrow, h.unicast, h.stream]
  rfl

theorem OnStream.exec (h : OnStream i c ecc p s) : ∃ l, ∀ t, niWrite (withInbox s (.ni c) l) c p ecc = t →
    respFits t (.ni c) = true → exec i s = .next t := by
  obtain ⟨l, hrun⟩ := onCmd_of_taken h.taken
  refine ⟨l, fun t ht hfits => ?_⟩
  subst ht
  have hnext := hrun (fun s p => niWrite s c p ecc) hfits
  rcases h.request with ⟨rfl, hcmd⟩ | ⟨rfl, hcmd⟩
  · rw [hcmd] at hnext
    exact congrArg Host.Outcome.next hnext
  · rw [hcmd] at hnext
    exact congrArg Host.Outcome.next hnext

/-- R101: a packet of a stream that Last knows arrives there. -/
theorem OnStream.exec_known {x : LastEnt} (h : OnStream i c ecc p s) (hx : x = lastOf s c (hStag p.hdr))
    (hmatch : lastMatch x p.hdr = true) (hread : eccOf ecc x.bad ≠ .ue) :
    ∃ l, lastOf (lookedUp s c ecc p l) c (hStag p.hdr) = x ∧
      ∀ t, lastArrival (lookedUp s c ecc p l) c (hStag p.hdr) p = t → respFits t (.ni c) = true → Machine.exec i s = .next t := by
  subst hx
  obtain ⟨l, hexec⟩ := h.exec
  have hlast := lastOf_lookedUp_kept (l := l) hread
  refine ⟨l, hlast, fun t ht hfits => hexec t ?_ hfits⟩
  rw [niWrite_onStream h, hlast, if_pos hmatch, ht]

/-- R84, R383: a packet of a stream that Last does not know, or of an entry that cannot be read. -/
theorem OnStream.exec_strange {x : LastEnt} (h : OnStream i c ecc p s) (hx : x = lastOf s c (hStag p.hdr))
    (hno : lastMatch x p.hdr = false ∨ eccOf ecc x.bad = .ue) :
    ∃ l, ∀ t, strangeArrival (lookedUp s c ecc p l) c p = t → respFits t (.ni c) = true → Machine.exec i s = .next t := by
  subst hx
  obtain ⟨l, hexec⟩ := h.exec
  refine ⟨l, fun t ht hfits => hexec t ?_ hfits⟩
  have hmatch : lastMatch (lastOf (lookedUp s c ecc p l) c (hStag p.hdr)) p.hdr = false := by
    by_cases hread : eccOf ecc (lastOf s c (hStag p.hdr)).bad = .ue
    · simp [lastMatch, lastOf_lookedUp_freed hread]
    · rw [lastOf_lookedUp_kept hread, hno.resolve_right hread]
  rw [niWrite_onStream h, hmatch, if_neg Bool.false_ne_true, ht]

end

/-! ## What each arrival does (R100, R101) -/

section
variable {s : State} {c : Cell} {t : Nat} {p : RxPkt} {x : LastEnt}

/-- R100, R101: the entry of a stream after a packet that counts, or a fence in order. -/
def countedLast (x : LastEnt) (h : Payload) : LastEnt :=
  { x with cnt := lset x.cnt (hFgen h) (if hFence h = true then 0 else (lget x.cnt (hFgen h) 0 + 1) % 65536) }

/-- A packet that is placed at once and completes no held one. -/
theorem lastArrival_counted (hx : lastOf s c t = x)
    (hready : if hFence p.hdr = true then lget x.cnt (hFgen p.hdr) 0 = hScount p.hdr
      else ∀ y, x.held = some y → ¬ (y.gen = hFgen p.hdr ∧ (lget x.cnt (hFgen p.hdr) 0 + 1) % 65536 = y.scount)) :
    lastArrival s c t p = setLast (placeChecked s c p) c t (countedLast x p.hdr) := by
  subst hx
  unfold lastArrival countedLast
  cases hf : hFence p.hdr with
  | true =>
    rw [hf, if_pos rfl] at hready
    simp only [if_true, hready]
  | false =>
    rw [hf, if_neg Bool.false_ne_true] at hready
    simp only [Bool.false_eq_true, if_false]
    split
    · exact if_neg (hready _ ‹_›)
    · rfl

/-- A fence ahead of its count is held. -/
theorem lastArrival_held (hx : lastOf s c t = x) (hf : hFence p.hdr = true) (hearly : lget x.cnt (hFgen p.hdr) 0 ≠ hScount p.hdr)
    (hnone : x.held = none) : lastArrival s c t p =
      setLast s c t { x with held := some { gen := hFgen p.hdr, scount := hScount p.hdr, pkt := p } } := by
  subst hx
  unfold lastArrival
  simp only [hf, if_true, hearly, hnone, if_false, Option.isSome_none, Bool.false_eq_true]

/-- A second one is refused. -/
theorem lastArrival_refused (hx : lastOf s c t = x) (hf : hFence p.hdr = true) (hearly : lget x.cnt (hFgen p.hdr) 0 ≠ hScount p.hdr)
    (hsome : x.held.isSome = true) : lastArrival s c t p = nackPkt (cntUp s (cellReg c 3 0x81C) 8 8 1) c p 3 := by
  subst hx
  unfold lastArrival
  simp only [hf, if_true, hearly, hsome, if_false]

/-- R101: a packet without a fence completes the count that an entry's held packet waits for. -/
structure Completes (x : LastEnt) (p : RxPkt) (y : Held) : Prop where
  unfenced : hFence p.hdr = false
  held : x.held = some y
  gen : y.gen = hFgen p.hdr
  count : (lget x.cnt (hFgen p.hdr) 0 + 1) % 65536 = y.scount

/-- R101: the entry of a stream after the packet that completes its held one's count. -/
def releasedLast (x : LastEnt) (h : Payload) (y : Held) : LastEnt :=
  { countedLast x h with held := none, cnt := lset (countedLast x h).cnt y.gen 0, bad := 0 }

theorem releaseHeld_some {y : Held} (hx : lastOf s c t = x) (hheld : x.held = some y) :
    releaseHeld s c t = placeChecked (setLast s c t { x with held := none, cnt := lset x.cnt y.gen 0 }) c y.pkt := by
  subst hx
  unfold releaseHeld
  dsimp only
  rw [hheld]

/-- The packet that completes a held one's count is placed, then the held one. -/
theorem lastArrival_releases {y : Held} (hx : lastOf s c t = x) (h : Completes x p y) : lastArrival s c t p =
    placeChecked (setLast (setLast (placeChecked s c p) c t (countedLast x p.hdr)) c t (releasedLast x p.hdr y)) c y.pkt := by
  have hnext : lastArrival s c t p = releaseHeld (setLast (placeChecked s c p) c t (countedLast x p.hdr)) c t := by
    subst hx
    unfold lastArrival countedLast
    simp only [h.unfenced, Bool.false_eq_true, if_false, h.held]
    exact if_pos ⟨h.gen, h.count⟩
  have hlast := lastOf_setLast_same (s := placeChecked s c p) (c := c) (i := t) (x := countedLast x p.hdr)
  rw [hnext, releaseHeld_some hlast h.held]
  rfl

end

/-! ## The arrivals, from a command on (R84, R100, R101, R383) -/

section
variable {s : State} {c : Cell} {p : RxPkt}

/-- A read of a Last entry leaves the count of packets refused with STREAM. -/
theorem rdF_lastEcc_strange (s : State) (c : Cell) (j : Nat) (ecc : Ecc) :
    rdF (lastEcc s c j ecc) (cellReg c 3 0x81C) 8 8 = rdF s (cellReg c 3 0x81C) 8 8 := by
  have hne : cellReg c 3 0x81C ≠ cellReg c 3 0xE000 := cellReg_ne c (by decide) (by decide) (by decide) (by decide) (.inr (by decide))
  unfold lastEcc
  split
  · rfl
  · rw [rdF, rd_setBits_ne _ _ hne, rd_cntUp_ne _ _ _ _ hne]
    rfl
  · dsimp only
    rw [rdF, rd_setBits_ne _ _ hne, rd_cntUp_ne _ _ _ _ hne]
    split
    · rw [cntUp_eq]
      exact (congrArg (bits · 8 8) (rd_wrF_same ..)).trans (bits_put_ne _ _ (by decide))
    · rfl

/-- R84, R101: the count of packets refused with STREAM goes up. -/
theorem rdF_refused_lookedUp {ecc : Ecc} {l : List RxPkt} :
    rdF (cntUp (lookedUp s c ecc p l) (cellReg c 3 0x81C) 8 8 1) (cellReg c 3 0x81C) 8 8 =
      satAdd 255 (rdF s (cellReg c 3 0x81C) 8 8) 1 := by
  rw [rdF_cntUp_same _ _ _ (by decide), lookedUp, rdF_lastEcc_strange]
  rfl

/-- A WRITE that a cell has placed and acknowledged with OK. -/
structure Wrote (c : Cell) (p : RxPkt) (s t : State) (z : TxPkt) : Prop where
  resp : (punit t (.ni c)).resp = (punit s (.ni c)).resp ++ [z]
  ack : hCmd z.hdr = 3 ∧ hTag z.hdr = hTag p.hdr ∧ hInl z.hdr 32 4 = 0
  mem : t.mem = memPuts s.mem (memAddr c.key (hOff p.hdr)) (carried p)
  last : ∀ j, lastOf t c j = lastOf s c j
  regs : RegsBut [] s t
  touches : Touches [.mem, .units] s t

/-- A WRITE of plain form that lies within a cell's SRAM. -/
structure FittingWrite (p : RxPkt) : Prop where
  cmd : hCmd p.hdr = 0
  unicast : hMcast p.hdr = false
  plain : hCspec p.hdr = 0
  fits : sramFits p.hdr = true

theorem placeChecked_wrote (h : FittingWrite p) (s : State) : ∃ z, Wrote c p s (placeChecked s c p) z := by
  obtain ⟨-, hack, htag, -⟩ := responded_ack_over (s := s) (c := c) (p := p) (st := 0) (crc := placedCrc p) rfl
  rw [placeChecked_fits h.fits, land_write h.plain h.unicast h.cmd]
  exact ⟨_, resp_pushResp .., ⟨hack, htag, ackPkt_status ..⟩, rfl, fun j => lastOf_pushResp .., .refl _ s,
    pushResp_touches _ _ (by decide) (memWrite_touches _ _ _ (by decide) (.refl _ s))⟩

end

section
variable {i : Instr} {c : Cell} {ecc : Ecc} {p : RxPkt} {s : State} {x : LastEnt}

/-- R100, R101: a packet that is placed at once and completes no held one. -/
theorem arrives_counted (h : OnStream i c ecc p s) (hx : x = lastOf s c (hStag p.hdr)) (hmatch : lastMatch x p.hdr = true)
    (hread : eccOf ecc x.bad ≠ .ue)
    (hready : if hFence p.hdr = true then lget x.cnt (hFgen p.hdr) 0 = hScount p.hdr
      else ∀ y, x.held = some y →
        ¬ (y.gen = hFgen p.hdr ∧ (lget x.cnt (hFgen p.hdr) 0 + 1) % 65536 = y.scount)) :
    ∃ t z, exec i s = .next t ∧ Responded s t (.ni c) p.hdr 3 z ∧
      (sramFits p.hdr = true → Landed s t c p (arrivalRegs c) ∧ hInl z.hdr 32 4 = 0) ∧
      (sramFits p.hdr = false → t.mem = s.mem ∧ hInl z.hdr 32 4 = 1 ∧ RegsBut (arrivalRegs c) s t) ∧
      lastOf t c (hStag p.hdr) = { countedLast x p.hdr with bad := 0 } ∧
      (∀ j, j ≠ hStag p.hdr → lastOf t c j = lastOf s c j) ∧ Touches [.mem, .regs, .units] s t := by
  obtain ⟨l, hlast, hexec⟩ := h.exec_known hx hmatch hread
  obtain ⟨z, hz, hfits, hbeyond, hlasts, htouch⟩ := placeChecked_checked (c := c) h.plainPacket (lookedUp s c ecc p l)
  have hread := lookedUp_only (s := s) (c := c) (ecc := ecc) (p := p) (l := l)
  have hstore : TargetOnly c (arrivalRegs c) (placeChecked (lookedUp s c ecc p l) c p) (setLast (placeChecked (lookedUp s c ecc p l) c p) c
      (hStag p.hdr) (countedLast x p.hdr)) := .setLast _ _ _ (by simp [arrivalRegs])
  have hz' := (hz.to_same (resp_setLast (i := hStag p.hdr) (x := countedLast x p.hdr))).of_same resp_lookedUp hread.sameReplies
  refine ⟨_, z, hexec _ (lastArrival_counted hlast hready) (respFits_of_le h.taken.1 (by rw [hz'.1]; simp)), hz', fun hfit => ?_,
    fun hfit => ?_, lastOf_setLast_same, fun j hj => ?_, ?_⟩
  · obtain ⟨hlanded, hok⟩ := hfits hfit
    exact ⟨hread.landed_of (hstore.landed_to hlanded), hok⟩
  · obtain ⟨hmem, haddr, hregs⟩ := hbeyond hfit
    exact ⟨hstore.mem.trans (hmem.trans hread.mem), haddr, (hread.regs.trans hregs).trans hstore.regs⟩
  · rw [lastOf_setLast_ne hj, hlasts, lastOf_lookedUp_ne hj]
  · exact setLast_touches _ _ _ (by decide) ((lookedUp_touches.mono (by decide)).trans htouch)

/-- R101: a fence ahead of its count, where none is held. -/
theorem arrives_held (h : OnStream i c ecc p s) (hx : x = lastOf s c (hStag p.hdr)) (hmatch : lastMatch x p.hdr = true)
    (hread : eccOf ecc x.bad ≠ .ue) (hf : hFence p.hdr = true)
    (hearly : lget x.cnt (hFgen p.hdr) 0 ≠ hScount p.hdr) (hnone : x.held = none) :
    ∃ t, exec i s = .next t ∧ (punit t (.ni c)).resp = (punit s (.ni c)).resp ∧
      lastOf t c (hStag p.hdr) =
        { x with held := some { gen := hFgen p.hdr, scount := hScount p.hdr, pkt := p }, bad := 0 } ∧
      (∀ j, j ≠ hStag p.hdr → lastOf t c j = lastOf s c j) ∧ RegsBut (arrivalRegs c) s t ∧ Touches [.regs, .units] s t := by
  obtain ⟨l, hlast, hexec⟩ := h.exec_known hx hmatch hread
  refine ⟨_, hexec _ (lastArrival_held hlast hf hearly hnone) (respFits_of_le h.taken.1 ?_), resp_setLast.trans resp_lookedUp,
    lastOf_setLast_same, fun j hj => ?_, (lookedUp_only.trans (.setLast _ _ _ (by simp [arrivalRegs]))).regs,
    setLast_touches _ _ _ (by decide) lookedUp_touches⟩
  · rw [resp_setLast, resp_lookedUp]
    exact Nat.le_succ _
  · rw [lastOf_setLast_ne hj, lastOf_lookedUp_ne hj]

/-- R101: a second one. -/
theorem arrives_refused (h : OnStream i c ecc p s) (hx : x = lastOf s c (hStag p.hdr)) (hmatch : lastMatch x p.hdr = true)
    (hread : eccOf ecc x.bad ≠ .ue) (hf : hFence p.hdr = true) (hearly : lget x.cnt (hFgen p.hdr) 0 ≠ hScount p.hdr)
    (hsome : x.held.isSome = true) :
    ∃ t z, exec i s = .next t ∧ Responded s t (.ni c) p.hdr 3 z ∧ hInl z.hdr 32 4 = 3 ∧ (∀ j, lastOf t c j = lastOf s c j) ∧
      rdF t (cellReg c 3 0x81C) 8 8 = satAdd 255 (rdF s (cellReg c 3 0x81C) 8 8) 1 ∧ RegsBut (arrivalRegs c) s t ∧
      Touches [.regs, .units] s t := by
  obtain ⟨l, hlast, hexec⟩ := h.exec_known hx hmatch hread
  have hz := (responded_nack (c := c) (p := p) (lookedUp s c ecc p l) 8 8 3).of_same resp_lookedUp lookedUp_only.sameReplies
  refine ⟨_, _, hexec _ (lastArrival_refused hlast hf hearly hsome) (respFits_of_le h.taken.1 (by rw [hz.1]; simp)), hz, ackPkt_status ..,
    fun j => ?_, rdF_refused_lookedUp, (lookedUp_only.trans ((nack_only _ 8 8 3).mono (by simp [arrivalRegs]))).regs,
    lookedUp_touches.trans (nack_touches _ 8 8 3)⟩
  rw [nackPkt, lastOf_pushResp, lastOf_cntUp]
  by_cases hj : j = hStag p.hdr
  · rw [hj, hlast, hx]
  · exact lastOf_lookedUp_ne hj

/-- R101: the packet that completes a held one's count is placed, then the held one. -/
theorem arrives_releasing {y : Held} (h : OnStream i c ecc p s) (hx : x = lastOf s c (hStag p.hdr)) (hmatch : lastMatch x p.hdr = true)
    (hread : eccOf ecc x.bad ≠ .ue) (hlast : Completes x p y) (hp : FittingWrite p) (hy : FittingWrite y.pkt)
    (hroom : (punit s (.ni c)).resp.length + 2 ≤ 32) :
    ∃ t z w, exec i s = .next t ∧ (punit t (.ni c)).resp = (punit s (.ni c)).resp ++ [z, w] ∧
      (hCmd z.hdr = 3 ∧ hTag z.hdr = hTag p.hdr ∧ hInl z.hdr 32 4 = 0) ∧
      (hCmd w.hdr = 3 ∧ hTag w.hdr = hTag y.pkt.hdr ∧ hInl w.hdr 32 4 = 0) ∧
      t.mem = memPuts (memPuts s.mem (memAddr c.key (hOff p.hdr)) (carried p)) (memAddr c.key (hOff y.pkt.hdr)) (carried y.pkt) ∧
      lastOf t c (hStag p.hdr) = releasedLast x p.hdr y ∧
      (∀ j, j ≠ hStag p.hdr → lastOf t c j = lastOf s c j) ∧ RegsBut (arrivalRegs c) s t ∧ Touches [.mem, .regs, .units] s t := by
  obtain ⟨l, hread', hexec⟩ := h.exec_known hx hmatch hread
  have hlookup := lookedUp_only (s := s) (c := c) (ecc := ecc) (p := p) (l := l)
  obtain ⟨z, hz⟩ := placeChecked_wrote (c := c) hp (lookedUp s c ecc p l)
  have hnext := lastArrival_releases hread' hlast
  have hstore (v : State) (x : LastEnt) : TargetOnly c (arrivalRegs c) v (setLast v c (hStag p.hdr) x) :=
    .setLast _ _ _ (by simp [arrivalRegs])
  have hstores := (hstore (placeChecked (lookedUp s c ecc p l) c p) (countedLast x p.hdr)).trans (hstore _ (releasedLast x p.hdr y))
  obtain ⟨w, hw⟩ := placeChecked_wrote (c := c) hy (setLast (setLast (placeChecked (lookedUp s c ecc p l) c p) c
    (hStag p.hdr) (countedLast x p.hdr)) c (hStag p.hdr) (releasedLast x p.hdr y))
  have hresp := hw.resp
  rw [resp_setLast, resp_setLast, hz.resp, resp_lookedUp, List.append_assoc] at hresp
  refine ⟨_, z, w, hexec _ hnext (decide_eq_true ?_), hresp, hz.ack, hw.ack, ?_, ?_, fun j hj => ?_, ?_, ?_⟩
  · rw [hresp]
    simpa using hroom
  · rw [hw.mem, hstores.mem, hz.mem, hlookup.mem]
  · rw [hw.last, lastOf_setLast_same]
    rfl
  · rw [hw.last, lastOf_setLast_ne hj, lastOf_setLast_ne hj, hz.last, lastOf_lookedUp_ne hj]
  · exact ((hlookup.regs.trans (hz.regs.mono (List.nil_subset _))).trans hstores.regs).trans (hw.regs.mono (List.nil_subset _))
  · refine Touches.trans (setLast_touches _ _ _ (by decide) (setLast_touches _ _ _ (by decide) ?_)) (hw.touches.mono (by decide))
    exact (lookedUp_touches.mono (by decide)).trans (hz.touches.mono (by decide))

theorem strangeArrival_fenced (hf : hFence p.hdr = true) (s : State) :
    strangeArrival s c p = nackPkt (cntUp s (cellReg c 3 0x81C) 8 8 1) c p 3 := if_pos hf

theorem strangeArrival_lands (hf : hFence p.hdr = false) (hfit : sramFits p.hdr = true) (s : State) :
    strangeArrival s c p = pushResp (land (cntUp s (cellReg c 3 0x81C) 8 8 1) c p) (.ni c) (ackPkt s p.hdr 3 (placedCrc p) p.port) := by
  unfold strangeArrival
  rw [if_neg (by rw [hf]; decide), if_pos hfit]
  rfl

theorem lastOf_lookedUp_strange {ecc : Ecc} {l : List RxPkt} (hx : x = lastOf s c (hStag p.hdr)) :
    (eccOf ecc x.bad ≠ .ue → lastOf (lookedUp s c ecc p l) c (hStag p.hdr) = x) ∧
      (eccOf ecc x.bad = .ue → (lastOf (lookedUp s c ecc p l) c (hStag p.hdr)).valid = false) ∧
      ∀ j, j ≠ hStag p.hdr → lastOf (lookedUp s c ecc p l) c j = lastOf s c j := by
  subst hx
  exact ⟨lastOf_lookedUp_kept, lastOf_lookedUp_freed, fun _ => lastOf_lookedUp_ne⟩

/-- R84, R383: a packet of a stream that Last does not know. -/
theorem arrives_strange (h : OnStream i c ecc p s) (hx : x = lastOf s c (hStag p.hdr))
    (hno : lastMatch x p.hdr = false ∨ eccOf ecc x.bad = .ue) (hanswer : hFence p.hdr = true ∨ sramFits p.hdr = true) :
    ∃ t z, exec i s = .next t ∧ Responded s t (.ni c) p.hdr 3 z ∧ hInl z.hdr 32 4 = 3 ∧
      (if hFence p.hdr = true then t.mem = s.mem ∧ RegsBut (arrivalRegs c) s t else Landed s t c p (arrivalRegs c)) ∧
      rdF t (cellReg c 3 0x81C) 8 8 = satAdd 255 (rdF s (cellReg c 3 0x81C) 8 8) 1 ∧
      (eccOf ecc x.bad ≠ .ue → lastOf t c (hStag p.hdr) = x) ∧ (eccOf ecc x.bad = .ue → (lastOf t c (hStag p.hdr)).valid = false) ∧
      (∀ j, j ≠ hStag p.hdr → lastOf t c j = lastOf s c j) ∧ Touches [.mem, .regs, .units] s t := by
  obtain ⟨l, hexec⟩ := h.exec_strange hx hno
  have hlasts := lastOf_lookedUp_strange (ecc := ecc) (l := l) hx
  cases hf : hFence p.hdr with
  | true =>
    have honly := lookedUp_only.trans
      ((nack_only (c := c) (p := p) (lookedUp s c ecc p l) 8 8 3).mono (ks' := arrivalRegs c) (by simp [arrivalRegs]))
    have hz := (responded_nack (c := c) (p := p) (lookedUp s c ecc p l) 8 8 3).of_same resp_lookedUp lookedUp_only.sameReplies
    have hlast (j : Nat) : lastOf (nackPkt (cntUp (lookedUp s c ecc p l) (cellReg c 3 0x81C) 8 8 1) c p 3) c j =
        lastOf (lookedUp s c ecc p l) c j := by rw [nackPkt, lastOf_pushResp, lastOf_cntUp]
    simp only [← hlast] at hlasts
    obtain ⟨hkept, hfreed, hothers⟩ := hlasts
    exact ⟨_, _, hexec _ (strangeArrival_fenced hf _) (respFits_of_le h.taken.1 (by rw [hz.1]; simp)), hz, ackPkt_status ..,
      ⟨honly.mem, honly.regs⟩, rdF_refused_lookedUp, hkept, hfreed, hothers,
      (lookedUp_touches.trans (nack_touches _ 8 8 3)).mono (by decide)⟩
  | false =>
    have hcount : TargetOnly c (arrivalRegs c) s (cntUp (lookedUp s c ecc p l) (cellReg c 3 0x81C) 8 8 1) :=
      lookedUp_only.trans (.cntUp _ _ _ _ (by simp [arrivalRegs]))
    have hland := land_only (c := c) h.plain h.unicast h.plainPacket.cmd (cntUp (lookedUp s c ecc p l) (cellReg c 3 0x81C) 8 8 1)
    have hlanded := landed_land (c := c) h.plain h.unicast (arrivalRegs c) (cntUp (lookedUp s c ecc p l) (cellReg c 3 0x81C) 8 8 1)
    generalize hv : land (cntUp (lookedUp s c ecc p l) (cellReg c 3 0x81C) 8 8 1) c p = v at hland hlanded
    have hresp : (punit v (.ni c)).resp = (punit s (.ni c)).resp := by rw [hland.resp, punit_cntUp, resp_lookedUp]
    have hnext := strangeArrival_lands (c := c) hf (hanswer.resolve_left (by rw [hf]; decide)) (lookedUp s c ecc p l)
    rw [hv] at hnext
    have hlast (j : Nat) : lastOf v c j = lastOf (lookedUp s c ecc p l) c j := by rw [hland.lastOf, lastOf_cntUp]
    simp only [← hlast] at hlasts
    obtain ⟨hkept, hfreed, hothers⟩ := hlasts
    refine ⟨_, _, hexec _ hnext (respFits_of_le h.taken.1 (by simp [hresp])), responded_ackPkt hresp lookedUp_only.sameReplies,
      ackPkt_status .., hcount.landed_of (TargetOnly.landed_to (.pushResp _ _) hlanded), ?_, ?_, ?_, ?_, ?_⟩
    · rw [rdF, show rd (pushResp v (.ni c) _) (cellReg c 3 0x81C) = rd v (cellReg c 3 0x81C) from rfl,
        hland.rd_cell (noticeRing_lt ..) (by decide) (by decide)]
      exact rdF_refused_lookedUp
    · simpa only [lastOf_pushResp] using hkept
    · simpa only [lastOf_pushResp] using hfreed
    · simpa only [lastOf_pushResp] using hothers
    · exact pushResp_touches _ _ (by decide) ((lookedUp_touches.mono (by decide)).trans
        ((cntUp_touches _ _ _ _ (by decide) (.refl _ _)).trans hland.touches))

end

/-- R84, R100, R101, R383: what becomes of a packet on a stream. -/
theorem streamArrivals : Sys2Proof.Claim.StreamArrivals := by
  intro c ecc p s i x n ks hreq ht hgood hm hstv hcs hx hn hks
  subst hn hks
  have h : OnStream i c ecc p s := ⟨hreq, ht, hgood, hm, hstv, hcs⟩
  refine ⟨arrives_counted h hx, arrives_held h hx, arrives_refused h hx, fun y hmatch hread hf hheld hgen hcount hcmd hfit hcmd' hm' hcs'
    hfit' hroom => ?_, arrives_strange h hx⟩
  obtain ⟨t, z, w, hnext, hresp, hz, hw, hmem, hlast, hothers, hregs, htouch⟩ :=
    arrives_releasing h hx hmatch hread ⟨hf, hheld, hgen, hcount⟩ ⟨hcmd, hm, hcs, hfit⟩ ⟨hcmd', hm', hcs', hfit'⟩ hroom
  refine ⟨t, z, w, hnext, hresp, hz, hw, fun a => ?_, ?_, hothers, hregs, htouch⟩
  · rw [hmem, memGet_memPuts, memGet_memPuts]
  · rw [hlast, releasedLast, countedLast, hf, hgen]
    rfl

/-- Settles O39: a WRITE of no stream by whether it fits; one of a stream by what its Last entry says of it. -/
theorem writePlacesAndAcks : Obligations.WritePlacesAndAcks := ⟨writePlacesAndAcks_claim, streamArrivals⟩

end Sys2Proof.Machine

/-! # A warm swap is armed and cancelled (R132, R140, R295)

A write of WARM_CTRL is served like any other; its block stores the armed time or drops it, and PENDING follows. -/

namespace Sys2Proof.Machine

/-! ## What WARM_CTRL does -/

section
variable (s : State) (w : WeltDom) (v : Word)

/-- The swap of a field or a gateway waits for the time that its registers hold (R140). -/
def warmArmed : State :=
  wrF { s with warm := s.warm.set (warmBase w + 12) (warmTime s w, (dom s (warmDom w)).ticks) } (warmBase w + 12) 8 1 1

/-- No swap of the field or gateway waits (R132). -/
def warmDropped : State := wrF { s with warm := s.warm.erase (warmBase w + 12) } (warmBase w + 12) 8 1 0

/-- R295: no table of the gateway has taken the swap ahead of its band. -/
def noneAhead : State :=
  match w with
  | .field _ => s
  | .gw o => updOpt s o (fun x => { x with ahead := [] })

@[simp] theorem noneAhead_warm : (noneAhead s w).warm = s.warm := by
  cases w with
  | field f => rfl
  | gw o => exact updOpt_warm ..

@[simp] theorem rd_noneAhead (k : Nat) : rd (noneAhead s w) k = rd s k := by
  cases w with
  | field f => rfl
  | gw o => exact rd_updOpt ..

theorem warmArmed_regs : RegsBut [warmBase w + 12] s (warmArmed s w) := fun _ hj => rd_wrF_ne _ _ _ _ (List.ne_of_not_mem_cons hj)

theorem warmDropped_regs : RegsBut [warmBase w + 12] s (warmDropped s w) := fun _ hj => rd_wrF_ne _ _ _ _ (List.ne_of_not_mem_cons hj)

theorem warmArmed_find (k : Nat) : (warmArmed s w).warm.find k =
    (s.warm.set (warmBase w + 12) (warmTime s w, (dom s (warmDom w)).ticks)).find k := rfl

theorem warmDropped_find (k : Nat) : (warmDropped s w).warm.find k = (s.warm.erase (warmBase w + 12)).find k := rfl

/-- The state that a CANCEL finds: with the swap of its own write's ARM, if that has one. -/
def armedIf (b : Bool) : State := if b then warmArmed s w else s

theorem armedIf_regs (b : Bool) : RegsBut [warmBase w + 12] s (armedIf s w b) := by
  cases b with
  | false => exact .refl _ s
  | true => exact warmArmed_regs s w

theorem armedIf_find_ne (b : Bool) {k : Nat} (hk : k ≠ warmBase w + 12) : (armedIf s w b).warm.find k = s.warm.find k := by
  cases b with
  | false => rfl
  | true => exact FMap.find_set_ne _ _ hk

/-- An ARM without CANCEL. -/
theorem warmCtrl_arms (ha : bit v 0 = true) (hc : bit v 1 = false) : warmCtrl s w v = noneAhead (warmArmed s w) w := by
  unfold warmCtrl
  rw [ha, hc]
  cases w <;> rfl

/-- A CANCEL drops what waits, an ARM of the same write with it (log entry 38). -/
theorem warmCtrl_cancels (hc : bit v 1 = true) : warmCtrl s w v = noneAhead (warmDropped (armedIf s w (bit v 0)) w) w := by
  unfold warmCtrl
  rw [hc, Bool.or_true]
  cases w <;> rfl

end

/-! ## The write of WARM_CTRL -/

section
variable {s : State} {w : WeltDom} (g : Fin 32) (v : Word)

/-- The state in which WARM_CTRL takes what was written: a gateway's block has stored the register again as it was. -/
def warmKept (s : State) (w : WeltDom) : State :=
  match w with
  | .field _ => s
  | .gw _ => rewritten s (warmBase w + 12)

theorem warmKept_regs (ks : List Nat) : RegsBut ks s (warmKept s w) := by
  cases w with
  | field f => exact .refl ks s
  | gw o => exact .rewritten ks s _

theorem warmKept_touches : Touches [.regs] s (warmKept s w) := by
  cases w with
  | field f => exact .refl _ s
  | gw o => exact rewritten_touches s _

@[simp] theorem warmKept_warm : (warmKept s w).warm = s.warm := by cases w <;> rfl

@[simp] theorem dom_warmKept (d : Nat) : dom (warmKept s w) d = dom s d := by cases w <;> rfl

theorem warmTime_warmKept (w' : WeltDom) : warmTime (warmKept s w') w = warmTime s w := by
  simp only [warmTime, warmKept_regs [] _ List.not_mem_nil]

theorem fieldCtrl_key (f : Fin 48) : warmBase (.field f) + 12 = fieldReg f.val 2 12 := by
  simp only [warmBase, fieldReg, regKey]

theorem gwCtrl_key (o : OptId) : warmBase (.gw o) + 12 = gwReg o.gw 0 0x2C := by
  simp only [warmBase, gwReg_at]

/-- The row of CELL_WARM_CTRL (R140). -/
def fieldCtrlRow : RegRow := ⟨0xC, 4, 1, 0, 0, 0, 0, false⟩

/-- The row of GW_WARM_CTRL (R297). -/
def gwCtrlRow : RegRow := ⟨0x2C, 4, 1, 0, 0, 0, 0, false⟩

section
variable (f : Nat) {b o : Nat} (hb : b < 32) (ho : o < 65536)
include hb ho

theorem keyDom_fieldReg : keyDom (fieldReg f b o) = f := keyDom_regKey _ (by decide) hb ho

theorem keyCell_fieldReg : keyCell (fieldReg f b o) = 2047 := keyCell_regKey _ (by decide) hb ho

theorem rowOf_fieldReg : rowOf (fieldReg f b o) = (blockRows f 2047 b).bind (fun rows => findRow rows o) := by
  unfold rowOf
  rw [keyDom_fieldReg f hb ho, keyCell_fieldReg f hb ho, fieldReg, keyBlk_regKey _ _ hb ho, keyOff_regKey _ _ _ ho]
  cases blockRows f 2047 b <;> rfl

end

theorem rowOf_fieldCtrl (f : Fin 48) : rowOf (fieldReg f.val 2 12) = some fieldCtrlRow := by
  have hblock : blockRows f.val 2047 2 = some warmRows := (if_pos f.isLt).trans rfl
  rw [rowOf_fieldReg _ (by decide) (by decide), hblock]
  exact (by decide : findRow warmRows 12 = some fieldCtrlRow)

theorem writeBy_fieldCtrl {f : Fin 48} (h : MgmtServes s (fieldReg f.val 2 12)) :
    writeBy s (.mgmt g) (fieldReg f.val 2 12) v = answer (warmCtrl s (.field f) v) (.mgmt g) 0 0 none := by
  have hdom : keyDom (fieldReg f.val 2 12) = f.val := keyDom_fieldReg _ (by decide) (by decide)
  have hcell : keyCell (fieldReg f.val 2 12) = 2047 := keyCell_fieldReg _ (by decide) (by decide)
  have hblk : keyBlk (fieldReg f.val 2 12) = 2 := keyBlk_regKey _ _ (by decide) (by decide)
  have hoff : keyOff (fieldReg f.val 2 12) = 12 := keyOff_regKey _ _ _ (by decide)
  have hwrite : blockWrite s (.mgmt g) true (fieldReg f.val 2 12) fieldCtrlRow v = warmCtrl s (.field f) v := by
    simp [blockWrite, hdom, hcell, hblk, hoff, Fin.ofNat, Nat.mod_eq_of_lt f.isLt]
  have hbar : fieldReg f.val 2 12 < barBase := by
    unfold fieldReg regKey barBase
    omega
  rw [writeBy_block g v h hbar (rowOf_fieldCtrl f) (by simp [absentPort, hcell]) BitVec.and_zero (.inl (by omega)), hwrite]

theorem writeBy_gwCtrl {o : OptId} (h : MgmtServes s (gwReg o.gw 0 0x2C)) :
    writeBy s (.mgmt g) (gwReg o.gw 0 0x2C) v =
      answer (warmCtrl (rewritten s (gwReg o.gw 0 0x2C)) (.gw o) v) (.mgmt g) 0 0 none := by
  have hrow : findRow gwRows 0x2C = some gwCtrlRow := by decide
  have hwrite : gwWriteReg s o.gw 0 0x2C (gwReg o.gw 0 0x2C) gwCtrlRow v = warmCtrl (rewritten s (gwReg o.gw 0 0x2C)) (.gw o) v := by
    unfold gwWriteReg
    rw [plainWrite_ro _ rfl rfl]
    rfl
  exact (writeBy_unit (u := .gw o.gw) (n := 0x2C) (row := gwCtrlRow) g v (by decide) (by decide) h hrow BitVec.and_zero).trans
    (congrArg (fun t => answer t (.mgmt g) 0 0 none) hwrite)

/-- R132: a served write of WARM_CTRL, of a field or of a gateway. -/
theorem writeBy_warmCtrl (h : MgmtServes s (warmBase w + 12)) :
    writeBy s (.mgmt g) (warmBase w + 12) v = answer (warmCtrl (warmKept s w) w v) (.mgmt g) 0 0 none := by
  cases w with
  | field f =>
    rw [fieldCtrl_key] at h ⊢
    exact writeBy_fieldCtrl g v h
  | gw o =>
    have hkept : warmKept s (.gw o) = rewritten s (gwReg o.gw 0 0x2C) := congrArg (rewritten s) (gwCtrl_key o)
    rw [hkept]
    rw [gwCtrl_key] at h ⊢
    exact writeBy_gwCtrl g v h

theorem warmArm_exec (h : MgmtServes s (warmBase w + 12)) :
    exec (.warmArm (.mgmt g) w v) s = .next (answer (warmCtrl (warmKept s w) w (v ||| 1)) (.mgmt g) 0 0 none) :=
  congrArg Host.Outcome.next (writeBy_warmCtrl g (v ||| 1) h)

theorem warmCancel_exec (h : MgmtServes s (warmBase w + 12)) :
    exec (.warmCancel (.mgmt g) w v) s = .next (answer (warmCtrl (warmKept s w) w (v ||| 2)) (.mgmt g) 0 0 none) :=
  congrArg Host.Outcome.next (writeBy_warmCtrl g (v ||| 2) h)

theorem warmCtrl_frame : Touches [.regs, .gws, .warm, .resp] s (answer (warmCtrl (warmKept s w) w v) (.mgmt g) 0 0 none) :=
  (warmCtrl_touches w v (by decide) (warmKept_touches.mono (by decide))).answer (by decide)

/-- R132, R140: WARM_ARM without CANCEL. -/
theorem warmArm_arms (h : MgmtServes s (warmBase w + 12)) (hc : bit v 1 = false) :
    ∃ t, exec (.warmArm (.mgmt g) w v) s = .next t ∧ AnsweredOk t g ∧
      t.warm.find (warmBase w + 12) = some (warmTime s w, (dom s (warmDom w)).ticks) ∧ bit (rd t (warmBase w + 12)) 8 = true ∧
      (∀ k, k ≠ warmBase w + 12 → t.warm.find k = s.warm.find k) ∧
      RegsBut [warmBase w + 12] s t ∧ Touches [.regs, .gws, .warm, .resp] s t := by
  have harm : bit (v ||| 1) 0 = true := by rw [bit_or, show bit (1 : Word) 0 = true by decide, Bool.or_true]
  have hkeep : bit (v ||| 1) 1 = false := by rw [bit_or, hc]; rfl
  have hframe := warmCtrl_frame (s := s) (w := w) g (v ||| 1)
  have hexec := warmArm_exec g v h
  rw [warmCtrl_arms _ w _ harm hkeep] at hexec hframe
  have hwarm (k : Nat) : (answer (noneAhead (warmArmed (warmKept s w) w) w) (.mgmt g) 0 0 none).warm.find k =
      (s.warm.set (warmBase w + 12) (warmTime s w, (dom s (warmDom w)).ticks)).find k := by
    show (noneAhead (warmArmed (warmKept s w) w) w).warm.find k = _
    rw [noneAhead_warm, warmArmed_find, warmKept_warm, warmTime_warmKept, dom_warmKept]
  refine ⟨_, hexec, answer_mgmt_status .., ?_, ?_, fun k hk => ?_, RegsBut.answer fun j hj => ?_, hframe⟩
  · rw [hwarm, FMap.find_set_same]
  · rw [rd_answer, rd_noneAhead, warmArmed, rd_wrF_same]
    exact bit_put_b2n _ true (by decide)
  · rw [hwarm, FMap.find_set_ne _ _ hk]
  · rw [rd_noneAhead, warmArmed_regs _ _ j hj, warmKept_regs _ j hj]

/-- R132: WARM_CANCEL. -/
theorem warmCancel_drops (h : MgmtServes s (warmBase w + 12)) :
    ∃ t, exec (.warmCancel (.mgmt g) w v) s = .next t ∧ AnsweredOk t g ∧
      t.warm.find (warmBase w + 12) = none ∧ bit (rd t (warmBase w + 12)) 8 = false ∧
      (∀ k, k ≠ warmBase w + 12 → t.warm.find k = s.warm.find k) ∧
      RegsBut [warmBase w + 12] s t ∧ Touches [.regs, .gws, .warm, .resp] s t := by
  have hcancel : bit (v ||| 2) 1 = true := by rw [bit_or, show bit (2 : Word) 1 = true by decide, Bool.or_true]
  have hframe := warmCtrl_frame (s := s) (w := w) g (v ||| 2)
  have hexec := warmCancel_exec g v h
  rw [warmCtrl_cancels _ w _ hcancel] at hexec hframe
  generalize bit (v ||| 2) 0 = b at hexec hframe
  have hwarm (k : Nat) : (answer (noneAhead (warmDropped (armedIf (warmKept s w) w b) w) w) (.mgmt g) 0 0 none).warm.find k =
      ((armedIf (warmKept s w) w b).warm.erase (warmBase w + 12)).find k := by
    show (noneAhead (warmDropped (armedIf (warmKept s w) w b) w) w).warm.find k = _
    rw [noneAhead_warm, warmDropped_find]
  refine ⟨_, hexec, answer_mgmt_status .., ?_, ?_, fun k hk => ?_, RegsBut.answer fun j hj => ?_, hframe⟩
  · rw [hwarm, FMap.find_erase_same]
  · rw [rd_answer, rd_noneAhead, warmDropped, rd_wrF_same]
    exact bit_put_zero _ (by decide)
  · rw [hwarm, FMap.find_erase_ne _ hk, armedIf_find_ne _ _ b hk, warmKept_warm]
  · rw [rd_noneAhead, warmDropped_regs _ _ j hj, armedIf_regs _ _ b j hj, warmKept_regs _ j hj]

end

/-- Settles O14: the write of WARM_CTRL is served at once, and stores the armed time or drops it. -/
theorem warmArmAndCancel : Obligations.WarmArmAndCancel :=
  fun g _ v _ h => ⟨warmArm_arms g v h, warmCancel_drops g v h⟩

end Sys2Proof.Machine

/-! # A CIRCUIT_OPEN that fails while Meridian is UNSYNC (R133, R258, R330)

Bit 55 of a completion entry says whether Meridian was UNSYNC when the time was compared, and a CIRCUIT_OPEN compares its time before
its checks (R133). The statement's entry of a failed one keeps the bit as it was before. -/

namespace Sys2Proof.Machine

section
open Sys2Proof.Tests

/-- A CIRCUIT_OPEN that waits for its time. -/
def waitingOpen : Ctx := { tCtx dOpen with st := .waiting }

/-- Its time has come in a field that is UNSYNC, and the L input map is empty. -/
def opensUnsync : State :=
  updDom (tOpenAt waitingOpen 0) c34.field (fun x => { x with mer := { x.mer with unsync := true } })

theorem opensUnsync_lone : LoneCtx opensUnsync (.ni c34) 5 waitingOpen :=
  loneCtx_ni (by decide +kernel)

theorem opensUnsync_due : waitingCtx opensUnsync (.ni c34) (0 : Fin 16).val 4 = some (5, waitingOpen) ∧
    timeReached opensUnsync c34.field (openAt waitingOpen.desc) = true ∧
    (∀ i, i < 64 → inName (rd opensUnsync (winKey c34 4 i)) ≠ some (df waitingOpen.desc 152 4)) := by
  decide +kernel

/-- The entry's seventh byte has UNSYNC set. -/
theorem opensUnsync_entry : memGet (circuitOpenTime opensUnsync c34 (0 : Fin 16).val).mem
    (entryAddr opensUnsync (.ni c34) waitingOpen.cq + 6) = 0x80 := by
  decide +kernel

/-- Refutes O50: a CIRCUIT_OPEN whose welt index the L input map lacks, in a field that is UNSYNC, completes with UNSYNC set, which
the statement's entry has not. -/
theorem not_circuits : ¬ Obligations.Circuits := by
  intro h
  obtain ⟨⟨_, hfails, _⟩, _⟩ := h
  obtain ⟨hwaits, htime, hmap⟩ := opensUnsync_due
  obtain ⟨t, hexec, ⟨⟨⟨_, _, hbytes⟩, _⟩, _⟩, _⟩ := hfails c34 0 _ _ _ opensUnsync_lone hwaits htime hmap
  have ht : circuitOpenTime opensUnsync c34 (0 : Fin 16).val = t := Host.Outcome.next.inj hexec
  have hbyte := hbytes 6 (by decide)
  rw [← ht, opensUnsync_entry] at hbyte
  exact absurd hbyte (by decide +kernel)

end

end Sys2Proof.Machine

/-! # Shaper refills (R150, R152)

A refill goes over the shapers of a field whose W0 is written, each once, since the register numbers rise. What it gives a queue rests
on that queue's shaper and its W0 and W1, none of which the refill of another queue changes. -/

namespace Sys2Proof.Machine

/-! ## Parts of a fold -/

theorem foldl_keeps {σ ι β : Type} {f : σ → ι → σ} {g : σ → β} {l : List ι} (h : ∀ b ∈ l, ∀ s, g (f s b) = g s) (s : σ) :
    g (l.foldl f s) = g s :=
  List.foldlRecOn l f (motive := fun t => g t = g s) rfl fun t ht b hb => (h b hb t).trans ht

/-- Where step `a` gives its part the value `next`, and the other steps change neither, the fold gives that part the value `next` of
the state before. -/
theorem foldl_own_part {σ ι β : Type} {f : σ → ι → σ} {part next : σ → β} {a : ι} {l : List ι} (ha : a ∈ l) (hl : l.Nodup)
    (hpart : ∀ b ∈ l, b ≠ a → ∀ s, part (f s b) = part s) (hnext : ∀ b ∈ l, b ≠ a → ∀ s, next (f s b) = next s)
    (hdo : ∀ s, part (f s a) = next s) (s : σ) : part (l.foldl f s) = next s := by
  obtain ⟨l₁, l₂, rfl⟩ := List.append_of_mem ha
  obtain ⟨hnot, -⟩ := List.nodup_cons.1 (List.nodup_middle.1 hl)
  have hne : ∀ b, b ∈ l₁ ++ l₂ → b ≠ a := fun b hb e => hnot (e ▸ hb)
  rw [List.foldl_append, List.foldl_cons]
  calc part (l₂.foldl f (f (l₁.foldl f s) a))
      = part (f (l₁.foldl f s) a) := foldl_keeps (fun b hb => hpart b (by simp [hb]) (hne b (by simp [hb]))) _
    _ = next (l₁.foldl f s) := hdo _
    _ = next s := foldl_keeps (fun b hb => hnext b (by simp [hb]) (hne b (by simp [hb]))) _

theorem FMap.keys_nodup {α : Type} {m : FMap α} (h : m.rising = true) : (m.map Prod.fst).Nodup := by
  induction m with
  | nil => exact List.nodup_nil
  | cons e r ih =>
    obtain ⟨hlow, hr⟩ := (FMap.rising_cons e.1 e.2 r).1 h
    refine List.nodup_cons.2 ⟨fun hmem => ?_, ih hr⟩
    obtain ⟨x, hx, he⟩ := List.mem_map.1 hmem
    exact Nat.lt_irrefl _ (he ▸ hlow x hx)

/-! ## The shapers of a field -/

theorem shaperAt_eq_some {f k : Nat} {x : Nat × Nat} :
    shaperAt f k = some x ↔ k = regKey f x.1 3 (0xB100 + 0x10 * x.2) ∧ x.1 < 1200 ∧ x.2 < 16 := by
  obtain ⟨n, q⟩ := x
  simp only [shaperAt, regKey, Option.ite_none_right_eq_some, Option.some.injEq, Prod.mk.injEq]
  omega

/-- The queues of a field whose W0 is written: cell number and queue. -/
def shapedQueues (s : State) (f : Nat) : List (Nat × Nat) := s.regs.filterMap (fun x => shaperAt f x.1)

theorem shapedQueues_nodup {s : State} (h : s.regs.rising = true) (f : Nat) : (shapedQueues s f).Nodup := by
  have hkeys : shapedQueues s f = (s.regs.map Prod.fst).filterMap (shaperAt f) := by
    rw [List.filterMap_map]
    rfl
  rw [hkeys]
  refine (FMap.keys_nodup h).filterMap fun k k' x hk hk' => ?_
  rw [(shaperAt_eq_some.1 hk).1, (shaperAt_eq_some.1 hk').1]

theorem shapedQueues_bounds {s : State} {f : Nat} {x : Nat × Nat} (h : x ∈ shapedQueues s f) : x.1 < 1200 ∧ x.2 < 16 := by
  obtain ⟨_, -, hx⟩ := List.mem_filterMap.1 h
  exact (shaperAt_eq_some.1 hx).2

theorem mem_shapedQueues {s : State} {c : Cell} {q : Nat} {v : Word} (hq : q < 16)
    (h : s.regs.find (cellReg c 3 (0xB100 + 0x10 * q)) = some v) : (c.num, q) ∈ shapedQueues s c.field :=
  List.mem_filterMap.2 ⟨_, FMap.mem_of_find h, shaperAt_eq_some.2 ⟨rfl, cell_num_lt c, hq⟩⟩

/-! ## The refill of one queue -/

/-- R150, R152: a queue's shaper after a refill. -/
def refilled (s : State) (c : Cell) (q : Nat) : Shaper :=
  let k := cellReg c 3 (0xB100 + 0x10 * q)
  { enable := bit (rd s k) 31, ovh := rdF s k 16 8,
    credit := if bit (rd s k) 31 then
      min ((max (rdF s (k + 4) 0 20) (rdF s k 0 16) : Nat) : Int) ((shaper s (.ni c) q).credit + (rdF s k 0 16 : Nat)) else 0 }

/-- A queue's shaper replaced. -/
def withShaper (s : State) (c : Cell) (q : Nat) (x : Shaper) : State :=
  updUnit s (.ni c) (fun p => { p with shapers := p.shapers.set q x })

theorem shaper_withShaper_same (s : State) (c : Cell) (q : Nat) (x : Shaper) : shaper (withShaper s c q x) (.ni c) q = x := by
  simp [shaper, withShaper]

theorem shaper_withShaper_ne (s : State) {c c' : Cell} {q q' : Nat} (x : Shaper) (h : c' ≠ c ∨ q' ≠ q) :
    shaper (withShaper s c' q' x) (.ni c) q = shaper s (.ni c) q := by
  by_cases hc : c' = c
  · subst hc
    have hq : q ≠ q' := (h.resolve_left (· rfl)).symm
    simp [shaper, withShaper, FMap.get_set_ne _ _ _ hq]
  · have hkey : (UnitRef.ni c).key ≠ (UnitRef.ni c').key := fun e => hc (cellKey_inj (b := c) (c := c') e).symm
    rw [shaper, withShaper, punit_updUnit_ne _ _ hkey, shaper]

/-- R152, R162: a refill replaces the shaper, and may count in W3. -/
theorem refillQueue_cases (s : State) (c : Cell) (q : Nat) :
    refillQueue s c q = withShaper s c q (refilled s c q) ∨
      refillQueue s c q = cntUp (withShaper s c q (refilled s c q)) (cellReg c 3 (0xB100 + 0x10 * q) + 12) 0 16 1 :=
  (ite_eq_or_eq ..).symm

theorem shaper_refillQueue_same (s : State) (c : Cell) (q : Nat) : shaper (refillQueue s c q) (.ni c) q = refilled s c q := by
  obtain h | h := refillQueue_cases s c q
  · rw [h, shaper_withShaper_same]
  · rw [h, shaper, punit_cntUp]
    exact shaper_withShaper_same ..

theorem shaper_refillQueue_ne (s : State) {c c' : Cell} {q q' : Nat} (h : c' ≠ c ∨ q' ≠ q) :
    shaper (refillQueue s c' q') (.ni c) q = shaper s (.ni c) q := by
  obtain he | he := refillQueue_cases s c' q'
  · rw [he, shaper_withShaper_ne s _ h]
  · rw [he, shaper, punit_cntUp]
    exact shaper_withShaper_ne s _ h

theorem rd_refillQueue {s : State} {c : Cell} {q k : Nat} (h : k ≠ cellReg c 3 (0xB100 + 0x10 * q) + 12) :
    rd (refillQueue s c q) k = rd s k := by
  obtain he | he := refillQueue_cases s c q
  · rw [he]
    rfl
  · rw [he, rd_cntUp_ne _ _ _ _ h]
    rfl

/-- The words W0 and W1 are no queue's W3. -/
theorem shaperWord_ne_count (c c' : Cell) (q q' : Nat) {w : Nat} (hw : w = 0 ∨ w = 4) :
    cellReg c 3 (0xB100 + 0x10 * q) + w ≠ cellReg c' 3 (0xB100 + 0x10 * q') + 12 := by
  simp only [cellReg, regKey]
  omega

theorem refilled_refillQueue_ne (s : State) {c c' : Cell} {q q' : Nat} (h : c' ≠ c ∨ q' ≠ q) :
    refilled (refillQueue s c' q') c q = refilled s c q := by
  have hW0 := rd_refillQueue (s := s) (shaperWord_ne_count c c' q q' (.inl rfl))
  have hW1 := rd_refillQueue (s := s) (shaperWord_ne_count c c' q q' (.inr rfl))
  simp only [Nat.add_zero] at hW0
  simp only [refilled, rdF, hW0, hW1, shaper_refillQueue_ne s h]

/-! ## The refill of a field -/

/-- R152: the refill of every queue of a list, once each, refills a queue of the list. -/
theorem refillQueues_shaper {f q : Nat} {c : Cell} {l : List (Nat × Nat)} (hl : l.Nodup) (hb : ∀ x ∈ l, x.1 < 1200)
    (hc : c.field = f) (hmem : (c.num, q) ∈ l) (s : State) :
    shaper (l.foldl (fun t x => refillQueue t (cellOf f x.1) x.2) s) (.ni c) q = refilled s c q := by
  have hne : ∀ x ∈ l, x ≠ (c.num, q) → cellOf f x.1 ≠ c ∨ x.2 ≠ q := by
    intro x hx hxne
    refine or_iff_not_imp_left.2 fun hcell hq => hxne (Prod.ext ?_ hq)
    rw [← not_not.1 hcell, num_cellOf (hb x hx)]
  refine foldl_own_part (part := fun t => shaper t (.ni c) q) (next := fun t => refilled t c q) hmem hl
    (fun x hx hxne t => shaper_refillQueue_ne t (hne x hx hxne))
    (fun x hx hxne t => refilled_refillQueue_ne t (hne x hx hxne)) (fun t => ?_) s
  rw [← hc, cellOf_field_num]
  exact shaper_refillQueue_same t c q

theorem dom_refillQueues (s : State) (f d : Nat) (l : List (Nat × Nat)) :
    dom (l.foldl (fun t x => refillQueue t (cellOf f x.1) x.2) s) d = dom s d :=
  foldl_keeps (g := fun t => dom t d) (fun x _ t => by
    have hdoms : (refillQueue t (cellOf f x.1) x.2).doms = t.doms :=
      (refillQueue_touches (m := [.regs, .units]) _ _ (List.Subset.refl _) (Touches.refl _ t)).stays .doms (by decide)
    unfold dom
    rw [hdoms]) s

theorem shaperRefill_due {s : State} {f : Nat} (hclk : clocked s f = true) (hdue : (dom s f).refills ≤ (dom s f).ticks / 256) :
    shaperRefill s f = updDom ((shapedQueues s f).foldl (fun t x => refillQueue t (cellOf f x.1) x.2) s) f
      (fun d => { d with refills := d.refills + 1 }) :=
  if_pos ⟨hclk, hdue⟩

/-- R150, R152: a refill that is due, at a shaper that is written. -/
theorem shaperRefill_refills (f : Fin 48) (c : Cell) (q : Fin 16) (s : State) (v : Word) (hclk : clocked s f.val = true)
    (hc : c.field = f.val) (hdue : (dom s f.val).refills ≤ (dom s f.val).ticks / 256) (hrise : FMap.rising s.regs = true)
    (hv : s.regs.find (cellReg c 3 (0xB100 + 0x10 * q.val)) = some v) :
    ∃ t, exec (.shaperRefill f) s = .next t ∧ (dom t f.val).refills = (dom s f.val).refills + 1 ∧
      (shaper t (.ni c) q.val).credit =
        (if bit v 31 then min ((max (rdF s (cellReg c 3 (0xB104 + 0x10 * q.val)) 0 20) (bits v 0 16) : Nat) : Int)
          ((shaper s (.ni c) q.val).credit + (bits v 0 16 : Nat)) else 0) ∧
      (shaper t (.ni c) q.val).enable = bit v 31 ∧ Touches [.regs, .units, .doms] s t := by
  have hmem : (c.num, q.val) ∈ shapedQueues s f.val := hc ▸ mem_shapedQueues q.isLt hv
  have hshaper : shaper (shaperRefill s f.val) (.ni c) q.val = refilled s c q.val := by
    rw [shaperRefill_due hclk hdue]
    exact refillQueues_shaper (shapedQueues_nodup hrise _) (fun x hx => (shapedQueues_bounds hx).1) hc hmem s
  have hW0 : rd s (cellReg c 3 (0xB100 + 0x10 * q.val)) = v := by rw [rd, FMap.get, hv, Option.getD_some]
  have hrate : rdF s (cellReg c 3 (0xB100 + 0x10 * q.val)) 0 16 = bits v 0 16 := by rw [rdF, hW0]
  have hW1 : cellReg c 3 (0xB104 + 0x10 * q.val) = cellReg c 3 (0xB100 + 0x10 * q.val) + 4 := by
    simp only [cellReg_at]
    omega
  refine ⟨shaperRefill s f.val, rfl, ?_, ?_, ?_, shaperRefill_touches _ (List.Subset.refl _) (Touches.refl _ s)⟩
  · rw [shaperRefill_due hclk hdue, dom_updDom_same, dom_refillQueues]
  · rw [hshaper, hW1, refilled, hW0, hrate]
  · rw [hshaper, refilled, hW0]

end Sys2Proof.Machine

/-! # Meter updates (R153, R154, R157)

An update steps the meters of classes 1 to 3 one after another. What it makes of one rests on that meter and its registers; of the
registers a step changes at most the fourth of its own class. -/

namespace Sys2Proof.Machine

/-! ## The meter of one class -/

/-- R153, R154: the meter of a class after an update. -/
def meterNext (s : State) (g : GwId) (k : Nat) : Meter :=
  let m := (gw s g).meters.get k Meter.init
  if bit (rd s (meterKey g k 3)) 0 = false then { m with enable := false }
  else if m.enable = false then { enable := true, tc := meterSize s g k 1, tp := meterSize s g k 2 }
  else { m with
    tc := min (meterSize s g k 1) (m.tc + meterGain g (rdF s (meterKey g k 0) 0 16))
    tp := min (meterSize s g k 2) (m.tp + meterGain g (max (rdF s (meterKey g k 0) 0 16) (rdF s (meterKey g k 0) 16 16))) }

/-- The meter of a class replaced. -/
def withMeter (s : State) (g : GwId) (k : Nat) (m : Meter) : State :=
  updGw s g (fun x => { x with meters := x.meters.set k m })

/-- R154, R157: a step replaces the meter, and may set the bit that says that PIR lies below CIR. -/
theorem meterStep_cases (s : State) (g : GwId) (k : Nat) :
    meterStep s g k = withMeter s g k (meterNext s g k) ∨
      meterStep s g k = setBits (withMeter s g k (meterNext s g k)) (meterKey g k 3) 2 :=
  (ite_eq_or_eq ..).symm

theorem gw_meterStep (s : State) (g : GwId) (k : Nat) :
    gw (meterStep s g k) g = { gw s g with meters := (gw s g).meters.set k (meterNext s g k) } := by
  obtain h | h := meterStep_cases s g k
  · rw [h, withMeter, gw_updGw_same]
  · rw [h, gw_setBits, withMeter, gw_updGw_same]

theorem rd_meterStep {s : State} {g : GwId} {k j : Nat} (h : j ≠ meterKey g k 3) : rd (meterStep s g k) j = rd s j := by
  obtain he | he := meterStep_cases s g k
  · rw [he]
    rfl
  · rw [he, rd_setBits_ne _ _ h]
    rfl

theorem meterKey_ne (g : GwId) {k j w : Nat} (hk : 1 ≤ k) (hj : 1 ≤ j) (hne : j ≠ k) (hw : w < 8) :
    meterKey g k w ≠ meterKey g j 3 := by
  simp only [meterKey, gwReg, regKey]
  omega

/-- What an update makes of a class does not rest on the update of another. -/
theorem meterNext_meterStep_ne (s : State) (g : GwId) {k j : Nat} (hk : 1 ≤ k) (hj : 1 ≤ j) (hne : j ≠ k) :
    meterNext (meterStep s g j) g k = meterNext s g k := by
  have hword (w : Nat) (hw : w < 8) : rd (meterStep s g j) (meterKey g k w) = rd s (meterKey g k w) :=
    rd_meterStep (meterKey_ne g hk hj hne hw)
  have hsize (w : Nat) (hw : w < 8) : meterSize (meterStep s g j) g k w = meterSize s g k w := by
    rw [meterSize, meterSize, rdF, hword w hw, rdF]
  have hmeter : (gw (meterStep s g j) g).meters.get k Meter.init = (gw s g).meters.get k Meter.init := by
    rw [gw_meterStep]
    exact FMap.get_set_ne _ _ _ hne.symm
  simp only [meterNext, rdF, hmeter, hsize 1 (by decide), hsize 2 (by decide), hword 0 (by decide), hword 3 (by decide)]

/-! ## The update of a gateway port -/

/-- R154: the steps of an update, before it is counted. -/
def metersStepped (s : State) (g : GwId) : State := [1, 2, 3].foldl (fun t k => meterStep t g k) s

theorem metersStepped_meter (s : State) (g : GwId) {k : Nat} (h1 : 1 ≤ k) (h3 : k ≤ 3) :
    (gw (metersStepped s g) g).meters.get k Meter.init = meterNext s g k := by
  have hlow : ∀ j ∈ [1, 2, 3], 1 ≤ j := by decide
  have hmem : k ∈ [1, 2, 3] := by
    simp only [List.mem_cons, List.not_mem_nil, or_false]
    omega
  refine foldl_own_part (part := fun t => (gw t g).meters.get k Meter.init) (next := fun t => meterNext t g k)
    hmem (by decide) (fun j _ hne t => ?_) (fun j hj hne t => ?_) (fun t => ?_) s
  · rw [gw_meterStep]
    exact FMap.get_set_ne _ _ _ hne.symm
  · exact meterNext_meterStep_ne t g h1 (hlow j hj) hne
  · rw [gw_meterStep]
    exact FMap.get_set_same ..

/-- The steps change nothing of a gateway port but its meters. -/
theorem metersStepped_beside {β : Type} (s : State) (g : GwId) {part : Gw → β} (h : ∀ x m, part { x with meters := m } = part x) :
    part (gw (metersStepped s g) g) = part (gw s g) :=
  foldl_keeps (g := fun t => part (gw t g)) (fun k _ t => by rw [gw_meterStep, h]) s

theorem meterUpdate_due {s : State} {g : GwId} (hg : hasMeters g = true) (hclk : clocked s g.dom = true)
    (hdue : (gw s g).updates ≤ cyc s (gwClkDom g) / 256) :
    meterUpdate s g = updGw (metersStepped s g) g
      (fun x => { x with updates := if x.updates = 0 then cyc s (gwClkDom g) / 256 + 1 else x.updates + 1 }) :=
  if_pos ⟨hg, hclk, hdue⟩

/-! ## What an update makes of a meter -/

section
variable {s : State} {g : GwId} {k : Nat} (hon : bit (rd s (meterKey g k 3)) 0 = true)
include hon

theorem meterNext_starts (hm : ((gw s g).meters.get k Meter.init).enable = false) :
    meterNext s g k = { enable := true, tc := meterSize s g k 1, tp := meterSize s g k 2 } := by
  simp only [meterNext, hon, hm, Bool.true_eq_false, if_false, if_true]

theorem meterNext_gains (hm : ((gw s g).meters.get k Meter.init).enable = true) :
    meterNext s g k = { (gw s g).meters.get k Meter.init with
      tc := min (meterSize s g k 1) (((gw s g).meters.get k Meter.init).tc + meterGain g (rdF s (meterKey g k 0) 0 16))
      tp := min (meterSize s g k 2) (((gw s g).meters.get k Meter.init).tp +
        meterGain g (max (rdF s (meterKey g k 0) 0 16) (rdF s (meterKey g k 0) 16 16))) } := by
  simp only [meterNext, hon, hm, Bool.true_eq_false, if_false]

end

theorem meterNext_enable (s : State) (g : GwId) (k : Nat) : (meterNext s g k).enable = bit (rd s (meterKey g k 3)) 0 := by
  cases hon : bit (rd s (meterKey g k 3)) 0
  · rw [meterNext, hon, if_pos rfl]
  · cases hm : ((gw s g).meters.get k Meter.init).enable
    · rw [meterNext_starts hon hm]
    · rw [meterNext_gains hon hm]
      exact hm

/-- R154: an update that is due, at the meter of a class. -/
theorem meterUpdate_updates (g : GwId) (k : Nat) (s : State) (h1 : 1 ≤ k) (h3 : k ≤ 3) (hg : hasMeters g = true)
    (hclk : clocked s g.dom = true) (hdue : (gw s g).updates ≤ cyc s (gwClkDom g) / 256) :
    ∃ t, exec (.meterUpdate g) s = .next t ∧
      (gw t g).updates = (if (gw s g).updates = 0 then cyc s (gwClkDom g) / 256 + 1 else (gw s g).updates + 1) ∧
      (gw t g).meters.get k Meter.init = meterNext s g k ∧
      (gw t g).opt = (gw s g).opt ∧ (gw t g).reqs = (gw s g).reqs ∧ Touches [.regs, .gws] s t := by
  have hupdates : (gw (metersStepped s g) g).updates = (gw s g).updates := metersStepped_beside s g fun _ _ => rfl
  have hmeter := metersStepped_meter s g h1 h3
  have hopt : (gw (metersStepped s g) g).opt = (gw s g).opt := metersStepped_beside s g fun _ _ => rfl
  have hreqs : (gw (metersStepped s g) g).reqs = (gw s g).reqs := metersStepped_beside s g fun _ _ => rfl
  have hframe := meterUpdate_touches g (List.Subset.refl _) (Touches.refl [.regs, .gws] s)
  refine ⟨meterUpdate s g, rfl, ?_⟩
  rw [meterUpdate_due hg hclk hdue] at hframe ⊢
  rw [gw_updGw_same, hupdates]
  exact ⟨rfl, hmeter, hopt, hreqs, hframe⟩

/-- Settles O38: a refill goes over each written shaper of the field once, an update over each meter of the port. -/
theorem creditsRefill : Obligations.CreditsRefill := by
  refine ⟨shaperRefill_refills, fun g k s h1 h3 hg hclk hdue => ?_⟩
  obtain ⟨t, hexec, hupdates, hmeter, hopt, hreqs, hframe⟩ := meterUpdate_updates g k s h1 h3 hg hclk hdue
  refine ⟨t, hexec, hupdates, ?_, fun hon hm => ?_, fun hon hm => ?_, hopt, hreqs, hframe⟩
  · rw [hmeter, meterNext_enable]
  · rw [hmeter, meterNext_starts hon hm]
    exact ⟨rfl, rfl⟩
  · rw [hmeter, meterNext_gains hon hm]
    exact ⟨rfl, rfl⟩

end Sys2Proof.Machine

/-! # Packets from an optical link (R153, R274, R293, R306, R307)

OPTICAL_INGRESS runs one VC, the first whose packet may go on: the packet is metered and routed, then its flits leave the ingress and
owe their credits. -/

namespace Sys2Proof.Machine

/-! ## What the meter leaves -/

/-- Of a gateway no more than its meters changed, and of the registers no more than the one numbered k. -/
structure MetersOnly (g : GwId) (k : Nat) (s t : State) : Prop where
  gw_eq : ∃ m, gw t g = { gw s g with meters := m }
  rd_eq : ∀ j, j ≠ k → rd t j = rd s j

/-- A count in register k, made or not. -/
theorem MetersOnly.cntUp_ite {g : GwId} {k lo len n : Nat} {s t : State} (h : MetersOnly g k s t) (p : Prop) [Decidable p] :
    MetersOnly g k s (if p then cntUp t k lo len n else t) := by
  split
  · exact ⟨h.gw_eq, fun j hj => (rd_cntUp_ne _ _ _ _ hj).trans (h.rd_eq j hj)⟩
  · exact h

/-- R154-R157, R163: the meter takes from its buckets, and counts in its seventh register. -/
theorem meterTake_metersOnly (s : State) (g : GwId) (cmd ndu cls : Nat) :
    MetersOnly g (meterKey g cls 6) s (meterTake s g cmd ndu cls).1 := by
  unfold meterTake
  extract_lets m size b c m1 s1 s2 a s3
  by_cases hoff : m.enable = false ∨ cls = 0
  · rw [if_pos hoff]
    exact ⟨⟨_, rfl⟩, fun _ _ => rfl⟩
  · rw [if_neg hoff]
    have h2 : MetersOnly g (meterKey g cls 6) s s2 :=
      ⟨⟨_, (show gw s2 g = gw s1 g from rfl).trans (gw_updGw_same ..)⟩, fun _ _ => rfl⟩
    have h3 : MetersOnly g (meterKey g cls 6) s s3 := h2.cntUp_ite _
    exact h3.cntUp_ite _

theorem opt_meterTake (s : State) (o : OptId) (cmd ndu cls : Nat) : opt (meterTake s o.gw cmd ndu cls).1 o = opt s o := by
  obtain ⟨m, h⟩ := (meterTake_metersOnly s o.gw cmd ndu cls).gw_eq
  rw [opt, h, opt]

/-! ## Metered packets -/

section
variable (s : State) (o : OptId) (h : Payload)

/-- R153: the state after the meter of a link has taken a packet. -/
def metered : State := (meterTake s o.gw (hCmd h) (hNdu h) (hCls h)).1

theorem metered_touches : Touches [.regs, .gws, .tel] s (metered s o h) :=
  meterTake_touches _ _ _ _ (List.Subset.refl _) (Touches.refl _ s)

@[simp] theorem opt_metered : opt (metered s o h) o = opt s o := opt_meterTake ..
@[simp] theorem link_metered (e : EndRef) : link (metered s o h) e = link s e := (metered_touches s o h).link_eq (by decide) e
@[simp] theorem punit_metered (u : UnitRef) : punit (metered s o h) u = punit s u := (metered_touches s o h).punit_eq (by decide) u
@[simp] theorem txEnd_metered (e : EndRef) : txEnd (metered s o h) e = txEnd s e := (metered_touches s o h).txEnd_eq (by decide) e

/-- R83: the count of malformed arrivals is none of the meter's. -/
theorem rdF_metered_malformed (lo len : Nat) : rdF (metered s o h) (gwReg o.gw 0 8) lo len = rdF s (gwReg o.gw 0 8) lo len := by
  have hne : gwReg o.gw 0 8 ≠ meterKey o.gw (hCls h) 6 := by
    have hcls : hCls h < 4 := Nat.mod_lt _ (by decide)
    exact gwReg_ne _ (by decide) (by decide) (by decide) (by omega) (.inl (by decide))
  rw [rdF, metered, (meterTake_metersOnly ..).rd_eq _ hne, rdF]

/-- R390: a packet that came in over a link counts, with its length. -/
def ingressCounted : State := telGw (telGw s o.gw 3 1) o.gw 5 (hLen h)

theorem ingressCounted_touches : Touches [.tel] s (ingressCounted s o h) :=
  telGw_touches _ _ _ (List.Subset.refl _) (telGw_touches _ _ _ (List.Subset.refl _) (Touches.refl _ s))

@[simp] theorem opt_ingressCounted (o' : OptId) : opt (ingressCounted s o h) o' = opt s o' := rfl
@[simp] theorem link_ingressCounted (e : EndRef) : link (ingressCounted s o h) e = link s e := rfl
@[simp] theorem punit_ingressCounted (u : UnitRef) : punit (ingressCounted s o h) u = punit s u := rfl
@[simp] theorem txEnd_ingressCounted (e : EndRef) : txEnd (ingressCounted s o h) e = txEnd s e := rfl
@[simp] theorem rdF_ingressCounted (k lo len : Nat) : rdF (ingressCounted s o h) k lo len = rdF s k lo len := rfl

end

/-! ## The head of a VC (R293) -/

/-- What was noted as the header unit of a VC's first packet came in. -/
def headMark (s : State) (o : OptId) (v : Nat) : InMark := (lget (opt s o).marks v []).headD ⟨0, []⟩

/-- R293: a packet of one flit leaves its VC of the ingress, and owes its credit. -/
def ingressTaken (s : State) (o : OptId) (v : Nat) (rest : List VcFlit) : State :=
  oweCredit (updOpt s o (fun x => { x with
    ingress := lset x.ingress v { lget x.ingress v ⟨[], none⟩ with buf := rest },
    marks := lset x.marks v (lget x.marks v []).tail })) (.optical o) v

section
variable (s : State) (o : OptId) (v : Nat) (rest : List VcFlit)

theorem ingressTaken_touches : Touches [.links, .gws] s (ingressTaken s o v rest) :=
  oweCredit_touches _ _ (by decide) (updOpt_touches _ _ (by decide) (Touches.refl _ s))

@[simp] theorem punit_ingressTaken (u : UnitRef) : punit (ingressTaken s o v rest) u = punit s u := rfl
@[simp] theorem txEnd_ingressTaken (e : EndRef) : txEnd (ingressTaken s o v rest) e = txEnd s e := rfl
@[simp] theorem rdF_ingressTaken (k lo len : Nat) : rdF (ingressTaken s o v rest) k lo len = rdF s k lo len := rfl

@[simp] theorem crDue_ingressTaken :
    (link (ingressTaken s o v rest) (.optical o)).crDue = (link s (.optical o)).crDue ++ [v] := by
  rw [ingressTaken, oweCredit, link_updLink_same, link_updOpt]

theorem altLast_ingressTaken : (opt (ingressTaken s o v rest) o).altLast = (opt s o).altLast := by
  rw [ingressTaken, oweCredit, opt_updLink, opt_updOpt_same]

end

theorem ingress_ingressTaken {s : State} {o : OptId} {v : Nat} {rest buf : List VcFlit} {a : Option Asm}
    (hv : v < (opt s o).ingress.length) (h : lget (opt s o).ingress v ⟨[], none⟩ = ⟨buf, a⟩) :
    lget (opt (ingressTaken s o v rest) o).ingress v ⟨[], none⟩ = ⟨rest, a⟩ := by
  rw [ingressTaken, oweCredit, opt_updLink, opt_updOpt_same]
  simp only [lget_lset_same _ _ hv, h]

theorem ingressVc_empty {s : State} {o : OptId} {v : Nat} (h : (lget (opt s o).ingress v ⟨[], none⟩).buf = []) :
    ingressVc s o v = none := by
  simp only [ingressVc, ingressHead, h]

theorem ingressVc_flit {s : State} {o : OptId} {v : Nat} {f : VcFlit} {rest : List VcFlit} {a : Option Asm}
    (h : lget (opt s o).ingress v ⟨[], none⟩ = ⟨f :: rest, a⟩) (hhead : f.head = true) (htail : f.tail = true)
    (hcredit : f.credit = true) :
    ingressVc s o v = (ingressRoute s o (headMark s o v) f.payload []).map (fun t => ingressTaken t o v rest) := by
  have hpacket : ingressHead ⟨f :: rest, a⟩ = some ([f], rest) := by
    simp [ingressHead, firstIdx, hhead, htail]
  rw [ingressVc, h, hpacket]
  simp only [List.map_nil, List.filter_cons, hcredit, if_true, List.filter_nil, List.foldl_cons, List.foldl_nil]
  rfl

/-- R274: the first VC, RSP first, that may send its packet on is taken. -/
theorem opticalIngress_first {s t : State} {o : OptId} {v : Nat} (hclk : clocked s o.gw.dom = true) (hv : v < 8)
    (hfirst : ∀ w, w < v → ingressVc s o w = none) (ht : ingressVc s o v = some t) : opticalIngress s o = t := by
  have hsome : (List.range 8).findSome? (ingressVc s o) = some t := by
    obtain ⟨l₁, l₂, hsplit⟩ := List.append_of_mem (List.mem_range.2 hv)
    obtain ⟨-, -, hlow⟩ := List.pairwise_append.1 (hsplit ▸ List.pairwise_lt_range (n := 8))
    exact List.findSome?_eq_some_iff.2 ⟨l₁, v, l₂, hsplit, ht, fun w hw => hfirst w (hlow w hw v List.mem_cons_self)⟩
  have hclk : clocked s (48 + o.side.val) = true := hclk
  rw [opticalIngress, if_pos hclk, hsome, Option.getD_some]

/-! ## Where a packet goes (R153, R306, R307) -/

/-- A packet of one header unit as its gateway takes it from the link. -/
def linkArrival (mk : InMark) (h : Payload) : RxPkt := { arrival h [] false linkPort with t := mk.t }

/-- R306: a link-local packet is its gateway's if it names the port; another is discarded and counted. -/
def linkLocal (s : State) (o : OptId) (mk : InMark) (h : Payload) : State :=
  if namesLink o h then updUnit s (.gw o.gw) (fun x => { x with inbox := x.inbox ++ [linkArrival mk h] })
  else countMalformed s (.gw o.gw)

theorem ingressRoute_linkLocal {s : State} {o : OptId} {mk : InMark} {h : Payload} (hw : hDw h = waferLocal)
    (hm : (meterTake s o.gw (hCmd h) (hNdu h) (hCls h)).2 ≠ .drop) :
    ingressRoute s o mk h [] = some (ingressCounted (linkLocal (metered s o h) o mk h) o h) := by
  simp only [ingressRoute, if_pos hw, if_neg hm]
  rfl

/-- R274, R307: a packet of one header unit that goes on by attachment cell j in its own class. -/
def transitPkt (o : OptId) (mk : InMark) (h : Payload) (j : Nat) : TxPkt :=
  let rt := lget mk.hdrs j (.later, put h 4 2 (hCls h))
  { hdr := rt.2, data := [], cls := hCls h, grp := hGroup h, req := none, ctx := none, q := none, port := j, raw := true,
    via := some o.port, pre := rt.1 }

/-- R274: a packet joins the queue of an attachment cell, the last of the alternation. -/
def sentOnBy (s : State) (o : OptId) (j : Nat) (z : TxPkt) : State :=
  let e := EndRef.gw o.gw (Fin.ofNat 16 j)
  updOpt (setTxEnd s e { txEnd s e with queue := (txEnd s e).queue ++ [z] }) o (fun x => { x with altLast := j })

theorem ingressRoute_transit {s : State} {o : OptId} {mk : InMark} {h : Payload} {j : Nat} (hw : hDw h ≠ waferLocal)
    (hm : (meterTake s o.gw (hCmd h) (hNdu h) (hCls h)).2 = .forward) (hj : ingressCell s o (hCls h) = some j) :
    ingressRoute s o mk h [] = some (ingressCounted (sentOnBy (metered s o h) o j (transitPkt o mk h j)) o h) := by
  simp only [ingressRoute, if_neg hw, hm, reduceCtorEq, if_false, hj, if_true]
  rfl

theorem opt_linkLocal (s : State) (o : OptId) (mk : InMark) (h : Payload) : opt (linkLocal s o mk h) o = opt s o := by
  unfold linkLocal
  split <;> rfl

theorem link_linkLocal (s : State) (o : OptId) (mk : InMark) (h : Payload) (e : EndRef) :
    link (linkLocal s o mk h) e = link s e := by
  unfold linkLocal
  split <;> rfl

theorem linkLocal_touches (s : State) (o : OptId) (mk : InMark) (h : Payload) :
    Touches [.regs, .units] s (linkLocal s o mk h) :=
  Touches.ite (fun _ => updUnit_touches _ _ (by decide) (Touches.refl _ s))
    (fun _ => countMalformed_touches _ (by decide) (Touches.refl _ s))

theorem linkLocal_named {s : State} {o : OptId} (mk : InMark) {h : Payload} (hn : namesLink o h = true) :
    (punit (linkLocal s o mk h) (.gw o.gw)).inbox = (punit s (.gw o.gw)).inbox ++ [linkArrival mk h] := by
  rw [linkLocal, if_pos hn, punit_updUnit_same]

theorem linkLocal_other {s : State} {o : OptId} (mk : InMark) {h : Payload} (hn : namesLink o h = false) :
    punit (linkLocal s o mk h) (.gw o.gw) = punit s (.gw o.gw) ∧
      rdF (linkLocal s o mk h) (gwReg o.gw 0 8) 8 8 = satAdd 255 (rdF s (gwReg o.gw 0 8) 8 8) 1 := by
  rw [linkLocal, if_neg (Bool.eq_false_iff.1 hn)]
  exact ⟨rfl, rdF_cntUp_same _ _ _ (by decide)⟩

theorem opt_sentOnBy (s : State) (o : OptId) (j : Nat) (z : TxPkt) : opt (sentOnBy s o j z) o = { opt s o with altLast := j } := by
  rw [sentOnBy, opt_updOpt_same, opt_setTxEnd]

theorem queue_sentOnBy (s : State) (o : OptId) (j : Nat) (z : TxPkt) :
    (txEnd (sentOnBy s o j z) (.gw o.gw (Fin.ofNat 16 j))).queue = (txEnd s (.gw o.gw (Fin.ofNat 16 j))).queue ++ [z] := by
  rw [sentOnBy, txEnd_updOpt, txEnd_setTxEnd_same]

theorem sentOnBy_touches (s : State) (o : OptId) (j : Nat) (z : TxPkt) : Touches [.tx, .gws] s (sentOnBy s o j z) := by
  unfold sentOnBy
  exact updOpt_touches _ _ (by decide) (setTxEnd_touches _ _ (by decide) (Touches.refl _ s))

/-! ## OPTICAL_INGRESS -/

/-- The packet of one flit at the head of VC v is the first in the ingress. -/
structure FirstFlit (o : OptId) (v : Fin 8) (f : VcFlit) (rest : List VcFlit) (a : Option Asm) (s : State) : Prop where
  clk : clocked s o.gw.dom = true
  vcs : (opt s o).ingress.length = 8
  before : ∀ w, w < v.val → (lget (opt s o).ingress w ⟨[], none⟩).buf = []
  here : lget (opt s o).ingress v.val ⟨[], none⟩ = ⟨f :: rest, a⟩
  head : f.head = true
  tail : f.tail = true
  credit : f.credit = true

section
variable {o : OptId} {v : Fin 8} {f : VcFlit} {rest : List VcFlit} {a : Option Asm} {s : State}
  (hf : FirstFlit o v f rest a s)
include hf

theorem FirstFlit.exec_eq {t : State} (ht : ingressRoute s o (headMark s o v.val) f.payload [] = some t) :
    exec (.opticalIngress o) s = .next (ingressTaken t o v.val rest) :=
  congrArg Host.Outcome.next (opticalIngress_first hf.clk v.isLt (fun w hw => ingressVc_empty (hf.before w hw))
    (by rw [ingressVc_flit hf.here hf.head hf.tail hf.credit, ht, Option.map_some]))

/-- R293: the flit leaves the ingress whatever has become of the packet. -/
theorem FirstFlit.ingress_taken {t : State} (ht : (opt t o).ingress = (opt s o).ingress) :
    lget (opt (ingressTaken t o v.val rest) o).ingress v.val ⟨[], none⟩ = ⟨rest, a⟩ :=
  ingress_ingressTaken (by rw [ht, hf.vcs]; exact v.isLt) (by rw [ht, hf.here])

/-- R306: a link-local packet. -/
theorem FirstFlit.linkLocal (hw : hDw f.payload = waferLocal)
    (hm : (meterTake s o.gw (hCmd f.payload) (hNdu f.payload) (hCls f.payload)).2 ≠ .drop) :
    ∃ t, exec (.opticalIngress o) s = .next t ∧ lget (opt t o).ingress v.val ⟨[], none⟩ = ⟨rest, a⟩ ∧
      (link t (.optical o)).crDue = (link s (.optical o)).crDue ++ [v.val] ∧
      (if namesLink o f.payload then
        ∃ p, (punit t (.gw o.gw)).inbox = (punit s (.gw o.gw)).inbox ++ [p] ∧ p.hdr = f.payload ∧ p.data = [] ∧ p.port = linkPort
      else (punit t (.gw o.gw)).inbox = (punit s (.gw o.gw)).inbox ∧
        rdF t (gwReg o.gw 0 8) 8 8 = satAdd 255 (rdF s (gwReg o.gw 0 8) 8 8) 1) ∧
      Touches [.regs, .links, .units, .gws, .tel] s t := by
  refine ⟨_, hf.exec_eq (ingressRoute_linkLocal hw hm), hf.ingress_taken ?_, ?_, ?_, ?_⟩
  · rw [opt_ingressCounted, opt_linkLocal, opt_metered]
  · rw [crDue_ingressTaken, link_ingressCounted, link_linkLocal, link_metered]
  · simp only [punit_ingressTaken, punit_ingressCounted, rdF_ingressTaken, rdF_ingressCounted]
    cases hn : namesLink o f.payload
    · obtain ⟨hunit, hcount⟩ := linkLocal_other (s := metered s o f.payload) (headMark s o v.val) hn
      simp only [Bool.false_eq_true, if_false]
      exact ⟨by rw [hunit, punit_metered], by rw [hcount, rdF_metered_malformed]⟩
    · simp only [if_true]
      exact ⟨_, by rw [linkLocal_named _ hn, punit_metered], rfl, rfl, rfl⟩
  · exact ((((metered_touches s o _).mono (by decide)).trans ((linkLocal_touches _ o _ _).mono (by decide))).trans
      ((ingressCounted_touches _ o _).mono (by decide))).trans ((ingressTaken_touches _ o _ _).mono (by decide))

/-- R274, R307: a packet that goes on. -/
theorem FirstFlit.transit {j : Nat} (hw : hDw f.payload ≠ waferLocal)
    (hm : (meterTake s o.gw (hCmd f.payload) (hNdu f.payload) (hCls f.payload)).2 = .forward)
    (hj : ingressCell s o (hCls f.payload) = some j) :
    ∃ t z, exec (.opticalIngress o) s = .next t ∧ lget (opt t o).ingress v.val ⟨[], none⟩ = ⟨rest, a⟩ ∧
      (link t (.optical o)).crDue = (link s (.optical o)).crDue ++ [v.val] ∧ (opt t o).altLast = j ∧
      (txEnd t (.gw o.gw (Fin.ofNat 16 j))).queue = (txEnd s (.gw o.gw (Fin.ofNat 16 j))).queue ++ [z] ∧
      (z.pre, z.hdr) = lget ((lget (opt s o).marks v.val []).headD ⟨0, []⟩).hdrs j (.later, put f.payload 4 2 (hCls f.payload)) ∧
      z.data = [] ∧ z.cls = hCls f.payload ∧ z.port = j ∧ z.via = some o.port ∧ Touches [.regs, .links, .tx, .gws, .tel] s t := by
  refine ⟨_, transitPkt o (headMark s o v.val) f.payload j, hf.exec_eq (ingressRoute_transit hw hm hj), hf.ingress_taken ?_, ?_, ?_, ?_,
    rfl, rfl, rfl, rfl, rfl, ?_⟩
  · rw [opt_ingressCounted, opt_sentOnBy, opt_metered]
  · rw [crDue_ingressTaken, link_ingressCounted]
    exact congrArg (fun l => l.crDue ++ [v.val]) (link_metered s o f.payload _)
  · rw [altLast_ingressTaken, opt_ingressCounted, opt_sentOnBy]
  · rw [txEnd_ingressTaken, txEnd_ingressCounted, queue_sentOnBy, txEnd_metered]
  · exact ((((metered_touches s o _).mono (by decide)).trans ((sentOnBy_touches _ o _ _).mono (by decide))).trans
      ((ingressCounted_touches _ o _).mono (by decide))).trans ((ingressTaken_touches _ o _ _).mono (by decide))

end

/-- Settles O58: the packet of the first VC with a flit is metered and routed, and its flit taken. -/
theorem ingressForwards : Obligations.IngressForwards := by
  intro o v f rest a s hclk hvcs hbefore hhere hhead htail hcredit
  have hf : FirstFlit o v f rest a s := ⟨hclk, hvcs, hbefore, hhere, hhead, htail, hcredit⟩
  exact ⟨hf.linkLocal, fun j => hf.transit⟩

end Sys2Proof.Machine

/-! # Completion rings that an NI does not have, and aborted runs (R174, R198, R201, R232)

The number of a completion ring past the last one of an NI makes other registers of its cell the ring's: here the combine unit's
error flags, which an abort sets before the ring's entry is written. No descriptor that is fetched names such a ring. -/

namespace Sys2Proof.Machine

section
open Sys2Proof.Tests

/-- A completion ring of the cell whose number no descriptor can name (R232): its CFG register's address is that of the combine
unit's error flags (R202). -/
def flagsRing : Nat := 2032

/-- The member's COLL, which waits for the end of its run and names that ring. -/
def flagsCtx : Ctx := { tCtx (dReduce 1) with cq := flagsRing, st := .waiting, issued := true }

/-- An entry in a run of that COLL, in a cell where the ring runs with CPI at 1. -/
def flagsMoveEntry (r : CRun) : State :=
  tColl (updUnit tRun (.ni c34) (fun p => { p with ctxs := [(5, flagsCtx)], cq := [(flagsRing, ⟨.running, 1, 1⟩)] })) 0 r []

theorem flagsMoveEntry_lone (r : CRun) : LoneRun (flagsMoveEntry r) c34 (31 : Fin 32).val r :=
  lone_tColl _ _ _ _ (by decide +kernel)

/-! ## The progress timer (R198) -/

/-- A run that waits for child 0 and whose time is over, with nothing of its result left to write. -/
def lateRun : CRun := { tR (dReduce 1) with ctx := some 5, tmo := 0, written := [0] }

theorem lateRun_ctx : LoneCtx (flagsMoveEntry lateRun) (.ni c34) 5 flagsCtx := loneCtx_ni (by decide +kernel)

/-- The state after the timer has ended the run. -/
def lateAborted : State := progressTimeout (flagsMoveEntry lateRun) c34 (31 : Fin 32).val

/-- The byte that would hold the entry's status is not where the ring of one entry has it. -/
theorem lateAborted_unwritten : memGet lateAborted.mem (entryAddr (flagsMoveEntry lateRun) (.ni c34) flagsCtx.cq + 4) = 0 := by
  decide +kernel

/-- Refutes O53: the abort sets the timer's error flag before the descriptor's entry is written, where the statement takes a
context that names a completion ring the NI does not have, whose CFG register holds the flags. -/
theorem not_instancesEnd : ¬ Obligations.InstancesEnd := by
  intro h
  obtain ⟨habort, _⟩ := h
  obtain ⟨_, _, htimeout, _⟩ := habort 0
  obtain ⟨t, hexec, ⟨_, _, _, _, hend⟩, _⟩ := htimeout c34 31 _ lateRun (flagsMoveEntry_lone lateRun) (by decide +kernel) (by decide +kernel)
  obtain ⟨⟨_, _, hbytes⟩, _⟩ := hend 5 flagsCtx rfl lateRun_ctx
  have ht : lateAborted = t := Host.Outcome.next.inj hexec
  have hbyte := hbytes 4 (by decide)
  rw [← ht, lateAborted_unwritten] at hbyte
  exact absurd hbyte (by decide +kernel)

/-! ## A word of scratch that SECDED cannot correct (R174) -/

/-- A run that has its own chunk and its child's, with nothing of its result left to write. -/
def readyRun : CRun :=
  { tEdges (dReduce 1) [(0, { CEdge.init with slots := [⟨0, some [1, 0, 0, 0], some [], 7⟩] })] with
    own := some (0, [2, 0, 0, 0]), ctx := some 5, written := [0] }

theorem readyRun_ctx : LoneCtx (flagsMoveEntry readyRun) (.ni c34) 5 flagsCtx := loneCtx_ni (by decide +kernel)

theorem readyRun_ready :
    kOp readyRun.desc ≤ 2 ∧ kSparse readyRun.desc = false ∧ kFmt readyRun.desc = 5 ∧ readyRun.next < nChunks 5 (kCount readyRun.desc) ∧
    inputsReady (flagsMoveEntry readyRun) c34 (31 : Fin 32).val readyRun readyRun.next = true ∧
    ownInput (flagsMoveEntry readyRun) c34 (31 : Fin 32).val readyRun readyRun.next = some [2, 0, 0, 0] ∧
    (combinePick (flagsMoveEntry readyRun) c34 (31 : Fin 32).val).map (fun x => x.1) =
      some (cGroup (flagsMoveEntry readyRun) c34 (31 : Fin 32).val) := by
  decide +kernel

/-- The state after the combining of those chunks has met an uncorrectable word. -/
def readyAborted : State := chunkCombine (flagsMoveEntry readyRun) c34 (31 : Fin 32).val .ue

theorem readyAborted_unwritten : memGet readyAborted.mem (entryAddr (flagsMoveEntry readyRun) (.ni c34) flagsCtx.cq + 4) = 0 := by
  decide +kernel

/-- Refutes O55: the abort sets the check's error flag before the descriptor's entry is written, where the statement takes a
context that names a completion ring the NI does not have, whose CFG register holds the flags. -/
theorem not_chunksReadAndCombined : ¬ Obligations.ChunksReadAndCombined := by
  intro h
  obtain ⟨_, hcombine⟩ := h
  obtain ⟨hop, hdense, hfmt, hnext, hinputs, hown, hturn⟩ := readyRun_ready
  obtain ⟨_, t, hexec, ⟨_, _, _, _, hend⟩, _⟩ :=
    hcombine c34 31 _ readyRun _ (flagsMoveEntry_lone readyRun) hop hdense hfmt hnext hinputs hown hturn
  obtain ⟨⟨_, _, hbytes⟩, _⟩ := hend 5 flagsCtx rfl readyRun_ctx
  have ht : readyAborted = t := Host.Outcome.next.inj hexec
  have hbyte := hbytes 4 (by decide)
  rw [← ht, readyAborted_unwritten] at hbyte
  exact absurd hbyte (by decide +kernel)

end

end Sys2Proof.Machine

/-! # Words of combine entries (R167)

The write of a word of an entry by whether the entry runs, and whether the word starts the entry's check. -/

namespace Sys2Proof.Machine

/-- R202, R232: an entry's words lie apart from the unit's flags. -/
theorem entryWord_ne_flags (c : Cell) {e j : Nat} (he : e < 32) (hj : j < 28) :
    cellReg c 4 (0x1000 + 0x80 * e + 4 * j) ≠ cellReg c 4 4 :=
  cellReg_ne c (by decide) (by omega) (by decide) (by decide) (.inr (by omega))

section
variable {s : State} {c : Cell} {e j : Nat} (he : e < 32) (hj : j < 28) {row : RegRow} (v : Word)
include hj

/-- R167: the write of a word by whether the entry runs, and whether the check that the word starts fails. -/
theorem cmbEntryWrite_eq (k : Nat) :
    cmbEntryWrite s c k (0x1000 + 0x80 * e + 4 * j) row v =
      if (crun s c e).isSome then setBits s (cellReg c 4 4) 0x80
      else if j = 0 ∧ bit v 0 = true ∧ entryOk (wr s k (plainWrite row (rd s k) v)) c e = false then
        setBits (wrF (wr s k (plainWrite row (rd s k) v)) k 0 1 0) (cellReg c 4 4) 0x40
      else wr s k (plainWrite row (rd s k) v) := by
  have hentry : (0x1000 + 0x80 * e + 4 * j - 0x1000) / 0x80 = e := by omega
  have hword : (0x1000 + 0x80 * e + 4 * j) % 0x80 = 0 ↔ j = 0 := by omega
  simp only [cmbEntryWrite, hentry, hword]

include he

/-- No bit of an entry's words is a status bit (R202). -/
theorem entryWord_w1c (h : rowOf (cellReg c 4 (0x1000 + 0x80 * e + 4 * j)) = some row) : row.w1c = 0 := by
  have hall : ∀ (a : Fin 32) (b : Fin 28), (findRow cmbRows (0x1000 + 0x80 * a.val + 4 * b.val)).all (fun r => r.w1c == 0) = true := by
    decide +kernel
  have hrow := hall ⟨e, he⟩ ⟨j, hj⟩
  rw [rowOf_cellReg c (by decide) (by omega)] at h
  rw [show findRow cmbRows (0x1000 + 0x80 * e + 4 * j) = some row from h] at hrow
  exact beq_iff_eq.1 hrow

theorem writeBy_entryWord (g : Fin 32) (hserve : MgmtServes s (cellReg c 4 (0x1000 + 0x80 * e + 4 * j)))
    (hrow : rowOf (cellReg c 4 (0x1000 + 0x80 * e + 4 * j)) = some row) :
    writeBy s (.mgmt g) (cellReg c 4 (0x1000 + 0x80 * e + 4 * j)) v =
      answer (cmbEntryWrite s c (cellReg c 4 (0x1000 + 0x80 * e + 4 * j)) (0x1000 + 0x80 * e + 4 * j) row v) (.mgmt g) 0 0 none := by
  have hoff : 0x1000 + 0x80 * e + 4 * j < 65536 := by omega
  have hrange : 0x1000 ≤ 0x1000 + 0x80 * e + 4 * j ∧ (0x1000 + 0x80 * e + 4 * j) % 0x80 < 0x70 := by omega
  have hrows : (cellBlockRows 4).bind (fun rows => findRow rows (0x1000 + 0x80 * e + 4 * j)) = some row :=
    (rowOf_cellReg c (by decide) hoff).symm.trans hrow
  rw [writeBy_cell g v (by decide) hoff hserve hrows (entryWord_w1c he hj hrow) (.inl (by decide)), blockWrite_cmb _ _ _ _ _ _ hoff]
  exact congrArg (fun t => answer t (.mgmt g) 0 0 none) (if_pos hrange)

end

/-! ## The first word -/

/-- The row of an entry's first word (R202). -/
def entryFirstRow : RegRow := ⟨0x1000, 0x80, 32, 0, 0x7FFFFF7F, 0, 0, false⟩

theorem rowOf_entryFirst {c : Cell} {e : Nat} (he : e < 32) : rowOf (cellReg c 4 (0x1000 + 0x80 * e)) = some entryFirstRow := by
  have hall : ∀ a : Fin 32, findRow cmbRows (0x1000 + 0x80 * a.val) = some entryFirstRow := by decide +kernel
  exact (rowOf_cellReg c (by decide) (by omega)).trans (hall ⟨e, he⟩)

/-- R167: each RW bit of the first word, written with VALID = 1. -/
theorem bit_entryFirst (old w0 : Word) {i : Nat} (hrw : entryFirstRow.rw.testBit i = true) :
    bit (plainWrite entryFirstRow old (w0 ||| 1)) i = (bit w0 i || decide (i = 0)) := by
  have hlt : i < 32 := by
    by_contra hge
    have hbig : entryFirstRow.rw < 2 ^ i := Nat.lt_of_lt_of_le (by decide) (Nat.pow_le_pow_right (n := 2) (by decide) (Nat.not_lt.1 hge))
    rw [Nat.testBit_lt_two_pow hbig] at hrw
    exact Bool.false_ne_true hrw
  have hone : bit (1 : Word) i = decide (i = 0) := by
    rw [show (1 : Word) = BitVec.ofNat 32 1 from rfl, bit_ofNat32, Bool.eq_iff_iff]
    simp [hlt, Nat.testBit_one_eq_true_iff_self_eq_zero]
  rw [bit_plainWrite _ _ _ hlt, hrw, bit_or, hone]
  simp [entryFirstRow]

section
variable {s : State} {c : Cell} {e : Nat} {w0 : Word}

/-- R167: a first word that fails its check keeps its other bits, loses VALID and sets the flag. -/
theorem entryLoad_fails {a : Nat} (ha : a ≠ cellReg c 4 4) :
    let t := setBits (wrF (wr s a (plainWrite entryFirstRow (rd s a) (w0 ||| 1))) a 0 1 0) (cellReg c 4 4) 0x40
    (∀ i, 1 ≤ i → entryFirstRow.rw.testBit i = true → bit (rd t a) i = bit w0 i) ∧ bit (rd t a) 0 = false ∧
      bit (rd t (cellReg c 4 4)) 6 = true := by
  intro t
  have hword : rd t a = put (plainWrite entryFirstRow (rd s a) (w0 ||| 1)) 0 1 0 := by
    rw [rd_setBits_ne _ _ ha, rd_wrF_same, rd_wr_same]
  refine ⟨fun i hi hrw => ?_, ?_, bit_setBits _ _ (b := 6) (by decide)⟩
  · have h0 : ¬ i = 0 := by omega
    rw [hword, bit_put_ne _ _ (.inr (by omega)), bit_entryFirst _ _ hrw]
    simp [h0]
  · rw [hword, bit_eq, getLsbD_put]
    simp

/-- R167: a first word that is stored with VALID = 1. -/
theorem entryLoad_passes {a : Nat} (ha : a ≠ cellReg c 4 4) :
    let t := wr s a (plainWrite entryFirstRow (rd s a) (w0 ||| 1))
    (∀ i, 1 ≤ i → entryFirstRow.rw.testBit i = true → bit (rd t a) i = bit w0 i) ∧ bit (rd t a) 0 = true ∧
      rd t (cellReg c 4 4) = rd s (cellReg c 4 4) := by
  intro t
  have hword : rd t a = plainWrite entryFirstRow (rd s a) (w0 ||| 1) := rd_wr_same ..
  refine ⟨fun i hi hrw => ?_, ?_, rd_wr_ne _ _ ha.symm⟩
  · have h0 : ¬ i = 0 := by omega
    rw [hword, bit_entryFirst _ _ hrw]
    simp [h0]
  · rw [hword, bit_entryFirst _ _ (by decide)]
    simp

end

/-! ## The write is served -/

section
variable {s t : State} (g : Fin 32)

/-- What a served write of the unit's registers leaves is a state that answers OK and keeps every other register. -/
theorem answered_regs {ks : List Nat} (hregs : RegsBut ks s t) (htouch : Touches [.regs] s t) :
    AnsweredOk (answer t (.mgmt g) 0 0 none) g ∧ RegsBut ks s (answer t (.mgmt g) 0 0 none) ∧
      Touches [.regs, .resp] s (answer t (.mgmt g) 0 0 none) :=
  ⟨answer_mgmt_status .., hregs.answer, (htouch.mono (by decide)).answer (by decide)⟩

end

theorem cmbEntryLoad_checked (g : Fin 32) (c : Cell) (e : Fin 32) (w0 : Word) (s : State) (row : RegRow) (a : Nat)
    (ha : a = cellReg c 4 (0x1000 + 0x80 * e.val)) (hrow : rowOf a = some row) (hserve : MgmtServes s a) :
    ∃ t, exec (.cmbEntryLoad (.mgmt g) c e w0) s = .next t ∧ AnsweredOk t g ∧
      ((crun s c e.val).isSome = true → rd t a = rd s a ∧ bit (rd t (cellReg c 4 4)) 7 = true) ∧
      (crun s c e.val = none → (∀ i, 1 ≤ i → row.rw.testBit i = true → bit (rd t a) i = bit w0 i) ∧
        bit (rd t a) 0 = entryOk (wr s a (plainWrite row (rd s a) (w0 ||| 1))) c e.val ∧
        bit (rd t (cellReg c 4 4)) 6 = (bit (rd s (cellReg c 4 4)) 6 ||
          !entryOk (wr s a (plainWrite row (rd s a) (w0 ||| 1))) c e.val)) ∧
      RegsBut [a, cellReg c 4 4] s t ∧ Touches [.regs, .resp] s t := by
  obtain rfl : entryFirstRow = row := Option.some.inj ((rowOf_entryFirst e.isLt).symm.trans (ha ▸ hrow))
  have hne : a ≠ cellReg c 4 4 := ha ▸ entryWord_ne_flags c e.isLt (j := 0) (by decide)
  have hvalid : bit (w0 ||| 1) 0 = true := by rw [bit_or]; simp [bit]
  have hexec : exec (.cmbEntryLoad (.mgmt g) c e w0) s =
      .next (answer (cmbEntryWrite s c a (0x1000 + 0x80 * e.val + 4 * 0) entryFirstRow (w0 ||| 1)) (.mgmt g) 0 0 none) := by
    subst ha
    exact congrArg Host.Outcome.next (writeBy_entryWord e.isLt (j := 0) (by decide) (w0 ||| 1) g hserve hrow)
  rw [cmbEntryWrite_eq (j := 0) (by decide)] at hexec
  simp only [hvalid, true_and] at hexec
  cases hrun : crun s c e.val with
  | some r =>
    rw [hrun, if_pos (by rfl)] at hexec
    obtain ⟨hok, hregs, htouch⟩ := answered_regs g (RegsBut.setBits (ks := [a, cellReg c 4 4]) (k := cellReg c 4 4) s 0x80 (by simp))
      (setBits_touches _ _ (by decide) (.refl _ s))
    refine ⟨_, hexec, hok, fun _ => ⟨?_, ?_⟩, nofun, hregs, htouch⟩
    · exact (rd_answer ..).trans (rd_setBits_ne _ _ hne)
    · rw [rd_answer]
      exact bit_setBits s _ (b := 7) (by decide)
  | none =>
    rw [hrun, if_neg (by decide)] at hexec
    cases hentry : entryOk (wr s a (plainWrite entryFirstRow (rd s a) (w0 ||| 1))) c e.val with
    | true =>
      rw [hentry, if_neg (by decide)] at hexec
      obtain ⟨hok, hregs, htouch⟩ := answered_regs g ((RegsBut.refl [a, cellReg c 4 4] s).wr _ List.mem_cons_self)
        (wr_touches a (plainWrite entryFirstRow (rd s a) (w0 ||| 1)) (by decide) (.refl _ s))
      obtain ⟨hbits, hword, hflag⟩ := entryLoad_passes (s := s) (w0 := w0) hne
      refine ⟨_, hexec, hok, nofun, fun _ => ?_, hregs, htouch⟩
      simp only [rd_answer, hflag, hword, Bool.not_true, Bool.or_false, and_self, and_true]
      exact hbits
    | false =>
      rw [hentry, if_pos rfl] at hexec
      obtain ⟨hok, hregs, htouch⟩ := answered_regs g
        ((((RegsBut.refl [a, cellReg c 4 4] s).wr (plainWrite entryFirstRow (rd s a) (w0 ||| 1)) List.mem_cons_self).wr _
          List.mem_cons_self).trans (RegsBut.setBits (k := cellReg c 4 4) _ 0x40 (by simp)))
        (setBits_touches _ _ (by decide) (wrF_touches a 0 1 0 (by decide) (wr_touches a _ (by decide) (.refl _ s))))
      obtain ⟨hbits, hword, hflag⟩ := entryLoad_fails (s := s) (w0 := w0) hne
      refine ⟨_, hexec, hok, nofun, fun _ => ?_, hregs, htouch⟩
      simp only [rd_answer]
      exact ⟨hbits, hword, hflag.trans (Bool.or_true _).symm⟩

theorem entryWord_write (g : Fin 32) (c : Cell) (e : Fin 32) (j : Fin 28) (v : Word) (s : State) (row : RegRow) (a : CfgAddr)
    (ha : a.key = cellReg c 4 (0x1000 + 0x80 * e.val + 4 * j.val)) (hrow : rowOf a.key = some row) (hserve : MgmtServes s a.key)
    (hfirst : j.val = 0 → bit v 0 = false) :
    ∃ t, exec (.registerWrite (.mgmt g) a v) s = .next t ∧ AnsweredOk t g ∧
      ((crun s c e.val).isSome = true → rd t a.key = rd s a.key ∧ bit (rd t (cellReg c 4 4)) 7 = true ∧ RegsBut [cellReg c 4 4] s t) ∧
      (crun s c e.val = none →
        (∀ i, i < 32 → bit (rd t a.key) i = if row.rw.testBit i then bit v i else bit (rd s a.key) i) ∧ RegsBut [a.key] s t) ∧
      Touches [.regs, .flt, .resp] s t := by
  have hne : a.key ≠ cellReg c 4 4 := ha ▸ entryWord_ne_flags c e.isLt j.isLt
  have hexec : exec (.registerWrite (.mgmt g) a v) s =
      .next (answer (cmbEntryWrite s c a.key (0x1000 + 0x80 * e.val + 4 * j.val) row v) (.mgmt g) 0 0 none) := by
    show Host.Outcome.next (writeBy s (.mgmt g) a.key v) = _
    rw [ha] at hrow hserve ⊢
    exact congrArg Host.Outcome.next (writeBy_entryWord e.isLt j.isLt v g hserve hrow)
  have hw1c : row.w1c = 0 := entryWord_w1c e.isLt j.isLt (ha ▸ hrow)
  have hunchecked : ¬ (j.val = 0 ∧ bit v 0 = true ∧ entryOk (wr s a.key (plainWrite row (rd s a.key) v)) c e.val = false) := by
    rintro ⟨h0, hv, -⟩
    rw [hfirst h0] at hv
    exact Bool.false_ne_true hv
  rw [cmbEntryWrite_eq j.isLt, if_neg hunchecked] at hexec
  cases hrun : crun s c e.val with
  | some r =>
    rw [hrun, if_pos (by rfl)] at hexec
    obtain ⟨hok, hregs, htouch⟩ := answered_regs g (RegsBut.setBits (k := cellReg c 4 4) s 0x80 List.mem_cons_self)
      (setBits_touches _ _ (by decide) (.refl _ s))
    refine ⟨_, hexec, hok, fun _ => ⟨?_, ?_, hregs⟩, nofun, htouch.mono (by decide)⟩
    · exact (rd_answer ..).trans (rd_setBits_ne _ _ hne)
    · rw [rd_answer]
      exact bit_setBits s _ (b := 7) (by decide)
  | none =>
    rw [hrun, if_neg (by decide)] at hexec
    obtain ⟨hok, hregs, htouch⟩ := answered_regs g ((RegsBut.refl [a.key] s).wr (plainWrite row (rd s a.key) v) List.mem_cons_self)
      (wr_touches _ _ (by decide) (.refl _ s))
    refine ⟨_, hexec, hok, nofun, fun _ => ⟨fun i hi => ?_, hregs⟩, htouch.mono (by decide)⟩
    rw [rd_answer, rd_wr_same, bit_plainWrite _ _ _ hi, hw1c]
    simp

/-- Settles O19: the first word written with VALID = 1, and the other words, by whether the entry runs and passes its check. -/
theorem combineEntryChecked : Obligations.CombineEntryChecked :=
  fun g => ⟨cmbEntryLoad_checked g, entryWord_write g⟩

end Sys2Proof.Machine

/-! # Combine units: what each operation leaves (R164-R202)

The entries and runs of a combine unit after the operations on them; an entry that no chain joins to another (R165); and the chunk
that a unit takes next (R176, R195). -/

namespace Sys2Proof.Machine

theorem FMap.set_set {α : Type} (m : FMap α) (a : Nat) (x y : α) : (FMap.set m a x).set a y = FMap.set m a y := by
  induction m with
  | nil => simp [FMap.set]
  | cons p m ih =>
    obtain ⟨k, v⟩ := p
    by_cases hk : k = a
    · simp [FMap.set, hk]
    · by_cases hlt : a < k <;> simp [FMap.set, hk, hlt, ih]

/-! ## Entries and runs -/

/-- R198: a run whose progress timer has just been restarted. -/
def CRun.restarted (r : CRun) (s : State) (c : Cell) (e : Nat) : CRun := { r with since := cyc s c.field, tmo := tmoOf s c e }

section
variable (s : State) (c : Cell) (e : Nat) (x y : CEnt) (r r' : CRun) (f : CRun → CRun)

theorem setCmb_setCmb (a b : Cmb) : setCmb (setCmb s c a) c b = setCmb s c b := by
  simp only [setCmb, FMap.set_set]

theorem cmb_setCent : cmb (setCent s c e x) c = { cmb s c with ents := (cmb s c).ents.set e x } := cmb_setCmb_same ..

@[simp] theorem cent_setCent_same : cent (setCent s c e x) c e = x := by
  rw [cent, cmb_setCent, FMap.get_set_same]

theorem setCent_setCent : setCent (setCent s c e x) c e y = setCent s c e y := by
  rw [setCent, cmb_setCent, FMap.set_set, setCent, setCmb_setCmb]
  rfl

@[simp] theorem cent_setRun_same : cent (setRun s c e r) c e = { cent s c e with run := some r } := cent_setCent_same ..

@[simp] theorem crun_setRun_same : crun (setRun s c e r) c e = some r := by rw [crun, cent_setRun_same]

theorem setRun_setRun : setRun (setRun s c e r) c e r' = setRun s c e r' := by
  rw [setRun, cent_setRun_same, setRun, setCent_setCent, setRun]

theorem cmb_setRun : cmb (setRun s c e r) c = { cmb s c with ents := (cmb s c).ents.set e { cent s c e with run := some r } } :=
  cmb_setCent ..

/-- A unit whose entries stay. -/
theorem cent_setCmb {a : Cmb} (h : a.ents = (cmb s c).ents) : cent (setCmb s c a) c e = cent s c e := by
  rw [cent, cmb_setCmb_same, h, cent]

theorem crun_setCmb {a : Cmb} (h : a.ents = (cmb s c).ents) : crun (setCmb s c a) c e = crun s c e := by
  rw [crun, cent_setCmb _ _ _ h, crun]

variable {s c e r}

theorem updRun_eq (h : crun s c e = some r) : updRun s c e f = setRun s c e (f r) := by rw [updRun, h]

theorem progress_eq (h : crun s c e = some r) : progress s c e = setRun s c e (r.restarted s c e) := updRun_eq _ h

variable (s c e r)

@[simp] theorem updRun_setRun : updRun (setRun s c e r) c e f = setRun s c e (f r) := by
  rw [updRun_eq f (crun_setRun_same ..), setRun_setRun]

@[simp] theorem progress_setRun : progress (setRun s c e r) c e = setRun s c e (r.restarted s c e) := updRun_setRun ..

end

/-! ## Edges of a run -/

section
variable (r : CRun) (k : Nat) (f : CEdge → CEdge)

@[simp] theorem edge_upd_same : (r.upd k f).edge k = f (r.edge k) := FMap.get_set_same ..

theorem edge_restarted (s : State) (c : Cell) (e : Nat) : (r.restarted s c e).edge k = r.edge k := rfl

theorem edge_upd_ne {j : Nat} (h : j ≠ k) : (r.upd k f).edge j = r.edge j := FMap.get_set_ne _ _ _ h

end

/-! ## The chunk that a unit takes next (R176, R195) -/

/-- The unit after it has taken its oldest chunk. -/
def popped (s : State) (c : Cell) (rest : List RxPkt) : State := setCmb s c { cmb s c with inbox := rest }

section
variable {s : State} {c : Cell} {e : Nat} {r : CRun} {p : RxPkt} {rest : List RxPkt} {ecc : Ecc}

theorem inbox_popped : (cmb (popped s c rest) c).inbox = rest := by rw [popped, cmb_setCmb_same]

theorem crun_popped (e : Nat) : crun (popped s c rest) c e = crun s c e := crun_setCmb _ _ _ rfl

theorem popped_touches : Touches [.cmbs] s (popped s c rest) := setCmb_touches _ _ (by decide) (.refl _ s)

theorem inbox_setRun : (cmb (setRun (popped s c rest) c e r) c).inbox = rest := by rw [cmb_setRun, inbox_popped]

theorem NextChunk.taken (h : NextChunk s c p rest) {kinds : List Nat} (hlt : hInl p.hdr 12 3 < 5)
    (hk : kinds.contains (hInl p.hdr 12 3) = true) :
    takeChunk s c kinds ecc = cmSettle (chunkArrive (popped s c rest) c p ecc) c := by
  obtain ⟨hclk, hinbox, hcmd, hform, hown⟩ := h
  have hkind : nextKind s c = some (hInl p.hdr 12 3) := by
    simp [nextKind, hinbox, hcmd, hform]
  have hgood : ¬ (hInl p.hdr 12 3 = 8) := by omega
  have hdefined : ¬ (5 ≤ hInl p.hdr 12 3) := by omega
  simp [takeChunk, hinbox, hkind, hclk, List.contains_iff_mem.1 hk, hown, hgood, hdefined, popped]

/-- R195: a current chunk whose signature agrees takes its effect. -/
theorem Current.agrees (h : Current s c e r p rest) (hdiff : runDiff s c e r.desc r.ph (hInl p.hdr 12 3) (hdrSig p.hdr) = none) :
    chunkArrive (popped s c rest) c p ecc = currentChunk (popped s c rest) c e r p ecc := by
  have hnames : entryAt (popped s c rest) c (hInl p.hdr 0 8) (hInl p.hdr 8 2) = some e := h.names
  have hrun : crun (popped s c rest) c e = some r := (crun_popped e).trans h.lone.running
  have hdiff' : runDiff (popped s c rest) c e r.desc r.ph (hInl p.hdr 12 3) (hdrSig p.hdr) = none := hdiff
  have hnow : (hInl p.hdr 56 32 + 2 ^ 32 - entrySeq (popped s c rest) c e) % 2 ^ 32 = 0 := by
    have hb := h.bound
    rw [entrySeq, hrun, h.seq]
    show (r.seq + 2 ^ 32 - r.seq) % 2 ^ 32 = 0
    omega
  simp only [chunkArrive, hnames, hrun, hnow, if_true, hdiff']

end

end Sys2Proof.Machine

/-! # What ends the run of an entry that no chain joins to another (R174, R176, R197, R199, R201)

An abort is followed from the cause that it counts to the completion of the member's COLL. -/

namespace Sys2Proof.Machine

/-! ## The words of the entries (R202) -/

/-- The words of a unit's entries stay, but for LAST_SEQ. -/
def WordsStay (c : Cell) (s t : State) : Prop := ∀ f n, n < 27 → rd t (cwKey c f n) = rd s (cwKey c f n)

section
variable {c : Cell} {f n : Nat}

theorem cwKey_ne_cmb {o : Nat} (h : o < 0x1000) : cwKey c f n ≠ cellReg c 4 o := by
  unfold cwKey cellReg regKey
  omega

theorem cwKey_ne_ni {o : Nat} (h : o < 0x10000) : cwKey c f n ≠ cellReg c 3 o := by
  unfold cwKey cellReg regKey
  omega

theorem cwKey_ne_last {e : Nat} (h : n < 27) : cwKey c f n ≠ cwKey c e 27 := by
  unfold cwKey cellReg regKey
  omega

/-- R202, R264: LAST_SEQ lies in no place of a completion ring's registers BASE, CFG and STAT, whatever the ring's number. -/
theorem lastSeq_ne_cq {e r i : Nat} (h : i < 3 ∨ i = 5) : cwKey c e 27 ≠ cqReg (.ni c) r i := by
  unfold cwKey cqReg cellReg regKey
  rcases h with h | rfl
  · rcases i with _ | _ | _ | i <;> simp <;> omega
  · simp; omega

end

section
variable {c : Cell} {s t : State}

theorem WordsStay.refl (c : Cell) (s : State) : WordsStay c s s := fun _ _ _ => rfl

theorem WordsStay.trans {u : State} (h : WordsStay c s t) (h' : WordsStay c t u) : WordsStay c s u :=
  fun f n hn => (h' f n hn).trans (h f n hn)

theorem WordsStay.of_regs (h : t.regs = s.regs) : WordsStay c s t := fun f n _ => by rw [rd, rd, h]

theorem WordsStay.of_touches {m : List Part} (h : Touches m s t) (hm : Part.regs ∉ m := by decide) : WordsStay c s t :=
  .of_regs (h.stays .regs hm)

theorem WordsStay.cntUp_cmb {o : Nat} (s : State) (lo len n : Nat) (h : o < 0x1000) : WordsStay c s (cntUp s (cellReg c 4 o) lo len n) :=
  fun _ _ _ => rd_cntUp_ne _ _ _ _ (cwKey_ne_cmb h)

theorem WordsStay.setBits_cmb {o : Nat} (s : State) (m : Nat) (h : o < 0x1000) : WordsStay c s (setBits s (cellReg c 4 o) m) :=
  fun _ _ _ => rd_setBits_ne _ _ (cwKey_ne_cmb h)

theorem WordsStay.wr_last (s : State) (e : Nat) (v : Word) : WordsStay c s (wr s (cwKey c e 27) v) :=
  fun _ _ hn => rd_wr_ne _ _ (cwKey_ne_last hn)

section
variable (h : WordsStay c s t) (e : Nat)
include h

theorem WordsStay.cw {n lo len : Nat} (hn : n < 27) : cw t c e n lo len = cw s c e n lo len := by
  simp only [Machine.cw, rdF, h e n hn]

theorem WordsStay.cNext : cNext t c e = cNext s c e := by simp only [Machine.cNext, h.cw e (n := 0) (by decide)]

theorem WordsStay.cRoot : cRoot t c e = cRoot s c e := by simp only [Machine.cRoot, h.cw e (n := 0) (by decide)]

theorem WordsStay.cLevel : cLevel t c e = cLevel s c e := by simp only [Machine.cLevel, h.cw e (n := 0) (by decide)]

theorem WordsStay.cGroup : cGroup t c e = cGroup s c e := by simp only [Machine.cGroup, h.cw e (n := 0) (by decide)]

theorem WordsStay.cNch : cNch t c e = cNch s c e := by simp only [Machine.cNch, h.cw e (n := 0) (by decide)]

theorem WordsStay.cPidx : cPidx t c e = cPidx s c e := by simp only [Machine.cPidx, h.cw e (n := 1) (by decide)]

theorem WordsStay.parentAddr : parentAddr t c e = parentAddr s c e := by
  simp only [Machine.parentAddr, h.cw e (n := 2) (by decide), h.cw e (n := 3) (by decide)]

theorem WordsStay.childAddr {k : Nat} (hk : k < 8) : childAddr t c e k = childAddr s c e k := by
  simp only [Machine.childAddr, h.cw e (n := 9 + 2 * k) (by omega), h.cw e (n := 8 + 2 * k) (by omega)]

theorem WordsStay.sigOf (d : BitVec 512) (ph : Nat) : sigOf t c e d ph = sigOf s c e d ph := by
  simp only [Machine.sigOf, cPlan, cMembers, h.cw e (n := 0) (by decide), h.cw e (n := 7) (by decide)]

theorem WordsStay.chunkInl (dir half kind child : Nat) (g : CSig) (seq cidx crc : Nat) :
    chunkInl t c e dir half kind child g seq cidx crc = chunkInl s c e dir half kind child g seq cidx crc := by
  simp only [Machine.chunkInl, h.cGroup, h.cLevel]

theorem WordsStay.entryAt (g lvl : Nat) : entryAt t c g lvl = entryAt s c g lvl := by
  simp only [Machine.entryAt, cValid, Machine.cGroup, Machine.cLevel, h.cw _ (n := 0) (by decide)]

theorem WordsStay.lowerOf : lowerOf t c e = lowerOf s c e := by
  simp only [Machine.lowerOf, h.cLevel, h.cGroup, h.entryAt, h.cNext]

end

end

/-! ## An entry without a chain (R165) -/

section
variable {s : State} {c : Cell} {e : Nat}

theorem chainOf_alone (htop : cNext s c e = false) (hbottom : lowerOf s c e = none) : chainOf s c e = [e] := by
  simp [chainOf, chainUp, chainDown, upperOf, htop, hbottom]

theorem chainUp_alone (htop : cNext s c e = false) : chainUp s c 4 e = [e] := by simp [chainUp, upperOf, htop]

/-- R181, R197: an entry without an entry below it has no aborts to spend. -/
theorem spendAborts_alone (hbottom : lowerOf s c e = none) (n : Nat) : spendAborts s c e n = s := by
  refine foldl_stays fun _ _ => ?_
  have hpast : basePast s c e ((cLast s c e + 1) % 2 ^ 32) = false := by simp [basePast, chainDown, hbottom]
  dsimp only
  rw [hpast]
  split <;> rfl

end

/-! ## Packets of a combine unit -/

section
variable {s : State} {c : Cell}

theorem txEnd_cmQueue (z : TxPkt) :
    txEnd (cmQueue s c z) (.cmb c) = { txEnd s (.cmb c) with queue := (txEnd s (.cmb c)).queue ++ [z] } := txEnd_setTxEnd_same ..

/-- The unit's packets are no packets of its cell's NI. -/
theorem txEnd_setTxEnd_cmb (x : TxEnd) : txEnd (setTxEnd s (.cmb c) x) (.ni c) = txEnd s (.ni c) := by
  have hc : c.key < 57600 := by
    unfold Cell.key
    have hf := cell_field_lt c
    have hn := cell_num_lt c
    omega
  refine FMap.get_set_ne _ _ _ ?_
  simp only [EndRef.key]
  omega

theorem queue_cmQueues {α : Type} (f : α → TxPkt) (l : List α) (s : State) :
    (txEnd (l.foldl (fun t x => cmQueue t c (f x)) s) (.cmb c)).queue = (txEnd s (.cmb c)).queue ++ l.map f := by
  induction l generalizing s with
  | nil => simp
  | cons x l ih => rw [List.foldl_cons, ih, txEnd_cmQueue]; simp

end

end Sys2Proof.Machine

/-! # Aborts (R197)

What an abort leaves at an entry that no chain joins to another, its idle entry, and the completion of its member's COLL. -/

namespace Sys2Proof.Machine

/-! ## ABORTs (R197) -/

section
variable {s t : State} {c : Cell} {e : Nat} {r : CRun} {z : CCause}

theorem cNch_lt (s : State) (c : Cell) (e : Nat) : cNch s c e < 8 := bits_lt _ _ _

/-- R197: the ABORT of an entry to one neighbour, its parent or a child. -/
def abortPkt (s : State) (c : Cell) (e : Nat) (r : CRun) (z : CCause) (up : Bool) (a : Nat) : TxPkt :=
  chunkPkt (chunkInl s c e (if up then 0 else 1) 0 2 (if up then cPidx s c e else 0) (sigOf s c e r.desc r.ph) r.seq z.cause
    (z.x + 256 * z.y + 65536 * z.lvl)) a [] 0

theorem abortsOf_all (s : State) (c : Cell) (e : Nat) (r : CRun) (z : CCause) :
    abortsOf s c e r z none = (if cRoot s c e then [] else [abortPkt s c e r z true (parentAddr s c e)]) ++
      (List.range (cNch s c e)).map (fun k => abortPkt s c e r z false (childAddr s c e k)) := by
  unfold abortsOf
  rw [List.map_eq_flatMap]
  rfl

theorem WordsStay.abortPkt (h : WordsStay c s t) (up : Bool) (a : Nat) : abortPkt t c e r z up a = abortPkt s c e r z up a := by
  unfold Machine.abortPkt
  rw [h.sigOf e, h.chunkInl e, h.cPidx e]

theorem WordsStay.abortsOf (h : WordsStay c s t) : abortsOf t c e r z none = abortsOf s c e r z none := by
  rw [abortsOf_all, abortsOf_all, h.cRoot e, h.cNch e, h.parentAddr e, h.abortPkt]
  refine congrArg (_ ++ ·) (List.map_congr_left fun k hk => ?_)
  rw [h.childAddr e (Nat.lt_trans (List.mem_range.1 hk) (cNch_lt s c e)), h.abortPkt]

/-- R197: an entry's ABORTs go to its parent and to each child. -/
theorem queue_sendAborts (hwords : WordsStay c s t) (htop : cNext s c e = false) :
    (txEnd (sendAborts t c e (sigOf s c e r.desc r.ph) r.seq z none) (.cmb c)).queue =
      (txEnd t (.cmb c)).queue ++ abortsOf s c e r z none := by
  rw [← hwords.abortsOf, abortsOf_all, ← hwords.sigOf e]
  unfold sendAborts
  simp only [reduceCtorEq, if_false]
  rw [queue_cmQueues (fun x : Nat × Nat => chunkPkt x.2 x.1 [] 0), (hwords.cNext e).trans htop, Bool.or_false, List.map_append,
    List.map_map]
  congr 2
  cases cRoot t c e <;> rfl

theorem txEnd_ni_sendAborts (g : CSig) (seq : Nat) (x : Option Nat) :
    txEnd (sendAborts s c e g seq z x) (.ni c) = txEnd s (.ni c) := by
  unfold sendAborts
  refine foldl_keeps (g := fun t => txEnd t (.ni c)) (fun y _ t => ?_) s
  split
  · rfl
  · exact txEnd_setTxEnd_cmb _

/-- R197: what an abort at an entry without a chain leaves before the entry is idle: bytes of DST undefined, packets withdrawn and
ABORTs on their way. -/
def aborting (s : State) (c : Cell) (e : Nat) (r : CRun) (z : CCause) : State :=
  sendAborts (dropQueued (fillFree s c (lostPieces s c e r)) c (cGroup s c e) r.seq) c e (sigOf s c e r.desc r.ph) r.seq z none

theorem aborting_touches : Touches [.mem, .tx, .freeCtr] s (aborting s c e r z) :=
  sendAborts_touches _ _ _ _ _ _ (by decide) (dropQueued_touches _ _ _ (by decide) (fillFree_touches _ _ (by decide) (.refl _ s)))

theorem dropping_touches : Touches [.mem, .tx, .freeCtr] s (dropQueued (fillFree s c (lostPieces s c e r)) c (cGroup s c e) r.seq) :=
  dropQueued_touches _ _ _ (by decide) (fillFree_touches _ _ (by decide) (.refl _ s))

theorem queue_aborting (htop : cNext s c e = false) :
    ∃ l, (∀ y, y ∈ l → y ∈ (txEnd s (.cmb c)).queue) ∧ (txEnd (aborting s c e r z) (.cmb c)).queue = l ++ abortsOf s c e r z none := by
  have hfill : txEnd (fillFree s c (lostPieces s c e r)) (.cmb c) = txEnd s (.cmb c) :=
    (fillFree_touches (m := [.mem, .freeCtr]) c _ (by decide) (.refl _ s)).txEnd_eq (by decide) _
  refine ⟨_, fun y hy => ?_, queue_sendAborts (.of_touches dropping_touches (by decide)) htop⟩
  rw [dropQueued, txEnd_setTxEnd_same, hfill] at hy
  exact (List.mem_filter.1 hy).1

theorem txEnd_ni_aborting : txEnd (aborting s c e r z) (.ni c) = txEnd s (.ni c) := by
  rw [aborting, txEnd_ni_sendAborts, dropQueued, txEnd_setTxEnd_cmb]
  exact (fillFree_touches (m := [.mem, .freeCtr]) c _ (by decide) (.refl _ s)).txEnd_eq (by decide) _

/-! ## An entry becomes idle (R179, R197) -/

/-- R197: the entry is idle, with LAST_SEQ and the cause of its end. -/
def idled (s : State) (c : Cell) (e : Nat) (r : CRun) (z : CCause) : State :=
  setCent (wr s (cwKey c e 27) (BitVec.ofNat 32 r.seq)) c e
    { cent s c e with run := none, upDone := r.upDone, downDone := r.downDone, last := z }

theorem goIdle_alone (hbottom : lowerOf s c e = none) :
    goIdle s c e r = wr (setCent s c e { cent s c e with run := none, upDone := r.upDone, downDone := r.downDone }) (cwKey c e 27)
      (BitVec.ofNat 32 r.seq) := by
  refine spendAborts_alone ?_ _
  exact ((WordsStay.wr_last _ _ _).lowerOf e).trans hbottom

theorem idled_eq (hbottom : lowerOf s c e = none) :
    setCent (goIdle s c e r) c e { cent (goIdle s c e r) c e with last := z } = idled s c e r z := by
  rw [goIdle_alone hbottom]
  have hcent : ∀ x, cent (wr (setCent s c e x) (cwKey c e 27) (BitVec.ofNat 32 r.seq)) c e = x := fun x => cent_setCent_same s c e x
  rw [hcent]
  exact setCent_setCent (wr s (cwKey c e 27) (BitVec.ofNat 32 r.seq)) c e _ _

theorem cent_idled : cent (idled s c e r z) c e = { cent s c e with run := none, upDone := r.upDone, downDone := r.downDone, last := z } :=
  cent_setCent_same ..

theorem rd_idled : rd (idled s c e r z) (cwKey c e 27) = BitVec.ofNat 32 r.seq := rd_wr_same ..

theorem rd_idled_ne {k : Nat} (h : k ≠ cwKey c e 27) : rd (idled s c e r z) k = rd s k := rd_wr_ne _ _ h

theorem ents_idled {x : CEnt} (h : (cmb s c).ents = [(e, x)]) :
    (cmb (idled s c e r z) c).ents = [(e, { cent s c e with run := none, upDone := r.upDone, downDone := r.downDone, last := z })] := by
  rw [idled, cmb_setCent]
  show ((cmb s c).ents.set e _) = _
  rw [h]
  simp [FMap.set]

/-- R185, R197: the member's COLL, where the entry runs one, completes with the cause. -/
def collEnded (s : State) (c : Cell) (r : CRun) (z : CCause) : State :=
  match r.ctx with
  | some id => endColl s c id (causeErr z.cause) (collResult r)
  | none => s

/-- R197: one entry without a chain ends its run. -/
theorem abortOne_alone (hrun : crun s c e = some r) (hbottom : lowerOf s c e = none) :
    abortOne s c e z none = collEnded (idled (aborting s c e r z) c e r z) c r z := by
  have hlow : lowerOf (aborting s c e r z) c e = none := ((WordsStay.of_touches aborting_touches (by decide)).lowerOf e).trans hbottom
  rw [← idled_eq hlow]
  unfold abortOne collEnded
  rw [hrun]
  rfl

/-! ## The member's COLL completes (R185, R199, R259) -/

theorem rd_finish_ni {k : Nat} (hk : ∀ q, k ≠ cqReg (.ni c) q 5) (id : Nat) : rd (finish s (.ni c) id) k = rd s k := by
  have hwrite : ∀ (t : State) q ent, rd (cqWrite t (.ni c) q ent) k = rd t k := fun t q ent => by
    unfold cqWrite
    dsimp only
    split
    · exact rd_cntUp_ne _ _ _ _ (hk q)
    · rfl
  unfold finish
  split
  · rfl
  · show rd (if _ then _ else cqPost _ (.ni c) _ _) k = _
    split
    · rfl
    · exact hwrite _ _ _

theorem rd_endColl {k : Nat} (hk : ∀ q, k ≠ cqReg (.ni c) q 5) (id : Nat) (err : Option (Nat × Nat)) (res : Nat) :
    rd (endColl s c id err res) k = rd s k := by
  have hset : ∀ f, rd (updCtx s (.ni c) id f) k = rd s k := fun f => by unfold updCtx; split <;> rfl
  unfold endColl settleCtx
  split
  · exact hset _
  · split
    · split
      · exact (rd_finish_ni hk id).trans (hset _)
      · exact hset _
    · exact hset _

theorem Entered.of_same {s' : State} {q : Nat} {ent : BitVec 128} (h : Entered s' t (.ni c) q ent) (hcq : cqOf s' (.ni c) q = cqOf s (.ni c) q)
    (hbase : rd s' (cqReg (.ni c) q 0) = rd s (cqReg (.ni c) q 0)) (hlog : rdF s' (cqReg (.ni c) q 2) 0 5 = rdF s (cqReg (.ni c) q 2) 0 5) :
    Entered s t (.ni c) q ent := by
  have haddr : entryAddr s' (.ni c) q = entryAddr s (.ni c) q := by simp only [entryAddr, ringBase, hbase, hlog, hcq]
  unfold Entered at h ⊢
  rwa [hcq, hlog, haddr] at h

theorem Entered.to_same {t' : State} {q : Nat} {ent : BitVec 128} (h : Entered s t (.ni c) q ent) (hmem : t'.mem = t.mem)
    (hunit : punit t' (.ni c) = punit t (.ni c)) : Entered s t' (.ni c) q ent := by
  unfold Entered cqOf at h ⊢
  rwa [hmem, hunit]

/-- R185, R259: the COLL that is its cell's only descriptor completes with a status. -/
theorem endColl_lone {id : Nat} {x : Ctx} (hctxs : (punit s (.ni c)).ctxs = [(id, x)]) (hout : x.out = 0)
    (hstill : inFlight s (.ni c) id = false) (hring : (cqOf s (.ni c) x.cq).st = .running) (err : Nat × Nat) (res : Nat) :
    Entered s (endColl s c id (some err) res) (.ni c) x.cq (cplEntry { x with err := some err, result := res }) ∧
      (punit (endColl s c id (some err) res) (.ni c)).ctxs = [] := by
  let y : Ctx := { x with err := some err, result := res, todo := [], st := .active, issued := true }
  have hset : updCtx s (.ni c) id (fun x => { x with err := some err, result := res, todo := [], st := .active, issued := true }) =
      setCtx s (.ni c) id y := updCtx_some (ctxOf_only hctxs) _
  have hctxs' : (punit (setCtx s (.ni c) id y) (.ni c)).ctxs = [(id, y)] := ctxs_setCtx hctxs
  have hcq : cqOf (setCtx s (.ni c) id y) (.ni c) x.cq = cqOf s (.ni c) x.cq := by simp [cqOf, setCtx]
  have hend : endColl s c id (some err) res = finish (setCtx s (.ni c) id y) (.ni c) id := by
    unfold endColl
    rw [hset]
    exact settleCtx_done (ctxOf_only hctxs') rfl rfl hout ((inFlight_setCtx ..).trans hstill)
  obtain ⟨⟨hentered, -⟩, -, q, k, hunit⟩ := finish_reports (x := y) hctxs' ((congrArg CqRing.st hcq).trans hring) (by simp [y])
  rw [hend]
  exact ⟨hentered.of_same hcq rfl rfl, by rw [hunit]⟩

/-! ## A unit whose only entry is idle goes no further by itself -/

theorem cmSettle_idleEntry {x : CEnt} (hents : (cmb s c).ents = [(e, x)]) (hidle : crun s c e = none) :
    cmSettle s c = cmIdleGroups s c := by
  have hphase : phaseStep s c e = s := by simp only [phaseStep, hidle]
  have hfinish : finishStep s c e = s := by simp only [finishStep, hidle]
  simp only [cmSettle, hents, List.map_cons, List.map_nil, List.foldl_cons, List.foldl_nil, hphase, hfinish]

theorem cent_cmIdleGroups : cent (cmIdleGroups s c) c e = cent s c e := by
  rw [cent, ents_cmIdleGroups, cent]

theorem cmIdleGroups_touched : Touches [.cmbs] s (cmIdleGroups s c) := cmIdleGroups_touches _ (by decide) (.refl _ s)

theorem collEnded_touches : Touches [.mem, .regs, .units, .tel] s (collEnded s c r z) := by
  unfold collEnded
  split
  · exact endColl_touches _ _ _ _ (by decide) (.refl _ s)
  · exact .refl _ s

theorem rd_collEnded {k : Nat} (hk : ∀ q, k ≠ cqReg (.ni c) q 5) : rd (collEnded s c r z) k = rd s k := by
  unfold collEnded
  split
  · exact rd_endColl hk _ _ _
  · rfl

theorem cmbs_eq {m : List Part} (h : Touches m s t) (hm : Part.cmbs ∉ m := by decide) (c : Cell) : cmb t c = cmb s c := by
  unfold cmb
  rw [show t.cmbs = s.cmbs from h.stays .cmbs hm]

/-! ## The end of a run -/

theorem LoneCtx.of_same {id : Nat} {x : Ctx} (h : LoneCtx s (.ni c) id x) (hdoms : t.doms = s.doms) (haclk : t.aclk = s.aclk)
    (hunit : punit t (.ni c) = punit s (.ni c)) (htx : txEnd t (.ni c) = txEnd s (.ni c)) : LoneCtx t (.ni c) id x := by
  have hclk : clocked t c.field = clocked s c.field := by unfold clocked dom; rw [hdoms, haclk]
  have hstill : inFlight t (.ni c) id = inFlight s (.ni c) id := by
    simp only [inFlight, unitEnds, List.any_cons, List.any_nil, htx, hunit]
  exact ⟨hclk.trans h.clock, hunit ▸ h.ctxs, h.unsent, h.answered, h.good, h.reports, hstill.trans h.still, hunit ▸ h.noRelease,
    by simpa only [cqOf, hunit] using h.ring, nofun⟩

/-- R197, R199: an entry without a chain is aborted with a cause. -/
theorem LoneRun.abortInst (h : LoneRun s c e r) : Aborted s (cmSettle (abortInst s c e z none) c) c e r z none := by
  obtain ⟨x, hents⟩ := h.only
  let u := aborting s c e r z
  let v := idled u c e r z
  have hchain : Machine.abortInst s c e z none = collEnded v c r z := by
    simp only [Machine.abortInst, chainOf_alone h.top h.bottom, List.foldl_cons, List.foldl_nil, abortOne_alone h.running h.bottom, u, v]
  have hcoll : Touches [.mem, .regs, .units, .tel] v (collEnded v c r z) := collEnded_touches
  have hcmb : cmb (collEnded v c r z) c = cmb v c := cmbs_eq hcoll (by decide) c
  have hcent : cent (collEnded v c r z) c e = cent v c e := by rw [cent, hcmb, cent]
  have hidle : crun (collEnded v c r z) c e = none := by rw [crun, hcent, cent_idled]
  have hents' : (cmb u c).ents = [(e, x)] := by rw [cmbs_eq aborting_touches (by decide) c, hents]
  have hsettle : cmSettle (collEnded v c r z) c = cmIdleGroups (collEnded v c r z) c :=
    cmSettle_idleEntry (by rw [hcmb]; exact ents_idled hents') hidle
  have hlast := cmIdleGroups_touched (s := collEnded v c r z) (c := c)
  rw [hchain, hsettle]
  refine ⟨?_, ?_, ?_, ?_, fun id y hctx hlone => ?_⟩
  · rw [crun, cent_cmIdleGroups, ← crun, hidle]
  · rw [rd, hlast.stays .regs (by decide), ← rd, rd_collEnded fun q => lastSeq_ne_cq (.inr rfl)]
    exact rd_idled
  · rw [cent_cmIdleGroups, hcent, cent_idled]
  · rw [hlast.txEnd_eq (by decide), hcoll.txEnd_eq (by decide)]
    exact queue_aborting h.top
  · have hend : collEnded v c r z = endColl v c id (causeErr z.cause) (collResult r) := by rw [collEnded, hctx]
    have hunit : punit v (.ni c) = punit s (.ni c) := aborting_touches.punit_eq (by decide) _
    have hlone' : LoneCtx v (.ni c) id y := by
      refine hlone.of_same ?_ ?_ hunit txEnd_ni_aborting
      · exact aborting_touches.stays .doms (by decide)
      · exact aborting_touches.stays .aclk (by decide)
    obtain ⟨hentered, hfree⟩ := endColl_lone hlone'.ctxs hlone'.answered hlone'.still hlone'.ring
      (if z.cause = 0x40 then (0xA, 0x40) else (9, z.cause)) (collResult r)
    have hregs : ∀ i, i < 3 → rd v (cqReg (.ni c) y.cq i) = rd s (cqReg (.ni c) y.cq i) := fun i hi => by
      rw [rd_idled_ne (lastSeq_ne_cq (.inl hi)).symm, rd, aborting_touches.stays .regs (by decide), ← rd]
    have hcq : cqOf v (.ni c) y.cq = cqOf s (.ni c) y.cq := by rw [cqOf, hunit, cqOf]
    have hlog : rdF v (cqReg (.ni c) y.cq 2) 0 5 = rdF s (cqReg (.ni c) y.cq 2) 0 5 := by rw [rdF, hregs 2 (by decide), rdF]
    rw [hend] at hlast ⊢
    refine ⟨(hentered.of_same hcq (hregs 0 (by decide)) hlog).to_same (hlast.stays .mem (by decide)) (hlast.punit_eq (by decide) _), ?_⟩
    rw [hlast.punit_eq (by decide)]
    exact hfree

theorem countAbort_words (cause : Nat) : WordsStay c s (countAbort s c cause) := by
  unfold countAbort
  dsimp only
  have hflag : ∀ lo b, WordsStay c s (setBits (cntUp s (cellReg c 4 0xC) lo 8 1) (cellReg c 4 4) b) := fun lo b =>
    (WordsStay.cntUp_cmb s lo 8 1 (by decide)).trans (.setBits_cmb _ _ (by decide))
  split
  · exact hflag _ _
  · split
    · exact hflag _ _
    · split
      · exact hflag _ _
      · split
        · exact hflag _ _
        · exact .cntUp_cmb s _ _ _ (by decide)

theorem countAbort_touched (cause : Nat) : Touches [.regs] s (countAbort s c cause) := countAbort_touches _ _ (by decide) (.refl _ s)

/-- Abort counts leave what makes an entry run alone. -/
theorem LoneRun.countAbort (h : LoneRun s c e r) (cause : Nat) : LoneRun (countAbort s c cause) c e r := by
  have htouch := countAbort_touched (s := s) (c := c) cause
  have hwords := countAbort_words (s := s) (c := c) cause
  have hcmb := cmbs_eq htouch (by decide) c
  refine ⟨?_, by rw [hcmb]; exact h.only, ?_, (hwords.cNext e).trans h.top, (hwords.lowerOf e).trans h.bottom⟩
  · rw [← h.clock]
    unfold clocked dom
    rw [htouch.stays .doms (by decide), htouch.stays .aclk (by decide)]
  · rw [← h.running, crun, cent, hcmb, ← cent, ← crun]

/-- R201: a run that ends at an entry with a cause of its own. -/
theorem LoneRun.abortHere (h : LoneRun s c e r) (cause : Nat) :
    Aborted (Machine.countAbort s c cause) (cmSettle (abortHere s c e cause) c) c e r ⟨cause, c.x.val, c.y.val, cLevel s c e⟩ none :=
  (h.countAbort cause).abortInst

/-- R176, R232: the flag of a protocol error is in no field that says where a completion ring lies, whatever the ring's number. -/
theorem ring_countProtocol (q : Nat) :
    rd (Machine.countAbort s c 0x60) (cqReg (.ni c) q 0) = rd s (cqReg (.ni c) q 0) ∧
      rdF (Machine.countAbort s c 0x60) (cqReg (.ni c) q 2) 0 5 = rdF s (cqReg (.ni c) q 2) 0 5 := by
  have hcount : ∀ i, i = 0 ∨ i = 2 → cqReg (.ni c) q i ≠ cellReg c 4 0xC := by
    rintro i (rfl | rfl) <;> simp [cqReg, cellReg, regKey] <;> omega
  have hbase : cqReg (.ni c) q 0 ≠ cellReg c 4 4 := by
    simp [cqReg, cellReg, regKey]; omega
  have habort : Machine.countAbort s c 0x60 = setBits (cntUp s (cellReg c 4 0xC) 24 8 1) (cellReg c 4 4) (2 ^ 5) := rfl
  rw [habort]
  refine ⟨(rd_setBits_ne _ _ hbase).trans (rd_cntUp_ne _ _ _ _ (hcount 0 (.inl rfl))), ?_⟩
  by_cases hflag : cqReg (.ni c) q 2 = cellReg c 4 4
  · rw [hflag, rdF_setBits_below _ _ (by decide), ← hflag, rdF, rd_cntUp_ne _ _ _ _ (hcount 2 (.inr rfl)), rdF]
  · rw [rdF, rd_setBits_ne _ _ hflag, rd_cntUp_ne _ _ _ _ (hcount 2 (.inr rfl)), rdF]

/-- An abort that follows a change of the unit's chunks and of registers that say neither what its entries are nor where completion
rings lie. -/
theorem Aborted.of_same {s' : State} (h : Aborted s' t c e r z none) (htouch : Touches [.regs, .cmbs] s s') (hwords : WordsStay c s s')
    (hring : ∀ q, rd s' (cqReg (.ni c) q 0) = rd s (cqReg (.ni c) q 0) ∧ rdF s' (cqReg (.ni c) q 2) 0 5 = rdF s (cqReg (.ni c) q 2) 0 5) :
    Aborted s t c e r z none := by
  obtain ⟨hrun, hseq, hlast, ⟨l, hl, hqueue⟩, hcoll⟩ := h
  refine ⟨hrun, hseq, hlast, ⟨l, fun y hy => ?_, hqueue.trans (congrArg (l ++ ·) hwords.abortsOf)⟩, fun id y hctx hlone => ?_⟩
  · rw [← htouch.txEnd_eq (by decide)]
    exact hl y hy
  · have hunit := htouch.punit_eq (by decide) (.ni c)
    obtain ⟨hentered, hfree⟩ := hcoll id y hctx (hlone.of_same (htouch.stays .doms (by decide)) (htouch.stays .aclk (by decide))
      hunit (htouch.txEnd_eq (by decide) _))
    obtain ⟨hbase, hlog⟩ := hring y.cq
    exact ⟨hentered.of_same (by rw [cqOf, hunit, cqOf]) hbase hlog, hfree⟩

/-- R176, R201: a protocol error ends the run. -/
theorem LoneRun.protocolErr (h : LoneRun s c e r) :
    Aborted s (cmSettle (protocolErr s c e) c) c e r ⟨0x60, c.x.val, c.y.val, cLevel s c e⟩ none :=
  (h.abortHere 0x60).of_same ((countAbort_touched 0x60).mono (by decide)) (countAbort_words 0x60) ring_countProtocol

end

end Sys2Proof.Machine

/-! # Chunks as they arrive (R174-R176, R179, R220)

A current chunk whose signature agrees, by its kind, and the two places where its effect falls: the entry's run, or the end of
that run. -/

namespace Sys2Proof.Machine

section
variable {s t : State} {c : Cell} {e k : Nat} {r r' : CRun} {p : RxPkt} {rest : List RxPkt} {ecc : Ecc}

/-- The edge of a run after a whole DATA chunk has landed in a slot of its own. -/
def CEdge.landed (y : CEdge) (p : RxPkt) : CEdge :=
  { y with
    passed := true, granted := y.granted - 1,
    slots := y.slots ++ [⟨hInl p.hdr 88 8, some (dataBytes p.hdr p.data), some [], hInl p.hdr 96 32⟩] }

/-- A chunk has landed, not yet verified. -/
def chunkLanded (s : State) (c : Cell) (e : Nat) (r : CRun) (k : Nat) (p : RxPkt) : State :=
  progress (scrWrote (setRun s c e (r.upd k fun _ => (r.edge k).landed p)) c ⟨e, k, r.ph, hInl p.hdr 88 8, 0⟩) c e

section
variable (hk : k ≠ 7) (hslot : (r.edge k).slots.find? (fun x => x.idx == hInl p.hdr 88 8) = none)
include hk hslot

/-- R176: no credit has reserved a slot for the chunk. -/
theorem dataLand_noCredit (h : (r.edge k).granted = 0) : dataLand s c e r k p ecc = protocolErr s c e := by
  simp [dataLand, hslot, h, hk]

/-- R174, R176: a half that is a whole chunk lands and is verified. -/
theorem dataLand_whole (hhalf : hInl p.hdr 11 1 = 0) (hidx : hInl p.hdr 88 8 < nChunks (phFmt r.desc r.ph) (upElems s c e r))
    (hone : chunkLen (phFmt r.desc r.ph) (upElems s c e r) (hInl p.hdr 88 8) ≤ 2048) (hgrant : 0 < (r.edge k).granted)
    (hlen : (dataBytes p.hdr p.data).length = chunkLen (phFmt r.desc r.ph) (upElems s c e r) (hInl p.hdr 88 8)) :
    dataLand s c e r k p ecc =
      if crc32c (dataBytes p.hdr p.data) = hInl p.hdr 96 32 then
        updRun (chunkLanded s c e r k p) c e (fun z => z.upd k (fun w => { w with got := w.got + 1 }))
      else abortHere (chunkLanded s c e r k p) c e 0x30 := by
  have hcredit : (r.edge k).granted ≠ 0 := Nat.pos_iff_ne_zero.1 hgrant
  have hin : ¬ nChunks (phFmt r.desc r.ph) (upElems s c e r) ≤ hInl p.hdr 88 8 := Nat.not_le.2 hidx
  by_cases hcrc : crc32c (dataBytes p.hdr p.data) = hInl p.hdr 96 32 <;>
    simp [dataLand, hslot, hk, hhalf, hin, hcredit, hone, hlen, hcrc, CSlot.full, chunkLanded, CEdge.landed]

end

theorem chunkLanded_touches : Touches [.cmbs] s (chunkLanded s c e r k p) :=
  progress_touches _ _ (by decide) (scrWrote_touches _ _ (by decide) (setRun_touches _ _ _ (by decide) (.refl _ s)))

theorem crun_scrWrote (q : CPlace) : crun (scrWrote s c q) c e = crun s c e := crun_setCmb _ _ _ rfl

/-- The run of an entry after a chunk has landed. -/
theorem crun_chunkLanded :
    crun (chunkLanded s c e r k p) c e =
      some ((r.upd k fun _ => (r.edge k).landed p).restarted s c e) := by
  rw [chunkLanded, progress_eq ((crun_scrWrote _).trans (crun_setRun_same ..)), crun_setRun_same]
  rfl

theorem ents_setRun {x : CEnt} (h : (cmb s c).ents = [(e, x)]) : ∃ y, (cmb (setRun s c e r) c).ents = [(e, y)] := by
  rw [cmb_setRun, h]
  simp [FMap.set]

theorem inbox_chunkLanded : (cmb (chunkLanded s c e r k p) c).inbox = (cmb s c).inbox := by
  rw [chunkLanded, progress_eq ((crun_scrWrote _).trans (crun_setRun_same ..)), cmb_setRun, scrWrote, cmb_setCmb_same, cmb_setRun]

/-- The entry still runs alone when only its run and its unit's chunks have changed. -/
theorem LoneRun.of_touches (h : LoneRun s c e r) (htouch : Touches [.cmbs] s t) (honly : ∃ x, (cmb t c).ents = [(e, x)])
    (hrun : crun t c e = some r') : LoneRun t c e r' := by
  have hwords : WordsStay c s t := .of_touches htouch
  refine ⟨?_, honly, hrun, (hwords.cNext e).trans h.top, (hwords.lowerOf e).trans h.bottom⟩
  rw [← h.clock]
  unfold clocked dom
  rw [htouch.stays .doms (by decide), htouch.stays .aclk (by decide)]

theorem LoneRun.popped (h : LoneRun s c e r) (rest : List RxPkt) : LoneRun (popped s c rest) c e r := by
  refine h.of_touches popped_touches ?_ ((crun_popped e).trans h.running)
  rw [Machine.popped, cmb_setCmb_same]
  exact h.only

theorem LoneRun.chunkLanded (h : LoneRun s c e r) (k : Nat) (p : RxPkt) :
    LoneRun (chunkLanded s c e r k p) c e ((r.upd k fun _ => (r.edge k).landed p).restarted s c e) := by
  refine h.of_touches chunkLanded_touches ?_ crun_chunkLanded
  obtain ⟨x, hx⟩ := h.only
  obtain ⟨y, hy⟩ := ents_setRun (r := r.upd k fun _ => (r.edge k).landed p) hx
  rw [Machine.chunkLanded, progress_eq ((crun_scrWrote _).trans (crun_setRun_same ..))]
  refine ents_setRun (x := y) ?_
  rw [scrWrote, cmb_setCmb_same, hy]

/-! ## The chunk that a unit takes, by its kind -/

section
variable (h : Current s c e r p rest) (hagree : runDiff s c e r.desc r.ph (hInl p.hdr 12 3) (hdrSig p.hdr) = none)
  (hedge : edgeOf s c e p.hdr = some k)
include h hagree

/-- R195: a unit takes a current chunk whose signature agrees, by a command for its kind. -/
theorem Current.taken {kinds : List Nat} (hlt : hInl p.hdr 12 3 < 5) (hkind : kinds.contains (hInl p.hdr 12 3) = true) :
    takeChunk s c kinds ecc = cmSettle (currentChunk (popped s c rest) c e r p ecc) c := by
  rw [h.next.taken hlt hkind, h.agrees hagree]

include hedge

/-- R175: a CREDIT adds its sends to its edge. -/
theorem Current.credit (hkind : hInl p.hdr 12 3 = 1) :
    exec (.creditChunk c) s = .next (cmSettle (progress (setRun (popped s c rest) c e
      (r.upd k (fun y => { y with cred := y.cred + hInl p.hdr 88 8, credSeen := true }))) c e) c) := by
  have hedge' : edgeOf (popped s c rest) c e p.hdr = some k := hedge
  show Host.Outcome.next (takeChunk s c [1] .ok) = _
  rw [h.taken hagree (by rw [hkind]; decide) (by rw [hkind]; decide)]
  simp only [currentChunk, hkind, hedge', OfNat.one_ne_ofNat, one_ne_zero, if_false, if_true]

/-- R179: a TOKEN gives its edge the number of DATA chunks. -/
theorem Current.token (hkind : hInl p.hdr 12 3 = 3) :
    exec (.tokenChunk c) s = .next (cmSettle (progress (setRun (popped s c rest) c e
      (r.upd k (fun y => { y with tok := some (hInl p.hdr 96 32), passed := true }))) c e) c) := by
  have hedge' : edgeOf (popped s c rest) c e p.hdr = some k := hedge
  show Host.Outcome.next (takeChunk s c [3] .ok) = _
  rw [h.taken hagree (by rw [hkind]; decide) (by rw [hkind]; decide)]
  simp [currentChunk, hkind, hedge']

/-- R220: a MAP from above gives a sparse run its number of tiles. -/
theorem Current.map (hkind : hInl p.hdr 12 3 = 4) (hsparse : kSparse r.desc = true) (hk : k = 7) :
    exec (.mapChunk c) s = .next (cmSettle (setRun (popped s c rest) c e
      { r with gotMap := some (hInl p.hdr 88 8, hInl p.hdr 96 32) }) c) := by
  have hedge' : edgeOf (popped s c rest) c e p.hdr = some k := hedge
  show Host.Outcome.next (takeChunk s c [4] .ok) = _
  rw [h.taken hagree (by rw [hkind]; decide) (by rw [hkind]; decide)]
  simp [currentChunk, hkind, hedge', hsparse, hk]

/-- R176: a DATA half lands. -/
theorem Current.data (hkind : hInl p.hdr 12 3 = 0) :
    exec (.dataChunk c ecc) s = .next (cmSettle (dataLand (popped s c rest) c e r k p ecc) c) := by
  have hedge' : edgeOf (popped s c rest) c e p.hdr = some k := hedge
  show Host.Outcome.next (takeChunk s c [0, 5, 6, 7, 8] ecc) = _
  rw [h.taken hagree (by rw [hkind]; decide) (by rw [hkind]; decide)]
  simp [currentChunk, hkind, hedge']

end

end

/-- R174-R176, R179, R220: what a current chunk whose signature agrees does. -/
theorem chunksTaken : Claim.ChunksTaken := by
  intro c ecc e k s r p rest h hagree hedge
  have hpop : Touches [.cmbs] s (popped s c rest) := popped_touches
  have hlone := h.lone.popped rest
  have hedges : ∀ f : CEdge → CEdge,
      crun (progress (setRun (popped s c rest) c e (r.upd k f)) c e) c e = some ((r.upd k f).restarted s c e) ∧
      (cmb (progress (setRun (popped s c rest) c e (r.upd k f)) c e) c).inbox = rest ∧
      ((r.upd k f).restarted s c e).edge k = f (r.edge k) ∧ (∀ j, j ≠ k → ((r.upd k f).restarted s c e).edge j = r.edge j) ∧
      Touches [.cmbs] s (progress (setRun (popped s c rest) c e (r.upd k f)) c e) := fun f => by
    rw [progress_setRun, edge_restarted, edge_upd_same]
    exact ⟨crun_setRun_same .., inbox_setRun, rfl, fun j hj => (edge_restarted ..).trans (edge_upd_ne _ _ _ hj),
      setRun_touches _ _ _ (by decide) hpop⟩
  refine ⟨fun hkind => ?_, fun hkind => ?_, fun hkind hsparse hk => ?_,
    fun hkind hk hhalf hidx hslot hone => ⟨fun hno => ?_, fun hgrant hlen => ?_⟩⟩
  · obtain ⟨hrun, hinbox, hsame, hother, htouch⟩ := hedges fun y => { y with cred := y.cred + hInl p.hdr 88 8, credSeen := true }
    exact ⟨_, _, h.credit hagree hedge hkind, hinbox, hrun, hsame, hother, rfl, htouch⟩
  · obtain ⟨hrun, hinbox, hsame, hother, htouch⟩ := hedges fun y => { y with tok := some (hInl p.hdr 96 32), passed := true }
    exact ⟨_, _, h.token hagree hedge hkind, hinbox, hrun, hsame, hother, rfl, htouch⟩
  · exact ⟨_, h.map hagree hedge hkind hsparse hk, inbox_setRun, crun_setRun_same .., setRun_touches _ _ _ (by decide) hpop⟩
  · refine ⟨_, h.data hagree hedge hkind, ?_⟩
    rw [dataLand_noCredit hk hslot hno]
    exact hlone.protocolErr.of_same (hpop.mono (by decide)) (.of_touches hpop) fun _ => ⟨rfl, rfl⟩
  · have hland := dataLand_whole (s := popped s c rest) (c := c) (e := e) (ecc := ecc) hk hslot hhalf hidx hone hgrant hlen
    refine ⟨fun hcrc => ?_, fun hcrc => ?_⟩
    · rw [if_pos hcrc, updRun_eq _ crun_chunkLanded] at hland
      refine ⟨_, _, h.data hagree hedge hkind, ?_, (congrArg (crun · c e) hland).trans (crun_setRun_same ..), ?_, fun j hj => ?_, rfl, ?_⟩
      · rw [hland, cmb_setRun, inbox_chunkLanded, inbox_popped]
      · rw [edge_upd_same, edge_restarted, edge_upd_same]
        rfl
      · rw [edge_upd_ne _ _ _ hj, edge_restarted, edge_upd_ne _ _ _ hj]
      · rw [hland]
        exact setRun_touches _ _ _ (by decide) (hpop.trans chunkLanded_touches)
    · obtain ⟨hrun, -, hlast, -⟩ := (hlone.chunkLanded k p).abortHere 0x30
      have hlevel : cLevel (chunkLanded (popped s c rest) c e r k p) c e = cLevel s c e :=
        (WordsStay.of_touches (hpop.trans chunkLanded_touches)).cLevel e
      refine ⟨_, h.data hagree hedge hkind, ?_⟩
      rw [hland, if_neg hcrc]
      exact ⟨hrun, hlevel ▸ hlast⟩

end Sys2Proof.Machine

/-! # Chunks as they are sent (R174, R175, R179)

A chunk in halves in its unit's queue, what CHUNK_SEND sends up and down, and what follows when a chunk's last flit has entered the router's
C input. -/

namespace Sys2Proof.Machine

/-! ## Chunks in the queue -/

section
variable {s : State} {c : Cell} {e : Nat} {r : CRun}

/-- R170: the packets of a DATA chunk, in halves of up to 2,048 bytes, of which the last frees its slot. -/
def halves (mk : Nat → List Byte → Nat → TxPkt) (l : List Byte) (port : Nat) : List TxPkt :=
  if l.length ≤ 2048 then [mk 0 l port] else [mk 0 (l.take 2048) 0, mk 1 (l.drop 2048) port]

section
variable (mk : Nat → List Byte → Nat → TxPkt) (l : List Byte) (port : Nat)

theorem queue_queueData :
    (txEnd (queueData s c mk l port) (.cmb c)).queue = (txEnd s (.cmb c)).queue ++ halves mk l port := by
  unfold queueData halves
  split
  · simp only [txEnd_cmQueue]
    rfl
  · simp only [txEnd_cmQueue, List.append_assoc]
    rfl

theorem crun_queueData : crun (queueData s c mk l port) c e = crun s c e := by
  unfold queueData
  split <;> exact crun_setCmb _ _ _ rfl

end

/-- R387: words of scratch that nothing has disturbed are read without an error. -/
theorem scratch_clean (h : (cmb s c).bad = []) (reads : CPlace → Bool) (k : State → State) : scratch s c e reads .ok k = k s := by
  simp [scratch, h]

/-! ## CHUNK_SEND -/

theorem LoneRun.chunkSend_up (h : LoneRun s c e r) (ecc : Ecc) : chunkSend s c e .up ecc = cmSettle (sendUp s c e r ecc) c := by
  simp [chunkSend, h.running, h.clock]

theorem LoneRun.chunkSend_down (h : LoneRun s c e r) (k : Fin 7) (ecc : Ecc) :
    chunkSend s c e (.down k) ecc = cmSettle (sendDown s c e r k.val ecc) c := by
  simp [chunkSend, h.running, h.clock]

/-- R175: the run of an entry that sends its oldest result to its parent. -/
def CRun.resultSent (r : CRun) (rest : List CRes) : CRun :=
  ({ r with res := rest, upSent := r.upSent + 1, upDone := r.upDone + 1, leaving := r.leaving + 1 } : CRun).upd 7
    (fun y => { y with cred := y.cred - 1 })

/-- R175: the packets of a result on its way to the parent. -/
def resultPkt (s : State) (c : Cell) (e : Nat) (r : CRun) (x : CRes) (half : Nat) (l : List Byte) (port : Nat) : TxPkt :=
  chunkPkt (chunkInl s c e 0 half 0 (cPidx s c e) (sigOf s c e r.desc r.ph) r.seq x.idx x.crc) (parentAddr s c e) l port

/-- R175: an entry with a result, an open gate and a credit of its parent sends the result. -/
theorem sendUp_result {x : CRes} {rest : List CRes} (hroot : cRoot s c e = false) (htop : cNext s c e = false) (hres : r.res = x :: rest)
    (hgate : gateOpen s c e r = true) (hcred : 0 < (r.edge 7).cred) (hbad : (cmb s c).bad = []) :
    sendUp s c e r .ok = queueData (setRun s c e (r.resultSent rest)) c (resultPkt s c e r x) x.bytes (1 + e) := by
  have htok : upTokDue s c e r = false := by simp [upTokDue, hres]
  have hcredit : ¬ ((r.edge 7).cred = 0) := Nat.pos_iff_ne_zero.1 hcred
  simp only [sendUp, hroot, htok, hres, hgate, hcredit, scratch_clean hbad, htop, Bool.false_eq_true, Bool.true_eq_false, or_self, if_false]
  rfl

/-- R179: the TOKEN of an entry that has sent all its results. -/
theorem sendUp_token (hroot : cRoot s c e = false) (htop : cNext s c e = false) (hdue : upTokDue s c e r = true) (ecc : Ecc) :
    sendUp s c e r ecc = cmQueue (setRun s c e { r with upTok := true }) c
      (chunkPkt (chunkInl s c e 0 0 3 (cPidx s c e) (sigOf s c e r.desc r.ph) r.seq 0 r.upSent) (parentAddr s c e) [] 0) := by
  simp only [sendUp, hroot, hdue, htop, Bool.false_eq_true, if_false, if_true]

/-- R175: a down chunk of which one more packet is on its way, to child `k`. -/
def CItem.sentTo (x : CItem) (k : Nat) : CItem := { x with todo := x.todo.filter (fun j => j != k), out := x.out + 1 }

/-- R175: the run of an entry that sends a down chunk to child `k`. -/
def CRun.itemSent (r : CRun) (k : Nat) (x : CItem) : CRun :=
  ({ r with
    downs := r.downs.map (fun y => if y = x then x.sentTo k else y),
    dsent := r.dsent.set (16 * x.ph + k) (r.dsent.get (16 * x.ph + k) 0 + 1) } : CRun).upd k (fun y => { y with cred := y.cred - 1 })

/-- R175: the packets of a down chunk on its way to child `k`. -/
def itemPkt (s : State) (c : Cell) (e : Nat) (r : CRun) (k : Nat) (x : CItem) (half : Nat) (l : List Byte) (port : Nat) : TxPkt :=
  chunkPkt (chunkInl s c e 1 half 0 0 (sigOf s c e r.desc x.ph) r.seq x.idx x.crc) (childAddr s c e k) l port

/-- R175: a down chunk one of whose packets has not entered C stays. -/
theorem itemFree_leaving {ph i : Nat} (hrun : crun s c e = some r) (h : ∀ y, y ∈ r.downs → y.ph = ph → y.idx = i → y.out ≠ 0) :
    itemFree s c e ph i = s := by
  have hnone : r.downs.find? (fun x => x.ph == ph && x.idx == i && x.todo.isEmpty && x.out == 0) = none :=
    List.find?_eq_none.2 fun y hy => by
      have := h y hy
      simp only [Bool.and_eq_true, beq_iff_eq, not_and]
      exact fun ⟨⟨hph, hidx⟩, _⟩ => this hph hidx
  simp only [itemFree, hrun, hnone]

theorem sendItem_child {k : Nat} {x : CItem} (hk : k < 6) (hcounts : inCounts r.desc x.ph = false)
    (honly : ∀ y, y ∈ r.downs → y.ph = x.ph → y.idx = x.idx → y = x) :
    sendItem s c e r k x = queueData (setRun s c e (r.itemSent k x)) c (itemPkt s c e r k x) x.bytes (downMark e x.ph) := by
  have h6 : k ≠ 6 := by omega
  have h8 : k ≠ 8 := by omega
  have hrun : crun (queueData (setRun s c e (r.itemSent k x)) c (itemPkt s c e r k x) x.bytes (downMark e x.ph)) c e =
      some (r.itemSent k x) := (crun_queueData ..).trans (crun_setRun_same ..)
  rw [← itemFree_leaving (ph := x.ph) (i := x.idx) hrun]
  · have hdowns : r.downs.map (fun y => if y = x then { y with todo := x.todo.filter (fun j => j != k), out := y.out + 1 } else y) =
        r.downs.map (fun y => if y = x then x.sentTo k else y) :=
      List.map_congr_left fun y _ => by split <;> simp_all [CItem.sentTo]
    simp only [sendItem, hcounts, h6, h8, Bool.false_eq_true, false_and, if_false, hdowns]
    rfl
  · intro y hy hph hidx
    obtain ⟨z, hz, rfl⟩ := List.mem_map.1 hy
    by_cases hzx : z = x
    · rw [if_pos hzx]
      exact Nat.succ_ne_zero _
    · rw [if_neg hzx] at hph hidx
      exact absurd (honly z hz hph hidx) hzx

/-- R175: a down chunk goes to a child that needs it on the child's credit. -/
theorem sendDown_item {k : Nat} {x : CItem} (hgate : cRoot s c e = true → gateOpen s c e r = true) (htok : downTokDue r k = none)
    (hitem : r.downs.find? (fun y => y.todo.contains k) = some x) (hcred : 0 < (r.edge k).cred) (hbad : (cmb s c).bad = []) :
    sendDown s c e r k .ok = sendItem s c e r k x := by
  have hopen : ¬ (cRoot s c e = true ∧ gateOpen s c e r = false) := fun ⟨hroot, hclosed⟩ => by simp [hgate hroot] at hclosed
  simp only [sendDown, hopen, htok, hitem, downCredit, hcred, scratch_clean hbad, ite_self, if_false, decide_true,
    Bool.or_true, Bool.true_or, if_true]

/-! ## Credits -/

/-- R175: a credit to a neighbour in another cell goes as a CREDIT chunk. -/
theorem grant_neighbour {k n : Nat} (hrun : crun s c e = some r) (hk : k ≠ 6) (htop : cNext s c e = false) :
    grant s c e k n =
      cmQueue (setRun s c e (r.upd k (fun y => { y with granted := y.granted + n }))) c (creditPkt s c e r k n) := by
  simp [grant, hrun, hk, htop, updRun_eq _ hrun]

theorem WordsStay.creditPkt {t : State} (h : WordsStay c s t) {k : Nat} (hk : k < 8) (n : Nat) :
    creditPkt t c e r k n = creditPkt s c e r k n := by
  simp only [Machine.creditPkt, h.sigOf e, h.chunkInl e, h.cPidx e, h.parentAddr e, h.childAddr e hk]

/-! ## A chunk's last flit enters the router's C input -/

/-- R175: the last packet of a down chunk has entered C: the chunk, which has gone to all its targets, frees its slot, and the parent is
granted another. -/
theorem itemFree_last {x : CItem} (hrun : crun s c e = some r) (hdowns : r.downs = [x]) (htodo : x.todo = []) (hout : x.out = 0)
    (hslot : x.slot = 2) : itemFree s c e x.ph x.idx = grant (setRun s c e { r with downs := [] }) c e 7 1 := by
  simp [itemFree, hrun, hdowns, htodo, hout, hslot, itemDone]

section
variable {x : CItem} {z : TxCur} {d : Drr} {y : Payload} (ecc : Ecc)

theorem wordsStay_wentOn : WordsStay c s (wentOn s (.cmb c) 2 d z y []) := by
  refine .of_regs ?_
  have hpeer : (EndRef.cmb c).peer = some (.router c 5) := rfl
  have hinner : (EndRef.router c 5).boundary = false := by simp [EndRef.boundary, EndRef.peer, EndRef.dom]
  simp only [wentOn, unitSent, emitSeq, toWire, hpeer, dcqMarks, hinner, Bool.false_eq_true, if_false]
  rfl

/-- R143: only an NI is throttled by its credits. -/
theorem useCredit_cmb_touches (s : State) (c : Cell) (v : Nat) : Touches [.links] s (useCredit s (.cmb c) v) := by
  simp only [useCredit, throttled]
  exact updLink_touches _ _ (by decide) (.refl _ s)

theorem wentOn_cmb_touches : Touches [.regs, .links, .tx] s (wentOn s (.cmb c) 2 d z y []) :=
  have hstart : Touches [.tx] s (setTxEnd s (.cmb c) { txEnd s (.cmb c) with drr := d }) := setTxEnd_touches _ _ (by decide) (.refl _ s)
  setTxEnd_touches _ _ (by decide) (emitSeq_touches _ _ (by decide)
    ((hstart.mono (by decide)).trans ((useCredit_cmb_touches _ c 4).mono (by decide))))

theorem wentOn_emits : Emitted s (wentOn s (.cmb c) 2 d z y []) (.cmb c) y := by
  have hne : (EndRef.router c 5).key ≠ (EndRef.cmb c).key := by
    have hf := cell_field_lt c
    have hn := cell_num_lt c
    simp only [EndRef.key, Cell.key]
    omega
  obtain ⟨hemit, -⟩ := emitSeq_link (s := useCredit (setTxEnd s (.cmb c) { txEnd s (.cmb c) with drr := d }) (.cmb c) 4)
    (dataFlit 2 z y []) rfl hne
  unfold Emitted at hemit
  simp only [link_useCredit] at hemit
  exact hemit

theorem sendNew_lastFlit (hgrant : unitGrant s (.cmb c) = some (2, d)) (hcur : lget (txEnd s (.cmb c)).cur 2 none = some z) (hb : z.begun = true)
    (hleft : z.left = [y]) (hctx : z.pkt.ctx = none) : sendNew s (.cmb c) ecc = cmbAfter s (wentOn s (.cmb c) 2 d z y []) c := by
  simp only [sendNew, unitSend_goesOn hgrant hcur hb hleft hctx]

/-- R175: the entry learns that the last flit of a down chunk has entered C. -/
theorem cmbAfter_item {t : State} {ph : Nat} (hcur : lget (txEnd s (.cmb c)).cur 2 none = some z)
    (hdone : lget (txEnd t (.cmb c)).cur 2 none = none) (he : e < 32) (hport : z.pkt.port = downMark e ph) (hrun : crun t c e = some r)
    (hseq : hInl z.pkt.hdr 56 32 = r.seq) :
    cmbAfter s t c = cmSettle (itemFree (setRun t c e { r with
      downs := r.downs.map (fun y => if y.ph = ph ∧ y.idx = hInl z.pkt.hdr 88 8 then { y with out := y.out - 1 } else y) })
      c e ph (hInl z.pkt.hdr 88 8)) c := by
  have hentry : (downMark e ph - 1) % 32 = e := by unfold downMark; omega
  have hphase : (downMark e ph - 33) / 32 = ph := by unfold downMark; omega
  have hnone : downMark e ph ≠ 0 := by unfold downMark; omega
  have hdown : ¬ downMark e ph ≤ 32 := by unfold downMark; omega
  simp only [cmbAfter, hcur, hdone, hport, hnone, hentry, hrun, hseq, hdown, hphase, if_false, if_true]

end

/-- R175: the last flit of a down chunk that has gone to all its targets enters C: its slot is freed, and the parent is granted another. -/
theorem LoneRun.lastFlit {x : CItem} {z : TxCur} {d : Drr} {y : Payload} (h : LoneRun s c e r) (he : e < 32) (ecc : Ecc)
    (hcurs : (txEnd s (.cmb c)).cur.length = 4)
    (hgrant : unitGrant s (.cmb c) = some (2, d)) (hcur : lget (txEnd s (.cmb c)).cur 2 none = some z) (hb : z.begun = true)
    (hleft : z.left = [y]) (hctx : z.pkt.ctx = none) (hport : z.pkt.port = downMark e x.ph) (hseq : hInl z.pkt.hdr 56 32 = r.seq)
    (hidx : hInl z.pkt.hdr 88 8 = x.idx) (hdowns : r.downs = [x]) (htodo : x.todo = []) (hout : x.out = 1) (hslot : x.slot = 2) :
    sendNew s (.cmb c) ecc = cmSettle (cmQueue (setRun (wentOn s (.cmb c) 2 d z y []) c e
      (({ r with downs := [] } : CRun).upd 7 (fun y => { y with granted := y.granted + 1 }))) c (creditPkt s c e r 7 1)) c := by
  let w := wentOn s (.cmb c) 2 d z y []
  have hwords : WordsStay c s w := wordsStay_wentOn
  have hrun : crun w c e = some r := by
    rw [crun, cent, cmbs_eq wentOn_touches (by decide), ← cent, ← crun, h.running]
  have hdone : lget (txEnd w (.cmb c)).cur 2 none = none := by
    rw [txEnd_wentOn]
    exact lget_lset_same _ _ (by omega)
  have hmap : r.downs.map (fun y => if y.ph = x.ph ∧ y.idx = x.idx then { y with out := y.out - 1 } else y) = [{ x with out := 0 }] := by
    simp [hdowns, hout]
  have hkept : ∀ a : CRun, WordsStay c s (setRun w c e a) := fun a =>
    hwords.trans (.of_touches (setRun_touches (m := [.cmbs]) _ _ _ (by decide) (.refl _ w)))
  rw [sendNew_lastFlit ecc hgrant hcur hb hleft hctx, cmbAfter_item hcur hdone he hport hrun hseq, hidx, hmap,
    itemFree_last (x := { x with out := 0 }) (crun_setRun_same ..) rfl htodo rfl hslot, setRun_setRun,
    grant_neighbour (crun_setRun_same ..) (by decide) (((hkept _).cNext e).trans h.top), setRun_setRun, (hkept _).creditPkt (by decide)]
  rfl

end

/-- R175, R179: what CHUNK_SEND sends, and what follows a chunk's last flit. -/
theorem chunksSent : Claim.ChunksSent := by
  refine ⟨fun c e s r x rest h hroot hres hgate hcred hbad => ?_, fun c e ecc s r h hroot hdue => ?_,
    fun c e k s r x h hk hgate htok hitem hcounts hcred hbad honly => ?_,
    fun c e ecc s r x z d y h hst hres hlen hfree hcurs hgrant hcur hb hleft hctx hport hseq hidx hdowns htodo hout hslot => ?_⟩
  · refine ⟨_, r.resultSent rest, resultPkt s c e.val r x, congrArg Host.Outcome.next (h.chunkSend_up .ok), ?_,
      rfl, rfl, rfl, ?_, fun _ _ _ => rfl, ?_, ?_⟩
    · rw [sendUp_result hroot h.top hres hgate hcred hbad, crun_queueData, crun_setRun_same]
    · exact congrArg CEdge.cred (edge_upd_same ..)
    · rw [sendUp_result hroot h.top hres hgate hcred hbad, queue_queueData]
      rfl
    · rw [sendUp_result hroot h.top hres hgate hcred hbad]
      exact queueData_touches _ _ _ _ (by decide) (setRun_touches _ _ _ (by decide) (.refl _ s))
  · refine ⟨_, congrArg Host.Outcome.next (h.chunkSend_up ecc), ?_⟩
    rw [sendUp_token hroot h.top hdue, txEnd_cmQueue]
    exact ⟨crun_setRun_same .., rfl, cmQueue_touches _ _ (by decide) (setRun_touches _ _ _ (by decide) (.refl _ s))⟩
  · refine ⟨_, congrArg Host.Outcome.next (h.chunkSend_down k .ok), ?_⟩
    rw [sendDown_item hgate htok hitem hcred hbad, sendItem_child hk hcounts honly, queue_queueData, crun_queueData, crun_setRun_same]
    exact ⟨rfl, ⟨_, rfl, congrArg CEdge.cred (edge_upd_same ..), rfl⟩,
      queueData_touches _ _ _ _ (by decide) (setRun_touches _ _ _ (by decide) (.refl _ s))⟩
  · have hexec := (exec_flitSend ecc s (by nofun)).trans
      (congrArg Host.Outcome.next ((flitSend_new ecc hfree hst rfl hres hlen).trans
        (h.lastFlit e.isLt ecc hcurs hgrant hcur hb hleft hctx hport hseq hidx hdowns htodo hout hslot)))
    refine ⟨_, hexec, wentOn_emits, ⟨_, crun_setRun_same .., rfl, congrArg CEdge.granted (edge_upd_same ..)⟩, ?_, ?_⟩
    · rw [txEnd_cmQueue]
      exact congrArg (·.queue ++ [creditPkt s c e.val r 7 1]) (txEnd_wentOn (e := .cmb c))
    · exact cmQueue_touches _ _ (by decide) (setRun_touches _ _ _ (by decide) (wentOn_cmb_touches.mono (by decide)))

/-- Settles O54: a chunk that a unit takes changes one edge of the entry's run or ends it, and a chunk is in halves in the
unit's queue until its last flit enters C. -/
theorem chunksMove : Obligations.ChunksMove := ⟨chunksTaken, chunksSent⟩

end Sys2Proof.Machine

/-! # COLL launches (R175, R181)

The grants of an entry that no chain joins to another, and the start of its run. -/

namespace Sys2Proof.Machine

section
variable {s t : State} {c : Cell} {e : Nat} {r : CRun}

/-! ## Grants -/

/-- R175: a run whose edges `l` have been granted `n` more sends each. -/
def CRun.granting (r : CRun) (l : List Nat) (n : Nat) : CRun :=
  l.foldl (fun r k => r.upd k (fun y => { y with granted := y.granted + n })) r

theorem granting_eq (r : CRun) (l : List Nat) (n : Nat) : ∃ m, r.granting l n = { r with edges := m } := by
  induction l generalizing r with
  | nil => exact ⟨_, rfl⟩
  | cons k l ih =>
    obtain ⟨m, h⟩ := ih (r.upd k fun y => { y with granted := y.granted + n })
    exact ⟨m, h⟩

theorem granted_granting (r : CRun) (l : List Nat) (n k : Nat) :
    ((r.granting l n).edge k).granted = (r.edge k).granted + n * l.count k := by
  induction l generalizing r with
  | nil => rfl
  | cons j l ih =>
    refine (ih _).trans ?_
    by_cases hj : k = j
    · rw [hj, edge_upd_same, List.count_cons_self]
      ring
    · rw [edge_upd_ne _ _ _ hj, List.count_cons_of_ne (Ne.symm hj)]

/-- What grants to neighbours in other cells leave. -/
structure Granted (s t : State) (c : Cell) (e : Nat) (r : CRun) (l : List Nat) (n : Nat) : Prop where
  running : crun t c e = some (r.granting l n)
  early : (cent t c e).early = (cent s c e).early
  queue : (txEnd t (.cmb c)).queue = (txEnd s (.cmb c)).queue ++ l.map (fun k => creditPkt s c e r k n)
  touches : Touches [.tx, .cmbs] s t

theorem granted_foldl (htop : cNext s c e = false) {l : List Nat} (hl : ∀ k ∈ l, k < 8 ∧ k ≠ 6) (n : Nat) (hrun : crun s c e = some r) :
    Granted s (l.foldl (fun t k => grant t c e k n) s) c e r l n := by
  induction l generalizing s r with
  | nil => exact ⟨hrun, rfl, by simp, .refl _ s⟩
  | cons k l ih =>
    obtain ⟨hk, hrest⟩ := List.forall_mem_cons.1 hl
    let r1 := r.upd k (fun y => { y with granted := y.granted + n })
    let s1 := cmQueue (setRun s c e r1) c (creditPkt s c e r k n)
    have hgrant : grant s c e k n = s1 := grant_neighbour hrun hk.2 htop
    have htouch : Touches [.tx, .cmbs] s s1 := cmQueue_touches _ _ (by decide) (setRun_touches _ _ _ (by decide) (.refl _ s))
    have hwords : WordsStay c s s1 := .of_touches htouch
    obtain ⟨hrunning, hearly, hqueue, hrest⟩ := ih ((hwords.cNext e).trans htop) hrest (crun_setRun_same s c e r1)
    rw [List.foldl_cons, hgrant]
    refine ⟨hrunning, hearly.trans (congrArg CEnt.early (cent_setRun_same s c e r1) :), hqueue.trans ?_, htouch.trans hrest⟩
    have hcredits : l.map (fun k => creditPkt s1 c e r1 k n) = l.map (fun k => creditPkt s c e r k n) :=
      List.map_congr_left fun j hj => hwords.creditPkt (hl j (.tail _ hj)).1 n
    rw [txEnd_cmQueue, hcredits, List.map_cons, List.append_assoc]
    rfl

/-- R175: the edges of an entry that no chain joins to another: its children, and its parent below the top root. -/
def tiesOf (s : State) (c : Cell) (e : Nat) : List Nat := List.range (cNch s c e) ++ if cRoot s c e then [] else [7]

theorem map_tiesOf {α : Type} (f : Nat → α) :
    (tiesOf s c e).map f = (List.range (cNch s c e)).map f ++ if cRoot s c e then [] else [f 7] := by
  rw [tiesOf, List.map_append, apply_ite (List.map f)]
  rfl

theorem count_tiesOf {k : Nat} (hn : cNch s c e ≤ 6) (h : k < cNch s c e ∨ k = 7 ∧ cRoot s c e = false) : (tiesOf s c e).count k = 1 := by
  rw [tiesOf, List.count_append]
  rcases h with hk | ⟨rfl, hroot⟩
  · have h7 : k ≠ 7 := by omega
    rw [List.count_eq_one_of_mem List.nodup_range (List.mem_range.2 hk)]
    split <;> simp [h7.symm]
  · have hnot : (List.range (cNch s c e)).count 7 = 0 := List.count_eq_zero.2 fun h7 => by
      have := List.mem_range.1 h7
      omega
    simp [hroot, hnot]

theorem lt_of_mem_tiesOf {k : Nat} (hn : cNch s c e ≤ 6) (hk : k ∈ tiesOf s c e) : k < 8 ∧ k ≠ 6 := by
  rcases List.mem_append.1 hk with hk | hk
  · have := List.mem_range.1 hk
    omega
  · obtain rfl : k = 7 := by
      split at hk
      · exact absurd hk List.not_mem_nil
      · exact List.mem_singleton.1 hk
    decide

theorem launchGrants_alone (hdmc : cDmc s c e = false) (hbottom : lowerOf s c e = none) :
    launchGrants s c e = (tiesOf s c e).foldl (fun t k => grant t c e k (cWin s c e)) s := by
  simp only [launchGrants, tiesOf, hdmc, hbottom, List.foldl_append, Bool.or_false, Bool.false_and, Option.isSome_none, Bool.false_eq_true,
    if_false]
  split <;> rfl

theorem WordsStay.tiesOf (h : WordsStay c s t) : tiesOf t c e = tiesOf s c e := by rw [Machine.tiesOf, h.cNch e, h.cRoot e, Machine.tiesOf]

theorem WordsStay.cWin (h : WordsStay c s t) : cWin t c e = cWin s c e := by simp only [Machine.cWin, h.cw e (n := 1) (by decide)]

theorem WordsStay.cDmc (h : WordsStay c s t) : cDmc t c e = cDmc s c e := by simp only [Machine.cDmc, h.cw e (n := 0) (by decide)]

/-- R175, R181: the grants of a launch at an entry without a chain. -/
theorem launchGrants_granted (htop : cNext s c e = false) (hbottom : lowerOf s c e = none) (hdmc : cDmc s c e = false) (hn : cNch s c e ≤ 6)
    (hrun : crun s c e = some r) : Granted s (launchGrants s c e) c e r (tiesOf s c e) (cWin s c e) := by
  rw [launchGrants_alone hdmc hbottom]
  exact granted_foldl htop (fun k hk => lt_of_mem_tiesOf hn hk) _ hrun

/-- R196: an entry that holds no early CREDITs takes none. -/
theorem takeEarly_none (hrun : crun s c e = some r) (h : (cent s c e).early = []) :
    crun (takeEarly s c e) c e = some r ∧ Touches [.cmbs] s (takeEarly s c e) := by
  simp only [takeEarly, h, List.foldl_nil]
  refine ⟨?_, setCent_touches _ _ _ (by decide) (.refl _ s)⟩
  rw [crun, cent_setCent_same, ← hrun, crun]

/-! ## The start of a run -/

theorem cent_scrClean (es : List Nat) : cent (scrClean s c es) c e = cent s c e := by
  unfold scrClean
  split
  · exact cent_setCmb _ _ _ rfl
  · rfl

/-- R204, R230: the counts of an own map's bits out of range lie in none of the entries' words. -/
theorem wordsStay_countRange (d : BitVec 512) (m : Nat) : WordsStay c s (countRange s c d m) := by
  unfold countRange countDrops
  split
  · intro f n _
    rw [rd_setBits_ne _ _ (cwKey_ne_ni (by decide)), rd_cntUp_ne _ _ _ _ (cwKey_ne_ni (by decide)), rd_cntUp_ne _ _ _ _ (cwKey_ne_ni (by decide))]
  · exact .refl c s

section
variable {id : Nat} {x : Ctx}

/-- R181: a COLL that passes its checks launches at a base entry that is its whole chain. -/
theorem runColl_launches
    (hbase : (List.range 32).find? (fun f => cValid s c f && cGroup s c f == kGroup x.desc && cBase s c f) = some e)
    (hidle : (cent s c e).run = none) (hheld : (cent s c e).abortOf ((cLast s c e + 1) % 2 ^ 32) = none) (htop : cNext s c e = false)
    (hslots : cSlots s c e &&& slotsUsed s c = 0)
    (hgather : kOp x.desc = 3 ∨ kOp x.desc = 5 → cNch s c e = 0 ∨ slotBudget s c e + 1 ≤ popN (cSlots s c e) 6)
    (hformat : formatOk s c x.desc (cMembers s c e) (cRoot s c e) = true)
    (hbufs : ∀ b, b ∈ collBufs s c e x.desc (cRoot s c e) → b.1 + b.2 ≤ Config.sramBytes) :
    runColl s c id x = launch s c id e [e] x.desc := by
  have hnorun : (crun s c e).isSome = false := by rw [crun, hidle]; rfl
  have hroom : ((kOp x.desc == 3 || kOp x.desc == 5) && [e].any (fun f =>
      decide (0 < cNch s c f) && decide (popN (cSlots s c f) 6 < slotBudget s c f + 1))) = false := by
    by_contra hshort
    simp only [Bool.not_eq_false, Bool.and_eq_true, Bool.or_eq_true, beq_iff_eq, List.any_cons, List.any_nil, Bool.or_false,
      decide_eq_true_eq] at hshort
    obtain ⟨hop, hkids, hfew⟩ := hshort
    rcases hgather hop <;> omega
  have hfit : ((collBufs s c e x.desc (cRoot s c e)).any fun b => decide (Config.sramBytes < b.1 + b.2)) = false := by
    simpa using hbufs
  have hroot : [e].any (fun f => cRoot s c f) = cRoot s c e := by simp
  simp only [runColl, hbase, hnorun, hheld, chainUp_alone htop, hroom, hroot, hformat, hfit, slotsFree, hslots, BEq.rfl, Bool.and_true,
    Bool.false_eq_true, Bool.true_eq_false, or_self, if_false]

/-- R181: an entry runs a descriptor, which waits; no grant has been made. -/
structure Begun (s u : State) (c : Cell) (e id : Nat) (x : Ctx) (r : CRun) : Prop where
  run : ∃ undef, r = newRun s c e x.desc (some id) (cRoot s c e) undef
  running : crun u c e = some r
  early : (cent u c e).early = (cent s c e).early
  waits : ctxOf u (.ni c) id = some { x with st := .waiting, issued := true, aux := e }
  words : WordsStay c s u
  touches : Touches [.regs, .units, .cmbs] s u

theorem launch_begins (hctx : ctxOf s (.ni c) id = some x) :
    ∃ u r, Begun s u c e id x r ∧ launch s c id e [e] x.desc = cmSettle (takeEarly (launchGrants u c e) c e) c := by
  let r := newRun s c e x.desc (some id) (cRoot s c e) (overlapBad s c e x.desc (collBufs s c e x.desc (cRoot s c e)))
  let v := scrClean (setRun s c e r) c [e]
  let w := setCtx v (.ni c) id { x with st := .waiting, issued := true, aux := e }
  have hv : Touches [.cmbs] s v := scrClean_touches _ _ (by decide) (setRun_touches _ _ _ (by decide) (.refl _ s))
  have hw : Touches [.regs, .units, .cmbs] s w := updUnit_touches _ _ (by decide) (hv.mono (by decide))
  have hcent : cent w c e = { cent s c e with run := some r } := (cent_scrClean ..).trans (cent_setRun_same ..)
  have hwait : updCtx v (.ni c) id (fun x => { x with st := .waiting, issued := true, aux := e }) = w := by
    refine updCtx_some (x := x) ?_ _
    rw [ctxOf, hv.punit_eq (by decide), ← ctxOf, hctx]
  have hroot : [e].any (fun f => cRoot s c f) = cRoot s c e := by simp
  let u := countRange w c x.desc r.ownMap
  have hu : Touches [.regs] w u := countRange_touches _ _ _ (by decide) (.refl _ w)
  have hcent' : cent u c e = { cent s c e with run := some r } := by rw [cent, cmbs_eq hu, ← cent, hcent]
  have hrun : crun w c e = some r := by rw [crun, hcent]
  refine ⟨u, r, ⟨⟨_, rfl⟩, by rw [crun, hcent'], by rw [hcent'], ?_, ?_, hw.trans (hu.mono (by decide))⟩, ?_⟩
  · rw [ctxOf, hu.punit_eq (by decide), ← ctxOf, ctxOf_setCtx_same]
  · exact (WordsStay.of_touches hv).trans ((WordsStay.of_regs rfl).trans (wordsStay_countRange _ _))
  · simp only [launch, List.foldl_cons, List.foldl_nil, hroot, if_true]
    rw [hwait, hrun]

end

end

/-- R175, R181: a COLL that passes its checks starts its run with its grants. -/
theorem collectiveLaunches : Claim.CollectiveLaunches := by
  intro c q s id e x hstart hdom hbase hidle hearly hheld htop hbottom hdmc hn hslots hgather hformat hbufs
  obtain ⟨u, r, hbegun, hlaunch⟩ := launch_begins (e := e) hstart.held
  obtain ⟨⟨undef, hnew⟩, hrun, hkept, hwaits, hwords, htouch⟩ := hbegun
  obtain ⟨hgranted, hearly', hqueue, hsent⟩ := launchGrants_granted ((hwords.cNext e).trans htop) ((hwords.lowerOf e).trans hbottom)
    ((hwords.cDmc).trans hdmc) ((hwords.cNch e).symm ▸ hn) hrun
  obtain ⟨hgo, hlast⟩ := takeEarly_none hgranted (hearly'.trans (hkept.trans hearly))
  rw [hwords.tiesOf, hwords.cWin] at hgranted hqueue hgo
  have hexec : exec (.coll c q) s = .next (cmSettle (takeEarly (launchGrants u c e) c e) c) := by
    show Host.Outcome.next (if _ then _ else _) = _
    rw [if_pos hdom, startOp_of_startable hstart, runColl_launches hbase hidle hheld htop hslots hgather hformat hbufs, hlaunch]
  obtain ⟨m, hm⟩ := granting_eq r (tiesOf s c e) (cWin s c e)
  have hties : ∀ k, k < cNch s c e ∨ k = 7 ∧ cRoot s c e = false → ((r.granting (tiesOf s c e) (cWin s c e)).edge k).granted = cWin s c e :=
    fun k hk => by
      rw [granted_granting, count_tiesOf hn hk, hnew]
      simp [newRun, CRun.edge, FMap.get, FMap.find, CEdge.init]
  have hlater : Touches [.regs, .units, .tx, .cmbs] s (takeEarly (launchGrants u c e) c e) :=
    (htouch.mono (by decide)).trans ((hsent.mono (by decide)).trans (hlast.mono (by decide)))
  have hafter : Touches [.tx, .cmbs] u (takeEarly (launchGrants u c e) c e) := hsent.trans (hlast.mono (by decide))
  subst hnew
  rw [hm] at hgo hties
  refine ⟨_, _, hexec, hgo, rfl, rfl, rfl, rfl, rfl, rfl, rfl, rfl, ?_, fun k hk => hties k (.inl hk), fun hroot => hties 7 (.inr ⟨rfl, hroot⟩),
    ?_, hlater.stays .mem (by decide)⟩
  · rw [ctxOf, hafter.punit_eq (by decide), ← ctxOf, hwaits]
  · have hcredits : (tiesOf s c e).map (fun k => creditPkt u c e (newRun s c e x.desc (some id) (cRoot s c e) undef) k (cWin s c e)) =
        (tiesOf s c e).map (fun k =>
          creditPkt s c e { newRun s c e x.desc (some id) (cRoot s c e) undef with edges := m } k (cWin s c e)) :=
      List.map_congr_left fun k hk => hwords.creditPkt (lt_of_mem_tiesOf hn hk).1 _
    rw [hlast.txEnd_eq (by decide), hqueue, htouch.txEnd_eq (by decide), hcredits, map_tiesOf, List.append_assoc]

end Sys2Proof.Machine

/-! # The segments of ALLTOALLV (R185, R229, R248)

The packets of a range of bytes, and of the segments of a member, each clipped at RCAP. -/

namespace Sys2Proof.Machine

theorem sumN_eq_sum (l : List Nat) : sumN l = l.sum := List.sum_eq_foldl.symm

/-! ## The WRITEs of a range (R248) -/

section
variable (cls dest off len : Nat)

/-- R248: the packet of a range that carries its 2,048 bytes number `k`. -/
def putPlan (k : Nat) : Plan :=
  { inlinePlan 0 cls (dest / 2 ^ 40 * 2 ^ 40 + (dest + 2048 * k) % 2 ^ 40) 0 0 (min 2048 (len - 2048 * k)) with
    src := .mem (off + 2048 * k) (min 2048 (len - 2048 * k)), onStream := true }

theorem putPlan_zero : putPlan cls dest off len 0 =
    { inlinePlan 0 cls dest 0 0 (min 2048 len) with src := .mem off (min 2048 len), onStream := true } := by
  have hdest : dest / 2 ^ 40 * 2 ^ 40 + dest % 2 ^ 40 = dest := by omega
  simp only [putPlan, Nat.mul_zero, Nat.add_zero, Nat.sub_zero, hdest]

theorem putPlan_succ (k : Nat) :
    putPlan cls (dest / 2 ^ 40 * 2 ^ 40 + (dest + 2048) % 2 ^ 40) (off + 2048) (len - 2048) k = putPlan cls dest off len (k + 1) := by
  have hdest : (dest / 2 ^ 40 * 2 ^ 40 + (dest + 2048) % 2 ^ 40) / 2 ^ 40 * 2 ^ 40 +
      (dest / 2 ^ 40 * 2 ^ 40 + (dest + 2048) % 2 ^ 40 + 2048 * k) % 2 ^ 40 =
      dest / 2 ^ 40 * 2 ^ 40 + (dest + 2048 * (k + 1)) % 2 ^ 40 := by omega
  have hoff : off + 2048 + 2048 * k = off + 2048 * (k + 1) := by omega
  have hlen : len - 2048 - 2048 * k = len - 2048 * (k + 1) := by omega
  simp only [putPlan, hdest, hoff, hlen]

theorem putPlans_eq (n : Nat) : putPlans cls dest off len n = (List.range n).map (putPlan cls dest off len) := by
  induction n generalizing dest off len with
  | zero => rfl
  | succ n ih =>
    rw [putPlans, ih, List.range_succ_eq_map, List.map_cons, putPlan_zero, List.map_map]
    exact congrArg _ (List.map_congr_left fun k _ => putPlan_succ ..)

theorem sum_putPlans {n : Nat} (h : len ≤ 2048 * n) : ((putPlans cls dest off len n).map (fun p => p.len)).sum = len := by
  induction n generalizing dest off len with
  | zero =>
    have : len = 0 := by omega
    simp [putPlans, this]
  | succ n ih =>
    rw [putPlans, List.map_cons, List.sum_cons, ih _ _ _ (by omega)]
    show min 2048 len + (len - 2048) = len
    omega

end

/-! ## The segments of a member (R185) -/

section
variable (s : State) (c : Cell) (r : CRun) (cnt : List Nat)

/-- R185: the elements of a segment that its cell has room for. -/
def segElems (j : Nat) : Nat := min (cnt.getD j 0) (kRcap r.desc - cvAt r 0 j)

/-- R185: the fabric address of a segment: the cell that RMAP names for its rank, from DST + P on. -/
def segDest (j : Nat) : Nat :=
  let w := natOf (memRead s c.key (kRmap r.desc + 8 * j) 8)
  bits (BitVec.ofNat 64 w) 16 20 * 2 ^ 56 + bits (BitVec.ofNat 64 w) 0 8 * 2 ^ 48 + bits (BitVec.ofNat 64 w) 8 8 * 2 ^ 40 +
    (kDst r.desc + elemBytes (kFmt r.desc) * cvAt r 0 j)

/-- R185: where a segment lies in the send buffer: behind those before it. -/
def segOff (j : Nat) : Nat := kSrc r.desc + elemBytes (kFmt r.desc) * sumN (cnt.take j)

/-- R185: the bytes of a segment that are sent. -/
def segLen (j : Nat) : Nat := elemBytes (kFmt r.desc) * segElems r cnt j

/-- R185: the WRITEs of a segment. -/
def segPlans (j : Nat) : List Plan :=
  putPlans 3 (segDest s c r j) (segOff r cnt j) (segLen r cnt j) ((segLen r cnt j + 2047) / 2048)

theorem natOf_lt (l : List Byte) : natOf l < 256 ^ l.length := by
  induction l with
  | nil => exact Nat.one_pos
  | cons b l ih =>
    have hb := b.isLt
    rw [natOf, List.length_cons, Nat.pow_succ]
    omega

theorem length_memGets (m : List Host.Cell) (a n : Nat) : (memGets m a n).length = n := by
  induction n generalizing a with
  | zero => rfl
  | succ n ih => rw [memGets, List.length_cons, ih]

/-- The eight bytes of an RMAP entry, as the words of R185 lie in them. -/
theorem segDest_eq (j : Nat) (w : Nat) (hw : w = natOf (memRead s c.key (kRmap r.desc + 8 * j) 8)) :
    segDest s c r j = w / 65536 % 2 ^ 20 * 2 ^ 56 + w % 256 * 2 ^ 48 + w / 256 % 256 * 2 ^ 40 +
      (kDst r.desc + cvAt r 0 j * elemBytes (kFmt r.desc)) := by
  have hlt : w < 2 ^ 64 := by
    have h := natOf_lt (memRead s c.key (kRmap r.desc + 8 * j) 8)
    rw [memRead, length_memGets, ← memRead, ← hw] at h
    exact h
  simp only [segDest, ← hw, bits, BitVec.toNat_ofNat, Nat.mod_eq_of_lt hlt, Nat.shiftRight_eq_div_pow, Nat.mul_comm (cvAt r 0 j)]
  norm_num

theorem zipIdx_eq_map_range {α : Type} (l : List α) (d : α) : l.zipIdx = (List.range l.length).map (fun j => (l.getD j d, j)) := by
  refine List.ext_getElem (by simp) fun j h _ => ?_
  have hj : j < l.length := by simpa using h
  simp [hj]

/-- R185: a segment joins those before it: their packets, their elements, and what of them is not sent. -/
def a2aStep (a : List Plan × Nat × Nat) (y : Nat × Nat) : List Plan × Nat × Nat :=
  let n := min y.1 (kRcap r.desc - cvAt r 0 y.2)
  (a.1 ++ putPlans 3 (segDest s c r y.2) (kSrc r.desc + elemBytes (kFmt r.desc) * a.2.1) (elemBytes (kFmt r.desc) * n)
    ((elemBytes (kFmt r.desc) * n + 2047) / 2048), a.2.1 + y.1, a.2.2 + (y.1 - n))

theorem a2aPlans_eq_foldl :
    a2aPlans s c r cnt = ((cnt.zipIdx.foldl (a2aStep s c r) ([], 0, 0)).1, (cnt.zipIdx.foldl (a2aStep s c r) ([], 0, 0)).2.2) := by
  unfold a2aPlans a2aStep
  simp only [segDest_eq _ _ _ _ _ rfl, Nat.mul_comm (elemBytes (kFmt r.desc))]
  rfl

theorem a2aStep_range {n : Nat} (hn : n ≤ cnt.length) :
    (List.range n).foldl (fun a j => a2aStep s c r a (cnt.getD j 0, j)) ([], 0, 0) =
      ((List.range n).flatMap (segPlans s c r cnt), sumN (cnt.take n), ((List.range n).map fun j => cnt.getD j 0 - segElems r cnt j).sum) := by
  induction n with
  | zero => rfl
  | succ n ih =>
    have hsum : sumN (cnt.take (n + 1)) = sumN (cnt.take n) + cnt.getD n 0 := by
      rw [sumN_eq_sum, sumN_eq_sum, List.sum_take_succ _ _ hn, List.getD_eq_getElem _ _ hn]
    rw [List.range_succ, List.foldl_append, ih (by omega), List.flatMap_append, List.map_append, List.sum_append, hsum]
    simp only [List.foldl_cons, List.foldl_nil, List.flatMap_cons, List.flatMap_nil, List.map_cons, List.map_nil, List.sum_cons, List.sum_nil,
      List.append_nil, Nat.add_zero]
    rfl

/-- R185: the WRITEs of a member's segments, and the elements that its segments leave behind. -/
theorem a2aPlans_eq :
    a2aPlans s c r cnt = ((List.range cnt.length).flatMap (segPlans s c r cnt),
      ((List.range cnt.length).map fun j => cnt.getD j 0 - segElems r cnt j).sum) := by
  rw [a2aPlans_eq_foldl, zipIdx_eq_map_range cnt 0, List.foldl_map, a2aStep_range _ _ _ _ le_rfl]

variable {s c r cnt}

/-- R185: a WRITE of a segment carries its 2,048 bytes number `k`. -/
theorem mem_segPlans {j : Nat} {p : Plan} : p ∈ segPlans s c r cnt j ↔
    ∃ k, 2048 * k < segLen r cnt j ∧ p = putPlan 3 (segDest s c r j) (segOff r cnt j) (segLen r cnt j) k := by
  rw [segPlans, putPlans_eq, List.mem_map]
  constructor
  · rintro ⟨k, hk, rfl⟩
    rw [List.mem_range] at hk
    exact ⟨k, by omega, rfl⟩
  · rintro ⟨k, hk, rfl⟩
    exact ⟨k, List.mem_range.2 (by omega), rfl⟩

theorem sum_segPlans (j : Nat) : ((segPlans s c r cnt j).map (fun p => p.len)).sum = segLen r cnt j := sum_putPlans _ _ _ _ (by omega)

/-- The bytes of all segments. -/
theorem sum_allPlans (n : Nat) : (((List.range n).flatMap (segPlans s c r cnt)).map (fun p => p.len)).sum =
    elemBytes (kFmt r.desc) * ((List.range n).map (segElems r cnt)).sum := by
  induction n with
  | zero => rfl
  | succ n ih =>
    rw [List.range_succ, List.flatMap_append, List.map_append, List.sum_append, ih, List.map_append, List.sum_append, Nat.mul_add]
    simp only [List.flatMap_cons, List.flatMap_nil, List.append_nil, sum_segPlans, List.map_cons, List.map_nil, List.sum_cons, List.sum_nil,
      Nat.add_zero]
    rfl

/-- A sum over a count vector, by rank. -/
theorem sumN_zipIdx (f : Nat → Nat → Nat) :
    sumN (cnt.zipIdx.map fun y => f y.1 y.2) = ((List.range cnt.length).map fun j => f (cnt.getD j 0) j).sum := by
  rw [sumN_eq_sum, zipIdx_eq_map_range cnt 0, List.map_map]
  rfl

end

/-! ## ALLTOALLV_WRITES -/

section
variable {s : State} {c : Cell} {e : Nat} {r : CRun} {id : Nat}

/-- R185: the run of an entry whose member has its segments to send. -/
def CRun.segmented (r : CRun) (out inn : Nat) : CRun := { r with a2a := true, outDrop := out, inDrop := inn }

/-- R229: the state that counts the elements not sent. -/
def dropsCounted (s : State) (c : Cell) (out inn : Nat) : State :=
  setBits (cntUp (cntUp s (cellReg c 3 0xC00C) 0 32 (min out (2 ^ 24 - 1))) (cellReg c 3 0xC010) 0 32 (min inn (2 ^ 24 - 1)))
    (cellReg c 3 0xC014) (4 * b2n (out != 0) + 8 * b2n (inn != 0))

theorem rdF_setRun (s : State) (c : Cell) (e : Nat) (r : CRun) (k lo len : Nat) : rdF (setRun s c e r) k lo len = rdF s k lo len := rfl

theorem rdF_setCtx (s : State) (u : UnitRef) (id : Nat) (x : Ctx) (k lo len : Nat) : rdF (setCtx s u id x) k lo len = rdF s k lo len := rfl

theorem dropsCounted_touches (out inn : Nat) : Touches [.regs] s (dropsCounted s c out inn) :=
  setBits_touches _ _ (by decide) (cntUp_touches _ _ _ _ (by decide) (cntUp_touches _ _ _ _ (by decide) (.refl _ s)))

theorem rdF_dropsCounted (out inn : Nat) :
    rdF (dropsCounted s c out inn) (cellReg c 3 0xC00C) 0 32 =
      satAdd 4294967295 (rdF s (cellReg c 3 0xC00C) 0 32) (min out (2 ^ 24 - 1)) ∧
    rdF (dropsCounted s c out inn) (cellReg c 3 0xC010) 0 32 =
      satAdd 4294967295 (rdF s (cellReg c 3 0xC010) 0 32) (min inn (2 ^ 24 - 1)) := by
  have hflag : ∀ o, o < 0xC014 → cellReg c 3 o ≠ cellReg c 3 0xC014 := fun o h =>
    cellReg_ne c (by decide) (by omega) (by decide) (by decide) (.inr (by omega))
  have hcounts : cellReg c 3 0xC00C ≠ cellReg c 3 0xC010 := cellReg_ne c (by decide) (by decide) (by decide) (by decide) (.inr (by decide))
  constructor
  · rw [dropsCounted, rdF, rd_setBits_ne _ _ (hflag _ (by decide)), rd_cntUp_ne _ _ _ _ hcounts, ← rdF]
    exact rdF_cntUp_same _ _ _ (by decide)
  · have hkept : rdF (cntUp s (cellReg c 3 0xC00C) 0 32 (min out (2 ^ 24 - 1))) (cellReg c 3 0xC010) 0 32 = rdF s (cellReg c 3 0xC010) 0 32 := by
      rw [rdF, rd_cntUp_ne _ _ _ _ hcounts.symm, ← rdF]
    rw [dropsCounted, rdF, rd_setBits_ne _ _ (hflag _ (by decide)), ← rdF, ← hkept]
    exact rdF_cntUp_same _ _ _ (by decide)

theorem a2aWrites_eq (h : LoneRun s c e r) (hop : kOp r.desc = 6) (hph : r.ph = 1) (hnew : r.a2a = false) (hctx : r.ctx = some id) {l : List Plan}
    {out : Nat} (hplans : a2aPlans s c r (countVec s c r.desc (cMembers s c e)) = (l, out)) :
    a2aWrites s c e = cmSettle (updCtx (dropsCounted (setRun s c e (r.segmented out (cvAt r 1 (cw s c e 4 0 24) - kRcap r.desc))) c out
      (cvAt r 1 (cw s c e 4 0 24) - kRcap r.desc)) (.ni c) id (fun y => { y with todo := l })) c := by
  have hroom : ∀ a b : Nat, a - min a b = a - b := by omega
  simp only [a2aWrites, h.running, hctx, h.clock, hop, hph, hnew, and_self, if_true, hplans, hroom, CRun.segmented, dropsCounted]

end

/-- R185, R229: a member's segments are sent, and what of them is not is counted. -/
theorem alltoallvSends : Claim.AlltoallvSends := by
  intro c e s r id x cnt len w dst h hop hph hnew hctx hx hcnt hlen hw hdst
  obtain rfl : len = segLen r cnt := funext hlen
  obtain rfl : dst = segDest s c r := funext fun j => (hdst j).trans (by rw [hw j]; rfl)
  let out := ((List.range cnt.length).map fun j => cnt.getD j 0 - segElems r cnt j).sum
  let inn := cvAt r 1 (cw s c e.val 4 0 24) - kRcap r.desc
  let u := setRun s c e.val (r.segmented out inn)
  let v := dropsCounted u c out inn
  let l := (List.range cnt.length).flatMap (segPlans s c r cnt)
  have hv : Touches [.cmbs, .regs] s v :=
    (setRun_touches (m := [.cmbs, .regs]) _ _ _ (by decide) (.refl _ s)).trans ((dropsCounted_touches _ _).mono (by decide))
  have hctx' : ctxOf v (.ni c) id = some x := by rw [ctxOf, hv.punit_eq (by decide), ← ctxOf, hx]
  have hexec : exec (.alltoallvWrites c e) s = .next (cmSettle (setCtx v (.ni c) id { x with todo := l }) c) := by
    have hplans : a2aPlans s c r (countVec s c r.desc (cMembers s c e.val)) = (l, out) := by
      rw [← hcnt, a2aPlans_eq]
    show Host.Outcome.next (a2aWrites s c e.val) = _
    rw [a2aWrites_eq h hop hph hnew hctx hplans, updCtx_some hctx']
  obtain ⟨hsent, hlost⟩ := rdF_dropsCounted (s := u) (c := c) out inn
  rw [rdF_setRun, ← rdF_setCtx v (.ni c) id { x with todo := l }] at hsent hlost
  refine ⟨_, _, _, hexec, ctxOf_setCtx_same .., crun_setRun_same .., rfl, fun p hp => ?_, fun j k hj hk => ?_, ?_, ?_, rfl, hsent, hlost, rfl, ?_⟩
  · obtain ⟨j, hj, hp⟩ := List.mem_flatMap.1 hp
    obtain ⟨k, hk, rfl⟩ := mem_segPlans.1 hp
    have hsize : 0 < min 2048 (segLen r cnt j - 2048 * k) ∧ min 2048 (segLen r cnt j - 2048 * k) ≤ 2048 := by omega
    exact ⟨rfl, rfl, hsize.1, hsize.2, rfl, j, k, List.mem_range.1 hj, hk, rfl, rfl, rfl⟩
  · exact ⟨_, List.mem_flatMap.2 ⟨j, List.mem_range.2 hj, mem_segPlans.2 ⟨k, hk, rfl⟩⟩, rfl, rfl⟩
  · rw [sumN_eq_sum, sum_allPlans, sumN_zipIdx fun n j => min n (kRcap r.desc - cvAt r 0 j)]
    rfl
  · rw [sumN_zipIdx fun n j => n - min n (kRcap r.desc - cvAt r 0 j)]
    rfl
  · exact updUnit_touches _ _ (by decide) (hv.mono (by decide))

/-- Settles O52: grants and their CREDITs edge by edge, and the WRITEs of ALLTOALLV segment by segment. -/
theorem collectivesStart : Obligations.CollectivesStart := ⟨collectiveLaunches, alltoallvSends⟩

end Sys2Proof.Machine

/-! # The Finder's map under a counts operation (R184, R217, R226)

The statement takes a run of any operation. Where a sparse descriptor's operation has a counts phase, which R217 refuses to
launch, the top root takes the chunks of its output map for counts, and its run keeps no tile. The statement speaks of the state
before the unit settles, so the refutation needs that settling keeps an output map: no state with the tiles asked for settles to
this one. -/

namespace Sys2Proof.Machine

/-- R219: a run that has its output map, of one tile or more. -/
def CRun.HoldsMap (r : CRun) : Prop := r.gotMap.isSome = true ∧ r.map ≠ 0

/-- An entry that is RUNNING holds its output map. -/
def MapHeld (c : Cell) (e : Nat) (s : State) : Prop := ∀ r, crun s c e = some r → r.HoldsMap

section
variable {s t : State} {c : Cell} {e f : Nat} {r : CRun} {g : CRun → CRun}

theorem MapHeld.of_cent (h : MapHeld c e s) (hcent : cent t c e = cent s c e) : MapHeld c e t := fun r hr =>
  h r (by rwa [crun, ← hcent, ← crun])

theorem MapHeld.of_touches {m : List Part} (h : MapHeld c e s) (ht : Touches m s t) (hm : Part.cmbs ∉ m := by decide) : MapHeld c e t :=
  h.of_cent (by rw [cent, cmbs_eq ht hm, ← cent])

theorem MapHeld.foldl {α : Type} {step : State → α → State} (l : List α) (h : MapHeld c e s)
    (hstep : ∀ t a, MapHeld c e t → MapHeld c e (step t a)) : MapHeld c e (l.foldl step s) :=
  List.foldlRecOn l step h fun t ht a _ => hstep t a ht

theorem MapHeld.ite {p : Prop} [Decidable p] (hs : MapHeld c e s) (ht : MapHeld c e t) : MapHeld c e (if p then s else t) := by
  split
  exacts [hs, ht]

/-! ## Writes of entries and runs -/

theorem cent_setCent_ne (x : CEnt) (hne : e ≠ f) : cent (setCent s c f x) c e = cent s c e := by
  rw [cent, cmb_setCent, FMap.get_set_ne _ _ _ hne, cent]

theorem MapHeld.setCent {x : CEnt} (h : MapHeld c e s) (hx : e = f → ∀ r, x.run = some r → r.HoldsMap) :
    MapHeld c e (setCent s c f x) := by
  by_cases he : e = f
  · subst he
    intro r hr
    exact hx rfl r (by rwa [crun, cent_setCent_same] at hr)
  · exact h.of_cent (cent_setCent_ne x he)

/-- An entry written with the run that it has. -/
theorem MapHeld.setCent_sameRun {x : CEnt} (h : MapHeld c e s) (hx : x.run = crun s c f) : MapHeld c e (Machine.setCent s c f x) :=
  h.setCent fun he r hr => h r (by rw [he, ← hx, hr])

theorem MapHeld.setRun (h : MapHeld c e s) (hr : e = f → r.HoldsMap) : MapHeld c e (setRun s c f r) :=
  h.setCent fun he _ hrun => Option.some.inj hrun ▸ hr he

/-- An entry's run gives way to one that holds a map where it does. -/
theorem MapHeld.replaced (h : MapHeld c e s) (hrun : crun s c f = some r) (hg : r.HoldsMap → (g r).HoldsMap) :
    MapHeld c e (Machine.setRun s c f (g r)) :=
  h.setRun fun he => hg (h r (he ▸ hrun))

theorem MapHeld.updRun (h : MapHeld c e s) (hg : e = f → ∀ r, r.HoldsMap → (g r).HoldsMap) : MapHeld c e (updRun s c f g) := by
  unfold Machine.updRun
  split
  next r hrun => exact h.setRun fun he => hg he r (h r (he ▸ hrun))
  next => exact h

/-! ## Credits and chunks -/

theorem MapHeld.progress (h : MapHeld c e s) : MapHeld c e (progress s c f) := h.updRun fun _ _ hr => hr

theorem MapHeld.grant (h : MapHeld c e s) (k n : Nat) : MapHeld c e (grant s c f k n) := by
  have hedge : ∀ (t : State) (j i : Nat) (x : CEdge → CEdge), MapHeld c e t → MapHeld c e (Machine.updRun t c j fun r => r.upd i x) :=
    fun _ _ _ _ ht => ht.updRun fun _ _ hr => hr
  unfold Machine.grant
  split
  · exact h
  · have hgranted := hedge s f k (fun y => { y with granted := y.granted + n }) h
    dsimp only
    split_ifs
    · split
      · exact (hedge _ _ _ _ hgranted).progress
      · exact hgranted
    · split
      · exact (hedge _ _ _ _ hgranted).progress
      · exact hgranted
    · exact hgranted.of_touches (cmQueue_touches (m := [.tx]) _ _ (by decide) (.refl _ _))

theorem MapHeld.resultLeft (h : MapHeld c e s) (gather : Bool) : MapHeld c e (resultLeft s c f gather) := by
  unfold Machine.resultLeft
  split_ifs
  exacts [h.grant _ _, h, h, h.grant _ _]

theorem MapHeld.itemDone (h : MapHeld c e s) (slot : Nat) (gather : Bool) : MapHeld c e (itemDone s c f slot gather) := by
  unfold Machine.itemDone
  split
  exacts [h.resultLeft _, h.grant _ _, h]

theorem MapHeld.sramPut (h : MapHeld c e s) (off : Nat) (l : List Byte) : MapHeld c e (sramPut s c off l) :=
  h.of_touches (sramPut_touches (m := [.mem]) _ _ _ (by decide) (.refl _ s))

theorem MapHeld.writeTiles (h : MapHeld c e s) (r : CRun) (i : Nat) (l : List Byte) : MapHeld c e (writeTiles s c f r i l) := by
  refine h.foldl _ fun t x ht => .ite (.updRun ?_ fun _ _ hr => hr) ht
  exact ht.of_touches (putPieces_touches (m := [.mem]) _ _ _ (by decide) (.refl _ t))

theorem MapHeld.writeData (h : MapHeld c e s) (r : CRun) (i : Nat) (l : List Byte) : MapHeld c e (writeData s c f r i l) := by
  unfold Machine.writeData
  split_ifs
  exacts [h, h.writeTiles _ _ _, (h.sramPut _ _).updRun fun _ _ hr => hr, (h.sramPut _ _).updRun fun _ _ hr => hr]

theorem MapHeld.downTake (h : MapHeld c e s) (ph i : Nat) (l : List Byte) (crc slot : Nat) :
    MapHeld c e (downTake s c f ph i l crc slot) := by
  unfold Machine.downTake
  split
  · exact h
  next r hrun =>
    have hcounts : ∀ v, MapHeld c e (Machine.setRun s c f { r with vecs := v }) := fun v =>
      h.replaced (g := fun r => { r with vecs := v }) hrun fun hr => hr
    have hmap : MapHeld c e (Machine.setRun s c f { r with map := r.map ||| natOf l <<< (32768 * i) }) :=
      h.replaced (g := fun r => { r with map := r.map ||| natOf l <<< (32768 * i) }) hrun fun hr =>
        ⟨hr.1, fun h0 => hr.2 (Nat.or_eq_zero_iff.1 h0).1⟩
    refine .ite (.itemDone ?landed _ _) (.updRun ?landed fun _ _ hr => hr)
    exact .ite (.ite ((hcounts _).sramPut _ _) (hcounts _)) (.ite (.ite (hmap.sramPut _ _) hmap) (h.writeData _ _ _))

/-! ## Phases -/

theorem MapHeld.rootCounts (h : MapHeld c e s) (r : CRun) : MapHeld c e (rootCounts s c f r) :=
  h.foldl _ fun _ _ ht => ht.downTake _ _ _ _ _

theorem MapHeld.rootMap (h : MapHeld c e s) (hne : e ≠ f) (cut map : Nat) : MapHeld c e (rootMap s c f cut map) := by
  unfold Machine.rootMap
  split
  · exact h
  · refine MapHeld.foldl _ (MapHeld.updRun ?_ fun he => absurd he hne) fun _ _ ht => ht.downTake _ _ _ _ _
    exact h.of_touches (cntUp_touches (m := [.regs]) _ _ _ _ (by decide) (cntUp_touches _ _ _ _ (by decide)
      (wr_touches _ _ (by decide) (.refl _ s))))

/-! ## The end of a run -/

theorem MapHeld.endColl (h : MapHeld c e s) (id : Nat) (err : Option (Nat × Nat)) (result : Nat) :
    MapHeld c e (endColl s c id err result) :=
  h.of_touches (endColl_touches (m := [.mem, .regs, .units, .tel]) _ _ _ _ (by decide) (.refl _ s))

theorem MapHeld.fillFree (h : MapHeld c e s) (l : List (Nat × Nat × Nat)) : MapHeld c e (fillFree s c l) :=
  h.of_touches (fillFree_touches (m := [.mem, .freeCtr]) _ _ (by decide) (.refl _ s))

theorem MapHeld.wr (h : MapHeld c e s) (k : Nat) (v : Word) : MapHeld c e (wr s k v) :=
  h.of_touches (wr_touches (m := [.regs]) _ _ (by decide) (.refl _ s))

theorem MapHeld.takeAborted (h : MapHeld c e s) (seq : Nat) (z : CCause) : MapHeld c e (takeAborted s c f seq z) :=
  MapHeld.wr (h.setCent_sameRun (f := f) (by rfl)) _ _

theorem MapHeld.goIdle (h : MapHeld c e s) (r : CRun) : MapHeld c e (goIdle s c f r) := by
  refine MapHeld.foldl _ (MapHeld.wr (h.setCent fun _ _ hr => by cases hr) _ _) fun t _ ht => ?_
  dsimp only
  split
  · split_ifs
    exacts [ht.takeAborted _ _, ht]
  · exact ht

theorem MapHeld.recorded (h : MapHeld c e s) (z : CCause) : MapHeld c e (Machine.setCent s c f { cent s c f with last := z }) :=
  h.setCent_sameRun rfl

theorem MapHeld.abortOne (h : MapHeld c e s) (z : CCause) (skip : Option Nat) : MapHeld c e (abortOne s c f z skip) := by
  unfold Machine.abortOne
  split
  · exact h
  next r _ =>
    have hsent := (h.fillFree (lostPieces s c f r)).of_touches
      (sendAborts_touches (m := [.tx]) c f (sigOf s c f r.desc r.ph) r.seq z skip (by decide)
        (dropQueued_touches c (cGroup s c f) r.seq (by decide) (.refl _ _)))
    have hended := (hsent.goIdle (f := f) r).recorded (f := f) z
    dsimp only
    split
    exacts [hended.endColl _ _ _, hended]

theorem MapHeld.abortHere (h : MapHeld c e s) (cause : Nat) : MapHeld c e (abortHere s c f cause) :=
  (h.of_touches (countAbort_touches (m := [.regs]) c cause (by decide) (.refl _ s))).foldl _ fun _ _ ht => ht.abortOne _ _

/-! ## Settling -/

theorem MapHeld.phaseStep (h : MapHeld c e s) : MapHeld c e (phaseStep s c f) := by
  unfold Machine.phaseStep
  split
  · exact h
  next r hrun =>
    have hnew : r.gotMap.isNone = true → e ≠ f := fun hnone he => by
      have hheld := (h r (he ▸ hrun)).1
      rw [Option.isNone_iff_eq_none.1 hnone] at hheld
      exact absurd hheld (by decide)
    dsimp only
    split_ifs with _ _ _ hmap
    · exact h
    · exact h
    · exact h
    · exact h.setRun fun he => absurd he (hnew hmap.2)
    · exact h.rootMap (hnew hmap.2) _ _
    · exact h
    · exact (h.rootCounts r).updRun fun _ _ hr => hr
    · exact h.updRun fun _ _ hr => hr
    · exact h
    · exact h.abortHere _
    · exact h.setRun fun he => h r (he ▸ hrun)

theorem MapHeld.finishStep (h : MapHeld c e s) : MapHeld c e (finishStep s c f) := by
  unfold Machine.finishStep
  split
  · exact h
  next r _ =>
    have hlast : MapHeld c e (if kSparse r.desc ∧ cBase s c f = true then sparseLast s c f r else s) :=
      .ite (h.of_touches (sparseLast_touches (m := [.mem]) _ _ _ (by decide) (.refl _ s))) h
    refine .ite ?_ h
    dsimp only
    split
    exacts [((hlast.fillFree _).ite hlast |>.goIdle r).endColl _ _ _, (hlast.fillFree _).ite hlast |>.goIdle r]

/-- A run's output map stays as its unit settles. -/
theorem MapHeld.cmSettle (h : MapHeld c e s) : MapHeld c e (cmSettle s c) := by
  have hround : ∀ (l : List Nat) (t : State), MapHeld c e t →
      MapHeld c e (l.foldl (fun a f => Machine.finishStep (Machine.phaseStep a c f) c f) t) :=
    fun l _ ht => ht.foldl l fun _ _ ha => ha.phaseStep.finishStep
  exact (hround _ _ (hround _ _ (hround _ _ (hround _ _ h)))).of_cent cent_cmIdleGroups

end

/-! ## A sparse run of an operation with a counts phase -/

section
open Sys2Proof.Tests

/-- A GATHERV of 16 rows and columns of bytes with the sparse field set, in tiles of 8 by 8, with the Finder and a share of a half. -/
def gathervTop : BitVec 512 := tDesc [(0, 3), (72, 5), (78, 3), (82, 1), (276, 2), (280, 16), (296, 16), (344, 32768)]

/-- Its run at a top root without children, which has counted the one tile that is not 0. -/
def gathervRun : CRun := { tR gathervTop with hist := [(16, 1)], next := 1 }

/-- The state in which the Finder's pass is due. -/
def gathervFinder : State :=
  wr { tColl tRun 16 gathervRun [] with mem := [⟨memAddr c34.key 0, 16⟩] } (cwKey c34 31 0) 0x19

theorem gathervFinder_lone : LoneRun gathervFinder c34 (31 : Fin 32).val gathervRun :=
  loneRun_of (y := { CEnt.init with run := some gathervRun }) (by decide +kernel)

theorem gathervFinder_due : cRoot gathervFinder c34 (31 : Fin 32).val = true ∧ inMap gathervRun.desc gathervRun.ph = true ∧
    kMode gathervRun.desc = 2 ∧ gathervRun.gotMap = none ∧ upFormed gathervFinder c34 (31 : Fin 32).val gathervRun = true ∧
    memRead gathervFinder c34.key gathervRun.ws (kGeo gathervRun.desc).nt = [16, 0, 0, 0] := by
  decide +kernel

theorem gathervRun_counts (v : Nat) (hv : 0 < v) :
    gathervRun.hist.get v 0 = (([16, 0, 0, 0] : List Byte).filter (fun b => b.toNat == v)).length := by
  show FMap.get [(16, 1)] v 0 = _
  by_cases h : 16 = v
  · subst h
    decide
  · simp [FMap.get, FMap.find, h, hv.ne]

/-- The share of a half is two tiles, and one is positive. -/
theorem gathervRun_share :
    min (ceilDiv (kThr gathervRun.desc % 65536 * (kGeo gathervRun.desc).nt) 65536)
      (([16, 0, 0, 0] : List Byte).filter (fun b => b != 0)).length = 1 := by
  decide +kernel

/-- The run after the pass keeps no tile. -/
theorem gathervFinder_keepsNone :
    (crun (finderPass gathervFinder c34 (31 : Fin 32).val) c34 (31 : Fin 32).val).map (fun r => r.map) = some 0 := by
  decide +kernel

theorem popN_zero (n : Nat) : popN 0 n = 0 := by simp [popN]

/-- Refutes O56: the statement takes the run of a GATHERV whose sparse field is set, which R217 refuses to launch. Its top root has
one tile to keep, and takes the chunk of the output map for counts. -/
theorem not_finderKeepsTheGreatest : ¬ Obligations.FinderKeepsTheGreatest := by
  intro h
  obtain ⟨hroot, hph, hmode, hnew, hformed, hvals⟩ := gathervFinder_due
  obtain ⟨t, r', hexec, hrun, hgot, hkept, -, -⟩ := h c34 31 _ _ _ gathervFinder_lone hroot hph hmode hnew hformed hvals.symm
    gathervRun_counts (by decide)
  rw [gathervRun_share] at hgot hkept
  have hmap : r'.map ≠ 0 := fun h0 => by
    rw [h0, popN_zero] at hkept
    exact absurd hkept (by decide)
  have hheld : MapHeld c34 (31 : Fin 32).val t := fun r hr => by
    obtain rfl : r' = r := Option.some.inj (hrun.symm.trans hr)
    exact ⟨by rw [hgot]; rfl, hmap⟩
  have hsettled : finderPass gathervFinder c34 (31 : Fin 32).val = cmSettle t c34 := Host.Outcome.next.inj hexec
  obtain ⟨r, hr, hnone⟩ := Option.map_eq_some_iff.1 gathervFinder_keepsNone
  exact (hheld.cmSettle r (hsettled ▸ hr)).2 hnone

end

end Sys2Proof.Machine

/-! # Writes of ring registers (R234, R237, R261, R264-R266)

A write of a ring's CFG or doorbell, by whatever path it comes, is the ring's own operation and no more. -/

namespace Sys2Proof.Machine

/-! ## The registers of rings (R264, R265) -/

/-- A register of a submission or completion ring. -/
def ringReg (u : UnitRef) (cq : Bool) (r i : Nat) : Nat := if cq then cqReg u r i else sqReg u r i

/-- How many rings of a kind a unit has (R232). -/
def ringCount (u : UnitRef) (cq : Bool) : Nat := if cq then cqCount u else sqCount u

/-- The offset of a ring's register in the NI block, from CFG on. -/
def niRingOff (cq : Bool) (r i : Nat) : Nat := (if cq then 0x200 else 0) + 0x20 * r + 4 * (i - 1)

/-- The offset of a ring's register in the HOST block. -/
def hostRingOff (cq : Bool) (r i : Nat) : Nat := (if cq then 0x1800 else 0x1000) + 0x20 * r + 4 * i

theorem ringReg_ni (c : Cell) (cq : Bool) (r : Nat) {i : Nat} (hi : i ≠ 0) :
    ringReg (.ni c) cq r i = cellReg c 3 (niRingOff cq r i) := by
  cases cq <;> simp [ringReg, sqReg, cqReg, niRingOff, hi]

theorem ringReg_gw (g : GwId) (cq : Bool) (r i : Nat) : ringReg (.gw g) cq r i = gwReg g 1 (hostRingOff cq r i) := by
  cases cq <;> rfl

/-- The units that have rings, with the bound on a ring's number. -/
theorem ringCount_cases {u : UnitRef} {cq : Bool} {r : Nat} (hr : r < ringCount u cq) :
    (∃ c, u = .ni c ∧ r < if cq then 4 else 16) ∨ ∃ a b, u = .gw (.host a b) ∧ r < 64 := by
  unfold ringCount at hr
  cases u with
  | ni c => exact .inl ⟨c, rfl, by cases cq <;> exact hr⟩
  | gw g =>
    cases g with
    | host a b => exact .inr ⟨a, b, rfl, by cases cq <;> exact hr⟩
    | mem a b => cases cq <;> exact absurd hr (Nat.not_lt_zero r)
    | opt a b => cases cq <;> exact absurd hr (Nat.not_lt_zero r)

/-- CFG and the doorbell of a ring have rows that clear nothing by ones, and the doorbell is a U register (R401). -/
def ringRowOk (i : Nat) (o : Option RegRow) : Bool := o.any (fun w => w.w1c == 0 && (i != 3 || w.u))

theorem ringRowOk_ni : ∀ cq : Bool, ∀ r : Fin 16, ∀ i : Fin 4, 2 ≤ i.val → (cq = true → r.val < 4) →
    ringRowOk i (findRow niRows (niRingOff cq r i)) = true := by decide +kernel

theorem ringRowOk_host : ∀ cq : Bool, ∀ r : Fin 64, ∀ i : Fin 4, 2 ≤ i.val →
    ringRowOk i (findRow hostRows (hostRingOff cq r i)) = true := by decide +kernel

/-- The ring register that lies at an offset (R264, R265). -/
theorem niRing_off : ∀ cq : Bool, ∀ r : Fin 16, ∀ i : Fin 4, 2 ≤ i.val → (cq = true → r.val < 4) →
    niRing (niRingOff cq r i) = (cq, r.val, i.val) := by decide +kernel

theorem hostRing_off : ∀ cq : Bool, ∀ r : Fin 64, ∀ i : Fin 4, 2 ≤ i.val →
    hostRing (hostRingOff cq r i) = (cq, r.val, i.val) := by decide +kernel

/-- A register with no bit that a one clears, outside the service group: its write is what its block makes of it. -/
theorem regWrite_block {s : State} {p : Path} {hh : Bool} {k : Nat} {v : Word} {row : RegRow} (hrow : rowOf k = some row)
    (ha : absentPort k = false) (hw : v &&& BitVec.ofNat 32 row.w1c = 0) (hd : keyDom k ≠ 52) :
    regWrite s p hh k v = blockWrite s p hh k row v := by
  have hsev : isSev k = false := by simp [isSev, hd]
  rw [regWrite_of_row hrow ha, if_neg (not_not.2 hw), hsev, if_neg Bool.false_ne_true]

/-- No register of a gateway port's own block above its meters is of a meter (R163). -/
theorem meterWrite_above (s : State) {g : GwId} {o : Nat} (v : Word) (ho : 0x800 ≤ o) (ho' : o < 65536) :
    meterWrite s g (gwReg g 1 o) v = s := by
  refine meterWrite_other _ _ _ (List.any_eq_false.2 fun j hj hkey => ?_)
  have hlt := List.mem_range.1 hj
  exact gwReg_ne g (by decide) ho' (by decide) (by omega) (.inr (by omega)) (beq_iff_eq.1 (Bool.and_eq_true_iff.1 hkey).2)

section
variable {u : UnitRef} {cq : Bool} {r i : Nat} (hr : r < ringCount u cq) (hi : i = 2 ∨ i = 3)
include hr hi

theorem rowOf_ringReg : ∃ row, rowOf (ringReg u cq r i) = some row ∧ row.w1c = 0 ∧ (i = 3 → row.u = true) := by
  have hok : ringRowOk i (rowOf (ringReg u cq r i)) = true := by
    obtain ⟨c, rfl, hlt⟩ | ⟨a, b, rfl, hlt⟩ := ringCount_cases hr
    · have hlt16 : r < 16 := by cases cq <;> simp at hlt <;> omega
      have ho : niRingOff cq r i < 65536 := by unfold niRingOff; split <;> omega
      rw [ringReg_ni c cq r (by omega), rowOf_cellReg c (by decide) ho]
      exact ringRowOk_ni cq ⟨r, hlt16⟩ ⟨i, by omega⟩ (by show 2 ≤ i; omega) (by rintro rfl; exact hlt)
    · have ho : hostRingOff cq r i < 65536 := by unfold hostRingOff; split <;> omega
      rw [ringReg_gw, rowOf_gwReg _ (by decide) ho]
      exact ringRowOk_host cq ⟨r, hlt⟩ ⟨i, by omega⟩ (by show 2 ≤ i; omega)
  obtain ⟨row, hrow, hgood⟩ := (Option.any_eq_true _ _).1 hok
  simp only [Bool.and_eq_true, Bool.or_eq_true, beq_iff_eq, bne_iff_ne] at hgood
  exact ⟨row, hrow, hgood.1, fun h3 => hgood.2.resolve_left (not_not_intro h3)⟩

theorem ringReg_lt_bar : ringReg u cq r i < barBase := by
  obtain ⟨c, rfl, hlt⟩ | ⟨a, b, rfl, hlt⟩ := ringCount_cases hr
  · rw [ringReg_ni c cq r (by omega)]
    exact cellReg_lt_bar c (by decide) (by unfold niRingOff; cases cq <;> simp at hlt ⊢ <;> omega)
  · rw [ringReg_gw]
    exact gwReg_lt_bar _ (by decide) (by unfold hostRingOff; split <;> omega)

/-- A write of a ring's CFG or doorbell is the ring's own operation. -/
theorem regWrite_ring (s : State) (p : Path) (hh : Bool) (v : Word) :
    ∃ row, regWrite s p hh (ringReg u cq r i) v = ringWrite s u (cq, r, i) (ringReg u cq r i) row v := by
  obtain ⟨row, hrow, hclear, -⟩ := rowOf_ringReg hr hi
  refine ⟨row, ?_⟩
  have hplain : v &&& BitVec.ofNat 32 row.w1c = 0 := by rw [hclear]; exact BitVec.and_zero
  obtain ⟨c, rfl, hlt⟩ | ⟨a, b, rfl, hlt⟩ := ringCount_cases hr
  · have ho : niRingOff cq r i < 0x300 := by unfold niRingOff; cases cq <;> simp at hlt ⊢ <;> omega
    have hring : niRing (niRingOff cq r i) = (cq, r, i) :=
      niRing_off cq ⟨r, by cases cq <;> simp at hlt <;> omega⟩ ⟨i, by omega⟩ (by show 2 ≤ i; omega) (by rintro rfl; exact hlt)
    rw [ringReg_ni c cq r (by omega)] at hrow ⊢
    rw [regWrite_block hrow (absentPort_cell c (by decide) (by omega) (.inl (by decide))) hplain
      (by rw [keyDom_cellReg c (by decide) (by omega)]; exact Nat.ne_of_lt (Nat.lt_trans (cell_field_lt c) (by decide))),
      blockWrite_ni _ _ _ _ _ _ (by omega), niWriteReg, if_pos ho, hring]
  · have ho : 0x1000 ≤ hostRingOff cq r i ∧ hostRingOff cq r i < 0x2000 := by unfold hostRingOff; split <;> omega
    have hring : hostRing (hostRingOff cq r i) = (cq, r, i) :=
      hostRing_off cq ⟨r, hlt⟩ ⟨i, by omega⟩ (by show 2 ≤ i; omega)
    rw [ringReg_gw] at hrow ⊢
    rw [regWrite_block hrow (absentPort_gw _ (by decide) (by omega)) hplain
      (by rw [keyDom_gwReg _ (by decide) (by omega)]; exact Nat.ne_of_lt (gw_dom_lt _)),
      blockWrite_gw _ _ _ _ _ _ (by decide) (by omega)]
    show meterWrite (hostWriteReg s (.host a b) _ _ row v) (.host a b) _ v = _
    rw [meterWrite_above _ _ (by omega) (by omega), hostWriteReg, if_neg (by omega), if_pos ho, hring]

/-- A served write of a ring's CFG or doorbell by the management port. -/
theorem ringBy_served {s : State} (g : Fin 32) (v : Word) (h : MgmtServes s (ringReg u cq r i)) :
    ∃ row, ringBy s (.mgmt g) u cq r i v = answer (ringWrite s u (cq, r, i) (ringReg u cq r i) row v) (.mgmt g) 0 0 none := by
  obtain ⟨row, hrow⟩ := regWrite_ring hr hi s (.mgmt g) true v
  refine ⟨row, ?_⟩
  rw [← hrow, ← writeBy_mgmt g v h (ringReg_lt_bar hr hi)]
  cases cq
  · exact if_pos hr
  · exact if_pos hr

end

/-! ## A unit's rings -/

section
variable (s : State) (u : UnitRef) (r : Nat)

@[simp] theorem sqOf_setSq_same (x : SqRing) : sqOf (setSq s u r x) u r = x := by
  simp [sqOf, setSq]

theorem sqOf_setSq_ne {q : Nat} (x : SqRing) (h : q ≠ r) : sqOf (setSq s u r x) u q = sqOf s u q := by
  simp [sqOf, setSq, FMap.get_set_ne _ _ _ h]

theorem cqOf_setCq_ne {q : Nat} (x : CqRing) (h : q ≠ r) : cqOf (setCq s u r x) u q = cqOf s u q := by
  simp [cqOf, setCq, FMap.get_set_ne _ _ _ h]

theorem cq_setSq (x : SqRing) : (punit (setSq s u r x) u).cq = (punit s u).cq := by simp [setSq]

theorem sq_setCq (x : CqRing) : (punit (setCq s u r x) u).sq = (punit s u).sq := by simp [setCq]

end

/-! ## Doorbells (R234, R237) -/

section
variable {s : State} {u : UnitRef} {r : Nat} {d : Word}

/-- R234: whether a submission doorbell is accepted. -/
def SqAccepts (s : State) (u : UnitRef) (r : Nat) (d : Word) : Prop :=
  (sqOf s u r).st = .running ∧ ((sqOf s u r).pi - (sqOf s u r).ci).toNat ≤ (d - (sqOf s u r).ci).toNat ∧
    (d - (sqOf s u r).ci).toNat ≤ 2 ^ rdF s (sqReg u r 2) 0 5

theorem sqDoorbell_accepted (h : SqAccepts s u r d) : sqDoorbell s u r d = setSq s u r { sqOf s u r with pi := d } := if_pos h

theorem sqDoorbell_refused (h : ¬ SqAccepts s u r d) : sqDoorbell s u r d = setBits s (sqReg u r 5) 0x10 := if_neg h

/-- R237: whether a completion doorbell is accepted. -/
def CqAccepts (s : State) (u : UnitRef) (r : Nat) (d : Word) : Prop :=
  (d - (cqOf s u r).cci).toNat ≤ ((cqOf s u r).cpi - (cqOf s u r).cci).toNat

theorem cqDoorbell_accepted (h : CqAccepts s u r d) : cqDoorbell s u r d = setCq s u r { cqOf s u r with cci := d } := if_pos h

theorem cqDoorbell_refused (h : ¬ CqAccepts s u r d) : cqDoorbell s u r d = setBits s (cqReg u r 5) 0x10 := if_neg h

end

/-- Settles O15: an accepted doorbell stores PI in its ring, any other sets DB_ERR alone. -/
theorem submissionDoorbell : Obligations.SubmissionDoorbell := by
  intro g u r d s hr h
  obtain ⟨row, hexec⟩ := ringBy_served (cq := false) hr (.inr rfl) g d h
  refine ⟨answer (sqDoorbell s u r.val d) (.mgmt g) 0 0 none, congrArg Host.Outcome.next hexec, answer_mgmt_status .., ?_⟩
  have htouch := (sqDoorbell_touches u r.val d (m := [.regs, .units, .resp]) (by decide) (.refl _ s)).answer (by decide) (g := g)
    (st := 0) (c := 0) (d := none)
  by_cases ha : SqAccepts s u r.val d
  · rw [sqDoorbell_accepted ha] at htouch ⊢
    rw [if_pos (show _ ∧ _ ∧ _ from ha)]
    exact ⟨⟨sqOf_setSq_same .., fun _ _ => rd_answer ..⟩, fun q hq => sqOf_setSq_ne _ _ _ _ hq, cq_setSq s u r.val _,
      fun v hv => (punit_answer_mgmt ..).trans (punit_updUnit_ne _ _ hv), htouch⟩
  · rw [sqDoorbell_refused ha] at htouch ⊢
    rw [if_neg (show ¬ (_ ∧ _ ∧ _) from ha)]
    exact ⟨⟨rfl, (congrArg (bit · 4) (rd_answer ..)).trans (bit_setBits _ _ (b := 4) (by decide)), (RegsBut.setBits _ _ (by simp)).answer⟩,
      fun _ _ => rfl, rfl, fun _ _ => rfl, htouch⟩

/-- Settles O16: an accepted doorbell stores CCI in its ring, any other sets DB_ERR alone. -/
theorem completionDoorbell : Obligations.CompletionDoorbell := by
  intro g u r d s hr h
  obtain ⟨row, hexec⟩ := ringBy_served (cq := true) hr (.inr rfl) g d h
  refine ⟨answer (cqDoorbell s u r.val d) (.mgmt g) 0 0 none, congrArg Host.Outcome.next hexec, answer_mgmt_status .., ?_⟩
  have htouch := (cqDoorbell_touches u r.val d (m := [.regs, .units, .resp]) (by decide) (.refl _ s)).answer (by decide) (g := g)
    (st := 0) (c := 0) (d := none)
  by_cases ha : CqAccepts s u r.val d
  · rw [cqDoorbell_accepted ha] at htouch ⊢
    rw [if_pos (show _ ≤ _ from ha)]
    exact ⟨⟨cqOf_setCq_same .., fun _ _ => rd_answer ..⟩, fun q hq => cqOf_setCq_ne _ _ _ _ hq, sq_setCq s u r.val _,
      fun v hv => (punit_answer_mgmt ..).trans (punit_updUnit_ne _ _ hv), htouch⟩
  · rw [cqDoorbell_refused ha] at htouch ⊢
    rw [if_neg (show ¬ _ ≤ _ from ha)]
    exact ⟨⟨rfl, (congrArg (bit · 4) (rd_answer ..)).trans (bit_setBits _ _ (b := 4) (by decide)), (RegsBut.setBits _ _ (by simp)).answer⟩,
      fun _ _ => rfl, rfl, fun _ _ => rfl, htouch⟩

end Sys2Proof.Machine

/-! # A COLL without a base entry (R181, R199, R259)

A COLL of a group that has no base entry ends with NO_PLAN and RESULT 0, whatever its context held as RESULT before. -/

namespace Sys2Proof.Machine

section
open Sys2Proof.Tests

/-- A COLL of group 0 whose context holds RESULT 1, which no descriptor's does before it starts (`newCtx`). -/
def resultCtx : Ctx := { tCtx 3 with result := 1 }

/-- A cell's NI with that descriptor alone, and no combine entry. -/
def collKeepsNoResult : State := tOne (.ni c34) resultCtx

theorem collKeepsNoResult_lone : LoneCtx collKeepsNoResult (.ni c34) 5 resultCtx := loneCtx_ni (by decide +kernel)

theorem collKeepsNoResult_startable : Startable collKeepsNoResult (.ni c34) (0 : Fin 16).val 3 5 resultCtx :=
  startable_of (by decide +kernel)

theorem collKeepsNoResult_noBase : (dom collKeepsNoResult c34.field).st = .run ∧
    ∀ e, e < 32 → ¬ (cValid collKeepsNoResult c34 e = true ∧ cGroup collKeepsNoResult c34 e = kGroup resultCtx.desc ∧
      cBase collKeepsNoResult c34 e = true) := by decide +kernel

/-- The state after the COLL has ended. -/
def noPlanEnded : State := startOp collKeepsNoResult (.ni c34) (0 : Fin 16).val 3 (fun t id x => runColl t c34 id x)

/-- The first byte of its entry's RESULT is 0. -/
theorem noPlanEnded_result : memGet noPlanEnded.mem (entryAddr collKeepsNoResult (.ni c34) resultCtx.cq + 8) = 0 := by
  decide +kernel

/-- Refutes O47: a COLL without a base entry reports RESULT 0, where the statement's last clause keeps the context's RESULT, which its
hypotheses leave open. -/
theorem not_descriptorsComplete : ¬ Obligations.DescriptorsComplete := by
  intro h
  obtain ⟨-, -, -, -, -, hcoll⟩ := h
  obtain ⟨hrun, hnone⟩ := collKeepsNoResult_noBase
  obtain ⟨t, hexec, ⟨⟨⟨-, -, hbytes⟩, -⟩, -⟩, -⟩ := hcoll c34 0 _ _ _ collKeepsNoResult_lone collKeepsNoResult_startable hrun hnone
  have hended : exec (.coll c34 0) collKeepsNoResult = .next noPlanEnded := congrArg Host.Outcome.next (if_pos hrun)
  have ht : noPlanEnded = t := Host.Outcome.next.inj (hended.symm.trans hexec)
  have hbyte := hbytes 8 (by decide)
  rw [← ht, noPlanEnded_result] at hbyte
  exact absurd hbyte (by decide +kernel)

end

end Sys2Proof.Machine

/-! # COPY (R105, R248)

The packets of a COPY: number `k` of a range takes its bytes from 2,048 `k` on, to the same place at the target; a short unicast PUT
is one packet, whose bytes its header unit carries. -/

namespace Sys2Proof.Machine

/-! ## The packets of a range -/

section
variable (dest off len : Nat)

/-- R248: the READ_REQ of a GET that asks for its 2,048 bytes number `k`. -/
def getPlan (k : Nat) : Plan :=
  inlinePlan 1 1 (dest / 2 ^ 40 * 2 ^ 40 + (dest + 2048 * k) % 2 ^ 40)
    (off + 2048 * k + min 2048 (len - 2048 * k) * 2 ^ 40) 8 (min 2048 (len - 2048 * k))

theorem getPlan_zero : getPlan dest off len 0 = inlinePlan 1 1 dest (off + min 2048 len * 2 ^ 40) 8 (min 2048 len) := by
  have hdest : dest / 2 ^ 40 * 2 ^ 40 + dest % 2 ^ 40 = dest := by omega
  simp only [getPlan, Nat.mul_zero, Nat.add_zero, Nat.sub_zero, hdest]

theorem getPlan_succ (k : Nat) :
    getPlan (dest / 2 ^ 40 * 2 ^ 40 + (dest + 2048) % 2 ^ 40) (off + 2048) (len - 2048) k = getPlan dest off len (k + 1) := by
  have hdest : (dest / 2 ^ 40 * 2 ^ 40 + (dest + 2048) % 2 ^ 40) / 2 ^ 40 * 2 ^ 40 +
      (dest / 2 ^ 40 * 2 ^ 40 + (dest + 2048) % 2 ^ 40 + 2048 * k) % 2 ^ 40 =
      dest / 2 ^ 40 * 2 ^ 40 + (dest + 2048 * (k + 1)) % 2 ^ 40 := by omega
  have hoff : off + 2048 + 2048 * k = off + 2048 * (k + 1) := by omega
  have hlen : len - 2048 - 2048 * k = len - 2048 * (k + 1) := by omega
  simp only [getPlan, hdest, hoff, hlen]

theorem getPlans_eq (n : Nat) : getPlans dest off len n = (List.range n).map (getPlan dest off len) := by
  induction n generalizing dest off len with
  | zero => rfl
  | succ n ih =>
    rw [getPlans, ih, List.range_succ_eq_map, List.map_cons, getPlan_zero, List.map_map]
    exact congrArg _ (List.map_congr_left fun k _ => getPlan_succ ..)

end

/-! ## What a COPY sends -/

section
variable {s : State} {u : UnitRef} {r id : Nat} {x : Ctx}

/-- How many packets a COPY splits its range into. -/
def copyCount (d : BitVec 512) : Nat := (df d 144 32 + 2047) / 2048

/-- R105, R248: packet `k` of a COPY that is split: of a GET, of a multicast PUT, of another PUT. -/
def copyPlan (d : BitVec 512) (k : Nat) : Plan :=
  if bit d 216 then getPlan (df d 64 76) (df d 176 40) (df d 144 32) k
  else if bit d 219 then mcastPlan d (putPlan (df d 217 2) (df d 64 76) (df d 176 40) (df d 144 32) k)
  else putPlan (df d 217 2) (df d 64 76) (df d 176 40) (df d 144 32) k

/-- The one packet of a short unicast PUT (R248). -/
def shortPlan (d : BitVec 512) : Plan :=
  { inlinePlan 0 (df d 217 2) (df d 64 76) 0 (df d 144 32) (df d 144 32) with
    src := .mem (df d 176 40) (df d 144 32), onStream := true }

/-- R247: a COPY that passes its checks has bytes to copy. -/
theorem copy_len_ne_zero (h : Startable s u r 1 id x) : df x.desc 144 32 ≠ 0 := by
  have hrange : copyRange s u x.desc = true := by
    have hpass := h.passes
    unfold descCheck at hpass
    split_ifs at hpass with _ _ _ hrange _
    simpa [rangeOk, startable_dOp h] using hrange
  unfold copyRange at hrange
  simp only [Bool.and_eq_true, bne_iff_ne] at hrange
  exact hrange.1.1.1

theorem runCopy_splits (h : bit x.desc 216 = true ∨ bit x.desc 219 = true ∨
      16 < df x.desc 144 32 ∧ streamBroken s u x.ring (df x.desc 64 76) = false) :
    runCopy s u id x = runWith s u id ((List.range (copyCount x.desc)).map (copyPlan x.desc)) := by
  unfold runCopy copyPlan
  dsimp only
  by_cases hget : bit x.desc 216 = true
  · simp only [hget, if_true]
    rw [getPlans_eq]
    rfl
  by_cases hmc : bit x.desc 219 = true
  · simp only [hget, hmc, if_true]
    rw [putPlans_eq, List.map_map]
    rfl
  · obtain ⟨hlong, hwhole⟩ := (h.resolve_left hget).resolve_left hmc
    simp only [hget, hmc, hwhole, Nat.not_le.2 hlong, if_false, Bool.false_eq_true]
    rw [putPlans_eq]
    rfl

theorem runCopy_short (hget : bit x.desc 216 = false) (hmc : bit x.desc 219 = false) (hlen : df x.desc 144 32 ≤ 16)
    (hwhole : streamBroken s u x.ring (df x.desc 64 76) = false) : runCopy s u id x = runWith s u id [shortPlan x.desc] := by
  unfold runCopy
  simp only [hget, hmc, hwhole, hlen, if_true, if_false, Bool.false_eq_true]
  rfl

/-- R248: the packet of a short PUT carries its bytes inline, as they lie at its source when it is built. -/
theorem planPkt_short {bs : List Byte} (hpos : 0 < df x.desc 144 32)
    (hread : localRead s u (df x.desc 176 40) (df x.desc 144 32) = some bs) :
    ∃ z, planPkt s u id x (shortPlan x.desc) = some z ∧ z.data = [] ∧
      z.hdr = planHdr { shortPlan x.desc with inl := natOf bs } x.ring 0 := by
  have hsrc : (if df x.desc 144 32 = 0 then some [] else localRead s u (df x.desc 176 40) (df x.desc 144 32)) = some bs := by
    rw [if_neg (Nat.ne_of_gt hpos), hread]
  have hinl : (shortPlan x.desc).inlined = true := by
    simpa [shortPlan, inlinePlan, Plan.inlined] using Nat.ne_of_gt hpos
  refine ⟨_, (congrArg (Option.map _) hsrc), ?_, ?_⟩
  · simp only [hinl, if_true]
    rfl
  · simp only [hinl, if_true]
    rfl

end

/-- Settles O48: the packets of a COPY that is split, and the one of a short PUT. -/
theorem copySends : Obligations.CopySends := by
  refine ⟨fun u r s id x h hsplit => ?_, fun u r s id x h hget hmc hlen hwhole => ?_⟩
  · have hne : (List.range (copyCount x.desc)).map (copyPlan x.desc) ≠ [] := by
      have hlen := copy_len_ne_zero h
      have hpos : copyCount x.desc ≠ 0 := by unfold copyCount; omega
      simpa using hpos
    obtain ⟨hctx, htouch⟩ := setCtx_sends h.held hne
    refine ⟨_, _, congrArg Host.Outcome.next ((startOp_of_startable h _).trans (runCopy_splits hsplit)), hctx, by simp [copyCount],
      fun i hi => ⟨copyPlan x.desc i, ?_, ?_⟩, htouch⟩
    · rw [List.getElem?_map, List.getElem?_range (by simpa using hi)]
      rfl
    · unfold copyPlan
      cases hget : bit x.desc 216 <;> cases hmc : bit x.desc 219 <;>
        simp [getPlan, putPlan, mcastPlan, inlinePlan]
  · obtain ⟨hctx, htouch⟩ := setCtx_sends (l := [shortPlan x.desc]) h.held (List.cons_ne_nil _ _)
    exact ⟨_, shortPlan x.desc, congrArg Host.Outcome.next ((startOp_of_startable h _).trans (runCopy_short hget hmc hlen hwhole)),
      hctx, rfl, rfl, rfl, rfl, rfl, rfl, rfl, rfl, fun bs hpos hread => planPkt_short hpos hread, htouch⟩

end Sys2Proof.Machine

/-! # The fetch of descriptors, and failed completion writes (R235, R240, R246, R262) -/

namespace Sys2Proof.Machine

/-! ## A descriptor is taken (R235, R239) -/

section
variable {s : State} {c : Cell} {r : Nat}

/-- R246: with no context that no command starts, nothing is swept. -/
theorem sweepReserved_none {u : UnitRef} (h : ∀ y, y ∈ (punit s u).ctxs → noStart u (dOp y.2.desc) = false) : sweepReserved s u = s := by
  have hnone : (punit s u).ctxs.find? (fun y => noStart u (dOp y.2.desc) && mayStart s u y.1 y.2) = none :=
    List.find?_eq_none.2 fun y hy hmine => Bool.false_ne_true ((h y hy).symm.trans (Bool.and_eq_true_iff.1 hmine).1)
  unfold sweepReserved
  rw [hnone]

/-- The context of the descriptor that a ring of a cell fetches next (R239). -/
def nextCtx (s : State) (c : Cell) (r : Nat) : Ctx := newCtx r (rdF s (sqReg (.ni c) r 2) 8 6) (descAt s (.ni c) r)

/-- R235: what a fetch changes of an NI. -/
theorem punit_fetchOne (s : State) (c : Cell) (r : Nat) : punit (fetchOne s (.ni c) r) (.ni c) = { punit s (.ni c) with
    sq := (punit s (.ni c)).sq.set r { sqOf s (.ni c) r with ci := (sqOf s (.ni c) r).ci + 1 },
    ctxs := (punit s (.ni c)).ctxs.set (punit s (.ni c)).nextId (nextCtx s c r), nextId := (punit s (.ni c)).nextId + 1, fetchLast := r,
    ctxMax := max (punit s (.ni c)).ctxMax ((punit s (.ni c)).ctxs.length + 1) } := by
  simp [fetchOne, setSq, nextCtx]

theorem fetchOne_ni_touches (s : State) (c : Cell) (r : Nat) : Touches [.units] s (fetchOne s (.ni c) r) := by
  unfold fetchOne
  exact updUnit_touches _ _ (List.Subset.refl _) (setSq_touches _ _ _ (List.Subset.refl _) (.refl _ s))

/-- DESCRIPTOR_FETCH at the ring whose turn it is. -/
theorem descriptorFetch_picked {ok : Bool} (hdom : (dom s (UnitRef.ni c).dom).st = .run)
    (hctxs : ∀ y, y ∈ (punit s (.ni c)).ctxs → noStart (.ni c) (dOp y.2.desc) = false)
    (hpick : rrPick (fetchReady s (.ni c)) ((punit s (.ni c)).fetchLast + 1) 16 = some r) :
    exec (.descriptorFetch (.ni c) ok) s =
      .next (if ok then sweepReserved (fetchOne s (.ni c) r) (.ni c) else fetchFails s (.ni c) r) := by
  have hopen : fetchOpen s (.ni c) = true := by simp [fetchOpen, hdom]
  show Host.Outcome.next (descriptorFetch s (.ni c) ok) = _
  unfold descriptorFetch
  dsimp only
  rw [sweepReserved_none hctxs, if_pos hopen, show sqCount (.ni c) = 16 from rfl, hpick]

/-- The contexts after the fetch are those before and the new one. -/
theorem fetchOne_startable (hctxs : ∀ y, y ∈ (punit s (.ni c)).ctxs → noStart (.ni c) (dOp y.2.desc) = false)
    (hop : noStart (.ni c) (dOp (descAt s (.ni c) r)) = false) :
    ∀ y, y ∈ (punit (fetchOne s (.ni c) r) (.ni c)).ctxs → noStart (.ni c) (dOp y.2.desc) = false := by
  intro y hy
  rw [punit_fetchOne] at hy
  rcases FMap.mem_set hy with rfl | hy
  · exact hop
  · exact hctxs y hy

/-- R246: a descriptor with a reserved opcode that is fetched alone is swept with its error. -/
theorem sweepReserved_fetched (hop : 10 ≤ dOp (descAt s (.ni c) r)) (hctxs : (punit s (.ni c)).ctxs = []) :
    sweepReserved (fetchOne s (.ni c) r) (.ni c) = failCtx (fetchOne s (.ni c) r) (.ni c) (punit s (.ni c)).nextId 1 1 := by
  have honly : (punit (fetchOne s (.ni c) r) (.ni c)).ctxs = [((punit s (.ni c)).nextId, nextCtx s c r)] := by
    rw [punit_fetchOne]
    simp [hctxs, FMap.set]
  have hcheck : descCheck (fetchOne s (.ni c) r) (.ni c) (nextCtx s c r).desc = some (1, 1) := if_pos hop
  have hmine : (noStart (.ni c) (dOp (nextCtx s c r).desc) &&
      mayStart (fetchOne s (.ni c) r) (.ni c) (punit s (.ni c)).nextId (nextCtx s c r)) = true := by
    have hstart : noStart (.ni c) (dOp (nextCtx s c r).desc) = true := by
      rw [noStart, Bool.or_eq_true]
      exact .inl (decide_eq_true hop)
    rw [hstart]
    simp [mayStart, waitHolds, behindClose, honly, nextCtx, newCtx]
  unfold sweepReserved
  simp only [honly, List.find?_cons, hmine, hcheck]
  exact congrArg (fun t => failCtx t _ _ _ _) (if_neg (by decide))

/-- R246, R258: it completes as malformed. -/
theorem fetched_reserved (hop : 10 ≤ dOp (descAt s (.ni c) r)) (hctxs : (punit s (.ni c)).ctxs = [])
    (hstill : inFlight s (.ni c) (punit s (.ni c)).nextId = false)
    (hrel : ∀ y, y ∈ (punit s (.ni c)).streams → y.2.relPend ≠ some (punit s (.ni c)).nextId)
    (hrun : (cqOf s (.ni c) (nextCtx s c r).cq).st = .running) :
    Completed s (sweepReserved (fetchOne s (.ni c) r) (.ni c)) (.ni c) { nextCtx s c r with err := some (1, 1) } := by
  have htouch := fetchOne_ni_touches s c r
  have hunit := punit_fetchOne s c r
  have honly : (punit (fetchOne s (.ni c) r) (.ni c)).ctxs = [((punit s (.ni c)).nextId, nextCtx s c r)] := by
    rw [hunit]
    simp [hctxs, FMap.set]
  have hcq : cqOf (fetchOne s (.ni c) r) (.ni c) (nextCtx s c r).cq = cqOf s (.ni c) (nextCtx s c r).cq := by
    simp only [cqOf, hunit]
  have hstill' : inFlight (fetchOne s (.ni c) r) (.ni c) (punit s (.ni c)).nextId = false :=
    (inFlight_congr (htouch.stays .tx (by decide)) (by rw [hunit])).trans hstill
  obtain ⟨hpost, -, -, q, k, hafter⟩ := failCtx_lone honly rfl rfl rfl hstill' (by rw [hunit]; exact hrel)
    (fun hcoll => by have hthree : dOp (descAt s (.ni c) r) = 3 := hcoll.1; omega) (by rw [hcq, hrun]) 1 1
  rw [sweepReserved_fetched hop hctxs]
  exact ⟨hpost.of_same (htouch.stays .mem (by decide)) hcq (fun _ _ => rfl), by rw [hafter]⟩

/-! ## A failed fetch (R262) -/

theorem fetchFails_eq (s : State) (c : Cell) (r : Nat) : fetchFails s (.ni c) r =
    setBits (updUnit (setSq s (.ni c) r { sqOf s (.ni c) r with st := .error }) (.ni c) (fun p => { p with fetchLast := r }))
      (sqReg (.ni c) r 5) 0x40 := rfl

theorem punit_fetchFails (s : State) (c : Cell) (r : Nat) : punit (fetchFails s (.ni c) r) (.ni c) = { punit s (.ni c) with
    sq := (punit s (.ni c)).sq.set r { sqOf s (.ni c) r with st := .error }, fetchLast := r } := by
  simp [fetchFails_eq, setSq]

end

/-- Settles O46: a fetch takes the descriptor, which completes if its opcode is reserved; a fetch or completion write that fails
stops its ring. -/
theorem descriptorFetched : Obligations.DescriptorFetched := by
  refine ⟨fun c s r hdom hctxs hpick => ⟨fun hop => ?_, fun hop hnone hstill hrel hrun => ?_, ?_⟩, fun u r s hr hst => ?_⟩
  · have hunit := punit_fetchOne s c r
    refine ⟨fetchOne s (.ni c) r, (descriptorFetch_picked hdom hctxs hpick).trans
      (congrArg Host.Outcome.next (sweepReserved_none (fetchOne_startable hctxs hop))), ?_, ?_, fun i hi => ?_, ?_, ?_,
      fetchOne_ni_touches s c r⟩
    · simp [sqOf, hunit]
    · rw [ctxOf, hunit]
      exact FMap.find_set_same _ _ _
    · rw [ctxOf, hunit]
      exact FMap.find_set_ne _ _ hi
    · rw [hunit]
    · rw [hunit]
  · exact ⟨_, descriptorFetch_picked hdom hctxs hpick, fetched_reserved hop hnone hstill hrel hrun⟩
  · have hunit := punit_fetchFails s c r
    refine ⟨_, descriptorFetch_picked hdom hctxs hpick, ?_⟩
    rw [if_neg Bool.false_ne_true]
    refine ⟨by simp [sqOf, hunit], by simp [sqOf, hunit], ?_, by rw [hunit], ?_, fetchFails_touches _ _ (by decide) (.refl _ s)⟩
    · exact bit_setBits _ _ (b := 6) (by decide)
    · exact fun k hk => rd_setBits_ne _ _ (List.ne_of_not_mem_cons hk)
  · refine ⟨_, congrArg Host.Outcome.next (if_pos ⟨hr, hst⟩), cqOf_setCq_same .., bit_setBits _ _ (b := 6) (by decide),
      fun j hj => cqOf_setCq_ne _ _ _ _ hj, fun k hk => rd_setBits_ne _ _ (List.ne_of_not_mem_cons hk), ?_⟩
    exact setBits_touches _ _ (by decide) (setCq_touches _ _ _ (by decide) (.refl _ s))

end Sys2Proof.Machine

/-! # Rings start, stop and are aborted (R261, R262) -/

namespace Sys2Proof.Machine

/-! ## Fields of CFG -/

theorem bits_or {n : Nat} (v w : BitVec n) (lo len : Nat) : bits (v ||| w) lo len = bits v lo len ||| bits w lo len := by
  refine Nat.eq_of_testBit_eq fun i => ?_
  rw [Nat.testBit_or, testBit_bits, testBit_bits, testBit_bits, BitVec.getLsbD_or, Bool.and_or_distrib_left]

/-- A field all of whose bits are in the mask takes the value written. -/
theorem rdF_wrMask_in (s : State) (k mask : Nat) (v : Word) {lo len : Nat} (h : lo + len ≤ 32)
    (hm : ∀ i, i < len → mask.testBit (lo + i) = true) : rdF (wrMask s k mask v) k lo len = bits v lo len := by
  unfold rdF
  rw [rd_wrMask_same]
  refine Nat.eq_of_testBit_eq fun i => ?_
  rw [testBit_bits, testBit_bits]
  by_cases hi : i < len
  · have hmask : (BitVec.ofNat 32 mask).getLsbD (lo + i) = true := by
      rw [BitVec.getLsbD_ofNat, hm i hi, Bool.and_true, decide_eq_true_eq]
      omega
    simp only [BitVec.getLsbD_or, BitVec.getLsbD_and, BitVec.getLsbD_not, hmask, Bool.not_true, Bool.and_false, Bool.false_or,
      Bool.and_true]
  · simp [hi]

theorem rdF_wrF_beside (s : State) (k : Nat) {lo len lo' len' : Nat} (v : Nat) (h : lo' + len' ≤ lo ∨ lo + len ≤ lo') :
    rdF (wrF s k lo len v) k lo' len' = rdF s k lo' len' := by
  rw [rdF, rd_wrF_same]
  exact bits_put_ne _ _ h

theorem RegsBut.wrMask {ks : List Nat} {s t : State} (h : RegsBut ks s t) {k : Nat} (mask : Nat) (v : Word) (hk : k ∈ ks) :
    RegsBut ks s (wrMask t k mask v) := h.wr _ hk

/-! ## The registers of different rings -/

/-- No two registers of a unit's rings have one number. -/
theorem ringReg_ne {u : UnitRef} {cq cq' : Bool} {r r' i i' : Nat} (hr : r < ringCount u cq) (hr' : r' < ringCount u cq')
    (hi : 2 ≤ i ∧ i ≤ 5) (hi' : 2 ≤ i' ∧ i' ≤ 5) (h : ¬ (cq = cq' ∧ r = r' ∧ i = i')) : ringReg u cq r i ≠ ringReg u cq' r' i' := by
  obtain ⟨c, rfl, hlt⟩ | ⟨a, b, rfl, hlt⟩ := ringCount_cases hr
  · obtain ⟨_, -, hlt'⟩ | ⟨_, _, hgw, -⟩ := ringCount_cases hr'
    · rw [ringReg_ni c cq r (by omega), ringReg_ni c cq' r' (by omega)]
      unfold niRingOff
      cases cq <;> cases cq' <;> simp at h hlt hlt' ⊢ <;>
        exact cellReg_ne c (by decide) (by omega) (by decide) (by omega) (.inr (by omega))
    · cases hgw
  · obtain ⟨_, hni, -⟩ | ⟨_, _, -, hlt'⟩ := ringCount_cases hr'
    · cases hni
    · rw [ringReg_gw, ringReg_gw]
      unfold hostRingOff
      cases cq <;> cases cq' <;> simp at h ⊢ <;>
        exact gwReg_ne _ (by decide) (by omega) (by decide) (by omega) (.inr (by omega))

/-! ## Rings settle (R262) -/

section
variable (s : State) (u : UnitRef) (r : Nat)

theorem FMap.get_map_ite {α : Type} (m : FMap α) (p : Nat → α → Bool) (f : α → α) (a : Nat) (d : α) (hd : p a d = false) :
    FMap.get (m.map (fun x => (x.1, if p x.1 x.2 then f x.2 else x.2))) a d = if p a (m.get a d) then f (m.get a d) else m.get a d := by
  unfold FMap.get
  rw [FMap.find_map m (fun x => (x.1, if p x.1 x.2 then f x.2 else x.2)) (fun _ => rfl)]
  cases m.find a with
  | none => simp [hd]
  | some y => rfl

/-- A STOPPING submission ring with nothing in execution and no completion to write is STOPPED. -/
theorem sqOf_ringSettle : sqOf (ringSettle s u) u r =
    if (sqOf s u r).st = .stopping ∧ sqInexec s u r + sqOwing s u r = 0 then { sqOf s u r with st := .stopped } else sqOf s u r := by
  unfold sqOf
  rw [ringSettle, punit_updUnit_same]
  have h := FMap.get_map_ite (punit s u).sq (fun a x => decide (x.st = .stopping ∧ sqInexec s u a + sqOwing s u a = 0))
    (fun x => { x with st := .stopped }) r SqRing.init (by simp [SqRing.init])
  simpa only [decide_eq_true_eq] using h

/-- A STOPPING completion ring without reservations is STOPPED. -/
theorem cqOf_ringSettle_eq : cqOf (ringSettle s u) u r =
    if (cqOf s u r).st = .stopping ∧ cqRsv s u r = 0 then { cqOf s u r with st := .stopped } else cqOf s u r := by
  unfold cqOf
  rw [ringSettle, punit_updUnit_same]
  have h := FMap.get_map_ite (punit s u).cq (fun a x => decide (x.st = .stopping ∧ cqRsv s u a = 0))
    (fun x => { x with st := .stopped }) r CqRing.init (by simp [CqRing.init])
  simpa only [decide_eq_true_eq] using h

theorem ctxs_ringSettle : (punit (ringSettle s u) u).ctxs = (punit s u).ctxs := by
  rw [ringSettle, punit_updUnit_same]

end

/-! ## CFG of a submission ring -/

section
variable {s : State} {u : UnitRef} {r : Nat} {v : Word}

theorem sqCfg_starts (hst : (sqOf s u r).st = .stopped) (hv : bit v 16 = true)
    (hok : sqEnableOk (wrMask s (sqReg u r 2) 0x3F1F v) u r = true) :
    sqCfg s u r v = wrF (setSq (wrMask s (sqReg u r 2) 0x3F1F v) u r ⟨.running, 0, 0⟩) (sqReg u r 2) 16 1 1 := by
  unfold sqCfg
  dsimp only
  rw [if_pos hst, if_pos hv, if_pos hok]

theorem sqCfg_refuses (hst : (sqOf s u r).st = .stopped) (hv : bit v 16 = true)
    (hbad : ¬ sqEnableOk (wrMask s (sqReg u r 2) 0x3F1F v) u r = true) :
    sqCfg s u r v = sqCfgErr (wrMask s (sqReg u r 2) 0x3F1F v) u r := by
  unfold sqCfg
  dsimp only
  rw [if_pos hst, if_pos hv, if_neg hbad]

/-- A ring that is not STOPPED, whose ENABLE is written 0: it fetches no more (R262), and CFG_ERR says that the write would have
changed another field (R261). -/
def sqStopping (s : State) (u : UnitRef) (r : Nat) (v : Word) : State :=
  wrF (setSq (if changes s (sqReg u r 2) 0x3F1F v then sqCfgErr s u r else s) u r { sqOf s u r with st := .stopping })
    (sqReg u r 2) 16 1 0

theorem sqCfg_stops (hst : (sqOf s u r).st ≠ .stopped) (hv : bit v 16 = false) :
    sqCfg s u r v = ringSettle (if bit v 17 then flushRing (sqStopping s u r v) u r else sqStopping s u r v) u := by
  unfold sqCfg
  dsimp only
  rw [if_neg hst, hv, if_neg Bool.false_ne_true]
  rfl

theorem punit_sqStopping : punit (sqStopping s u r v) u =
    { punit s u with sq := (punit s u).sq.set r { sqOf s u r with st := .stopping } } := by
  unfold sqStopping
  rw [punit_wrF, setSq, punit_updUnit_same]
  split <;> rfl

theorem bit_sqStopping : bit (rd (sqStopping s u r v) (sqReg u r 2)) 16 = false := by
  rw [sqStopping, rd_wrF_same]
  exact bit_put_zero _ (by decide)

theorem sqStopping_regs : RegsBut [sqReg u r 2, sqReg u r 5] s (sqStopping s u r v) := by
  have hflag : RegsBut [sqReg u r 2, sqReg u r 5] s (if changes s (sqReg u r 2) 0x3F1F v then sqCfgErr s u r else s) := by
    split
    · exact RegsBut.setBits _ _ (by simp)
    · exact .refl _ s
  exact hflag.wr (t := setSq _ _ _ _) _ (by simp)

theorem sqStopping_touches : Touches [.regs, .units] s (sqStopping s u r v) :=
  wrF_touches _ _ _ _ (by decide) (setSq_touches _ _ _ (by decide)
    (.ite (fun _ => sqCfgErr_touches _ _ (by decide) (.refl _ s)) fun _ => .refl _ s))

end

/-- R261: a submission ring that is enabled. -/
theorem sqEnable_starts {u : UnitRef} {r : Nat} {s : State} {w : Word} (hr : r < sqCount u) (hst : (sqOf s u r).st = .stopped)
    (hw : bit w 16 = true) {t : State} (ht : t = sqCfg s u r w) :
    rdF t (sqReg u r 2) 0 5 = bits w 0 5 ∧ rdF t (sqReg u r 2) 8 6 = bits w 8 6 ∧
      (if sqEnableOk (wrMask s (sqReg u r 2) 0x3F1F w) u r then
        sqOf t u r = ⟨.running, 0, 0⟩ ∧ bit (rd t (sqReg u r 2)) 16 = true
      else sqOf t u r = sqOf s u r ∧ bit (rd t (sqReg u r 5)) 5 = true) ∧
      (∀ q, q ≠ r → sqOf t u q = sqOf s u q) ∧ (punit t u).cq = (punit s u).cq ∧
      RegsBut [sqReg u r 2, sqReg u r 5] s t ∧ Touches [.regs, .units] s t := by
  subst ht
  have hlog : rdF (wrMask s (sqReg u r 2) 0x3F1F w) (sqReg u r 2) 0 5 = bits w 0 5 :=
    rdF_wrMask_in _ _ _ _ (by decide) (by decide)
  have hcq : rdF (wrMask s (sqReg u r 2) 0x3F1F w) (sqReg u r 2) 8 6 = bits w 8 6 :=
    rdF_wrMask_in _ _ _ _ (by decide) (by decide)
  have hregs : RegsBut [sqReg u r 2, sqReg u r 5] s (wrMask s (sqReg u r 2) 0x3F1F w) := (RegsBut.refl _ s).wrMask _ _ (by simp)
  have htouch : Touches [.regs, .units] s (wrMask s (sqReg u r 2) 0x3F1F w) := wrMask_touches _ _ _ (by decide) (.refl _ s)
  by_cases hok : sqEnableOk (wrMask s (sqReg u r 2) 0x3F1F w) u r = true
  · rw [sqCfg_starts hst hw hok, if_pos hok, rdF_wrF_beside _ _ _ (.inl (by decide)), rdF_wrF_beside _ _ _ (.inl (by decide))]
    exact ⟨hlog, hcq, ⟨sqOf_setSq_same .., by rw [rd_wrF_same]; exact bit_put_b2n _ true (by decide)⟩,
      fun q hq => sqOf_setSq_ne _ _ _ _ hq, cq_setSq .., hregs.wr (t := setSq _ _ _ _) _ (by simp),
      wrF_touches _ _ _ _ (by decide) (setSq_touches _ _ _ (by decide) htouch)⟩
  · have hne : sqReg u r 2 ≠ sqReg u r 5 :=
      ringReg_ne (cq := false) (cq' := false) hr hr (by decide) (by decide) (by simp)
    have hkept : rd (sqCfgErr (wrMask s (sqReg u r 2) 0x3F1F w) u r) (sqReg u r 2) = rd (wrMask s (sqReg u r 2) 0x3F1F w) (sqReg u r 2) :=
      rd_setBits_ne _ _ hne
    rw [sqCfg_refuses hst hw hok, if_neg hok, rdF, rdF, hkept]
    exact ⟨hlog, hcq, ⟨rfl, bit_setBits _ _ (b := 5) (by decide)⟩, fun _ _ => rfl, rfl, hregs.trans (RegsBut.setBits _ _ (by simp)),
      sqCfgErr_touches _ _ (by decide) htouch⟩

/-- R262: a submission ring that is disabled. -/
theorem sqDisable_stops {u : UnitRef} {r : Nat} {s : State} {w : Word} (hst : (sqOf s u r).st ≠ .stopped)
    (hw : bit w 16 = false ∧ bit w 17 = false) {t : State} (ht : t = sqCfg s u r w) :
    sqOf t u r = { sqOf s u r with st := if sqInexec s u r + sqOwing s u r = 0 then .stopped else .stopping } ∧
      bit (rd t (sqReg u r 2)) 16 = false ∧ (punit t u).ctxs = (punit s u).ctxs ∧
      RegsBut [sqReg u r 2, sqReg u r 5] s t ∧ Touches [.regs, .units] s t := by
  have hunit := punit_sqStopping (s := s) (u := u) (r := r) (v := w)
  have hring : sqOf (sqStopping s u r w) u r = { sqOf s u r with st := .stopping } := by simp [sqOf, hunit]
  have hinexec : sqInexec (sqStopping s u r w) u r = sqInexec s u r := by simp only [sqInexec, hunit]
  have howing : sqOwing (sqStopping s u r w) u r = sqOwing s u r := by simp only [sqOwing, hunit]
  rw [sqCfg_stops hst hw.1, hw.2, if_neg Bool.false_ne_true] at ht
  subst ht
  refine ⟨?_, bit_sqStopping, by rw [ctxs_ringSettle, hunit], sqStopping_regs, ringSettle_touches _ (by decide) sqStopping_touches⟩
  rw [sqOf_ringSettle, hring, hinexec, howing]
  by_cases hdone : sqInexec s u r + sqOwing s u r = 0
  · simp only [hdone, and_self, if_true]
  · simp only [hdone, and_false, if_false]

/-! ## CFG of a completion ring -/

section
variable {s : State} {u : UnitRef} {r : Nat} {v : Word}

theorem cqCfg_starts (hst : (cqOf s u r).st = .stopped) (hv : bit v 16 = true)
    (hok : cqEnableOk (wrMask s (cqReg u r 2) 0x1F v) u r = true) :
    cqCfg s u r v = wrF (setCq (wrMask s (cqReg u r 2) 0x1F v) u r ⟨.running, 0, 0⟩) (cqReg u r 2) 16 1 1 := by
  unfold cqCfg
  dsimp only
  rw [if_pos hst, if_pos hv, if_pos hok]

theorem cqCfg_refuses (hst : (cqOf s u r).st = .stopped) (hv : bit v 16 = true)
    (hbad : ¬ cqEnableOk (wrMask s (cqReg u r 2) 0x1F v) u r = true) :
    cqCfg s u r v = cqCfgErr (wrMask s (cqReg u r 2) 0x1F v) u r := by
  unfold cqCfg
  dsimp only
  rw [if_pos hst, if_pos hv, if_neg hbad]

/-- CFG_ERR where a write would change LOG2 of a ring that is not STOPPED (R261). -/
def cqFlagged (s : State) (u : UnitRef) (r : Nat) (v : Word) : State :=
  if changes s (cqReg u r 2) 0x1F v then cqCfgErr s u r else s

/-- A ring that is not STOPPED, whose ENABLE is written 0 (R262). -/
def cqStopping (s : State) (u : UnitRef) (r : Nat) (v : Word) : State :=
  wrF (setCq (cqFlagged s u r v) u r { cqOf s u r with st := .stopping }) (cqReg u r 2) 16 1 0

theorem cqFlagged_regs : RegsBut [cqReg u r 5] s (cqFlagged s u r v) := by
  unfold cqFlagged
  split
  · exact RegsBut.setBits _ _ (by simp)
  · exact .refl _ s

theorem punit_cqFlagged : punit (cqFlagged s u r v) u = punit s u := by
  unfold cqFlagged
  split <;> rfl

theorem cqFlagged_touches : Touches [.regs] s (cqFlagged s u r v) :=
  .ite (fun _ => cqCfgErr_touches _ _ (by decide) (.refl _ s)) fun _ => .refl _ s

/-- The flag is no field by which a submission ring names a completion ring. -/
theorem cqNamed_cqFlagged (hr : r < cqCount u) : cqNamed (cqFlagged s u r v) u r = cqNamed s u r := by
  unfold cqNamed
  rw [Bool.eq_iff_iff, List.any_eq_true, List.any_eq_true]
  refine exists_congr fun q => and_congr_right fun hq => ?_
  have hne : sqReg u q 2 ≠ cqReg u r 5 :=
    ringReg_ne (cq := false) (cq' := true) (List.mem_range.1 hq) hr (by decide) (by decide) (by simp)
  simp only [rdF, cqFlagged_regs _ (List.not_mem_cons_of_ne_of_not_mem hne (List.not_mem_nil))]

theorem cqCfg_keeps (hr : r < cqCount u) (hst : (cqOf s u r).st ≠ .stopped) (hv : bit v 16 = false) (hn : cqNamed s u r = true) :
    cqCfg s u r v = cqCfgErr (cqFlagged s u r v) u r := by
  unfold cqCfg
  dsimp only
  rw [if_neg hst, hv, if_neg Bool.false_ne_true]
  exact if_pos ((cqNamed_cqFlagged hr).trans hn)

theorem cqCfg_stops (hr : r < cqCount u) (hst : (cqOf s u r).st ≠ .stopped) (hv : bit v 16 = false) (hn : cqNamed s u r = false) :
    cqCfg s u r v = ringSettle (cqStopping s u r v) u := by
  unfold cqCfg
  dsimp only
  rw [if_neg hst, hv, if_neg Bool.false_ne_true]
  exact if_neg (by rw [← cqFlagged, cqNamed_cqFlagged hr, hn]; exact Bool.false_ne_true)

theorem punit_cqStopping : punit (cqStopping s u r v) u =
    { punit s u with cq := (punit s u).cq.set r { cqOf s u r with st := .stopping } } := by
  unfold cqStopping
  rw [punit_wrF, setCq, punit_updUnit_same, punit_cqFlagged]

end

/-- R261: a completion ring that is enabled. -/
theorem cqEnable_starts {u : UnitRef} {r : Nat} {s : State} {w : Word} (hr : r < cqCount u) (hst : (cqOf s u r).st = .stopped)
    (hw : bit w 16 = true) {t : State} (ht : t = cqCfg s u r w) :
    rdF t (cqReg u r 2) 0 5 = bits w 0 5 ∧
      (if cqEnableOk (wrMask s (cqReg u r 2) 0x1F w) u r then
        cqOf t u r = ⟨.running, 0, 0⟩ ∧ bit (rd t (cqReg u r 2)) 16 = true
      else cqOf t u r = cqOf s u r ∧ bit (rd t (cqReg u r 5)) 5 = true) ∧
      (∀ q, q ≠ r → cqOf t u q = cqOf s u q) ∧ (punit t u).sq = (punit s u).sq ∧
      RegsBut [cqReg u r 2, cqReg u r 5] s t ∧ Touches [.regs, .units] s t := by
  subst ht
  have hlog : rdF (wrMask s (cqReg u r 2) 0x1F w) (cqReg u r 2) 0 5 = bits w 0 5 :=
    rdF_wrMask_in _ _ _ _ (by decide) (by decide)
  have hregs : RegsBut [cqReg u r 2, cqReg u r 5] s (wrMask s (cqReg u r 2) 0x1F w) := (RegsBut.refl _ s).wrMask _ _ (by simp)
  have htouch : Touches [.regs, .units] s (wrMask s (cqReg u r 2) 0x1F w) := wrMask_touches _ _ _ (by decide) (.refl _ s)
  by_cases hok : cqEnableOk (wrMask s (cqReg u r 2) 0x1F w) u r = true
  · rw [cqCfg_starts hst hw hok, if_pos hok, rdF_wrF_beside _ _ _ (.inl (by decide))]
    exact ⟨hlog, ⟨cqOf_setCq_same .., by rw [rd_wrF_same]; exact bit_put_b2n _ true (by decide)⟩,
      fun q hq => cqOf_setCq_ne _ _ _ _ hq, sq_setCq .., hregs.wr (t := setCq _ _ _ _) _ (by simp),
      wrF_touches _ _ _ _ (by decide) (setCq_touches _ _ _ (by decide) htouch)⟩
  · have hne : cqReg u r 2 ≠ cqReg u r 5 :=
      ringReg_ne (cq := true) (cq' := true) hr hr (by decide) (by decide) (by simp)
    have hkept : rd (cqCfgErr (wrMask s (cqReg u r 2) 0x1F w) u r) (cqReg u r 2) = rd (wrMask s (cqReg u r 2) 0x1F w) (cqReg u r 2) :=
      rd_setBits_ne _ _ hne
    rw [cqCfg_refuses hst hw hok, if_neg hok, rdF, hkept]
    exact ⟨hlog, ⟨rfl, bit_setBits _ _ (b := 5) (by decide)⟩, fun _ _ => rfl, rfl, hregs.trans (RegsBut.setBits _ _ (by simp)),
      cqCfgErr_touches _ _ (by decide) htouch⟩

/-- R261, R262: a completion ring that is disabled. -/
theorem cqDisable_stops {u : UnitRef} {r : Nat} {s : State} {w : Word} (hr : r < cqCount u) (hst : (cqOf s u r).st ≠ .stopped)
    (hw : bit w 16 = false) {t : State} (ht : t = cqCfg s u r w) :
    (if cqNamed s u r then cqOf t u r = cqOf s u r ∧ bit (rd t (cqReg u r 5)) 5 = true
      else cqOf t u r = { cqOf s u r with st := if cqRsv s u r = 0 then .stopped else .stopping } ∧
        bit (rd t (cqReg u r 2)) 16 = false) ∧
      (punit t u).ctxs = (punit s u).ctxs ∧
      RegsBut [cqReg u r 2, cqReg u r 5] s t ∧ Touches [.regs, .units] s t := by
  have hflag : RegsBut [cqReg u r 2, cqReg u r 5] s (cqFlagged s u r w) := cqFlagged_regs.mono (by simp)
  cases hn : cqNamed s u r with
  | true =>
    rw [cqCfg_keeps hr hst hw hn] at ht
    subst ht
    have hunit : punit (cqCfgErr (cqFlagged s u r w) u r) u = punit s u := punit_cqFlagged
    rw [if_pos rfl]
    exact ⟨⟨by rw [cqOf, hunit, cqOf], bit_setBits _ _ (b := 5) (by decide)⟩, by rw [hunit], hflag.trans (RegsBut.setBits _ _ (by simp)),
      cqCfgErr_touches _ _ (by decide) (cqFlagged_touches.mono (by decide))⟩
  | false =>
    have hunit := punit_cqStopping (s := s) (u := u) (r := r) (v := w)
    have hring : cqOf (cqStopping s u r w) u r = { cqOf s u r with st := .stopping } := by simp [cqOf, hunit]
    have hrsv : cqRsv (cqStopping s u r w) u r = cqRsv s u r := by simp only [cqRsv, hunit]
    rw [cqCfg_stops hr hst hw hn] at ht
    subst ht
    rw [if_neg Bool.false_ne_true]
    refine ⟨⟨?_, ?_⟩, by rw [ctxs_ringSettle, hunit], hflag.wr (t := setCq _ _ _ _) _ (by simp), ringSettle_touches _ (by decide)
      (wrF_touches _ _ _ _ (by decide) (setCq_touches _ _ _ (by decide) (cqFlagged_touches.mono (by decide))))⟩
    · rw [cqOf_ringSettle_eq, hring, hrsv]
      by_cases hdone : cqRsv s u r = 0
      · simp only [hdone, and_self, if_true]
      · simp only [hdone, and_false, if_false]
    · show bit (rd (wrF _ (cqReg u r 2) 16 1 0) (cqReg u r 2)) 16 = false
      rw [rd_wrF_same]
      exact bit_put_zero _ (by decide)

/-! ## An abort (R262) -/

section
variable {s : State} {c : Cell} {r id : Nat} {x : Ctx}

/-- The completion of an NI's only context, before the rings settle. -/
theorem finish_unsettled (h : (punit s (.ni c)).ctxs = [(id, x)]) (hrun : (cqOf s (.ni c) x.cq).st = .running)
    (hreport : (dNocomp x.desc && x.err.isNone) = false) :
    ∃ v k, finish s (.ni c) id = ringSettle v (.ni c) ∧ (cqOf v (.ni c) x.cq).st = .running ∧
      punit v (.ni c) = { punit s (.ni c) with ctxs := [], cq := k } := by
  have hcq : cqOf (freeCtx s (.ni c) id) (.ni c) x.cq = cqOf s (.ni c) x.cq := by simp only [cqOf, punit_freeCtx h]
  have hok : (cqOf (freeCtx s (.ni c) id) (.ni c) x.cq).st ≠ .error := by rw [hcq, hrun]; decide
  obtain ⟨k, hunit⟩ := cqWrite_unit (ent := cplEntry x) hok
  have hfinish := finish_ni h
  rw [hreport, if_neg Bool.false_ne_true] at hfinish
  refine ⟨_, k, hfinish, ?_, ?_⟩
  · rw [cqOf_telNi, cqWrite_ni hok, cqOf_setCq_same, hcq]
    exact hrun
  · rw [telNi, punit_telAdd, hunit, punit_freeCtx h]

/-- A descriptor that waits for a time is flushed with its ring. -/
theorem flushRing_waits {u : UnitRef} (h : (punit s u).ctxs = [(id, x)]) (hring : x.ring = r) (hst : x.st = .waiting)
    (hop : dOp x.desc = 7) : flushRing s u r = failCtx s u id 0xC 0 := by
  unfold flushRing
  simp only [h, List.filter_cons, List.filter_nil, hring, BEq.rfl, if_true, List.map_cons, List.map_nil, List.foldl_cons, List.foldl_nil]
  unfold flushCtx
  rw [ctxOf_only h]
  simp [hst, hop]

/-- No number of a completion ring makes its base or CFG a register of one of the cell's submission rings. -/
theorem cqReg_ne_sqReg (c : Cell) {q r i j : Nat} (hr : r < 16) (hj : j ≠ 0) (hj' : j < 8) : cqReg (.ni c) q i ≠ sqReg (.ni c) r j := by
  unfold cqReg sqReg cellReg regKey
  dsimp only
  rw [if_neg hj]
  omega

/-- R262: an abort of a ring whose only descriptor waits for a time: the descriptor's entry says FLUSHED, and the ring is STOPPED. -/
theorem sqAbort_flushes {w : Word} (hr : r < 16) (hst : (sqOf s (.ni c) r).st ≠ .stopped) (hctxs : (punit s (.ni c)).ctxs = [(id, x)])
    (hxr : x.ring = r) (hxst : x.st = .waiting) (hop : dOp x.desc = 7) (htodo : x.todo = []) (hout : x.out = 0) (hgood : x.err = none)
    (hstill : inFlight s (.ni c) id = false) (hrel : ∀ y, y ∈ (punit s (.ni c)).streams → y.2.relPend ≠ some id)
    (hrun : (cqOf s (.ni c) x.cq).st = .running) (howing : sqOwing s (.ni c) r = 0) (hw : bit w 16 = false ∧ bit w 17 = true)
    {t : State} (ht : t = sqCfg s (.ni c) r w) :
    (punit t (.ni c)).ctxs = [] ∧
      ((sqOf t (.ni c) r).st = .stopped ∧ (sqOf t (.ni c) r).pi = (sqOf s (.ni c) r).pi ∧ (sqOf t (.ni c) r).ci = (sqOf s (.ni c) r).ci) ∧
      bit (rd t (sqReg (.ni c) r 2)) 16 = false ∧ Posted s t (.ni c) x.cq (cplEntry { x with err := some (0xC, 0) }) ∧
      RegsBut [sqReg (.ni c) r 2, sqReg (.ni c) r 5] s t ∧ Touches [.mem, .regs, .units, .tx, .tel] s t := by
  let m := sqStopping s (.ni c) r w
  let y := erred x 0xC 0
  have hunit : punit m (.ni c) = { punit s (.ni c) with sq := (punit s (.ni c)).sq.set r { sqOf s (.ni c) r with st := .stopping } } :=
    punit_sqStopping
  have hmtouch : Touches [.regs, .units] s m := sqStopping_touches
  have hmctxs : (punit m (.ni c)).ctxs = [(id, x)] := by rw [hunit, hctxs]
  have hmcq : cqOf m (.ni c) x.cq = cqOf s (.ni c) x.cq := by simp only [cqOf, hunit]
  have hmstill : inFlight m (.ni c) id = false :=
    (inFlight_congr (hmtouch.stays .tx (by decide)) (by rw [hunit])).trans hstill
  have hmrel : ∀ z, z ∈ (punit m (.ni c)).streams → z.2.relPend ≠ some id := by rw [hunit]; exact hrel
  have hcoll : ¬ (dOp x.desc = 3 ∧ x.st = .waiting) := by simp [hop]
  obtain ⟨hpost, hregs, -, -⟩ := failCtx_lone hmctxs htodo hout hgood hmstill hmrel hcoll (by rw [hmcq, hrun]) 0xC 0
  obtain ⟨v, k, hfinish, hvrun, hvunit⟩ := finish_unsettled (s := setCtx m (.ni c) id y) (x := y) (ctxs_setCtx hmctxs)
    (by rw [← hrun, ← hmcq]; simp [cqOf, setCtx, y, erred]) (by simp [y, erred])
  have hfail : failCtx m (.ni c) id 0xC 0 = ringSettle v (.ni c) :=
    (failCtx_quiet (ctxOf_only hmctxs) htodo hout hmstill hmrel hcoll 0xC 0).trans hfinish
  have hvring : sqOf v (.ni c) r = { sqOf s (.ni c) r with st := .stopping } := by simp [sqOf, hvunit, setCtx, hunit]
  have hvdone : sqInexec v (.ni c) r + sqOwing v (.ni c) r = 0 := by
    have hcpl : sqOwing v (.ni c) r = sqOwing s (.ni c) r := by simp [sqOwing, hvunit, setCtx, hunit]
    rw [hcpl, howing]
    simp [sqInexec, hvunit]
  have hring : sqOf (ringSettle v (.ni c)) (.ni c) r = { sqOf s (.ni c) r with st := .stopped } := by
    rw [sqOf_ringSettle, hvring, if_pos ⟨rfl, hvdone⟩]
  have hcq : cqOf (ringSettle (ringSettle v (.ni c)) (.ni c)) (.ni c) x.cq = cqOf (ringSettle v (.ni c)) (.ni c) x.cq := by
    have hne : (cqOf v (.ni c) x.cq).st ≠ .stopping := by rw [show (cqOf v (.ni c) x.cq).st = .running from hvrun]; decide
    exact cqOf_ringSettle (by rw [cqOf_ringSettle hne]; exact hne)
  have hflush : t = ringSettle (ringSettle v (.ni c)) (.ni c) := by
    rw [ht, sqCfg_stops hst hw.1, hw.2, if_pos rfl, flushRing_waits hmctxs hxr hxst hop, hfail]
  rw [hfail] at hpost hregs
  have hrd (j : Nat) : rd t j = rd m j := by
    rw [hflush]
    exact congrArg (fun l => FMap.get l j (resetOf j)) hregs
  refine ⟨?_, ?_, by rw [hrd]; exact bit_sqStopping, ?_, fun j hj => (hrd j).trans (sqStopping_regs j hj), ?_⟩
  · rw [hflush, ctxs_ringSettle, ctxs_ringSettle, hvunit]
  · rw [hflush, sqOf_ringSettle, hring, if_neg (by simp)]
    exact ⟨rfl, rfl, rfl⟩
  · rw [hflush]
    refine (hpost.of_same (hmtouch.stays .mem (by decide)) hmcq fun i _ => ?_).to_same rfl hcq
    refine sqStopping_regs _ (List.not_mem_cons_of_ne_of_not_mem (cqReg_ne_sqReg c hr (by decide) (by decide))
      (List.not_mem_cons_of_ne_of_not_mem (cqReg_ne_sqReg c hr (by decide) (by decide)) List.not_mem_nil))
  · rw [ht]
    exact sqCfg_touches _ _ _ (by decide) (.refl _ s)

end

/-- R261: rings start. -/
theorem ringEnableStarts : Claim.RingEnableStarts := by
  have hset (v : Word) : bit (v ||| 0x10000) 16 = true := by rw [bit_or, show bit (0x10000 : Word) 16 = true by decide, Bool.or_true]
  have hkeep (v : Word) (lo len : Nat) (h0 : bits (0x10000 : Word) lo len = 0) : bits (v ||| 0x10000) lo len = bits v lo len := by
    rw [bits_or, h0, Nat.or_zero]
  refine fun g => ⟨fun u r v s hr h hst => ?_, fun u r v s hr h hst => ?_⟩
  · obtain ⟨row, hexec⟩ := ringBy_served (cq := false) hr (.inl rfl) g (v ||| 0x10000) h
    obtain ⟨hlog, hcq, hif, hothers, hkept, hregs, htouch⟩ := sqEnable_starts hr hst (hset v) rfl
    exact ⟨_, congrArg Host.Outcome.next hexec, answer_mgmt_status .., hlog.trans (hkeep _ _ _ (by decide)),
      hcq.trans (hkeep _ _ _ (by decide)), hif, hothers, hkept, hregs.answer, (htouch.mono (by decide)).answer (by decide)⟩
  · obtain ⟨row, hexec⟩ := ringBy_served (cq := true) hr (.inl rfl) g (v ||| 0x10000) h
    obtain ⟨hlog, hif, hothers, hkept, hregs, htouch⟩ := cqEnable_starts hr hst (hset v) rfl
    exact ⟨_, congrArg Host.Outcome.next hexec, answer_mgmt_status .., hlog.trans (hkeep _ _ _ (by decide)), hif, hothers, hkept,
      hregs.answer, (htouch.mono (by decide)).answer (by decide)⟩

/-- R262: rings stop. -/
theorem ringDisableStops : Claim.RingDisableStops := by
  have hclear (v : Word) (i : Nat) (h0 : bit (0xFFFCFFFF : Word) i = false) : bit (v &&& 0xFFFCFFFF) i = false := by
    rw [bit_and, h0, Bool.and_false]
  refine fun g => ⟨fun u r v s hr h hst => ?_, fun u r v s hr h hst => ?_⟩
  · obtain ⟨row, hexec⟩ := ringBy_served (cq := false) hr (.inl rfl) g (v &&& 0xFFFCFFFF) h
    obtain ⟨hring, hbit, hctxs, hregs, htouch⟩ := sqDisable_stops hst ⟨hclear v 16 (by decide), hclear v 17 (by decide)⟩ rfl
    exact ⟨_, congrArg Host.Outcome.next hexec, answer_mgmt_status .., hring, hbit, hctxs, hregs.answer,
      (htouch.mono (by decide)).answer (by decide)⟩
  · obtain ⟨row, hexec⟩ := ringBy_served (cq := true) hr (.inl rfl) g (v &&& 0xFFFCFFFF) h
    obtain ⟨hif, hctxs, hregs, htouch⟩ := cqDisable_stops hr hst (hclear v 16 (by decide)) rfl
    exact ⟨_, congrArg Host.Outcome.next hexec, answer_mgmt_status .., hif, hctxs, hregs.answer,
      (htouch.mono (by decide)).answer (by decide)⟩

/-- R262: an abort ends the WAIT_TIME that holds its ring. -/
theorem ringAbortFlushes : Claim.RingAbortFlushes := by
  intro g c r v s id x hr h hst hctxs hxr hxst hop htodo hout hgood hstill hrel hrun howing
  obtain ⟨row, hexec⟩ := ringBy_served (u := .ni c) (cq := false) hr (.inl rfl) g (v &&& 0xFFFCFFFF ||| 0x20000) h
  have h16 : bit (v &&& 0xFFFCFFFF ||| 0x20000) 16 = false := by
    rw [bit_or, bit_and, show bit (0xFFFCFFFF : Word) 16 = false by decide, show bit (0x20000 : Word) 16 = false by decide,
      Bool.and_false, Bool.or_false]
  have h17 : bit (v &&& 0xFFFCFFFF ||| 0x20000) 17 = true := by
    rw [bit_or, show bit (0x20000 : Word) 17 = true by decide, Bool.or_true]
  obtain ⟨hnone, ⟨hstopped, hpi, hci⟩, hbit, hpost, hregs, htouch⟩ := sqAbort_flushes (s := s) hr hst hctxs hxr hxst hop htodo hout hgood
    hstill hrel hrun howing ⟨h16, h17⟩ rfl
  exact ⟨_, congrArg Host.Outcome.next hexec, answer_mgmt_status .., hnone, hstopped, hpi, hci, hbit,
    hpost.to_same rfl rfl, hregs.answer, (htouch.mono (by decide)).answer (by decide)⟩

/-- Settles O17: rings start, stop and are aborted. -/
theorem ringControl : Obligations.RingControl := ⟨ringEnableStarts, ringDisableStops, ringAbortFlushes⟩

end Sys2Proof.Machine


/-! # SIGNAL and READ_REQ at a cell (R82, R84, R255, R258, R266) -/

namespace Sys2Proof.Machine

section
variable {s t : State} {c : Cell} {p : RxPkt}

/-- What has landed from a state whose command has taken its packet has landed from the state before, and a response built leaves it. -/
theorem landed_answered {ks : List Nat} {l : List RxPkt} (z : TxPkt) (h : Landed (withInbox s (.ni c) l) t c p ks) :
    Landed s (pushResp t (.ni c) z) c p ks := by
  have hs : punit (withInbox s (.ni c) l) (.ni c) = { punit s (.ni c) with inbox := l } := punit_updUnit_same ..
  have ht : punit (pushResp t (.ni c) z) (.ni c) = { punit t (.ni c) with resp := (punit t (.ni c)).resp ++ [z] } := punit_updUnit_same ..
  simp only [Landed, Entered, cqFree, cqRsv, entryAddr, ringBase, cqLog, cqOf, noticeRing, hs] at h
  simp only [Landed, Entered, cqFree, cqRsv, entryAddr, ringBase, cqLog, cqOf, noticeRing, ht]
  exact h

/-- R95, R255: a well-formed SIGNAL of plain form without a stream is checked, placed and acknowledged. -/
theorem signal_exec (ecc : Ecc) (h : Taken s (.ni c) 4 p) (hgood : malformed p.hdr p.welt = false) (hcmd : hCmd p.hdr = 4)
    (hm : hMcast p.hdr = false) (hstv : hStv p.hdr = false) :
    ∃ l, respFits (placeChecked (withInbox s (.ni c) l) c p) (.ni c) = true →
      exec (.signal (.ni c) ecc) s = .next (placeChecked (withInbox s (.ni c) l) c p) := by
  obtain ⟨l, hrun⟩ := onCmd_of_taken h
  have hni : niWrite (withInbox s (.ni c) l) c p ecc = placeChecked (withInbox s (.ni c) l) c p := by
    simp [niWrite, hgood, hcmd, strayCmd, hm, hstv]
  have hnext := hrun (fun s p => niWrite s c p ecc)
  rw [hni] at hnext
  exact ⟨l, fun hfits => congrArg Host.Outcome.next (hnext hfits)⟩

/-- R84, R255, R258: a SIGNAL that belongs to no stream. -/
theorem signalWritesNotice : Sys2Proof.Claim.SignalWritesNotice := by
  intro c ecc p s ht hgood hcmd hm hstv hcs
  obtain ⟨l, hexec⟩ := signal_exec ecc ht hgood hcmd hm hstv
  have hreplies := SameReplies.withInbox s (.ni c) l
  have hinbox {m : List Part} (hp : [.units] ⊆ m) : Touches m s (withInbox s (.ni c) l) := withInbox_touches hp
  cases hfit : sramFits p.hdr with
  | true =>
    have hland := land_only (c := c) hcs hm (.inr hcmd) (withInbox s (.ni c) l)
    have hresp := hland.resp.trans resp_withInbox
    rw [placeChecked_fits hfit] at hexec
    refine ⟨_, _, hexec (respFits_of_le ht.1 (by simp [hresp])), responded_ackPkt hresp hreplies,
      fun _ => ⟨landed_answered _ (landed_land hcs hm [] _), ackPkt_status .., fun hne => ?_⟩,
      fun hno => absurd hno (by decide), pushResp_touches _ _ (by decide) ((hinbox (by decide)).trans hland.touches)⟩
    rw [ackPkt_crc, placedCrc_plain hcs hm, if_neg hne]
  | false =>
    rw [placeChecked_beyond hfit] at hexec
    have honly := nack_only (c := c) (p := p) (withInbox s (.ni c) l) 16 8 1
    have hz := (responded_nack (c := c) (p := p) (withInbox s (.ni c) l) 16 8 1).of_same resp_withInbox hreplies
    exact ⟨_, _, hexec (respFits_of_le ht.1 (by rw [hz.1]; simp)), hz, fun hyes => absurd hyes (by decide),
      fun _ => ⟨honly.mem, ackPkt_status .., rdF_cntUp_same _ _ _ (by decide), honly.regs⟩,
      (hinbox (by decide)).trans ((nack_touches _ 16 8 1).mono (by decide))⟩

/-- R82, R84: what a cell builds of a READ_REQ. -/
def readReply (s : State) (c : Cell) (p : RxPkt) : State :=
  if hOff p.hdr + hInl p.hdr 40 12 ≤ Config.sramBytes then
    pushResp s (.ni c) (readDataPkt s p.hdr 0 (crc32c (memRead s c.key (hOff p.hdr) (hInl p.hdr 40 12)))
      (memRead s c.key (hOff p.hdr) (hInl p.hdr 40 12)) p.port)
  else pushResp (cntUp s (cellReg c 3 0x81C) 16 8 1) (.ni c) (readDataPkt s p.hdr 1 0 [] p.port)

/-- R82: a well-formed READ_REQ is answered at once. -/
theorem readReq_exec (h : Taken s (.ni c) 1 p) (hgood : malformed p.hdr p.welt = false) :
    ∃ l, respFits (readReply (withInbox s (.ni c) l) c p) (.ni c) = true →
      exec (.readReq (.ni c)) s = .next (readReply (withInbox s (.ni c) l) c p) := by
  obtain ⟨l, hrun⟩ := onCmd_of_taken h
  have hnext := hrun (fun s p => if malformed p.hdr p.welt then takeMalformed s (.ni c) p else readReply s c p)
  simp only [hgood, Bool.false_eq_true, if_false] at hnext
  exact ⟨l, fun hfits => congrArg Host.Outcome.next (hnext hfits)⟩

/-- R82, R84: a READ_REQ within a cell's SRAM, and one beyond it. -/
theorem readRequestAnswered : Sys2Proof.Claim.ReadRequestAnswered := by
  intro c p s ht hgood hcmd
  obtain ⟨l, hexec⟩ := readReq_exec ht hgood
  have hreplies := SameReplies.withInbox s (.ni c) l
  have hinbox : Touches [.regs, .units] s (withInbox s (.ni c) l) := withInbox_touches (by decide)
  unfold readReply at hexec
  split at hexec
  case isTrue hfit =>
    refine ⟨_, _, hexec (respFits_of_le ht.1 (by simp)), responded_readDataPkt (by simp) hreplies, ?_, .refl _ s,
      pushResp_touches _ _ (by decide) hinbox⟩
    rw [if_pos hfit]
    exact ⟨readDataPkt_status .., rfl, readDataPkt_crc .., .refl _ s⟩
  case isFalse hfit =>
    refine ⟨_, _, hexec (respFits_of_le ht.1 (by simp)), responded_readDataPkt (by simp) hreplies, ?_,
      .cntUp _ 16 8 1 List.mem_cons_self, pushResp_touches _ _ (by decide) (cntUp_touches _ _ _ _ (by decide) hinbox)⟩
    rw [if_neg hfit]
    exact ⟨readDataPkt_status .., rfl, rdF_cntUp_same _ _ _ (by decide)⟩

end

/-- Settles O40: a SIGNAL lands or is refused by whether it fits, and so is a READ_REQ answered. -/
theorem signalsAndReads : Obligations.SignalsAndReads := ⟨signalWritesNotice, readRequestAnswered⟩

end Sys2Proof.Machine


/-! # Mailboxes (R267) -/

namespace Sys2Proof.Machine

/-- A register of a mailbox, by its offset in the mailbox. -/
def mbxReg (g : GwId) (m o : Nat) : Nat := gwReg g 1 (0x2000 + 0x20 * m) + o

section
variable {g : GwId} {m : Nat}

theorem mbxReg_eq (g : GwId) (m o : Nat) : mbxReg g m o = gwReg g 1 (0x2000 + 0x20 * m + o) := Nat.add_assoc ..

theorem mbxReg_ne {i j : Nat} (h : i ≠ j) : mbxReg g m i ≠ mbxReg g m j := fun e => h (Nat.add_left_cancel e)

/-! ## A commit -/

/-- R267: a mailbox that holds a message. -/
def mbxFilled (s : State) (g : GwId) (m : Nat) (tag : Word) : Mbx :=
  { mbxOf s g m with
    ptr := BitVec.ofNat 64 ((rd s (mbxReg g m 0)).toNat + 4294967296 * (rd s (mbxReg g m 4)).toNat), tag := tag, full := true,
    cnt := ((mbxOf s g m).cnt + 1) % 65536 }

/-- A mailbox has been stored. -/
def setMbx (s : State) (g : GwId) (m : Nat) (x : Mbx) : State := updGw s g (fun y => { y with mbx := y.mbx.set m x })

@[simp] theorem mbxOf_setMbx_same (s : State) (x : Mbx) : mbxOf (setMbx s g m x) g m = x := by simp [mbxOf, setMbx]

theorem mbxOf_setMbx_ne {n : Nat} (s : State) (x : Mbx) (h : n ≠ m) : mbxOf (setMbx s g m x) g n = mbxOf s g n := by
  simp [mbxOf, setMbx, FMap.get_set_ne _ _ _ h]

theorem setMbx_touches (s : State) (x : Mbx) {ps : List Part} (hp : [.gws] ⊆ ps) : Touches ps s (setMbx s g m x) :=
  updGw_touches _ _ hp (.refl _ s)

/-- R267: a message overwrites one that waits. -/
theorem mailboxCommit_full (s : State) (tag : Word) (h : (mbxOf s g m).full = true) :
    mailboxCommit s g m tag =
      setBits (cntUp (setMbx s g m (mbxFilled s g m tag)) (mbxReg g m 0x18) 8 8 1) (mbxReg g m 0x18) 2 := by
  unfold mailboxCommit
  dsimp only
  rw [if_pos h]
  simp only [setMbx, mbxFilled, mbxReg, Nat.add_zero]

theorem mailboxCommit_empty (s : State) (tag : Word) (h : (mbxOf s g m).full = false) :
    mailboxCommit s g m tag = setMbx s g m (mbxFilled s g m tag) := by
  unfold mailboxCommit
  dsimp only
  rw [if_neg (by rw [h]; decide)]
  simp only [setMbx, mbxFilled, mbxReg, Nat.add_zero]

/-- What a commit leaves: the message, and the collision where one waited. -/
structure MailboxCommitted (s t : State) (g : GwId) (m : Nat) (tag : Word) : Prop where
  filled : mbxOf t g m = mbxFilled s g m tag
  flag : bit (rd t (mbxReg g m 0x18)) 1 = (bit (rd s (mbxReg g m 0x18)) 1 || (mbxOf s g m).full)
  count : rdF t (mbxReg g m 0x18) 8 8 = satAdd 255 (rdF s (mbxReg g m 0x18) 8 8) (b2n (mbxOf s g m).full)
  others : ∀ n, n ≠ m → mbxOf t g n = mbxOf s g n
  regs : RegsBut [mbxReg g m 0x18] s t
  touches : Touches [.regs, .gws] s t

theorem mailboxCommit_commits (s : State) (tag : Word) : MailboxCommitted s (mailboxCommit s g m tag) g m tag := by
  have hset := setMbx_touches (g := g) (m := m) s (mbxFilled s g m tag) (ps := [.regs, .gws]) (by decide)
  cases h : (mbxOf s g m).full with
  | true =>
    rw [mailboxCommit_full s tag h]
    refine ⟨mbxOf_setMbx_same .., ?_, ?_, fun n hn => mbxOf_setMbx_ne s _ hn, ?_, ?_⟩
    · rw [h, Bool.or_true]
      exact bit_setBits _ _ (b := 1) (by decide)
    · rw [h]
      exact (rdF_setBits_above _ _ (b := 1) (by decide)).trans (rdF_cntUp_same (setMbx s g m (mbxFilled s g m tag)) _ _ (by decide))
    · exact (RegsBut.cntUp (setMbx s g m (mbxFilled s g m tag)) 8 8 1 List.mem_cons_self).trans (.setBits _ _ List.mem_cons_self)
    · exact setBits_touches _ _ (by decide) (cntUp_touches _ _ _ _ (by decide) hset)
  | false =>
    have hlt : rdF s (mbxReg g m 0x18) 8 8 < 2 ^ 8 := bits_lt _ _ _
    rw [mailboxCommit_empty s tag h]
    refine ⟨mbxOf_setMbx_same .., ?_, ?_, fun n hn => mbxOf_setMbx_ne s _ hn, .refl _ s, hset⟩
    · rw [h, Bool.or_false]
      rfl
    · rw [h]
      exact (Nat.min_eq_right (Nat.le_of_lt_succ hlt)).symm

theorem toNat_mbxFilled_ptr (s : State) (tag : Word) : (mbxFilled s g m tag).ptr.toNat =
    (rd s (mbxReg g m 0)).toNat + 4294967296 * (rd s (mbxReg g m 4)).toNat := by
  have hlo := (rd s (mbxReg g m 0)).isLt
  have hhi := (rd s (mbxReg g m 4)).isLt
  rw [mbxFilled, BitVec.toNat_ofNat]
  exact Nat.mod_eq_of_lt (by omega)

/-! ## The tags' registers -/

/-- R267: of TX_TAG and RX_TAG no bit is cleared, by a one or by a read. -/
theorem mbxTagRow : ∀ m : Fin 16, ∀ o : Fin 2,
    (findRow hostRows (0x2000 + 0x20 * m + (8 + 4 * o.val))).any (fun w => w.w1c == 0 && w.rc == 0) = true := by
  decide +kernel

theorem rowOf_mbxTag (a : Fin 4) (b : Fin 2) (hm : m < 16) {o : Nat} (ho : o = 8 ∨ o = 12) :
    ∃ row, rowOf (mbxReg (.host a b) m o) = some row ∧ row.w1c = 0 ∧ row.rc = 0 := by
  have hrow : (findRow hostRows (0x2000 + 0x20 * m + o)).any (fun w => w.w1c == 0 && w.rc == 0) = true := by
    rcases ho with rfl | rfl
    · exact mbxTagRow ⟨m, hm⟩ 0
    · exact mbxTagRow ⟨m, hm⟩ 1
  obtain ⟨row, hget, hzero⟩ := (Option.any_eq_true _ _).1 hrow
  simp only [Bool.and_eq_true, beq_iff_eq] at hzero
  rw [mbxReg_eq, rowOf_gwReg _ (by decide) (by omega)]
  exact ⟨row, hget, hzero⟩

/-- R267: a write of TX_TAG commits. -/
theorem regWrite_txTag (s : State) (p : Path) (hh : Bool) (a : Fin 4) (b : Fin 2) (hm : m < 16) (tag : Word) :
    ∃ v, regWrite s p hh (mbxReg (.host a b) m 8) tag = mailboxCommit (wr s (mbxReg (.host a b) m 8) v) (.host a b) m tag := by
  obtain ⟨row, hrow, hclear, -⟩ := rowOf_mbxTag a b hm (.inl rfl)
  have hplain : tag &&& BitVec.ofNat 32 row.w1c = 0 := by rw [hclear]; exact BitVec.and_zero
  have hidx : (0x2000 + 0x20 * m + 8 - 0x2000) / 0x20 = m := by omega
  refine ⟨plainWrite row (rd s (mbxReg (.host a b) m 8)) tag, ?_⟩
  rw [mbxReg_eq] at hrow ⊢
  rw [regWrite_block hrow (absentPort_gw _ (by decide) (by omega)) hplain
      (by rw [keyDom_gwReg _ (by decide) (by omega)]; exact Nat.ne_of_lt (gw_dom_lt _)),
    blockWrite_gw _ _ _ _ _ _ (by decide) (by omega)]
  show meterWrite (hostWriteReg s (.host a b) _ _ row tag) (.host a b) _ tag = _
  rw [meterWrite_above _ _ (by omega) (by omega), hostWriteReg, if_neg (by omega), if_neg (by omega), if_pos (by omega), hidx]

/-! ## A read of a host port's own block -/

/-- R12, R267: what a read of a register of a host port's own block does besides. -/
theorem readEffect_host {s : State} {a : Fin 4} {b : Fin 2} {o : Nat} {row : RegRow} (ho : o < 65536)
    (hrow : rowOf (gwReg (.host a b) 1 o) = some row) : ∃ s1, (row.rc = 0 → s1 = s) ∧ Touches [.regs] s s1 ∧
      RegsBut [gwReg (.host a b) 1 o] s s1 ∧ regRead s false (gwReg (.host a b) 1 o) = (regValue s (gwReg (.host a b) 1 o),
        if 0x2000 ≤ o ∧ o % 0x20 = 0xC then mbxReceive s1 (.host a b) ((o - 0x2000) / 0x20) else s1) := by
  have hge := gw_dom_ge (.host a b)
  have hlt := gw_dom_lt (.host a b)
  have hd := keyDom_gwReg (.host a b) (b := 1) (by decide) ho
  refine ⟨if row.rc = 0 then s else wr s (gwReg (.host a b) 1 o) (afterRead row (rd s (gwReg (.host a b) 1 o))), fun h => if_pos h, ?_, ?_, ?_⟩
  · exact .ite (fun _ => .refl _ s) fun _ => wr_touches _ _ (by decide) (.refl _ s)
  · split
    · exact .refl _ s
    · exact (RegsBut.refl _ s).wr _ List.mem_cons_self
  · have hlast : lastTableRead s (gwReg (.host a b) 1 o) = s := if_neg (by rw [hd]; omega)
    have hlog : logHold s (gwReg (.host a b) 1 o) = none := if_neg (by rw [hd]; omega)
    have hread : regRead s false (gwReg (.host a b) 1 o) =
        (regValue s (gwReg (.host a b) 1 o), readEffect s (gwReg (.host a b) 1 o)) := by
      unfold regRead
      rw [if_neg Bool.false_ne_true, hlast]
      dsimp only
      rw [hlog]
      rfl
    rw [hread]
    unfold readEffect
    rw [hrow]
    simp only [hd, keyBlk_gwReg (.host a b) (b := 1) (by decide) ho, keyOff_gwReg (.host a b) (b := 1) (by decide) ho,
      keyCell_gwReg (.host a b) (b := 1) (by decide) ho, gwOfNum_num, absentPort_gw (.host a b) (b := 1) (by decide) ho]
    simp [hge, hlt, show ¬ GwId.dom (.host a b) = 52 by omega]

/-- R267: RX_TAG reads the tag. -/
theorem regValue_rxTag (s : State) (a : Fin 4) (b : Fin 2) (hm : m < 16) :
    regValue s (mbxReg (.host a b) m 12) = (mbxOf s (.host a b) m).tag := by
  obtain ⟨row, hrow, -⟩ := rowOf_mbxTag a b hm (.inr rfl)
  have ho : 0x2000 + 0x20 * m + 12 < 65536 := by omega
  have hge := gw_dom_ge (.host a b)
  have hlt := gw_dom_lt (.host a b)
  have hidx : (0x2000 + 0x20 * m + 12 - 0x2000) / 0x20 = m := by omega
  have hmod : (0x2000 + 0x20 * m + 12) % 0x20 = 12 := by omega
  have hd := keyDom_gwReg (.host a b) (b := 1) (by decide) ho
  rw [mbxReg_eq] at hrow ⊢
  have hlive : liveOnly (gwReg (.host a b) 1 (0x2000 + 0x20 * m + 12)) = true := by
    unfold liveOnly
    rw [hd, keyBlk_gwReg _ (by decide) ho, keyOff_gwReg _ (by decide) ho, hmod]
    simp [hge, hlt]
    omega
  have hmask : storedMask (gwReg (.host a b) 1 (0x2000 + 0x20 * m + 12)) = 0 := by
    unfold storedMask
    rw [if_neg (by rw [hd]; omega), if_pos hlive]
  rw [regValue_live (by rw [hrow]; rfl) (absentPort_gw _ (by decide) ho) hmask]
  have hbits : liveBits s (gwReg (.host a b) 1 (0x2000 + 0x20 * m + 12)) = (mbxOf s (.host a b) m).tag.toNat := by
    unfold liveBits
    rw [hd, keyCell_gwReg _ (by decide) ho, keyBlk_gwReg _ (by decide) ho, keyOff_gwReg _ (by decide) ho]
    simp only [if_neg (Nat.not_lt.2 hge), if_pos hlt, gwOfNum_num]
    show hostLive s (.host a b) (0x2000 + 0x20 * m + 12) = _
    unfold hostLive
    simp only [hidx, hmod]
    rw [if_neg (by omega), if_neg (by omega), if_neg (by omega), if_neg (by omega), if_neg (by omega), if_pos (by omega)]
  rw [hbits, BitVec.ofNat_toNat]
  exact BitVec.setWidth_eq _

/-- R267: a mailbox that has been emptied, with the pointer of its message latched. -/
def mbxEmptied (x : Mbx) : Mbx := { x with tag := 0, full := false, rxPtr := x.ptr }

/-- R267: a read of RX_TAG answers the tag and empties the mailbox. -/
theorem regRead_rxTag (s : State) (a : Fin 4) (b : Fin 2) (hm : m < 16) : regRead s false (mbxReg (.host a b) m 12) =
    ((mbxOf s (.host a b) m).tag, setMbx s (.host a b) m (mbxEmptied (mbxOf s (.host a b) m))) := by
  obtain ⟨row, hrow, -, hrc⟩ := rowOf_mbxTag a b hm (.inr rfl)
  have hvalue := regValue_rxTag s a b hm
  rw [mbxReg_eq] at hrow hvalue ⊢
  obtain ⟨s1, hkept, -, -, hread⟩ := readEffect_host (s := s) (by omega) hrow
  have hidx : (0x2000 + 0x20 * m + 12 - 0x2000) / 0x20 = m := by omega
  rw [hread, hvalue, if_pos (by omega), hidx, hkept hrc]
  rfl

end

/-- R267: a mailbox's messages come and go. -/
theorem mailboxMessages : Sys2Proof.Claim.MailboxMessages := by
  intro g h m s
  have hkey (n o : Nat) (hn : n = 0x2000 + o) : gwReg (hostGw h.val) 1 (n + 0x20 * m.val) = mbxReg (hostGw h.val) m.val o := by
    rw [mbxReg_eq]
    exact congrArg _ (by omega)
  rw [hkey 0x2008 8 rfl, hkey 0x2000 0 rfl, hkey 0x2004 4 rfl, hkey 0x2018 0x18 rfl, hkey 0x200C 12 rfl]
  have hbar (o : Nat) (ho : o < 0x20) : mbxReg (hostGw h.val) m.val o < barBase := by
    rw [mbxReg_eq]
    exact gwReg_lt_bar _ (by decide) (by omega)
  refine ⟨fun tag hserve => ?_, fun hserve => ?_⟩
  · obtain ⟨v, hwrite⟩ := regWrite_txTag s (.mgmt g) true (Fin.ofNat 4 (h.val / 2)) (Fin.ofNat 2 h.val) m.isLt tag
    have hexec : exec (.mailboxCommit (.mgmt g) h m tag) s = .next (writeBy s (.mgmt g) (mbxReg (hostGw h.val) m.val 8) tag) :=
      congrArg (fun k => Host.Outcome.next (writeBy s (.mgmt g) k tag)) (hkey 0x2008 8 rfl)
    rw [writeBy_mgmt g tag hserve (hbar 8 (by decide)), show regWrite s (.mgmt g) true (mbxReg (hostGw h.val) m.val 8) tag = _ from hwrite]
      at hexec
    have hkept (o : Nat) (ho : o ≠ 8) :
        rd (wr s (mbxReg (hostGw h.val) m.val 8) v) (mbxReg (hostGw h.val) m.val o) = rd s (mbxReg (hostGw h.val) m.val o) :=
      rd_wr_ne _ _ (mbxReg_ne ho)
    have hptr := toNat_mbxFilled_ptr (g := hostGw h.val) (m := m.val) (wr s (mbxReg (hostGw h.val) m.val 8) v) tag
    obtain ⟨hfilled, hflag, hcount, hothers, hregs, htouch⟩ :=
      mailboxCommit_commits (g := hostGw h.val) (m := m.val) (wr s (mbxReg (hostGw h.val) m.val 8) v) tag
    rw [hkept 0 (by decide), hkept 4 (by decide)] at hptr
    rw [hkept 0x18 (by decide)] at hflag
    rw [rdF, rdF, hkept 0x18 (by decide)] at hcount
    have hall : RegsBut [mbxReg (hostGw h.val) m.val 8, mbxReg (hostGw h.val) m.val 0x18] s
        (mailboxCommit (wr s (mbxReg (hostGw h.val) m.val 8) v) (hostGw h.val) m.val tag) :=
      ((RegsBut.refl _ s).wr v List.mem_cons_self).trans (hregs.mono (List.subset_cons_self ..))
    have htouched : Touches [.regs, .gws, .resp] s
        (mailboxCommit (wr s (mbxReg (hostGw h.val) m.val 8) v) (hostGw h.val) m.val tag) :=
      (wr_touches _ _ (by decide) (.refl _ s)).trans (htouch.mono (by decide))
    refine ⟨_, hexec, answer_mgmt_status .., congrArg Mbx.tag hfilled, congrArg Mbx.full hfilled, congrArg Mbx.cnt hfilled,
      (congrArg (fun x => x.ptr.toNat) hfilled).trans hptr, ?_, ?_, hothers, hall.answer, htouched.answer (by decide)⟩
    · rw [rd_answer]
      exact hflag
    · rw [rdF, rd_answer]
      exact hcount
  · have hexec : exec (.mailboxReceive (.mgmt g) h m) s = .next (readBy s (.mgmt g) (mbxReg (hostGw h.val) m.val 12)) :=
      congrArg (fun k => Host.Outcome.next (readBy s (.mgmt g) k)) (hkey 0x200C 12 rfl)
    have hread : regRead s false (mbxReg (hostGw h.val) m.val 12) =
        ((mbxOf s (hostGw h.val) m.val).tag, setMbx s (hostGw h.val) m.val (mbxEmptied (mbxOf s (hostGw h.val) m.val))) :=
      regRead_rxTag s (Fin.ofNat 4 (h.val / 2)) (Fin.ofNat 2 h.val) m.isLt
    rw [readBy_mgmt g hserve (hbar 12 (by decide)), hread] at hexec
    have hemptied := mbxOf_setMbx_same (g := hostGw h.val) (m := m.val) s (mbxEmptied (mbxOf s (hostGw h.val) m.val))
    exact ⟨_, hexec, respOf_answer_mgmt .., congrArg Mbx.full hemptied, congrArg Mbx.rxPtr hemptied,
      (congrArg Mbx.cnt hemptied).trans rfl, fun n hn => mbxOf_setMbx_ne s _ hn, RegsBut.answer fun _ _ => rfl,
      (setMbx_touches s _ (by decide)).answer (by decide)⟩

end Sys2Proof.Machine


/-! # Accesses of the local register port and of the BARs (R243, R278, R279, R402-R404, R432) -/

namespace Sys2Proof.Machine

/-! ## What a path has received -/

section
variable (s : State) (v : Via) (st c : Nat) (d : Option Word)

theorem respOf_answer : respOf (answer s v st c d) (viaNum v) = ⟨st, c, d.getD (respOf s (viaNum v)).data⟩ := by
  cases v <;> simp [respOf, answer]

theorem respOf_answer_ne {n : Nat} (h : n ≠ viaNum v) : respOf (answer s v st c d) n = respOf s n := by
  cases v <;> simp [respOf, answer, FMap.get_set_ne _ _ _ h]

/-- The local port and BAR0 keep nothing of an answer but what they receive. -/
theorem answer_loc_touches (x : Cell) : Touches [.resp] s (answer s (.loc x) st c d) := (Touches.refl _ s).set_resp _ (List.Subset.refl _)

theorem answer_bar0_touches (h : Nat) : Touches [.resp] s (answer s (.bar0 h) st c d) := (Touches.refl _ s).set_resp _ (List.Subset.refl _)

/-- BAR2 keeps also the status in HOST_CFG_STAT (R432). -/
theorem answer_bar2_touches (h : Nat) : Touches [.resp, .bar] s (answer s (.bar2 h) st c d) :=
  ((Touches.refl _ s).set_resp _ (by decide)).set_bar _ (by decide)

theorem bar_answer_bar2 (h : Nat) :
    (answer s (.bar2 h) st c d).bar.get h (0, 0) = ((s.bar.get h (0, 0)).1, BitVec.ofNat 32 (st + 4 * c)) := FMap.get_set_same ..

end

/-! ## An access that enters where none is held -/

/-- An access of a path as it enters. -/
def entering (v : Via) (k : Nat) (wr : Bool) (w : Word) : HeldAcc := { via := v, key := k, wr := wr, v := w, healthy := true }

/-- The paths of a cell and of a host. -/
def LocalOrHost (v : Via) : Prop := (∃ c, v = .loc c) ∨ (∃ h, v = .bar0 h) ∨ ∃ h, v = .bar2 h

section
variable {s t : State} {v : Via} {k : Nat} {wr : Bool} {w : Word}

theorem pathFull_nil (hh : s.held = []) (hv : LocalOrHost v) : pathFull s v = false := by
  obtain ⟨c, rfl⟩ | ⟨h, rfl⟩ | ⟨h, rfl⟩ := hv
  · rfl
  · rfl
  · simp [pathFull, hh]

/-- A request is its access, where none is held before or after. -/
theorem request_entering (hh : s.held = []) (hv : LocalOrHost v) (hacc : access s (entering v k wr w) = t) {m : List Part}
    (ht : Touches m s t) (hm : Part.held ∉ m) : request s (entering v k wr w) = t := by
  unfold request
  rw [show pathFull s (entering v k wr w).via = false from pathFull_nil hh hv, if_neg Bool.false_ne_true, hacc,
    serveHeld_nil ((ht.stays .held hm).trans hh)]

/-! ## What the views make of it -/

theorem judgeOwn_eq {base o : Nat} (ho : o < 65536) : judgeOwn base (base + o) =
    if (rowOf (base + o)).isNone then .nowhere else if uReg (base + o) then .passes else .denied := by
  have hin : inBlock base (base + o) = true := by simp [inBlock]; omega
  simp [judgeOwn, hin]

theorem isSome_of_uReg (h : uReg k = true) : (rowOf k).isSome = true := by
  unfold uReg at h
  cases hrow : rowOf k with
  | none => rw [hrow] at h; exact absurd h Bool.false_ne_true
  | some r => rfl

/-- A denied access is recorded, where the root has its supply (R402). -/
def denied (s : State) : State := if rootOn s then secErr (cntUp s (secReg 0xC) 16 16 1) 0x10 else s

theorem denyAcc_eq (a : HeldAcc) : denyAcc s a = answer (denied s) a.via (match a.via with
    | .loc _ => 0
    | _ => 3) 0 (dataIf a 0) := rfl

theorem denied_records (h : (dom s 52).st = .run) : bit (rd (denied s) (secReg 0xC)) 4 = true ∧
    rdF (denied s) (secReg 0xC) 16 16 = satAdd 65535 (rdF s (secReg 0xC) 16 16) 1 := by
  have hon : rootOn s = true := by simp [rootOn, h]
  rw [denied, if_pos hon]
  exact ⟨bit_setBits _ _ (b := 4) (by decide), (rdF_setBits_above _ _ (b := 4) (by decide)).trans (rdF_cntUp_same s _ _ (by decide))⟩

theorem denied_regs (s : State) : RegsBut [secReg 0xC] s (denied s) := by
  unfold denied
  split
  · exact (RegsBut.cntUp s 16 16 1 List.mem_cons_self).trans (.setBits _ _ List.mem_cons_self)
  · exact .refl _ s

theorem denied_touches (s : State) : Touches [.regs] s (denied s) :=
  .ite (fun _ => setBits_touches _ _ (by decide) (cntUp_touches _ _ _ _ (by decide) (.refl _ s))) fun _ => .refl _ s

/-! ## What the root does -/

/-- The root judges an access of a host where the service group serves (R363, R402). -/
theorem rootAcc_judges (hroot : (dom s 52).st = .run) (hv : (∃ h, v = .bar0 h) ∨ ∃ h, v = .bar2 h) :
    access s (entering v k wr w) = if judge s (entering v k wr w) = .denied then denyAcc s (entering v k wr w)
      else reachAcc s (judged s (entering v k wr w) (judge s (entering v k wr w))) := by
  have hsvc (own : Bool) : svcVerdict s own = .serve := by simp [svcVerdict, hroot]
  have hroot : rootVerdict s (entering v k wr w) = .serve := by
    obtain ⟨h, rfl⟩ | ⟨h, rfl⟩ := hv
    · exact hsvc _
    · exact hsvc _
  have hacc : access s (entering v k wr w) = rootAcc s (entering v k wr w) := by
    obtain ⟨h, rfl⟩ | ⟨h, rfl⟩ := hv
    · rfl
    · rfl
  rw [hacc, rootAcc, hroot]
  rfl

/-- A served access does what its register does, and is answered OK. -/
def servedAcc (s : State) (a : HeldAcc) : State := answer (effectAcc s a).2 a.via 0 0 (effectAcc s a).1

/-- An access that passes reaches a register that a domain in RUN serves. -/
theorem reachAcc_serves {a : HeldAcc} (hrow : (rowOf a.key).isSome = true) (hbar : a.key < barBase)
    (hserve : targetVerdict s a.key = .serve) (hgood : a.fate = .good) : reachAcc s a = servedAcc s a := by
  unfold reachAcc
  rw [if_neg (Nat.not_le.2 hbar), addrPasses_of_rowOf hrow, if_neg (by decide), if_neg (keyDom_lt_of_rowOf hrow), hserve]
  exact serveAcc_good hgood

/-- Where nothing lies the responder answers (R432). -/
theorem reachAcc_nowhere (a : HeldAcc) : reachAcc s (judged s a .nowhere) = barReg s (judged s a .nowhere) :=
  if_pos (by show barBase ≤ barBase + 0x20000; omega)

/-- No path of a cell or host only observes (R413). -/
theorem effectAcc_judged (hv : LocalOrHost v) :
    effectAcc s (judged s (entering v k wr w) .passes) = effectAcc s (entering v k wr w) := by
  obtain ⟨c, rfl⟩ | ⟨h, rfl⟩ | ⟨h, rfl⟩ := hv
  · rfl
  · rfl
  · rfl

end

/-! ## The paths of U registers (R243, R279) -/

/-- A path of U registers and the block that it reaches, which serves. -/
inductive OwnBlock (s : State) : Via → (Nat → Nat) → Prop where
  | loc (c : Cell) (h : (dom s c.field).st = .run) : OwnBlock s (.loc c) (cellReg c 3)
  | bar0 (h : Nat) (hroot : (dom s 52).st = .run) (hport : (dom s (hostGw h).dom).st = .run) : OwnBlock s (.bar0 h) (gwReg (hostGw h) 1)

section
variable {s : State} {v : Via} {reg : Nat → Nat} {o : Nat} {wr : Bool} {w : Word}

theorem OwnBlock.localOrHost (hb : OwnBlock s v reg) : LocalOrHost v := by
  cases hb with
  | loc c h => exact .inl ⟨c, rfl⟩
  | bar0 h hroot hport => exact .inr (.inl ⟨h, rfl⟩)

/-- Nothing of an answer is kept but what the path receives. -/
theorem OwnBlock.answer_touches (hb : OwnBlock s v reg) (t : State) (st c : Nat) (d : Option Word) :
    Touches [.resp] t (answer t v st c d) := by
  cases hb with
  | loc x h => exact answer_loc_touches t st c d x
  | bar0 h hroot hport => exact answer_bar0_touches t st c d h

theorem gwDom_serves (s : State) (g : GwId) (ho : o < 65536) (h : (dom s g.dom).st = .run) : targetVerdict s (gwReg g 1 o) = .serve := by
  have hd := keyDom_gwReg g (b := 1) (by decide) ho
  have hserve : domVerdict s g.dom = .serve := by simp [domVerdict, h]
  have hremap : isRemap (gwReg g 1 o) = false := by
    have := gw_dom_ge g
    simp [isRemap, hd]
    omega
  unfold targetVerdict
  rw [hremap, hd, if_pos ⟨gw_dom_lt g, rfl⟩, hserve]

theorem OwnBlock.judge (hb : OwnBlock s v reg) (ho : o < 65536) : judge s (entering v (reg o) wr w) =
    if (rowOf (reg o)).isNone then .nowhere else if uReg (reg o) then .passes else .denied := by
  cases hb with
  | loc c h =>
    have hoff : cellReg c 3 o = cellReg c 3 0 + o := by unfold cellReg regKey; omega
    have hown : Machine.judge s (entering (.loc c) (cellReg c 3 o) wr w) = judgeOwn (cellReg c 3 0) (cellReg c 3 o) := rfl
    rw [hown, hoff, judgeOwn_eq ho]
  | bar0 h hroot hport =>
    have hoff : gwReg (hostGw h) 1 o = gwReg (hostGw h) 1 0 + o := by unfold gwReg regKey; omega
    have hown : Machine.judge s (entering (.bar0 h) (gwReg (hostGw h) 1 o) wr w) = judgeOwn (gwReg (hostGw h) 1 0) (gwReg (hostGw h) 1 o) :=
      rfl
    rw [hown, hoff, judgeOwn_eq ho]

/-- An access of the local port where its cell is in RUN (R243). -/
theorem localAcc_judges {c : Cell} {k : Nat} (h : (dom s c.field).st = .run) (hk : k < barBase) :
    Machine.access s (entering (.loc c) k wr w) = match Machine.judge s (entering (.loc c) k wr w) with
      | .nowhere => answer s (.loc c) 0 0 (dataIf (entering (.loc c) k wr w) 0)
      | .denied => denyAcc s (entering (.loc c) k wr w)
      | .passes => servedAcc s (entering (.loc c) k wr w) := by
  have hserve : domVerdict s c.field = .serve := by simp [domVerdict, h]
  have hacc : Machine.access s (entering (.loc c) k wr w) = localAcc s c (entering (.loc c) k wr w) := rfl
  rw [hacc, localAcc, hserve]
  generalize hj : Machine.judge s (entering (.loc c) k wr w) = j
  cases j with
  | nowhere =>
    refine (if_neg (by simp [entering])).trans ((if_pos (by show barBase ≤ barBase + 0x20000; omega)).trans ?_)
    rfl
  | denied => rfl
  | passes =>
    refine (if_neg (by simp [entering])).trans ((if_neg (Nat.not_le.2 hk)).trans ((serveAcc_good rfl).trans ?_))
    rfl

/-- R243, R279, R402: what an access of a path of U registers comes to. -/
theorem OwnBlock.access (hb : OwnBlock s v reg) (ho : o < 65536) : access s (entering v (reg o) wr w) =
    if (rowOf (reg o)).isNone then answer s v 0 0 (dataIf (entering v (reg o) wr w) 0)
    else if uReg (reg o) then servedAcc s (entering v (reg o) wr w) else denyAcc s (entering v (reg o) wr w) := by
  have hjudge := hb.judge (wr := wr) (w := w) ho
  have hpath := hb.localOrHost
  by_cases hrow : (rowOf (reg o)).isNone = true
  · rw [if_pos hrow] at hjudge ⊢
    cases hb with
    | loc c h => rw [localAcc_judges h (cellReg_lt_bar c (by decide) ho), hjudge]
    | bar0 h hroot hport =>
      rw [rootAcc_judges hroot (.inl ⟨h, rfl⟩), hjudge]
      exact (if_neg (by decide)).trans (reachAcc_nowhere _)
  · rw [if_neg hrow] at hjudge ⊢
    by_cases hu : uReg (reg o) = true
    · rw [if_pos hu] at hjudge ⊢
      cases hb with
      | loc c h => rw [localAcc_judges h (cellReg_lt_bar c (by decide) ho), hjudge]
      | bar0 h hroot hport =>
        have hreach := reachAcc_serves (s := s) (a := judged s (entering (.bar0 h) (gwReg (hostGw h) 1 o) wr w) .passes)
          (isSome_of_uReg hu) (gwReg_lt_bar _ (by decide) ho) (gwDom_serves s _ ho hport) rfl
        rw [rootAcc_judges hroot (.inl ⟨h, rfl⟩), hjudge, if_neg (by decide), hreach, servedAcc, effectAcc_judged hpath]
        rfl
    · rw [if_neg hu] at hjudge ⊢
      cases hb with
      | loc c h => rw [localAcc_judges h (cellReg_lt_bar c (by decide) ho), hjudge]
      | bar0 h hroot hport =>
        rw [rootAcc_judges hroot (.inl ⟨h, rfl⟩), hjudge]
        exact if_pos rfl

/-! ## The three things that it may come to -/

/-- R243, R279: where no register lies a path reads zero, and its write is ignored. -/
theorem OwnBlock.request_nowhere (hb : OwnBlock s v reg) (hh : s.held = []) (ho : o < 65536) (hrow : rowOf (reg o) = none) :
    request s (entering v (reg o) wr w) = answer s v 0 0 (dataIf (entering v (reg o) wr w) 0) :=
  request_entering hh hb.localOrHost ((hb.access ho).trans (if_pos (by rw [hrow]; rfl))) (hb.answer_touches ..) (by decide)

/-- R243, R279, R402: a register that is not U is denied. -/
theorem OwnBlock.request_denied (hb : OwnBlock s v reg) (hh : s.held = []) (ho : o < 65536) (hrow : (rowOf (reg o)).isSome = true)
    (hu : uReg (reg o) = false) : request s (entering v (reg o) wr w) = denyAcc s (entering v (reg o) wr w) := by
  have hacc := hb.access (wr := wr) (w := w) ho
  rw [if_neg (by rw [Option.isNone_eq_false_iff.2 hrow]; decide), if_neg (by rw [hu]; decide)] at hacc
  exact request_entering hh hb.localOrHost hacc (denyAcc_touches _ (List.Subset.refl _) (.refl _ s)) (by decide)

/-- R243, R279: a U register is served. -/
theorem OwnBlock.request_passes (hb : OwnBlock s v reg) (hh : s.held = []) (ho : o < 65536) (hu : uReg (reg o) = true)
    {m : List Part} (ht : Touches m s (servedAcc s (entering v (reg o) wr w))) (hm : Part.held ∉ m) :
    request s (entering v (reg o) wr w) = servedAcc s (entering v (reg o) wr w) := by
  have hacc := hb.access (wr := wr) (w := w) ho
  rw [if_neg (by rw [Option.isNone_eq_false_iff.2 (isSome_of_uReg hu)]; decide), if_pos hu] at hacc
  exact request_entering hh hb.localOrHost hacc ht hm

/-- R234, R243, R279: a doorbell that a path of U registers writes is a doorbell. -/
theorem OwnBlock.request_doorbell (hb : OwnBlock s v reg) (hh : s.held = []) (ho : o < 65536) {u : UnitRef} {r : Nat}
    (hr : r < ringCount u false) (hreg : reg o = sqReg u r 3) (ha : SqAccepts s u r w) :
    request s (entering v (reg o) true w) = answer (setSq s u r { sqOf s u r with pi := w }) v 0 0 none := by
  obtain ⟨row, hwrite⟩ := regWrite_ring (u := u) (cq := false) hr (.inr rfl) s (viaPath v) true w
  obtain ⟨row', hrow, -, hu⟩ := rowOf_ringReg (u := u) (cq := false) hr (i := 3) (.inr rfl)
  have hureg : uReg (reg o) = true := by
    rw [hreg, uReg, show rowOf (sqReg u r 3) = some row' from hrow]
    exact hu rfl
  have hserved : servedAcc s (entering v (reg o) true w) = answer (setSq s u r { sqOf s u r with pi := w }) v 0 0 none := by
    rw [← sqDoorbell_accepted ha]
    have hstate : regWrite s (viaPath v) true (reg o) w = sqDoorbell s u r w := by rw [hreg]; exact hwrite
    show answer (regWrite s (viaPath v) true (reg o) w) v 0 0 none = _
    rw [hstate]
  rw [← hserved]
  refine hb.request_passes hh ho hureg (m := [.units, .resp]) ?_ (by decide)
  rw [hserved]
  exact Touches.trans (updUnit_touches _ _ (by decide) (.refl _ s)) ((hb.answer_touches ..).mono (by decide))

end

end Sys2Proof.Machine


/-! # The local register port and the BARs serve (R243, R278, R279, R402, R432) -/

namespace Sys2Proof.Machine

/-! ## Reads -/

section
variable {s : State}

/-- R12: a read of a cell's register that reads no word of NI_LAST_TABLE. -/
theorem regRead_quiet {k : Nat} {row : RegRow} (hd : keyDom k < 48) (hrow : rowOf k = some row) (hlast : lastTableRead s k = s) :
    ∃ t, regRead s false k = (regValue s k, t) ∧ RegsBut [k] s t ∧ Touches [.regs] s t := by
  have hlog : ¬ keyDom k = 52 := by omega
  have hband : ¬ 48 ≤ keyDom k := by omega
  refine ⟨if row.rc = 0 ∨ absentPort k = true then s else wr s k (afterRead row (rd s k)), ?_, ?_, ?_⟩
  · simp [regRead, hlast, logHold, readEffect, hrow, hlog, hband]
  · split
    · exact .refl _ s
    · exact (RegsBut.refl _ s).wr _ List.mem_cons_self
  · exact .ite (fun _ => .refl _ s) fun _ => wr_touches _ _ (by decide) (.refl _ s)

/-- R401: no register of NI_LAST_TABLE is in the U view. -/
theorem lastTableRow_u {o : Nat} {r : RegRow} (h : findRow niRows o = some r) (h1 : 0x5000 ≤ o) (h2 : o < 0x9000) : r.u = false := by
  have all : niRows.all (fun r => decide (0 < r.stride) &&
      (!r.u || decide (0x9000 ≤ r.base) || decide (r.base + r.count * r.stride ≤ 0x5000))) = true := by decide
  obtain ⟨hmem, hbase, -, hcount⟩ := findRow_spec h
  have hr := List.all_eq_true.1 all r hmem
  simp only [Bool.and_eq_true, Bool.or_eq_true, Bool.not_eq_true', decide_eq_true_eq] at hr
  obtain ⟨hstride, (hu | habove) | hbelow⟩ := hr
  · exact hu
  · omega
  · have hend : o - r.base < r.count * r.stride := (Nat.div_lt_iff_lt_mul hstride).1 hcount
    omega

/-- R243: a read of a U register of a cell's NI. -/
theorem regRead_niU {c : Cell} {o : Nat} (ho : o < 65536) (hu : uReg (cellReg c 3 o) = true) :
    ∃ t, regRead s false (cellReg c 3 o) = (regValue s (cellReg c 3 o), t) ∧ RegsBut [cellReg c 3 o] s t ∧ Touches [.regs] s t := by
  have hd := keyDom_cellReg c (b := 3) (by decide) ho
  obtain ⟨row, hrow, hrowU⟩ := (Option.any_eq_true _ _).1 hu
  have hfind : findRow niRows o = some row := (rowOf_cellReg c (by decide) ho).symm.trans hrow
  have hlast : lastTableRead s (cellReg c 3 o) = s := by
    refine if_neg fun hin => ?_
    rw [keyOff_cellReg c (by decide) ho] at hin
    obtain ⟨-, -, -, hlo, hhi⟩ := hin
    exact absurd hrowU (by rw [lastTableRow_u hfind hlo hhi]; decide)
  exact regRead_quiet (by rw [hd]; exact cell_field_lt c) hrow hlast

/-- R279: a read of a U register of a host port's own block. -/
theorem regRead_hostU {h o : Nat} (ho : o < 65536) (hrow : (rowOf (gwReg (hostGw h) 1 o)).isSome = true) :
    ∃ t, regRead s false (gwReg (hostGw h) 1 o) = (regValue s (gwReg (hostGw h) 1 o), t) ∧ Touches [.regs, .gws] s t := by
  obtain ⟨row, hrow⟩ := Option.isSome_iff_exists.1 hrow
  obtain ⟨s1, -, htouch, -, hread⟩ := readEffect_host (s := s) (a := Fin.ofNat 4 (h / 2)) (b := Fin.ofNat 2 h) ho hrow
  exact ⟨_, hread, .ite (fun _ => mbxReceive_touches _ _ (by decide) (htouch.mono (by decide))) fun _ => htouch.mono (by decide)⟩

end

/-! ## The local register port (R243, R402) -/

/-- A path that reads what a register says. -/
theorem OwnBlock.request_read {s t : State} {v : Via} {reg : Nat → Nat} {o : Nat} {w x : Word} (hb : OwnBlock s v reg) (hh : s.held = [])
    (ho : o < 65536) (hu : uReg (reg o) = true) (hread : regRead s false (reg o) = (x, t)) (ht : Touches [.regs, .gws] s t) :
    request s (entering v (reg o) false w) = answer t v 0 0 (some x) := by
  have hserved : servedAcc s (entering v (reg o) false w) = answer t v 0 0 (some x) := by
    show answer (regRead s false (reg o)).2 v 0 0 (some (regRead s false (reg o)).1) = _
    rw [hread]
  rw [← hserved]
  refine hb.request_passes hh ho hu (m := [.regs, .gws, .resp]) ?_ (by decide)
  rw [hserved]
  exact (ht.mono (by decide)).trans ((hb.answer_touches ..).mono (by decide))

/-- R234: a value between PI and CI + 2^n that does not pass 2^32 is accepted. -/
theorem sqAccepts_of_le {s : State} {u : UnitRef} {r : Nat} {d : Word} (hst : (sqOf s u r).st = .running)
    (hpi : (sqOf s u r).pi.toNat ≤ d.toNat) (hci : (sqOf s u r).ci.toNat ≤ (sqOf s u r).pi.toNat)
    (hd : d.toNat ≤ (sqOf s u r).ci.toNat + 2 ^ rdF s (sqReg u r 2) 0 5) : SqAccepts s u r d := by
  have hle : (sqOf s u r).ci.toNat ≤ d.toNat := hci.trans hpi
  refine ⟨hst, ?_, ?_⟩
  · rw [BitVec.toNat_sub_of_le hci, BitVec.toNat_sub_of_le hle]
    omega
  · rw [BitVec.toNat_sub_of_le hle]
    omega

/-- R243, R402: the local register port of a cell in RUN. -/
theorem localPortServes : Sys2Proof.Claim.LocalPortServes := by
  intro c s hrun hh
  have hb : OwnBlock s (.loc c) (cellReg c 3) := .loc c hrun
  have hexec (wr : Bool) (off : BitVec 16) (v : Word) :
      exec (.localPortAccess c wr off v) s = .next (request s (entering (.loc c) (cellReg c 3 off.toNat) wr v)) := rfl
  have hresp (t : State) (st k : Nat) (d : Option Word) :
      respOf (answer t (.loc c) st k d) (100 + c.key) = ⟨st, k, d.getD (respOf t (100 + c.key)).data⟩ := respOf_answer t (.loc c) st k d
  have hzero (off : BitVec 16) (v : Word) (wr : Bool) (t : State) (hr : wr = false) :
      (respOf (answer t (.loc c) 0 0 (dataIf (entering (.loc c) (cellReg c 3 off.toNat) wr v) 0)) (100 + c.key)).data = 0 := by
    rw [hresp, hr]
    rfl
  refine ⟨fun off v hu => ?_, fun wr off v hrow => ?_, fun wr off v hrow hu => ?_, fun r d hst hpi hci hd => ?_⟩
  · obtain ⟨t, hread, hregs, htouch⟩ := regRead_niU (s := s) off.isLt hu
    refine ⟨_, (hexec ..).trans (congrArg _ (hb.request_read hh off.isLt hu hread (htouch.mono (by decide)))), hresp .., hregs.answer,
      (htouch.mono (by decide)).trans ((hb.answer_touches ..).mono (by decide))⟩
  · refine ⟨_, (hexec ..).trans (congrArg _ (hb.request_nowhere hh off.isLt hrow)), by rw [hresp], hzero off v wr s, hb.answer_touches ..⟩
  · refine ⟨_, (hexec ..).trans (congrArg _ (hb.request_denied hh off.isLt hrow hu)), ?_, ?_, fun hroot => ?_, (denied_regs s).answer, ?_⟩
    · rw [denyAcc_eq]
      exact congrArg Resp.status (hresp ..)
    · exact hzero off v wr (denied s)
    · rw [denyAcc_eq, rdF, rd_answer]
      exact denied_records hroot
    · exact ((denied_touches s).mono (by decide)).trans ((hb.answer_touches ..).mono (by decide))
  · have hoff : (BitVec.ofNat 16 (0x20 * r.val + 8)).toNat = 0x20 * r.val + 8 := by
      rw [BitVec.toNat_ofNat]
      exact Nat.mod_eq_of_lt (by omega)
    have hreg : cellReg c 3 (0x20 * r.val + 8) = sqReg (.ni c) r.val 3 := rfl
    have hbell := hb.request_doorbell hh (o := 0x20 * r.val + 8) (by omega) (u := .ni c) r.isLt hreg (sqAccepts_of_le hst hpi hci hd)
    rw [← hoff] at hbell
    refine ⟨_, (hexec ..).trans (congrArg _ hbell), congrArg SqRing.pi (sqOf_setSq_same ..), RegsBut.answer fun _ _ => rfl, ?_⟩
    exact Touches.trans (updUnit_touches _ _ (by decide) (.refl _ s)) ((hb.answer_touches ..).mono (by decide))

end Sys2Proof.Machine


/-! # The BARs of a host port (R278, R279, R402, R432) -/

namespace Sys2Proof.Machine

/-! ## BAR2's views (R403, R432) -/

section
variable {s : State} {h k : Nat} {isWr : Bool} {w : Word}

theorem judge_bar2_noView (hview : effView s h = 0) : judge s (entering (.bar2 h) k isWr w) = .nowhere := by
  unfold judge
  exact if_pos hview

theorem judge_bar2_passes (hview : effView s h ≠ 0) (hreach : barBase ≤ k ∨ effView s h = 2 ∨ uReach s h k = true) :
    judge s (entering (.bar2 h) k isWr w) = .passes := by
  unfold judge
  exact (if_neg hview).trans (if_pos hreach)

theorem judge_bar2_denied (hview : effView s h = 1) (hk : k < barBase) (hreach : uReach s h k = false) :
    judge s (entering (.bar2 h) k isWr w) = .denied := by
  have hbeyond : ¬ (barBase ≤ k ∨ effView s h = 2 ∨ uReach s h k = true) := by
    have hlow := Nat.not_le.2 hk
    simp [hview, hreach, hlow]
  unfold judge
  exact (if_neg (by rw [hview]; decide)).trans (if_neg hbeyond)

/-- R432: the responder reads zero where it has no register. -/
theorem barReg_nowhere : barReg s (judged s (entering (.bar2 h) k false w) .nowhere) = answer s (.bar0 h) 0 0 (some 0) := by
  have hoff : barNowhere - barBase = 131072 := Nat.add_sub_cancel_left ..
  unfold barReg
  simp only [judged, entering, hoff]
  rfl

/-- R402, R403: without a view an access reads zero. -/
theorem bar2_request_noView (hroot : (dom s 52).st = .run) (hh : s.held = []) (hview : effView s h = 0) :
    request s (entering (.bar2 h) k false w) = answer s (.bar0 h) 0 0 (some 0) := by
  refine request_entering hh (.inr (.inr ⟨h, rfl⟩)) ?_ (answer_bar0_touches ..) (by decide)
  rw [rootAcc_judges hroot (.inr ⟨h, rfl⟩), judge_bar2_noView hview, if_neg (by decide), reachAcc_nowhere]
  exact barReg_nowhere

/-- R432: an access of the responder's own registers goes no further. -/
theorem bar2_access_own (hroot : (dom s 52).st = .run) (hview : effView s h ≠ 0) (hk : barBase ≤ k) :
    access s (entering (.bar2 h) k isWr w) = barReg s (judged s (entering (.bar2 h) k isWr w) .passes) := by
  rw [rootAcc_judges hroot (.inr ⟨h, rfl⟩), judge_bar2_passes hview (.inl hk), if_neg (by decide)]
  exact if_pos hk

/-- R432: HOST_CFG_WIN with a value. -/
def withWindow (s : State) (h : Nat) (w : Word) : State := { s with bar := s.bar.set h (w &&& 0x3FFFFF, (s.bar.get h (0, 0)).2) }

theorem bar2_request_writeWindow (hroot : (dom s 52).st = .run) (hh : s.held = []) (hview : effView s h ≠ 0) :
    request s (entering (.bar2 h) (barBase + 65536) true w) = answer (withWindow s h w) (.bar0 h) 0 0 none := by
  refine request_entering hh (.inr (.inr ⟨h, rfl⟩)) ?_ (m := [.resp, .bar]) ?_ (by decide)
  · rw [bar2_access_own hroot hview (Nat.le_add_right ..)]
    simp [barReg, judged, entering, withWindow]
  · exact ((Touches.refl _ s).set_bar _ (by decide)).trans ((answer_bar0_touches ..).mono (by decide))

theorem bar2_request_readWindow (hroot : (dom s 52).st = .run) (hh : s.held = []) (hview : effView s h ≠ 0) :
    request s (entering (.bar2 h) (barBase + 65536) false w) = answer s (.bar0 h) 0 0 (some (s.bar.get h (0, 0)).1) := by
  refine request_entering hh (.inr (.inr ⟨h, rfl⟩)) ?_ (answer_bar0_touches ..) (by decide)
  rw [bar2_access_own hroot hview (Nat.le_add_right ..)]
  simp [barReg, judged, entering]

/-- R402, R403: a register that a U view does not reach is denied. -/
theorem bar2_request_denied (hroot : (dom s 52).st = .run) (hh : s.held = []) (hview : effView s h = 1) (hk : k < barBase)
    (hreach : uReach s h k = false) : request s (entering (.bar2 h) k isWr w) = denyAcc s (entering (.bar2 h) k isWr w) := by
  refine request_entering hh (.inr (.inr ⟨h, rfl⟩)) ?_ (denyAcc_touches _ (List.Subset.refl _) (.refl _ s)) (by decide)
  rw [rootAcc_judges hroot (.inr ⟨h, rfl⟩), judge_bar2_denied hview hk hreach]
  exact if_pos rfl

/-- R403: a register of a domain in RUN is served to a P view. -/
theorem bar2_request_passes (hroot : (dom s 52).st = .run) (hh : s.held = []) (hview : effView s h = 2) (hk : k < barBase)
    (hrow : (rowOf k).isSome = true) (hserve : targetVerdict s k = .serve) {m : List Part}
    (ht : Touches m s (servedAcc s (entering (.bar2 h) k isWr w))) (hm : Part.held ∉ m) :
    request s (entering (.bar2 h) k isWr w) = servedAcc s (entering (.bar2 h) k isWr w) := by
  refine request_entering hh (.inr (.inr ⟨h, rfl⟩)) ?_ ht hm
  have hreach := reachAcc_serves (s := s) (a := judged s (entering (.bar2 h) k isWr w) .passes) hrow hk hserve rfl
  rw [rootAcc_judges hroot (.inr ⟨h, rfl⟩), judge_bar2_passes (by rw [hview]; decide) (.inr (.inl hview)),
    if_neg (by decide), hreach, servedAcc, effectAcc_judged (.inr (.inr ⟨h, rfl⟩))]
  rfl

theorem bar2_request_read {t : State} {x : Word} (hroot : (dom s 52).st = .run) (hh : s.held = []) (hview : effView s h = 2)
    (hk : k < barBase) (hrow : (rowOf k).isSome = true) (hserve : targetVerdict s k = .serve) (hread : regRead s false k = (x, t))
    (ht : Touches [.regs] s t) : request s (entering (.bar2 h) k false w) = answer t (.bar2 h) 0 0 (some x) := by
  have hserved : servedAcc s (entering (.bar2 h) k false w) = answer t (.bar2 h) 0 0 (some x) := by
    show answer (regRead s false k).2 (.bar2 h) 0 0 (some (regRead s false k).1) = _
    rw [hread]
  rw [← hserved]
  refine bar2_request_passes hroot hh hview hk hrow hserve (m := [.regs, .resp, .bar]) ?_ (by decide)
  rw [hserved]
  exact (ht.mono (by decide)).trans ((answer_bar2_touches ..).mono (by decide))

theorem winKey2_lt_bar (x : Word) {o : Nat} (ho : o < 65536) : winKey2 x o < barBase := by
  have hd : bits x 0 6 < 2 ^ 6 := bits_lt _ _ _
  have hc : bits x 6 11 < 2 ^ 11 := bits_lt _ _ _
  have hb : bits x 17 5 < 2 ^ 5 := bits_lt _ _ _
  unfold winKey2 regKey barBase
  omega

/-- R118: CELL_EPOCH with a value. -/
def withEpoch (s : State) (c : Cell) (w : Word) : State := wr s (cellReg c 1 0) (plainWrite cellEpochRow (rd s (cellReg c 1 0)) w)

theorem regWrite_cellEpoch (s : State) (p : Path) (hh : Bool) (c : Cell) (w : Word) : regWrite s p hh (cellReg c 1 0) w = withEpoch s c w := by
  have hrow : rowOf (cellReg c 1 0) = some cellEpochRow := (rowOf_cellReg c (by decide) (by decide)).trans rfl
  rw [regWrite_block hrow (absentPort_cell c (by decide) (by decide) (.inl (by decide))) BitVec.and_zero
      (by rw [keyDom_cellReg c (by decide) (by decide)]; exact Nat.ne_of_lt (Nat.lt_trans (cell_field_lt c) (by decide))),
    blockWrite_router _ _ _ _ _ _ (by decide) (by decide)]
  rfl

theorem cellDom_serves (s : State) (c : Cell) (hrun : (dom s c.field).st = .run) : targetVerdict s (cellReg c 1 0) = .serve := by
  have hd := keyDom_cellReg c (b := 1) (o := 0) (by decide) (by decide)
  have hremap : isRemap (cellReg c 1 0) = false := by
    simp [isRemap, keyBlk_cellReg c (b := 1) (o := 0) (by decide) (by decide)]
  have hserve : domVerdict s c.field = .serve := by simp [domVerdict, hrun]
  unfold targetVerdict
  rw [hremap, hd, if_pos ⟨Nat.lt_trans (cell_field_lt c) (by decide), rfl⟩, hserve]

/-- R118, R432: CELL_EPOCH written through a P view. -/
theorem bar2_request_writeEpoch {c : Cell} (hroot : (dom s 52).st = .run) (hh : s.held = []) (hview : effView s h = 2)
    (hrun : (dom s c.field).st = .run) :
    request s (entering (.bar2 h) (cellReg c 1 0) true w) = answer (withEpoch s c w) (.bar2 h) 0 0 none := by
  have hserved : servedAcc s (entering (.bar2 h) (cellReg c 1 0) true w) = answer (withEpoch s c w) (.bar2 h) 0 0 none := by
    show answer (regWrite s (viaPath (.bar2 h)) true (cellReg c 1 0) w) (.bar2 h) 0 0 none = _
    rw [regWrite_cellEpoch]
  have hrow : (rowOf (cellReg c 1 0)).isSome = true := by rw [rowOf_cellReg c (by decide) (by decide)]; rfl
  rw [← hserved]
  refine bar2_request_passes hroot hh hview (cellReg_lt_bar c (by decide) (by decide)) hrow (cellDom_serves s c hrun)
    (m := [.regs, .resp, .bar]) ?_ (by decide)
  rw [hserved]
  exact Touches.trans (wr_touches _ _ (by decide) (.refl _ s)) ((answer_bar2_touches ..).mono (by decide))

end

/-! ## The command (R278) -/

section
variable {s : State} {h : Fin 8} {bar2 : Bool} {off : BitVec 18} {v : Word}

/-- R278: an access that BAR2 or BAR0 holds is in the port. -/
theorem barAccess_inside (hin : bar2 = true ∨ off.toNat < 65536) : ¬ (bar2 = false ∧ 65536 ≤ off.toNat - off.toNat % 4) := by
  rintro ⟨rfl, hbeyond⟩
  have := hin.resolve_left Bool.false_ne_true
  omega

/-- R278: a write whose byte enables are not all set is ignored. -/
theorem barAccess_partial (hin : bar2 = true ∨ off.toNat < 65536) : exec (.barAccess h bar2 off true false false v) s = .next s :=
  (if_neg (barAccess_inside hin)).trans ((if_neg Bool.false_ne_true).trans (if_pos ⟨rfl, .inl rfl⟩))

/-- R278: an AtomicOp is answered Unsupported Request. -/
theorem barAccess_atomic {wr full : Bool} (hin : bar2 = true ∨ off.toNat < 65536) :
    exec (.barAccess h bar2 off wr full true v) s = .next (answer s (.bar0 h.val) 4 0 none) :=
  (if_neg (barAccess_inside hin)).trans (if_pos rfl)

/-- R278, R279: an access that the responder takes is one of the word that it begins in. -/
theorem barAccess_exec {wr full : Bool} (hin : bar2 = true ∨ off.toNat < 65536) (hwhole : wr = false ∨ (full = true ∧ off.toNat % 4 = 0)) :
    exec (.barAccess h bar2 off wr full false v) s = .next (request s (barAcc s h.val bar2 (off.toNat - off.toNat % 4) wr v)) := by
  have hpart : ¬ (wr = true ∧ (full = false ∨ off.toNat % 4 ≠ 0)) := by
    rintro ⟨rfl, hpart⟩
    obtain ⟨rfl, hword⟩ := hwhole.resolve_left (by decide)
    exact hpart.elim (by decide) (fun hne => hne hword)
  exact (if_neg (barAccess_inside hin)).trans ((if_neg Bool.false_ne_true).trans (if_neg hpart))

theorem barAcc_bar2 (hh : s.held = []) (o : Nat) (wr : Bool) : barAcc s h.val true o wr v =
    entering (.bar2 h.val) (if o < 65536 then winKey2 (s.bar.get h.val (0, 0)).1 o else barBase + o) wr v := by
  simp [barAcc, barWindow, hh, entering]

theorem barAcc_bar0 (o : Nat) (wr : Bool) : barAcc s h.val false o wr v = entering (.bar0 h.val) (gwReg (hostGw h.val) 1 o) wr v := by
  have hoff : hostBlock h.val + o = gwReg (hostGw h.val) 1 o := by unfold hostBlock gwReg regKey; omega
  simp [barAcc, entering, hoff]

end

/-! ## What BAR0 and BAR2 serve -/

section
variable {h : Fin 8} {s : State}

theorem hostBlock_add (h : Nat) (o : Nat) : hostBlock h + o = gwReg (hostGw h) 1 o := by unfold hostBlock gwReg regKey; omega

theorem respOf_answer_bar0 (t : State) (h st c : Nat) (d : Option Word) :
    respOf (answer t (.bar0 h) st c d) (33 + h) = ⟨st, c, d.getD (respOf t (33 + h)).data⟩ := respOf_answer t (.bar0 h) st c d

theorem respOf_answer_bar2 (t : State) (h st c : Nat) (d : Option Word) :
    respOf (answer t (.bar2 h) st c d) (33 + h) = ⟨st, c, d.getD (respOf t (33 + h)).data⟩ := respOf_answer t (.bar2 h) st c d

/-- R279, R402: BAR0's reads. -/
theorem bar0_reads (hb : OwnBlock s (.bar0 h.val) (gwReg (hostGw h.val) 1)) (hroot : (dom s 52).st = .run) (hh : s.held = [])
    {off : BitVec 18} (full : Bool) (v : Word) (ho : off.toNat < 65536) (h4 : off.toNat % 4 = 0) :
    (uReg (hostBlock h.val + off.toNat) = true →
      ∃ t, exec (.barAccess h false off false full false v) s = .next t ∧
        respOf t (33 + h.val) = ⟨0, 0, regValue s (hostBlock h.val + off.toNat)⟩ ∧ Touches [.regs, .gws, .resp] s t) ∧
    (rowOf (hostBlock h.val + off.toNat) = none →
      ∃ t, exec (.barAccess h false off false full false v) s = .next t ∧ respOf t (33 + h.val) = ⟨0, 0, 0⟩ ∧
        Touches [.resp] s t) ∧
    ((rowOf (hostBlock h.val + off.toNat)).isSome = true → uReg (hostBlock h.val + off.toNat) = false →
      ∃ t, exec (.barAccess h false off false full false v) s = .next t ∧ respOf t (33 + h.val) = ⟨3, 0, 0⟩ ∧
        bit (rd t (secReg 0xC)) 4 = true ∧ RegsBut [secReg 0xC] s t ∧ Touches [.regs, .resp] s t) := by
  have hexec := barAccess_exec (s := s) (h := h) (bar2 := false) (off := off) (v := v) (wr := false) (full := full) (.inr ho) (.inl rfl)
  rw [h4, Nat.sub_zero, barAcc_bar0] at hexec
  rw [hostBlock_add]
  refine ⟨fun hu => ?_, fun hrow => ?_, fun hrow hu => ?_⟩
  · obtain ⟨t, hread, htouch⟩ := regRead_hostU (s := s) (h := h.val) ho (isSome_of_uReg hu)
    exact ⟨_, hexec.trans (congrArg _ (hb.request_read hh ho hu hread htouch)), respOf_answer_bar0 ..,
      (htouch.mono (by decide)).trans ((hb.answer_touches ..).mono (by decide))⟩
  · exact ⟨_, hexec.trans (congrArg _ (hb.request_nowhere hh ho hrow)), respOf_answer_bar0 .., hb.answer_touches ..⟩
  · refine ⟨_, hexec.trans (congrArg _ (hb.request_denied hh ho hrow hu)), respOf_answer_bar0 .., ?_, (denied_regs s).answer,
      ((denied_touches s).mono (by decide)).trans ((hb.answer_touches ..).mono (by decide))⟩
    rw [denyAcc_eq, rd_answer]
    exact (denied_records hroot).1

/-- R234, R279: a doorbell through BAR0. -/
theorem bar0_rings (hb : OwnBlock s (.bar0 h.val) (gwReg (hostGw h.val) 1)) (hh : s.held = []) {r : Fin 64} {off : BitVec 18} {d : Word}
    (hoff : hostBlock h.val + off.toNat = sqReg (.gw (hostGw h.val)) r.val 3) (ha : SqAccepts s (.gw (hostGw h.val)) r.val d) :
    ∃ t, exec (.barAccess h false off true true false d) s = .next t ∧ (respOf t (33 + h.val)).status = 0 ∧
      (sqOf t (.gw (hostGw h.val)) r.val).pi = d ∧ RegsBut [] s t ∧ Touches [.regs, .units, .resp] s t := by
  have hreg : gwReg (hostGw h.val) 1 off.toNat = gwReg (hostGw h.val) 1 (0x1000 + 0x20 * r.val + 4 * 3) :=
    (hostBlock_add h.val off.toNat).symm.trans (hoff.trans (ringReg_gw (hostGw h.val) false r.val 3))
  have ho : off.toNat = 0x1000 + 0x20 * r.val + 4 * 3 := by
    unfold gwReg regKey at hreg
    omega
  have hexec := barAccess_exec (s := s) (h := h) (bar2 := false) (off := off) (v := d) (wr := true) (full := true) (.inr (by omega))
    (.inr ⟨rfl, by omega⟩)
  rw [show off.toNat % 4 = 0 by omega, Nat.sub_zero, barAcc_bar0] at hexec
  have hbell := hb.request_doorbell hh (o := off.toNat) (by omega) (u := .gw (hostGw h.val)) r.isLt
    ((hostBlock_add h.val off.toNat).symm.trans hoff) ha
  refine ⟨_, hexec.trans (congrArg _ hbell), congrArg Resp.status (respOf_answer_bar0 ..), congrArg SqRing.pi (sqOf_setSq_same ..),
    RegsBut.answer fun _ _ => rfl, ?_⟩
  exact Touches.trans (updUnit_touches _ _ (by decide) (.refl _ s)) ((hb.answer_touches ..).mono (by decide))

/-- R402, R403, R432: what a view makes of a read through BAR2's window. -/
theorem bar2_reads (hroot : (dom s 52).st = .run) (hh : s.held = []) {off : BitVec 18} (full : Bool) (v : Word) {k : Nat}
    (ho : off.toNat < 65536) (h4 : off.toNat % 4 = 0) (hk : k = winKey2 (s.bar.get h.val (0, 0)).1 off.toNat) (hd : keyDom k < 48)
    (hrow : (rowOf k).isSome = true) (hserve : targetVerdict s k = .serve) (hlast : lastTableRead s k = s) :
    (effView s h.val = 2 →
      ∃ t, exec (.barAccess h true off false full false v) s = .next t ∧ respOf t (33 + h.val) = ⟨0, 0, regValue s k⟩ ∧
        t.bar.get h.val (0, 0) = ((s.bar.get h.val (0, 0)).1, 0) ∧ RegsBut [k] s t ∧ Touches [.regs, .resp, .bar] s t) ∧
    (effView s h.val = 1 → uReach s h.val k = false →
      ∃ t, exec (.barAccess h true off false full false v) s = .next t ∧ respOf t (33 + h.val) = ⟨3, 0, 0⟩ ∧
        t.bar.get h.val (0, 0) = ((s.bar.get h.val (0, 0)).1, 3) ∧ bit (rd t (secReg 0xC)) 4 = true ∧
        RegsBut [secReg 0xC] s t ∧ Touches [.regs, .resp, .bar] s t) := by
  have hexec := barAccess_exec (s := s) (h := h) (bar2 := true) (off := off) (v := v) (wr := false) (full := full) (.inl rfl) (.inl rfl)
  rw [h4, Nat.sub_zero, barAcc_bar2 hh, if_pos ho, ← hk] at hexec
  have hbar : k < barBase := hk ▸ winKey2_lt_bar _ ho
  refine ⟨fun hview => ?_, fun hview hreach => ?_⟩
  · obtain ⟨row, hrow'⟩ := Option.isSome_iff_exists.1 hrow
    obtain ⟨t, hread, hregs, htouch⟩ := regRead_quiet hd hrow' hlast
    refine ⟨_, hexec.trans (congrArg _ (bar2_request_read hroot hh hview hbar hrow hserve hread htouch)), respOf_answer_bar2 .., ?_,
      hregs.answer, (htouch.mono (by decide)).trans ((answer_bar2_touches ..).mono (by decide))⟩
    rw [bar_answer_bar2, htouch.stays .bar (by decide)]
    rfl
  · refine ⟨_, hexec.trans (congrArg _ (bar2_request_denied hroot hh hview hbar hreach)), respOf_answer_bar2 .., ?_, ?_,
      (denied_regs s).answer, ((denied_touches s).mono (by decide)).trans ((answer_bar2_touches ..).mono (by decide))⟩
    · rw [denyAcc_eq]
      refine (bar_answer_bar2 ..).trans ?_
      rw [(denied_touches s).stays .bar (by decide)]
      rfl
    · rw [denyAcc_eq, rd_answer]
      exact (denied_records hroot).1

end

/-- R278, R279, R402, R432: the BARs. -/
theorem barAccessServes : Sys2Proof.Claim.BarAccessServes := by
  intro h s hroot hh
  have hown (hport : (dom s (hostGw h.val).dom).st = .run) : OwnBlock s (.bar0 h.val) (gwReg (hostGw h.val) 1) := .bar0 _ hroot hport
  have hwindow {wr full : Bool} (v : Word) (hwhole : wr = false ∨ full = true) : exec (.barAccess h true 65536 wr full false v) s =
      .next (request s (entering (.bar2 h.val) (barBase + 65536) wr v)) :=
    (barAccess_exec (.inl rfl) (hwhole.imp_right fun hfull => ⟨hfull, rfl⟩)).trans
      (congrArg (fun a => Host.Outcome.next (request s a)) (barAcc_bar2 hh 65536 wr))
  refine ⟨fun bar2 off v hin => ?_, fun bar2 off wr full v hin => ?_, fun off full v ho h4 hport => ?_, fun off full v hview => ?_,
    fun v hview => ?_, fun full v hview => ?_, fun r off d hoff hport hst hpi hci hd => ?_,
    fun off full v k ho h4 hk hd hrow hserve hlast => ?_, fun off v c ho h4 hk hrun hview => ?_⟩
  · exact barAccess_partial hin
  · exact ⟨_, barAccess_atomic hin, congrArg Resp.status (respOf_answer_bar0 ..), answer_bar0_touches ..⟩
  · exact bar0_reads (hown hport) hroot hh full v ho h4
  · refine ⟨_, (barAccess_exec (.inl rfl) (.inl rfl)).trans (congrArg _ ((congrArg _ (barAcc_bar2 hh _ false)).trans
      (bar2_request_noView hroot hh hview))), respOf_answer_bar0 .., fun n hn => respOf_answer_ne _ _ _ _ _ hn,
      (answer_bar0_touches ..).mono (by decide)⟩
  · refine ⟨_, (hwindow v (.inr rfl)).trans (congrArg _ (bar2_request_writeWindow hroot hh hview)), ?_, fun g hg => ?_, ?_⟩
    · exact congrArg Prod.fst (FMap.get_set_same ..)
    · exact FMap.get_set_ne _ _ _ hg
    · exact ((Touches.refl _ s).set_bar _ (by decide)).trans ((answer_bar0_touches ..).mono (by decide))
  · exact ⟨_, (hwindow v (.inl rfl)).trans (congrArg _ (bar2_request_readWindow hroot hh hview)), respOf_answer_bar0 ..,
      answer_bar0_touches ..⟩
  · exact bar0_rings (hown hport) hh hoff (sqAccepts_of_le hst hpi hci hd)
  · exact bar2_reads hroot hh full v ho h4 hk hd hrow hserve hlast
  · have hexec := barAccess_exec (s := s) (h := h) (bar2 := true) (off := off) (v := v) (wr := true) (full := true) (.inl rfl)
      (.inr ⟨rfl, h4⟩)
    rw [h4, Nat.sub_zero, barAcc_bar2 hh, if_pos ho, ← hk] at hexec
    refine ⟨_, hexec.trans (congrArg _ (bar2_request_writeEpoch hroot hh hview hrun)), congrArg Resp.status (respOf_answer_bar2 ..), ?_,
      (bar_answer_bar2 ..).trans rfl, ((RegsBut.refl _ s).wr _ List.mem_cons_self).answer, ?_⟩
    · rw [rdF, rd_answer, withEpoch, rd_wr_same, bits_plainWrite _ _ _ (by decide) (by decide)]
    · exact Touches.trans (wr_touches _ _ (by decide) (.refl _ s)) ((answer_bar2_touches ..).mono (by decide))

/-- Settles O18: mailboxes, the local register port and the BARs, each by the path that its accesses take. -/
theorem hostWindows : Obligations.HostWindows := ⟨mailboxMessages, localPortServes, barAccessServes⟩

end Sys2Proof.Machine
